-- ==== Sys2Proof/Word.lean ====
section
/-! DEFINITION. Words, operand widths and sparse maps: the plain data every other file is written over. Widths are those
the rules name: 12-bit ring numbers (R506), 17-bit stream numbers (R47), 6-bit partitions (R477), 10-bit logical plots
(R154), 11-bit physical plot indices (R608), 48-bit MAS addresses (R379). -/

namespace Sys2Proof

/-- A byte of storage. -/
abbrev Byte := BitVec 8
/-- A 32-bit word: a runnel register, a token counter, a binary32 code. -/
abbrev Word := BitVec 32
/-- A 64-bit word: a register of the privileged view, an instruction word of a stream. -/
abbrev DWord := BitVec 64

/-- Ring number (R506). -/
abbrev RingNo := BitVec 12
/-- Sequence number (R41). -/
abbrev Seq := BitVec 32
/-- Partition number (R477). -/
abbrev PartNo := BitVec 6
/-- Physical plot index 32·PX + PY (R608); values from 1,056 name no plot. -/
abbrev PPlot := BitVec 11
/-- Logical plot number 32·y + x (R154). -/
abbrev LPlot := BitVec 10
/-- Reach number (R18). -/
abbrev ReachNo := BitVec 4
/-- Stream number (R47). -/
abbrev StreamNo := BitVec 17
/-- Tenant number (R563). -/
abbrev TenantNo := BitVec 6

/-- A map held as a list of key and value pairs in rising key order; a key it does not list has the map's default. -/
abbrev Sparse (α : Type) := List (Nat × α)

end Sys2Proof
end

