-- ==== Sys2Proof/Syntax.lean ====
section
/-! DEFINITION. The commands of the block: one constructor of `Instr` for each row of spec/opcode_table.json, with the
operands the row's rule gives it. An operation of the host interface is named by its ring and sequence number (R511):
its fields are those of the descriptor the fetch placed in the state. A stream word carries its decoded fields
(R162, R164, R165). What the outside world supplies (host data, sensor samples, what a bitstream holds, whether a
signature verifies) is an operand. -/

namespace Sys2Proof

/-- The two word streams of a plot (R144). -/
inductive StreamSel where
  | flume
  | furrow
  deriving DecidableEq, Repr

/-- A link that carries flits: a Dexlink half (R524) or a Confluence port (R441). -/
inductive Link where
  | dex (half : BitVec 1)
  | cf (port : BitVec 3)
  deriving DecidableEq, Repr

/-- Fields of a PASS word (R162). -/
structure PassWord where
  aslot : BitVec 3
  at_ : Bool
  bslot : BitVec 4
  bt : Bool
  dst : BitVec 4
  overwrite : Bool
  relA : Bool
  relB : Bool
  sig : Bool
  sigc : BitVec 6
  deriving DecidableEq, Repr

/-- Fields of a FILL word (R162). -/
structure FillWord where
  bank : Bool
  slot : BitVec 4
  desc : BitVec 12
  usep : Bool
  preg : BitVec 4
  fillc : BitVec 6
  deriving DecidableEq, Repr

/-- Fields of a RELEASE word (R164). -/
structure ReleaseWord where
  rmask : BitVec 8
  bmask : BitVec 16
  amask : BitVec 16
  deriving DecidableEq, Repr

/-- Fields of a NEST word (R164). -/
structure NestWord where
  nest : BitVec 12
  usep : Bool
  preg : BitVec 4
  deriving DecidableEq, Repr

/-- Fields of a WAIT word (R164). -/
structure WaitWord where
  ctr : BitVec 6
  value : Word
  deriving DecidableEq, Repr

/-- Fields of a SIGNAL word (R164). -/
structure SignalWord where
  ctr : BitVec 6
  lplot : LPlot
  remote : Bool
  inc : BitVec 8
  deriving DecidableEq, Repr

/-- Fields of a LAYER word (R164). -/
structure LayerWord where
  isEnd : Bool
  layer : BitVec 8
  deriving DecidableEq, Repr

/-- Fields of a furrow compute word (R165), its OP and FOP apart. -/
structure FurrowWord where
  src1 : BitVec 4
  src2 : BitVec 4
  dst : BitVec 4
  fmt : BitVec 4
  sr : Bool
  calib : Bool
  x : BitVec 8
  sig : Bool
  sigc : BitVec 6
  rel1 : Bool
  desc : BitVec 12
  usep : Bool
  preg : BitVec 4
  deriving DecidableEq, Repr

/-- One word of a flume or furrow stream, decoded (R161). A furrow compute word keeps its OP and FOP as codes. -/
inductive StreamWord where
  | nop
  | pass (w : PassWord)
  | release (w : ReleaseWord)
  | fill (w : FillWord)
  | nest (w : NestWord)
  | wait (w : WaitWord)
  | signal (w : SignalWord)
  | layer (w : LayerWord)
  | compute (op : BitVec 4) (fop : BitVec 6) (w : FurrowWord)
  | ret
  | end_
  deriving DecidableEq, Repr

/-- Who makes a register access (R605). -/
inductive AccessSource where
  | operator
  | tenant (t : TenantNo)
  | firmware
  deriving DecidableEq, Repr

/-- Which host access of an operation failed (R522). -/
inductive HostAccessKind where
  | fetch
  | record
  | other
  deriving DecidableEq, Repr

/-- How a decode ended (R352, R361, R365). -/
inductive DecodeOutcome where
  | picture            -- a picture was produced
  | noPicture          -- OK_EMPTY of R361
  | unsupported        -- header outside R352
  | poolFull           -- every buffer carries REF (R358)
  | uncorrectable      -- an uncorrectable read (R365)
  | checkFailed (unit : Fin 5) (row : BitVec 13)  -- a check of R376 failed twice, in this unit and block row
  deriving DecidableEq, Repr

/-- Where a picture lies in its frame buffer (R355, R362, R364): the decoded area, the output window in it, and the base-2 logarithm
of the block rows' height. -/
structure PicGeom where
  codedW : Nat
  codedH : Nat
  x : Nat
  y : Nat
  w : Nat
  h : Nat
  blockLog : Nat
  deriving DecidableEq, Repr

/-- What the pipe found in one access unit (R364). -/
structure DecodeInfo where
  outcome : DecodeOutcome
  geom : PicGeom
  key : Bool
  order : Word
  concealed : Bool
  concealedRef : Bool
  hashMismatch : Bool
  grain : Bool
  refs : Nat               -- reference counts the bitstream gives the picture (R357)
  dropRefs : List Nat      -- buffers of which the bitstream drops a reference
  hidden : List Nat        -- reference counts of the frames it decodes and does not show (R361)
  existing : Option Nat    -- buffer that a show_existing_frame names (R357)
  retried : Option (Fin 5 × BitVec 13)  -- a check of R376 failed once, in this unit and block row, and the restart passed
  deriving DecidableEq, Repr

/-- What training of a link found at its steps (R444, R526). -/
structure TrainEnv where
  signal : Bool
  failedLanes : List Nat
  boardOk : Bool           -- equal BOARD_ID, different MODULE_ID below BOARD_SIZE
  versionOk : Bool
  attestOk : Bool
  svnOk : Bool
  loopNs : Nat
  peer : BitVec 3
  peerPort : BitVec 3
  deriving DecidableEq, Repr

/-- Fields of a collective HEADER packet (R461). -/
structure HeaderPkt where
  count : Nat
  type_ : BitVec 2
  op : BitVec 4
  red : BitVec 4
  hash : DWord
  refused : Bool
  deriving DecidableEq, Repr

/-- A chunk packet as it lands (R460): the port it came on, its sender, ATTEMPT, INDEX, payload and CHECK. -/
structure ChunkPkt where
  port : BitVec 3
  rank : BitVec 3
  attempt : BitVec 2
  index : Word
  data : List Byte
  check : Word
  deriving DecidableEq, Repr

/-- Header of a received flit (R442), whether its CRC holds, and the packet body it completes. -/
structure FlitIn where
  fseq : BitVec 12
  ack : BitVec 12
  nak : Bool
  vc : BitVec 2
  sop : Bool
  eop : Bool
  cvc : BitVec 2
  credit : BitVec 12
  crcOk : Bool
  tagOk : Bool
  protoOk : Bool           -- an authenticated packet keeps the protocol (R587)
  deriving DecidableEq, Repr

/-- What ECC finds when a channel reads a block (R416). -/
inductive EccOutcome where
  | clean
  | corrected
  | uncorrectable
  deriving DecidableEq, Repr

/-- At which stage an Aquifer page read succeeded, if it did (R389). -/
inductive AqOutcome where
  | hard
  | retry
  | soft
  | reconstructed
  | failed
  deriving DecidableEq, Repr

/-- What the outside world gives a start-up (R637): monitored conditions, trained rates, verified banks, self tests. -/
structure BootEnv where
  inputOk : Bool
  coolantOk : Bool
  refOk : Bool
  badRail : Option (Fin 9)
  onfiRates : List (BitVec 2)      -- per channel; unlisted channels run at 3,600 MT/s
  bankOk : List Bool               -- banks A and B verify (R553); unlisted: true
  burnFails : Nat                  -- ledger burns that do not read back in a row (R555)
  wmSelfTestOk : Bool
  nonce : BitVec 256               -- BOOT_NONCE
  badPlots : List PPlot            -- plots that fail the self test of step 10
  badTiers : List (BitVec 3)
  badChannels : List (BitVec 6)    -- unusable Cistern channels
  sfuImageOk : Bool                -- the SFU image verifies (R638)
  deriving DecidableEq, Repr

/-- Monitored supply, coolant and reference conditions outside their limits (R628, R631). -/
inductive CoolantCause where
  | inlet
  | flow
  | outlet
  | lpddrCase
  | nandCase
  deriving DecidableEq, Repr

/-- What a direct write of page metadata replaces (R308): an owner's root word, a frame record or a table block of the stream. -/
inductive PageMeta where
  | root (owner block : Nat)
  | frameRecord (set : Nat) (state : Fin 4) (refs : Word)
  | table (block : Nat) (sets : List Nat) (refs : Word)
  deriving DecidableEq, Repr

/-- The fields R237 to R602 name as seeps; each has one instance per unit. -/
inductive SeepKind where
  | flume | furrow | sfu | headworks | codec | plot | memt | cistern | sluice | cf | dex | pwr | wm | watchdog
  deriving DecidableEq, Repr

/-- Events that wake the device (R545). -/
inductive WakeEvent where
  | dexPacket
  | cfPacket
  | register
  | i3c
  | lanes
  deriving DecidableEq, Repr

/-- Results of a plot test (R592). -/
inductive TestResult where
  | pass
  | fail (unit : BitVec 3)
  | abandoned
  deriving DecidableEq, Repr

/-- One attempt's outcome in the encoder: its size in bits and whether its checks held (R370, R376). -/
structure EncodeAttempt where
  bits : Nat
  failed : Option (Fin 6 × BitVec 13)    -- its checks failed twice, in this unit and block row
  retried : Option (Fin 6 × BitVec 13)   -- or once
  deriving DecidableEq, Repr

/-- The commands: one constructor per row of the table. -/
inductive Instr where
  -- host interface
  | doorbell (tenant : TenantNo) (ring : RingNo) (v : DWord)
  | fetchDescriptors (ring : RingNo) (entries : List (BitVec 512))
  | markExpiry (ring : RingNo) (seq : Seq)
  | completionRecord (ring : RingNo) (seq : Seq)
  | eventDelayExpiry (ring : RingNo)
  | hostAccessFail (kind : HostAccessKind) (ring : RingNo) (seq : Seq)
  | nop (ring : RingNo) (seq : Seq)
  -- streams
  | streamOpen (ring : RingNo) (seq : Seq)
  | streamObserve (ring : RingNo) (seq : Seq)
  | fork (ring : RingNo) (seq : Seq)
  | rollout (ring : RingNo) (seq : Seq)
  | rolloutCommit (ring : RingNo) (seq : Seq)
  | prune (ring : RingNo) (seq : Seq)
  | streamClose (ring : RingNo) (seq : Seq)
  -- models, policies, images
  | modelRegister (ring : RingNo) (seq : Seq)
  | modelRetire (ring : RingNo) (seq : Seq)
  | policyCreate (ring : RingNo) (seq : Seq)
  | policyDestroy (ring : RingNo) (seq : Seq)
  | imageRegister (ring : RingNo) (seq : Seq)
  | imageRelease (ring : RingNo) (seq : Seq)
  -- video and headworks operations
  | vdecOpen (ring : RingNo) (seq : Seq)
  | decode (ring : RingNo) (seq : Seq)
  | videoRelease (ring : RingNo) (seq : Seq)
  | vencOpen (ring : RingNo) (seq : Seq) (ringBase : DWord) (ringSize : Nat)
  | vsessionClose (ring : RingNo) (seq : Seq)
  | headworksRun (ring : RingNo) (seq : Seq)
  -- collectives from the host
  | cfGroupOpen (ring : RingNo) (seq : Seq)
  | cfGroupClose (ring : RingNo) (seq : Seq)
  | collective (ring : RingNo) (seq : Seq)
  | cfListRegister (ring : RingNo) (seq : Seq)
  -- Aquifer loads
  | aqLoadBegin (ring : RingNo) (seq : Seq)
  | aqLoadData (ring : RingNo) (seq : Seq) (data : List Byte)
  | aqLoadCommit (ring : RingNo) (seq : Seq) (digest : BitVec 384)
  | aqFree (ring : RingNo) (seq : Seq)
  -- Watermaster operations
  | wmAttest (ring : RingNo) (seq : Seq)
  | wmIdentity (ring : RingNo) (seq : Seq)
  | wmTenantCreate (ring : RingNo) (seq : Seq) (ownerFp : BitVec 384) (sigOk : Bool)
  | wmTenantRevoke (ring : RingNo) (seq : Seq)
  | wmGrant (ring : RingNo) (seq : Seq)
  | wmRingMaint (ring : RingNo) (seq : Seq)
  | wmComponent (ring : RingNo) (seq : Seq) (sigOk : Bool)
  | wmSvnCommit (ring : RingNo) (seq : Seq)
  -- links
  | rdData (half : BitVec 1) (tag : BitVec 16) (data : List Byte)
  | wrAck (half : BitVec 1) (tag : BitVec 16)
  | flit (link : Link) (f : FlitIn)
  | laneFail (link : Link) (lane : BitVec 4)
  | rekey (link : Link)
  | cfPortTrain (port : BitVec 3) (env : TrainEnv)
  | dexHalfTrain (half : BitVec 1) (env : TrainEnv)
  -- collective packets
  | header (group : BitVec 6) (rank : BitVec 3) (cseq : Seq) (h : HeaderPkt)
  | chunk (group : BitVec 6) (cseq : Seq) (pkt : ChunkPkt)
  | grant (group : BitVec 6) (rank : BitVec 3) (cseq : Seq) (upto : Nat)
  | vote (group : BitVec 6) (rank : BitVec 3) (cseq : Seq) (attempt : BitVec 2) (ok : Bool)
  | abort (group : BitVec 6) (rank : BitVec 3) (cseq : Seq) (status : BitVec 12)
  | stop (group : BitVec 6) (rank : BitVec 3) (cseq : Seq)
  | snapshot (group : BitVec 6) (rank : BitVec 3) (cseq : Seq) (phase : BitVec 2) (chunks : Nat)
  | collTimeLimit (group : BitVec 6) (cseq : Seq)
  | snapshotTimeout (group : BitVec 6) (cseq : Seq)
  | peerLeave (module : BitVec 3)
  | listEntryStart (part : PartNo)
  -- rotation and slots
  | slotLoad (part : PartNo)
  | slotStart (part : PartNo)
  | slotEnd (part : PartNo)
  | slotAbort (part : PartNo) (status : BitVec 12) (detail : BitVec 16)
  | periodTrigger (part : PartNo)
  | cadenceEdge (level : Bool)
  | cadenceQualify (sinceUs : Nat)
  | slotWatchdogExpiry (part : PartNo)
  | swapIn (part : PartNo) (pos : Nat) (slot : BitVec 3)
  | swapOut (part : PartNo) (pos : Nat) (slot : BitVec 3)
  | slotCopy (stream : StreamNo) (trunk : Bool) (owner : BitVec 12) (slotB : Bool)
  | finalSwapOut (stream : StreamNo)
  | chunkReady (part : PartNo) (idx : Nat)
  | optimiserStep (part : PartNo)
  | refillRun (part : PartNo)
  -- key/value pages
  | append (stream : StreamNo) (owner : Nat)
  | share (stream : StreamNo) (owner : Nat)
  | clear (stream : StreamNo) (owner : Nat)
  | revert (stream : StreamNo) (owner : Nat)
  | drop (part : PartNo) (set : Nat)
  | refill (part : PartNo) (set : Nat)
  | graceRelease (part : PartNo)
  | pgReclaimStart (part : PartNo)
  | pgQuiesce
  | pgQuiesceRelease
  | pgDirectWrite (src : AccessSource) (stream : StreamNo) (what : PageMeta)
  -- tokens and stream words
  | tokenArrival (p : PPlot) (ctr : BitVec 6) (inc : BitVec 8) (slotSeq : Seq)
  | nopWord (p : PPlot) (sel : StreamSel)
  | pass (p : PPlot) (w : PassWord)
  | passDrain (p : PPlot)
  | release (p : PPlot) (sel : StreamSel) (w : ReleaseWord)
  | fill (p : PPlot) (w : FillWord)
  | fillComplete (p : PPlot)
  | nest (p : PPlot) (sel : StreamSel) (w : NestWord)
  | wait (p : PPlot) (sel : StreamSel) (w : WaitWord)
  | signal (p : PPlot) (sel : StreamSel) (w : SignalWord)
  | layer (p : PPlot) (sel : StreamSel) (w : LayerWord)
  | layerDecide (p : PPlot)
  | ret (p : PPlot) (sel : StreamSel)
  | endWord (p : PPlot) (sel : StreamSel)
  -- furrow ROW class
  | rstatInit (p : PPlot) (w : FurrowWord)
  | rstatAcc (p : PPlot) (w : FurrowWord)
  | softmax (p : PPlot) (w : FurrowWord)
  | softmaxBlock (p : PPlot) (w : FurrowWord)
  | expSub (p : PPlot) (w : FurrowWord)
  | rowscaleRecip (p : PPlot) (w : FurrowWord)
  | rowscaleFactor (p : PPlot) (w : FurrowWord)
  | bankRead (p : PPlot) (w : FurrowWord)
  | lnorm (p : PPlot) (w : FurrowWord)
  | rmsnorm (p : PPlot) (w : FurrowWord)
  | actRelu (p : PPlot) (w : FurrowWord)
  | actSilu (p : PPlot) (w : FurrowWord)
  | actGeluTanh (p : PPlot) (w : FurrowWord)
  | actSigmoid (p : PPlot) (w : FurrowWord)
  | actTanh (p : PPlot) (w : FurrowWord)
  | actIdent (p : PPlot) (w : FurrowWord)
  -- furrow ELEM class
  | copy (p : PPlot) (w : FurrowWord)
  | add (p : PPlot) (w : FurrowWord)
  | sub (p : PPlot) (w : FurrowWord)
  | mul (p : PPlot) (w : FurrowWord)
  | max (p : PPlot) (w : FurrowWord)
  | min (p : PPlot) (w : FurrowWord)
  | fma (p : PPlot) (w : FurrowWord)
  | scale2 (p : PPlot) (w : FurrowWord)
  | addVec (p : PPlot) (w : FurrowWord)
  | mulVec (p : PPlot) (w : FurrowWord)
  | abs (p : PPlot) (w : FurrowWord)
  | neg (p : PPlot) (w : FurrowWord)
  | zero (p : PPlot) (w : FurrowWord)
  | specialFunction (p : PPlot) (code : BitVec 4) (w : FurrowWord)
  | linV (p : PPlot) (w : FurrowWord)
  | linT (p : PPlot) (w : FurrowWord)
  | mixT (p : PPlot) (w : FurrowWord)
  | clinV (p : PPlot) (w : FurrowWord)
  | clinT (p : PPlot) (w : FurrowWord)
  | cmixT (p : PPlot) (w : FurrowWord)
  | pairFix (p : PPlot) (w : FurrowWord)
  | pairSplit (p : PPlot) (w : FurrowWord)
  | pairFold (p : PPlot) (w : FurrowWord)
  -- furrow CONV, LOAD and STORE classes
  | convRes (p : PPlot) (w : FurrowWord)
  | convStage (p : PPlot) (w : FurrowWord)
  | convBank (p : PPlot) (w : FurrowWord)
  | load (p : PPlot) (w : FurrowWord)
  | store (p : PPlot) (w : FurrowWord)
  | sfuGrant (p : PPlot)
  -- runnel extension
  | pcTsig (p : PPlot) (r : BitVec 7) (rs1 : BitVec 5)
  | pcTwait (p : PPlot) (r : BitVec 7) (rd rs1 rs2 : BitVec 5)
  | pcRds (p : PPlot) (r : BitVec 7) (rd rs1 : BitVec 5) (imm : BitVec 12)
  | pcWrs (p : PPlot) (r : BitVec 7) (rs1 rs2 : BitVec 5) (imm : BitVec 12)
  | pcMove (p : PPlot) (r : BitVec 7) (rd rs1 : BitVec 5)
  | moveComplete (p : PPlot) (r : BitVec 7) (ecc : EccOutcome)
  | pcMwait (p : PPlot) (r : BitVec 7)
  | pcEnd (p : PPlot) (r : BitVec 7)
  | fadd (p : PPlot) (r : BitVec 7) (rd rs1 rs2 : BitVec 5)
  | fsub (p : PPlot) (r : BitVec 7) (rd rs1 rs2 : BitVec 5)
  | fmul (p : PPlot) (r : BitVec 7) (rd rs1 rs2 : BitVec 5)
  | fdiv (p : PPlot) (r : BitVec 7) (rd rs1 rs2 : BitVec 5)
  | fmin (p : PPlot) (r : BitVec 7) (rd rs1 rs2 : BitVec 5)
  | fmax (p : PPlot) (r : BitVec 7) (rd rs1 rs2 : BitVec 5)
  | flt (p : PPlot) (r : BitVec 7) (rd rs1 rs2 : BitVec 5)
  | feq (p : PPlot) (r : BitVec 7) (rd rs1 rs2 : BitVec 5)
  | fcvtSW (p : PPlot) (r : BitVec 7) (rd rs1 : BitVec 5)
  | fcvtWS (p : PPlot) (r : BitVec 7) (rd rs1 : BitVec 5)
  | fbf16 (p : PPlot) (r : BitVec 7) (rd rs1 : BitVec 5)
  | runnelFma (p : PPlot) (r : BitVec 7) (rd rs1 rs2 : BitVec 5)
  | sfu (p : PPlot) (r : BitVec 7) (code : BitVec 7) (rd rs1 : BitVec 5)
  -- micro-programs
  | mpFadd (p : PPlot) (lane : BitVec 4) (d a b : BitVec 3)
  | mpFsub (p : PPlot) (lane : BitVec 4) (d a b : BitVec 3)
  | mpFmul (p : PPlot) (lane : BitVec 4) (d a b : BitVec 3)
  | mpFma (p : PPlot) (lane : BitVec 4) (d a b c : BitVec 3)
  | mpFmin (p : PPlot) (lane : BitVec 4) (d a b : BitVec 3)
  | mpFmax (p : PPlot) (lane : BitVec 4) (d a b : BitVec 3)
  | mpFabs (p : PPlot) (lane : BitVec 4) (d a : BitVec 3)
  | mpCpsgn (p : PPlot) (lane : BitVec 4) (d a b : BitVec 3)
  | mpConst (p : PPlot) (lane : BitVec 4) (d : BitVec 3) (imm : BitVec 15)
  | mpLdexp (p : PPlot) (lane : BitVec 4) (d a : BitVec 3) (imm : BitVec 15)
  | mpGetexp (p : PPlot) (lane : BitVec 4) (d a : BitVec 3)
  | mpGetmant (p : PPlot) (lane : BitVec 4) (d a : BitVec 3)
  | mpFloor (p : PPlot) (lane : BitVec 4) (d a : BitVec 3)
  | mpSellt (p : PPlot) (lane : BitVec 4) (d a b c : BitVec 3)
  | mpHw (p : PPlot) (lane : BitVec 4) (d a : BitVec 3) (imm : BitVec 15)
  | mpEnd (p : PPlot) (lane : BitVec 4)
  -- lifts, weight cache and Aquifer
  | stage (part : PartNo) (reach : ReachNo)
  | stageIx (part : PartNo) (reach : ReachNo)
  | warm (part : PartNo) (reach : ReachNo)
  | liftLate (part : PartNo) (reach : ReachNo) (periods : Nat)
  | aquiferRead (addr : BitVec 48) (part : PartNo) (reach : ReachNo) (outcome : AqOutcome)
  | wcFillDone (unit : Nat)
  | blockRefresh (ch : BitVec 5) (block : Nat)
  -- memory-side adders
  | addI32 (ring : RingNo) (seq : Seq) (addr : BitVec 48) (v : Word) (ret : Bool)
  | addI64 (ring : RingNo) (seq : Seq) (addr : BitVec 48) (v : DWord) (ret : Bool)
  | addF32 (ring : RingNo) (seq : Seq) (addr : BitVec 48) (v : Word) (ret : Bool)
  | accX (ring : RingNo) (seq : Seq) (addr : BitVec 48) (v : Word)
  | accXRead (ring : RingNo) (seq : Seq) (addr : BitVec 48) (clear : Bool)
  -- Cistern channels
  | cisternRead (part : PartNo) (addr : BitVec 48) (len : BitVec 9) (ecc : EccOutcome)
  | cisternWrite (part : PartNo) (addr : BitVec 48) (data : List Byte) (ecc : EccOutcome)
  | patrolScrub (ch : BitVec 6) (block : Nat) (ecc : EccOutcome)
  | dqsOscRead (ch : BitVec 6) (drift : Bool)
  | zqCalibration (pkg : BitVec 5) (drift0 drift1 : Bool)
  | mr4Poll (ch : BitVec 6) (mr4 : BitVec 3) (caseTemp : Nat)
  | correctedErrorBurst (ch : BitVec 6)
  | channelRetrain (ch : BitVec 6)
  | retrainDone (ch : BitVec 6) (ok : Bool)
  | channelRepairEnter (ch : BitVec 6)
  | channelRepairLeave (ch : BitVec 6)
  | channelRetire (ch : BitVec 6)
  | cisProtEnable
  -- register events
  | rotCommit
  | partHold (part : PartNo)
  | partHoldClear (part : PartNo)
  | diagHold (part : PartNo) (on : Bool)
  | sfuTableLoad (units : BitVec 11)
  | sfuLoadDone
  | sfuTableSwitch
  | wcFlush
  | dieRetire (ch : BitVec 5) (die : BitVec 3)
  -- power
  | meterEnter
  | meterActiveReached
  | meterExit
  | headgateSample (rail : Fin 9) (current : Nat)
  | thermalSample (hot : Nat) (sensor : BitVec 7)
  | idleTimerExpiry
  | drainedSaveDone
  | wake (ev : WakeEvent) (env : BootEnv)
  -- levee and tests
  | plotTestStart
  | plotTestDone (res : TestResult)
  | leveeWrite (offset : BitVec 32) (v : DWord)
  | mapEntryWrite (lplot : LPlot) (v : DWord)
  -- rings and links by register
  | ringEnable (ring : RingNo) (v : DWord)
  | ringDisable (ring : RingNo) (v : DWord)
  | dexHalfEnable (half : BitVec 1)
  | dexRetrain (half : BitVec 1)
  | cfPortEnable (port : BitVec 3)
  | cfPortRetrain (port : BitVec 3)
  | counterClear (block : BitVec 32) (mask : DWord)
  | gaugeClear (v : DWord)
  | registerWrite (src : AccessSource) (offset : BitVec 32) (v : DWord)
  | diagWrite (src : AccessSource) (offset : BitVec 32) (v : DWord)
  | accessViolation (tenant : TenantNo) (offset : BitVec 32) (write : Bool)
  | badAccess (write : Bool)
  | seepFire (kind : SeepKind) (inst : Nat)
  -- codec pipes and headworks engines
  | rowToken (session : BitVec 8) (rows : Nat) (geom : PicGeom)
  | pipePictureGrant (pipe : BitVec 4) (session : BitVec 8) (enc : Bool)
  | decodeDone (session : BitVec 8) (info : DecodeInfo)
  | encodePicture (session : BitVec 6) (attempts : List EncodeAttempt) (readOk : Bool)
  | encodeRingWrite (session : BitVec 6) (readOff : Nat)
  | inputJob (ring : RingNo) (seq : Seq)
  | outputJob (part : PartNo) (session : BitVec 6) (pos : Nat)
  | directCopy (ring : RingNo) (seq : Seq)
  | unpack (engine : ReachNo)
  | conv (engine : ReachNo)
  | patchify (engine : ReachNo)
  | unpatchify (engine : ReachNo)
  | pack (engine : ReachNo)
  -- management
  | i3cEntdaa (addr : BitVec 7)
  | regRead (bytes : List Byte)
  | boardConfig (bytes : List Byte)
  | status (bytes : List Byte)
  | i3cWake (bytes : List Byte) (env : BootEnv)
  | i3cReset (bytes : List Byte) (env : BootEnv)
  | sense (bytes : List Byte) (mv ma inlet outlet flow : Nat)
  | powerOn (env : BootEnv)
  | resetPinAssert (us : Nat)
  | resetPinRelease (env : BootEnv)
  | watchdogReset (env : BootEnv)
  | supplyFault (mv : Nat) (us : Nat)
  | railFault (rail : Fin 9) (us : Nat)
  | coolantFault (cause : CoolantCause)
  | referenceFault (ppm : Nat) (absentUs : Nat)
  | extentEraseDone (extent : BitVec 8)
  | nandCaseTemperature (pkg : BitVec 5) (celsius : Nat)
  | jtagInstruction (code : BitVec 8) (mandatory : Bool)
  | gaugeSaturated (offset : BitVec 32)
  deriving DecidableEq, Repr

end Sys2Proof
end

