-- ==== Sys2Proof/Decode.lean ====
section
/-! DEFINITION. The reading of a table word. The rows of spec/opcode_table.json give no bits: commands arrive as events, register
accesses and packets, so no word of the table's kind spells one. -/

namespace Sys2Proof

/-- The command a word of the table's numbering spells: none (log entry 4). -/
def decodeTableWord (_nbits _w : Nat) : Option Instr := none

end Sys2Proof
end

