-- ==== Sys2Proof/Config.lean ====
section
/-! DEFINITION. What the manual leaves open. A constant without a body is a free value: nothing in Lean can evaluate it, so
whatever is proved holds for every value it could have (notes/assumptions/1.md). Each is applied to the operands it
depends on, or to the counter `freeIdx` of the state where every use may differ. -/

namespace Sys2Proof

/-- A word the manual leaves open at one use (log entry 1). -/
opaque Config.freeWord : Nat → Word
/-- A byte the manual leaves open at one use, as the contents of private records (R50, R294) and of report fields whose
encoding a standard outside the manual fixes. -/
opaque Config.freeByte : Nat → Byte
/-- A choice the manual leaves to the device at one use. -/
opaque Config.freeNat : Nat → Nat
/-- Results of a special function where R241 to R245 leave them open: the contents of the loaded table set decide them. By the identity
of the table image, the evaluation path (0: tables, 1: SX-256 compatible, R258), the function code, the region of the reduced
argument, and a result's place in the order of values: the position in the region from which results are at least that one. -/
opaque Config.sfuStep : BitVec 384 → BitVec 2 → BitVec 4 → Int → Int → Int
/-- Result of a fall-back micro-program (R261) within its bound, by function code and operand. -/
opaque Config.sfuValue : BitVec 384 → BitVec 4 → Word → Word
/-- Where a failing evaluation of a hardware function stands in its table (R263): the manual numbers no table entries. By function code
and the reduced argument's position. -/
opaque Config.sfuEntry : Nat → Int → BitVec 10
/-- Micro-op words, pool constants and directory entries that a micro-program image places in its bank (R255): the manual gives
the store's contents and not the image's layout, so they are free values by the image's identity and the index. -/
opaque Config.microWord : BitVec 384 → Nat → Word
opaque Config.microConst : BitVec 384 → Nat → Word
opaque Config.microDir : BitVec 384 → Nat → Word
/-- Bytes of a certificate or signature item of the identity bundle (R560), by item and position. -/
opaque Config.identityByte : Nat → Nat → Byte
/-- Length of an item of the identity bundle (R560), below 2^30 so that the 32-bit SIZE of R560 can hold the bundle (log entry 1). -/
opaque Config.identityLen : Nat → BitVec 30
/-- ECDSA P-384 signature bytes of a report (R559), by the report's sequence number and position. -/
opaque Config.signatureByte : Nat → Nat → Byte
/-- What a decoder or an encoder holds after an access unit or a picture, by what it held before and the bytes it read. Decoding follows
HEVC and AV1, which the manual cites and does not give. -/
opaque Config.codecRun : Nat → List Byte → Nat
/-- The low-order pixels and coefficients a codec produces: decoding and encoding follow HEVC and AV1, which the manual
names and does not lay out (R351, R352). Byte of a decoded picture, by session use and position. -/
opaque Config.codecByte : Nat → Nat → Byte
/-- Measurement of the SFU image that the metadata area holds from manufacture (R638). -/
opaque Config.factoryImage : BitVec 384

/-- What a slot's image computes for the device at places that the manual leaves to the image and the mapper: the rewards, values and
gradients of its owners, and the bytes of their activations. By what R110 lists beside the plots' contents (the image, SEED, UPDATE, the
logical plots, the tables, the owner's place), the latent or activations it starts from, its action, the contents of the plots as the slot
ends, which of these it is, and the position. -/
opaque Config.headWord : List Nat → List Byte → List Word → List (List (Nat × Nat)) → Nat → Nat → Word
/-- Mean of an action element from the policy network (R66): by the same list, the policy's w_hi (R107), the frame's input latent and the
element. -/
opaque Config.policyMean : List Nat → List Word → List Byte → Nat → Word
/-- A byte of a policy's region, whose layout is private (R501): by the policy's weights, its moments, its record and the position. -/
opaque Config.policyByte : List Word → List Word → List Word → Nat → Byte
/-- Where the conversions of gradients draw (R96, R106): the mapper's placement of parameters is open. By the owner or the node of the sum
over futures, and the parameter. -/
opaque Config.gradientPlace : Nat → Nat → Nat

/-- Where the optimiser's two conversions of a parameter draw: the manual keys the generator by plot, conversion and element (R96), and
leaves the mapper's placement of parameters open. By parameter count and twice the parameter, plus 1 for the second moment. -/
opaque Config.optimiserPlace : Nat → Nat → Nat

/-- Where the express ring's stops stand, and the routers at which the reach hubs join the mesh: the manual places neither (R28). -/
opaque Config.canalStops : Nat
opaque Config.canalStop : Bool → Nat → Nat
opaque Config.canalHub : Nat → Nat

/-- Die of an ONFI channel that holds its page of a stripe: the controller's private map (R386). -/
opaque Config.dieOf : Nat → Nat → Nat

/-- Block of an ONFI channel that holds a page of the Aquifer window: the controller's private map (R386). -/
opaque Config.blockOf : Nat → Nat

end Sys2Proof
end

