-- ==== Sys2Proof/Machine/State.lean ====
section
/-! DEFINITION. The state of the block as plain data: registers, counters, the memories, and what each unit of the module
keeps that no register shows. A field's default is its value at reset. Registers and counters that the maps do not list
hold their reset values (R12, R598). -/

namespace Sys2Proof.Machine

/-- Reasons a step can stop with a fault. A module stop (R589) is no fault: it is a state the module stays in. -/
inductive Fault where
  /-- A breach of what R183 leaves to the mapper without a check, which the manual puts outside its guarantees. No command
  of this model raises it: every rule that ends work gives it a status or stops the module, and both are next states.
  Safe. -/
  | outsideGuarantees
  deriving DecidableEq, Repr

/-- Reasons a step can refuse a command. -/
inductive Refusal where
  /-- Raised by the dispatcher for a command that has no meaning yet. Safe: no run passes it. -/
  | notModelled (mnemonic : String)
  deriving DecidableEq, Repr

/-! ### Memories -/

/-- A channel's retirement (R431, R432): the channel, and the bases and sizes in bytes of the protected region and its parity
area as they stood. Every block that moved and lay outside them is LOST until it is written whole. -/
structure Swept where
  ch : Nat
  rebuilt : Bool := false     -- step 6 has run
  base : Nat
  size : Nat
  pbase : Nat
  psize : Nat
  deriving DecidableEq, Repr

/-- The storage tiers (R379, R382, R386). An address that no list holds reads as zero: R637 step 11 writes Cistern clean
with zeros; for the Reservoir and the Aquifer window zero is the model's choice (log entry 2). -/
structure Mem where
  cis : List Host.Cell := []          -- by Cistern address
  cisTag : Sparse (BitVec 2) := []    -- by 64-byte block: 0 as the retirement left it, 1 lost (R431), 2 uncorrectable, 3 clean
  resv : List Host.Cell := []         -- by 2^24 * physical plot + column offset
  resvBad : List Nat := []            -- words of the Reservoir with an uncorrectable error (R383)
  fog : Sparse Nat := []              -- columns that a plot test overwrote (R590): the index of their free values, plus 1
  aqua : List Host.Cell := []         -- by Aquifer address
  swept : Option Swept := none
  cisFog : Sparse Nat := []           -- granules whose key has changed (R568): the index of their free values, plus 1
  deriving DecidableEq, Repr

/-! ### Host interface -/

/-- What the device keeps for a ring beside its registers (R507, R518, R519, R522). -/
structure Ring where
  cqHead : Nat := 0
  phase : Bool := true
  nextSeq : Seq := 1
  unsignalled : Nat := 0       -- acknowledged records no event has covered
  delayRunning : Bool := false -- EVDELAY_US counts from the first unsignalled record
  halted : Bool := false       -- fetch stopped under R522
  deriving DecidableEq, Repr

/-- Stage of a fetched operation. -/
inductive OpStage where
  | waiting   -- fetched, not started
  | running   -- started
  | done      -- its record is to be written
  deriving DecidableEq, Repr

/-- What an operation's slots have given for one of its owners so far: its actions and rewards frame by frame, its terminal value, its
newest latent and its gradient (R65, R66, R69, R73). -/
structure FutureRun where
  owner : Nat
  actions : List (List Word) := []   -- 20 elements a frame
  rewards : List Word := []          -- one a frame
  value : Word := 0                  -- after the last frame
  latent : List Byte := []           -- of the last frame
  grad : List Word := []             -- as it is kept
  deriving DecidableEq, Repr

/-- A fetched operation (R511, R512) and what it holds while it runs. -/
structure Op where
  ring : RingNo
  seq : Seq
  desc : BitVec 512
  stage : OpStage := .waiting
  refusedAtFetch : Bool := false
  status : BitVec 12 := 0
  detail : BitVec 16 := 0
  result : Word := 0
  unacked : Nat := 0                 -- host writes not yet acknowledged (R42)
  owners : List Nat := []            -- named owners (R310)
  anchors : List (Nat × Nat) := []   -- owner and the block anchored (R310)
  pool : Nat := 0                    -- partition whose pool holds its anchors
  kept : List (Nat × Nat × Nat) := []  -- versions kept for a backward pass: owner, frame, block (R304)
  pver : Word := 0                   -- policy version pinned (R75)
  holdsUpdate : Bool := false        -- R74
  inputReady : Bool := false         -- its input matrix stands in the plots (R341)
  pinned : Bool := false             -- its first slot has started and fixed pver
  ain : List Byte := []              -- the action input block, read at its start (R68)
  data : List Byte := []             -- read data delivered for it (R525)
  runs : List FutureRun := []        -- of its owners, in order
  deriving DecidableEq, Repr

/-- A freshet mark (R523, R537). -/
structure Mark where
  ring : RingNo
  seq : Seq
  level : Nat
  deriving DecidableEq, Repr

structure HostS where
  rings : Sparse Ring := []
  ops : List Op := []        -- in order of fetch
  marks : List Mark := []
  deriving DecidableEq, Repr

/-! ### Streams, models, policies, images -/

/-- Seal of a state slot (R285). -/
inductive Seal where
  | empty
  | open_
  | sealed
  | torn
  deriving DecidableEq, Repr

/-- Which slot an owner's committed choice names (R58, R59, R286). -/
inductive SlotRef where
  | ownA
  | ownB
  | shared (owner : Nat) (slotB : Bool)
  deriving DecidableEq, Repr

/-- What a stream keeps for its trunk or one future (R48, R56, R285, R297). -/
structure OwnerRec where
  live : Bool := false
  frame : Nat := 0
  committed : SlotRef := .ownA
  sealA : Seal := .empty
  sealB : Seal := .empty
  crcA : Word := 0
  crcB : Word := 0
  current : Option SlotRef := none  -- slot the running operation last sealed for it (R496)
  latent : List Byte := []          -- its latest latent (R56, R65)
  damaged : Bool := false           -- R498
  block : Nat := 0                  -- version: 0 is the empty version (R297)
  vseq : Word := 0                  -- version sequence (R297)
  openSet : Option Nat := none      -- R295
  deriving DecidableEq, Repr

/-- States of a stream context (R47). -/
inductive StreamState where
  | free
  | open_
  | closing
  deriving DecidableEq, Repr

/-- A stream context (R47 to R52). -/
structure StreamRec where
  st : StreamState := .free
  everOpen : Bool := false
  home : Option RingNo := none
  tenant : TenantNo := 0
  model : DWord := 0
  policy : DWord := 0
  part : PartNo := 0
  cap : Nat := 0
  region : Nat := 0
  trainT : Nat := 0
  trunk : OwnerRec := {}
  futs : Sparse OwnerRec := []
  lost : Bool := false          -- lost with a retired channel (R432)
  deriving DecidableEq, Repr

/-- A registered model (R499); its page geometry keeps the bits of R291. -/
structure ModelRec where
  tenant : TenantNo := 0
  geom : BitVec 256 := 0
  stateBytes : Nat := 0
  actBytes : Nat := 0
  inProg : Nat := 0
  outProg : Nat := 0
  extents : BitVec 256 := 0
  deriving DecidableEq, Repr

/-- A policy (R501, R74). -/
structure PolicyRec where
  tenant : TenantNo := 0
  model : DWord := 0
  n : Nat := 0
  region : Nat := 0
  applied : Word := 0
  held : Option Word := none          -- update number a running TRAIN descriptor holds
  hyper : List Word := []             -- beta1, beta2, eta, eps (R107)
  weights : List Word := []           -- w_hi and w_lo words (R107)
  moments : List Word := []
  deriving DecidableEq, Repr

/-- A registered image (R144, R502): where its checked copy lies and the header fields the controller uses. -/
structure ImageRec where
  tenant : TenantNo := 0
  addr : Nat := 0
  len : Nat := 0
  imageId : Word := 0
  model : DWord := 0
  listGroup : Option (BitVec 6) := none  -- a collective list attached under R458
  deriving DecidableEq, Repr

structure CtxS where
  streams : Sparse StreamRec := []
  models : Sparse ModelRec := []       -- by handle
  policies : Sparse PolicyRec := []    -- by handle
  images : Sparse ImageRec := []       -- by pool index
  deriving DecidableEq, Repr

/-! ### Rotation -/

/-- Kinds of chunk (R484). -/
inductive ChunkKind where
  | observe
  | refill
  | frame
  | back
  | optim
  deriving DecidableEq, Repr

/-- A chunk of work (R484). -/
structure Chunk where
  kind : ChunkKind
  ring : RingNo
  seq : Seq
  stream : StreamNo
  owners : List Nat
  batch : Nat
  ordinal : Nat
  sets : List Nat := []             -- sets a REFILL chunk rewrites
  ready : Option Nat := none        -- when it became ready
  deriving DecidableEq, Repr

/-- Phase of a partition's slot (R152, R181). -/
inductive SlotPhase where
  | idle
  | loading
  | running
  | swapping
  deriving DecidableEq, Repr

/-- What a slot gives one of its owners: the latent its frame starts from, and its action (R65, R66). -/
structure Given where
  owner : Nat
  latent : List Byte
  action : List Word
  deriving DecidableEq, Repr

/-- The slot a partition is loading, running or swapping out. -/
structure Slot where
  phase : SlotPhase := .idle
  entry : Nat := 0
  image : Nat := 0
  chunk : Option Chunk := none
  seq : Seq := 0
  cold : Bool := true
  status : BitVec 12 := 0
  detail : BitVec 16 := 0
  startGauge : Nat := 0
  insLeft : List (Nat × Nat) := []    -- position and owner slot still to swap in
  img : List Byte := []               -- the image's bytes, as loaded
  latePeriods : Sparse Nat := []      -- by reach (R407)
  liftStarted : List Nat := []        -- lift entries started (R402)
  listDone : List Nat := []           -- collective list entries started (R459)
  widened : Bool := false
  stateOff : Nat := 0                 -- STATE_OFF of its entry, in bytes
  waited : List (Nat × Nat) := []     -- swap-ins that have found their owner in transit
  given : List Given := []            -- in the chunk's order of owners
  deriving DecidableEq, Repr

/-- An output job that a future-frame of an ended slot still has to start (R342). -/
structure OutPend where
  ring : RingNo
  seq : Seq
  session : Nat
  pplot : Nat
  frame : Nat
  deriving DecidableEq, Repr

/-- A swap-out whose slot has ended (R495): once read, the owner's state is in transit until its seal is SEALED. -/
structure Transit where
  stream : StreamNo
  owner : Nat
  ring : RingNo
  seq : Seq
  lplot : Nat
  pos : Nat
  slot : Nat
  resv : Option Nat := none     -- column offset of its state; none: the STATE_MAP tiles
  read : Bool := false
  bytes : List Byte := []
  num : Nat := 0                -- its place in arrival order (R494)
  deriving DecidableEq, Repr

/-- A lift entry in flight (R402): its index, its bytes, the source resolved as its gate opened, and the slot it belongs to. -/
structure LiftRun where
  entry : Nat
  reach : Nat
  bytes : List Byte
  src : Nat
  seq : Seq
  degraded : Bool := false      -- a page of it was reconstructed (R410)
  deriving DecidableEq, Repr

/-- What the rotation controller keeps for a partition (R477 to R489). -/
structure Part where
  act : DWord := 0             -- fields of ROT_PART taken by the last commit
  toTake : Option DWord := none  -- fields of a PENDING commit that it takes at its next slot boundary
  walk : Nat := 0              -- entries of the cycle already examined, modulo its length
  cadence : Nat := 0           -- cadence edges accepted since it took a table
  fired : Bool := false        -- the trigger of the entry at which the walk stands has fired
  pendTrig : Bool := false     -- that trigger is held as pending
  lastLoad : Option Nat := none
  warmId : Option Word := none -- IMAGE_ID of the previous slot
  forceCold : Bool := true
  slotSeq : Seq := 0
  slot : Slot := {}
  chunks : List Chunk := []
  outJobs : List OutPend := []
  transit : List Transit := []
  lifts : List LiftRun := []
  warmImage : Option Nat := none  -- image whose WARM entries run ahead of their slot (R406)
  warmStarted : List Nat := []
  warmFail : Option (BitVec 12) := none  -- status with which one of them failed
  skips : Nat := 0             -- entries skipped in succession
  stranded : Bool := false
  deriving DecidableEq, Repr

structure RotS where
  bank : Sparse DWord := []        -- active bank (R479)
  parts : Sparse Part := []
  readyClock : Nat := 0            -- orders the readiness of chunks (R485)
  pinLevel : Bool := false         -- cadence input
  edgePending : Option Bool := none
  edgeSeen : Bool := false         -- an edge has been accepted
  outs : Nat := 0                  -- swap-outs asked for
  deriving DecidableEq, Repr

/-! ### Key/value pages -/

/-- States of a frame record (R295). -/
inductive SetState where
  | open_
  | live
  | dropped
  | refilling
  deriving DecidableEq, Repr

/-- A frame set (R295). -/
structure FrameSet where
  st : SetState := .open_
  refs : Word := 0
  pages : List Nat := []        -- layer pages
  recipe : List Nat := []       -- recipe pages
  lastWalk : Nat := 0
  stream : StreamNo := 0
  pinnable : Bool := true       -- its geometry has RECIPE 1
  lost : Bool := false          -- lost with a retired channel (R432)
  latent : List Byte := []      -- its recipe (R316): the frame's input latent,
  action : List Word := []      -- its action,
  carried : List Byte := []     -- and the carried state at its start
  deriving DecidableEq, Repr

/-- A table block (R297). -/
structure Block where
  sets : List Nat := []
  refs : Word := 0
  deriving DecidableEq, Repr

/-- An item of the grace list (R307) with the walks that were outstanding when it entered. -/
inductive GraceItem where
  | block (b : Nat) (walks : List Nat)
  | set (n : Nat) (walks : List Nat)
  | pages (ps : List Nat) (walks : List Nat)
  deriving DecidableEq, Repr

/-- A walk's snapshot (R301, R302). -/
structure Walk where
  id : Nat
  pplot : Nat
  sets : List Nat
  deriving DecidableEq, Repr

/-- A partition's page pool (R294). Block and set numbers start at 1. -/
structure Pool where
  blocks : Sparse Block := []
  sets : Sparse FrameSet := []
  nextBlock : Nat := 1
  nextSet : Nat := 1
  grace : List GraceItem := []
  walks : List Walk := []
  nextWalk : Nat := 1
  deriving DecidableEq, Repr

/-! ### Aquifer and the weight cache -/

/-- States of an extent (R391). -/
inductive ExtentState where
  | empty
  | loading
  | valid
  | retiring
  deriving DecidableEq, Repr

/-- An extent (R391, R393, R568). -/
structure Extent where
  st : ExtentState := .empty
  base : Nat := 0               -- first 64 KiB unit of the window
  units : Nat := 0
  written : Nat := 0
  owner : BitVec 384 := 0
  replace : Option Nat := none
  loads : Nat := 0
  data : List Byte := []        -- plaintext programmed by the running load
  deriving DecidableEq, Repr

/-- States of a weight-cache unit (R398). -/
inductive WcState where
  | free
  | filling
  | ready
  | pinned
  deriving DecidableEq, Repr

/-- A weight-cache unit (R398). -/
structure WcUnit where
  st : WcState := .free
  aq : Nat := 0                 -- Aquifer unit it holds
  sticky : Option DWord := none -- model whose STICKY lift marked it
  lastRead : Nat := 0
  pages : BitVec 4 := 0         -- pages of the unit that its fill has read
  part : Option Nat := none     -- partition whose lift fills it (R423)
  refilled : Bool := false      -- R399: refilled once after an uncorrectable read
  deriving DecidableEq, Repr

structure AqS where
  extents : Sparse Extent := []
  gen : Word := 0               -- generation of the copy of the extent table in force (R392)
  prior : Sparse Extent := []   -- the other copy, of the generation before
  staging : Option (RingNo × Seq) := none  -- AQ_LOAD_DATA that holds the load staging area (R381)
  wc : Sparse WcUnit := []      -- by unit of the weight-cache region
  readClock : Nat := 0
  blockReads : Sparse Nat := [] -- reads of each block, by channel and block (R390)
  nandHot : List Nat := []      -- packages whose programs are suspended (R631)
  deriving DecidableEq, Repr

/-! ### Watermaster -/

/-- An entry of the tenant table (R563); STATE and EPOCH lie in WM_TENANT. -/
structure Tenant where
  owner : BitVec 384 := 0
  streamFirst : Nat := 0
  streamCount : Nat := 0
  erase : Bool := false               -- the revocation that runs frees its extents (R566)
  deriving DecidableEq, Repr

/-- A component held in a bank or the component area (R550, R551). -/
structure Component where
  kind : Nat
  svn : Nat
  addr : Nat := 0
  measure : BitVec 384 := 0
  deriving DecidableEq, Repr

structure WmS where
  tenants : Sparse Tenant := []
  ringTab : Sparse (BitVec 7) := []   -- sealed table's copy of TENANT and MAINT of each ring (R563)
  partOwner : Sparse TenantNo := []
  granOwner : Sparse TenantNo := []
  nonce : BitVec 256 := 0             -- BOOT_NONCE (R553)
  leaf : Word := 0xFFFFFFFF           -- q (R553)
  rseq : Seq := 0                     -- last report sequence number (R559)
  svnMin : Sparse Nat := []           -- by component kind (R549)
  revoked : BitVec 2 := 0             -- ROOT_REVOKED
  stuck : List Nat := []              -- LEDGER bits below the last burned one that did not read back (R555)
  preferB : Bool := false
  nextBank : Option Bool := none      -- bank record change taken at the next start-up (R557)
  bankA : List Component := []
  bankB : List Component := []
  sfuCopies : List Component := []    -- component area (R381)
  sfuActive : Option Component := none
  deriving DecidableEq, Repr

/-! ### Start-up, management, power -/

/-- Depths of R542. -/
inductive Depth where
  | awake
  | still
  | pooled
  | drained
  | dry
  deriving DecidableEq, Repr

/-- What waits in the wake buffer: a doorbell, a register write, or a read over I3C (R545, R606). -/
inductive HeldPacket where
  | doorbell (tenant : TenantNo) (ring : RingNo) (v : DWord)
  | registerWrite (src : AccessSource) (offset : BitVec 32) (v : DWord)
  | regRead (bytes : List Byte)
  deriving DecidableEq, Repr

/-- PLLs that are locked (R37, R38): the always-on island's, without which it runs from its 25 MHz oscillator; those of the Confluence
ports, Dexlink and the codec; the ONFI ones; the LPDDR4X ones. -/
structure Plls where
  island : Bool := false
  links : Bool := false
  onfi : Bool := false
  lpddr : Bool := false
  deriving DecidableEq, Repr

structure BootS where
  step : Nat := 1               -- step of R637 at which the module stands
  ready : Bool := false
  stopped : Bool := false       -- R589
  kind : BitVec 3 := 0          -- kind of the start-up that runs
  railsUp : Bool := false       -- rails other than VAON
  selfRefresh : Bool := false   -- Cistern (R640)
  resetLow : Bool := false      -- RESET_N held low
  config : Option Word := none  -- board configuration (R635)
  i3cErr : Bool := false
  i3cAddr : Option (BitVec 7) := none
  portUp : Bool := false        -- a Confluence port has come UP since the start-up began (R438)
  faultN : Bool := true         -- FAULT_N pin
  held : List HeldPacket := []  -- doorbells and accesses waiting for step 15 or for the wake (R545, R606, R639)
  jtagCode : Option (BitVec 8) := none
  sfuImageKept : Option Component := none  -- image last switched, in the metadata area (R638)
  plls : Plls := {}
  record : Sparse DWord := []   -- register words that the records of firmware and the Watermaster hold during a start-up (R12, R593)
  restored : Nat := 15          -- step of R637 up to which the registers have taken them
  deriving DecidableEq, Repr

/-- What a headgate keeps (R533, R534). -/
structure Headgate where
  samples : List Nat := []      -- newest first
  lowFor : Nat := 0             -- samples since the mean was last above 15/16 of LIMIT or k last fell
  overFor : Nat := 0            -- samples at k = 12, or on an unpaced rail, with the mean above LIMIT
  deriving DecidableEq, Repr

structure PwrS where
  gates : Sparse Headgate := []
  hotRun : Nat := 0             -- consecutive samples above 107 degrees
  capMv : Nat := 250            -- ceiling the thermal cap puts on the VCORE target, in mV above 0.60 V
  calm : Option Nat := none     -- samples with k 0 on VCORE and VRES since METER_ACTIVE was lost
  depth : Depth := .awake
  entering : Option Depth := none  -- Drained or Dry entry whose save runs
  stage : Nat := 0              -- selected stage
  deriving DecidableEq, Repr

/-- What the fence policy has asked for at a plot and waits for its slot's end: its flume fenced, the whole plot fenced, or only its logical
plot moved (R156, R584). -/
inductive FenceKind where
  | flume
  | whole
  | move
  deriving DecidableEq, Repr

/-- The levee's records in the Aquifer metadata area (R585): register offset and recorded value; the repair list (R385). -/
structure LevS where
  list : Sparse DWord := []
  repairRows : List Nat := []
  rowErrors : Sparse Nat := []     -- corrected errors of each row since start-up (R385)
  badTiers : List Nat := []        -- tiers recorded as lost (R588)
  linkFails : Sparse Nat := []     -- double canal failures by link (R581)
  heldWrites : List (Nat × DWord) := []  -- operator writes held until recorded
  passWindow : Sparse (Nat × Nat) := []  -- by plot: PASSES at the window's start and retries in it (R584)
  furrowFails : Sparse Nat := []
  laneFails : Sparse Nat := []     -- by 16 * plot + SFU lane
  unitFails : Sparse Nat := []     -- by 11 * plot + table unit
  pend : List (Nat × FenceKind) := []   -- fences and relocations that wait for a slot's end, by plot
  runFixes : Sparse Nat := []      -- corrections in a runnel's stores since start-up, by 80 * plot + runnel (R584)
  engineFails : Sparse Nat := []
  testPlot : Nat := 0              -- plot of the running test (R590)
  deriving DecidableEq, Repr

/-! ### Video and headworks -/

/-- Where a numbered DECODE stands (R360, R361, R365). -/
inductive PicState where
  | pending
  | decoding
  | done
  | failed
  | noPicture
  deriving DecidableEq, Repr

/-- A numbered picture of a decode session (R360, R364). -/
structure Pic where
  num : Nat
  ring : RingNo
  seq : Seq
  st : PicState := .pending
  buf : Nat := 0
  obs : Bool := false
  autorel : Bool := false
  release : Bool := false                 -- OBS is to be cleared once every holding read has completed
  holds : List (RingNo × Seq) := []       -- operations that have proceeded on the handle
  rows : Nat := 0                         -- final luma rows of the output window
  geom : Option PicGeom := none           -- known once rows are final
  use : Nat := 0                          -- identity of what its decode gives
  status : BitVec 12 := 0
  deriving DecidableEq, Repr

/-- Marks of a frame buffer (R357). -/
structure FrameBuf where
  dec : Bool := false
  ref : Nat := 0
  obs : Bool := false
  reads : Nat := 0
  src : Bool := false
  deriving DecidableEq, Repr

/-- A decode session (R349, R359). -/
structure DecSession where
  isOpen : Bool := false
  closing : Bool := false
  tenant : TenantNo := 0
  home : RingNo := 0
  desc : BitVec 512 := 0                  -- the VDEC_OPEN that opened it
  pipe : Nat := 0
  nextPic : Nat := 1
  seenKey : Bool := false
  concealedRef : Bool := false
  pics : List Pic := []
  bufs : Sparse FrameBuf := []
  queue : List Nat := []                  -- picture numbers waiting for the pipe
  active : Option Nat := none
  hist : Nat := 0                         -- identity of what its decodes so far have left in the decoder
  deriving DecidableEq, Repr

/-- A picture on its way through an encode session (R369). -/
structure EncJob where
  ring : RingNo
  seq : Seq
  frame : Nat
  num : Nat
  buf : Nat
  rows : Nat := 0                         -- rows of the source that row tokens have shown written
  packed : Bool := false                  -- all of them are
  deriving DecidableEq, Repr

/-- A coded access unit that waits for the output ring (R373). -/
structure EncUnit where
  ring : RingNo
  seq : Seq
  frame : Nat
  num : Nat
  bytes : Nat
  filler : Nat
  key : Bool
  reenc : Bool
  dropped : Bool
  qp : Nat
  trem : Nat
  deriving DecidableEq, Repr

/-- An encode session (R368 to R375). -/
structure EncSession where
  isOpen : Bool := false
  closing : Bool := false
  tenant : TenantNo := 0
  home : RingNo := 0
  desc : BitVec 512 := 0                  -- the VENC_OPEN that opened it
  base : Nat := 0                         -- output ring
  size : Nat := 0
  writeOff : Nat := 0
  nextPic : Nat := 0
  sinceKey : Nat := 0
  forceKey : Bool := true
  taken : Nat := 0                        -- bits removed or, under VBR, not stored, before the next picture (R370)
  qp : Nat := 0
  bufs : Sparse FrameBuf := []
  refs : List Nat := []
  jobs : List EncJob := []
  active : Option Nat := none             -- picture number granted the pipe
  units : List EncUnit := []
  hist : Nat := 0                         -- identity of what its encodes so far have left in the encoder
  ringWait : Bool := false                -- its unit has found too little ring space (R374)
  firstWrite : Option Nat := none         -- codec gauge at the session's first ring write
  flights : List (Nat × Nat) := []        -- units whose writes are not yet acknowledged: picture number, and the write offset past them
  deriving DecidableEq, Repr

/-- A plane of a headworks program (R328). -/
structure Plane where
  w : Nat
  h : Nat
  data : List Word
  deriving DecidableEq, Repr

/-- What a headworks job runs for (R326). -/
inductive HwFor where
  | input (ring : RingNo) (seq : Seq) (session : Nat) (pic : Nat)
  | output (session : Nat) (num : Nat) (pplot : Nat) (part : Nat)
  | run (ring : RingNo) (seq : Seq)
  deriving DecidableEq, Repr

/-- Rows of planes that an operation's ring in the line buffer holds (R336), and the number of the first. -/
structure HwRing where
  start : Nat := 0
  planes : List Plane := []
  deriving DecidableEq, Repr

/-- A headworks job (R326, R327, R336): its program, the stripe and the operation at which it stands, each operation's ring, and the
output rows each has emitted. -/
structure HwJob where
  what : HwFor
  prog : Nat
  src : Nat := 0
  dst : Nat := 0
  stripe : Nat := 0
  opIdx : Nat := 0
  rings : Sparse HwRing := []
  done : Sparse Nat := []
  deriving DecidableEq, Repr

structure VidS where
  dec : Sparse DecSession := []
  enc : Sparse EncSession := []
  hw : Sparse (List HwJob) := []          -- by engine: the running job first
  deriving DecidableEq, Repr

/-! ### Page-table edits -/

/-- Kinds of edit (R305). -/
inductive EditKind where
  | append
  | share
  | clear
  | revert
  | drop
  | refill
  deriving DecidableEq, Repr

/-- An edit waiting in the update queue (R305), with the operation it belongs to. `arg` is the set of an APPEND, DROP or
REFILL, the parent's block of a SHARE, the anchored block of a REVERT. -/
structure Edit where
  kind : EditKind
  part : Nat
  stream : Nat
  owner : Nat
  arg : Nat
  cause : Option (RingNo × Seq)
  frame : Nat := 0   -- frame of the descriptor that an APPEND ends
  deriving DecidableEq, Repr

/-! ### What leaves the block -/

/-- Kinds of Dexlink tag (R525): what an acknowledgement or read data belongs to. -/
inductive TagUse where
  | record (event : Bool)   -- a completion record, and its EVENT bit (R519)
  | data
  | unit (session num : Nat)  -- the writes of an access unit of an encode session (R373)
  | read
  deriving DecidableEq, Repr

structure TagRec where
  half : BitVec 1
  tag : BitVec 16
  use : TagUse
  ring : RingNo
  seq : Seq
  deriving DecidableEq, Repr

/-- Everything the block sends to its environment, in order. -/
inductive Output where
  | memWrite (half : BitVec 1) (tag : BitVec 16) (addr : DWord) (bytes : List Byte)
  | memRead (half : BitVec 1) (tag : BitVec 16) (addr : DWord) (len : Nat)
  | event (ring : RingNo) (vector : BitVec 11)
  | ibi (byte : Byte)
  | i3cReply (bytes : List Byte)
  | token (lplot : LPlot) (ctr : BitVec 6) (inc : BitVec 8) (seq : Seq)
  | rowToken (engine : Nat) (handle : Nat) (rows : Nat)
  | encodeRows (pipe : Nat) (session : Nat) (rows : Nat)
  | cfPacket (rank : BitVec 3) (group : BitVec 6) (cseq : Seq) (kind : Nat) (body : List Byte)
  | adder (addr : Nat) (old : DWord)
  | cisData (part : PartNo) (addr : Nat) (bytes : List Byte)
  | flitNak (link : Link) (fseq : BitVec 12)
  | flit (link : Link) (f : FlitIn)       -- a flit on the wire (R442); an ill CRC or tag is the peer's to find
  | jtag (code : BitVec 8) (accepted : Bool)
  | refusal (status : BitVec 12)  -- what an access that is refused reads
  deriving DecidableEq, Repr

/-! ### Plots -/

/-- States of an accumulator tile (R131), without HELD: a tile is HELD while `Tile.held` counts a user. -/
inductive TileSt where
  | free
  | live
  | pending
  deriving DecidableEq, Repr

/-- An accumulator tile (R131, R216): its elements in row-major order, beyond the list +0; its valid extent and fill; and the
nest output bound to it (R196), as expansion, row tile and column tile. -/
structure Tile where
  st : TileSt := .free
  held : Nat := 0
  data : List Word := []
  rows : Nat := 64
  cols : Nat := 64
  negInf : Bool := false
  bound : Option (Nat × Nat × Nat) := none
  deriving DecidableEq, Repr

/-- A staging slot with its scale store entry (R122, R123). -/
structure StageSlot where
  full : Bool := false
  fmt : Nat := 0
  negInf : Bool := false
  data : List Byte := []
  scales : List Byte := []
  deriving DecidableEq, Repr

/-- A stored tile that a word reads or writes (R192, R299): descriptor index, tile row and column, parameter offset, L3
buffer, and for a PAGE source the sets of its snapshot. -/
structure TileRef where
  desc : Nat
  r : Nat := 0
  c : Nat := 0
  off : Nat := 0
  buf : Nat := 0
  walk : List Nat := []
  deriving DecidableEq, Repr

/-- What a nest says of one of its passes (R196, R197, R203). -/
structure PassBind where
  serial : Nat                -- the expansion
  nest : Nat                  -- descriptor index, for the overflow log
  e : Nat                     -- expansion count of the descriptor
  m : Nat
  n : Nat
  k : Nat
  rows : Nat
  cols : Nat
  negInf : Bool
  first : Bool
  ovf : Option (Fin 4) := none   -- the overflow the pass meets: 1 accumulator, 2 staging
  deriving DecidableEq, Repr

/-- One expanded word of a NEST (R187), with what the word itself does not carry. -/
inductive ExpItem where
  | word (w : StreamWord)
  | pass (w : PassWord) (b : PassBind)
  | fill (w : FillWord) (t : TileRef) (nest e m n k : Nat)
  | furrow (op : BitVec 4) (fop : BitVec 6) (w : FurrowWord) (r c off : Nat) (resetBank : Bool) (nest e : Nat)
  | retire (walks : List Nat)     -- the NEST retires here: its walks do
  deriving DecidableEq, Repr

/-- Where a word stream stands (R159, R167, R190). -/
structure StreamPos where
  pc : Nat := 0
  exp : List ExpItem := []
  counts : Sparse Nat := []       -- expansions by nest descriptor since the load
  ended : Bool := false
  atLayer : Option Nat := none    -- stands at this LAYER end
  ret : Option Nat := none        -- word after the LAYER end, while a wide variant runs
  stopped : Bool := false         -- an overflow has stopped its issue (R200)
  deriving DecidableEq, Repr

/-- A pass issued and not drained (R115, R118). -/
structure PassRec where
  w : PassWord
  fault : Option DWord := none     -- the flume's seep as it marked the pass (R140, R141)
  rel : List (Bool × Nat) := []    -- slots that an earlier pass gave up and this one still reads: bank, slot (R123, R128)
  ends : List Nat := []            -- walks of the NESTs that retire with it (R187, R302)
  deriving DecidableEq, Repr

/-- A fill accepted and not complete (R163). -/
structure FillReq where
  bank : Bool
  slot : Nat
  tile : TileRef
  fillc : Nat
  deriving DecidableEq, Repr

/-- A furrow word whose rows wait for SFU grants (R213, R248). -/
structure FuRun where
  op : BitVec 4
  fop : BitVec 6
  w : FurrowWord
  tile : TileRef
  reset : Bool := false
  index : Nat := 0     -- of the word in its stream
  row : Nat := 0
  deriving DecidableEq, Repr

/-- A row of a row-statistics bank (R221). -/
structure BankRow where
  max : Word := 0xFF800000
  sumHi : Word := 0
  sumLo : Word := 0
  mean : Word := 0
  m2Hi : Word := 0
  m2Lo : Word := 0
  count : Word := 0
  factor : Word := 0x3F800000
  deriving DecidableEq, Repr

/-- A runnel's move (R176). -/
structure Move where
  runnel : Nat
  tile : Bool                   -- KIND
  toRemote : Bool               -- DIR
  addr : Nat
  off : Nat
  len : Nat
  deriving DecidableEq, Repr

/-- A logical runnel (R175): integer registers and pc. -/
structure Runnel where
  regs : Sparse Word := []
  pc : Nat := 0
  done : Bool := true           -- stopped, or not started
  moves : Nat := 0              -- moves started in the slot
  deriving DecidableEq, Repr

/-- A runnel that waits for the SFU cluster (R248). -/
structure SfuReq where
  runnel : Nat
  code : BitVec 4
  rd : BitVec 5
  arg : Word
  deriving DecidableEq, Repr

/-- Who waits for a micro-program: a request of the furrow's row, by its furrow lane, or a runnel. -/
inductive MicroUser where
  | row (lane : Nat)
  | runnel (r : Nat) (rd : BitVec 5)
  deriving DecidableEq, Repr

/-- The lane context of a micro-program (R256): its registers, its slot, the words it has run, and who waits for its result. -/
structure MicroLane where
  regs : Sparse Word := []
  slot : Nat := 0
  word : Nat := 0
  user : Option MicroUser := none
  deriving DecidableEq, Repr

/-- A physical plot (R113 to R290): what its units hold beside the registers. -/
structure Plot where
  part : Nat := 0
  lplot : Nat := 0
  loaded : Bool := false        -- step 4 of R152 has been done for the slot
  running : Bool := false       -- START has arrived
  seq : Seq := 0                -- slot it is at
  section_ : Nat := 0           -- section of the image (R145)
  ctx : Sparse Word := []       -- plot-control entries 0x000 to 0x00D (R179)
  param : Sparse Word := []
  ctr : Sparse Word := []       -- token counters (R168)
  early : List (Seq × Nat × Nat) := []  -- early-token store: slot, counter, increment (R170)
  stateMap : BitVec 16 := 0
  fence : Bool := false         -- state fence closed (R172)
  tiles : Sparse Tile := []
  rowStage : Sparse StageSlot := []
  bank : Sparse StageSlot := []
  fills : List FillReq := []
  passes : List PassRec := []
  pendFail : Option (BitVec 12) := none  -- status of an overflow, reported once the issued words have completed (R200)
  retries : Nat := 0            -- retries the slot may still use (R138)
  flume : StreamPos := {}
  furrow : StreamPos := {}
  serial : Nat := 0             -- NEST expansions so far, over both streams
  walks : List Nat := []        -- identities of walks the plot's NESTs hold
  satCount : Nat := 0
  stoch : Nat := 0              -- stochastic conversions since the slot started (R96)
  fuRun : Option FuRun := none
  stats : Sparse BankRow := []  -- by 64 * bank + row
  runnels : Sparse Runnel := [] -- by logical runnel
  moves : List Move := []
  runMap : Sparse Nat := []     -- physical runnel of each logical one, taken at a cold load (R158)
  scratch : List Host.Cell := []  -- by 4096 * physical runnel + address
  sfuQ : List SfuReq := []
  sfuLast : Nat := 0            -- runnel served last
  sfuTurn : Bool := false       -- the last grant served the furrow
  micro : Sparse MicroLane := []
  mpNext : Nat := 0             -- requests of the furrow's row that micro-programs have begun
  mpOut : Sparse Word := []     -- results of its row's micro-programs, by furrow lane
  owners : Sparse Nat := []     -- owner in each owner slot, plus 1 (R300)
  versions : Sparse Nat := []   -- block in each owner slot
  openSets : Sparse Nat := []   -- open set in each owner slot, plus 1
  resident : List (Nat × Nat × Nat) := []  -- KEEP entries whose data is resident (R403): entry, offset, length
  deriving DecidableEq, Repr

/-- An endpoint of the canal (R20, R25): a plot's router, a reach's hub, an edge block. -/
inductive Station where
  | plot (p : Nat)
  | hub (reach : Nat)
  | edge (block : Nat)
  deriving DecidableEq, Repr

/-- A token on its way to a plot (R42, R168, R170), in the order in which tokens were sent. -/
structure Token where
  src : Station
  pplot : Nat
  ctr : Nat
  inc : Nat
  seq : Seq
  deriving DecidableEq, Repr

/-- A table load as it reached the plots (R253 step 2): on each it wrote the named units into the banks that SFU_PLOT_CTL did not select,
as that register stood there. A bank holds the image of the last load that wrote it (R252). -/
structure TableLoad where
  units : BitVec 11
  image : BitVec 384
  selects : Sparse DWord
  deriving DecidableEq, Repr

/-- The page-tile caches, and the tables loaded into the SFU clusters (R252, R255). -/
structure SfuS where
  pgCache : Sparse (List Nat) := []   -- page-tile cache of each reach, most recent first (R320)
  tables : List TableLoad := []       -- what the banks of the clusters hold: the loads that wrote them, latest first
  owed : List Nat := []               -- plots whose bank selects a switch has still to flip (R253 step 5)
  loading : Option (BitVec 11 × Component) := none  -- units and image of the load that runs
  loadedUnits : BitVec 11 := 0  -- units of the last completed load
  loaded : Option Component := none  -- its image
  route : Sparse (BitVec 10) := []    -- fall-back routes in force on each plot since its last slot load (R261)
  deriving DecidableEq, Repr

/-! ### Links -/

/-- A packet that waits for flit slots on a virtual channel: its flits still to send, and whether its first has gone. -/
structure TxPkt where
  vc : Nat
  left : Nat
  fresh : Bool := true
  deriving DecidableEq, Repr

/-- What a link keeps beside its registers (R442 to R448, R525): a Confluence port p is link p, Dexlink half h link 8 + h. -/
structure LinkRec where
  lastGood : BitVec 12 := 0xFFF      -- FSEQ of the last flit received good and in order
  replaying : Bool := false          -- flits are discarded until the replay arrives
  fails : Nat := 0                   -- failures of one flit in succession
  txNext : BitVec 12 := 0            -- FSEQ of the next flit sent
  txq : List TxPkt := []             -- packets that wait for flit slots, in order
  slot : Nat := 0                    -- position of the next flit slot in the window of 256
  sent : Sparse (BitVec 12) := []    -- flits sent on each VC
  retry : List (FlitIn × Bool) := [] -- the last 1,024 flits sent, and whether a seep meets their replay
  freed : Sparse (BitVec 12) := []   -- the peer's FREED by VC
  rxFreed : Sparse (BitVec 12) := [] -- flits of each VC freed here
  keys : Nat := 0                    -- link keys agreed
  tagFailed : Bool := false          -- a packet's tag has failed (R446)
  sopPrev : BitVec 12 := 0xFFF       -- FSEQ before the packet that is arriving
  trained : Bool := false            -- a Dexlink half has passed its steps (R526)
  deriving DecidableEq, Repr

/-- What the links keep beside their registers (R525). -/
structure LinkS where
  links : Sparse LinkRec := []
  tags : List TagRec := []
  nextTag : Sparse (BitVec 16) := []
  deriving DecidableEq, Repr

/-! ### Collectives -/

/-- A collective that has started on this member and not ended (R454 to R472). -/
structure Coll where
  cseq : Seq
  body : List Byte                       -- the 40 bytes of R454
  host : Option (RingNo × Seq) := none   -- its operation; none: a list entry
  part : Nat := 0
  entry : Nat := 0
  refused : Bool := false
  phase : Nat := 1                       -- 1 header, 2 data, 3 vote
  attempt : Nat := 0
  headers : Sparse (Option HeaderPkt) := []  -- by rank
  reserved : Bool := false
  window : Sparse Nat := []              -- chunks a peer has granted, by rank
  sent : Sparse Nat := []                -- chunks sent, by rank
  chunks : List (Nat × Nat × List Byte) := []  -- checked: rank, index, bytes
  results : List Nat := []               -- own result chunks written
  failed : Bool := false
  votes : Sparse (Option Bool) := []     -- by 8 * attempt + rank
  early : List ChunkPkt := []            -- chunks of the next attempt, which land before this one has ended here
  voted : Bool := false
  limitRuns : Bool := true
  stopped : Bool := false
  snaps : Sparse (Option (Nat × Nat)) := []  -- by rank: phase and chunks
  released : Bool := false               -- the token was sent before the commit
  faults : List (Nat × Nat × Nat) := []  -- what a persistent seep meets again on a replay: target, rank, chunk
  deriving DecidableEq, Repr

/-- A group (R451 to R453). -/
structure Group where
  isOpen : Bool := false
  mask : BitVec 8 := 0
  part : Nat := 0
  hostUse : Bool := false
  replays : Nat := 0
  nameMode : Bool := false
  tlimit : Nat := 0
  tenant : TenantNo := 0
  nextSeq : Seq := 1
  broken : Bool := false
  colls : List Coll := []
  aborted : List (Seq × BitVec 12) := []  -- collectives not reached that end at once when they are
  earlySnaps : List (Seq × Nat × Nat × Nat) := []  -- SNAPSHOTs of collectives not reached: number, rank, phase, chunks
  closing : Option (RingNo × Seq) := none
  deriving DecidableEq, Repr

structure CfS where
  groups : Sparse Group := []
  early : List (Nat × Nat × Seq × HeaderPkt) := []  -- headers held: group, rank, number
  lists : Sparse (List Byte) := []                  -- by image pool index
  turn : Sparse Nat := []                           -- chunk packets placed on each module's bundle
  deriving DecidableEq, Repr

/-! ### Cistern channels -/

/-- What the channel controllers keep beside their registers (R412, R423, R427 to R429), by channel. -/
structure CisS where
  queues : Sparse (List Instr) := []   -- requests held while a channel is not ONLINE; past 512 they wait at their routers
  retrainWait : List Nat := []         -- channels that wait for their group of 8
  used : Sparse Nat := []              -- grants of the running window of 256
  partUsed : Sparse Nat := []          -- of them a partition's, by 64 * channel + partition
  cached : Sparse (List Nat) := []     -- blocks in the add cache, most recent first
  mr4 : Sparse (BitVec 3) := []        -- last MR4 reading, from which the refresh rate is derated
  deriving DecidableEq, Repr

/-! ### Seeps -/

/-- A fault that a fired seep leaves for its unit (R141, R579): the instance it meets, and the fields the seep was armed with. -/
structure Injection where
  kind : SeepKind
  inst : Nat
  word : DWord
  deriving DecidableEq, Repr

/-! ### The whole -/

/-- The state of the block. -/
structure State where
  regs : Sparse DWord := []            -- by offset in the privileged view
  ctrs : Sparse (BitVec 48) := []      -- counters by offset (R614)
  ovf : Sparse DWord := []             -- CNT_OVF by the offset of its counter block
  mem : Mem := {}
  host : HostS := {}
  ctx : CtxS := {}
  rot : RotS := {}
  pools : Sparse Pool := []            -- by partition
  edits : List Edit := []              -- page-table update queue (R305)
  plots : Sparse Plot := []            -- by physical plot index
  canal : List Token := []             -- tokens on their way
  sfu : SfuS := {}
  aqf : AqS := {}
  wm : WmS := {}
  vid : VidS := {}
  lnk : LinkS := {}
  cf : CfS := {}
  cis : CisS := {}
  boot : BootS := {}
  pwr : PwrS := {}
  lev : LevS := {}
  armed : Sparse DWord := []           -- what a seep register held as it was armed, by offset (R141)
  seen : Sparse Nat := []              -- events an armed seep has counted, by the same offset (R140, R141)
  inject : List Injection := []        -- faults a fired seep has still to inject (R141)
  out : List Output := []
  arb : Sparse (Sparse Nat) := []      -- grants to others that each waiting requester of an arbiter has seen (R34)
  codecPhase : Nat := 0                -- reference periods since CODEC_GAUGE last stood at a whole number of both periods
  freeIdx : Nat := 0                   -- the model's own: index of the next free value (log entry 1)
  pending : List Instr := []           -- commands waiting, first in, first out
  deriving DecidableEq, Repr

/-- The machine right after reset: every register, counter and unit at its reset value, start-up at step 1 of R637. -/
def State.reset : State := {}

end Sys2Proof.Machine
end

