-- ==== Sys2Proof/Machine/Regs.lean ====
section
/-! DEFINITION. The register reference (R603 to R621): the registers of the privileged view with their offsets, strides and
instance counts (R607, R609, R610, R611), their fields with access codes and reset values (R10, R12), and the reading and
writing of one field. A register holds one 64-bit word; one that the state does not list holds its reset value. -/

namespace Sys2Proof.Machine

/-- The registers of the privileged view (R609, R610, R611, R619, R607). -/
inductive RegKind where
  | flCheckLog
  | flSeep
  | mapEntry
  | ovfLog
  | fuResidueLog
  | fuSeep
  | sfuLog
  | sfuSeep
  | sfuTblCtl
  | sfuPartCtl
  | sfuPlotCtl
  | pgPoolCtl
  | pgStatus
  | pgReclaim
  | pgDirect
  | pgCache
  | hwLog
  | hwSeep
  | vidArea
  | codecLog
  | codecSeep
  | wcCtl
  | resTierCtl
  | liftLog
  | memtSeep
  | cisProt
  | cisMap
  | cisChCtl
  | cisPartBw
  | cisLog
  | cisSeep
  | cfBoard
  | cfPort
  | cfVc
  | cfLog
  | cfSeep
  | rotPart
  | rotEntry
  | rotCtl
  | cadenceCtl
  | rotPool
  | sluiceLog
  | sluiceSeep
  | ringCtl
  | ringStatus
  | dexCtl
  | dexHalf
  | dexLog
  | dexSeep
  | pwrCtl
  | hgCtl
  | hgStatus
  | wmStatus
  | wmTenant
  | wmLog
  | wmSeep
  | leveePlot
  | plotTest
  | rstCause
  | slotWdog
  | gaugeClear
  | trapLog
  | aqChCtl
  | thermCtl
  | thermStatus
  | pwrIdle
  | pwrSave
  | pwrLog
  | pwrSeep
  | plotLog
  | plotSeep
  | sfuTblAddr
  | sfuSwitchPending
  | pgPoolBase
  | pgMetaBase
  | ringSqBase
  | ringCqBase
  | pwrStage
  | pwrPhase
  | wmCtl
  | leveeRunLo
  | leveeRunHi
  | leveePolicy
  | leveeEng
  | evtStatus
  | evtCtl
  | refGauge
  | codecGauge
  | runMap
  deriving DecidableEq, Repr

/-- Access codes of R10, without their .P suffix. -/
inductive Access where
  | rw
  | ro
  | wo
  | w1c
  deriving DecidableEq, Repr

/-- A named field of a register. -/
structure Fld where
  reg : RegKind
  lo : Nat
  w : Nat
  deriving DecidableEq, Repr

/-- A field's line in a register table: where it lies, how it is accessed, and its reset value (none: FUSE, R12). -/
structure FieldDesc where
  lo : Nat
  w : Nat
  acc : Access
  priv : Bool
  reset : Option Nat
  deriving DecidableEq, Repr

/-- Offset of instance 0, stride and instance count (R607, R609, R610, R611). -/
structure RegPlace where
  base : Nat
  stride : Nat
  count : Nat
  deriving DecidableEq, Repr

/-- Where each register lies in the privileged view. RUN_MAP takes ten instances per plot (R611) and is placed by
`regOff`. -/
def RegKind.place : RegKind → RegPlace
  | .flCheckLog => ⟨0x1000000, 0x1000, 1056⟩
  | .flSeep => ⟨0x1000008, 0x1000, 1056⟩
  | .mapEntry => ⟨0x34000, 0x8, 1024⟩
  | .ovfLog => ⟨0x1000018, 0x1000, 1056⟩
  | .fuResidueLog => ⟨0x1000020, 0x1000, 1056⟩
  | .fuSeep => ⟨0x1000028, 0x1000, 1056⟩
  | .sfuLog => ⟨0x1000030, 0x1000, 1056⟩
  | .sfuSeep => ⟨0x1000038, 0x1000, 1056⟩
  | .sfuTblCtl => ⟨0x0, 0x8, 1⟩
  | .sfuPartCtl => ⟨0x10008, 0x800, 64⟩
  | .sfuPlotCtl => ⟨0x1000040, 0x1000, 1056⟩
  | .pgPoolCtl => ⟨0x10030, 0x800, 64⟩
  | .pgStatus => ⟨0x10038, 0x800, 64⟩
  | .pgReclaim => ⟨0x10040, 0x800, 64⟩
  | .pgDirect => ⟨0x20, 0x8, 1⟩
  | .pgCache => ⟨0x40000, 0x1000, 16⟩
  | .hwLog => ⟨0x40020, 0x1000, 16⟩
  | .hwSeep => ⟨0x40028, 0x1000, 16⟩
  | .vidArea => ⟨0x40008, 0x1000, 16⟩
  | .codecLog => ⟨0x80000, 0x400, 16⟩
  | .codecSeep => ⟨0x80008, 0x400, 16⟩
  | .wcCtl => ⟨0x40, 0x8, 1⟩
  | .resTierCtl => ⟨0x48, 0x8, 1⟩
  | .liftLog => ⟨0x40010, 0x1000, 16⟩
  | .memtSeep => ⟨0x40018, 0x1000, 16⟩
  | .cisProt => ⟨0x60, 0x8, 1⟩
  | .cisMap => ⟨0x68, 0x8, 1⟩
  | .cisChCtl => ⟨0x60000, 0x400, 64⟩
  | .cisPartBw => ⟨0x10010, 0x800, 64⟩
  | .cisLog => ⟨0x60008, 0x400, 64⟩
  | .cisSeep => ⟨0x60010, 0x400, 64⟩
  | .cfBoard => ⟨0x80, 0x8, 1⟩
  | .cfPort => ⟨0x90000, 0x400, 8⟩
  | .cfVc => ⟨0x88, 0x8, 1⟩
  | .cfLog => ⟨0x90, 0x8, 1⟩
  | .cfSeep => ⟨0x98, 0x8, 1⟩
  | .rotPart => ⟨0x10000, 0x800, 64⟩
  | .rotEntry => ⟨0x30000, 0x8, 1024⟩
  | .rotCtl => ⟨0xC0, 0x8, 1⟩
  | .cadenceCtl => ⟨0xC8, 0x8, 1⟩
  | .rotPool => ⟨0xD0, 0x8, 1⟩
  | .sluiceLog => ⟨0x50000, 0x400, 32⟩
  | .sluiceSeep => ⟨0x50008, 0x400, 32⟩
  | .ringCtl => ⟨0x400010, 0x400, 4096⟩
  | .ringStatus => ⟨0x400018, 0x400, 4096⟩
  | .dexCtl => ⟨0x100, 0x8, 1⟩
  | .dexHalf => ⟨0x94000, 0x400, 2⟩
  | .dexLog => ⟨0x108, 0x8, 1⟩
  | .dexSeep => ⟨0x110, 0x8, 1⟩
  | .pwrCtl => ⟨0x140, 0x8, 1⟩
  | .hgCtl => ⟨0x98000, 0x400, 9⟩
  | .hgStatus => ⟨0x98008, 0x400, 9⟩
  | .wmStatus => ⟨0x200, 0x8, 1⟩
  | .wmTenant => ⟨0xA0000, 0x400, 64⟩
  | .wmLog => ⟨0x210, 0x8, 1⟩
  | .wmSeep => ⟨0x218, 0x8, 1⟩
  | .leveePlot => ⟨0x1000058, 0x1000, 1056⟩
  | .plotTest => ⟨0x250, 0x8, 1⟩
  | .rstCause => ⟨0x260, 0x8, 1⟩
  | .slotWdog => ⟨0x258, 0x8, 1⟩
  | .gaugeClear => ⟨0x310, 0x8, 1⟩
  | .trapLog => ⟨0x1000010, 0x1000, 1056⟩
  | .aqChCtl => ⟨0x70000, 0x8, 32⟩
  | .thermCtl => ⟨0x190, 0x8, 1⟩
  | .thermStatus => ⟨0x198, 0x8, 1⟩
  | .pwrIdle => ⟨0x1A0, 0x8, 1⟩
  | .pwrSave => ⟨0x1A8, 0x8, 1⟩
  | .pwrLog => ⟨0x1B0, 0x8, 1⟩
  | .pwrSeep => ⟨0x1B8, 0x8, 1⟩
  | .plotLog => ⟨0x1000048, 0x1000, 1056⟩
  | .plotSeep => ⟨0x1000050, 0x1000, 1056⟩
  | .sfuTblAddr => ⟨0x8, 0x8, 1⟩
  | .sfuSwitchPending => ⟨0x10, 0x8, 1⟩
  | .pgPoolBase => ⟨0x10020, 0x800, 64⟩
  | .pgMetaBase => ⟨0x10028, 0x800, 64⟩
  | .ringSqBase => ⟨0x400000, 0x400, 4096⟩
  | .ringCqBase => ⟨0x400008, 0x400, 4096⟩
  | .pwrStage => ⟨0x150, 0x8, 8⟩
  | .pwrPhase => ⟨0x148, 0x8, 1⟩
  | .wmCtl => ⟨0x208, 0x8, 1⟩
  | .leveeRunLo => ⟨0x1000060, 0x1000, 1056⟩
  | .leveeRunHi => ⟨0x1000068, 0x1000, 1056⟩
  | .leveePolicy => ⟨0x240, 0x8, 1⟩
  | .leveeEng => ⟨0x248, 0x8, 1⟩
  | .evtStatus => ⟨0x268, 0x8, 1⟩
  | .evtCtl => ⟨0x270, 0x8, 1⟩
  | .refGauge => ⟨0x300, 0x8, 1⟩
  | .codecGauge => ⟨0x308, 0x8, 1⟩
  | .runMap => ⟨0x1000080, 0x8, 10560⟩

def fd (lo w : Nat) (acc : Access) (priv : Bool) (reset : Option Nat) : FieldDesc := ⟨lo, w, acc, priv, reset⟩

def flCheckLogFields : List FieldDesc := [fd 0 7 .ro true (some 127), fd 7 7 .ro true (some 127), fd 14 1 .ro true (some 0), fd 15 1 .ro true (some 0), fd 16 4 .ro true (some 0), fd 20 3 .ro true (some 0), fd 23 1 .ro true (some 0), fd 31 1 .w1c true (some 0)]
def flSeepFields : List FieldDesc := [fd 0 1 .rw true (some 0), fd 1 1 .rw true (some 0), fd 2 2 .rw true (some 0), fd 4 6 .rw true (some 0), fd 10 6 .rw true (some 0), fd 16 6 .rw true (some 0), fd 32 16 .rw true (some 0), fd 48 1 .w1c true (some 0)]
def mapEntryFields : List FieldDesc := [fd 0 5 .rw true none, fd 5 6 .rw true none, fd 11 1 .rw true (some 0)]
def ovfLogFields : List FieldDesc := [fd 0 12 .ro true (some 0), fd 12 2 .ro true (some 0), fd 14 1 .ro true (some 0), fd 16 10 .ro true (some 0), fd 26 10 .ro true (some 0), fd 36 10 .ro true (some 0), fd 46 16 .ro true (some 0), fd 63 1 .w1c true (some 0)]
def fuResidueLogFields : List FieldDesc := [fd 0 6 .ro true (some 0), fd 6 6 .ro true (some 0), fd 12 3 .ro true (some 0), fd 16 14 .ro true (some 0), fd 30 4 .ro true (some 0), fd 34 6 .ro true (some 0), fd 40 1 .ro true (some 0), fd 63 1 .w1c true (some 0)]
def fuSeepFields : List FieldDesc := [fd 0 1 .rw true (some 0), fd 1 1 .rw true (some 0), fd 2 3 .rw true (some 0), fd 5 6 .rw true (some 0), fd 11 5 .rw true (some 0), fd 32 16 .rw true (some 0), fd 48 1 .w1c true (some 0)]
def sfuLogFields : List FieldDesc := [fd 0 4 .ro true (some 0), fd 4 4 .ro true (some 0), fd 8 1 .ro true (some 0), fd 9 2 .ro true (some 0), fd 11 10 .ro true (some 0), fd 21 1 .ro true (some 0), fd 22 7 .ro true (some 0), fd 63 1 .w1c true (some 0)]
def sfuSeepFields : List FieldDesc := [fd 0 1 .rw true (some 0), fd 1 1 .rw true (some 0), fd 2 2 .rw true (some 0), fd 4 4 .rw true (some 0), fd 8 5 .rw true (some 0), fd 32 16 .rw true (some 0), fd 48 1 .w1c true (some 0)]
def sfuTblCtlFields : List FieldDesc := [fd 0 11 .rw true (some 0), fd 11 1 .wo true (some 0), fd 12 1 .wo true (some 0), fd 13 1 .ro true (some 0), fd 14 1 .w1c true (some 0), fd 16 32 .ro true (some 0)]
def sfuPartCtlFields : List FieldDesc := [fd 0 1 .rw true (some 0), fd 1 1 .ro true (some 0)]
def sfuPlotCtlFields : List FieldDesc := [fd 0 16 .rw true none, fd 16 10 .rw true (some 0), fd 26 11 .rw true (some 0), fd 37 16 .ro true none]
def pgPoolCtlFields : List FieldDesc := [fd 0 24 .rw true (some 0), fd 24 16 .rw true (some 0), fd 40 16 .rw true (some 0), fd 56 1 .rw true (some 0)]
def pgStatusFields : List FieldDesc := [fd 0 24 .ro true (some 0), fd 24 16 .ro true (some 0), fd 40 1 .w1c true (some 0), fd 41 1 .w1c true (some 0), fd 42 1 .rw true (some 0), fd 43 1 .rw true (some 0)]
def pgReclaimFields : List FieldDesc := [fd 0 24 .rw true (some 0), fd 24 1 .wo true (some 0), fd 25 1 .ro true (some 0)]
def pgDirectFields : List FieldDesc := [fd 0 17 .rw true (some 0), fd 17 1 .rw true (some 0), fd 18 1 .ro true (some 0)]
def pgCacheFields : List FieldDesc := [fd 0 7 .rw true (some 0)]
def hwLogFields : List FieldDesc := [fd 0 3 .ro true (some 0), fd 3 3 .ro true (some 0), fd 6 13 .ro true (some 0), fd 19 1 .ro true (some 0), fd 63 1 .w1c true (some 0)]
def hwSeepFields : List FieldDesc := [fd 0 1 .rw true (some 0), fd 1 1 .rw true (some 0), fd 2 3 .rw true (some 0), fd 5 6 .rw true (some 0), fd 11 5 .rw true (some 0), fd 32 16 .rw true (some 0), fd 48 1 .w1c true (some 0)]
def vidAreaFields : List FieldDesc := [fd 0 4 .rw true (some 0), fd 4 5 .rw true (some 0)]
def codecLogFields : List FieldDesc := [fd 0 8 .ro true (some 0), fd 8 1 .ro true (some 0), fd 9 3 .ro true (some 0), fd 12 13 .ro true (some 0), fd 25 1 .ro true (some 0), fd 63 1 .w1c true (some 0)]
def codecSeepFields : List FieldDesc := [fd 0 1 .rw true (some 0), fd 1 1 .rw true (some 0), fd 2 3 .rw true (some 0), fd 5 5 .rw true (some 0), fd 32 16 .rw true (some 0), fd 48 1 .w1c true (some 0)]
def wcCtlFields : List FieldDesc := [fd 0 9 .rw true (some 0), fd 9 9 .rw true (some 0), fd 18 1 .wo true (some 0)]
def resTierCtlFields : List FieldDesc := [fd 0 24 .rw true (some 16434824), fd 24 1 .rw true (some 0)]
def liftLogFields : List FieldDesc := [fd 0 12 .ro true (some 0), fd 12 12 .ro true (some 0), fd 24 1 .ro true (some 0), fd 25 5 .ro true (some 0), fd 63 1 .w1c true (some 0)]
def memtSeepFields : List FieldDesc := [fd 0 1 .rw true (some 0), fd 1 1 .rw true (some 0), fd 2 2 .rw true (some 0), fd 4 5 .rw true (some 0), fd 32 16 .rw true (some 0), fd 48 1 .w1c true (some 0)]
def cisProtFields : List FieldDesc := [fd 0 19 .rw true (some 0), fd 19 17 .rw true (some 0), fd 36 19 .rw true (some 0), fd 55 1 .rw true (some 0), fd 56 1 .ro true (some 0), fd 57 1 .w1c true (some 0)]
def cisMapFields : List FieldDesc := [fd 0 32 .ro true (some 0), fd 32 6 .rw true (some 0), fd 38 1 .ro true none, fd 39 1 .wo true (some 0), fd 40 2 .ro true (some 0), fd 42 1 .w1c true (some 0)]
def cisChCtlFields : List FieldDesc := [fd 0 2 .ro true (some 0), fd 2 1 .wo true (some 0), fd 3 1 .rw true (some 0), fd 4 10 .ro true (some 0), fd 14 2 .ro true (some 0)]
def cisPartBwFields : List FieldDesc := [fd 0 8 .rw true (some 1), fd 8 8 .rw true (some 0), fd 16 8 .rw true (some 0), fd 24 1 .w1c true (some 0)]
def cisLogFields : List FieldDesc := [fd 0 31 .ro true (some 0), fd 31 3 .ro true (some 0), fd 34 12 .ro true (some 0), fd 63 1 .w1c true (some 0)]
def cisSeepFields : List FieldDesc := [fd 0 1 .rw true (some 0), fd 1 1 .rw true (some 0), fd 2 2 .rw true (some 0), fd 4 5 .rw true (some 0), fd 32 16 .rw true (some 0), fd 48 1 .w1c true (some 0)]
def cfBoardFields : List FieldDesc := [fd 0 3 .rw true (some 0), fd 3 2 .rw true (some 0), fd 5 24 .rw true (some 0), fd 29 8 .ro true (some 1)]
def cfPortFields : List FieldDesc := [fd 0 1 .rw true (some 0), fd 1 1 .wo true (some 0), fd 2 2 .ro true (some 0), fd 4 3 .ro true (some 0), fd 7 3 .ro true (some 0), fd 10 4 .ro true (some 15), fd 14 3 .ro true (some 0), fd 17 11 .ro true (some 0)]
def cfVcFields : List FieldDesc := [fd 0 8 .rw true (some 192), fd 8 8 .rw true (some 48), fd 16 8 .rw true (some 16)]
def cfLogFields : List FieldDesc := [fd 0 6 .ro true (some 0), fd 6 3 .ro true (some 0), fd 9 3 .ro true (some 0), fd 12 3 .ro true (some 0), fd 15 32 .ro true (some 0), fd 47 16 .ro true (some 0), fd 63 1 .w1c true (some 0)]
def cfSeepFields : List FieldDesc := [fd 0 1 .rw true (some 0), fd 1 1 .rw true (some 0), fd 2 3 .rw true (some 0), fd 5 3 .rw true (some 0), fd 8 3 .rw true (some 0), fd 32 16 .rw true (some 0), fd 48 1 .w1c true (some 0)]
def rotPartFields : List FieldDesc := [fd 0 5 .rw true (some 0), fd 5 5 .rw true (some 0), fd 10 5 .rw true (some 0), fd 15 5 .rw true (some 0), fd 20 10 .rw true (some 0), fd 30 10 .rw true (some 0), fd 40 1 .rw true (some 0), fd 41 1 .rw true (some 0), fd 42 1 .rw true (some 0), fd 43 1 .ro true (some 1), fd 44 8 .rw true (some 0)]
def rotEntryFields : List FieldDesc := [fd 0 12 .rw true (some 0), fd 12 1 .rw true (some 0), fd 13 2 .rw true (some 0), fd 15 3 .rw true (some 0), fd 18 2 .rw true (some 0), fd 20 1 .rw true (some 0), fd 21 8 .rw true (some 0), fd 32 8 .rw true (some 0), fd 40 24 .rw true (some 0)]
def rotCtlFields : List FieldDesc := [fd 0 1 .wo true (some 0), fd 1 1 .ro true (some 0), fd 2 1 .w1c true (some 0), fd 3 4 .ro true (some 0), fd 7 10 .ro true (some 0), fd 17 6 .ro true (some 0), fd 23 32 .ro true (some 0)]
def cadenceCtlFields : List FieldDesc := [fd 0 1 .rw true (some 0), fd 1 1 .rw true (some 0), fd 2 24 .rw true (some 0), fd 26 1 .w1c true (some 0), fd 27 1 .rw true (some 0)]
def rotPoolFields : List FieldDesc := [fd 0 32 .rw true (some 0), fd 32 16 .rw true (some 0)]
def sluiceLogFields : List FieldDesc := [fd 0 17 .ro true (some 0), fd 17 12 .ro true (some 0), fd 29 1 .ro true (some 0), fd 30 2 .ro true (some 0), fd 32 12 .ro true (some 0), fd 44 1 .ro true (some 0), fd 45 1 .ro true (some 0), fd 63 1 .w1c true (some 0)]
def sluiceSeepFields : List FieldDesc := [fd 0 1 .rw true (some 0), fd 1 1 .rw true (some 0), fd 2 2 .rw true (some 0), fd 4 5 .rw true (some 0), fd 32 16 .rw true (some 0), fd 48 1 .w1c true (some 0)]
def ringCtlFields : List FieldDesc := [fd 0 5 .rw true (some 6), fd 5 5 .rw true (some 6), fd 10 6 .rw true (some 0), fd 16 1 .rw true (some 0), fd 17 1 .rw true (some 0), fd 18 1 .rw true (some 0), fd 19 2 .rw true (some 0), fd 21 11 .rw true (some 0), fd 32 8 .rw true (some 0), fd 40 16 .rw true (some 0)]
def ringStatusFields : List FieldDesc := [fd 0 16 .ro false (some 0), fd 16 16 .ro false (some 0), fd 32 16 .ro false (some 0), fd 48 1 .w1c false (some 0), fd 49 1 .w1c false (some 0), fd 50 1 .ro false (some 0)]
def dexCtlFields : List FieldDesc := [fd 0 1 .rw true (some 0), fd 1 1 .rw true (some 0), fd 2 1 .rw true (some 0), fd 3 1 .wo true (some 0), fd 4 1 .wo true (some 0)]
def dexHalfFields : List FieldDesc := [fd 0 2 .ro true (some 0), fd 2 4 .ro true (some 15), fd 6 3 .ro true (some 0), fd 9 11 .ro true (some 0)]
def dexLogFields : List FieldDesc := [fd 0 1 .ro true (some 0), fd 1 3 .ro true (some 0), fd 4 12 .ro true (some 0), fd 16 4 .ro true (some 0), fd 63 1 .w1c true (some 0)]
def dexSeepFields : List FieldDesc := [fd 0 1 .rw true (some 0), fd 1 1 .rw true (some 0), fd 2 2 .rw true (some 0), fd 4 1 .rw true (some 0), fd 5 3 .rw true (some 0), fd 32 16 .rw true (some 0), fd 48 1 .w1c true (some 0)]
def pwrCtlFields : List FieldDesc := [fd 0 1 .rw true (some 0), fd 1 1 .ro true (some 0), fd 2 1 .w1c true (some 0), fd 3 1 .rw true (some 0), fd 4 8 .ro true (some 150), fd 12 11 .ro true none, fd 23 7 .ro true none]
def hgCtlFields : List FieldDesc := [fd 0 13 .rw true none, fd 13 6 .rw true (some 10), fd 19 1 .rw true (some 0)]
def hgStatusFields : List FieldDesc := [fd 0 13 .ro true (some 0), fd 13 4 .ro true (some 0), fd 17 1 .w1c true (some 0)]
def wmStatusFields : List FieldDesc := [fd 0 21 .ro true none, fd 21 1 .ro true (some 0), fd 22 1 .ro true (some 0), fd 23 1 .ro true (some 0), fd 24 1 .ro true none]
def wmTenantFields : List FieldDesc := [fd 0 2 .ro true (some 0), fd 2 32 .ro true (some 0)]
def wmLogFields : List FieldDesc := [fd 0 3 .ro true (some 0), fd 3 6 .ro true (some 0), fd 9 16 .ro true (some 0), fd 25 7 .ro true (some 0), fd 63 1 .w1c true (some 0)]
def wmSeepFields : List FieldDesc := [fd 0 1 .rw true (some 0), fd 1 1 .rw true (some 0), fd 2 2 .rw true (some 0), fd 4 7 .rw true (some 0), fd 32 16 .rw true (some 0), fd 48 1 .w1c true (some 0)]
def leveePlotFields : List FieldDesc := [fd 0 1 .rw true none, fd 1 1 .rw true none, fd 2 1 .rw true (some 0), fd 3 1 .ro true none, fd 4 7 .ro true none]
def plotTestFields : List FieldDesc := [fd 0 11 .rw true (some 0), fd 11 1 .wo true (some 0), fd 12 1 .ro true (some 0), fd 13 2 .ro true (some 0), fd 15 3 .ro true (some 0)]
def rstCauseFields : List FieldDesc := [fd 0 3 .ro true (some 0), fd 3 1 .ro true (some 0), fd 4 4 .ro true (some 0), fd 8 8 .ro true (some 0), fd 16 32 .ro true (some 0)]
def slotWdogFields : List FieldDesc := [fd 0 8 .rw true (some 16), fd 8 6 .rw true (some 0), fd 14 1 .rw true (some 0), fd 15 1 .w1c true (some 0), fd 16 6 .ro true (some 0)]
def gaugeClearFields : List FieldDesc := [fd 0 1 .wo true (some 0), fd 1 1 .wo true (some 0)]
def trapLogFields : List FieldDesc := [fd 0 7 .ro true (some 0), fd 7 12 .ro true (some 0), fd 19 4 .ro true (some 0), fd 63 1 .w1c true (some 0)]
def aqChCtlFields : List FieldDesc := [fd 0 2 .ro true (some 0), fd 2 8 .rw true none]
def thermCtlFields : List FieldDesc := [fd 0 8 .rw true (some 95), fd 8 8 .rw true (some 100), fd 16 1 .rw true (some 0)]
def thermStatusFields : List FieldDesc := [fd 0 8 .ro true (some 0), fd 8 7 .ro true (some 0), fd 15 1 .w1c true (some 0), fd 16 1 .ro true (some 0)]
def pwrIdleFields : List FieldDesc := [fd 0 32 .rw true (some 0), fd 32 16 .rw true (some 100), fd 48 1 .rw true (some 0), fd 49 2 .ro true (some 0)]
def pwrSaveFields : List FieldDesc := [fd 0 9 .rw true (some 0), fd 9 1 .rw true (some 0)]
def pwrLogFields : List FieldDesc := [fd 0 4 .ro true (some 0), fd 4 7 .ro true (some 0), fd 11 3 .ro true (some 0), fd 63 1 .w1c true (some 0)]
def pwrSeepFields : List FieldDesc := [fd 0 1 .rw true (some 0), fd 1 1 .rw true (some 0), fd 2 1 .rw true (some 0), fd 3 7 .rw true (some 0), fd 10 13 .rw true (some 0), fd 32 16 .rw true (some 0), fd 48 1 .w1c true (some 0)]
def plotLogFields : List FieldDesc := [fd 0 3 .ro true (some 0), fd 3 7 .ro true (some 0), fd 10 12 .ro true (some 0), fd 63 1 .w1c true (some 0)]
def plotSeepFields : List FieldDesc := [fd 0 1 .rw true (some 0), fd 1 1 .rw true (some 0), fd 2 3 .rw true (some 0), fd 5 7 .rw true (some 0), fd 12 6 .rw true (some 0), fd 18 1 .rw true (some 0), fd 32 16 .rw true (some 0), fd 48 1 .w1c true (some 0)]
def sfuTblAddrFields : List FieldDesc := [fd 0 48 .rw true (some 0)]
def sfuSwitchPendingFields : List FieldDesc := [fd 0 64 .ro true (some 0)]
def pgPoolBaseFields : List FieldDesc := [fd 16 32 .rw true (some 0)]
def pgMetaBaseFields : List FieldDesc := [fd 16 32 .rw true (some 0)]
def ringSqBaseFields : List FieldDesc := [fd 12 52 .rw true (some 0)]
def ringCqBaseFields : List FieldDesc := [fd 12 52 .rw true (some 0)]
def pwrStageFields : List FieldDesc := [fd 0 8 .rw true (some 150)]
def pwrPhaseFields : List FieldDesc := [fd 0 21 .rw true (some 0)]
def wmCtlFields : List FieldDesc := [fd 0 1 .rw true (some 0)]
def leveeRunLoFields : List FieldDesc := [fd 0 64 .rw true none]
def leveeRunHiFields : List FieldDesc := [fd 0 16 .rw true none]
def leveePolicyFields : List FieldDesc := [fd 0 8 .rw true (some 4), fd 8 8 .rw true (some 16), fd 16 1 .rw true (some 1)]
def leveeEngFields : List FieldDesc := [fd 0 16 .rw true (some 0), fd 16 16 .rw true (some 0)]
def evtStatusFields : List FieldDesc := [fd 0 17 .w1c false (some 0)]
def evtCtlFields : List FieldDesc := [fd 0 12 .rw true (some 0), fd 12 11 .rw true (some 0), fd 23 1 .rw true (some 0)]
def refGaugeFields : List FieldDesc := [fd 0 48 .ro true (some 0), fd 48 4 .ro true (some 0)]
def codecGaugeFields : List FieldDesc := [fd 0 48 .ro true (some 0), fd 48 4 .ro true (some 1)]
def runMapFields : List FieldDesc := [fd 0 7 .rw true none, fd 7 7 .rw true none, fd 14 7 .rw true none, fd 21 7 .rw true none, fd 28 7 .rw true none, fd 35 7 .rw true none, fd 42 7 .rw true none, fd 49 7 .rw true none]

/-- The fields of each register, from the tables of the chapters R609 to R611 name; a bit no line covers is Reserved. -/
def RegKind.fields : RegKind → List FieldDesc
  | .flCheckLog => flCheckLogFields
  | .flSeep => flSeepFields
  | .mapEntry => mapEntryFields
  | .ovfLog => ovfLogFields
  | .fuResidueLog => fuResidueLogFields
  | .fuSeep => fuSeepFields
  | .sfuLog => sfuLogFields
  | .sfuSeep => sfuSeepFields
  | .sfuTblCtl => sfuTblCtlFields
  | .sfuPartCtl => sfuPartCtlFields
  | .sfuPlotCtl => sfuPlotCtlFields
  | .pgPoolCtl => pgPoolCtlFields
  | .pgStatus => pgStatusFields
  | .pgReclaim => pgReclaimFields
  | .pgDirect => pgDirectFields
  | .pgCache => pgCacheFields
  | .hwLog => hwLogFields
  | .hwSeep => hwSeepFields
  | .vidArea => vidAreaFields
  | .codecLog => codecLogFields
  | .codecSeep => codecSeepFields
  | .wcCtl => wcCtlFields
  | .resTierCtl => resTierCtlFields
  | .liftLog => liftLogFields
  | .memtSeep => memtSeepFields
  | .cisProt => cisProtFields
  | .cisMap => cisMapFields
  | .cisChCtl => cisChCtlFields
  | .cisPartBw => cisPartBwFields
  | .cisLog => cisLogFields
  | .cisSeep => cisSeepFields
  | .cfBoard => cfBoardFields
  | .cfPort => cfPortFields
  | .cfVc => cfVcFields
  | .cfLog => cfLogFields
  | .cfSeep => cfSeepFields
  | .rotPart => rotPartFields
  | .rotEntry => rotEntryFields
  | .rotCtl => rotCtlFields
  | .cadenceCtl => cadenceCtlFields
  | .rotPool => rotPoolFields
  | .sluiceLog => sluiceLogFields
  | .sluiceSeep => sluiceSeepFields
  | .ringCtl => ringCtlFields
  | .ringStatus => ringStatusFields
  | .dexCtl => dexCtlFields
  | .dexHalf => dexHalfFields
  | .dexLog => dexLogFields
  | .dexSeep => dexSeepFields
  | .pwrCtl => pwrCtlFields
  | .hgCtl => hgCtlFields
  | .hgStatus => hgStatusFields
  | .wmStatus => wmStatusFields
  | .wmTenant => wmTenantFields
  | .wmLog => wmLogFields
  | .wmSeep => wmSeepFields
  | .leveePlot => leveePlotFields
  | .plotTest => plotTestFields
  | .rstCause => rstCauseFields
  | .slotWdog => slotWdogFields
  | .gaugeClear => gaugeClearFields
  | .trapLog => trapLogFields
  | .aqChCtl => aqChCtlFields
  | .thermCtl => thermCtlFields
  | .thermStatus => thermStatusFields
  | .pwrIdle => pwrIdleFields
  | .pwrSave => pwrSaveFields
  | .pwrLog => pwrLogFields
  | .pwrSeep => pwrSeepFields
  | .plotLog => plotLogFields
  | .plotSeep => plotSeepFields
  | .sfuTblAddr => sfuTblAddrFields
  | .sfuSwitchPending => sfuSwitchPendingFields
  | .pgPoolBase => pgPoolBaseFields
  | .pgMetaBase => pgMetaBaseFields
  | .ringSqBase => ringSqBaseFields
  | .ringCqBase => ringCqBaseFields
  | .pwrStage => pwrStageFields
  | .pwrPhase => pwrPhaseFields
  | .wmCtl => wmCtlFields
  | .leveeRunLo => leveeRunLoFields
  | .leveeRunHi => leveeRunHiFields
  | .leveePolicy => leveePolicyFields
  | .leveeEng => leveeEngFields
  | .evtStatus => evtStatusFields
  | .evtCtl => evtCtlFields
  | .refGauge => refGaugeFields
  | .codecGauge => codecGaugeFields
  | .runMap => runMapFields
def regKinds0 : List RegKind := [.flCheckLog, .flSeep, .mapEntry, .ovfLog, .fuResidueLog, .fuSeep, .sfuLog, .sfuSeep, .sfuTblCtl, .sfuPartCtl, .sfuPlotCtl, .pgPoolCtl, .pgStatus, .pgReclaim, .pgDirect]
def regKinds1 : List RegKind := [.pgCache, .hwLog, .hwSeep, .vidArea, .codecLog, .codecSeep, .wcCtl, .resTierCtl, .liftLog, .memtSeep, .cisProt, .cisMap, .cisChCtl, .cisPartBw, .cisLog]
def regKinds2 : List RegKind := [.cisSeep, .cfBoard, .cfPort, .cfVc, .cfLog, .cfSeep, .rotPart, .rotEntry, .rotCtl, .cadenceCtl, .rotPool, .sluiceLog, .sluiceSeep, .ringCtl, .ringStatus]
def regKinds3 : List RegKind := [.dexCtl, .dexHalf, .dexLog, .dexSeep, .pwrCtl, .hgCtl, .hgStatus, .wmStatus, .wmTenant, .wmLog, .wmSeep, .leveePlot, .plotTest, .rstCause, .slotWdog]
def regKinds4 : List RegKind := [.gaugeClear, .trapLog, .aqChCtl, .thermCtl, .thermStatus, .pwrIdle, .pwrSave, .pwrLog, .pwrSeep, .plotLog, .plotSeep, .sfuTblAddr, .sfuSwitchPending, .pgPoolBase, .pgMetaBase]
def regKinds5 : List RegKind := [.ringSqBase, .ringCqBase, .pwrStage, .pwrPhase, .wmCtl, .leveeRunLo, .leveeRunHi, .leveePolicy, .leveeEng, .evtStatus, .evtCtl, .refGauge, .codecGauge, .runMap]

/-- Every register kind, in the order of the tables. -/
def allRegKinds : List RegKind :=
  regKinds0 ++ (regKinds1 ++ (regKinds2 ++ (regKinds3 ++ (regKinds4 ++ (regKinds5)))))

def FL_CHECK_LOG_ROW : Fld := ⟨.flCheckLog, 0, 7⟩
def FL_CHECK_LOG_COL : Fld := ⟨.flCheckLog, 7, 7⟩
def FL_CHECK_LOG_MULTI : Fld := ⟨.flCheckLog, 14, 1⟩
def FL_CHECK_LOG_DRAIN : Fld := ⟨.flCheckLog, 15, 1⟩
def FL_CHECK_LOG_DST : Fld := ⟨.flCheckLog, 16, 4⟩
def FL_CHECK_LOG_CLASS : Fld := ⟨.flCheckLog, 20, 3⟩
def FL_CHECK_LOG_RETRY_OK : Fld := ⟨.flCheckLog, 23, 1⟩
def FL_CHECK_LOG_VALID : Fld := ⟨.flCheckLog, 31, 1⟩
def FL_SEEP_ARM : Fld := ⟨.flSeep, 0, 1⟩
def FL_SEEP_PERSIST : Fld := ⟨.flSeep, 1, 1⟩
def FL_SEEP_TARGET : Fld := ⟨.flSeep, 2, 2⟩
def FL_SEEP_ROW : Fld := ⟨.flSeep, 4, 6⟩
def FL_SEEP_COL : Fld := ⟨.flSeep, 10, 6⟩
def FL_SEEP_BIT : Fld := ⟨.flSeep, 16, 6⟩
def FL_SEEP_DELAY : Fld := ⟨.flSeep, 32, 16⟩
def FL_SEEP_FIRED : Fld := ⟨.flSeep, 48, 1⟩
def MAP_ENTRY_PY : Fld := ⟨.mapEntry, 0, 5⟩
def MAP_ENTRY_PX : Fld := ⟨.mapEntry, 5, 6⟩
def MAP_ENTRY_CHANGING : Fld := ⟨.mapEntry, 11, 1⟩
def OVF_LOG_DESC : Fld := ⟨.ovfLog, 0, 12⟩
def OVF_LOG_CAUSE : Fld := ⟨.ovfLog, 12, 2⟩
def OVF_LOG_OUTSIDE : Fld := ⟨.ovfLog, 14, 1⟩
def OVF_LOG_MI : Fld := ⟨.ovfLog, 16, 10⟩
def OVF_LOG_NI : Fld := ⟨.ovfLog, 26, 10⟩
def OVF_LOG_KI : Fld := ⟨.ovfLog, 36, 10⟩
def OVF_LOG_EXP : Fld := ⟨.ovfLog, 46, 16⟩
def OVF_LOG_VALID : Fld := ⟨.ovfLog, 63, 1⟩
def FU_RESIDUE_LOG_ROW : Fld := ⟨.fuResidueLog, 0, 6⟩
def FU_RESIDUE_LOG_LANE : Fld := ⟨.fuResidueLog, 6, 6⟩
def FU_RESIDUE_LOG_UNIT : Fld := ⟨.fuResidueLog, 12, 3⟩
def FU_RESIDUE_LOG_WORD : Fld := ⟨.fuResidueLog, 16, 14⟩
def FU_RESIDUE_LOG_OP : Fld := ⟨.fuResidueLog, 30, 4⟩
def FU_RESIDUE_LOG_FOP : Fld := ⟨.fuResidueLog, 34, 6⟩
def FU_RESIDUE_LOG_RETRY_OK : Fld := ⟨.fuResidueLog, 40, 1⟩
def FU_RESIDUE_LOG_VALID : Fld := ⟨.fuResidueLog, 63, 1⟩
def FU_SEEP_ARM : Fld := ⟨.fuSeep, 0, 1⟩
def FU_SEEP_PERSIST : Fld := ⟨.fuSeep, 1, 1⟩
def FU_SEEP_UNIT : Fld := ⟨.fuSeep, 2, 3⟩
def FU_SEEP_LANE : Fld := ⟨.fuSeep, 5, 6⟩
def FU_SEEP_BIT : Fld := ⟨.fuSeep, 11, 5⟩
def FU_SEEP_DELAY : Fld := ⟨.fuSeep, 32, 16⟩
def FU_SEEP_FIRED : Fld := ⟨.fuSeep, 48, 1⟩
def SFU_LOG_LANE : Fld := ⟨.sfuLog, 0, 4⟩
def SFU_LOG_FUNC : Fld := ⟨.sfuLog, 4, 4⟩
def SFU_LOG_SOURCE : Fld := ⟨.sfuLog, 8, 1⟩
def SFU_LOG_KIND : Fld := ⟨.sfuLog, 9, 2⟩
def SFU_LOG_ENTRY : Fld := ⟨.sfuLog, 11, 10⟩
def SFU_LOG_RETRY_OK : Fld := ⟨.sfuLog, 21, 1⟩
def SFU_LOG_RUNNEL : Fld := ⟨.sfuLog, 22, 7⟩
def SFU_LOG_VALID : Fld := ⟨.sfuLog, 63, 1⟩
def SFU_SEEP_ARM : Fld := ⟨.sfuSeep, 0, 1⟩
def SFU_SEEP_PERSIST : Fld := ⟨.sfuSeep, 1, 1⟩
def SFU_SEEP_KIND : Fld := ⟨.sfuSeep, 2, 2⟩
def SFU_SEEP_LANE : Fld := ⟨.sfuSeep, 4, 4⟩
def SFU_SEEP_BIT : Fld := ⟨.sfuSeep, 8, 5⟩
def SFU_SEEP_DELAY : Fld := ⟨.sfuSeep, 32, 16⟩
def SFU_SEEP_FIRED : Fld := ⟨.sfuSeep, 48, 1⟩
def SFU_TBL_CTL_UNITS : Fld := ⟨.sfuTblCtl, 0, 11⟩
def SFU_TBL_CTL_LOAD : Fld := ⟨.sfuTblCtl, 11, 1⟩
def SFU_TBL_CTL_SWITCH : Fld := ⟨.sfuTblCtl, 12, 1⟩
def SFU_TBL_CTL_LOAD_DONE : Fld := ⟨.sfuTblCtl, 13, 1⟩
def SFU_TBL_CTL_LOAD_REFUSED : Fld := ⟨.sfuTblCtl, 14, 1⟩
def SFU_TBL_CTL_EPOCH : Fld := ⟨.sfuTblCtl, 16, 32⟩
def SFU_PART_CTL_COMPAT : Fld := ⟨.sfuPartCtl, 0, 1⟩
def SFU_PART_CTL_COMPAT_ACTIVE : Fld := ⟨.sfuPartCtl, 1, 1⟩
def SFU_PLOT_CTL_LANE_FENCE : Fld := ⟨.sfuPlotCtl, 0, 16⟩
def SFU_PLOT_CTL_ROUTE : Fld := ⟨.sfuPlotCtl, 16, 10⟩
def SFU_PLOT_CTL_BANK : Fld := ⟨.sfuPlotCtl, 26, 11⟩
def SFU_PLOT_CTL_LANES_ACTIVE : Fld := ⟨.sfuPlotCtl, 37, 16⟩
def PG_POOL_CTL_PAGES : Fld := ⟨.pgPoolCtl, 0, 24⟩
def PG_POOL_CTL_EMERG : Fld := ⟨.pgPoolCtl, 24, 16⟩
def PG_POOL_CTL_PAGE_4K : Fld := ⟨.pgPoolCtl, 40, 16⟩
def PG_POOL_CTL_ENABLE : Fld := ⟨.pgPoolCtl, 56, 1⟩
def PG_STATUS_FREE : Fld := ⟨.pgStatus, 0, 24⟩
def PG_STATUS_EMERG_FREE : Fld := ⟨.pgStatus, 24, 16⟩
def PG_STATUS_LOW : Fld := ⟨.pgStatus, 40, 1⟩
def PG_STATUS_STARVED : Fld := ⟨.pgStatus, 41, 1⟩
def PG_STATUS_LOW_EN : Fld := ⟨.pgStatus, 42, 1⟩
def PG_STATUS_STARVED_EN : Fld := ⟨.pgStatus, 43, 1⟩
def PG_RECLAIM_TARGET : Fld := ⟨.pgReclaim, 0, 24⟩
def PG_RECLAIM_START : Fld := ⟨.pgReclaim, 24, 1⟩
def PG_RECLAIM_BUSY : Fld := ⟨.pgReclaim, 25, 1⟩
def PG_DIRECT_STREAM : Fld := ⟨.pgDirect, 0, 17⟩
def PG_DIRECT_QUIESCE : Fld := ⟨.pgDirect, 17, 1⟩
def PG_DIRECT_QUIESCED : Fld := ⟨.pgDirect, 18, 1⟩
def PG_CACHE_CACHE_256K : Fld := ⟨.pgCache, 0, 7⟩
def HW_LOG_OPK : Fld := ⟨.hwLog, 0, 3⟩
def HW_LOG_UNIT : Fld := ⟨.hwLog, 3, 3⟩
def HW_LOG_ROW : Fld := ⟨.hwLog, 6, 13⟩
def HW_LOG_RETRY_OK : Fld := ⟨.hwLog, 19, 1⟩
def HW_LOG_VALID : Fld := ⟨.hwLog, 63, 1⟩
def HW_SEEP_ARM : Fld := ⟨.hwSeep, 0, 1⟩
def HW_SEEP_PERSIST : Fld := ⟨.hwSeep, 1, 1⟩
def HW_SEEP_UNIT : Fld := ⟨.hwSeep, 2, 3⟩
def HW_SEEP_LANE : Fld := ⟨.hwSeep, 5, 6⟩
def HW_SEEP_BIT : Fld := ⟨.hwSeep, 11, 5⟩
def HW_SEEP_DELAY : Fld := ⟨.hwSeep, 32, 16⟩
def HW_SEEP_FIRED : Fld := ⟨.hwSeep, 48, 1⟩
def VID_AREA_OFF_1M : Fld := ⟨.vidArea, 0, 4⟩
def VID_AREA_SIZE_1M : Fld := ⟨.vidArea, 4, 5⟩
def CODEC_LOG_SESSION : Fld := ⟨.codecLog, 0, 8⟩
def CODEC_LOG_ENC : Fld := ⟨.codecLog, 8, 1⟩
def CODEC_LOG_UNIT : Fld := ⟨.codecLog, 9, 3⟩
def CODEC_LOG_ROW : Fld := ⟨.codecLog, 12, 13⟩
def CODEC_LOG_RETRY_OK : Fld := ⟨.codecLog, 25, 1⟩
def CODEC_LOG_VALID : Fld := ⟨.codecLog, 63, 1⟩
def CODEC_SEEP_ARM : Fld := ⟨.codecSeep, 0, 1⟩
def CODEC_SEEP_PERSIST : Fld := ⟨.codecSeep, 1, 1⟩
def CODEC_SEEP_UNIT : Fld := ⟨.codecSeep, 2, 3⟩
def CODEC_SEEP_BIT : Fld := ⟨.codecSeep, 5, 5⟩
def CODEC_SEEP_DELAY : Fld := ⟨.codecSeep, 32, 16⟩
def CODEC_SEEP_FIRED : Fld := ⟨.codecSeep, 48, 1⟩
def WC_CTL_BASE_1G : Fld := ⟨.wcCtl, 0, 9⟩
def WC_CTL_SIZE_1G : Fld := ⟨.wcCtl, 9, 9⟩
def WC_CTL_FLUSH : Fld := ⟨.wcCtl, 18, 1⟩
def RES_TIER_CTL_MAP : Fld := ⟨.resTierCtl, 0, 24⟩
def RES_TIER_CTL_SEVEN : Fld := ⟨.resTierCtl, 24, 1⟩
def LIFT_LOG_ENTRY : Fld := ⟨.liftLog, 0, 12⟩
def LIFT_LOG_STATUS : Fld := ⟨.liftLog, 12, 12⟩
def LIFT_LOG_DEGRADED : Fld := ⟨.liftLog, 24, 1⟩
def LIFT_LOG_CHANNEL : Fld := ⟨.liftLog, 25, 5⟩
def LIFT_LOG_VALID : Fld := ⟨.liftLog, 63, 1⟩
def MEMT_SEEP_ARM : Fld := ⟨.memtSeep, 0, 1⟩
def MEMT_SEEP_PERSIST : Fld := ⟨.memtSeep, 1, 1⟩
def MEMT_SEEP_TARGET : Fld := ⟨.memtSeep, 2, 2⟩
def MEMT_SEEP_CHANNEL : Fld := ⟨.memtSeep, 4, 5⟩
def MEMT_SEEP_DELAY : Fld := ⟨.memtSeep, 32, 16⟩
def MEMT_SEEP_FIRED : Fld := ⟨.memtSeep, 48, 1⟩
def CIS_PROT_BASE_1M : Fld := ⟨.cisProt, 0, 19⟩
def CIS_PROT_SIZE_7M : Fld := ⟨.cisProt, 19, 17⟩
def CIS_PROT_PAR_BASE_1M : Fld := ⟨.cisProt, 36, 19⟩
def CIS_PROT_ENABLE : Fld := ⟨.cisProt, 55, 1⟩
def CIS_PROT_READY : Fld := ⟨.cisProt, 56, 1⟩
def CIS_PROT_REFUSED : Fld := ⟨.cisProt, 57, 1⟩
def CIS_MAP_EPOCH : Fld := ⟨.cisMap, 0, 32⟩
def CIS_MAP_CHANNEL : Fld := ⟨.cisMap, 32, 6⟩
def CIS_MAP_RETIRED : Fld := ⟨.cisMap, 38, 1⟩
def CIS_MAP_RETIRE : Fld := ⟨.cisMap, 39, 1⟩
def CIS_MAP_PHASE : Fld := ⟨.cisMap, 40, 2⟩
def CIS_MAP_REFUSED : Fld := ⟨.cisMap, 42, 1⟩
def CIS_CH_CTL_STATE : Fld := ⟨.cisChCtl, 0, 2⟩
def CIS_CH_CTL_RETRAIN : Fld := ⟨.cisChCtl, 2, 1⟩
def CIS_CH_CTL_REPAIR : Fld := ⟨.cisChCtl, 3, 1⟩
def CIS_CH_CTL_QUEUE : Fld := ⟨.cisChCtl, 4, 10⟩
def CIS_CH_CTL_FAILS : Fld := ⟨.cisChCtl, 14, 2⟩
def CIS_PART_BW_WEIGHT : Fld := ⟨.cisPartBw, 0, 8⟩
def CIS_PART_BW_RESERVE : Fld := ⟨.cisPartBw, 8, 8⟩
def CIS_PART_BW_CAP : Fld := ⟨.cisPartBw, 16, 8⟩
def CIS_PART_BW_REFUSED : Fld := ⟨.cisPartBw, 24, 1⟩
def CIS_LOG_BLOCK : Fld := ⟨.cisLog, 0, 31⟩
def CIS_LOG_KIND : Fld := ⟨.cisLog, 31, 3⟩
def CIS_LOG_STATUS : Fld := ⟨.cisLog, 34, 12⟩
def CIS_LOG_VALID : Fld := ⟨.cisLog, 63, 1⟩
def CIS_SEEP_ARM : Fld := ⟨.cisSeep, 0, 1⟩
def CIS_SEEP_PERSIST : Fld := ⟨.cisSeep, 1, 1⟩
def CIS_SEEP_TARGET : Fld := ⟨.cisSeep, 2, 2⟩
def CIS_SEEP_SYMBOL : Fld := ⟨.cisSeep, 4, 5⟩
def CIS_SEEP_DELAY : Fld := ⟨.cisSeep, 32, 16⟩
def CIS_SEEP_FIRED : Fld := ⟨.cisSeep, 48, 1⟩
def CF_BOARD_MODULE_ID : Fld := ⟨.cfBoard, 0, 3⟩
def CF_BOARD_BOARD_SIZE : Fld := ⟨.cfBoard, 3, 2⟩
def CF_BOARD_BOARD_ID : Fld := ⟨.cfBoard, 5, 24⟩
def CF_BOARD_PROTO : Fld := ⟨.cfBoard, 29, 8⟩
def CF_PORT_ENABLE : Fld := ⟨.cfPort, 0, 1⟩
def CF_PORT_RETRAIN : Fld := ⟨.cfPort, 1, 1⟩
def CF_PORT_STATE : Fld := ⟨.cfPort, 2, 2⟩
def CF_PORT_PEER : Fld := ⟨.cfPort, 4, 3⟩
def CF_PORT_PEER_PORT : Fld := ⟨.cfPort, 7, 3⟩
def CF_PORT_SPARED : Fld := ⟨.cfPort, 10, 4⟩
def CF_PORT_REASON : Fld := ⟨.cfPort, 14, 3⟩
def CF_PORT_LOOP : Fld := ⟨.cfPort, 17, 11⟩
def CF_VC_W_COLL : Fld := ⟨.cfVc, 0, 8⟩
def CF_VC_W_LIFT : Fld := ⟨.cfVc, 8, 8⟩
def CF_VC_W_CTRL : Fld := ⟨.cfVc, 16, 8⟩
def CF_LOG_GROUP : Fld := ⟨.cfLog, 0, 6⟩
def CF_LOG_SRANK : Fld := ⟨.cfLog, 6, 3⟩
def CF_LOG_KIND : Fld := ⟨.cfLog, 9, 3⟩
def CF_LOG_PORT : Fld := ⟨.cfLog, 12, 3⟩
def CF_LOG_CSEQ : Fld := ⟨.cfLog, 15, 32⟩
def CF_LOG_INDEX : Fld := ⟨.cfLog, 47, 16⟩
def CF_LOG_VALID : Fld := ⟨.cfLog, 63, 1⟩
def CF_SEEP_ARM : Fld := ⟨.cfSeep, 0, 1⟩
def CF_SEEP_PERSIST : Fld := ⟨.cfSeep, 1, 1⟩
def CF_SEEP_TARGET : Fld := ⟨.cfSeep, 2, 3⟩
def CF_SEEP_PORT : Fld := ⟨.cfSeep, 5, 3⟩
def CF_SEEP_DRANK : Fld := ⟨.cfSeep, 8, 3⟩
def CF_SEEP_DELAY : Fld := ⟨.cfSeep, 32, 16⟩
def CF_SEEP_FIRED : Fld := ⟨.cfSeep, 48, 1⟩
def ROT_PART_X0 : Fld := ⟨.rotPart, 0, 5⟩
def ROT_PART_Y0 : Fld := ⟨.rotPart, 5, 5⟩
def ROT_PART_W_M1 : Fld := ⟨.rotPart, 10, 5⟩
def ROT_PART_H_M1 : Fld := ⟨.rotPart, 15, 5⟩
def ROT_PART_FIRST : Fld := ⟨.rotPart, 20, 10⟩
def ROT_PART_COUNT_M1 : Fld := ⟨.rotPart, 30, 10⟩
def ROT_PART_ENABLE : Fld := ⟨.rotPart, 40, 1⟩
def ROT_PART_HOLD : Fld := ⟨.rotPart, 41, 1⟩
def ROT_PART_DIAG_HOLD : Fld := ⟨.rotPart, 42, 1⟩
def ROT_PART_IDLE : Fld := ⟨.rotPart, 43, 1⟩
def ROT_PART_CDIV_M1 : Fld := ⟨.rotPart, 44, 8⟩
def ROT_ENTRY_IMAGE : Fld := ⟨.rotEntry, 0, 12⟩
def ROT_ENTRY_VALID : Fld := ⟨.rotEntry, 12, 1⟩
def ROT_ENTRY_ROLE : Fld := ⟨.rotEntry, 13, 2⟩
def ROT_ENTRY_FPP_M1 : Fld := ⟨.rotEntry, 15, 3⟩
def ROT_ENTRY_TRIG : Fld := ⟨.rotEntry, 18, 2⟩
def ROT_ENTRY_RT : Fld := ⟨.rotEntry, 20, 1⟩
def ROT_ENTRY_MINRES : Fld := ⟨.rotEntry, 21, 8⟩
def ROT_ENTRY_STATE_OFF : Fld := ⟨.rotEntry, 32, 8⟩
def ROT_ENTRY_PERIOD_US : Fld := ⟨.rotEntry, 40, 24⟩
def ROT_CTL_COMMIT : Fld := ⟨.rotCtl, 0, 1⟩
def ROT_CTL_PENDING : Fld := ⟨.rotCtl, 1, 1⟩
def ROT_CTL_REFUSED : Fld := ⟨.rotCtl, 2, 1⟩
def ROT_CTL_CHECK : Fld := ⟨.rotCtl, 3, 4⟩
def ROT_CTL_ENTRY : Fld := ⟨.rotCtl, 7, 10⟩
def ROT_CTL_PART : Fld := ⟨.rotCtl, 17, 6⟩
def ROT_CTL_GEN : Fld := ⟨.rotCtl, 23, 32⟩
def CADENCE_CTL_ENABLE : Fld := ⟨.cadenceCtl, 0, 1⟩
def CADENCE_CTL_EDGE : Fld := ⟨.cadenceCtl, 1, 1⟩
def CADENCE_CTL_MIN_US : Fld := ⟨.cadenceCtl, 2, 24⟩
def CADENCE_CTL_FAST : Fld := ⟨.cadenceCtl, 26, 1⟩
def CADENCE_CTL_FAST_EN : Fld := ⟨.cadenceCtl, 27, 1⟩
def ROT_POOL_BASE_64K : Fld := ⟨.rotPool, 0, 32⟩
def ROT_POOL_SIZE_1M : Fld := ⟨.rotPool, 32, 16⟩
def SLUICE_LOG_STREAM : Fld := ⟨.sluiceLog, 0, 17⟩
def SLUICE_LOG_FUTURE : Fld := ⟨.sluiceLog, 17, 12⟩
def SLUICE_LOG_TRUNK : Fld := ⟨.sluiceLog, 29, 1⟩
def SLUICE_LOG_KIND : Fld := ⟨.sluiceLog, 30, 2⟩
def SLUICE_LOG_STATUS : Fld := ⟨.sluiceLog, 32, 12⟩
def SLUICE_LOG_RETRY_OK : Fld := ⟨.sluiceLog, 44, 1⟩
def SLUICE_LOG_COMMITTED : Fld := ⟨.sluiceLog, 45, 1⟩
def SLUICE_LOG_VALID : Fld := ⟨.sluiceLog, 63, 1⟩
def SLUICE_SEEP_ARM : Fld := ⟨.sluiceSeep, 0, 1⟩
def SLUICE_SEEP_PERSIST : Fld := ⟨.sluiceSeep, 1, 1⟩
def SLUICE_SEEP_TARGET : Fld := ⟨.sluiceSeep, 2, 2⟩
def SLUICE_SEEP_BIT : Fld := ⟨.sluiceSeep, 4, 5⟩
def SLUICE_SEEP_DELAY : Fld := ⟨.sluiceSeep, 32, 16⟩
def SLUICE_SEEP_FIRED : Fld := ⟨.sluiceSeep, 48, 1⟩
def RING_CTL_SQ_LOG : Fld := ⟨.ringCtl, 0, 5⟩
def RING_CTL_CQ_LOG : Fld := ⟨.ringCtl, 5, 5⟩
def RING_CTL_TENANT : Fld := ⟨.ringCtl, 10, 6⟩
def RING_CTL_MAINT : Fld := ⟨.ringCtl, 16, 1⟩
def RING_CTL_HALF : Fld := ⟨.ringCtl, 17, 1⟩
def RING_CTL_ENABLE : Fld := ⟨.ringCtl, 18, 1⟩
def RING_CTL_EVMODE : Fld := ⟨.ringCtl, 19, 2⟩
def RING_CTL_VECTOR : Fld := ⟨.ringCtl, 21, 11⟩
def RING_CTL_EVCOUNT : Fld := ⟨.ringCtl, 32, 8⟩
def RING_CTL_EVDELAY_US : Fld := ⟨.ringCtl, 40, 16⟩
def RING_STATUS_SQ_HEAD : Fld := ⟨.ringStatus, 0, 16⟩
def RING_STATUS_SQ_TAIL : Fld := ⟨.ringStatus, 16, 16⟩
def RING_STATUS_CQ_TAIL : Fld := ⟨.ringStatus, 32, 16⟩
def RING_STATUS_BAD : Fld := ⟨.ringStatus, 48, 1⟩
def RING_STATUS_ERR : Fld := ⟨.ringStatus, 49, 1⟩
def RING_STATUS_ACTIVE : Fld := ⟨.ringStatus, 50, 1⟩
def DEX_CTL_SPLIT : Fld := ⟨.dexCtl, 0, 1⟩
def DEX_CTL_EN_A : Fld := ⟨.dexCtl, 1, 1⟩
def DEX_CTL_EN_B : Fld := ⟨.dexCtl, 2, 1⟩
def DEX_CTL_RETRAIN_A : Fld := ⟨.dexCtl, 3, 1⟩
def DEX_CTL_RETRAIN_B : Fld := ⟨.dexCtl, 4, 1⟩
def DEX_HALF_STATE : Fld := ⟨.dexHalf, 0, 2⟩
def DEX_HALF_SPARED : Fld := ⟨.dexHalf, 2, 4⟩
def DEX_HALF_REASON : Fld := ⟨.dexHalf, 6, 3⟩
def DEX_HALF_LOOP : Fld := ⟨.dexHalf, 9, 11⟩
def DEX_LOG_HALF : Fld := ⟨.dexLog, 0, 1⟩
def DEX_LOG_KIND : Fld := ⟨.dexLog, 1, 3⟩
def DEX_LOG_RING : Fld := ⟨.dexLog, 4, 12⟩
def DEX_LOG_LANE : Fld := ⟨.dexLog, 16, 4⟩
def DEX_LOG_VALID : Fld := ⟨.dexLog, 63, 1⟩
def DEX_SEEP_ARM : Fld := ⟨.dexSeep, 0, 1⟩
def DEX_SEEP_PERSIST : Fld := ⟨.dexSeep, 1, 1⟩
def DEX_SEEP_TARGET : Fld := ⟨.dexSeep, 2, 2⟩
def DEX_SEEP_HALF : Fld := ⟨.dexSeep, 4, 1⟩
def DEX_SEEP_LANE : Fld := ⟨.dexSeep, 5, 3⟩
def DEX_SEEP_DELAY : Fld := ⟨.dexSeep, 32, 16⟩
def DEX_SEEP_FIRED : Fld := ⟨.dexSeep, 48, 1⟩
def PWR_CTL_METER : Fld := ⟨.pwrCtl, 0, 1⟩
def PWR_CTL_METER_ACTIVE : Fld := ⟨.pwrCtl, 1, 1⟩
def PWR_CTL_PACE_LOST : Fld := ⟨.pwrCtl, 2, 1⟩
def PWR_CTL_PACE_LOST_EN : Fld := ⟨.pwrCtl, 3, 1⟩
def PWR_CTL_VNOW_MV : Fld := ⟨.pwrCtl, 4, 8⟩
def PWR_CTL_METER_IMAX : Fld := ⟨.pwrCtl, 12, 11⟩
def PWR_CTL_METER_IMAX_RES : Fld := ⟨.pwrCtl, 23, 7⟩
def HG_CTL_LIMIT : Fld := ⟨.hgCtl, 0, 13⟩
def HG_CTL_WINDOW_US : Fld := ⟨.hgCtl, 13, 6⟩
def HG_CTL_LIM_EN : Fld := ⟨.hgCtl, 19, 1⟩
def HG_STATUS_MEAN : Fld := ⟨.hgStatus, 0, 13⟩
def HG_STATUS_LEVEL : Fld := ⟨.hgStatus, 13, 4⟩
def HG_STATUS_LIMITED : Fld := ⟨.hgStatus, 17, 1⟩
def WM_STATUS_LEAVES_USED : Fld := ⟨.wmStatus, 0, 21⟩
def WM_STATUS_EXHAUSTED : Fld := ⟨.wmStatus, 21, 1⟩
def WM_STATUS_BANK : Fld := ⟨.wmStatus, 22, 1⟩
def WM_STATUS_FALLBACK : Fld := ⟨.wmStatus, 23, 1⟩
def WM_STATUS_DEBUG : Fld := ⟨.wmStatus, 24, 1⟩
def WM_TENANT_STATE : Fld := ⟨.wmTenant, 0, 2⟩
def WM_TENANT_EPOCH : Fld := ⟨.wmTenant, 2, 32⟩
def WM_LOG_KIND : Fld := ⟨.wmLog, 0, 3⟩
def WM_LOG_TENANT : Fld := ⟨.wmLog, 3, 6⟩
def WM_LOG_DETAIL : Fld := ⟨.wmLog, 9, 16⟩
def WM_LOG_UNIT : Fld := ⟨.wmLog, 25, 7⟩
def WM_LOG_VALID : Fld := ⟨.wmLog, 63, 1⟩
def WM_SEEP_ARM : Fld := ⟨.wmSeep, 0, 1⟩
def WM_SEEP_PERSIST : Fld := ⟨.wmSeep, 1, 1⟩
def WM_SEEP_TARGET : Fld := ⟨.wmSeep, 2, 2⟩
def WM_SEEP_UNIT : Fld := ⟨.wmSeep, 4, 7⟩
def WM_SEEP_DELAY : Fld := ⟨.wmSeep, 32, 16⟩
def WM_SEEP_FIRED : Fld := ⟨.wmSeep, 48, 1⟩
def LEVEE_PLOT_FLUME : Fld := ⟨.leveePlot, 0, 1⟩
def LEVEE_PLOT_PLOT : Fld := ⟨.leveePlot, 1, 1⟩
def LEVEE_PLOT_TEST : Fld := ⟨.leveePlot, 2, 1⟩
def LEVEE_PLOT_MANUF : Fld := ⟨.leveePlot, 3, 1⟩
def LEVEE_PLOT_RUN_FENCED : Fld := ⟨.leveePlot, 4, 7⟩
def PLOT_TEST_PPLOT : Fld := ⟨.plotTest, 0, 11⟩
def PLOT_TEST_START : Fld := ⟨.plotTest, 11, 1⟩
def PLOT_TEST_BUSY : Fld := ⟨.plotTest, 12, 1⟩
def PLOT_TEST_RESULT : Fld := ⟨.plotTest, 13, 2⟩
def PLOT_TEST_UNIT : Fld := ⟨.plotTest, 15, 3⟩
def RST_CAUSE_KIND : Fld := ⟨.rstCause, 0, 3⟩
def RST_CAUSE_STOPPED : Fld := ⟨.rstCause, 3, 1⟩
def RST_CAUSE_STOP_CAUSE : Fld := ⟨.rstCause, 4, 4⟩
def RST_CAUSE_DETAIL : Fld := ⟨.rstCause, 8, 8⟩
def RST_CAUSE_BOOTS : Fld := ⟨.rstCause, 16, 32⟩
def SLOT_WDOG_MULT : Fld := ⟨.slotWdog, 0, 8⟩
def SLOT_WDOG_SEEP_PART : Fld := ⟨.slotWdog, 8, 6⟩
def SLOT_WDOG_SEEP_ARM : Fld := ⟨.slotWdog, 14, 1⟩
def SLOT_WDOG_FIRED : Fld := ⟨.slotWdog, 15, 1⟩
def SLOT_WDOG_LAST_PART : Fld := ⟨.slotWdog, 16, 6⟩
def GAUGE_CLEAR_REF : Fld := ⟨.gaugeClear, 0, 1⟩
def GAUGE_CLEAR_CODEC : Fld := ⟨.gaugeClear, 1, 1⟩
def TRAP_LOG_LRUNNEL : Fld := ⟨.trapLog, 0, 7⟩
def TRAP_LOG_PC : Fld := ⟨.trapLog, 7, 12⟩
def TRAP_LOG_CAUSE : Fld := ⟨.trapLog, 19, 4⟩
def TRAP_LOG_VALID : Fld := ⟨.trapLog, 63, 1⟩
def AQ_CH_CTL_RATE : Fld := ⟨.aqChCtl, 0, 2⟩
def AQ_CH_CTL_DIE_RETIRED : Fld := ⟨.aqChCtl, 2, 8⟩
def THERM_CTL_T_WARN : Fld := ⟨.thermCtl, 0, 8⟩
def THERM_CTL_T_CAP : Fld := ⟨.thermCtl, 8, 8⟩
def THERM_CTL_WARN_EN : Fld := ⟨.thermCtl, 16, 1⟩
def THERM_STATUS_HOT : Fld := ⟨.thermStatus, 0, 8⟩
def THERM_STATUS_SENSOR : Fld := ⟨.thermStatus, 8, 7⟩
def THERM_STATUS_WARN : Fld := ⟨.thermStatus, 15, 1⟩
def THERM_STATUS_CAPPING : Fld := ⟨.thermStatus, 16, 1⟩
def PWR_IDLE_TOL_US : Fld := ⟨.pwrIdle, 0, 32⟩
def PWR_IDLE_IDLE_US : Fld := ⟨.pwrIdle, 32, 16⟩
def PWR_IDLE_DRY_OK : Fld := ⟨.pwrIdle, 48, 1⟩
def PWR_IDLE_DEPTH : Fld := ⟨.pwrIdle, 49, 2⟩
def PWR_SAVE_BASE_1G : Fld := ⟨.pwrSave, 0, 9⟩
def PWR_SAVE_ENABLE : Fld := ⟨.pwrSave, 9, 1⟩
def PWR_LOG_RAIL : Fld := ⟨.pwrLog, 0, 4⟩
def PWR_LOG_SENSOR : Fld := ⟨.pwrLog, 4, 7⟩
def PWR_LOG_KIND : Fld := ⟨.pwrLog, 11, 3⟩
def PWR_LOG_VALID : Fld := ⟨.pwrLog, 63, 1⟩
def PWR_SEEP_ARM : Fld := ⟨.pwrSeep, 0, 1⟩
def PWR_SEEP_PERSIST : Fld := ⟨.pwrSeep, 1, 1⟩
def PWR_SEEP_TARGET : Fld := ⟨.pwrSeep, 2, 1⟩
def PWR_SEEP_WHICH : Fld := ⟨.pwrSeep, 3, 7⟩
def PWR_SEEP_AMOUNT : Fld := ⟨.pwrSeep, 10, 13⟩
def PWR_SEEP_DELAY : Fld := ⟨.pwrSeep, 32, 16⟩
def PWR_SEEP_FIRED : Fld := ⟨.pwrSeep, 48, 1⟩
def PLOT_LOG_UNIT : Fld := ⟨.plotLog, 0, 3⟩
def PLOT_LOG_INDEX : Fld := ⟨.plotLog, 3, 7⟩
def PLOT_LOG_WORD : Fld := ⟨.plotLog, 10, 12⟩
def PLOT_LOG_VALID : Fld := ⟨.plotLog, 63, 1⟩
def PLOT_SEEP_ARM : Fld := ⟨.plotSeep, 0, 1⟩
def PLOT_SEEP_PERSIST : Fld := ⟨.plotSeep, 1, 1⟩
def PLOT_SEEP_UNIT : Fld := ⟨.plotSeep, 2, 3⟩
def PLOT_SEEP_INDEX : Fld := ⟨.plotSeep, 5, 7⟩
def PLOT_SEEP_BIT : Fld := ⟨.plotSeep, 12, 6⟩
def PLOT_SEEP_DOUBLE : Fld := ⟨.plotSeep, 18, 1⟩
def PLOT_SEEP_DELAY : Fld := ⟨.plotSeep, 32, 16⟩
def PLOT_SEEP_FIRED : Fld := ⟨.plotSeep, 48, 1⟩
def SFU_TBL_ADDR_ADDR : Fld := ⟨.sfuTblAddr, 0, 48⟩
def SFU_SWITCH_PENDING_PEND : Fld := ⟨.sfuSwitchPending, 0, 64⟩
def PG_POOL_BASE_ADDR : Fld := ⟨.pgPoolBase, 16, 32⟩
def PG_META_BASE_ADDR : Fld := ⟨.pgMetaBase, 16, 32⟩
def RING_SQ_BASE_ADDR : Fld := ⟨.ringSqBase, 12, 52⟩
def RING_CQ_BASE_ADDR : Fld := ⟨.ringCqBase, 12, 52⟩
def PWR_STAGE_VSET_MV : Fld := ⟨.pwrStage, 0, 8⟩
def PWR_PHASE_STAGES : Fld := ⟨.pwrPhase, 0, 21⟩
def WM_CTL_VIOL_EN : Fld := ⟨.wmCtl, 0, 1⟩
def LEVEE_RUN_LO_BITS : Fld := ⟨.leveeRunLo, 0, 64⟩
def LEVEE_RUN_HI_BITS : Fld := ⟨.leveeRunHi, 0, 16⟩
def LEVEE_POLICY_FLUME_RETRIES : Fld := ⟨.leveePolicy, 0, 8⟩
def LEVEE_POLICY_CORR_LIMIT : Fld := ⟨.leveePolicy, 8, 8⟩
def LEVEE_POLICY_AUTO : Fld := ⟨.leveePolicy, 16, 1⟩
def LEVEE_ENG_HW : Fld := ⟨.leveeEng, 0, 16⟩
def LEVEE_ENG_CODEC : Fld := ⟨.leveeEng, 16, 16⟩
def EVT_STATUS_EVENTS : Fld := ⟨.evtStatus, 0, 17⟩
def EVT_CTL_RING : Fld := ⟨.evtCtl, 0, 12⟩
def EVT_CTL_VECTOR : Fld := ⟨.evtCtl, 12, 11⟩
def EVT_CTL_EN : Fld := ⟨.evtCtl, 23, 1⟩
def REF_GAUGE_VALUE : Fld := ⟨.refGauge, 0, 48⟩
def REF_GAUGE_DOMAIN : Fld := ⟨.refGauge, 48, 4⟩
def CODEC_GAUGE_VALUE : Fld := ⟨.codecGauge, 0, 48⟩
def CODEC_GAUGE_DOMAIN : Fld := ⟨.codecGauge, 48, 4⟩
def RUN_MAP_LRUN0 : Fld := ⟨.runMap, 0, 7⟩
def RUN_MAP_LRUN1 : Fld := ⟨.runMap, 7, 7⟩
def RUN_MAP_LRUN2 : Fld := ⟨.runMap, 14, 7⟩
def RUN_MAP_LRUN3 : Fld := ⟨.runMap, 21, 7⟩
def RUN_MAP_LRUN4 : Fld := ⟨.runMap, 28, 7⟩
def RUN_MAP_LRUN5 : Fld := ⟨.runMap, 35, 7⟩
def RUN_MAP_LRUN6 : Fld := ⟨.runMap, 42, 7⟩
def RUN_MAP_LRUN7 : Fld := ⟨.runMap, 49, 7⟩

/-- Default headgate limits of R532 in the 0.25 A units of LIMIT. -/
def hgDefault (rail : Nat) : Nat :=
  [5000, 400, 200, 32, 320, 160, 96, 48, 12].getD rail 0

/-- The value the fuses give a FUSE field. R17 gives the map of logical plots, R618 the runnel map of a plot without
fenced runnels, R532 the headgate limits. DESIGN CHOICE: a module without manufacture fences, retired dies or burned
ledger bits, METER_IMAX 1,250 A and METER_IMAX_RES 96 A (log entry 6). -/
def fuseValue (k : RegKind) (n lo : Nat) : Nat :=
  match k with
  | .mapEntry =>
      if lo = 0 then n / 32
      else if n % 32 < 16 then n % 32 else n % 32 + 1
  | .runMap => 8 * (n % 10) + lo / 7
  | .hgCtl => hgDefault n
  | .pwrCtl => if lo = 12 then 1250 else 96
  | _ => 0

/-- Bits of RUN_MAP register 9 above bit 27 are Reserved (R618). -/
def fieldPresent (k : RegKind) (n : Nat) (f : FieldDesc) : Bool :=
  !(k = .runMap && n % 10 = 9 && 28 ≤ f.lo)

/-- A value placed in a field of a word. -/
def setBits (old : DWord) (lo w v : Nat) : DWord :=
  BitVec.ofNat 64 (old.toNat - (old.toNat >>> lo % 2 ^ w) <<< lo + (v % 2 ^ w) <<< lo)

/-- The bits of a field of a word. -/
def getBits (x : DWord) (lo w : Nat) : Nat :=
  x.toNat >>> lo % 2 ^ w

/-- Reset value of instance n of a register (R12). -/
def regReset (k : RegKind) (n : Nat) : DWord :=
  k.fields.foldl (fun acc f =>
    if fieldPresent k n f then setBits acc f.lo f.w (f.reset.getD (fuseValue k n f.lo)) else acc) 0

/-- Offset of instance n of a register in the privileged view. -/
def regOff (k : RegKind) (n : Nat) : Nat :=
  if k = .runMap then k.place.base + 0x1000 * (n / 10) + 8 * (n % 10)
  else k.place.base + k.place.stride * n

/-- The instance of register k at an offset, if it lies there. -/
def regInstance (k : RegKind) (off : Nat) : Option Nat :=
  let p := k.place
  if off < p.base then none
  else if k = .runMap then
    let d := off - p.base
    if d % 0x1000 % 8 = 0 ∧ d % 0x1000 < 80 ∧ d / 0x1000 < 1056 then some (10 * (d / 0x1000) + d % 0x1000 / 8) else none
  else
    let d := off - p.base
    if d % p.stride = 0 ∧ d / p.stride < p.count then some (d / p.stride) else none

/-- The register at an offset of the privileged view (R604: none where the reference assigns none). -/
def regAt (off : Nat) : Option (RegKind × Nat) :=
  allRegKinds.findSome? fun k => (regInstance k off).map fun n => (k, n)

/-- Value that a key of a sparse map holds; `d` where the map does not list it. -/
def sget {α : Type} (d : α) : Sparse α → Nat → α
  | [], _ => d
  | (k, v) :: m, i => if i = k then v else sget d m i

/-- The map without a key. -/
def sdel {α : Type} : Sparse α → Nat → Sparse α
  | [], _ => []
  | (k, v) :: m, i => if i = k then sdel m i else (k, v) :: sdel m i

/-- The map with an entry before the first larger key. -/
def sins {α : Type} : Sparse α → Nat → α → Sparse α
  | [], i, v => [(i, v)]
  | (k, w) :: m, i, v => if i < k then (i, v) :: (k, w) :: m else (k, w) :: sins m i v

/-- The map with one key set; an entry equal to the default is not listed. -/
def sput {α : Type} [DecidableEq α] (d : α) (m : Sparse α) (i : Nat) (v : α) : Sparse α :=
  if v = d then sdel m i else sins (sdel m i) i v

/-- The word a register holds. -/
def State.reg (s : State) (k : RegKind) (n : Nat) : DWord :=
  sget (regReset k n) s.regs (regOff k n)

/-- The state with a register's word replaced. -/
def State.setReg (s : State) (k : RegKind) (n : Nat) (v : DWord) : State :=
  { s with regs := sput (regReset k n) s.regs (regOff k n) v }

/-- A field's value. -/
def State.rd (s : State) (f : Fld) (n : Nat := 0) : Nat :=
  getBits (s.reg f.reg n) f.lo f.w

/-- The state with one field set, by the device. -/
def State.wr (s : State) (f : Fld) (n v : Nat) : State :=
  s.setReg f.reg n (setBits (s.reg f.reg n) f.lo f.w v)

/-- A one-bit field read as a flag. -/
def State.flag (s : State) (f : Fld) (n : Nat := 0) : Bool :=
  s.rd f n = 1

end Sys2Proof.Machine
end

