-- ==== Sys2Proof/Machine/Ops.lean ====
section
/-! DEFINITION. The named operations every family shares: status values, outputs, memory, counters and events, the module
stop, and the life of a fetched operation from its start to its record. -/

namespace Sys2Proof.Machine

/-- What a command answers. -/
abbrev Answer := Host.Outcome State Fault Refusal

/-- A command's effect while the module runs: a stopped module issues nothing (R589), nor does one that RESET_N holds (R640), so the
command changes nothing. -/
def State.issue (s : State) (f : State → State) : Answer :=
  .next (if s.boot.stopped || s.boot.resetLow then s else f s)

/-! ### Status values (R13) and details -/

def stOk : BitVec 12 := 0x000
def stOkEmpty : BitVec 12 := 0x001
def stPageStarved : BitVec 12 := 0x010
def stStreamClosed : BitVec 12 := 0x011
def stStateTorn : BitVec 12 := 0x012
def stWidened : BitVec 12 := 0x020
def stAccOverflow : BitVec 12 := 0x100
def stStageOverflow : BitVec 12 := 0x101
def stReservoirOverflow : BitVec 12 := 0x102
def stFlumeCheck : BitVec 12 := 0x110
def stFurrowResidue : BitVec 12 := 0x111
def stCollMismatch : BitVec 12 := 0x200
def stCollCheck : BitVec 12 := 0x201
def stCollTimeout : BitVec 12 := 0x202
def stCollAbortPeer : BitVec 12 := 0x203
def stCollSlowMember : BitVec 12 := 0x204
def stMemUncorrectable : BitVec 12 := 0x300
def stChannelRetired : BitVec 12 := 0x301
def stAquiferReadFail : BitVec 12 := 0x302
def stLiftLate : BitVec 12 := 0x303
def stFenced : BitVec 12 := 0x400
def stDenied : BitVec 12 := 0x500
def stAttestExhausted : BitVec 12 := 0x501

/-- The statuses that end a slot: those of R13 from 0x100 on (R14, R15). -/
def abortStatuses : List (BitVec 12) :=
  [stAccOverflow, stStageOverflow, stReservoirOverflow, stFlumeCheck, stFurrowResidue, stCollMismatch, stCollCheck, stCollTimeout,
   stCollAbortPeer, stCollSlowMember, stMemUncorrectable, stChannelRetired, stAquiferReadFail, stLiftLate, stFenced, stDenied,
   stAttestExhausted]

/-- Details of R514, R576 and R602. -/
def dtOpcode : BitVec 16 := 0x8001
def dtReserved : BitVec 16 := 0x8002
def dtRing : BitVec 16 := 0x8003
def dtTenant : BitVec 16 := 0x8004
def dtHostAccess : BitVec 16 := 0x8005
def dtClaim : BitVec 16 := 0x9001
def dtTenantState : BitVec 16 := 0x9002
def dtInUse : BitVec 16 := 0x9003
def dtSignature : BitVec 16 := 0x9004
def dtRollback : BitVec 16 := 0x9005
def dtOperator : BitVec 16 := 0x9006
def dtRevoked : BitVec 16 := 0x9007
def dtSvnFuses : BitVec 16 := 0x9008
def dtSpace : BitVec 16 := 0x9009
def dtHung : BitVec 16 := 0xA001

/-- A status under which the operation delivered its results (R14). -/
def delivered (st : BitVec 12) : Bool := st = stOk || st = stOkEmpty || st = stWidened

/-! ### Outputs and free values -/

/-- The state after sending one thing to the environment. -/
def State.emit (s : State) (o : Output) : State := { s with out := s.out ++ [o] }

/-- The next free word (log entry 1), and the state past it. -/
def State.takeFree (s : State) : Word × State :=
  (Config.freeWord s.freeIdx, { s with freeIdx := s.freeIdx + 1 })

/-! ### Bytes -/

/-- Value of bytes in little-endian order (R7). -/
def leNat : List Byte → Nat
  | [] => 0
  | b :: bs => b.toNat + 256 * leNat bs

/-- n bytes of a value in little-endian order (R7). -/
def leBytes : Nat → Nat → List Byte
  | 0, _ => []
  | n + 1, v => BitVec.ofNat 8 v :: leBytes n (v / 256)

/-- n bytes of a store from an address on; an unlisted byte reads as zero (log entry 2). -/
def readBytes (m : List Host.Cell) (a : Nat) : Nat → List Byte
  | 0 => []
  | n + 1 => sget (0 : Byte) m a :: readBytes m (a + 1) n

/-- A store with bytes written from an address on. -/
def writeBytes : List Host.Cell → Nat → List Byte → List Host.Cell
  | m, _, [] => m
  | m, a, b :: bs => writeBytes (sput (0 : Byte) m a b) (a + 1) bs

/-- Bytes of Cistern as the list holds them, and as they decrypt: a granule whose key has changed since it was written holds its
bytes as differences from free values (R568, log entry 1). -/
def Mem.plain (m : Mem) (a : Nat) (bs : List Byte) : List Byte :=
  if m.cisFog.isEmpty then bs
  else bs.zipIdx.map fun b =>
    match sget 0 m.cisFog ((a + b.2) / 2 ^ 26) with
    | 0 => b.1
    | k + 1 => b.1 ^^^ Config.freeByte (k + (a + b.2) % 2 ^ 26)

/-- Bytes of Cistern from a MAS address on. -/
def State.cisBytes (s : State) (a n : Nat) : List Byte := s.mem.plain a (readBytes s.mem.cis a n)

/-- Granules take another key (R568): what they held decrypts to free values. -/
def State.rekey (s : State) : List Nat → State
  | [] => s
  | g :: gs =>
      let m : Mem := { s.mem with cisFog := sput 0 s.mem.cisFog g (s.freeIdx + 1) }
      ({ s with mem := m, freeIdx := s.freeIdx + 2 ^ 26 } : State).rekey gs

/-- Cistern channel of an address under the 64-channel map (R413). -/
def chanOf (a : Nat) : Nat :=
  let g := a / 256
  (g ^^^ g / 2 ^ 6 ^^^ g / 2 ^ 12 ^^^ g / 2 ^ 18 ^^^ g / 2 ^ 24 ^^^ g / 2 ^ 30) % 64

/-- End of the 63-channel map (R430). -/
def map63End : Nat := 0x7620000000

/-- Address of the granule of a 16 KiB group that lies on a channel under the 64-channel map (R413). -/
def groupGranule (group ch : Nat) : Nat := 16384 * group + 256 * (ch ^^^ chanOf (16384 * group))

/-- Surviving channels in ascending order. -/
def otherChan (c k : Nat) : Nat := if k < c then k else k + 1

/-- Channel and channel block of an address under the map in force (R413, R430). -/
def State.chanBlock (s : State) (a : Nat) : Nat × Nat :=
  let m := a / 16384
  let c := s.rd CIS_MAP_CHANNEL
  if s.flag CIS_MAP_RETIRED && chanOf a = c then (otherChan c (m % 63), 30965760 + m / 63) else (chanOf a, m)

def State.chanState (s : State) (ch : Nat) : Nat := s.rd CIS_CH_CTL_STATE ch
def chOnline : Nat := 0
def chRetraining : Nat := 1
def chRepair : Nat := 2
def chRetired : Nat := 3

/-- A retirement is under way, and an address lies in what it moves (R431). -/
def State.moving (s : State) (a : Nat) : Bool := s.flag CIS_MAP_RETIRED && s.rd CIS_MAP_PHASE ≠ 0 && chanOf a = s.rd CIS_MAP_CHANNEL

/-- Channel in whose queue a request for an address waits (R429, R431). -/
def State.chanHome (s : State) (a : Nat) : Nat := if s.moving a then s.rd CIS_MAP_CHANNEL else (s.chanBlock a).1

/-- A channel that serves. -/
def State.chanServes (s : State) (ch : Nat) : Bool := s.chanState ch = chOnline

/-- Every channel that a range touches serves; a request to one that does not waits (R429). Two whole groups touch all of them. -/
def State.cisOpen (s : State) (a n : Nat) : Bool :=
  if n = 0 then true
  else if 32768 ≤ n then
    (List.range 64).all fun c => s.chanServes c || (s.flag CIS_MAP_RETIRED && s.rd CIS_MAP_PHASE = 0 && c = s.rd CIS_MAP_CHANNEL)
  else (List.range ((a + n - 1) / 256 - a / 256 + 1)).all fun k => s.chanServes (s.chanHome (a / 256 * 256 + 256 * k))

/-! ### The protected region (R419 to R421) -/

def State.protBase (s : State) : Nat := s.rd CIS_PROT_BASE_1M * 2 ^ 20
def State.protSize (s : State) : Nat := s.rd CIS_PROT_SIZE_7M * 7 * 2 ^ 20
def State.parBase (s : State) : Nat := s.rd CIS_PROT_PAR_BASE_1M * 2 ^ 20
def State.parSize (s : State) : Nat := s.rd CIS_PROT_SIZE_7M * 2 ^ 20

def inRange (a base size : Nat) : Bool := decide (base ≤ a ∧ a < base + size)

/-- An address lies in the protected region, and its parity is complete. -/
def State.protected_ (s : State) (a : Nat) : Bool := s.flag CIS_PROT_READY && inRange a s.protBase s.protSize

/-- Block, lane and channel group of the stripe of an address of the region (R419). -/
def State.stripeOf (s : State) (a : Nat) : Nat × Nat × Nat :=
  let d := a - s.protBase
  (d / 114688, chanOf a % 8, (chanOf a / 8 + 16 - 1 - d % 114688 / 16384) % 8)

/-- Address of the parity byte of a byte of the region. -/
def State.parityOf (s : State) (a : Nat) : Nat :=
  let (b, i, k) := s.stripeOf a
  groupGranule ((s.parBase + 16384 * b) / 16384) (8 * k + i) + a % 256

/-- Addresses of the 64-byte blocks of a stripe beside one of its data blocks: the other data members and the parity. -/
def State.stripeOthers (s : State) (a : Nat) : List Nat :=
  let (b, i, k) := s.stripeOf a
  let low := a % 256 / 64 * 64
  let others := (List.range 7).filter (· ≠ (a - s.protBase) % 114688 / 16384)
  others.map (fun j => groupGranule ((s.protBase + 114688 * b + 16384 * j) / 16384) (8 * ((k + 1 + j) % 8) + i) + low)
    ++ [s.parityOf (a / 256 * 256) + low]

/-- Cistern with the parity of bytes that are about to be written: old parity, old data and new data (R420). -/
def State.parityCells (s : State) (a : Nat) (bs : List Byte) : List Host.Cell :=
  if s.flag CIS_PROT_READY then
    bs.zipIdx.foldl (fun m b =>
      let x := a + b.2
      if inRange x s.protBase s.protSize then
        sput (0 : Byte) m (s.parityOf x) (sget (0 : Byte) m (s.parityOf x) ^^^ sget (0 : Byte) s.mem.cis x ^^^ b.1)
      else m) s.mem.cis
  else s.mem.cis

/-- Parity of the whole region, computed from its data (R420, R422). -/
def State.freshParity (s : State) : List Host.Cell :=
  s.mem.cis.foldl (fun m c =>
    if inRange c.1 s.protBase s.protSize then
      sput (0 : Byte) m (s.parityOf c.1) (sget (0 : Byte) m (s.parityOf c.1) ^^^ c.2)
    else m) (s.mem.cis.filter fun c => !inRange c.1 s.parBase s.parSize)

/-- A block that a retirement moved, unless it has been rebuilt (R431, R432). -/
def Swept.lost (w : Swept) (b : Nat) : Bool :=
  chanOf (64 * b) = w.ch && !(decide (w.base ≤ 64 * b ∧ 64 * b < w.base + w.size))
  && !(decide (w.pbase ≤ 64 * b ∧ 64 * b < w.pbase + w.psize))

/-- What a block's tag says: 0 clean, 1 lost, 2 uncorrectable (R415). -/
def Mem.tag (m : Mem) (b : Nat) : Nat :=
  let x := (sget (0 : BitVec 2) m.cisTag b).toNat
  if x = 0 then (if m.swept.any (·.lost b) then 1 else 0) else if x = 3 then 0 else x

/-- The entry that says a block is clean. -/
def Mem.cleanTag (m : Mem) (b : Nat) : BitVec 2 := if m.swept.any (·.lost b) then 3 else 0

/-- A block with a tag. -/
def Mem.setTag (m : Mem) (b t : Nat) : Mem :=
  { m with cisTag := sput (0 : BitVec 2) m.cisTag b (if t = 0 then m.cleanTag b else BitVec.ofNat 2 t) }

/-- Blocks of 64 bytes from b on that a write touches: a whole block becomes clean; a block that could not be read and is written
in part keeps LOST, or is UE (R416). -/
def Mem.writeTags (m : Mem) (a n b : Nat) : Nat → Mem
  | 0 => m
  | k + 1 =>
      let m' := if a ≤ 64 * b ∧ 64 * b + 64 ≤ a + n then m.setTag b 0 else m
      m'.writeTags a n (b + 1) k

/-- Cistern after a write (R416, R420). -/
def State.cisWrite (s : State) (a : Nat) (bs : List Byte) : State :=
  let m := { s.mem with cis := writeBytes (s.parityCells a (s.mem.plain a bs)) a (s.mem.plain a bs) }
  { s with mem := if bs.length = 0 then m
                  else m.writeTags a bs.length (a / 64) ((a + bs.length - 1) / 64 - a / 64 + 1) }

/-- A block of the region can be rebuilt: every other member of its stripe can be read (R421). -/
def State.rebuildable (s : State) (a : Nat) : Bool := s.protected_ a && (s.stripeOthers a).all fun x => s.mem.tag (x / 64) = 0

/-- Status of the first block of a Cistern range that cannot be read: CHANNEL_RETIRED where a block was lost (R431), MEM_UNCORRECTABLE
where one can be neither corrected nor rebuilt (R416, R421), else OK. -/
def State.tagStatus (s : State) : Nat → Nat → BitVec 12
  | _, 0 => stOk
  | b, n + 1 =>
      if s.mem.tag b = 1 then stChannelRetired
      else if s.mem.tag b = 2 ∧ !s.rebuildable (64 * b) then stMemUncorrectable else s.tagStatus (b + 1) n

def State.cisStatus (s : State) (a n : Nat) : BitVec 12 :=
  if n = 0 then stOk else s.tagStatus (a / 64) ((a + n - 1) / 64 - a / 64 + 1)

/-- The bytes of a block as the other seven members of its stripe give them. -/
def State.rebuilt (s : State) (b : Nat) : List Byte :=
  (s.stripeOthers (64 * b)).foldl (fun l x => l.zipWith (· ^^^ ·) (readBytes s.mem.cis x 64)) (List.replicate 64 0)

/-- A block rebuilt from its stripe and rewritten clean (R421). -/
def State.rebuildBlock (s : State) (b : Nat) : State :=
  { s with mem := ({ s.mem with cis := writeBytes s.mem.cis (64 * b) (s.rebuilt b) } : Mem).setTag b 0 }

/-- Key of a byte of a plot's own column. -/
def resvKey (p off : Nat) : Nat := 2 ^ 24 * p + off

/-- Bytes of a column as its list holds them. A column that a plot test overwrote with the test's patterns, which the manual does not
give, holds its bytes as differences from free values (log entry 1). -/
def Mem.column (m : Mem) (p off : Nat) (bs : List Byte) : List Byte :=
  match sget 0 m.fog p with
  | 0 => bs
  | k + 1 => bs.zipIdx.map fun b => b.1 ^^^ Config.freeByte (k + off + b.2)

def State.resvBytes (s : State) (p off n : Nat) : List Byte := s.mem.column p off (readBytes s.mem.resv (resvKey p off) n)

/-- A column after a write. A word written whole is good again (R383), and a KEEP entry whose destination the write reaches is no longer
resident (R403). -/
def State.resvWrite (s : State) (p off : Nat) (bs : List Byte) : State :=
  let k := resvKey p off
  let m : Mem := { s.mem with resv := writeBytes s.mem.resv k (s.mem.column p off bs),
                              resvBad := s.mem.resvBad.filter fun w => !(decide (k ≤ 8 * w ∧ 8 * w + 8 ≤ k + bs.length)) }
  let x := sget ({} : Plot) s.plots p
  if bs.isEmpty then s
  else if x.resident.isEmpty then { s with mem := m }
  else
    let keep := x.resident.filter fun (r : Nat × Nat × Nat) => !(decide (r.2.1 < off + bs.length ∧ off < r.2.1 + r.2.2))
    { s with mem := m, plots := sput ({} : Plot) s.plots p { x with resident := keep } }

/-! ### Counters and events -/

/-- A 48-bit counter: its block's offset, the block's stride and its index (R614). -/
structure Ctr where
  base : Nat
  stride : Nat
  idx : Nat
  deriving DecidableEq, Repr

/-- All-ones of a 48-bit counter (R597). -/
def ctrMax : Nat := 2 ^ 48 - 1

/-- A count after an increment (R597): it stops at all-ones. -/
def satAdd (v n : Nat) : Nat := if ctrMax ≤ v + n then ctrMax else v + n

def Ctr.block (c : Ctr) (n : Nat) : Nat := c.base + c.stride * n
def Ctr.off (c : Ctr) (n : Nat) : Nat := c.block n + 8 * c.idx

def State.count (s : State) (c : Ctr) (n : Nat := 0) : Nat := (sget (0 : BitVec 48) s.ctrs (c.off n)).toNat

/-- Bits of EVT_STATUS (R599). -/
def evHeadgate : Nat := 0
def evThermWarn : Nat := 1
def evPaceLost : Nat := 2
def evPageLow : Nat := 3
def evPageStarved : Nat := 4
def evCisChannel : Nat := 5
def evCisRetired : Nat := 6
def evCfPort : Nat := 7
def evRotOverrun : Nat := 8
def evCadenceFast : Nat := 9
def evDexDown : Nat := 10
def evWmViolation : Nat := 11
def evCounterOvf : Nat := 12
def evFenced : Nat := 13
def evSparesOut : Nat := 14
def evTestDone : Nat := 15
def evSlotHung : Nat := 16

/-- While EN is 1 and a bit of EVT_STATUS is set, the in-band interrupt and the Dexlink EVENT are sent (R599, R636); a stopped module
sends no event (R589). -/
def State.announceEvents (s : State) : State :=
  if s.flag EVT_CTL_EN && s.rd EVT_STATUS_EVENTS ≠ 0 then
    let s1 := s.emit (.ibi 0x01)
    if s.boot.stopped then s1
    else s1.emit (.event (BitVec.ofNat 12 (s.rd EVT_CTL_RING)) (BitVec.ofNat 11 (s.rd EVT_CTL_VECTOR)))
  else s

/-- An event raised (R599). -/
def State.raise (s : State) (e : Nat) : State :=
  (s.setReg .evtStatus 0 (s.reg .evtStatus 0 ||| BitVec.ofNat 64 (2 ^ e))).announceEvents

/-- A counter increased: at all-ones it stays, and reaching all-ones sets its CNT_OVF bit and raises COUNTER_OVF (R597). -/
def State.bump (s : State) (c : Ctr) (n : Nat := 0) (k : Nat := 1) : State :=
  let v := s.count c n
  let v' := satAdd v k
  let s1 := { s with ctrs := sput (0 : BitVec 48) s.ctrs (c.off n) (BitVec.ofNat 48 v') }
  if v' = ctrMax ∧ v ≠ ctrMax then
    let bits := sget (0 : DWord) s1.ovf (c.block n) ||| BitVec.ofNat 64 (2 ^ c.idx)
    let s2 := { s1 with ovf := sput (0 : DWord) s1.ovf (c.block n) bits }
    s2.raise evCounterOvf
  else s1

/-- A CNT_CLEAR write to a counter block: the counters named are zeroed and their overflow bits cleared (R598). -/
def clearCounters (ctrs : Sparse (BitVec 48)) (block : Nat) (mask : DWord) : Nat → Sparse (BitVec 48)
  | 0 => ctrs
  | i + 1 =>
      let c := clearCounters ctrs block mask i
      if mask.getLsbD i then sput (0 : BitVec 48) c (block + 8 * i) 0 else c

/-! Counters by name (R609, R610, R611, R614). -/
def ctrBadAccess : Ctr := ⟨0x1A00, 0, 0⟩
def ctrCommitted : Ctr := ⟨0x1000, 0, 0⟩
def ctrChunksTx : Ctr := ⟨0x1000, 0, 1⟩
def ctrChunksRx : Ctr := ⟨0x1000, 0, 2⟩
def ctrCheckFails : Ctr := ⟨0x1000, 0, 3⟩
def ctrReplayed : Ctr := ⟨0x1000, 0, 4⟩
def ctrMismatches : Ctr := ⟨0x1000, 0, 5⟩
def ctrTimeouts : Ctr := ⟨0x1000, 0, 6⟩
def ctrSlowNamed : Ctr := ⟨0x1000, 0, 7⟩
def ctrPeerAborts : Ctr := ⟨0x1000, 0, 8⟩
def ctrEagerAborts : Ctr := ⟨0x1000, 0, 9⟩
def ctrWcHits : Ctr := ⟨0x1200, 0, 6⟩
def ctrWcMisses : Ctr := ⟨0x1200, 0, 7⟩
def ctrWcJoins : Ctr := ⟨0x1200, 0, 8⟩
def ctrStickyRefused : Ctr := ⟨0x1200, 0, 9⟩
def ctrAqRetries : Ctr := ⟨0x1200, 0, 10⟩
def ctrAqSoft : Ctr := ⟨0x1200, 0, 11⟩
def ctrAqReconstruct : Ctr := ⟨0x1200, 0, 12⟩
def ctrAqFails : Ctr := ⟨0x1200, 0, 13⟩
def ctrAqRefreshes : Ctr := ⟨0x1200, 0, 14⟩
def ctrFastEdges : Ctr := ⟨0x1400, 0, 0⟩
def ctrMarks : Ctr := ⟨0x1600, 0, 1⟩
def ctrStageChanges : Ctr := ⟨0x1600, 0, 2⟩
def ctrPaceLosses : Ctr := ⟨0x1600, 0, 3⟩
def ctrCapped : Ctr := ⟨0x1600, 0, 4⟩
def ctrEntries (depth : Nat) : Ctr := ⟨0x1600, 0, 5 + depth⟩
def ctrAbandoned (depth : Nat) : Ctr := ⟨0x1600, 0, 9 + depth⟩
def ctrWakePeriods : Ctr := ⟨0x1600, 0, 13⟩
def ctrAttests : Ctr := ⟨0x1800, 0, 0⟩
def ctrXtsRetried : Ctr := ⟨0x1800, 0, 1⟩
def ctrLinkAgreements : Ctr := ⟨0x1800, 0, 2⟩
def ctrSlots : Ctr := ⟨0x10200, 0x800, 0⟩
def ctrSkipped : Ctr := ⟨0x10200, 0x800, 1⟩
def ctrAborted : Ctr := ⟨0x10200, 0x800, 2⟩
def ctrOverruns : Ctr := ⟨0x10200, 0x800, 3⟩
def ctrEdges : Ctr := ⟨0x10200, 0x800, 4⟩
def ctrEdgesMissed : Ctr := ⟨0x10200, 0x800, 5⟩
def ctrAllocPages : Ctr := ⟨0x10400, 0x800, 0⟩
def ctrEmergPages : Ctr := ⟨0x10400, 0x800, 1⟩
def ctrStarvedSteps : Ctr := ⟨0x10400, 0x800, 2⟩
def ctrSetsDropped : Ctr := ⟨0x10400, 0x800, 3⟩
def ctrSetsRefilled : Ctr := ⟨0x10400, 0x800, 4⟩
def ctrWalks : Ctr := ⟨0x10400, 0x800, 5⟩
def ctrEdits : Ctr := ⟨0x10400, 0x800, 6⟩
def ctrGrants : Ctr := ⟨0x10600, 0x800, 0⟩
def ctrReserveGrants : Ctr := ⟨0x10600, 0x800, 1⟩
def ctrCapWaits : Ctr := ⟨0x10600, 0x800, 2⟩
def ctrLifts : Ctr := ⟨0x40200, 0x1000, 0⟩
def ctrLiftBytes : Ctr := ⟨0x40200, 0x1000, 1⟩
def ctrKeepSkips : Ctr := ⟨0x40200, 0x1000, 2⟩
def ctrLateWaits : Ctr := ⟨0x40200, 0x1000, 3⟩
def ctrLatePeriods : Ctr := ⟨0x40200, 0x1000, 4⟩
def ctrLateAborts : Ctr := ⟨0x40200, 0x1000, 5⟩
def ctrCacheHits : Ctr := ⟨0x40400, 0x1000, 0⟩
def ctrCacheMisses : Ctr := ⟨0x40400, 0x1000, 1⟩
def ctrHwJobs : Ctr := ⟨0x40600, 0x1000, 0⟩
def ctrHwRowsOut : Ctr := ⟨0x40600, 0x1000, 1⟩
def ctrHwStepsBusy : Ctr := ⟨0x40600, 0x1000, 2⟩
def ctrHwWaitRows : Ctr := ⟨0x40600, 0x1000, 3⟩
def ctrHwEmptyJobs : Ctr := ⟨0x40600, 0x1000, 5⟩
def ctrHwRetried : Ctr := ⟨0x40600, 0x1000, 6⟩
def ctrHwFailed : Ctr := ⟨0x40600, 0x1000, 7⟩
def ctrSwapIns : Ctr := ⟨0x50200, 0x400, 0⟩
def ctrSwapOuts : Ctr := ⟨0x50200, 0x400, 1⟩
def ctrSwapBytes : Ctr := ⟨0x50200, 0x400, 2⟩
def ctrTransitWaits : Ctr := ⟨0x50200, 0x400, 3⟩
def ctrCrcRetried : Ctr := ⟨0x50200, 0x400, 4⟩
def ctrCrcFailed : Ctr := ⟨0x50200, 0x400, 5⟩
def ctrReadBytes : Ctr := ⟨0x60200, 0x400, 0⟩
def ctrWriteBytes : Ctr := ⟨0x60200, 0x400, 1⟩
def ctrEccCorrected : Ctr := ⟨0x60200, 0x400, 2⟩
def ctrEccUncorrectable : Ctr := ⟨0x60200, 0x400, 3⟩
def ctrRetrainQuick : Ctr := ⟨0x60200, 0x400, 4⟩
def ctrRetrainFull : Ctr := ⟨0x60200, 0x400, 5⟩
def ctrQueueFull : Ctr := ⟨0x60200, 0x400, 6⟩
def ctrAdds : Ctr := ⟨0x60200, 0x400, 7⟩
def ctrAddMisses : Ctr := ⟨0x60200, 0x400, 8⟩
def ctrParityRebuilt : Ctr := ⟨0x60200, 0x400, 9⟩
def ctrPicsDecoded : Ctr := ⟨0x80200, 0x400, 0⟩
def ctrPicsEncoded : Ctr := ⟨0x80200, 0x400, 1⟩
def ctrConcealed : Ctr := ⟨0x80200, 0x400, 2⟩
def ctrHashMismatch : Ctr := ⟨0x80200, 0x400, 3⟩
def ctrReencodes : Ctr := ⟨0x80200, 0x400, 4⟩
def ctrDropped : Ctr := ⟨0x80200, 0x400, 5⟩
def ctrFillerBytes : Ctr := ⟨0x80200, 0x400, 6⟩
def ctrWaitBuffer : Ctr := ⟨0x80200, 0x400, 7⟩
def ctrWaitRing : Ctr := ⟨0x80200, 0x400, 8⟩
def ctrCodecRetried : Ctr := ⟨0x80200, 0x400, 9⟩
def ctrCodecFailed : Ctr := ⟨0x80200, 0x400, 10⟩
def ctrPortFlitsTx : Ctr := ⟨0x90200, 0x400, 0⟩
def ctrPortFlitsRx : Ctr := ⟨0x90200, 0x400, 1⟩
def ctrPortReplays : Ctr := ⟨0x90200, 0x400, 2⟩
def ctrPortFec : Ctr := ⟨0x90200, 0x400, 3⟩
def ctrLaneSwaps : Ctr := ⟨0x90200, 0x400, 4⟩
def ctrPortRetrains : Ctr := ⟨0x90200, 0x400, 5⟩
def ctrPortTagFails : Ctr := ⟨0x90200, 0x400, 6⟩
def ctrPortCreditWait : Ctr := ⟨0x90200, 0x400, 7⟩
def ctrHalfFlitsTx : Ctr := ⟨0x94200, 0x400, 0⟩
def ctrHalfFlitsRx : Ctr := ⟨0x94200, 0x400, 1⟩
def ctrHalfReplays : Ctr := ⟨0x94200, 0x400, 2⟩
def ctrHalfFec : Ctr := ⟨0x94200, 0x400, 3⟩
def ctrHalfRetrains : Ctr := ⟨0x94200, 0x400, 4⟩
def ctrHalfTagFails : Ctr := ⟨0x94200, 0x400, 5⟩
def ctrHalfCreditWait : Ctr := ⟨0x94200, 0x400, 6⟩
def ctrThrottled : Ctr := ⟨0x98200, 0x400, 0⟩
def ctrViolations : Ctr := ⟨0xA0200, 0x400, 0⟩
def ctrRefused : Ctr := ⟨0xA0200, 0x400, 1⟩
def ctrFetched : Ctr := ⟨0x400200, 0x400, 7⟩
def ctrCompleted : Ctr := ⟨0x400200, 0x400, 8⟩
def ctrRefusedAtFetch : Ctr := ⟨0x400200, 0x400, 9⟩
def ctrDbBad : Ctr := ⟨0x400200, 0x400, 10⟩
def ctrEvents : Ctr := ⟨0x400200, 0x400, 11⟩
def ctrCqWait : Ctr := ⟨0x400200, 0x400, 12⟩
def ctrPasses : Ctr := ⟨0x1000200, 0x1000, 0⟩
def ctrFlumeSteps : Ctr := ⟨0x1000200, 0x1000, 1⟩
def ctrWaitOperand : Ctr := ⟨0x1000200, 0x1000, 2⟩
def ctrWaitAcc : Ctr := ⟨0x1000200, 0x1000, 3⟩
def ctrWaitToken : Ctr := ⟨0x1000200, 0x1000, 4⟩
def ctrFlumeIdle : Ctr := ⟨0x1000200, 0x1000, 5⟩
def ctrCheckRetried : Ctr := ⟨0x1000200, 0x1000, 6⟩
def ctrCheckFailed : Ctr := ⟨0x1000200, 0x1000, 7⟩
def ctrCheckSkipped : Ctr := ⟨0x1000200, 0x1000, 8⟩
def ctrWords : Ctr := ⟨0x1000400, 0x1000, 0⟩
def ctrRows : Ctr := ⟨0x1000400, 0x1000, 1⟩
def ctrFurrowSteps : Ctr := ⟨0x1000400, 0x1000, 2⟩
def ctrWaitSfu : Ctr := ⟨0x1000400, 0x1000, 3⟩
def ctrWaitSource : Ctr := ⟨0x1000400, 0x1000, 4⟩
def ctrEmptyRows : Ctr := ⟨0x1000400, 0x1000, 5⟩
def ctrNanRows : Ctr := ⟨0x1000400, 0x1000, 6⟩
def ctrResidueRetried : Ctr := ⟨0x1000400, 0x1000, 7⟩
def ctrResidueFailed : Ctr := ⟨0x1000400, 0x1000, 8⟩
def ctrSatCalib : Ctr := ⟨0x1000600, 0x1000, 0⟩
def ctrLayersDecided : Ctr := ⟨0x1000600, 0x1000, 1⟩
def ctrLayersWidened : Ctr := ⟨0x1000600, 0x1000, 2⟩
def ctrOverNoWide : Ctr := ⟨0x1000600, 0x1000, 3⟩
def ctrSatPegged : Ctr := ⟨0x1000600, 0x1000, 4⟩
def ctrEvals : Ctr := ⟨0x1000800, 0x1000, 0⟩
def ctrSfuSteps : Ctr := ⟨0x1000800, 0x1000, 1⟩
def ctrGrantsFurrow : Ctr := ⟨0x1000800, 0x1000, 2⟩
def ctrGrantsRunnel : Ctr := ⟨0x1000800, 0x1000, 3⟩
def ctrTableCorrected : Ctr := ⟨0x1000800, 0x1000, 4⟩
def ctrSfuRetried : Ctr := ⟨0x1000800, 0x1000, 5⟩
def ctrSfuFailed : Ctr := ⟨0x1000800, 0x1000, 6⟩
def ctrFallbackEvals : Ctr := ⟨0x1000800, 0x1000, 7⟩
def ctrStaleToken : Ctr := ⟨0x1000A00, 0x1000, 0⟩
def ctrPlotCorrected : Ctr := ⟨0x1000A00, 0x1000, 1⟩

/-! ### Module stop (R589) -/

/-- Causes of RST_CAUSE (R596). -/
def causeSupply : Nat := 1
def causeThermal : Nat := 2
def causeReference : Nat := 3
def causeHeadgate : Nat := 4
def causeWatermaster : Nat := 5
def causeDexlink : Nat := 6
def causeCistern : Nat := 7
def causeTier : Nat := 8
def causeCanal : Nat := 9
def causePeer : Nat := 10

/-- A field of every instance of a register written. -/
def wrAll (f : Fld) (v : Nat) : Nat → State → State
  | 0, s => s
  | n + 1, s => wrAll f v n (s.wr f n v)

/-- The module stops (R589): units stop issuing, Dexlink and the Confluence ports go down, the ditch rider asserts the
fault output, records the cause, reports it over I3C (R636), and removes the rails for causes 1 to 3. A module that is
already stopped stays as it is. -/
def State.stop (s : State) (cause detail : Nat) : State :=
  if s.boot.stopped then s
  else
    let s1 := { s with boot := { s.boot with stopped := true, ready := false, faultN := false,
                                             railsUp := if cause ≤ 3 then false else s.boot.railsUp,
                                             plls := if cause ≤ 3 then { island := s.boot.plls.island && cause ≠ 3 } else s.boot.plls } }
    let s2 := (s1.wr RST_CAUSE_STOP_CAUSE 0 cause).wr RST_CAUSE_DETAIL 0 detail
    (wrAll CF_PORT_STATE 0 8 (wrAll DEX_HALF_STATE 0 2 s2)).emit (.ibi (BitVec.ofNat 8 (0x80 + cause)))

/-- A stop whose cause has no rail, sensor, half, channel, tier, link or port: DETAIL is a free value (log entry 1). -/
def State.stopAny (s : State) (cause : Nat) : State :=
  if s.boot.stopped then s
  else ({ s with freeIdx := s.freeIdx + 1 } : State).stop cause (Config.freeNat s.freeIdx % 256)

/-! ### Rings and operations -/

def State.ring (s : State) (q : RingNo) : Ring := sget ({} : Ring) s.host.rings q.toNat
def State.setRing (s : State) (q : RingNo) (r : Ring) : State :=
  { s with host := { s.host with rings := sput ({} : Ring) s.host.rings q.toNat r } }

/-- The operation a ring and sequence number name. -/
def State.op? (s : State) (q : RingNo) (n : Seq) : Option Op :=
  s.host.ops.find? fun o => o.ring = q && o.seq = n

/-- The operations with one of them replaced. -/
def State.setOp (s : State) (o : Op) : State :=
  { s with host := { s.host with ops := s.host.ops.map fun p => if p.ring = o.ring && p.seq = o.seq then o else p } }

/-- A field of a descriptor: w bits from bit lo of byte b on (R512). -/
def Op.fld (o : Op) (b lo w : Nat) : Nat := o.desc.toNat >>> (8 * b + lo) % 2 ^ w

def Op.opcode (o : Op) : Nat := o.fld 0 0 8
def Op.fence (o : Op) : Bool := o.fld 1 0 1 = 1
def Op.event (o : Op) : Bool := o.fld 1 1 1 = 1
def Op.user (o : Op) : Nat := o.fld 8 0 64

/-- Tenant of a ring (R530). -/
def State.ringTenant (s : State) (q : RingNo) : TenantNo := BitVec.ofNat 6 (s.rd RING_CTL_TENANT q.toNat)

def Op.tenant (o : Op) (s : State) : TenantNo := s.ringTenant o.ring

/-- Operations of a ring fetched and without a record. -/
def State.opsOf (s : State) (q : RingNo) : List Op := s.host.ops.filter fun o => o.ring = q

/-- ACTIVE of RING_STATUS follows the operations of the ring (R530). -/
def State.syncActive (s : State) (q : RingNo) : State :=
  s.wr RING_STATUS_ACTIVE q.toNat (if (s.opsOf q).isEmpty then 0 else 1)

/-- An operation ends with a status, a detail and a result; its record follows (R518). A running descriptor's update
number and anchors go with it. -/
def State.finish (s : State) (o : Op) (st : BitVec 12) (dt : BitVec 16 := 0) (res : Word := 0) : State :=
  s.setOp { o with stage := .done, status := st, detail := dt, result := res }

/-- An operation starts. -/
def State.begin_ (s : State) (o : Op) : State := s.setOp { o with stage := .running }

/-- Half that carries a ring's traffic (R524): its HALF under SPLIT 1, half A under SPLIT 0. -/
def State.halfOf (s : State) (q : RingNo) : BitVec 1 :=
  if s.flag DEX_CTL_SPLIT then BitVec.ofNat 1 (s.rd RING_CTL_HALF q.toNat) else 0

/-- Flits of a packet (R442, R446): 16 bytes of header and 16 of tag beside the payload, 244 bytes to a flit. -/
def flitsOf (payload : Nat) : Nat := (payload + 32 + 243) / 244

def State.link (s : State) (l : Nat) : LinkRec := sget ({} : LinkRec) s.lnk.links l
def State.setLink (s : State) (l : Nat) (x : LinkRec) : State :=
  { s with lnk := { s.lnk with links := sput ({} : LinkRec) s.lnk.links l x } }

/-! ### Arbiters (R34) -/

/-- Requesters that a grant leaves waiting, by the grants to others each has seen, can each still be granted before k - 1 such grants
have passed it: of those that can let only j more grants pass there are at most j + 1. -/
def arbFair (k : Nat) (passed : List Nat) : Bool :=
  passed.all (fun p => decide (p < k))
  && (List.range k).all fun j => decide ((passed.filter fun p => decide (k ≤ p + j + 1)).length ≤ j + 1)

/-- A grant of an arbiter with k requesters to one of those that wait (R34): none where it would pass over another for too long. -/
def State.arbGrant (s : State) (a k x : Nat) (waiting : List Nat) : Option State :=
  let seen := sget [] s.arb a
  let rest := (waiting.filter (· ≠ x)).map fun y => (y, sget 0 seen y + 1)
  if arbFair k (rest.map (·.2)) then
    some { s with arb := sput [] s.arb a (rest.foldl (fun m y => sput 0 m y.1 y.2) []) }
  else none

/-- The arbiters: a codec pipe's, and the command fetcher's. -/
def arbPipe (pipe : Nat) : Nat := pipe
def arbFetch : Nat := 16

/-! ### Sequence numbers (R41) -/

/-- Sequence number a follows b. -/
def follows (a b : BitVec 32) : Bool := 1 ≤ (a - b).toNat && (a - b).toNat ≤ 2 ^ 31 - 1

/-- A token counter has reached a value (R169). -/
def reached (ctr v : BitVec 32) : Bool := v = 0 || ctr = v || follows ctr v

/-! ### Units of the module's maps -/

/-- Physical plot that a logical plot is mapped to (R155, R608). -/
def State.physOf (s : State) (l : Nat) : Nat := 32 * s.rd MAP_ENTRY_PX l + s.rd MAP_ENTRY_PY l

/-- Logical plot of a physical plot, the lowest that names it. -/
def State.logOf (s : State) (p : Nat) : Option Nat := (List.range 1024).find? fun l => s.physOf l = p

/-- Reach of a logical plot (R18). -/
def reachOf (l : Nat) : Nat := 4 * (l / 32 / 8) + l % 32 / 8

def State.part (s : State) (p : Nat) : Part := sget ({} : Part) s.rot.parts p
def State.setPart (s : State) (p : Nat) (x : Part) : State :=
  { s with rot := { s.rot with parts := sput ({} : Part) s.rot.parts p x } }

def State.stream (s : State) (n : Nat) : StreamRec := sget ({} : StreamRec) s.ctx.streams n
def State.setStream (s : State) (n : Nat) (r : StreamRec) : State :=
  { s with ctx := { s.ctx with streams := sput ({} : StreamRec) s.ctx.streams n r } }

/-- Owner number of the trunk: one past the last future index (R48). -/
def trunkOwner : Nat := 4096

def StreamRec.owner (r : StreamRec) (o : Nat) : OwnerRec :=
  if o = trunkOwner then r.trunk else sget ({} : OwnerRec) r.futs o
def StreamRec.setOwner (r : StreamRec) (o : Nat) (x : OwnerRec) : StreamRec :=
  if o = trunkOwner then { r with trunk := x } else { r with futs := sput ({} : OwnerRec) r.futs o x }

def State.owner (s : State) (n o : Nat) : OwnerRec := (s.stream n).owner o
def State.setOwner (s : State) (n o : Nat) (x : OwnerRec) : State := s.setStream n ((s.stream n).setOwner o x)

def State.pool (s : State) (p : Nat) : Pool := sget ({} : Pool) s.pools p
def State.setPool (s : State) (p : Nat) (x : Pool) : State := { s with pools := sput ({} : Pool) s.pools p x }

end Sys2Proof.Machine
end

