-- ==== Sys2Proof/Machine/Flags.lean ====
section
/-! DEFINITION. Logs that hold the first failure, seeps, the levee's evidence, and which tenant holds a range of the model
address space. -/

namespace Sys2Proof.Machine

/-! ### Logs -/

/-- Several fields of one register instance written. -/
def State.wrs (s : State) (n : Nat) : List (Fld × Nat) → State
  | [] => s
  | (f, v) :: fs => (s.wr f n v).wrs n fs

/-- A failure logged: the first one since VALID was cleared is recorded, later ones change nothing (R605). -/
def State.logFirst (s : State) (valid : Fld) (n : Nat) (fs : List (Fld × Nat)) : State :=
  if s.flag valid n then s else (s.wrs n fs).wr valid n 1

/-- WM_LOG (R577). -/
def State.wmLog (s : State) (kind tenant detail unit : Nat) : State :=
  s.logFirst WM_LOG_VALID 0 [(WM_LOG_KIND, kind), (WM_LOG_TENANT, tenant), (WM_LOG_DETAIL, detail), (WM_LOG_UNIT, unit)]

/-- DEX_LOG (R530). -/
def State.dexLog (s : State) (half kind ring lane : Nat) : State :=
  s.logFirst DEX_LOG_VALID 0 [(DEX_LOG_HALF, half), (DEX_LOG_KIND, kind), (DEX_LOG_RING, ring), (DEX_LOG_LANE, lane)]

/-- PLOT_LOG (R582). -/
def State.plotLog (s : State) (p unit index word : Nat) : State :=
  s.logFirst PLOT_LOG_VALID p [(PLOT_LOG_UNIT, unit), (PLOT_LOG_INDEX, index), (PLOT_LOG_WORD, word)]

/-! ### Violations (R571) -/

/-- An unprivileged access that a tenant window does not allow: it is counted for the window's tenant, logged with the
register's offset in 8-byte units, and raised while VIOL_EN is 1. -/
def State.violation (s : State) (t : TenantNo) (offset : Nat) : State :=
  let s1 := (s.bump ctrViolations t.toNat).wmLog 0 t.toNat (offset / 8) 0
  if s1.flag WM_CTL_VIOL_EN then s1.raise evWmViolation else s1

/-- A Watermaster refusal counted for its tenant (R576, R577) and logged. -/
def State.wmRefusal (s : State) (t : TenantNo) (detail : BitVec 16) : State :=
  (s.bump ctrRefused t.toNat).wmLog 1 t.toNat detail.toNat 0

/-! ### Seeps (R141, R579) -/

/-- Register of each kind of seep. -/
def seepReg : SeepKind → RegKind
  | .flume => .flSeep
  | .furrow => .fuSeep
  | .sfu => .sfuSeep
  | .headworks => .hwSeep
  | .codec => .codecSeep
  | .plot => .plotSeep
  | .memt => .memtSeep
  | .cistern => .cisSeep
  | .sluice => .sluiceSeep
  | .cf => .cfSeep
  | .dex => .dexSeep
  | .pwr => .pwrSeep
  | .wm => .wmSeep
  | .watchdog => .slotWdog

/-- Target or unit of an armed word, as each register lays it out. -/
def seepTarget (k : SeepKind) (w : DWord) : Nat :=
  match k with
  | .furrow => getBits w 2 3
  | .headworks => getBits w 2 3
  | .codec => getBits w 2 3
  | .plot => getBits w 2 3
  | .cf => getBits w 2 3
  | .pwr => getBits w 2 1
  | _ => getBits w 2 2

/-- Targets from here on never fire. -/
def seepLimit : SeepKind → Nat
  | .furrow => 6
  | .headworks => 5
  | .codec => 6
  | .plot => 7
  | .cf => 6
  | .sluice => 2
  | .wm => 3
  | .pwr => 2
  | _ => 4

/-- PERSIST and DELAY, which every seep register lays out alike. -/
def seepPersists (w : DWord) : Bool := w.getLsbD 1
def seepDelay (w : DWord) : Nat := getBits w 32 16

/-- A fault left for the next event of its unit. -/
def State.inject_ (s : State) (k : SeepKind) (inst : Nat) (w : DWord) : State :=
  { s with inject := s.inject ++ [{ kind := k, inst := inst, word := w }] }

/-- The word a seep was armed with: ARM clear where it is not armed. -/
def State.armedWord (s : State) (k : SeepKind) (inst : Nat) : DWord := sget (0 : DWord) s.armed (regOff (seepReg k) inst)

/-- Events an armed seep has let through. -/
def State.seepSeen (s : State) (k : SeepKind) (inst : Nat) : Nat := sget 0 s.seen (regOff (seepReg k) inst)

/-- A seep is armed with a target that acts. -/
def State.seepArmed (s : State) (k : SeepKind) (inst : Nat) : Bool :=
  (s.armedWord k inst).getLsbD 0 && decide (seepTarget k (s.armedWord k inst) < seepLimit k)

/-- A seep fires: FIRED is set and ARM cleared, but for a persistent PWR_SEEP, which keeps ARM until firmware clears it (R546). -/
def State.disarm (s : State) (k : SeepKind) (inst : Nat) : State :=
  let r := seepReg k
  let keep := k = .pwr ∧ seepPersists (s.armedWord k inst)
  let v := s.reg r inst ||| BitVec.ofNat 64 (2 ^ 48)
  let s1 := s.setReg r inst (if keep then v else v &&& ~~~1)
  if keep then s1
  else { s1 with armed := sput (0 : DWord) s1.armed (regOff r inst) 0, seen := sput 0 s1.seen (regOff r inst) 0 }

/-- What a unit's events meet of its seep: on which of them the fault falls, with the word the seep was armed with. -/
structure SeepHit where
  st : State
  hit : Option (Nat × DWord)

/-- The word of the seep that an event meets. -/
def SeepHit.word (h : SeepHit) : Option DWord := h.hit.map (·.2)

/-- n events of a unit, counted by its armed seep (R140, R141): a fault that SEEP_FIRE has left falls on the first of them; else the
DELAY-th event after arming, counting from 0, is the one the seep fires on. Only events that the armed word acts on count. -/
def State.seepEvents (s : State) (k : SeepKind) (inst n : Nat) (acts : DWord → Bool := fun _ => true) : SeepHit :=
  match s.inject.find? fun x => x.kind = k && x.inst = inst && acts x.word with
  | some x =>
      if n = 0 then { st := s, hit := none }
      else { st := { s with inject := s.inject.erase x }, hit := some (0, x.word) }
  | none =>
      let w := s.armedWord k inst
      if !s.seepArmed k inst || !acts w then { st := s, hit := none }
      else if seepDelay w < s.seepSeen k inst + n then
        { st := s.disarm k inst, hit := some (seepDelay w - s.seepSeen k inst, w) }
      else { st := { s with seen := sput 0 s.seen (regOff (seepReg k) inst) (s.seepSeen k inst + n) }, hit := none }

/-- No fault of a seep meets its unit: none has been left, and the seep is not armed. -/
def State.seepQuiet (s : State) (k : SeepKind) (inst : Nat) : Bool :=
  !s.seepArmed k inst && s.inject.all fun x => !(x.kind = k && x.inst = inst)

/-- One event that seeps with a target act on. -/
def State.seepOne (s : State) (k : SeepKind) (inst target : Nat) : SeepHit :=
  s.seepEvents k inst 1 fun w => seepTarget k w = target

/-! ### Flits sent (R442, R443, R446 to R449, R525) -/

/-- A link by its number: port p, or 8 + half. -/
def linkOf (l : Nat) : Link := if l < 8 then .cf (BitVec.ofNat 3 l) else .dex (BitVec.ofNat 1 (l - 8))

/-- Flits leave only on a link that is UP; meanwhile they wait (R443, R526). -/
def State.linkUp (s : State) (l : Nat) : Bool :=
  if l < 8 then s.rd CF_PORT_STATE l = 2 else s.rd DEX_HALF_STATE (l - 8) = 2

/-- Weights of a link's virtual channels: CF_VC, where 0 acts as 1, and the fixed ones of Dexlink. -/
def State.vcWeights (s : State) (l : Nat) : List Nat :=
  if l < 8 then [max 1 (s.rd CF_VC_W_COLL), max 1 (s.rd CF_VC_W_LIFT), max 1 (s.rd CF_VC_W_CTRL)] else [192, 48, 16]

/-- Receive buffers that training advertises, in flits (R447, R525). -/
def vcBuffer (l v : Nat) : Nat := [if l < 8 then 256 else 512, 128, 64].getD v 0

/-- Slots of a window of 256 that a channel's weight claims: ⌊256·w / Σw⌋ (R449). -/
def vcShare (ws : List Nat) (v : Nat) : Nat := 256 * ws.getD v 0 / (ws.foldl (· + ·) 0)

/-- Channel that claims a slot of the window, if any does; which slots are whose is the model's (DESIGN CHOICE, log entry 110). -/
def slotOwner (ws : List Nat) (slot : Nat) : Option Nat :=
  if slot < vcShare ws 0 then some 0
  else if slot < vcShare ws 0 + vcShare ws 1 then some 1
  else if slot < vcShare ws 0 + vcShare ws 1 + vcShare ws 2 then some 2 else none

/-- A channel has a flit ready, and credit to send it (R448). -/
def LinkRec.vcReady (x : LinkRec) (l v : Nat) : Bool :=
  x.txq.any (fun p => p.vc = v)
  && decide ((sget (0 : BitVec 12) x.sent v - sget (0 : BitVec 12) x.freed v).toNat < vcBuffer l v)

/-- Channel that the next slot goes to: the one that claims it, else any that can use it. -/
def State.nextVc (s : State) (l : Nat) : Option Nat :=
  let x := s.link l
  let can := (List.range 3).filter (x.vcReady l)
  match slotOwner (s.vcWeights l) x.slot with
  | some v => if can.contains v then some v else can.head?
  | none => can.head?

/-- A flit taken from the first packet of a channel, and the packets left: a packet's flits are contiguous within their channel. -/
def takeTx (v : Nat) : List TxPkt → Option (TxPkt × List TxPkt)
  | [] => none
  | p :: ps =>
      if p.vc = v then some (p, if p.left ≤ 1 then ps else { p with left := p.left - 1, fresh := false } :: ps)
      else (takeTx v ps).map fun r => (r.1, p :: r.2)

/-- A link's seep counts the flits it sends, and the tags at the ends of packets (R475, R530). -/
def State.flitSeep (s : State) (l : Nat) (eop : Bool) : SeepHit :=
  if l < 8 then
    s.seepEvents .cf 0 1 fun w => getBits w 5 3 = l && (seepTarget .cf w = 0 || (eop && seepTarget .cf w = 2))
  else
    s.seepEvents .dex 0 1 fun w => getBits w 4 1 = l - 8 && (seepTarget .dex w = 0 || (eop && seepTarget .dex w = 1))

/-- Header of the next flit on a link: the acknowledgement, and the credit count of each channel in turn (R442, R448). -/
def LinkRec.header (x : LinkRec) (vc : Nat) (sop eop : Bool) : FlitIn :=
  let cvc := x.txNext.toNat % 3
  { fseq := x.txNext, ack := x.lastGood, nak := false, vc := BitVec.ofNat 2 vc, sop := sop, eop := eop, cvc := BitVec.ofNat 2 cvc,
    credit := sget (0 : BitVec 12) x.rxFreed cvc, crcOk := true, tagOk := true, protoOk := true }

/-- A flit put on the wire and into the retry buffer, which keeps the last 1,024. -/
def State.putFlit (s : State) (l : Nat) (f : FlitIn) (again : Bool) : State :=
  let x := s.link l
  let r := x.retry ++ [(f, again)]
  (s.setLink l { x with txNext := x.txNext + 1, retry := r.drop (r.length - 1024) }).emit (.flit (linkOf l) f)

/-- One flit of a channel sent. -/
def State.sendFlit (s : State) (l v : Nat) (p : TxPkt) (rest : List TxPkt) : State :=
  let eop := decide (p.left ≤ 1)
  let h := s.flitSeep l eop
  let x := h.st.link l
  let hitTag := h.word.any fun w => if l < 8 then seepTarget .cf w = 2 else seepTarget .dex w = 1
  let f := { x.header v p.fresh eop with crcOk := h.hit.isNone || hitTag, tagOk := !hitTag }
  let sent := sput (0 : BitVec 12) x.sent v (sget (0 : BitVec 12) x.sent v + 1)
  ((h.st.setLink l { x with txq := rest, slot := (x.slot + 1) % 256, sent := sent }).putFlit l f (h.word.any seepPersists)).bump
    (if l < 8 then ctrPortFlitsTx else ctrHalfFlitsTx) (if l < 8 then l else l - 8)

/-- Flits sent while slots can be granted. -/
def State.drainLink (s : State) (l : Nat) : Nat → State
  | 0 => s
  | n + 1 =>
      if !s.linkUp l then s
      else match s.nextVc l with
        | none => s
        | some v =>
            match takeTx v (s.link l).txq with
            | some (p, rest) => (s.sendFlit l v p rest).drainLink l n
            | none => s

/-- Flits that wait on a link. -/
def LinkRec.waiting (x : LinkRec) : Nat := (x.txq.map (·.left)).foldl (· + ·) 0

def State.drainFlits (s : State) (l : Nat) : State := s.drainLink l (s.link l).waiting

/-- A packet given to a link on a virtual channel: its flits leave as slots and credits allow. -/
def State.sendFlits (s : State) (l vc payload : Nat) : State :=
  let x := s.link l
  (s.setLink l { x with txq := x.txq ++ [{ vc := vc, left := flitsOf payload }] }).drainFlits l

/-- An idle flit: with nothing else to send, a port acknowledges and returns credits in one (R448). -/
def State.idleFlit (s : State) (l : Nat) : State :=
  let x := s.link l
  if s.linkUp l && x.txq.isEmpty then s.putFlit l (x.header 3 false false) false else s

/-- The flits from a sequence number on are replayed unchanged (R443); a persistent seep meets the first replay too. -/
def State.replayFlits (s : State) (l : Nat) (fseq : BitVec 12) : State :=
  let x := s.link l
  let n := (x.txNext - fseq).toNat
  let old := x.retry.drop (x.retry.length - n)
  let out := old.map fun (y : FlitIn × Bool) =>
    Output.flit (linkOf l) (if y.2 then y.1 else { y.1 with crcOk := true, tagOk := true })
  let kept := x.retry.take (x.retry.length - n) ++ old.map fun (y : FlitIn × Bool) => (y.1, false)
  let s1 := s.setLink l { x with retry := kept }
  ({ s1 with out := s1.out ++ out }).bump (if l < 8 then ctrPortReplays else ctrHalfReplays) (if l < 8 then l else l - 8) n

/-! ### Host memory (R525, R529) -/

/-- A fresh tag of a half (DESIGN CHOICE: in ascending order, log entry 9). -/
def State.takeTag (s : State) (half : BitVec 1) (use : TagUse) (q : RingNo) (n : Seq) : BitVec 16 × State :=
  let t := sget (0 : BitVec 16) s.lnk.nextTag half.toNat
  (t, { s with lnk := { s.lnk with nextTag := sput (0 : BitVec 16) s.lnk.nextTag half.toNat (t + 1),
                                   tags := s.lnk.tags ++ [⟨half, t, use, q, n⟩] } })

/-- A MEM_WR packet of a half. -/
def State.memWrite (s : State) (h : BitVec 1) (tag : BitVec 16) (addr : Nat) (bs : List Byte) : State :=
  (s.sendFlits (8 + h.toNat) 0 bs.length).emit (.memWrite h tag (BitVec.ofNat 64 addr) bs)

/-- One packet of an operation's write to host memory, which a WR_ACK answers. -/
def State.hostPacket (s : State) (use : TagUse) (o : Op) (addr : Nat) (bs : List Byte) : State :=
  let h := s.halfOf o.ring
  let (t, s1) := s.takeTag h use o.ring o.seq
  let s2 := match s1.op? o.ring o.seq with
    | some p => s1.setOp { p with unacked := p.unacked + 1 }
    | none => s1
  s2.memWrite h t addr bs

/-- A transfer cut into packets of at most 4,096 bytes: offset and length of each. -/
def packetsOf (len : Nat) : List (Nat × Nat) :=
  (List.range (max 1 ((len + 4095) / 4096))).map fun i => (4096 * i, min 4096 (len - 4096 * i))

/-- A write of an operation to host memory, packet by packet. -/
def State.hostWrite (s : State) (o : Op) (addr : Nat) (bs : List Byte) (use : TagUse := .data) : State :=
  (packetsOf bs.length).foldl (fun (s : State) (x : Nat × Nat) => s.hostPacket use o (addr + x.1) ((bs.drop x.1).take x.2)) s

/-- A read of host memory by an operation, packet by packet. -/
def State.hostRead (s : State) (o : Op) (addr len : Nat) : State :=
  (packetsOf len).foldl (fun (s : State) (x : Nat × Nat) =>
    let h := s.halfOf o.ring
    let (t, s1) := s.takeTag h .read o.ring o.seq
    (s1.sendFlits (8 + h.toNat) 0 0).emit (.memRead h t (BitVec.ofNat 64 (addr + x.1)) x.2)) s

/-! ### Reads and writes of Cistern (R415, R416, R421, R423) -/

/-- CIS_LOG (R436). -/
def State.cisLog (s : State) (ch block kind : Nat) (st : BitVec 12) : State :=
  s.logFirst CIS_LOG_VALID ch [(CIS_LOG_BLOCK, block), (CIS_LOG_KIND, kind), (CIS_LOG_STATUS, st.toNat)]

/-- A block that cannot be read correctly: in the protected region it is rebuilt from its stripe and rewritten clean, elsewhere the read
ends with MEM_UNCORRECTABLE (R416, R421). -/
def State.readFailed (s : State) (a ch m kind : Nat) (persist : Bool) : BitVec 12 × State :=
  let s1 := s.bump ctrEccUncorrectable ch
  if !s.protected_ a then (stMemUncorrectable, s1.cisLog ch m kind stMemUncorrectable)
  else if s.rebuildable a && !persist then (stOk, (s1.bump ctrParityRebuilt ch).rebuildBlock (a / 64))
  else (stMemUncorrectable, s1.cisLog ch m 4 stMemUncorrectable)

/-- The parity granule of the stripe of an address corrupted: its blocks cannot be read (R436; log entry 41). -/
def State.spoilParity (s : State) (a : Nat) : State :=
  if s.protected_ a then
    let g := s.parityOf (a / 256 * 256) / 64
    { s with mem := (((s.mem.setTag g 2).setTag (g + 1) 2).setTag (g + 2) 2).setTag (g + 3) 2 }
  else s

/-- A channel's seep counts its reads (R141, R436). What the one it fires on meets: an ECC outcome, a fault that lasts into the rebuild, a
spoilt parity granule, or a failure left for the next full retraining. -/
def State.eccFor (s : State) (ch a : Nat) (ecc : EccOutcome) : EccOutcome × Bool × State :=
  let h := s.seepEvents .cistern ch 1
  match h.word with
  | none => (ecc, false, h.st)
  | some w =>
      match seepTarget .cistern w with
      | 0 => (if ecc = .uncorrectable then ecc else .corrected, false, h.st)
      | 1 => (.uncorrectable, seepPersists w, h.st)
      | 2 => (ecc, false, h.st.inject_ .cistern (64 + ch) w)
      | _ => (ecc, false, h.st.spoilParity a)

/-- One block read (R416): its status, and the state after correction, repair, counting and logging. -/
def State.readBlock (s : State) (a : Nat) (ecc : EccOutcome) : BitVec 12 × State :=
  let (ch, m) := s.chanBlock a
  let (e, persist, s1) := s.eccFor ch a ecc
  match s1.mem.tag (a / 64) with
  | 1 => (stChannelRetired, s1.cisLog ch m 2 stChannelRetired)
  | 2 => s1.readFailed a ch m 1 persist
  | _ =>
      match e with
      | .clean => (stOk, s1)
      | .corrected => (stOk, s1.bump ctrEccCorrected ch)
      | .uncorrectable => s1.readFailed a ch m 0 persist

/-- Blocks read from an address on; what ECC finds is said of the first. -/
def State.readBlocks (s : State) (a : Nat) (ecc : EccOutcome) : Nat → BitVec 12 × State
  | 0 => (stOk, s)
  | n + 1 =>
      let r := s.readBlock a ecc
      if r.1 = stOk then r.2.readBlocks (a / 64 * 64 + 64) .clean n else r

/-- 64-byte blocks that a range touches. -/
def blocksOf (a n : Nat) : Nat := if n = 0 then 0 else (a + n - 1) / 64 - a / 64 + 1

/-- A new window of 256 grants of a channel. -/
def State.newWindow (s : State) (ch : Nat) : State :=
  { s with cis := { s.cis with used := sput 0 s.cis.used ch 0,
                               partUsed := s.cis.partUsed.filter fun x => x.1 / 64 ≠ ch } }

/-- A grant of a channel's window of 256 taken. -/
def State.useGrant (s : State) (ch : Nat) : State :=
  let u := sget 0 s.cis.used ch + 1
  let s1 := { s with cis := { s.cis with used := sput 0 s.cis.used ch u } }
  if 256 ≤ u then s1.newWindow ch else s1

/-- A grant counted for a partition within its window. -/
def State.countGrant (s : State) (ch p : Nat) : State :=
  let mine := sget 0 s.cis.partUsed (64 * ch + p)
  let s1 := s.bump ctrGrants p
  let s2 := if mine < s.rd CIS_PART_BW_RESERVE p then s1.bump ctrReserveGrants p else s1
  ({ s2 with cis := { s2.cis with partUsed := sput 0 s2.cis.partUsed (64 * ch + p) (mine + 1) } } : State).useGrant ch

/-- One grant to a request of a partition; a partition at its CAP waits for the next window (R423). -/
def State.grant_ (s : State) (ch p : Nat) : State :=
  let cap := s.rd CIS_PART_BW_CAP p
  if cap ≠ 0 ∧ cap ≤ sget 0 s.cis.partUsed (64 * ch + p) then ((s.bump ctrCapWaits p).newWindow ch).countGrant ch p
  else s.countGrant ch p

/-- A grant to a request with a partition's tag, or to one of SYSTEM (R423). -/
def State.tagged (s : State) (part : Option Nat) (ch : Nat) : State :=
  match part with
  | some p => s.grant_ ch p
  | none => s.useGrant ch

/-- A unit's read of Cistern, granule by granule (R423): its status, and the state after grants, ECC and counts. -/
def State.readGranules (s : State) (part : Option Nat) (a n : Nat) : Nat → BitVec 12 × State
  | 0 => (stOk, s)
  | k + 1 =>
      let m := min n (256 - a % 256)
      let ch := (s.chanBlock a).1
      let r := (s.tagged part ch).readBlocks a .clean (blocksOf a m)
      if r.1 ≠ stOk then r
      else
        let s1 := r.2.bump ctrReadBytes ch m
        if n ≤ m then (stOk, s1) else s1.readGranules part (a + m) (n - m) k

def State.cisRead (s : State) (part : Option Nat) (a n : Nat) : BitVec 12 × State := s.readGranules part a n (n / 256 + 2)

/-- Blocks that a controller's XTS engine encrypts and compares (R569): after a mismatch the engine encrypts the block once more, and a
second one is a Watermaster fault. Controllers 0 to 63 are Cistern's, 64 to 95 Aquifer's (R577). -/
def State.xtsCheck (s : State) (unit blocks : Nat) : State :=
  let h := s.seepEvents .wm 0 blocks fun w => seepTarget .wm w = 0 && getBits w 4 7 = unit
  match h.word with
  | some w => if seepPersists w then (h.st.wmLog 3 0 0 unit).stopAny causeWatermaster else h.st.bump ctrXtsRetried
  | none => h.st

/-- The requests of a unit's write of Cistern. -/
def State.sendGranules (s : State) (part : Option Nat) (a n : Nat) : Nat → State
  | 0 => s
  | k + 1 =>
      let m := min n (256 - a % 256)
      let ch := (s.chanBlock a).1
      let s1 := ((s.tagged part ch).bump ctrWriteBytes ch m).xtsCheck ch (blocksOf a m)
      if n ≤ m then s1 else s1.sendGranules part (a + m) (n - m) k

/-- A unit's write of Cistern. -/
def State.cisSend (s : State) (part : Option Nat) (a : Nat) (bs : List Byte) : State :=
  (s.sendGranules part a bs.length (bs.length / 256 + 2)).cisWrite a bs

/-- Ranges of Cistern: every channel they touch serves, and their bytes read in order until one cannot be. -/
def State.cisOpenAll (s : State) (l : List (Nat × Nat)) : Bool := l.all fun r => s.cisOpen r.1 r.2
def State.cisReadAll (s : State) (part : Option Nat) : List (Nat × Nat) → BitVec 12 × State
  | [] => (stOk, s)
  | (a, n) :: rest =>
      let r := s.cisRead part a n
      if r.1 = stOk then r.2.cisReadAll part rest else r

/-! ### The levee list (R585) -/

/-- A write recorded in the levee list (R585). -/
def State.recordLevee (s : State) (off : Nat) (v : DWord) : State :=
  { s with lev := { s.lev with list := sput (0 : DWord) s.lev.list off v } }

/-- A register as the levee list is to hold it after a change. -/
def State.recordReg (s : State) (k : RegKind) (n : Nat) : State := s.recordLevee (regOff k n) (s.reg k n)

/-! ### Holders of the model address space (R379 to R381, R564, R569) -/

/-- End of the Cistern range of the MAS: 480 GiB (R379), or the end of the 63-channel map after a retirement (R430). -/
def State.cisEnd (s : State) : Nat := if s.flag CIS_MAP_RETIRED then 0x7620000000 else 0x7800000000

/-- Size of a plot's column: 16 MiB, or 14 MiB under seven tiers (R385). -/
def State.columnBytes (s : State) : Nat := if s.flag RES_TIER_CTL_SEVEN then 0xE00000 else 0x1000000

/-- Size of a reach's page-tile cache in each column, in bytes (R322). -/
def State.cacheBytes (s : State) (reach : Nat) : Nat :=
  min (s.rd PG_CACHE_CACHE_256K reach) (if s.flag RES_TIER_CTL_SEVEN then 56 else 64) * 2 ^ 18

/-- Row of the table of R379 that a byte lies in: 0 Cistern, 1 Reservoir, 2 Aquifer, 3 unmapped. -/
def State.masRow (s : State) (a : Nat) : Nat :=
  if a < s.cisEnd then 0
  else if 0x10000000000 ≤ a ∧ a < 0x10400000000 then
    (if a % 0x1000000 < s.columnBytes then 1 else 3)
  else if 0x800000000000 ≤ a ∧ a < 0x800000000000 + 1708984375 * 65536 then 2 else 3

/-- A half-open region touches a granule of 64 MiB. -/
def touches (base len g : Nat) : Bool := decide (0 < len ∧ base < (g + 1) * 2 ^ 26 ∧ g * 2 ^ 26 < base + len)

/-- A granule is SYSTEM: one of the system area, or covered by the weight cache, the image pool, the save area or the
parity area (R381, R569). -/
def State.granSystem (s : State) (g : Nat) : Bool :=
  g ≤ 1
  || touches (s.rd WC_CTL_BASE_1G * 2 ^ 30) (s.rd WC_CTL_SIZE_1G * 2 ^ 30) g
  || touches (s.rd ROT_POOL_BASE_64K * 2 ^ 16) (s.rd ROT_POOL_SIZE_1M * 2 ^ 20) g
  || (s.flag PWR_SAVE_ENABLE && touches (s.rd PWR_SAVE_BASE_1G * 2 ^ 30) (2 ^ 34) g)
  || (s.flag CIS_PROT_ENABLE && touches (s.rd CIS_PROT_PAR_BASE_1M * 2 ^ 20) (s.rd CIS_PROT_SIZE_7M * 2 ^ 20) g)

/-- Tenant that holds a granule; tenant 0 holds what no other holds (R563). -/
def State.granTenant (s : State) (g : Nat) : TenantNo := sget (0 : TenantNo) s.wm.granOwner g

/-- All granules of a range satisfy a test. -/
def allGranules (p : Nat → Bool) (g : Nat) : Nat → Bool
  | 0 => true
  | n + 1 => p g && allGranules p (g + 1) n

/-- The check of R641 on a range that an operation of a tenant reads or writes: none when it lies wholly in Cistern
granules the tenant holds; detail 0 when it touches another range or no memory; TENANT when it touches a granule of
another tenant or a SYSTEM granule. -/
def State.rangeDetail (s : State) (t : TenantNo) (a len : Nat) : Option (BitVec 16) :=
  if len = 0 then (if s.masRow a = 0 then none else some 0)
  else if s.masRow a ≠ 0 ∨ s.masRow (a + len - 1) ≠ 0 then some 0
  else
    let g := a / 2 ^ 26
    let n := (a + len - 1) / 2 ^ 26 - g + 1
    if allGranules (fun g => !s.granSystem g && s.granTenant g = t) g n then none else some dtTenant

/-- Tenant that holds a partition (R564). -/
def State.partTenant (s : State) (p : Nat) : TenantNo := sget (0 : TenantNo) s.wm.partOwner p

/-- A tenant table entry. -/
def State.tenant (s : State) (t : Nat) : Tenant := sget ({} : Tenant) s.wm.tenants t
def State.setTenant (s : State) (t : Nat) (x : Tenant) : State :=
  { s with wm := { s.wm with tenants := sput ({} : Tenant) s.wm.tenants t x } }

/-- A tenant's allotment holds a stream number: its granted range, or for tenant 0 what no other tenant holds
(R47, R563). -/
def State.allotted (s : State) (t : TenantNo) (n : Nat) : Bool :=
  if t = 0 then
    !(s.wm.tenants.any fun x => decide (x.2.streamFirst ≤ n ∧ n < x.2.streamFirst + x.2.streamCount))
  else
    decide ((s.tenant t.toNat).streamFirst ≤ n ∧ n < (s.tenant t.toNat).streamFirst + (s.tenant t.toNat).streamCount)

/-- States of a tenant (R577): tenant 0 is ACTIVE from manufacture (R563). -/
def State.tenantState (s : State) (t : Nat) : Nat := if t = 0 then 1 else s.rd WM_TENANT_STATE t

/-- The tenant that an extent belongs to: the live tenant with its OWNER (R564). -/
def State.extentTenant (s : State) (e : Extent) : Option Nat :=
  (List.range 64).find? fun t => s.tenantState t = 1 && (s.tenant t).owner = e.owner

def State.extent (s : State) (e : Nat) : Extent := sget ({} : Extent) s.aqf.extents e
def State.setExtent (s : State) (e : Nat) (x : Extent) : State :=
  { s with aqf := { s.aqf with extents := sput ({} : Extent) s.aqf.extents e x } }

/-- Logical plots of a rectangle, row by row (R154). -/
def rectPlots (x0 y0 w h : Nat) : List Nat :=
  (List.range h).flatMap fun j => (List.range w).map fun i => 32 * (y0 + j) + (x0 + i)

/-- Bits of an active or shadow ROT_PART word (R477). -/
def partBits (f : Fld) (x : DWord) : Nat := getBits x f.lo f.w

/-- Footprint of a partition under its taken fields. -/
def State.partPlots (s : State) (p : Nat) : List Nat :=
  let a := (s.part p).act
  rectPlots (partBits ROT_PART_X0 a) (partBits ROT_PART_Y0 a) (partBits ROT_PART_W_M1 a + 1) (partBits ROT_PART_H_M1 a + 1)

/-- The partition runs slots (R477, R478). -/
def State.partEnabled (s : State) (p : Nat) : Bool := partBits ROT_PART_ENABLE (s.part p).act = 1

/-- The enabled partition whose rectangle holds a logical plot. -/
def State.partOf (s : State) (l : Nat) : Option Nat :=
  (List.range 64).find? fun p => s.partEnabled p && (s.partPlots p).contains l

/-- The lowest logical plot of a partition that is mapped to a fenced physical plot (R586). -/
def State.strandingPlot (s : State) (p : Nat) : Option Nat :=
  if s.partEnabled p then
    (s.partPlots p).find? fun l => s.flag LEVEE_PLOT_FLUME (s.physOf l) || s.flag LEVEE_PLOT_PLOT (s.physOf l)
  else none

/-! ### The VCORE target (R535 to R537, R541, R546) -/

/-- Phases that are present (R535). -/
def State.phases (s : State) : List Nat :=
  let run := s.rot.parts.filterMap fun (x : Nat × Part) =>
    if x.2.slot.phase = .running then some (min 3 (1 + partBits ROT_ENTRY_ROLE (sget (0 : DWord) s.rot.bank x.2.slot.entry))) else none
  let video := s.vid.dec.any (fun x => x.2.active.isSome) || s.vid.enc.any (fun x => x.2.active.isSome)
    || s.vid.hw.any (fun x => !x.2.isEmpty)
  (if run.isEmpty then [0] else run) ++ (if video then [4] else [])
  ++ (if s.aqf.extents.any fun x => x.2.st = .loading then [5] else []) ++ (if s.host.marks.isEmpty then [] else [6])

/-- Setpoint of a stage in mV above 0.60 V. -/
def State.setpoint (s : State) (g : Nat) : Nat := min 250 (s.rd PWR_STAGE_VSET_MV g)

/-- Among the phases present, the stage with the highest setpoint. -/
def State.selectStage (s : State) : Nat :=
  ((s.phases.map fun p => s.rd PWR_PHASE_STAGES / 2 ^ (3 * p) % 8).foldl (fun (b : Option Nat) (g : Nat) =>
    match b with | none => some g | some h => if s.setpoint h < s.setpoint g then some g else some h) none).getD 0

/-- VCORE target in mV above 0.60 V: 120 in metered mode, else the stage's setpoint, raised by the highest mark and lowered by the
thermal cap. -/
def State.vcoreTarget (s : State) (g : Nat) : Nat :=
  if s.flag PWR_CTL_METER then 120
  else
    let level := s.host.marks.foldl (fun (n : Nat) (m : Mark) => max n m.level) 0
    min s.pwr.capMv (min 250 (s.setpoint g + 4 * level))

/-- The stage selected anew, and VNOW_MV with it. -/
def State.restage (s : State) : State :=
  let g := s.selectStage
  let s1 := if g = s.pwr.stage then s else ({ s with pwr := { s.pwr with stage := g } }).bump ctrStageChanges
  s1.wr PWR_CTL_VNOW_MV 0 (s1.vcoreTarget g)

end Sys2Proof.Machine
end

