-- ==== Sys2Proof/Machine/Checks.lean ====
section
/-! DEFINITION. What the fetcher checks of a descriptor (R512 to R515, R54, R556), and when a fetched operation may start
(R53, R308, R512). -/

namespace Sys2Proof.Machine

/-- The operation fields of each opcode as (byte, low bit, width); every other bit of bytes 16 to 63 is Reserved (R57, R63,
R343, R359, R368, R393, R451, R454, R515, R557). None: a reserved opcode (R513, R556). -/
def opFields : Nat → Option (List (Nat × Nat × Nat))
  | 0x00 => some []
  | 0x01 => some [(16, 0, 17), (20, 0, 6), (22, 0, 12), (24, 0, 64), (32, 0, 64), (40, 0, 48), (48, 0, 64)]
  | 0x02 => some [(16, 0, 17), (20, 0, 32)]
  | 0x03 => some [(16, 0, 17), (20, 0, 12), (20, 15, 1), (22, 0, 12), (24, 0, 12)]
  | 0x04 => some [(16, 0, 17), (20, 0, 12), (22, 0, 12), (24, 0, 10), (26, 0, 7), (27, 0, 4), (28, 0, 8), (29, 0, 6),
                  (32, 0, 32), (36, 0, 32), (40, 0, 32), (44, 0, 32), (48, 0, 48), (56, 0, 64)]
  | 0x05 => some [(16, 0, 17), (20, 0, 12), (22, 0, 12)]
  | 0x06 => some [(16, 0, 17)]
  | 0x10 => some [(16, 0, 64), (24, 0, 48)]
  | 0x11 => some [(16, 0, 64)]
  | 0x12 => some [(16, 0, 64), (24, 0, 64), (32, 0, 29), (40, 0, 48), (48, 0, 48)]
  | 0x13 => some [(16, 0, 64)]
  | 0x14 => some [(16, 0, 48), (24, 0, 32)]
  | 0x15 => some [(16, 0, 12)]
  | 0x20 => some [(16, 0, 8), (17, 0, 3), (18, 0, 4), (18, 7, 1), (19, 0, 6), (20, 0, 17), (20, 31, 1), (24, 0, 48),
                  (32, 0, 32), (36, 0, 2), (40, 0, 48), (48, 0, 32)]
  | 0x21 => some [(16, 0, 8), (20, 0, 24), (24, 0, 48), (32, 0, 26), (36, 0, 1), (40, 0, 64)]
  | 0x22 => some [(16, 0, 8), (20, 0, 24), (24, 0, 8)]
  | 0x23 => some [(16, 0, 6), (17, 0, 1), (18, 0, 3), (19, 0, 6), (20, 0, 17), (24, 0, 12), (26, 0, 6), (27, 0, 8),
                  (28, 0, 24), (32, 0, 128), (48, 0, 48), (56, 0, 64)]
  | 0x24 => some [(16, 0, 8), (17, 0, 1)]
  | 0x25 => some [(16, 0, 48), (24, 0, 48), (32, 0, 48), (40, 0, 4)]
  | 0x30 => some [(16, 0, 6), (17, 0, 8), (18, 0, 8), (19, 0, 3), (20, 0, 32)]
  | 0x31 => some [(16, 0, 6)]
  | 0x32 => some [(16, 0, 6), (17, 0, 8), (18, 0, 2), (19, 0, 4), (20, 0, 3), (24, 0, 64), (32, 0, 48), (40, 0, 48),
                  (48, 0, 48)]
  | 0x33 => some [(16, 0, 32), (20, 0, 6), (24, 0, 48), (32, 0, 9)]
  | 0x40 => some [(16, 0, 8), (20, 0, 32), (24, 0, 48), (32, 0, 8), (33, 0, 1)]
  | 0x41 => some [(16, 0, 8), (20, 0, 32), (24, 0, 10), (32, 0, 64)]
  | 0x42 => some [(16, 0, 8), (24, 0, 64)]
  | 0x43 => some [(16, 0, 8)]
  | 0x50 => some [(16, 0, 64), (24, 0, 256)]
  | 0x51 => some [(16, 0, 64), (24, 0, 32)]
  | 0x52 => some [(16, 0, 6), (24, 0, 64)]
  | 0x53 => some [(16, 0, 6), (17, 0, 1)]
  | 0x54 => some [(16, 0, 6), (17, 0, 2), (20, 0, 64)]
  | 0x55 => some [(16, 0, 12), (18, 0, 1)]
  | 0x56 => some [(16, 0, 48), (24, 0, 32), (28, 0, 1)]
  | 0x57 => some [(16, 0, 8)]
  | _ => none

/-- The bits that a list of fields covers. -/
def fieldMask (fs : List (Nat × Nat × Nat)) : Nat :=
  fs.foldl (fun m f => m ||| (2 ^ f.2.2 - 1) <<< (8 * f.1 + f.2.1)) 0

/-- Bits of the header that carry a field (R512). -/
def headerMask : Nat := fieldMask [(0, 0, 8), (1, 0, 2), (2, 0, 8), (3, 0, 3), (8, 0, 64)]

/-- A Reserved bit of the header or of the operation's fields is set (R514). -/
def Op.reservedSet (o : Op) : Bool :=
  match opFields o.opcode with
  | some fs => o.desc.toNat &&& (headerMask ||| fieldMask fs) ≠ o.desc.toNat
  | none => false

/-- Operations that only maintenance rings carry (R513, R556). -/
def Op.maintenance (o : Op) : Bool := (0x40 ≤ o.opcode && o.opcode ≤ 0x43) || o.opcode = 0x56 || o.opcode = 0x57

/-- Operations reserved to rings of tenant 0 (R556). -/
def Op.operatorOnly (o : Op) : Bool := 0x52 ≤ o.opcode && o.opcode ≤ 0x57

/-! ### Streams named by an operation -/

/-- The operation acts on a stream (R51). -/
def Op.isStream (o : Op) : Bool := 0x01 ≤ o.opcode && o.opcode ≤ 0x06
def Op.streamNo (o : Op) : Nat := o.fld 16 0 17

/-- Owners an operation touches (R51): the trunk, and futures from a base on. -/
structure Touch where
  trunk : Bool := false
  ranges : List (Nat × Nat) := []
  deriving DecidableEq, Repr

def Op.touch (o : Op) : Touch :=
  match o.opcode with
  | 0x01 => { trunk := true }
  | 0x02 => { trunk := true }
  | 0x03 => { trunk := o.fld 20 15 1 = 1,
              ranges := (if o.fld 20 15 1 = 1 then [] else [(o.fld 20 0 12, 1)]) ++ [(o.fld 22 0 12, o.fld 24 0 12 + 1)] }
  | 0x04 => { ranges := [(o.fld 20 0 12, o.fld 22 0 12 + 1)] }
  | 0x05 => { ranges := [(o.fld 20 0 12, o.fld 22 0 12 + 1)] }
  | 0x06 => { trunk := true, ranges := [(0, 4096)] }
  | _ => {}

def rangesMeet (a b : Nat × Nat) : Bool := a.1 < b.1 + b.2 && b.1 < a.1 + a.2

/-- Two operations touch the same trunk or future of one stream (R53). -/
def Op.conflicts (o p : Op) : Bool :=
  o.isStream && p.isStream && o.streamNo = p.streamNo &&
  ((o.touch.trunk && p.touch.trunk) || o.touch.ranges.any fun a => p.touch.ranges.any fun b => rangesMeet a b)

/-! ### The stream as it will stand (R54) -/

/-- Futures of a range made LIVE or FREE in a projection. -/
def projRange (live : Bool) (r : StreamRec) (base : Nat) : Nat → StreamRec
  | 0 => r
  | n + 1 => (projRange live r base n).setOwner (base + n) { (r.owner (base + n)) with live := live }

/-- A stream after one outstanding operation has succeeded, as far as the checks of R54 look. -/
def projOp (r : StreamRec) (o : Op) : StreamRec :=
  match o.opcode with
  | 0x01 => { ({} : StreamRec) with st := .open_, everOpen := true, home := some o.ring, cap := o.fld 22 0 12 + 1,
                                    model := BitVec.ofNat 64 (o.fld 24 0 64), policy := BitVec.ofNat 64 (o.fld 32 0 64),
                                    part := BitVec.ofNat 6 (o.fld 20 0 6), trainT := o.fld 48 0 64 }
  | 0x03 => projRange true r (o.fld 22 0 12) (o.fld 24 0 12 + 1)
  | 0x05 => projRange false r (o.fld 20 0 12) (o.fld 22 0 12 + 1)
  | 0x06 => { everOpen := true, home := r.home, tenant := r.tenant }
  | _ => r

/-- The stream as it will stand after every earlier operation of a ring that is not refused. -/
def projStream (ops : List Op) (ring : RingNo) (n : Nat) (r : StreamRec) : StreamRec :=
  ops.foldl (fun r o => if o.ring = ring && o.isStream && o.streamNo = n && o.stage ≠ .done then projOp r o else r) r

/-- Bytes a stream's region takes (R49). -/
def regionBytes (cap stateBytes trainT : Nat) : Nat :=
  4096 + (64 * cap + 4095) / 4096 * 4096 + 2 * stateBytes * (cap + 1) + trainT

/-- F of R49. -/
def futureTableEnd (cap : Nat) : Nat := 4096 + (64 * cap + 4095) / 4096 * 4096

/-- All indices of a range satisfy a test. -/
def allRange (p : Nat → Bool) (base : Nat) : Nat → Bool
  | 0 => true
  | n + 1 => p base && allRange p (base + 1) n

def State.model? (s : State) (h : Nat) : Option ModelRec := (s.ctx.models.find? fun x => x.1 = h).map (·.2)
def State.policy? (s : State) (h : Nat) : Option PolicyRec := (s.ctx.policies.find? fun x => x.1 = h).map (·.2)

/-- A refusal: its status and detail. -/
abbrev Refused := Option (BitVec 12 × BitVec 16)
def deny (d : BitVec 16 := 0) : Refused := some (stDenied, d)

/-- Checks of STREAM_OPEN in the order of R54. -/
def State.checkOpen (s : State) (o : Op) (r : StreamRec) : Refused :=
  let t := o.tenant s
  let m := s.model? (o.fld 24 0 64)
  let pol := s.policy? (o.fld 32 0 64)
  let p := o.fld 20 0 6
  if r.st ≠ .free then deny
  else match m with
  | none => deny
  | some m =>
    if o.fld 32 0 64 ≠ 0 ∧ (pol.isNone ∨ pol.any (fun x => x.model.toNat ≠ o.fld 24 0 64)) then deny
    else if m.tenant ≠ t ∨ pol.any (fun x => x.tenant ≠ t) ∨ s.partTenant p ≠ t then deny dtTenant
    else if !s.partEnabled p then deny
    else if o.fld 40 0 48 % 4096 ≠ 0 ∨ o.fld 48 0 64 % 4096 ≠ 0
        ∨ s.cisEnd < o.fld 40 0 48 + regionBytes (o.fld 22 0 12 + 1) m.stateBytes (o.fld 48 0 64) then deny
    else match s.rangeDetail t (o.fld 40 0 48) (regionBytes (o.fld 22 0 12 + 1) m.stateBytes (o.fld 48 0 64)) with
      | some d => deny d
      | none => none

/-- Training of a ROLLOUT asks for an action source other than POLICY, for a policy the stream lacks, or for more scratch
than T (R54, R515, R63). -/
def State.trainRefused (s : State) (o : Op) (r : StreamRec) : Bool :=
  let train := o.fld 27 0 1 = 1
  let asrc := o.fld 26 2 2
  let h := o.fld 24 0 10 + 1
  let w := o.fld 29 0 6 + 1
  let a := ((s.model? r.model.toNat).map (·.actBytes)).getD 0
  (train && asrc ≠ 0) || (train && decide (r.trainT < (o.fld 22 0 12 + 1) * min w h * a))
  || ((train || asrc = 0) && r.policy = 0)

/-- Checks of the other stream operations in the order of R54, and of the ROLLOUT fields that R66, R69 and R515 refuse. -/
def State.checkOther (s : State) (o : Op) (r : StreamRec) : Refused :=
  if r.home ≠ some o.ring then deny
  else if r.everOpen ∧ r.st ≠ .open_ then some (stStreamClosed, 0)
  else if !r.everOpen then deny
  else if o.opcode ≠ 0x06 ∧ o.touch.ranges.any (fun x => r.cap < x.1 + x.2) then deny
  else match o.opcode with
  | 0x03 =>
      if !allRange (fun f => !(r.owner f).live) (o.fld 22 0 12) (o.fld 24 0 12 + 1)
         || (o.fld 20 15 1 = 0 && !(r.owner (o.fld 20 0 12)).live) then deny else none
  | 0x04 =>
      if !allRange (fun f => (r.owner f).live) (o.fld 20 0 12) (o.fld 22 0 12 + 1) then deny
      else if 2 ≤ o.fld 26 0 2 then deny
      else if o.fld 26 2 2 = 3 ∨ 4 ≤ o.fld 26 4 3 then deny
      else if s.trainRefused o r then deny else none
  | _ => none

/-- The checks of R54 against a stream: the fetcher makes them on the projection, the start on the stream itself (R55). -/
def State.checkStream (s : State) (o : Op) (r : StreamRec) : Refused :=
  if !s.allotted (o.tenant s) o.streamNo then deny dtTenant
  else if o.opcode = 0x01 then s.checkOpen o r
  else s.checkOther o r

/-- What the fetcher refuses (R514, R54, R556, R576), in this order: opcode, Reserved bits, ring, then the checks of the
stream operations against the stream as it will stand. -/
def State.fetchCheck (s : State) (o : Op) : Refused :=
  if (opFields o.opcode).isNone then deny dtOpcode
  else if o.reservedSet then deny dtReserved
  else if o.operatorOnly && o.tenant s ≠ 0 then deny dtOperator
  else if o.maintenance && !s.flag RING_CTL_MAINT o.ring.toNat then deny dtRing
  else if o.isStream then
    let r := s.stream o.streamNo
    let other := o.opcode = 0x01 && r.home.any (fun h => h ≠ o.ring)
    s.checkStream o (if other then r else projStream s.host.ops o.ring o.streamNo r)
  else none

/-! ### Starting -/

/-- The operations of a ring fetched before one. -/
def opsBefore (o : Op) : List Op → List Op
  | [] => []
  | p :: ps => if p.ring = o.ring && p.seq = o.seq then [] else if p.ring = o.ring then p :: opsBefore o ps else opsBefore o ps

/-- The stream an operation names is quiesced (R308): operations that arrive wait. -/
def State.quiesced (s : State) (n : Nat) : Bool := s.flag PG_DIRECT_QUIESCED && s.rd PG_DIRECT_STREAM = n

/-- An operation has completed as far as later ones wait for it: it has ended and its writes are acknowledged (R42, R53). -/
def Op.completed (o : Op) : Bool := o.stage = .done && o.unacked = 0

/-- A fetched operation may start: an earlier FENCE operation of its ring has started, its own FENCE finds every earlier
operation completed (R512), no earlier operation it conflicts with is outstanding (R53), and its stream is not quiesced. -/
def State.canStart (s : State) (o : Op) : Bool :=
  o.stage = .waiting &&
  (opsBefore o s.host.ops).all (fun p =>
    p.completed || (!o.fence && !(p.fence && p.stage = .waiting) && !o.conflicts p)) &&
  !(o.isStream && s.quiesced o.streamNo)

/-- A host operation's row: the named operation, of that opcode, starts when it may; otherwise nothing happens yet. -/
def State.opRow (s : State) (q : RingNo) (n : Seq) (opc : Nat) (f : State → Op → State) : Answer :=
  s.issue fun s =>
    match s.op? q n with
    | some o => if o.opcode = opc && s.canStart o then f s o else s
    | none => s

/-- A refusal at the start of an operation: its record carries the status and detail, and nothing else changes (R55). -/
def State.refuseOp (s : State) (o : Op) (r : BitVec 12 × BitVec 16) : State := s.finish o r.1 r.2

end Sys2Proof.Machine
end

