-- ==== Sys2Proof/Machine/Pages.lean ====
section
/-! DEFINITION. Key/value pages (R291 to R317): geometry, allocation, walks, the page-table update queue and its edits, the
grace list, reclaim and direct access. -/

namespace Sys2Proof.Machine

/-! ### Geometry (R291, R292) -/

/-- A field of a page geometry: w bits from bit lo of byte b on. -/
def geomFld (g : BitVec 256) (b lo w : Nat) : Nat := g.toNat >>> (8 * b + lo) % 2 ^ w

def geomTokLog (g : BitVec 256) : Nat := geomFld g 0 0 4
def geomLayers (g : BitVec 256) : Nat := geomFld g 1 0 8
def geomCap (g : BitVec 256) : Nat := geomFld g 2 0 8
def geomFmt (g : BitVec 256) : Nat := geomFld g 3 0 4
def geomRecipe (g : BitVec 256) : Bool := geomFld g 3 4 1 = 1
def geomPinTrunk (g : BitVec 256) : Bool := geomFld g 3 5 1 = 1
def geomKvCols (g : BitVec 256) : Nat := 64 * (geomFld g 4 0 6 + 1)
def geomPageBytes (g : BitVec 256) : Nat := geomFld g 8 0 32
def geomRecipeBytes (g : BitVec 256) : Nat := geomFld g 12 0 32

/-- Element width in bits of the formats R291 allows, by format code (R78): F16, BF16, MXFP8_E4M3, MXFP8_E5M2. -/
def kvWidth (fmt : Nat) : Option Nat :=
  if fmt = 1 ∨ fmt = 2 then some 16 else if fmt = 5 ∨ fmt = 6 then some 8 else none

/-- Key row bytes and scale row bytes (R292). -/
def geomKR (g : BitVec 256) : Nat := geomKvCols g * (kvWidth (geomFmt g)).getD 0 / 8
def geomSR (g : BitVec 256) : Nat := if geomFmt g = 5 ∨ geomFmt g = 6 then geomKvCols g / 32 else 0

/-- PAGE_BYTES as R292 derives it. -/
def pageBytesOf (g : BitVec 256) : Nat :=
  (2 ^ geomTokLog g * 2 * (geomKR g + geomSR g) + 4095) / 4096 * 4096

/-- A registration accepts the geometry (R291, R292, R293, R499). -/
def geomOk (g : BitVec 256) : Bool :=
  geomTokLog g = 8 && 1 ≤ geomLayers g && geomLayers g ≤ 56 && 1 ≤ geomCap g && (kvWidth (geomFmt g)).isSome
  && geomFld g 0 4 4 = 0 && geomFld g 3 6 2 = 0 && geomFld g 4 6 2 = 0 && geomFld g 5 0 24 = 0 && geomFld g 16 0 128 = 0
  && geomPageBytes g = pageBytesOf g && geomRecipeBytes g % 4096 = 0
  && (if geomRecipe g then geomRecipeBytes g ≠ 0 else geomRecipeBytes g = 0)

/-! ### Counts (R310, R311) -/

def Pool.block (p : Pool) (b : Nat) : Block := sget ({} : Block) p.blocks b
def Pool.setBlock (p : Pool) (b : Nat) (x : Block) : Pool := { p with blocks := sput ({} : Block) p.blocks b x }
def Pool.set_ (p : Pool) (n : Nat) : FrameSet := sget ({} : FrameSet) p.sets n
def Pool.setSet (p : Pool) (n : Nat) (x : FrameSet) : Pool := { p with sets := sput ({} : FrameSet) p.sets n x }

/-- Identities of the walks that have not retired. -/
def Pool.walkIds (p : Pool) : List Nat := p.walks.map (·.id)

/-- One more reference to a block; the empty version has no count. -/
def Pool.incBlock (p : Pool) (b : Nat) : Pool :=
  if b = 0 then p else p.setBlock b { p.block b with refs := (p.block b).refs + 1 }

/-- One reference fewer: a block whose count reaches 0 enters the grace list (R310). -/
def Pool.decBlock (p : Pool) (b : Nat) : Pool :=
  if b = 0 then p
  else
    let q := p.setBlock b { p.block b with refs := (p.block b).refs - 1 }
    if (p.block b).refs = 1 then { q with grace := q.grace ++ [.block b p.walkIds] } else q

def Pool.incSet (p : Pool) (n : Nat) : Pool := p.setSet n { p.set_ n with refs := (p.set_ n).refs + 1 }

/-- One reference to a set fewer: a set whose count reaches 0 enters the grace list (R310). -/
def Pool.decSet (p : Pool) (n : Nat) : Pool :=
  let q := p.setSet n { p.set_ n with refs := (p.set_ n).refs - 1 }
  if (p.set_ n).refs = 1 then { q with grace := q.grace ++ [.set n p.walkIds] } else q

/-! ### Allocation (R312, R313) -/

/-- Pages in use: those of every set and of the grace list. -/
def Pool.usedPages (p : Pool) : List Nat :=
  p.sets.flatMap (fun x => x.2.pages ++ x.2.recipe)
  ++ p.grace.flatMap (fun g => match g with | .pages ps _ => ps | _ => [])

/-- The n pages of lowest index that are not in use (log entry 10). -/
def lowestFree (used : List Nat) (n : Nat) : Nat → List Nat
  | 0 => []
  | total + 1 =>
      let l := lowestFree used n total
      if l.length < n && !used.contains total then l ++ [total] else l

/-- Recipe pages of a set (R295). -/
def recipePages (g : BitVec 256) (pageBytes : Nat) : Nat :=
  if geomRecipe g ∧ pageBytes ≠ 0 then (geomRecipeBytes g + pageBytes - 1) / pageBytes else 0

/-- Page size of a partition's pool in bytes (R322). -/
def State.pageBytes (s : State) (p : Nat) : Nat := s.rd PG_POOL_CTL_PAGE_4K p * 4096

/-- Pages taken from the free counts: main pages first, emergency pages for the remainder, LOW set and PAGE_LOW raised
under R313. None: too few. -/
def State.takePages (s : State) (p n : Nat) : Option State :=
  let free := s.rd PG_STATUS_FREE p
  let emerg := s.rd PG_STATUS_EMERG_FREE p
  if free + emerg < n then none
  else
    let fromMain := min n free
    let fromE := n - fromMain
    let s1 := ((s.wr PG_STATUS_FREE p (free - fromMain)).wr PG_STATUS_EMERG_FREE p (emerg - fromE)).bump ctrAllocPages p n
    if fromE = 0 then some s1
    else
      let s2 := s1.bump ctrEmergPages p fromE
      if s2.flag PG_STATUS_LOW p then some s2
      else
        let s3 := s2.wr PG_STATUS_LOW p 1
        some (if s3.flag PG_STATUS_LOW_EN p then s3.raise evPageLow else s3)

/-- STARVED set and PAGE_STARVED raised (R313), and the batch step counted. -/
def State.starve (s : State) (p : Nat) : State :=
  let s1 := (s.bump ctrStarvedSteps p).wr PG_STATUS_STARVED p 1
  if s1.flag PG_STATUS_STARVED_EN p then s1.raise evPageStarved else s1

/-- One frame set for each owner, entered into the pool with the pages given. -/
def Pool.openSets (p : Pool) (g : BitVec 256) (stream : StreamNo) (layers recipe : Nat) (pages : List Nat) :
    List Nat → Pool × List (Nat × Nat)
  | [] => (p, [])
  | o :: os =>
      let mine := pages.take (layers + recipe)
      let x : FrameSet := { st := .open_, refs := 1, pages := mine.take layers, recipe := mine.drop layers,
                            stream := stream, pinnable := geomRecipe g }
      let q := { (p.setSet p.nextSet x) with nextSet := p.nextSet + 1 }
      let r := q.openSets g stream layers recipe (pages.drop (layers + recipe)) os
      (r.1, (o, p.nextSet) :: r.2)

/-- Open sets recorded with their owners. -/
def State.noteOpen (s : State) (stream : Nat) : List (Nat × Nat) → State
  | [] => s
  | (o, n) :: os => (s.setOwner stream o { s.owner stream o with openSet := some n }).noteOpen stream os

/-- Frame sets of a batch step allocated as a single action (R312); none when the pages do not suffice. -/
def State.allocSets (s : State) (p : Nat) (stream : StreamNo) (g : BitVec 256) (owners : List Nat) : Option State :=
  let r := recipePages g (s.pageBytes p)
  let n := owners.length * (geomLayers g + r)
  match s.takePages p n with
  | none => none
  | some s1 =>
    let pool := s1.pool p
    let total := s1.rd PG_POOL_CTL_PAGES p + s1.rd PG_POOL_CTL_EMERG p
    let pages := lowestFree pool.usedPages n total
    let (pool', os) := pool.openSets g stream (geomLayers g) r pages owners
    some ((s1.setPool p pool').noteOpen stream.toNat os)

/-- Pages returned: the emergency pool is refilled to E before the main free pages grow (R313). -/
def State.returnPages (s : State) (p n : Nat) : State :=
  let e := s.rd PG_STATUS_EMERG_FREE p
  let toE := min n (s.rd PG_POOL_CTL_EMERG p - e)
  (s.wr PG_STATUS_EMERG_FREE p (e + toE)).wr PG_STATUS_FREE p (s.rd PG_STATUS_FREE p + (n - toE))

/-! ### The grace list (R307, R310) -/

/-- Every walk an item waits for has retired. -/
def graceReady (walks : List Nat) : GraceItem → Bool
  | .block _ w => w.all fun i => !walks.contains i
  | .set _ w => w.all fun i => !walks.contains i
  | .pages _ w => w.all fun i => !walks.contains i

/-- A block leaves the grace list: the count of each set it lists falls by 1. -/
def Pool.dropRefs (p : Pool) : List Nat → Pool
  | [] => p
  | n :: ns => (p.decSet n).dropRefs ns

/-- One item leaves the grace list. -/
def State.releaseItem (s : State) (p : Nat) (g : GraceItem) : State :=
  let pool := { (s.pool p) with grace := (s.pool p).grace.erase g }
  match g with
  | .block b _ => s.setPool p ((pool.dropRefs (pool.block b).sets).setBlock b {})
  | .set n _ =>
      let x := pool.set_ n
      (s.setPool p (pool.setSet n {})).returnPages p (x.pages.length + x.recipe.length)
  | .pages ps _ => (s.setPool p pool).returnPages p ps.length

/-- The first item whose walks have retired leaves the grace list. -/
def State.graceOne (s : State) (p : Nat) : State :=
  match (s.pool p).grace.find? (graceReady (s.pool p).walkIds) with
  | some g => s.releaseItem p g
  | none => s

/-! ### The update queue (R305, R306) -/

/-- Edits that stand in the queue; a unit that submits to a full queue waits in the order of its submission (R305). -/
def State.queued (s : State) : List Edit := s.edits.take 4096

/-- An edit submitted for an operation: its writes count against the operation's record. -/
def State.submitEdit (s : State) (e : Edit) : State :=
  let s1 := { s with edits := s.edits ++ [e] }
  match e.cause with
  | some (q, n) =>
      match s1.op? q n with
      | some o => s1.setOp { o with unacked := o.unacked + 1 }
      | none => s1
  | none => s1

def State.submitEdits (s : State) : List Edit → State
  | [] => s
  | e :: es => (s.submitEdit e).submitEdits es

/-- An owner takes a version: its sequence advances when the version changes (R297). -/
def State.setVersion (s : State) (stream o b : Nat) : State :=
  let x := s.owner stream o
  s.setOwner stream o { x with block := b, vseq := if x.block = b then x.vseq else x.vseq + 1 }

/-- APPEND (R305, R311): the new block holds the old one's sets, minus the oldest at CAP, and then the step's set, which
becomes LIVE. -/
def State.editAppend (s : State) (e : Edit) (cap : Nat) : State :=
  let x := s.owner e.stream e.owner
  let pool := s.pool e.part
  let old := (pool.block x.block).sets
  let kept := if x.block = 0 then [] else if old.length = cap then old.drop 1 else old
  let sets := kept ++ [e.arg]
  let b := pool.nextBlock
  let p1 := { (pool.setBlock b { sets := sets, refs := 1 }) with nextBlock := b + 1 }
  let p2 := sets.foldl Pool.incSet p1
  let p3 := p2.setSet e.arg { p2.set_ e.arg with st := .live }
  let p4 := (p3.decSet e.arg).decBlock x.block
  let s1 := (s.setPool e.part p4).setVersion e.stream e.owner b
  s1.setOwner e.stream e.owner { s1.owner e.stream e.owner with openSet := none }

/-- SHARE (R305, R311): the child takes the parent's version. -/
def State.editShare (s : State) (e : Edit) : State :=
  (s.setPool e.part ((s.pool e.part).incBlock e.arg)).setVersion e.stream e.owner e.arg

/-- CLEAR (R305, R311): the owner takes the empty version. -/
def State.editClear (s : State) (e : Edit) : State :=
  (s.setPool e.part ((s.pool e.part).decBlock (s.owner e.stream e.owner).block)).setVersion e.stream e.owner 0

/-- REVERT (R305, R311): the owner takes its anchored version. -/
def State.editRevert (s : State) (e : Edit) : State :=
  let b := (s.owner e.stream e.owner).block
  if b = e.arg then s
  else (s.setPool e.part (((s.pool e.part).incBlock e.arg).decBlock b)).setVersion e.stream e.owner e.arg

/-- DROP (R305): the set's layer pages are released through the grace list and it becomes DROPPED. -/
def State.editDrop (s : State) (e : Edit) : State :=
  let pool := s.pool e.part
  let x := pool.set_ e.arg
  let p1 := { (pool.setSet e.arg { x with st := .dropped, pages := [] }) with
                grace := pool.grace ++ [.pages x.pages pool.walkIds] }
  (s.setPool e.part p1).bump ctrSetsDropped e.part

/-- REFILL (R305): a refilled set becomes LIVE, and its step's count goes. -/
def State.editRefill (s : State) (e : Edit) : State :=
  let pool := s.pool e.part
  (s.setPool e.part ((pool.setSet e.arg { pool.set_ e.arg with st := .live }).decSet e.arg)).bump ctrSetsRefilled e.part

/-- CAP of the stream's model. -/
def State.capOf (s : State) (stream : Nat) : Nat :=
  ((s.model? (s.stream stream).model.toNat).map fun m => geomCap m.geom).getD 0

/-- A TRAIN descriptor keeps the version an owner holds after each of its last W frames (R304). -/
def State.keepVersion (s : State) (e : Edit) : State :=
  match e.cause.bind fun c => s.op? c.1 c.2 with
  | none => s
  | some o =>
      if o.opcode = 0x04 ∧ o.fld 27 0 1 = 1 then
        let b := (s.owner e.stream e.owner).block
        if o.fld 24 0 10 + 1 ≤ e.frame + (o.fld 29 0 6 + 1) then
          (s.setPool e.part ((s.pool e.part).incBlock b)).setOp { o with kept := o.kept ++ [(e.owner, e.frame, b)] }
        else s
      else s

/-- One edit applied, counted, and acknowledged to its operation. -/
def State.applyEdit (s : State) (e : Edit) : State :=
  let s0 := { s with edits := s.edits.erase e }
  let s1 := match e.kind with
    | .append => (s0.editAppend e (s0.capOf e.stream)).keepVersion e
    | .share => s0.editShare e
    | .clear => s0.editClear e
    | .revert => s0.editRevert e
    | .drop => s0.editDrop e
    | .refill => s0.editRefill e
  let s2 := s1.bump ctrEdits e.part
  match e.cause with
  | some (q, n) =>
      match s2.op? q n with
      | some o => s2.setOp { o with unacked := o.unacked - 1 }
      | none => s2
  | none => s2

/-- The first edit of an owner, if it is of the kind named: the queue keeps the order of one owner's edits (R306). -/
def State.ownerEdit (s : State) (k : EditKind) (stream o : Nat) : Option Edit :=
  match s.queued.find? (fun e => e.kind ≠ .drop && e.kind ≠ .refill && e.stream = stream && e.owner = o) with
  | some e => if e.kind = k then some e else none
  | none => none

/-- A row that applies the first edit of an owner. -/
def State.ownerEditRow (s : State) (k : EditKind) (stream : StreamNo) (o : Nat) : Answer :=
  s.issue fun s => match s.ownerEdit k stream.toNat o with | some e => s.applyEdit e | none => s

/-- A row that applies the first edit of a set. -/
def State.setEditRow (s : State) (k : EditKind) (part : PartNo) (set : Nat) : Answer :=
  s.issue fun s =>
    match s.queued.find? (fun e => e.kind = k && e.part = part.toNat && e.arg = set) with
    | some e => s.applyEdit e
    | none => s

def execAppend (stream : StreamNo) (owner : Nat) (s : State) : Answer := s.ownerEditRow .append stream owner
def execShare (stream : StreamNo) (owner : Nat) (s : State) : Answer := s.ownerEditRow .share stream owner
def execClear (stream : StreamNo) (owner : Nat) (s : State) : Answer := s.ownerEditRow .clear stream owner
def execRevert (stream : StreamNo) (owner : Nat) (s : State) : Answer := s.ownerEditRow .revert stream owner
def execRefill (part : PartNo) (set : Nat) (s : State) : Answer := s.setEditRow .refill part set

/-! ### Walks (R301, R302) -/

/-- A walk begins: its sets are stamped with the partition's walk count (R315, R323). -/
def State.beginWalk (s : State) (p pplot : Nat) (sets : List Nat) : Nat × State :=
  let pool := s.pool p
  let id := pool.nextWalk
  let s1 := s.bump ctrWalks p
  let stamp := s1.count ctrWalks p
  let q := sets.foldl (fun q n => q.setSet n { q.set_ n with lastWalk := stamp }) pool
  (id, s1.setPool p { q with walks := q.walks ++ [⟨id, pplot, sets⟩], nextWalk := id + 1 })

/-- A walk retires (R302). -/
def State.endWalk (s : State) (p id : Nat) : State :=
  let pool := s.pool p
  s.setPool p { pool with walks := pool.walks.filter fun w => w.id ≠ id }

/-- Every walk of a plot retires, as after an abort. -/
def State.endPlotWalks (s : State) (p pplot : Nat) : State :=
  let pool := s.pool p
  s.setPool p { pool with walks := pool.walks.filter fun w => w.pplot ≠ pplot }

/-! ### Pinning and reclaim (R314, R315) -/

/-- Active entries of a partition's cycle (R479, R480). -/
def State.cycle (s : State) (p : Nat) : List Nat :=
  let a := (s.part p).act
  (List.range (partBits ROT_PART_COUNT_M1 a + 1)).map fun i => (partBits ROT_PART_FIRST a + i) % 1024

/-- Word of an active table entry. -/
def State.entry (s : State) (i : Nat) : DWord := sget (0 : DWord) s.rot.bank i

/-- The partition's active cycle holds a VALID real-time entry. -/
def State.partRt (s : State) (p : Nat) : Bool :=
  s.partEnabled p && (s.cycle p).any fun i =>
    partBits ROT_ENTRY_VALID (s.entry i) = 1 && partBits ROT_ENTRY_RT (s.entry i) = 1

/-- A set is pinned (R314). -/
def State.setPinned (s : State) (p n : Nat) : Bool :=
  let pool := s.pool p
  let x := pool.set_ n
  let st := s.stream x.stream.toNat
  let pin := ((s.model? st.model.toNat).map fun m => geomPinTrunk m.geom).getD false
  x.st = .open_ || x.st = .refilling || !x.pinnable
  || pool.walks.any (fun w => w.sets.contains n)
  || s.host.ops.any (fun o => o.streamNo = x.stream.toNat
      && (o.anchors.any (fun a => (pool.block a.2).sets.contains n) || o.kept.any fun a => (pool.block a.2.2).sets.contains n))
  || (pin && (pool.block st.trunk.block).sets.contains n)
  || s.partRt p

/-- The unpinned LIVE set whose last walk is oldest; ties go to the lower frame record index. -/
def State.reclaimNext (s : State) (p : Nat) : Option Nat :=
  let pool := s.pool p
  ((pool.sets.map (·.1)).filter fun n => (pool.set_ n).st = .live && !s.setPinned p n).foldl (fun (best : Option Nat) (n : Nat) =>
    match best with
    | none => some n
    | some b =>
        let x := (pool.set_ n).lastWalk
        let y := (pool.set_ b).lastWalk
        if x < y ∨ (x = y ∧ n < b) then some n else some b) none

/-- The DROP edit of a set. -/
def dropEdit (p n : Nat) : Edit := { kind := .drop, part := p, stream := 0, owner := 0, arg := n, cause := none }

/-- A reclaim goes on once the set before has been dropped and its pages have left the grace list (log entry 109): it ends where the main
free pages have reached TARGET or no unpinned LIVE set remains, and else submits the next DROP (R315). -/
def State.reclaimGo (s : State) (p : Nat) : State :=
  if !s.flag PG_RECLAIM_BUSY p || s.edits.any (fun e => e.kind = .drop && e.part = p) || !(s.pool p).grace.isEmpty then s
  else if s.rd PG_RECLAIM_TARGET p ≤ s.rd PG_STATUS_FREE p then s.wr PG_RECLAIM_BUSY p 0
  else match s.reclaimNext p with
    | none => s.wr PG_RECLAIM_BUSY p 0
    | some n => s.submitEdit (dropEdit p n)

/-- GRACE_RELEASE (R307). -/
def execGraceRelease (part : PartNo) (s : State) : Answer := s.issue fun s => (s.graceOne part.toNat).reclaimGo part.toNat

/-- DROP (R315): a set that has been pinned since its edit was submitted is kept. -/
def execDrop (part : PartNo) (set : Nat) (s : State) : Answer :=
  s.issue fun s =>
    let p := part.toNat
    match s.queued.find? (fun e => e.kind = .drop && e.part = p && e.arg = set) with
    | some e => if s.setPinned p set then ({ s with edits := s.edits.erase e } : State).reclaimGo p else (s.applyEdit e).reclaimGo p
    | none => s

/-- PG_RECLAIM_START (R315): ignored while BUSY. -/
def State.reclaim (s : State) (p : Nat) : State :=
  if s.flag PG_RECLAIM_BUSY p then s else (s.wr PG_RECLAIM_BUSY p 1).reclaimGo p

def execPgReclaimStart (part : PartNo) (s : State) : Answer := s.issue fun s => s.reclaim part.toNat

/-! ### Direct access (R308, R572) -/

/-- No operation on a stream runs and no walk of its owners is outstanding. -/
def State.streamIdle (s : State) (n : Nat) : Bool :=
  let pool := s.pool (s.stream n).part.toNat
  !(s.host.ops.any fun o => o.isStream && o.streamNo = n && o.stage = .running)
  && !(pool.walks.any fun w => w.sets.any fun k => (pool.set_ k).stream.toNat = n)

/-- QUIESCED follows QUIESCE once the stream is idle. -/
def State.settleQuiesce (s : State) : State :=
  if s.flag PG_DIRECT_QUIESCE && !s.flag PG_DIRECT_QUIESCED && s.streamIdle (s.rd PG_DIRECT_STREAM) then s.wr PG_DIRECT_QUIESCED 0 1 else s

/-- PG_QUIESCE (R308): QUIESCE set; QUIESCED follows once the stream is idle. -/
def State.quiesce (s : State) : State := (s.wr PG_DIRECT_QUIESCE 0 1).settleQuiesce

/-- PG_QUIESCE_RELEASE (R308). -/
def State.quiesceRelease (s : State) : State := (s.wr PG_DIRECT_QUIESCE 0 0).wr PG_DIRECT_QUIESCED 0 0

def execPgQuiesce (s : State) : Answer := s.issue State.quiesce
def execPgQuiesceRelease (s : State) : Answer := s.issue State.quiesceRelease

/-- An open stream of a partition that a tenant other than 0 holds (R572). -/
def State.foreignStream (s : State) (n : Nat) : Bool :=
  (s.stream n).st ≠ .free && s.partTenant (s.stream n).part.toNat ≠ 0

/-- State of a frame record by its value (R295). -/
def setStateOf (v : Fin 4) : SetState := match v with | 0 => .open_ | 1 => .live | 2 => .dropped | 3 => .refilling

/-- A stream's root words, frame records and table blocks as a direct write leaves them; a record or block of another stream is not its
metadata. -/
def State.writeMeta (s : State) (n : Nat) (w : PageMeta) : Option State :=
  let p := (s.stream n).part.toNat
  let pool := s.pool p
  match w with
  | .root owner block => some (s.setOwner n owner { s.owner n owner with block := block })
  | .frameRecord k st refs =>
      if (pool.set_ k).stream.toNat = n ∧ pool.sets.any (fun x => x.1 = k) then
        some (s.setPool p (pool.setSet k { pool.set_ k with st := setStateOf st, refs := refs }))
      else none
  | .table b sets refs =>
      if (s.stream n).trunk.block = b ∨ (s.stream n).futs.any (fun x => x.2.block = b) then
        some (s.setPool p (pool.setBlock b { sets := sets, refs := refs }))
      else none

/-- A direct write of a stream's metadata: refused with SECURITY_DENIED, changing nothing, where the stream is not quiesced. -/
def State.directWrite (s : State) (n : Nat) (w : PageMeta) : State :=
  match if s.quiesced n then s.writeMeta n w else none with
  | some t => t
  | none => s.emit (.refusal stDenied)

/-- PG_DIRECT_WRITE (R308). A tenant's window has no such access (R571); the operator window reaches the streams of partitions of
tenant 0 only (R572). -/
def execPgDirectWrite (src : AccessSource) (stream : StreamNo) (what : PageMeta) (s : State) : Answer :=
  s.issue fun s =>
    match src with
    | .tenant t => s.violation t (regOff .pgDirect 0)
    | .operator => if s.foreignStream stream.toNat then s.violation 0 (regOff .pgDirect 0) else s.directWrite stream.toNat what
    | .firmware => s.directWrite stream.toNat what

end Sys2Proof.Machine
end

