-- ==== Sys2Proof/Machine/HostIf.lean ====
section
/-! DEFINITION. The host command interface (R506 to R531): doorbells, the fetch of descriptors, freshet marks, completion
records and events, failed host accesses, and the answers of the adapter to the device's reads and writes. -/

namespace Sys2Proof.Machine

/-! ### Rings -/

def State.sqSize (s : State) (q : RingNo) : Nat := 2 ^ s.rd RING_CTL_SQ_LOG q.toNat
def State.cqSize (s : State) (q : RingNo) : Nat := 2 ^ s.rd RING_CTL_CQ_LOG q.toNat

/-- Distance from one index to a later one, modulo the ring's size (R507). -/
def ringDist (a b size : Nat) : Nat := (b + size - a) % size

/-- Operations fetched whose records the host has not consumed (R511). -/
def State.unconsumed (s : State) (q : RingNo) : Nat :=
  (s.opsOf q).length + ringDist (s.ring q).cqHead (s.rd RING_STATUS_CQ_TAIL q.toNat) (s.cqSize q)

/-- The fetcher accepts operations and the device is in no wake depth (R545, R637). -/
def State.serving (s : State) : Bool := s.boot.ready && s.pwr.depth = .awake && !s.boot.stopped

/-! ### Doorbells (R508, R509) -/

/-- A doorbell is to be discarded whole. -/
def State.doorbellBad (s : State) (q : RingNo) (v : DWord) : Bool :=
  let sq := getBits v 0 16
  let cq := getBits v 32 16
  let sqv := v.getLsbD 48
  let cqv := v.getLsbD 49
  let head := (s.ring q).cqHead
  (sqv && decide (s.sqSize q ≤ sq)) || (cqv && decide (s.cqSize q ≤ cq))
  || getBits v 16 16 ≠ 0 || getBits v 50 14 ≠ 0
  || (cqv && decide (ringDist head (s.rd RING_STATUS_CQ_TAIL q.toNat) (s.cqSize q) < ringDist head cq (s.cqSize q)))
  || !s.flag RING_CTL_ENABLE q.toNat

/-- A doorbell delivered: it updates the indices it marks valid, or sets BAD, counts and logs the discard (R509, R530). -/
def State.deliverDoorbell (s : State) (t : TenantNo) (q : RingNo) (v : DWord) : State :=
  if s.ringTenant q ≠ t then s.violation t (0x1000 * q.toNat)
  else if s.doorbellBad q v then
    ((s.wr RING_STATUS_BAD q.toNat 1).bump ctrDbBad q.toNat).dexLog (s.halfOf q).toNat 4 q.toNat 0
  else
    let s1 := if v.getLsbD 48 then s.wr RING_STATUS_SQ_TAIL q.toNat (getBits v 0 16) else s
    if v.getLsbD 49 then s1.setRing q { s1.ring q with cqHead := getBits v 32 16 } else s1

/-- DOORBELL: before step 15 of start-up and in every wake depth it waits in the wake buffer (R545, R639). -/
def execDoorbell (t : TenantNo) (q : RingNo) (v : DWord) (s : State) : Answer :=
  s.issue fun s =>
    if s.serving then s.deliverDoorbell t q v
    else { s with boot := { s.boot with held := s.boot.held ++ [.doorbell t q v] } }

/-! ### Fetch (R510, R511, R514, R523) -/

/-- The ring may be fetched from: enabled, not stopped by R522, its tenant not REVOKING (R566), the fetcher serving. -/
def State.fetchable (s : State) (q : RingNo) : Bool :=
  s.serving && s.flag RING_CTL_ENABLE q.toNat && !(s.ring q).halted
  && s.tenantState (s.ringTenant q).toNat ≠ 2

/-- Entries of a ring from SQ_HEAD up to SQ_TAIL. -/
def State.fetchReady (s : State) (q : RingNo) : Nat :=
  ringDist (s.rd RING_STATUS_SQ_HEAD q.toNat) (s.rd RING_STATUS_SQ_TAIL q.toNat) (s.sqSize q)

/-- Entries one grant may fetch: at most 8, while fewer than 2^CQ_LOG - 1 operations are unconsumed. -/
def State.fetchRoom (s : State) (q : RingNo) : Nat :=
  min 8 (min (s.fetchReady q) (s.cqSize q - 1 - s.unconsumed q))

/-- A freshet mark forwarded to the power controller (R523, R537). -/
def State.forwardMark (s : State) (q : RingNo) (n : Seq) (level : Nat) : State :=
  let s1 := s.bump ctrMarks
  ({ s1 with host := { s1.host with marks := s1.host.marks ++ [({ ring := q, seq := n, level := level } : Mark)] } }).restage

/-- A mark whose operation completes by refusal expires (R537). -/
def State.dropMark (s : State) (q : RingNo) (n : Seq) : State :=
  ({ s with host := { s.host with marks := s.host.marks.filter fun m => !(m.ring = q && m.seq = n) } }).restage

/-- One descriptor fetched: it takes the next sequence number, SQ_HEAD passes it, its mark is forwarded, and it is handed
on or refused. -/
def State.fetchOne (s : State) (q : RingNo) (d : BitVec 512) : State :=
  let r := s.ring q
  let o : Op := { ring := q, seq := r.nextSeq, desc := d }
  let bad := s.fetchCheck o
  let s1 := s.setRing q { r with nextSeq := r.nextSeq + 1 }
  let s2 := s1.wr RING_STATUS_SQ_HEAD q.toNat ((s1.rd RING_STATUS_SQ_HEAD q.toNat + 1) % s1.sqSize q)
  let s3 := s2.bump ctrFetched q.toNat
  let s4 := if o.fld 3 0 3 ≠ 0 then s3.forwardMark q (o.seq + BitVec.ofNat 32 (o.fld 2 0 8)) (o.fld 3 0 3) else s3
  match bad with
  | none => ({ s4 with host := { s4.host with ops := s4.host.ops ++ [o] } }).wr RING_STATUS_ACTIVE q.toNat 1
  | some (st, dt) =>
      let p := { o with stage := .done, refusedAtFetch := true, status := st, detail := dt }
      let s5 := (({ s4 with host := { s4.host with ops := s4.host.ops ++ [p] } }).wr RING_STATUS_ACTIVE q.toNat 1).bump
        ctrRefusedAtFetch q.toNat
      (if dt = dtOperator then s5.wmRefusal (s5.ringTenant q) dt else s5).dropMark q o.seq

def State.fetchAll (s : State) (q : RingNo) : List (BitVec 512) → State
  | [] => s
  | d :: ds => (s.fetchOne q d).fetchAll q ds

/-- Enabled rings, the fetcher's requesters (R34), and those of them that have entries to fetch and room for them (R511). -/
def State.ringsOn (s : State) : List Nat :=
  (s.regs.filterMap fun x => regInstance .ringCtl x.1).filter fun q => s.flag RING_CTL_ENABLE q
def State.ringsWaiting (s : State) : List Nat :=
  s.ringsOn.filter fun q => s.fetchable (BitVec.ofNat 12 q) && decide (0 < s.fetchRoom (BitVec.ofNat 12 q))

/-- The device's reads of n entries from an index on, one of 64 bytes each (R510, R525); their data comes with the command. -/
def State.fetchReads (s : State) (q : RingNo) (idx : Nat) : Nat → State
  | 0 => s
  | n + 1 =>
      let h := s.halfOf q
      let t := sget (0 : BitVec 16) s.lnk.nextTag h.toNat
      let s1 := { s with lnk := { s.lnk with nextTag := sput (0 : BitVec 16) s.lnk.nextTag h.toNat (t + 1) } }
      let a := BitVec.ofNat 64 (s.rd RING_SQ_BASE_ADDR q.toNat * 4096 + 64 * idx)
      ((s1.sendFlits (8 + h.toNat) 0 0).emit (.memRead h t a 64)).fetchReads q ((idx + 1) % s.sqSize q) n

/-- FETCH_DESCRIPTORS: one grant of the arbiter to a ring that waits (R511), where no other has waited too long (R34); `entries` is what
the device reads at SQ_HEAD and the entries after it (R510). -/
def execFetchDescriptors (q : RingNo) (entries : List (BitVec 512)) (s : State) : Answer :=
  s.issue fun s =>
    if !s.ringsWaiting.contains q.toNat then s
    else match s.arbGrant arbFetch s.ringsOn.length q.toNat s.ringsWaiting with
      | some s1 =>
          let got := entries.take (s.fetchRoom q)
          (s1.fetchAll q got).fetchReads q (s.rd RING_STATUS_SQ_HEAD q.toNat) got.length
      | none => s

/-- MARK_EXPIRY (R537): a mark stops being active. -/
def execMarkExpiry (q : RingNo) (n : Seq) (s : State) : Answer := s.issue fun s => s.dropMark q n

/-! ### Completion (R516, R518, R519) -/

/-- Anchors of an ended operation released (R310). -/
def State.releaseAnchors (s : State) (p : Nat) : List (Nat × Nat) → State
  | [] => s
  | (_, b) :: as => (s.setPool p ((s.pool p).decBlock b)).releaseAnchors p as

/-- The 32 bytes of a completion record (R516). -/
def State.recordBytes (s : State) (o : Op) : List Byte :=
  let q := o.ring.toNat
  leBytes 4 o.seq.toNat
  ++ leBytes 2 (o.status.toNat + (if (s.ring o.ring).phase then 0x8000 else 0))
  ++ leBytes 2 o.detail.toNat ++ leBytes 8 o.user ++ leBytes 2 (s.rd RING_STATUS_SQ_HEAD q)
  ++ leBytes 1 o.opcode ++ leBytes 1 0 ++ leBytes 6 (s.rd REF_GAUGE_VALUE) ++ leBytes 2 0 ++ leBytes 4 o.result.toNat

/-- A completion record written: CQ_TAIL advances, the phase alternates at the wrap, and the operation and its references to versions are gone (R304, R310). -/
def State.writeRecord (s : State) (o : Op) : State :=
  let q := o.ring.toNat
  let tail := s.rd RING_STATUS_CQ_TAIL q
  let addr := s.rd RING_CQ_BASE_ADDR q * 4096 + 32 * tail
  let bytes := s.recordBytes o
  let h := s.halfOf o.ring
  let (t, s1) := s.takeTag h (.record o.event) o.ring o.seq
  let s2 := s1.memWrite h t addr bytes
  let s3 := s2.wr RING_STATUS_CQ_TAIL q ((tail + 1) % s.cqSize o.ring)
  let s4 := if tail + 1 = s.cqSize o.ring then s3.setRing o.ring { s3.ring o.ring with phase := !(s3.ring o.ring).phase }
            else s3
  let s5 := (s4.bump ctrCompleted q).releaseAnchors o.pool (o.anchors ++ o.kept.map (·.2))
  let s6 := { s5 with host := { s5.host with ops := s5.host.ops.filter fun p => !(p.ring = o.ring && p.seq = o.seq) } }
  let s7 := s6.syncActive o.ring
  if delivered o.status then s7 else s7.dropMark o.ring o.seq

/-- A completion event sent: it covers every record written before it (R519). -/
def State.sendEvent (s : State) (q : RingNo) : State :=
  let s0 := s.sendFlits (8 + (s.halfOf q).toNat) 1 0
  let s1 := (s0.emit (.event q (BitVec.ofNat 11 (s.rd RING_CTL_VECTOR q.toNat)))).bump ctrEvents q.toNat
  s1.setRing q { s1.ring q with unsignalled := 0, delayRunning := false }

/-- A record has been acknowledged: its event is sent, or moderated, as EVMODE lays down (R519). -/
def State.recordAcked (s : State) (q : RingNo) (event : Bool) : State :=
  let mode := s.rd RING_CTL_EVMODE q.toNat
  if event || mode = 1 || mode = 3 then s.sendEvent q
  else if mode = 0 then s
  else
    let r := s.ring q
    let n := r.unsignalled + 1
    let s1 := s.setRing q { r with unsignalled := n, delayRunning := true }
    if max 1 (s.rd RING_CTL_EVCOUNT q.toNat) ≤ n then s1.sendEvent q else s1

/-- EVENT_DELAY_EXPIRY (R519). -/
def execEventDelayExpiry (q : RingNo) (s : State) : Answer :=
  s.issue fun s =>
    if (s.ring q).delayRunning && 0 < (s.ring q).unsignalled && s.rd RING_CTL_EVMODE q.toNat = 2 then s.sendEvent q else s

/-! ### The adapter's answers (R525, R529) -/

/-- The record of a tag on a half. -/
def State.tagRec (s : State) (half : BitVec 1) (tag : BitVec 16) : Option TagRec :=
  s.lnk.tags.find? fun t => t.half = half && t.tag = tag

def State.dropTag (s : State) (half : BitVec 1) (tag : BitVec 16) : State :=
  { s with lnk := { s.lnk with tags := s.lnk.tags.filter fun t => !(t.half = half && t.tag = tag) } }

/-- One write of an operation fewer to wait for. -/
def State.ackData (s : State) (q : RingNo) (n : Seq) : State :=
  match s.op? q n with
  | some o => s.setOp { o with unacked := o.unacked - 1 }
  | none => s

/-- A write of an encode session's access unit has been acknowledged: the write offset in the ring control block advances past the first
units of which every write has been (R373). -/
def State.unitAcked (s : State) (q : RingNo) (n : Seq) (k : Nat) : State :=
  let x := sget ({} : EncSession) s.vid.enc k
  let done := x.flights.takeWhile fun (f : Nat × Nat) => s.lnk.tags.all fun (t : TagRec) => t.use ≠ .unit k f.1
  match done.getLast? with
  | none => s
  | some f =>
      let y : EncSession := { x with flights := x.flights.drop done.length }
      let o := (s.op? q n).getD { ring := q, seq := n, desc := 0 }
      ({ s with vid := { s.vid with enc := sput ({} : EncSession) s.vid.enc k y } } : State).hostWrite o
        (x.desc.toNat >>> 448 % 2 ^ 64 + 16) (leBytes 4 f.2)

/-- WR_ACK: a device write has entered the posted stream (R529). -/
def execWrAck (half : BitVec 1) (tag : BitVec 16) (s : State) : Answer :=
  s.issue fun s =>
    match s.tagRec half tag with
    | none => s
    | some t =>
      match t.use with
      | .record e => (s.dropTag half tag).recordAcked t.ring e
      | .data => (s.dropTag half tag).ackData t.ring t.seq
      | .unit k _ => ((s.dropTag half tag).ackData t.ring t.seq).unitAcked t.ring t.seq k
      | .read => s

/-! ### Ending an operation without effect (R64, R488) -/

/-- Chunks of an operation dropped from a partition's queue. -/
def State.dropChunks (s : State) (p : Nat) (q : RingNo) (n : Seq) : State :=
  s.setPart p { s.part p with chunks := (s.part p).chunks.filter fun c => !(c.ring = q && c.seq = n) }

/-- An APPEND of a set waits in the queue: it takes the step's count with it. -/
def State.appendQueued (s : State) (stream o n : Nat) : Bool :=
  s.edits.any fun e => e.kind = .append && e.stream = stream && e.owner = o && e.arg = n

/-- The open sets of an operation's owners freed: the step that held them is gone. -/
def State.dropOpenSets (s : State) (stream p : Nat) : List Nat → State
  | [] => s
  | o :: os =>
      let x := s.owner stream o
      let s1 := match x.openSet with
        | some n =>
            if s.appendQueued stream o n then s.setOwner stream o { x with current := none }
            else (s.setPool p ((s.pool p).decSet n)).setOwner stream o { x with openSet := none, current := none }
        | none => s.setOwner stream o { x with current := none }
      s1.dropOpenSets stream p os

/-- The policy a running TRAIN descriptor holds an update number of is freed for the next (R74). -/
def State.releaseUpdate (s : State) (o : Op) : State :=
  if o.holdsUpdate then
    let h := (s.stream o.streamNo).policy.toNat
    match s.policy? h with
    | some p => { s with ctx := { s.ctx with policies := sput ({} : PolicyRec) s.ctx.policies h { p with held := none } } }
    | none => s
  else s

/-- An operation ends with a status other than OK or WIDENED (R64, R488): chunks that have not started are dropped, each
named owner is returned to its anchored version by a REVERT edit, and committed slots, frame counters and latents stand. -/
def State.failOp (s : State) (o : Op) (st : BitVec 12) (dt : BitVec 16 := 0) : State :=
  let p := (s.stream o.streamNo).part.toNat
  let s1 := if o.isStream then (s.dropChunks p o.ring o.seq).dropOpenSets o.streamNo p o.owners else s
  let s2 := (s1.releaseUpdate o).finish { o with holdsUpdate := false } st dt
  s2.submitEdits (o.anchors.map fun a =>
    { kind := .revert, part := p, stream := o.streamNo, owner := a.1, arg := a.2, cause := some (o.ring, o.seq) })

/-- RD_DATA: read data for a device read of host memory, matched by TAG (R525); it is delivered to the
operation. A seep may report the read as failed (R530, R522). -/
def execRdData (half : BitVec 1) (tag : BitVec 16) (data : List Byte) (s : State) : Answer :=
  s.issue fun s =>
    match s.tagRec half tag with
    | none => s
    | some t =>
      match t.use, s.op? t.ring t.seq with
      | .read, some o =>
          let h := (s.dropTag half tag).seepEvents .dex 0 1 fun w => seepTarget .dex w = 3 && getBits w 4 1 = half.toNat
          if h.hit.isSome then
            let s1 := h.st.dexLog half.toNat 3 t.ring.toNat 0
            if o.stage = .running then s1.failOp o stDenied dtHostAccess else s1
          else h.st.setOp { o with data := o.data ++ data }
      | .read, none => s.dropTag half tag
      | _, _ => s

/-- HOST_ACCESS_FAIL (R522): a failed fetch or record write stops the ring's fetch, sets ERR and sends an event; another
failed access ends its operation with HOST_ACCESS. Either is logged (R530). -/
def execHostAccessFail (kind : HostAccessKind) (q : RingNo) (n : Seq) (s : State) : Answer :=
  s.issue fun s =>
    let s1 := s.dexLog (s.halfOf q).toNat 3 q.toNat 0
    match kind with
    | .fetch => ((s1.setRing q { s1.ring q with halted := true }).wr RING_STATUS_ERR q.toNat 1).sendEvent q
    | .record => ((s1.setRing q { s1.ring q with halted := true }).wr RING_STATUS_ERR q.toNat 1).sendEvent q
    | .other =>
        match s1.op? q n with
        | some o => if o.stage = .running then s1.failOp o stDenied dtHostAccess else s1
        | none => s1

/-- NOP (R513): completes doing nothing. -/
def execNop (q : RingNo) (n : Seq) (s : State) : Answer := s.opRow q n 0x00 fun s o => s.finish o stOk

end Sys2Proof.Machine
end

