-- ==== Sys2Proof/Machine/Sha.lean ====
section
/-! DEFINITION. SHA-384 of FIPS 180-4, which the manual names for image digests (R144), component digests and measurements
(R551) and the digest of an image load (R393); SHA-256, which collective headers hash with (R461); and the CRC-32C that state
slots carry (R498). Both hashes are one function of a table of the standard's parameters, over natural numbers. -/

namespace Sys2Proof.Machine

/-- Value of bytes in big-endian order. -/
def beNat (bs : List Byte) : Nat := bs.foldl (fun a b => 256 * a + b.toNat) 0

/-- n bytes of a value in big-endian order. -/
def beBytes (n v : Nat) : List Byte :=
  (List.range n).map fun i => BitVec.ofNat 8 (v >>> (8 * (n - 1 - i)))

/-- Round constants of the 64-bit hashes, eight to a number, the first the most significant. -/
def hashConsts : List Nat := [0x428a2f98d728ae227137449123ef65cdb5c0fbcfec4d3b2fe9b5dba58189dbbc3956c25bf348b53859f111f1b605d019923f82a4af194f9bab1c5ed5da6d8118,
  0xd807aa98a303024212835b0145706fbe243185be4ee4b28c550c7dc3d5ffb4e272be5d74f27b896f80deb1fe3b1696b19bdc06a725c71235c19bf174cf692694,
  0xe49b69c19ef14ad2efbe4786384f25e30fc19dc68b8cd5b5240ca1cc77ac9c652de92c6f592b02754a7484aa6ea6e4835cb0a9dcbd41fbd476f988da831153b5,
  0x983e5152ee66dfaba831c66d2db43210b00327c898fb213fbf597fc7beef0ee4c6e00bf33da88fc2d5a79147930aa72506ca6351e003826f142929670a0e6e70,
  0x27b70a8546d22ffc2e1b21385c26c9264d2c6dfc5ac42aed53380d139d95b3df650a73548baf63de766a0abb3c77b2a881c2c92e47edaee692722c851482353b,
  0xa2bfe8a14cf10364a81a664bbc423001c24b8b70d0f89791c76c51a30654be30d192e819d6ef5218d69906245565a910f40e35855771202a106aa07032bbd1b8,
  0x19a4c116b8d2d0c81e376c085141ab532748774cdf8eeb9934b0bcb5e19b48a8391c0cb3c5c95a634ed8aa4ae3418acb5b9cca4f7763e373682e6ff3d6b2b8a3,
  0x748f82ee5defb2fc78a5636f43172f6084c87814a1f0ab728cc702081a6439ec90befffa23631e28a4506cebde82bde9bef9a3f7b2c67915c67178f2e372532b,
  0xca273eceea26619cd186b8c721c0c207eada7dd6cde0eb1ef57d4f7fee6ed17806f067aa72176fba0a637dc5a2c898a6113f9804bef90dae1b710b35131c471b,
  0x28db77f523047d8432caab7b40c724933c9ebe0a15c9bebc431d67c49c100d4c4cc5d4becb3e42b6597f299cfc657e2a5fcb6fab3ad6faec6c44198c4a475817]

/-- Word i, from the most significant, of n words of w bits each that a number packs. -/
def packedWord (w n v i : Nat) : Nat := v >>> (w * (n - 1 - i)) % 2 ^ w

/-- Round constant i as 64 bits; the 32-bit hash takes its upper half. -/
def hashConst (i : Nat) : Nat := packedWord 64 8 (hashConsts.getD (i / 8) 0) (i % 8)

/-- What tells one hash of the standard from another: bits of a word, rounds, initial words packed, and the amounts of the
four mixing functions (the last amount of the schedule's two is a shift). -/
structure HashKind where
  bits : Nat
  rounds : Nat
  start : Nat
  up : Nat × Nat × Nat
  low : Nat × Nat × Nat
  near : Nat × Nat × Nat
  far : Nat × Nat × Nat
  deriving DecidableEq, Repr

def HashKind.sha384 : HashKind where
  bits := 64
  rounds := 80
  start := 0xcbbb9d5dc1059ed8629a292a367cd5079159015a3070dd17152fecd8f70e593967332667ffc00b318eb44a8768581511db0c2e0d64f98fa747b5481dbefa4fa4
  up := (28, 34, 39)
  low := (14, 18, 41)
  near := (1, 8, 7)
  far := (19, 61, 6)

def HashKind.sha256 : HashKind where
  bits := 32
  rounds := 64
  start := 0x6a09e667bb67ae853c6ef372a54ff53a510e527f9b05688c1f83d9ab5be0cd19
  up := (2, 13, 22)
  low := (6, 11, 25)
  near := (7, 18, 3)
  far := (17, 19, 10)

/-- A word turned right by n. -/
def HashKind.turn (h : HashKind) (x n : Nat) : Nat := (x ||| x <<< h.bits) >>> n % 2 ^ h.bits

/-- Three rotations of a word, exclusive-ored. -/
def HashKind.stir (h : HashKind) (m : Nat × Nat × Nat) (x : Nat) : Nat :=
  [m.1, m.2.1, m.2.2].foldl (fun v n => v ^^^ h.turn x n) 0

/-- Two rotations of a word and a shift of it, exclusive-ored. -/
def HashKind.fold (h : HashKind) (m : Nat × Nat × Nat) (x : Nat) : Nat := x >>> m.2.2 ^^^ h.turn x m.1 ^^^ h.turn x m.2.1

/-- One round on the list of eight working words, with the round's constant and scheduled word already added. -/
def HashKind.round (h : HashKind) (kw : Nat) : List Nat → List Nat
  | [a, b, c, d, e, f, g, last] =>
      let pick := g ^^^ e &&& (f ^^^ g)
      let most := a &&& (b ||| c) ||| b &&& c
      let t := last + kw + pick + h.stir h.low e
      [(most + h.stir h.up a + t) % 2 ^ h.bits, a, b, c, (t + d) % 2 ^ h.bits, e, f, g]
  | other => other

/-- n rounds from round i on; the window holds the next 16 words of the schedule. -/
def HashKind.run (h : HashKind) : Nat → Nat → List Nat → List Nat → List Nat
  | 0, _, _, st => st
  | n + 1, i, window, st =>
      let at_ := fun j => window.getD j 0
      let fresh := (at_ 0 + at_ 9 + h.fold h.near (at_ 1) + h.fold h.far (at_ 14)) % 2 ^ h.bits
      h.run n (i + 1) (window.drop 1 ++ [fresh]) (h.round (at_ 0 + hashConst i >>> (64 - h.bits)) st)

/-- The words after n blocks of 16 words of a padded message. -/
def HashKind.blocks (h : HashKind) : Nat → List Byte → List Nat → List Nat
  | 0, _, st => st
  | n + 1, m, st =>
      let window := (List.range 16).map fun i => beNat ((m.drop (h.bits / 8 * i)).take (h.bits / 8))
      h.blocks n (m.drop (2 * h.bits)) ((h.run h.rounds 0 window st).zipWith (fun new old => (old + new) % 2 ^ h.bits) st)

/-- The bytes that follow a message of n bytes: one bit set, zeros, and the message's length in bits over two words. -/
def HashKind.padding (h : HashKind) (n : Nat) : List Byte :=
  let tail := h.bits / 4
  0x80 :: List.replicate ((2 * h.bits - (n + 1 + tail) % (2 * h.bits)) % (2 * h.bits)) 0 ++ beBytes tail (8 * n)

/-- The eight words of a message's hash as one number, the first word the most significant. -/
def HashKind.hash (h : HashKind) (m : List Byte) : Nat :=
  let full := m ++ h.padding m.length
  (h.blocks (full.length / (2 * h.bits)) full ((List.range 8).map (packedWord h.bits 8 h.start))).foldl (fun v x => v <<< h.bits + x) 0

/-- SHA-384 of a message, the first six words; its first byte is the most significant of the value. -/
def sha384 (m : List Byte) : BitVec 384 := BitVec.ofNat 384 (HashKind.sha384.hash m >>> 128)

/-- SHA-256 of a message; its first byte is the most significant of the value. -/
def sha256 (m : List Byte) : BitVec 256 := BitVec.ofNat 256 (HashKind.sha256.hash m)

/-- One step of CRC-32C (reflected polynomial 0x82F63B78). -/
def crcBit (c : Word) : Word := if c.getLsbD 0 then c >>> 1 ^^^ 0x82F63B78 else c >>> 1

def crcByte (c : Word) (b : Byte) : Word :=
  let x := c ^^^ b.setWidth 32
  crcBit (crcBit (crcBit (crcBit (crcBit (crcBit (crcBit (crcBit x)))))))

/-- CRC-32C of a string of bytes (R498). -/
def crc32c (bs : List Byte) : Word := ~~~(bs.foldl crcByte 0xFFFFFFFF)

end Sys2Proof.Machine
end

