-- ==== Sys2Proof/Machine/Security.lean ====
section
/-! DEFINITION. The Watermaster's operations (R548 to R577): attestation, identity, tenants and their grants, maintenance
marks, components and security versions. -/

namespace Sys2Proof.Machine

/-- A Watermaster operation (R556). -/
def Op.isWm (o : Op) : Bool := 0x50 ≤ o.opcode && o.opcode ≤ 0x57

/-- The operations handed over before one. -/
def handedBefore (o : Op) : List Op → List Op
  | [] => []
  | p :: ps => if p.ring = o.ring && p.seq = o.seq then [] else p :: handedBefore o ps

/-- A Watermaster operation's row: the Watermaster runs them one at a time, in the order handed over (R556). -/
def State.wmRow (s : State) (q : RingNo) (n : Seq) (opc : Nat) (f : State → Op → State) : Answer :=
  s.opRow q n opc fun s o =>
    if (handedBefore o s.host.ops).all (fun p => !p.isWm || p.stage = .done) then f s o else s

/-- A Watermaster refusal: counted for the ring's tenant, logged, and carried by the record (R576). -/
def State.wmRefuse (s : State) (o : Op) (d : BitVec 16) : State :=
  (s.wmRefusal (o.tenant s) d).finish o stDenied d

/-! ### Attestation and identity (R559, R560) -/

/-- Security version of the running component of a kind: of the booted bank for kinds 0 to 3, of the active SFU image for
kind 4. -/
def State.runningComp (s : State) (k : Nat) : Option Component :=
  if k = 4 then s.wm.sfuActive
  else (if s.flag WM_STATUS_BANK then s.wm.bankB else s.wm.bankA).find? fun c => c.kind = k

def State.runningSvn (s : State) (k : Nat) : Nat := ((s.runningComp k).map (·.svn)).getD 0

/-- PARTS: bit p is set when partition p is granted to the tenant. -/
def State.partsMask (s : State) (t : TenantNo) : Nat :=
  (List.range 64).foldl (fun m p => if s.partTenant p = t then m + 2 ^ p else m) 0

/-- Bytes 0 to 255 of the report (R559). -/
def State.reportBytes (s : State) (o : Op) (rseq : Seq) : List Byte :=
  let t := o.tenant s
  let te := s.tenant t.toNat
  leBytes 4 0x53585250 ++ leBytes 2 0x0100 ++ leBytes 1 t.toNat
  ++ leBytes 1 (s.rd WM_STATUS_FALLBACK + 2 * s.rd WM_STATUS_DEBUG)
  ++ leBytes 4 s.wm.leaf.toNat ++ leBytes 4 rseq.toNat ++ leBytes 32 (o.fld 24 0 256) ++ leBytes 32 s.wm.nonce.toNat
  ++ beBytes 48 te.owner.toNat ++ (List.range 5).map (fun k => BitVec.ofNat 8 (s.runningSvn k)) ++ leBytes 3 0
  ++ beBytes 48 ((s.wm.sfuActive.map fun c => c.measure.toNat).getD 0)
  ++ leBytes 8 (s.partsMask t) ++ leBytes 4 te.streamFirst ++ leBytes 4 te.streamCount
  ++ leBytes 4 (s.rd WM_TENANT_EPOCH t.toNat) ++ leBytes 52 0

/-- The 96 signature bytes after the report: free values (log entry 1). -/
def signatureBytes (rseq : Nat) : List Byte := (List.range 96).map (Config.signatureByte rseq)

/-- WM_ATTEST (R559). -/
def execWmAttest (q : RingNo) (n : Seq) (s : State) : Answer :=
  s.wmRow q n 0x50 fun s o =>
    if s.flag WM_STATUS_EXHAUSTED then s.finish o stAttestExhausted
    else
      let r := s.wm.rseq + 1
      let s1 := ({ s with wm := { s.wm with rseq := r } }).bump ctrAttests
      (s1.finish o stOk).hostWrite o (o.fld 16 0 64) (s.reportBytes o r ++ signatureBytes r.toNat)

/-- Lengths of the bundle's four items: the countersignature takes 1,740 bytes (R554) and is absent from an exhausted
start-up. -/
def State.bundleLens (s : State) : List Nat :=
  [(Config.identityLen 0).toNat, (Config.identityLen 1).toNat, (Config.identityLen 2).toNat, if s.flag WM_STATUS_EXHAUSTED then 0 else 1740]

/-- The identity bundle (R560): four lengths, then the items. -/
def State.bundleBytes (s : State) : List Byte :=
  s.bundleLens.flatMap (leBytes 4)
  ++ ((List.range 4).flatMap fun i => (List.range (s.bundleLens.getD i 0)).map (Config.identityByte i))

def State.bundleSize (s : State) : Nat := 16 + s.bundleLens.foldl (· + ·) 0

/-- WM_IDENTITY (R560). -/
def execWmIdentity (q : RingNo) (n : Seq) (s : State) : Answer :=
  s.wmRow q n 0x51 fun s o =>
    if o.fld 24 0 32 < s.bundleSize then s.wmRefuse o dtSpace
    else (s.finish o stOk).hostWrite o (o.fld 16 0 64) s.bundleBytes

/-! ### Tenants (R563 to R566) -/

/-- An owner fingerprint is that of a tenant in state ACTIVE or REVOKING. -/
def State.ownerTaken (s : State) (fp : BitVec 384) : Bool :=
  (List.range 64).any fun t => s.tenantState t ≠ 0 && (s.tenant t).owner = fp

/-- WM_TENANT_CREATE (R563): `ownerFp` is the SHA-384 of the public key in the claim that the device reads from host memory,
`sigOk` whether the claim's signature verifies. -/
def execWmTenantCreate (q : RingNo) (n : Seq) (ownerFp : BitVec 384) (sigOk : Bool) (s : State) : Answer :=
  s.wmRow q n 0x52 fun s o =>
    let t := o.fld 16 0 6
    if t = 0 ∨ s.tenantState t ≠ 0 then s.wmRefuse o dtTenantState
    else if !sigOk || s.ownerTaken ownerFp then s.wmRefuse o dtClaim
    else
      let s1 := (s.wr WM_TENANT_EPOCH t (s.rd WM_TENANT_EPOCH t + 1)).wr WM_TENANT_STATE t 1
      (s1.setTenant t { owner := ownerFp }).finish o stOk

/-- Every index of a range is held by tenant 0 and idle (R564): kind 0 rings, 1 streams, 2 partitions, 3 granules. -/
def State.grantIdle (s : State) (kind first count : Nat) : Bool :=
  match kind with
  | 0 => allRange (fun q => s.rd RING_CTL_TENANT q = 0 && !s.flag RING_CTL_ENABLE q) first count
  | 1 => allRange (fun n => s.allotted 0 n && (s.stream n).st = .free) first count
  | 2 => allRange (fun p => s.partTenant p = 0 && !s.partEnabled p && s.flag ROT_PART_IDLE p
            && !(s.ctx.streams.any fun x => x.2.st ≠ .free && x.2.part.toNat = p)) first count
  | _ => allRange (fun g => s.granTenant g = 0 && !s.granSystem g && decide ((g + 1) * 2 ^ 26 ≤ s.cisEnd)) first count

/-- Last index of each kind (R564). -/
def grantLast (kind : Nat) : Nat := if kind = 0 then 4095 else if kind = 1 then 131071 else if kind = 2 then 63 else 7679

def grantRings (t : TenantNo) (first : Nat) : Nat → State → State
  | 0, s => s
  | n + 1, s =>
      let s1 := grantRings t first n s
      let q := first + n
      let tab := sput (0 : BitVec 7) s1.wm.ringTab q (BitVec.ofNat 7 (t.toNat + 64 * s1.rd RING_CTL_MAINT q))
      ({ s1 with wm := { s1.wm with ringTab := tab } }).wr RING_CTL_TENANT q t.toNat

def grantOwners (m : Sparse TenantNo) (t : TenantNo) (first : Nat) : Nat → Sparse TenantNo
  | 0 => m
  | n + 1 => sput (0 : TenantNo) (grantOwners m t first n) (first + n) t

/-- Resources moved to a tenant. A stream grant extends or sets the tenant's range (log entry 11). -/
def State.moveGrant (s : State) (t : TenantNo) (kind first count : Nat) : State :=
  match kind with
  | 0 => grantRings t first count s
  | 1 =>
      let x := s.tenant t.toNat
      s.setTenant t.toNat
        (if x.streamCount = 0 then { x with streamFirst := first, streamCount := count }
         else if first = x.streamFirst + x.streamCount then { x with streamCount := x.streamCount + count }
         else if first + count = x.streamFirst then { x with streamFirst := first, streamCount := x.streamCount + count }
         else { x with streamFirst := first, streamCount := count })
  | 2 => { s with wm := { s.wm with partOwner := grantOwners s.wm.partOwner t first count } }
  | _ => ({ s with wm := { s.wm with granOwner := grantOwners s.wm.granOwner t first count } }).rekey
      ((List.range count).map fun i => first + i)

/-- WM_GRANT (R564). -/
def execWmGrant (q : RingNo) (n : Seq) (s : State) : Answer :=
  s.wmRow q n 0x54 fun s o =>
    let t := o.fld 16 0 6
    let kind := o.fld 17 0 2
    let first := o.fld 20 0 32
    let count := o.fld 24 0 32
    if t = 0 ∨ s.tenantState t ≠ 1 then s.wmRefuse o dtTenantState
    else if count = 0 ∨ grantLast kind < first + count - 1 then s.finish o stDenied
    else if !s.grantIdle kind first count then s.wmRefuse o dtInUse
    else (s.moveGrant (BitVec.ofNat 6 t) kind first count).finish o stOk

/-- WM_RING_MAINT (R565, R563): RING_CTL and the tenant table take the new mark. -/
def execWmRingMaint (q : RingNo) (n : Seq) (s : State) : Answer :=
  s.wmRow q n 0x55 fun s o =>
    let r := o.fld 16 0 12
    let m := o.fld 18 0 1
    if s.tenantState (s.rd RING_CTL_TENANT r) = 2 then s.wmRefuse o dtTenantState
    else
      let tab := sput (0 : BitVec 7) s.wm.ringTab r (BitVec.ofNat 7 (s.rd RING_CTL_TENANT r + 64 * m))
      let s1 := { s with wm := { s.wm with ringTab := tab } }
      (s1.wr RING_CTL_MAINT r m).finish o stOk

/-! ### Components (R550 to R552, R558) -/

/-- The manifest fields of a component at a Cistern address (R551). -/
def State.manifest (s : State) (a off n : Nat) : Nat := leNat (s.cisBytes (a + off) n)

/-- SHA-384 of a component's body; `flip`: a seep has flipped a bit of its first byte (R577). -/
def State.bodyDigest (s : State) (flip : Bool) (a len : Nat) : BitVec 384 :=
  sha384 ((s.cisBytes (a + 4096) len).modify 0 fun b => if flip then b ^^^ 1 else b)

/-- The checks of R552 other than the security version; `sigOk` says whether both key digests and both signatures verify. -/
def State.componentOk (s : State) (flip : Bool) (a len : Nat) (sigOk : Bool) : Bool :=
  4096 ≤ len && s.manifest a 0 4 = 0x53574D31 && s.manifest a 4 1 ≤ 4 && s.manifest a 12 4 = len - 4096
  && s.manifest a 5 1 ≤ 1 && !(s.wm.revoked.getLsbD (s.manifest a 5 1)) && sigOk
  && BitVec.ofNat 384 (beNat (s.cisBytes (a + 16) 48)) = s.bodyDigest flip a (len - 4096)

/-- Addresses of the component area: 16 places of 4 MiB (log entry 12). -/
def areaFree (used : List Component) : Option Nat :=
  (List.range 16).find? fun i => !(used.any fun c => c.addr = i * 2 ^ 22)

/-- Place for a copy of an SFU image: a free one, else that of the oldest copy that no active bank holds and no load
names (R381). -/
def State.copyPlace (s : State) : Option Nat :=
  match areaFree s.wm.sfuCopies with
  | some i => some (i * 2 ^ 22)
  | none => (s.wm.sfuCopies.find? fun c =>
      !(s.wm.sfuActive.any fun x => x.addr = c.addr) && c.addr ≠ s.rd SFU_TBL_ADDR_ADDR).map (·.addr)

/-- WM_COMPONENT (R558). -/
def execWmComponent (q : RingNo) (n : Seq) (sigOk : Bool) (s : State) : Answer :=
  s.wmRow q n 0x56 fun s o =>
    let a := o.fld 16 0 48
    let len := o.fld 24 0 32
    match s.rangeDetail (o.tenant s) a len with
    | some d => s.finish o stDenied d
    | none =>
      if !s.cisOpen a len then s
      else
      let read := s.cisRead none a len
      if read.1 ≠ stOk then read.2.finish o read.1
      else
      let h := read.2.seepOne .wm 0 1
      let ok := s.componentOk h.hit.isSome a len sigOk
      let s0 := h.st
      let kind := s.manifest a 4 1
      let svn := s.manifest a 8 4
      if !ok then s0.wmRefuse o dtSignature
      else if svn < sget 0 s.wm.svnMin kind then s0.wmRefuse o dtRollback
      else
        let c : Component := { kind := kind, svn := svn, measure := sha384 (s.cisBytes a 64) }
        if kind = 4 then
          match s0.copyPlace with
          | none => s0.finish o stDenied
          | some d =>
            if !s.cisOpen d len then s else
            let c' := { c with addr := d }
            let s1 := s0.cisSend none d (s.cisBytes a len)
            let copies := (s1.wm.sfuCopies.filter fun (x : Component) => x.addr ≠ d) ++ [c']
            ({ s1 with wm := { s1.wm with sfuCopies := copies } }).finish o stOk 0 (BitVec.ofNat 32 d)
        else
          let other := !s0.flag WM_STATUS_BANK
          let put := fun (l : List Component) => (l.filter fun (x : Component) => x.kind ≠ kind) ++ [c]
          let wm := if other then { s0.wm with bankB := put s0.wm.bankB } else { s0.wm with bankA := put s0.wm.bankA }
          let wm' := if o.fld 28 0 1 = 1 then { wm with nextBank := some other } else wm
          ({ s0 with wm := wm' }).finish o stOk

/-- WM_SVN_COMMIT (R558): SVN_MIN bits are only ever burned, so SVN_MIN never falls (R549). -/
def execWmSvnCommit (q : RingNo) (n : Seq) (s : State) : Answer :=
  s.wmRow q n 0x57 fun s o =>
    let k := o.fld 16 0 8
    if 4 < k then s.wmRefuse o dtSignature
    else if 64 < s.runningSvn k then s.wmRefuse o dtSvnFuses
    else
      ({ s with wm := { s.wm with svnMin := sput 0 s.wm.svnMin k (max (sget 0 s.wm.svnMin k) (s.runningSvn k)) } }).finish
        o stOk

/-! ### Accesses (R571, R604) and the test access port (R574) -/

/-- ACCESS_VIOLATION: an unprivileged access to a .P field or another tenant's register reads zero, discards its write, and
is counted, logged and raised (R571). -/
def execAccessViolation (t : TenantNo) (offset : BitVec 32) (_write : Bool) (s : State) : Answer :=
  s.issue fun s => s.violation t offset.toNat

/-- BAD_ACCESS: an access that is no aligned 64-bit access reads zero or is discarded, and is counted (R604). -/
def execBadAccess (_write : Bool) (s : State) : Answer := s.issue fun s => s.bump ctrBadAccess

/-- JTAG_INSTRUCTION (R574): mandatory instructions are accepted, every other one only with DEBUG burned. The port works
whether or not the module is stopped. -/
def execJtagInstruction (code : BitVec 8) (mandatory : Bool) (s : State) : Answer :=
  let ok := mandatory || s.flag WM_STATUS_DEBUG
  .next (({ s with boot := { s.boot with jtagCode := if ok then some code else s.boot.jtagCode } }).emit (.jtag code ok))

end Sys2Proof.Machine
end

