-- ==== Sys2Proof/Machine/Aquifer.lean ====
section
/-! DEFINITION. The Aquifer store (R386 to R399, R619): extents and image loads, the weight cache, retired dies. -/

namespace Sys2Proof.Machine

/-- Usable 64 KiB units of the Aquifer window (R379). -/
def aqUnits : Nat := 1708984375
/-- First address of the Aquifer window. -/
def aqBase : Nat := 0x800000000000

/-- An extent that occupies blocks. -/
def Extent.occupies (e : Extent) : Bool := e.st ≠ .empty
/-- An extent that has a range of the window. -/
def Extent.ranged (e : Extent) : Bool := e.st = .valid || (e.st = .loading && e.replace.isNone)

/-- Units of blocks that no extent holds. -/
def State.freeUnits (s : State) : Nat :=
  aqUnits - s.aqf.extents.foldl (fun n x => if x.2.occupies then n + x.2.units else n) 0

/-- A range of units overlaps another extent's. -/
def State.extentOverlap (s : State) (base units : Nat) : Bool :=
  s.aqf.extents.any fun x => x.2.ranged && decide (base < x.2.base + x.2.units ∧ x.2.base < base + units)

/-- One change of the extent table: the write that advances its generation is its commit (R392). -/
def State.commitExtent (s : State) (e : Nat) (x : Extent) : State :=
  let s1 := s.setExtent e x
  ({ s1 with aqf := { s1.aqf with gen := s1.aqf.gen + 1, prior := s.aqf.extents } }).restage

/-- An extent belongs to the ring's tenant (R514, R564). -/
def State.ownsExtent (s : State) (o : Op) (e : Extent) : Bool := s.extentTenant e = some (o.tenant s).toNat

/-- AQ_LOAD_BEGIN (R393, R394 step 2). -/
def execAqLoadBegin (q : RingNo) (n : Seq) (s : State) : Answer :=
  s.opRow q n 0x40 fun s o =>
    let e := o.fld 16 0 8
    let units := o.fld 20 0 32
    let addr := o.fld 24 0 48
    let repl := o.fld 33 0 1 = 1
    let old := s.extent (o.fld 32 0 8)
    let x := s.extent e
    if x.st ≠ .empty ∨ units = 0 ∨ aqUnits < units then s.finish o stDenied
    else if repl ∧ old.st ≠ .valid then s.finish o stDenied
    else if repl ∧ !s.ownsExtent o old then s.finish o stDenied dtTenant
    else if repl ∧ old.units ≠ units then s.finish o stDenied
    else if !repl ∧ (addr % 65536 ≠ 0 ∨ addr < aqBase ∨ aqBase + aqUnits * 65536 < addr + units * 65536
        ∨ s.extentOverlap ((addr - aqBase) / 65536) units) then s.finish o stDenied
    else if s.freeUnits < units then s.finish o stDenied
    else
      (s.commitExtent e { st := .loading, base := if repl then old.base else (addr - aqBase) / 65536, units := units,
                          owner := (s.tenant (o.tenant s).toNat).owner, loads := x.loads + 1,
                          replace := if repl then some (o.fld 32 0 8) else none }).finish o stOk

/-- Programs are suspended: a NAND package above 70 degrees (R631), or a throttled VCC or VCCQ rail (R532). -/
def State.programsSuspended (s : State) : Bool :=
  !s.aqf.nandHot.isEmpty || s.rd HG_STATUS_LEVEL 6 ≠ 0 || s.rd HG_STATUS_LEVEL 7 ≠ 0

/-- ONFI channel of an Aquifer address (R386). -/
def aqChannel (a : Nat) : Nat :=
  let p := (a - aqBase) / 16384
  (p / 31 + 1 + p % 31) % 32

/-- n pages of 16 KiB programmed from an address on: their controllers encrypt them in data units of 4 KiB (R568, R569). -/
def State.programPages (s : State) (a : Nat) : Nat → State
  | 0 => s
  | n + 1 => (s.xtsCheck (64 + aqChannel a) 4).programPages (a + 16384) n

/-- AQ_LOAD_DATA (R393, R394 step 4): it waits at its start for the load staging area (R381), copies its units there from
HOST (`data` is what the host memory holds), and programs them; while programs are suspended it keeps the area. -/
def execAqLoadData (q : RingNo) (n : Seq) (data : List Byte) (s : State) : Answer :=
  s.issue fun s =>
    match s.op? q n with
    | none => s
    | some o =>
      if o.opcode ≠ 0x41 then s
      else if o.stage = .running ∨ s.canStart o then
        let e := o.fld 16 0 8
        let x := s.extent e
        let count := o.fld 24 0 10 + 1
        if x.st ≠ .loading ∨ o.fld 20 0 32 ≠ x.written ∨ x.units < x.written + count then s.finish o stDenied
        else if !s.ownsExtent o x then s.finish o stDenied dtTenant
        else if (s.aqf.staging.isSome ∧ s.aqf.staging ≠ some (q, n)) ∨ s.cisOpen 0x4000000 (count * 65536) = false then s
        else
          let staged := s.aqf.staging = some (q, n)
          let bytes := if staged then s.cisBytes 0x4000000 (count * 65536) else data.take (count * 65536)
          let s1 := if staged then s else (s.cisSend none 0x4000000 bytes).hostRead o (o.fld 32 0 64) (count * 65536)
          if s.programsSuspended then
            ({ s1 with aqf := { s1.aqf with staging := some (q, n) } }).begin_ o
          else
            let s2 := (s1.setExtent e { x with written := x.written + count, data := x.data ++ bytes }).programPages
              (aqBase + (x.base + x.written) * 65536) (4 * count)
            ({ s2 with aqf := { s2.aqf with staging := none } }).finish o stOk
      else s

/-! ### Weight cache (R397 to R399) -/

def State.wcUnit (s : State) (u : Nat) : WcUnit := sget ({} : WcUnit) s.aqf.wc u
def State.setWcUnit (s : State) (u : Nat) (x : WcUnit) : State :=
  { s with aqf := { s.aqf with wc := sput ({} : WcUnit) s.aqf.wc u x } }

/-- The unit that holds or fills an Aquifer unit. -/
def State.wcFind (s : State) (aq : Nat) : Option Nat :=
  (s.aqf.wc.find? fun x => x.2.st ≠ .free && x.2.aq = aq).map (·.1)

/-- Units of the weight-cache region, below the end of the Cistern range (R432). -/
def State.wcSize (s : State) : Nat :=
  min (s.rd WC_CTL_SIZE_1G * 16384) ((s.cisEnd - s.rd WC_CTL_BASE_1G * 2 ^ 30) / 65536)

/-- Cistern address of a unit. -/
def State.wcAddr (s : State) (u : Nat) : Nat := s.rd WC_CTL_BASE_1G * 2 ^ 30 + u * 65536

/-- The lowest FREE unit among n. -/
def wcLowestFree (wc : Sparse WcUnit) (size : Nat) : Nat → Option Nat
  | 0 => none
  | fuel + 1 =>
      let u := size - (fuel + 1)
      if (sget ({} : WcUnit) wc u).st = .free then some u else wcLowestFree wc size fuel

/-- The least recently read READY unit that is not sticky (R398). -/
def wcVictim (wc : Sparse WcUnit) : Option Nat :=
  wc.foldl (fun best x =>
    if x.2.st = .ready && x.2.sticky.isNone then
      match best with
      | none => some x.1
      | some b => if x.2.lastRead < (sget ({} : WcUnit) wc b).lastRead then some x.1 else some b
    else best) none

/-- A unit for a new fill: a FREE one, else the victim. The region's units beyond those ever used are FREE. -/
def State.wcPlace (s : State) : Option Nat :=
  match wcLowestFree s.aqf.wc (min s.wcSize (s.aqf.wc.length + 1)) (min s.wcSize (s.aqf.wc.length + 1)) with
  | some u => some u
  | none => wcVictim s.aqf.wc

/-- Sticky units may take at most SIZE - 1 GiB (R398). -/
def State.stickyRoom (s : State) : Bool :=
  (s.aqf.wc.filter fun x => x.2.sticky.isSome).length < s.wcSize - 16384

/-- A unit marked sticky by a model's lift, or STICKY_REFUSED counted. -/
def State.makeSticky (s : State) (u : Nat) (model : DWord) : State :=
  if (s.wcUnit u).sticky.isSome then s
  else if s.stickyRoom then s.setWcUnit u { s.wcUnit u with sticky := some model }
  else s.bump ctrStickyRefused

/-- One request for an Aquifer unit (R398): a READY unit is a hit, a FILLING one is joined, otherwise a fill starts in a
place; none when every unit is FILLING, PINNED or sticky, and the request waits. -/
def State.wcRequest (s : State) (part : Option Nat) (aq : Nat) : Option (Nat × State) :=
  match s.wcFind aq with
  | some u =>
      let x := s.wcUnit u
      if x.st = .filling then some (u, s.bump ctrWcJoins)
      else
        let s1 := { s with aqf := { s.aqf with readClock := s.aqf.readClock + 1 } }
        some (u, (s1.setWcUnit u { x with lastRead := s1.aqf.readClock }).bump ctrWcHits)
  | none =>
      match s.wcPlace with
      | none => none
      | some u => some (u, (s.setWcUnit u { st := .filling, aq := aq, part := part }).bump ctrWcMisses)

/-- Units of a changed range returned to FREE once their reads have completed (R399). -/
def State.wcInvalidate (s : State) (base units : Nat) : State :=
  let wc := s.aqf.wc.filter fun x => !(decide (base ≤ x.2.aq ∧ x.2.aq < base + units))
  { s with aqf := { s.aqf with wc := wc } }

/-- WC_FILL_DONE (R398): the copy is complete once its four pages have been read; the unit holds the Aquifer unit's bytes and is READY. -/
def execWcFillDone (u : Nat) (s : State) : Answer :=
  s.issue fun s =>
    let x := s.wcUnit u
    if x.st = .filling ∧ x.pages = 15 ∧ s.cisOpen (s.wcAddr u) 65536 = true then
      let s1 := s.cisSend x.part (s.wcAddr u) (readBytes s.mem.aqua (aqBase + x.aq * 65536) 65536)
      s1.setWcUnit u { x with st := .ready }
    else s

/-- Every sticky mark cleared (R410). -/
def State.wcFlush (s : State) : State :=
  { s with aqf := { s.aqf with wc := s.aqf.wc.map fun x => (x.1, { x.2 with sticky := none }) } }

def execWcFlush (s : State) : Answer := s.issue State.wcFlush

/-- The sticky marks that a model's lifts made, cleared (R500). -/
def State.unstick (s : State) (model : DWord) : State :=
  { s with aqf := { s.aqf with wc := s.aqf.wc.map fun x =>
      (x.1, if x.2.sticky = some model then { x.2 with sticky := none } else x.2) } }

/-! ### Commit and free (R394 steps 6 to 9) -/

/-- The programmed contents at a range of the window. -/
def State.placeExtent (s : State) (x : Extent) : State :=
  { s with mem := { s.mem with aqua := writeBytes s.mem.aqua (aqBase + x.base * 65536) x.data } }

/-- A lift in flight reads a range of Aquifer units. -/
def State.rangeRead (s : State) (base units : Nat) : Bool :=
  s.rot.parts.any fun x => x.2.lifts.any fun r =>
    let n := 64 * leNat ((r.bytes.drop 24).take 3)
    decide (aqBase ≤ r.src ∧ r.src < aqBase + (base + units) * 65536 ∧ aqBase + base * 65536 < r.src + n)

/-- An operation that has reached step 7 waits there until no lift reads the range, and holds new lifts of it (R394). -/
def State.rangeHeld (s : State) (a n : Nat) : Bool :=
  s.host.ops.any fun o =>
    let x := s.extent (o.fld 16 0 8)
    o.stage = .running && (o.opcode = 0x42 || o.opcode = 0x43)
      && decide (a < aqBase + (x.base + x.units) * 65536 ∧ aqBase + x.base * 65536 < a + n)

/-- A row of an operation that may start or has started. -/
def State.opGoes (s : State) (q : RingNo) (n : Seq) (opc : Nat) (f : State → Op → State) : Answer :=
  s.issue fun s =>
    match s.op? q n with
    | none => s
    | some o => if o.opcode = opc ∧ (o.stage = .running ∨ s.canStart o) then f s o else s

/-- AQ_LOAD_COMMIT: `digest` is the expected SHA-384 that the device reads at DIGEST. -/
def execAqLoadCommit (q : RingNo) (n : Seq) (digest : BitVec 384) (s : State) : Answer :=
  s.opGoes q n 0x42 fun s o =>
    let e := o.fld 16 0 8
    let x := s.extent e
    let s0 := s.hostRead o (o.fld 24 0 64) 48
    if x.st ≠ .loading ∨ x.written ≠ x.units then s.finish o stDenied
    else if !s.ownsExtent o x then s.finish o stDenied dtTenant
    else if sha384 x.data ≠ digest then (s0.commitExtent e { loads := x.loads }).finish o stDenied
    else if x.replace.isSome ∧ s.rangeRead x.base x.units then s.begin_ o
    else
      let s1 := match x.replace with
        | some r => s0.setExtent r { s0.extent r with st := .retiring }
        | none => s0
      let s2 := (s1.placeExtent x).commitExtent e { x with st := .valid, replace := none, data := [] }
      (s2.wcInvalidate x.base x.units).finish o stOk

/-- AQ_FREE: the extent retires, and the cache units of its range go. -/
def execAqFree (q : RingNo) (n : Seq) (s : State) : Answer :=
  s.opGoes q n 0x43 fun s o =>
    let e := o.fld 16 0 8
    let x := s.extent e
    if x.st ≠ .valid then s.finish o stDenied
    else if !s.ownsExtent o x then s.finish o stDenied dtTenant
    else if s.rangeRead x.base x.units then s.begin_ o
    else ((s.commitExtent e { x with st := .retiring }).wcInvalidate x.base x.units).finish o stOk

/-- A unit of the window lies in a VALID extent (R391). -/
def State.unitValid (s : State) (u : Nat) : Bool := s.aqf.extents.any fun x => x.2.st = .valid && decide (x.2.base ≤ u ∧ u < x.2.base + x.2.units)

/-- Erased blocks hold nothing; a range that another extent has taken over keeps that one's contents. -/
def State.eraseUnits (s : State) (base units : Nat) : State :=
  let keep := fun (a : Nat) => decide (a < aqBase + base * 65536 ∨ aqBase + (base + units) * 65536 ≤ a) || s.unitValid ((a - aqBase) / 65536)
  { s with mem := { s.mem with aqua := s.mem.aqua.filter fun (c : Host.Cell) => keep c.1 } }

/-- EXTENT_ERASE_DONE (R394 step 9, R395): the blocks of a RETIRING extent are erased and it is EMPTY. -/
def execExtentEraseDone (e : BitVec 8) (s : State) : Answer :=
  s.issue fun s =>
    let x := s.extent e.toNat
    if x.st = .retiring then (s.eraseUnits x.base x.units).commitExtent e.toNat { loads := x.loads } else s

/-! ### Pages and dies (R386, R389, R390, R619) -/

/-- A controller's count of the reads of a block (R390). -/
def State.noteBlockRead (s : State) (a : Nat) : State :=
  let k := aqChannel a * 2 ^ 32 + Config.blockOf ((a - aqBase) / 16384)
  { s with aqf := { s.aqf with blockReads := sput 0 s.aqf.blockReads k (sget 0 s.aqf.blockReads k + 1) } }

/-- BLOCK_REFRESH (R390): the block is copied and the map switched; contents do not change. -/
def execBlockRefresh (ch : BitVec 5) (block : Nat) (s : State) : Answer :=
  s.issue fun s =>
    let k := ch.toNat * 2 ^ 32 + block
    ({ s with aqf := { s.aqf with blockReads := sput 0 s.aqf.blockReads k 0 } }).bump ctrAqRefreshes

/-- A die retired at once (R619, R389); a write of 0 to a set bit is ignored. -/
def State.dieRetire (s : State) (ch die : Nat) : State :=
  s.wr AQ_CH_CTL_DIE_RETIRED ch (s.rd AQ_CH_CTL_DIE_RETIRED ch ||| 2 ^ die)

def execDieRetire (ch : BitVec 5) (die : BitVec 3) (s : State) : Answer :=
  s.issue fun s => s.dieRetire ch.toNat die.toNat

/-- NAND_CASE_TEMPERATURE (R631): above 70 degrees programs are suspended, above 85 the module stops with cause 2. -/
def execNandCaseTemperature (pkg : BitVec 5) (celsius : Nat) (s : State) : Answer :=
  s.issue fun s =>
    if 85 < celsius then s.stop causeThermal pkg.toNat
    else
      let rest := s.aqf.nandHot.filter (· ≠ pkg.toNat)
      { s with aqf := { s.aqf with nandHot := if 70 < celsius then pkg.toNat :: rest else rest } }

end Sys2Proof.Machine
end

