-- ==== Sys2Proof/Machine/Video.lean ====
section
/-! DEFINITION. Video coding pipes (R349 to R378): sessions, decoding, frame-buffer marks, observation handles, encoding
under the receiver buffer model, and the output ring. -/

namespace Sys2Proof.Machine

/-- Details of the codec chapter (R365, R517). -/
def dtPicNumber : BitVec 16 := 2
def dtUnsupported : BitVec 16 := 3
def dtPool : BitVec 16 := 4
def dtAddress : BitVec 16 := 5
def dtParams : BitVec 16 := 6

def State.decSession (s : State) (n : Nat) : DecSession := sget ({} : DecSession) s.vid.dec n
def State.setDec (s : State) (n : Nat) (x : DecSession) : State :=
  ({ s with vid := { s.vid with dec := sput ({} : DecSession) s.vid.dec n x } }).restage
def State.encSession (s : State) (n : Nat) : EncSession := sget ({} : EncSession) s.vid.enc n
def State.setEnc (s : State) (n : Nat) (x : EncSession) : State :=
  ({ s with vid := { s.vid with enc := sput ({} : EncSession) s.vid.enc n x } }).restage

/-- A field of the descriptor that opened a session. -/
def descFld (d : BitVec 512) (b lo w : Nat) : Nat := d.toNat >>> (8 * b + lo) % 2 ^ w

/-! ### Picture layout (R327, R355, R356) -/

/-- Sample bytes, chroma presence and depth of a PIXFMT. -/
def pixBytes (f : Nat) : Nat := if f = 0 ∨ f = 2 then 1 else 2
def pixChroma (f : Nat) : Bool := f < 2
def pixDepth (f : Nat) : Nat := if f = 0 ∨ f = 2 then 8 else 10

def roundUp (n k : Nat) : Nat := (n + k - 1) / k * k

/-- Pitch of a plane of a width (R355). -/
def planePitch (f w : Nat) : Nat := roundUp (w * pixBytes f) 64

/-- Bytes of the planes of a picture, and offsets of its chroma planes. -/
def lumaBytes (f w h : Nat) : Nat := planePitch f w * h
def chromaBytes (f w h : Nat) : Nat := if pixChroma f then planePitch f ((w + 1) / 2) * ((h + 1) / 2) else 0
def pictureBytes (f w h : Nat) : Nat := lumaBytes f w h + 2 * chromaBytes f w h

/-- Size of one frame buffer (R356). -/
def bufferBytes (f w h : Nat) : Nat := roundUp (pictureBytes f w h) 4096

def DecSession.pixfmt (x : DecSession) : Nat := descFld x.desc 36 0 2
def DecSession.maxW (x : DecSession) : Nat := descFld x.desc 32 0 16 + 1
def DecSession.maxH (x : DecSession) : Nat := descFld x.desc 34 0 16 + 1
def DecSession.nfb (x : DecSession) : Nat := descFld x.desc 19 0 6
def DecSession.direct (x : DecSession) : Bool := descFld x.desc 17 1 1 = 1
def DecSession.attach (x : DecSession) : Bool := descFld x.desc 20 31 1 = 1
def DecSession.bufAddr (x : DecSession) (b : Nat) : Nat :=
  descFld x.desc 24 0 48 + b * bufferBytes x.pixfmt x.maxW x.maxH

/-! ### Buffers -/

def FrameBuf.isFree (b : FrameBuf) : Bool := !b.dec && b.ref = 0 && !b.obs && b.reads = 0 && !b.src

/-- The lowest-numbered buffer without a mark (R357). -/
def freeBuf (bufs : Sparse FrameBuf) (nfb : Nat) : Option Nat :=
  (List.range nfb).find? fun b => (sget ({} : FrameBuf) bufs b).isFree

/-- Every buffer carries REF (R358). -/
def allRef (bufs : Sparse FrameBuf) (nfb : Nat) : Bool :=
  (List.range nfb).all fun b => (sget ({} : FrameBuf) bufs b).ref ≠ 0

def modBuf (bufs : Sparse FrameBuf) (b : Nat) (f : FrameBuf → FrameBuf) : Sparse FrameBuf :=
  sput ({} : FrameBuf) bufs b (f (sget ({} : FrameBuf) bufs b))

/-- The picture with a number. -/
def DecSession.pic? (x : DecSession) (n : Nat) : Option Pic := x.pics.find? fun p => p.num = n
def DecSession.setPic (x : DecSession) (p : Pic) : DecSession :=
  { x with pics := x.pics.map fun r => if r.num = p.num then p else r }

/-! ### Opening and closing -/

/-- Pipe that R26 gives a stream: that of the lowest-numbered reach its partition covers. -/
def State.defaultPipe (s : State) (stream : Nat) : Nat :=
  ((s.partPlots (s.stream stream).part.toNat).map reachOf).foldl min 15

/-- A pool lies wholly inside the video area of one reach: in the area's part of one plot column (R356). -/
def State.inVideoArea (s : State) (a len : Nat) : Bool :=
  if 0x10000000000 ≤ a ∧ a + len ≤ 0x10400000000 then
    let l := (a - 0x10000000000) / 0x1000000
    let off := (a - 0x10000000000) % 0x1000000
    let r := reachOf l
    decide (s.rd VID_AREA_OFF_1M r * 2 ^ 20 ≤ off ∧ off + len ≤ (s.rd VID_AREA_OFF_1M r + s.rd VID_AREA_SIZE_1M r) * 2 ^ 20)
  else false

/-- The address checks of R642 on a region: TENANT where it touches another tenant's granule, ADDRESS where it does not lie
wholly in the tenant's granules. -/
def State.videoRange (s : State) (t : TenantNo) (a len : Nat) : Option (BitVec 16) :=
  match s.rangeDetail t a len with
  | none => none
  | some d => if d = dtTenant then some dtTenant else some dtAddress

/-- A session can be used by an operation: open, not closing, no earlier VSESSION_CLOSE of it outstanding, on its home ring
and of its tenant (R349). -/
def State.sessionRefused (s : State) (o : Op) (isOpen closing : Bool) (tenant : TenantNo) (home : RingNo) (sess enc : Nat) :
    Refused :=
  if isOpen && tenant ≠ o.tenant s then deny dtTenant
  else if !isOpen || closing then deny
  else if (opsBefore o s.host.ops).any (fun p => p.opcode = 0x24 && p.fld 16 0 8 = sess && p.fld 17 0 1 = enc && p.stage ≠ .done)
    then deny
  else if home ≠ o.ring then deny
  else none

/-- Largest picture and format that R352 decodes for a codec. -/
def decodeSupported (codec f w h : Nat) : Bool :=
  16 ≤ w && 16 ≤ h && w ≤ 8192 && h ≤ 4352 && !(codec = 0 && f = 2)

/-- Checks of VDEC_OPEN in the order of R349, R359, R584 and R642. -/
def State.vdecRefused (s : State) (o : Op) : Refused :=
  let t := o.tenant s
  let f := o.fld 36 0 2
  let w := o.fld 32 0 16 + 1
  let h := o.fld 34 0 16 + 1
  let str := s.stream (o.fld 20 0 17)
  let pool := o.fld 24 0 48
  let reg := o.fld 40 0 48
  let len := o.fld 19 0 6 * bufferBytes f w h
  if (s.decSession (o.fld 16 0 8)).isOpen then deny
  else if o.fld 18 7 1 = 1 ∧ (o.fld 20 31 1 = 0 ∨ str.st ≠ .open_) then deny
  else if o.fld 18 7 1 = 1 ∧ str.tenant ≠ t then deny dtTenant
  else if s.rangeDetail t pool len = some dtTenant ∨ s.rangeDetail t reg 65536 = some dtTenant then deny dtTenant
  else if ((s.rangeDetail t pool len).isSome ∧ !s.inVideoArea pool len) ∨ pool % 4096 ≠ 0
      ∨ (s.rangeDetail t reg 65536).isSome ∨ reg % 4096 ≠ 0 then deny dtAddress
  else if !decodeSupported (o.fld 17 0 1) f w h then deny dtUnsupported
  else if o.fld 19 0 6 < 2 ∨ 32 < o.fld 19 0 6 then deny dtParams
  else none

/-- VDEC_OPEN (R359). A pipe fenced under R584 refuses the open with FENCED_RESOURCE. -/
def execVdecOpen (q : RingNo) (n : Seq) (s : State) : Answer :=
  s.opRow q n 0x20 fun s o =>
    match s.vdecRefused o with
    | some r => s.refuseOp o r
    | none =>
      let pipe := if o.fld 18 7 1 = 1 then s.defaultPipe (o.fld 20 0 17) else o.fld 18 0 4
      if (s.rd LEVEE_ENG_CODEC).testBit pipe then s.finish o stFenced
      else
        let x : DecSession := { isOpen := true, tenant := o.tenant s, home := o.ring, desc := o.desc, pipe := pipe,
                                hist := Config.codecRun (o.fld 17 0 1) [] }
        (s.setDec (o.fld 16 0 8) x).finish o stOk

/-- DECODE (R360, R642, R365): it takes the session's next picture number and waits for its pipe. -/
def execDecode (q : RingNo) (n : Seq) (s : State) : Answer :=
  s.opRow q n 0x21 fun s o =>
    let k := o.fld 16 0 8
    let x := s.decSession k
    match s.sessionRefused o x.isOpen x.closing x.tenant x.home k 0 with
    | some r => s.refuseOp o r
    | none =>
      if s.videoRange (o.tenant s) (o.fld 24 0 48) (max 1 (o.fld 32 0 26)) = some dtTenant then s.refuseOp o (stDenied, dtTenant)
      else if (s.videoRange (o.tenant s) (o.fld 24 0 48) (max 1 (o.fld 32 0 26))).isSome then s.refuseOp o (stDenied, dtAddress)
      else if o.fld 32 0 26 = 0 then s.refuseOp o (stDenied, dtParams)
      else if o.fld 20 0 24 ≠ x.nextPic then s.refuseOp o (stDenied, dtPicNumber)
      else if (s.rd LEVEE_ENG_CODEC).testBit x.pipe then s.finish o stFenced
      else
        let p : Pic := { num := x.nextPic, ring := q, seq := n, autorel := o.fld 36 0 1 = 1 }
        let pics := (x.pics.filter fun (y : Pic) => y.num ≠ x.nextPic) ++ [p]
        (s.setDec k { x with nextPic := (x.nextPic + 1) % 2 ^ 24, pics := pics, queue := x.queue ++ [x.nextPic] }).begin_ o

/-- OBS of a picture cleared, or the clearing left until every read holding the picture has completed (R360). -/
def DecSession.releasePic (x : DecSession) (p : Pic) : DecSession :=
  if p.holds.isEmpty then
    { (x.setPic { p with obs := false, release := false }) with
        bufs := if p.st = .done ∨ p.st = .failed ∨ p.st = .decoding then modBuf x.bufs p.buf (fun b => { b with obs := false })
                else x.bufs }
  else x.setPic { p with release := true }

def DecSession.releaseRun (x : DecSession) (first : Nat) : Nat → DecSession
  | 0 => x
  | n + 1 =>
      let y := x.releaseRun first n
      match y.pic? ((first + n) % 2 ^ 24) with
      | some p => y.releasePic p
      | none => y

/-- VIDEO_RELEASE (R359, R360). -/
def execVideoRelease (q : RingNo) (n : Seq) (s : State) : Answer :=
  s.opRow q n 0x22 fun s o =>
    let k := o.fld 16 0 8
    let x := s.decSession k
    match s.sessionRefused o x.isOpen x.closing x.tenant x.home k 0 with
    | some r => s.refuseOp o r
    | none => (s.setDec k (x.releaseRun (o.fld 20 0 24) (o.fld 24 0 8 + 1))).finish o stOk

/-- Width, height and format of an output program (R327, R368). -/
def State.progW (s : State) (a : Nat) : Nat := leNat (s.cisBytes a 2) + 1
def State.progH (s : State) (a : Nat) : Nat := leNat (s.cisBytes (a + 2) 2) + 1
def State.progFmt (s : State) (a : Nat) : Nat := leNat (s.cisBytes (a + 4) 1) % 4

/-- Pictures that R352 encodes for a codec. -/
def encodeSupported (codec f w h : Nat) : Bool :=
  64 ≤ w && 64 ≤ h && w ≤ 4096 && h ≤ 2176 && w % 8 = 0 && h % 8 = 0 && !(codec = 0 && 2 ≤ f)

/-- FLAT of R368 in bits. -/
def flatBits (w h : Nat) : Nat := w * h / 64 + 4096

/-- Checks of VENC_OPEN (R349, R642, R368, R373). -/
def State.vencRefused (s : State) (o : Op) (ringSize : Nat) : Refused :=
  let t := o.tenant s
  let str := s.stream (o.fld 20 0 17)
  let prog := ((s.model? str.model.toNat).map (·.outProg)).getD 0
  let w := s.progW prog
  let h := s.progH prog
  let f := s.progFmt prog
  let codec := o.fld 17 0 1
  let rc := o.fld 26 0 2
  let nref := o.fld 27 0 4
  let qpTop := if codec = 0 then 51 else 255
  let bits := o.fld 32 0 32
  let cpb := o.fld 36 0 32
  let pool := s.rangeDetail t (o.fld 48 0 48) (o.fld 19 0 6 * bufferBytes f w h)
  if (s.encSession (o.fld 16 0 6)).isOpen then deny
  else if str.st = .open_ ∧ str.tenant ≠ t then deny dtTenant
  else if str.st ≠ .open_ ∨ str.cap ≤ o.fld 24 0 12 then deny
  else if pool = some dtTenant then deny dtTenant
  else if pool.isSome ∨ o.fld 48 0 48 % 4096 ≠ 0 then deny dtAddress
  else if !encodeSupported codec f w h then deny dtUnsupported
  else if o.fld 19 0 6 < 4 ∨ 32 < o.fld 19 0 6 ∨ nref = 0 ∨ (if codec = 0 then 4 else 3) < nref
      ∨ qpTop < o.fld 28 0 8 ∨ qpTop < o.fld 29 0 8 ∨ qpTop < o.fld 30 0 8 ∨ rc = 3 then deny dtParams
  else if rc ≠ 0 ∧ (bits * o.fld 44 0 32 / 27000000 < flatBits w h ∨ cpb < flatBits w h
      ∨ bits * o.fld 40 0 32 / 27000000 < flatBits w h ∨ cpb * 27000000 < bits * o.fld 40 0 32) then deny dtParams
  else if ringSize % 64 ≠ 0 ∨ (rc = 0 ∧ ringSize < 3 * w * h + 64) ∨ (rc ≠ 0 ∧ ringSize < 2 * (cpb / 8 + 32)) then deny dtParams
  else none

/-- VENC_OPEN (R368): `ringBase` and `ringSize` are the ring control block's fields in host memory (R373). -/
def execVencOpen (q : RingNo) (n : Seq) (ringBase : DWord) (ringSize : Nat) (s : State) : Answer :=
  s.opRow q n 0x23 fun s o =>
    match s.vencRefused o ringSize with
    | some r => s.refuseOp o r
    | none =>
      if (s.rd LEVEE_ENG_CODEC).testBit (o.fld 18 0 3) then s.finish o stFenced
      else
        ((s.hostRead o (o.fld 56 0 64) 64).setEnc (o.fld 16 0 6)
          { isOpen := true, tenant := o.tenant s, home := o.ring, desc := o.desc, base := ringBase.toNat, size := ringSize,
            qp := o.fld 30 0 8, hist := Config.codecRun (o.fld 17 0 1) (leBytes 22 (o.fld 26 0 176)) }).finish o stOk

/-- VSESSION_CLOSE (R367): once the session's queued work has completed, its marks go and it is closed. -/
def execVsessionClose (q : RingNo) (n : Seq) (s : State) : Answer :=
  s.opRow q n 0x24 fun s o =>
    let k := o.fld 16 0 8
    if o.fld 17 0 1 = 0 then
      let x := s.decSession k
      match s.sessionRefused o x.isOpen false x.tenant x.home k 0 with
      | some r => s.refuseOp o r
      | none =>
        if x.queue.isEmpty && x.active.isNone && x.pics.all (fun p => p.holds.isEmpty) then (s.setDec k {}).finish o stOk
        else s.setDec k { x with closing := true }
    else
      let x := s.encSession k
      match s.sessionRefused o x.isOpen false x.tenant x.home k 1 with
      | some r => s.refuseOp o r
      | none =>
        if x.jobs.isEmpty && x.units.isEmpty && x.flights.isEmpty && x.active.isNone then (s.setEnc k {}).finish o stOk
        else s.setEnc k { x with closing := true }

/-! ### Pipes (R350, R362) -/

/-- A pipe serves a picture of some session. -/
def State.pipeBusy (s : State) (pipe : Nat) : Bool :=
  (s.vid.dec.any fun x => x.2.pipe = pipe && x.2.active.isSome)
  || (s.vid.enc.any fun x => descFld x.2.desc 18 0 3 = pipe && x.2.active.isSome)

/-- Operations that had proceeded on a picture that now has no picture, or a FAILED one, complete with its status. -/
def State.failHolders (s : State) (st : BitVec 12) : List (RingNo × Seq) → State
  | [] => s
  | (q, n) :: hs =>
      (match s.op? q n with
        | some o => if o.stage = OpStage.done then s else s.failOp o st
        | none => s).failHolders st hs

/-- A picture number that ends without a picture: its handle is unheld, and the operations that proceeded on it complete with
SECURITY_DENIED (R360, R361). -/
def State.dropPic (s : State) (k : Nat) (p : Pic) (st : BitVec 12) (dt : BitVec 16) : State :=
  let x := s.decSession k
  let x1 := { (x.setPic { p with st := .noPicture, obs := false, holds := [] }) with
                active := none, bufs := if p.st = .decoding then modBuf x.bufs p.buf (fun b => { b with dec := false, obs := false })
                                        else x.bufs }
  let s1 := (s.setDec k x1).failHolders stDenied p.holds
  match s1.op? p.ring p.seq with
  | some o => s1.finish o st dt (BitVec.ofNat 32 p.num)
  | none => s1

/-- A decode session has a picture that its pipe can take: one is queued, none is on the pipe, and a buffer is free or can never be
(R350, R358). -/
def DecSession.ready (x : DecSession) : Bool :=
  x.isOpen && !x.queue.isEmpty && x.active.isNone && ((freeBuf x.bufs x.nfb).isSome || allRef x.bufs x.nfb)

/-- An encode session has one: an output job has started for it, and its last unit has left for the ring (R374). -/
def EncSession.ready (x : EncSession) : Bool := x.isOpen && !x.jobs.isEmpty && x.active.isNone && x.units.isEmpty

/-- Requesters of a pipe's arbiter: encode session k as 256 + k. -/
def State.pipeBound (s : State) (pipe : Nat) : Nat :=
  (s.vid.dec.filter fun x => x.2.isOpen && x.2.pipe = pipe).length
  + (s.vid.enc.filter fun x => x.2.isOpen && descFld x.2.desc 18 0 3 = pipe).length

def State.pipeWaiting (s : State) (pipe : Nat) : List Nat :=
  (s.vid.dec.filter fun x => x.2.ready && x.2.pipe = pipe).map (·.1)
  ++ (s.vid.enc.filter fun x => x.2.ready && descFld x.2.desc 18 0 3 = pipe).map fun x => 256 + x.1

/-- Bytes of a frame buffer, in Cistern or in the Reservoir, and the status of reading them. -/
def State.bufBytes (s : State) (a n : Nat) : List Byte :=
  if s.masRow a = 1 then s.resvBytes (s.physOf ((a - 0x10000000000) / 0x1000000)) ((a - 0x10000000000) % 0x1000000) n
  else s.cisBytes a n

def State.bufOpen (s : State) (a n : Nat) : Bool := s.masRow a ≠ 0 || s.cisOpen a n

def State.bufStatus (s : State) (a n : Nat) : BitVec 12 :=
  if s.masRow a = 1 then
    let k := resvKey (s.physOf ((a - 0x10000000000) / 0x1000000)) ((a - 0x10000000000) % 0x1000000)
    if s.mem.resvBad.any fun w => decide (0 < n ∧ k / 8 ≤ w ∧ w ≤ (k + n - 1) / 8) then stMemUncorrectable else stOk
  else s.cisStatus a n

/-- A read of a frame buffer, and reads in order until one cannot be done. -/
def State.bufRead (s : State) (part : Option Nat) (a n : Nat) : BitVec 12 × State :=
  if s.masRow a = 0 then s.cisRead part a n else (s.bufStatus a n, s)
def State.bufReadAll (s : State) (part : Option Nat) : List (Nat × Nat) → BitVec 12 × State
  | [] => (stOk, s)
  | (a, n) :: rest =>
      let r := s.bufRead part a n
      if r.1 = stOk then r.2.bufReadAll part rest else r

/-- Partition of a session's stream, which its requests carry (R423); a session that no stream is attached to requests as SYSTEM
(log entry 111). -/
def State.decPart (s : State) (x : DecSession) : Option Nat :=
  if x.attach then some (s.stream (descFld x.desc 20 0 17)).part.toNat else none
def State.encPart (s : State) (x : EncSession) : Option Nat := some (s.stream (descFld x.desc 20 0 17)).part.toNat

/-- The channels of a picture's buffer serve (R429). -/
def State.picOpen (s : State) (x : DecSession) (p : Pic) (g : PicGeom) : Bool :=
  s.bufOpen (x.bufAddr p.buf) (pictureBytes x.pixfmt g.codedW g.codedH)

/-- The access unit of a DECODE: where its bitstream lies (R359). -/
def State.picBits (s : State) (p : Pic) : Nat × Nat :=
  match s.op? p.ring p.seq with
  | some o => (o.fld 24 0 48, o.fld 32 0 26)
  | none => (0, 0)

/-- A session's head picture starts on its pipe: it takes the lowest free buffer, or ends where every buffer carries REF. -/
def State.startPicture (s : State) (k : Nat) (x : DecSession) (p : Pic) : State :=
  match freeBuf x.bufs x.nfb with
  | none => (s.setDec k { x with queue := x.queue.drop 1 }).dropPic k p stDenied dtPool
  | some b =>
      let (a, n) := s.picBits p
      let use := Config.codecRun x.hist (s.bufBytes a n)
      let x1 := x.setPic { p with st := .decoding, buf := b, obs := true, use := use }
      s.setDec k { x1 with queue := x.queue.drop 1, active := some p.num, hist := use,
                           bufs := modBuf x.bufs b (fun f => { f with dec := true, obs := true }) }

/-- PIPE_PICTURE_GRANT (R350): the pipe takes one whole picture of a session that has one ready, where no other session has waited too
long for it (R34). -/
def execPipePictureGrant (pipe : BitVec 4) (session : BitVec 8) (enc : Bool) (s : State) : Answer :=
  s.issue fun s =>
    let q := pipe.toNat
    let k := session.toNat
    let who := if enc then 256 + k else k
    if s.pipeBusy q || !(s.pipeWaiting q).contains who then s
    else match s.arbGrant (arbPipe q) (s.pipeBound q) who (s.pipeWaiting q) with
      | none => s
      | some s1 =>
        if enc then
          let x := s1.encSession k
          s1.setEnc k { x with active := x.jobs.head?.map (·.num) }
        else
          let x := s1.decSession k
          match x.queue.head?.bind x.pic? with
          | some p => s1.startPicture k x p
          | none => s1

/-- A picture's place that its stream may have: the window lies in the decoded area, which lies in the session's largest picture, and
chroma positions are whole. -/
def DecSession.geomOk (x : DecSession) (g : PicGeom) : Bool :=
  decide (0 < g.w ∧ 0 < g.h ∧ g.x + g.w ≤ g.codedW ∧ g.y + g.h ≤ g.codedH ∧ g.codedW ≤ x.maxW ∧ g.codedH ≤ x.maxH
    ∧ 4 ≤ g.blockLog ∧ g.blockLog ≤ 7 ∧ (pixChroma x.pixfmt = true → g.x % 2 = 0 ∧ g.y % 2 = 0))

/-- Planes of the decoded area of a buffer at an address: address, pitch, columns, and rows up to a luma row. -/
def codedPlanes (f a : Nat) (g : PicGeom) (rows : Nat) : List (Nat × Nat × Nat × Nat) :=
  let cw := (g.codedW + 1) / 2
  let cr := if g.codedH ≤ rows then (g.codedH + 1) / 2 else rows / 2
  (a, planePitch f g.codedW, g.codedW, rows)
  :: (if pixChroma f then
        [(a + lumaBytes f g.codedW g.codedH, planePitch f cw, cw, cr),
         (a + lumaBytes f g.codedW g.codedH + chromaBytes f g.codedW g.codedH, planePitch f cw, cw, cr)]
      else [])

/-- Planes of the output window (R355): address, pitch, columns and rows. -/
def windowPlanes (f a : Nat) (g : PicGeom) : List (Nat × Nat × Nat × Nat) :=
  (codedPlanes f a g g.codedH).zipIdx.map fun (p, c) =>
    let k := if c = 0 then 1 else 2
    (p.1 + g.y / k * p.2.1 + g.x / k * pixBytes f, p.2.1, (g.w + k - 1) / k, (g.h + k - 1) / k)

/-- What HEVC and AV1 give is a free value of the model, by what the decoder held and read (log entry 1). -/
def freePicture (use n : Nat) : List Byte := (List.range n).map (Config.codecByte use)

/-- A decoded sample: a byte, or ten bits in a little-endian word. -/
def decodedSample (f use i : Nat) : List Byte :=
  if pixBytes f = 1 then [Config.codecByte use i]
  else [Config.codecByte use (2 * i), Config.codecByte use (2 * i + 1) &&& 3]

/-- A mid-grey sample: 2^(depth-1). -/
def greySample (f _ : Nat) : List Byte := if pixBytes f = 1 then [128] else [0, 2]

/-- A write to a frame buffer, in Cistern or in the Reservoir. -/
def State.bufWrite (s : State) (part : Option Nat) (a : Nat) (bs : List Byte) : State :=
  if s.masRow a = 1 then s.resvWrite (s.physOf ((a - 0x10000000000) / 0x1000000)) ((a - 0x10000000000) % 0x1000000) bs
  else s.cisSend part a bs

/-- The decoded area's rows from one luma row to another written in raster order (R362), each sample by its plane's place. -/
def State.writePicture (s : State) (part : Option Nat) (f a : Nat) (g : PicGeom) (r0 r1 : Nat) (sample : Nat → List Byte) : State :=
  ((codedPlanes f a g r1).zip (codedPlanes f a g r0)).foldl (fun (s : State) (p : (Nat × Nat × Nat × Nat) × (Nat × Nat × Nat × Nat)) =>
    ((List.range p.1.2.2.2).drop p.2.2.2.2).foldl (fun (s : State) (y : Nat) =>
      let row := p.1.1 + y * p.1.2.1
      s.bufWrite part row ((List.range p.1.2.2.1).flatMap fun c => sample ((row - a) / pixBytes f + c))) s) s

/-- Decoded rows that stand once a count of the window's rows is final. -/
def codedRows (g : PicGeom) (rows : Nat) : Nat := if g.h ≤ rows then g.codedH else if rows = 0 then 0 else g.y + rows

/-- A decode's rows up to a count of the output window written. -/
def State.decodeRows (s : State) (x : DecSession) (p : Pic) (g : PicGeom) (rows : Nat) : State :=
  s.writePicture (s.decPart x) x.pixfmt (x.bufAddr p.buf) g (codedRows g p.rows) (codedRows g rows) (decodedSample x.pixfmt p.use)

/-- ROW_TOKEN (R42, R362): the rows of the next block row have been written and are final; an attached session that is not DIRECT tells
the headworks engine with the handle and the count of final rows. -/
def execRowToken (session : BitVec 8) (rows : Nat) (geom : PicGeom) (s : State) : Answer :=
  s.issue fun s =>
    let k := session.toNat
    let x := s.decSession k
    match x.active.bind x.pic? with
    | none => s
    | some p =>
        let g := p.geom.getD geom
        if !x.geomOk g || g ≠ geom || !decide (p.rows < rows ∧ rows ≤ g.h) || !s.picOpen x p g then s
        else
          let s1 := s.decodeRows x p g rows
          let s2 := s1.setDec k (x.setPic { p with rows := rows, geom := some g })
          if x.attach && !x.direct then s2.emit (.rowToken (s2.defaultPipe (descFld x.desc 20 0 17)) (p.num * 256 + k) rows) else s2

/-! ### The end of a decode (R361, R364, R365) -/

/-- The picture record (R364). -/
def State.pictureRecord (s : State) (x : DecSession) (k : Nat) (p : Pic) (i : DecodeInfo) (failed : Bool) : List Byte :=
  let f := x.pixfmt
  let planes := windowPlanes f (x.bufAddr p.buf) i.geom
  let plane := fun (c : Nat) => planes.getD c (0, 0, 0, 0)
  let b := fun (c : Bool) (n : Nat) => if c then 2 ^ n else 0
  let flags := b i.concealed 0 + b (i.concealedRef || x.concealedRef && !i.key) 1
    + b (i.hashMismatch && descFld x.desc 17 2 1 = 1) 2 + b i.grain 3 + b failed 4 + b i.key 5
  leBytes 4 (p.num * 256 + k) ++ leBytes 2 (i.geom.w - 1) ++ leBytes 2 (i.geom.h - 1) ++ leBytes 1 f ++ leBytes 1 p.buf
  ++ leBytes 2 flags ++ leBytes 4 i.order.toNat ++ leBytes 8 (plane 0).1 ++ leBytes 8 (plane 1).1 ++ leBytes 8 (plane 2).1
  ++ leBytes 4 (plane 0).2.1 ++ leBytes 4 (plane 1).2.1
  ++ leBytes 8 (s.rd CODEC_GAUGE_VALUE) ++ leBytes 8 0

/-- References as the bitstream leaves them (R357). -/
def refMarks (bufs : Sparse FrameBuf) (drops : List Nat) : Sparse FrameBuf :=
  drops.foldl (fun m b => modBuf m b fun f => { f with ref := f.ref - 1 }) bufs

/-- The fence policy on a pipe (R584): at two pictures ended under R376, while AUTO is 1 and the pipe's seep has not FIRED (R579). -/
def State.pipeFailed (s : State) (pipe : Nat) : State :=
  if !s.flag LEVEE_POLICY_AUTO || s.flag CODEC_SEEP_FIRED pipe then s
  else
    let k := 16 + pipe
    let c := sget 0 s.lev.engineFails k + 1
    let s1 := { s with lev := { s.lev with engineFails := sput 0 s.lev.engineFails k c } }
    if 2 ≤ c && !(s1.rd LEVEE_ENG_CODEC).testBit pipe then
      ((s1.wr LEVEE_ENG_CODEC 0 (s1.rd LEVEE_ENG_CODEC ||| 2 ^ pipe)).recordReg .leveeEng 0).raise evFenced
    else s1

/-- Pictures queued on a decode session of a fenced pipe complete with FENCED_RESOURCE (R584). -/
def State.fenceQueue (s : State) (k : Nat) : List Nat → State
  | [] => s
  | num :: rest =>
      let act := (s.decSession k).active
      let s1 := match (s.decSession k).pic? num with
        | some p => s.dropPic k p stFenced 0
        | none => s
      (s1.setDec k { s1.decSession k with active := act }).fenceQueue k rest

/-- Operations whose frames wait for the encoder of a fenced pipe complete with FENCED_RESOURCE. -/
def State.fenceJobs (s : State) : List EncJob → State
  | [] => s
  | j :: js =>
      (match s.op? j.ring j.seq with
        | some o => if o.stage = OpStage.done then s else s.failOp o stFenced
        | none => s).fenceJobs js

/-- The sessions of the pipes that LEVEE_ENG fences complete their queued work (R584); a picture on the pipe runs to its end. -/
def State.fenceDecoders (s : State) : List Nat → State
  | [] => s
  | k :: ks =>
      let x := s.decSession k
      (if (s.rd LEVEE_ENG_CODEC).testBit x.pipe then (s.setDec k { x with queue := [] }).fenceQueue k x.queue else s).fenceDecoders ks

def State.fenceEncoders (s : State) : List Nat → State
  | [] => s
  | k :: ks =>
      let x := s.encSession k
      let gone := x.jobs.filter fun (j : EncJob) => x.active ≠ some j.num
      (if (s.rd LEVEE_ENG_CODEC).testBit (descFld x.desc 18 0 3) && !gone.isEmpty then
        let bufs := gone.foldl (fun (m : Sparse FrameBuf) (j : EncJob) => modBuf m j.buf fun b => { b with src := false }) x.bufs
        let keep := x.jobs.filter fun (j : EncJob) => x.active = some j.num
        (s.setEnc k { x with jobs := keep, bufs := bufs, forceKey := true }).fenceJobs gone
      else s).fenceEncoders ks

def State.fencePipes (s : State) : State :=
  if s.rd LEVEE_ENG_CODEC = 0 then s
  else (s.fenceDecoders (s.vid.dec.map (·.1))).fenceEncoders (s.vid.enc.map (·.1))

/-- Status of a unit whose check has failed twice (R376, R578): the line buffers carry SECDED, the other units residues, parity or a
CRC. -/
def codecStatus (unit : Nat) : BitVec 12 := if unit = 4 then stMemUncorrectable else stFurrowResidue

/-- CODEC_LOG (R377). -/
def State.codecLog (s : State) (pipe k enc unit row : Nat) (ok : Bool) : State :=
  s.logFirst CODEC_LOG_VALID pipe [(CODEC_LOG_SESSION, k), (CODEC_LOG_ENC, enc), (CODEC_LOG_UNIT, unit), (CODEC_LOG_ROW, row),
    (CODEC_LOG_RETRY_OK, if ok then 1 else 0)]

/-- A check of a pipe failed once and passed on the retry, or failed twice (R376). -/
def State.codecRetried (s : State) (pipe k enc unit row : Nat) : State :=
  (s.bump ctrCodecRetried pipe).codecLog pipe k enc unit row true
def State.codecFailed (s : State) (pipe k enc unit row : Nat) : State :=
  ((s.bump ctrCodecFailed pipe).codecLog pipe k enc unit row false).pipeFailed pipe

/-- Block rows of a picture, the events a pipe's seep counts (R377). -/
def geomBlocks (g : PicGeom) : Nat := (g.codedH + 2 ^ g.blockLog - 1) / 2 ^ g.blockLog

/-- The buffers that the frames of an access unit not shown take, lowest first: none where too few are free. -/
def hideFrames (bufs : Sparse FrameBuf) (nfb : Nat) : List Nat → Option (Sparse FrameBuf)
  | [] => some bufs
  | n :: ns => (freeBuf bufs nfb).bind fun b => hideFrames (modBuf bufs b fun f => { f with ref := n }) nfb ns

/-- Buffers as the frames not shown and the dropped references leave them. -/
def DecSession.frameMarks (x : DecSession) (i : DecodeInfo) : Sparse FrameBuf :=
  (hideFrames (refMarks x.bufs i.dropRefs) x.nfb i.hidden).getD (refMarks x.bufs i.dropRefs)

/-- A show_existing_frame (R357): the picture is what the buffer it names holds, and the buffer taken for it is free again. -/
def DecSession.showExisting (x : DecSession) (p : Pic) (i : DecodeInfo) : DecSession × Pic :=
  match i.existing with
  | none => (x, p)
  | some b =>
      let p1 := { p with buf := b, rows := i.geom.h }
      let bufs := modBuf (modBuf x.bufs p.buf fun f => { f with dec := false, obs := false }) b fun f => { f with obs := true }
      ({ (x.setPic p1) with bufs := bufs }, p1)

/-- The decode's picture complete or FAILED: marks, record, counters, completion, and the operations that wait on it. -/
def State.endPicture (s : State) (k : Nat) (x : DecSession) (p : Pic) (i : DecodeInfo) (st : BitVec 12) : State :=
  let failed := st ≠ stOk
  let bufs := modBuf (x.frameMarks i) p.buf fun f => { f with dec := false, ref := f.ref + i.refs }
  let p1 := { p with st := if failed then .failed else .done, geom := some i.geom, status := st, rows := i.geom.h,
                     holds := if failed then [] else p.holds }
  let x1 := { (x.setPic p1) with
                active := none, bufs := bufs, seenKey := true
                concealedRef := (failed || i.concealed || i.concealedRef || x.concealedRef) && !(i.key && !failed && !i.concealed) }
  let s1 := s.setDec k x1
  let s2 := if failed then s1.writePicture (s1.decPart x) x.pixfmt (x.bufAddr p.buf) i.geom 0 i.geom.codedH (greySample x.pixfmt)
            else s1.decodeRows x p i.geom i.geom.h
  let s3 := s2.bump ctrPicsDecoded x.pipe
  let s4 := if i.concealed then s3.bump ctrConcealed x.pipe else s3
  let s5 := if i.hashMismatch && descFld x.desc 17 2 1 = 1 then s4.bump ctrHashMismatch x.pipe else s4
  let s6 := match i.retried with
    | some (u, r) => s5.codecRetried x.pipe k 0 u r.toNat
    | none => s5
  let last := x.attach && !x.direct && !failed && decide (p.rows < i.geom.h)
  let s7 := if failed then s6.failHolders st p.holds
    else if last then s6.emit (.rowToken (s6.defaultPipe (descFld x.desc 20 0 17)) (p.num * 256 + k) i.geom.h) else s6
  match s7.op? p.ring p.seq with
  | none => s7
  | some o =>
    let s8 := s7.finish o st 0 (BitVec.ofNat 32 p.num)
    if o.fld 40 0 64 = 0 then s8 else s8.hostWrite o (o.fld 40 0 64) (s7.pictureRecord x k p i failed)

/-- DECODE_DONE (R361, R364, R365): `info` is what the pipe found in the access unit. -/
def execDecodeDone (session : BitVec 8) (i : DecodeInfo) (s : State) : Answer :=
  s.issue fun s =>
    let k := session.toNat
    let x := s.decSession k
    match x.active.bind x.pic? with
    | none => s
    | some p =>
      let (a, n) := s.picBits p
      if (hideFrames (refMarks x.bufs i.dropRefs) x.nfb i.hidden).isNone || !s.bufOpen a n || !s.picOpen x p i.geom then s
      else match i.outcome with
      | .noPicture => (s.setDec k { x with bufs := x.frameMarks i }).dropPic k p stOkEmpty 0
      | .unsupported => s.dropPic k p stDenied dtUnsupported
      | .poolFull => s.dropPic k p stDenied dtPool
      | _ =>
        if x.maxW < i.geom.codedW ∨ x.maxH < i.geom.codedH then s.dropPic k p stDenied dtUnsupported
        else if !x.geomOk i.geom || (p.geom.any fun g => g ≠ i.geom) then s
        else
        let read := s.bufRead (s.decPart x) a n
        let s := read.2
        if read.1 ≠ stOk then s.endPicture k x p i read.1
        else match i.outcome with
        | .checkFailed u r => ((s.codecFailed x.pipe k 0 u r.toNat).endPicture k x p i (codecStatus u)).fencePipes
        | .picture =>
          if !x.seenKey && !i.key then s.dropPic k p stOkEmpty 0
          else
            let (x1, p1) := x.showExisting p i
            let h := s.seepEvents .codec x.pipe (if i.existing.isSome then 0 else geomBlocks i.geom) fun w => seepTarget .codec w < 5
            match h.hit with
            | none => h.st.endPicture k x1 p1 i stOk
            | some (e, w) =>
                let u := seepTarget .codec w
                let row := e * 2 ^ i.geom.blockLog
                if seepPersists w then ((h.st.codecFailed x.pipe k 0 u row).endPicture k x p i (codecStatus u)).fencePipes
                else (h.st.codecRetried x.pipe k 0 u row).endPicture k x p { i with retried := none } stOk
        | _ => s.endPicture k x p i stMemUncorrectable

/-! ### Observation handles (R360) -/

/-- Session and picture number of a handle. -/
def handleSession (h : Nat) : Nat := h % 256
def handlePic (h : Nat) : Nat := h / 256

/-- How an operation of a stream meets a handle: a status it completes with, or none when it proceeds. -/
def State.handleRefused (s : State) (o : Op) (tenant : TenantNo) (h : Nat) : Refused :=
  let x := s.decSession (handleSession h)
  if !x.isOpen then deny
  else if x.tenant ≠ tenant then deny dtTenant
  else match x.pic? (handlePic h) with
    | none => deny
    | some p =>
        if p.st = .failed then some (p.status, 0)
        else if p.st = .pending then none
        else if p.st = .noPicture then deny
        else if p.obs then none
        else if p.holds.contains (o.ring, o.seq) then none else deny

/-- The picture held by an operation that has proceeded on its handle. -/
def State.holdPic (s : State) (o : Op) (h : Nat) : State :=
  let k := handleSession h
  let x := s.decSession k
  match x.pic? (handlePic h) with
  | some p => s.setDec k (x.setPic { p with holds := p.holds ++ [(o.ring, o.seq)] })
  | none => s

/-- The operation's read of a picture has completed: the hold goes, and a release that waited takes effect. -/
def State.unholdPic (s : State) (q : RingNo) (n : Seq) (k num : Nat) : State :=
  let x := s.decSession k
  match x.pic? num with
  | none => s
  | some p =>
      let p1 := { p with holds := p.holds.filter fun h => h ≠ (q, n) }
      let x1 := x.setPic p1
      s.setDec k (if p1.release then x1.releasePic p1 else x1)

/-- AUTOREL (R357, R359): the first operation that names the picture has completed, so OBS is cleared. -/
def State.autoRelease (s : State) (h : Nat) : State :=
  let k := handleSession h
  let x := s.decSession k
  match x.pic? (handlePic h) with
  | some p => if p.autorel then s.setDec k (x.releasePic p) else s
  | none => s

/-! ### Encoding (R369 to R375) -/

def EncSession.f (x : EncSession) (b lo w : Nat) : Nat := descFld x.desc b lo w

/-- Removal time and fullness of a picture (R370). -/
def EncSession.removal (x : EncSession) (n : Nat) : Nat := x.f 40 0 32 + n * x.f 44 0 32
def EncSession.arrived (x : EncSession) (n : Nat) : Nat := x.f 32 0 32 * x.removal n / 27000000

/-- Bits taken before picture n, with what a full buffer under VBR did not store (R370). -/
def EncSession.takenAt (x : EncSession) (n : Nat) : Nat :=
  if x.f 26 0 2 = 2 ∧ x.f 36 0 32 < x.arrived n - x.taken then x.arrived n - x.f 36 0 32 else x.taken

def EncSession.fullness (x : EncSession) (n : Nat) : Nat := x.arrived n - x.takenAt n

/-- Step by which a re-encode raises the quantiser (R370). -/
def EncSession.qpStep (x : EncSession) : Nat := if x.f 17 0 1 = 0 then 6 else 24

/-- The attempts of R370 in order: bits, quantiser, how many were coded, or none where no attempt fitted. -/
def EncSession.tryAttempts (x : EncSession) (full : Nat) (qp used : Nat) : List EncodeAttempt → Option (Nat × Nat × Nat)
  | [] => none
  | a :: rest =>
      if x.f 26 0 2 = 0 ∨ a.bits ≤ full then some (a.bits, qp, used + 1)
      else x.tryAttempts full (min (qp + x.qpStep) (x.f 29 0 8)) (used + 1) rest

/-- Excess over CPB that CBR fills, in whole bytes rounded up (R370). -/
def EncSession.filler (x : EncSession) (n b : Nat) : Nat :=
  if x.f 26 0 2 = 1 then (x.fullness n - b + x.f 32 0 32 * x.f 44 0 32 / 27000000 - x.f 36 0 32 + 7) / 8 else 0

/-- The quantiser of the rate rule, which depends on the session's parameters and history alone (R372): a free value within
QPMIN and QPMAX; CQP keeps QPINIT (log entry 1). -/
def EncSession.rateQp (x : EncSession) (free : Nat) : Nat :=
  if x.f 26 0 2 = 0 then x.f 30 0 8 else min (x.f 29 0 8) (max (x.f 28 0 8) free)

/-- The picture is at a key position (R368, R354). -/
def EncSession.keyNow (x : EncSession) (j : EncJob) : Bool :=
  x.forceKey || (x.f 26 4 1 = 1 && j.frame = 1) || (x.f 27 4 4 ≠ 0 && x.sinceKey + 1 ≥ 2 ^ x.f 27 4 4)

/-- How many of the attempts are coded (R370). -/
def EncSession.coded (x : EncSession) (full : Nat) (attempts : List EncodeAttempt) : Nat :=
  match x.tryAttempts full 0 0 attempts with
  | some (_, _, u) => u
  | none => attempts.length

/-- An encode that failed (R375): the ROLLOUT completes with the status, and the session's next picture is a key picture. -/
def State.encodeFailed (s : State) (k : Nat) (x : EncSession) (j : EncJob) (st : BitVec 12) : State :=
  let x1 := { x with jobs := x.jobs.drop 1, active := none, forceKey := true, nextPic := x.nextPic
                     bufs := modBuf x.bufs j.buf (fun b => { b with src := false }) }
  let s1 := s.setEnc k x1
  match s1.op? j.ring j.seq with
  | some o => if o.stage = .done then s1 else s1.failOp o st
  | none => s1

/-- Output program of the model whose frames a session encodes, and what it says of the pictures (R368). -/
def State.encProg (s : State) (x : EncSession) : Nat := ((s.model? (s.stream (x.f 20 0 17)).model.toNat).map (·.outProg)).getD 0

/-- Address and bytes of a buffer of an encode session. -/
def State.encBuf (s : State) (x : EncSession) (b : Nat) : Nat × Nat :=
  let prog := s.encProg x
  let n := pictureBytes (s.progFmt prog) (s.progW prog) (s.progH prog)
  (x.f 48 0 48 + b * roundUp n 4096, n)

/-- A picture's source and its references. -/
def State.encReads (s : State) (x : EncSession) (j : EncJob) : List (Nat × Nat) := (j.buf :: x.refs).map (s.encBuf x)

/-- A picture coded: its unit waits for the output ring, its marks and the session's references follow, and the receiver's buffer loses
its bits (R357, R370). -/
def State.encodeAccepted (s : State) (k : Nat) (x : EncSession) (j : EncJob) (b qp used : Nat) (dropped : Bool) : State :=
  let pipe := x.f 18 0 3
  let key := x.keyNow j
  let fill := x.filler j.num b
  let u : EncUnit := { ring := j.ring, seq := j.seq, frame := j.frame, num := j.num, bytes := (b + 7) / 8 + fill, filler := fill,
                       key := key, reenc := 2 ≤ used, dropped := dropped, qp := qp, trem := x.removal j.num }
  let refs := (if key then [] else x.refs) ++ [j.buf]
  let kept := refs.drop (refs.length - x.f 27 0 4)
  let gone := (x.refs ++ [j.buf]).filter fun c => !kept.contains c
  let bufs := gone.foldl (fun m c => modBuf m c fun f => { f with ref := 0 })
    (modBuf x.bufs j.buf fun f => { f with src := false, ref := 1 })
  let src := s.encBuf x j.buf
  let x1 := { x with jobs := x.jobs.drop 1, active := none, units := x.units ++ [u], taken := x.takenAt j.num + b + 8 * fill
                     forceKey := false, sinceKey := if key then 0 else x.sinceKey + 1, qp := qp, refs := kept, bufs := bufs
                     hist := Config.codecRun x.hist (s.bufBytes src.1 src.2) }
  let s1 := ((s.setEnc k x1).bump ctrPicsEncoded pipe).bump ctrFillerBytes pipe fill
  let s2 := if 2 ≤ used then s1.bump ctrReencodes pipe (used - 1) else s1
  if dropped then s2.bump ctrDropped pipe else s2

/-- ENCODE_PICTURE (R370, R371, R375, R376): `attempts` are what the encoder reaches at each quantiser in turn, as many as R370 asks for;
a failed check is re-run once at the same quantiser. -/
def execEncodePicture (session : BitVec 6) (attempts : List EncodeAttempt) (readOk : Bool) (s : State) : Answer :=
  s.issue fun s =>
    let k := session.toNat
    let x := s.encSession k
    match x.active, x.jobs with
    | some num, j :: _ =>
      let pipe := x.f 18 0 3
      let full := x.fullness j.num
      let tries := attempts.take (x.f 26 2 2 + 1)
      let qp := x.rateQp x.hist
      let r := x.tryAttempts full qp 0 tries
      let read := s.bufReadAll (s.encPart x) (s.encReads x j)
      if num ≠ j.num || !j.packed || (r.isNone && tries.length ≤ x.f 26 2 2) || !(s.encReads x j).all (fun y => s.bufOpen y.1 y.2) then s
      else if !readOk || read.1 ≠ stOk then
        read.2.encodeFailed k x j (if read.1 = stOk then stMemUncorrectable else read.1)
      else
        let s := read.2
        let used := tries.take (x.coded full tries)
        match used.findSome? (·.failed) with
        | some (u, row) => ((s.codecFailed pipe k 1 u row.toNat).encodeFailed k x j (codecStatus u)).fencePipes
        | none =>
          let blocks := (s.progH (s.encProg x) + 63) / 64
          let h := s.seepEvents .codec pipe (used.length * blocks)
          let s1 := match used.findSome? (·.retried) with
            | some (u, row) => h.st.codecRetried pipe k 1 u row.toNat
            | none => h.st
          let done := fun (s : State) => match r with
            | some (b, q, n) => s.encodeAccepted k x j b q n false
            | none =>
                let flat := flatBits (s.progW (s.encProg x)) (s.progH (s.encProg x))
                { (s.encodeAccepted k x j (min flat (Config.freeNat s.freeIdx)) (min (qp + x.qpStep) (x.f 29 0 8)) tries.length true)
                    with freeIdx := s.freeIdx + 1 }
          match h.hit with
          | none => done s1
          | some (e, w) =>
              let u := seepTarget .codec w
              let row := e % blocks * 64
              if seepPersists w then ((h.st.codecFailed pipe k 1 u row).encodeFailed k x j (codecStatus u)).fencePipes
              else done (s1.codecRetried pipe k 1 u row)
    | _, _ => s

/-- Free bytes of the output ring, keeping one 32-byte header's room between write and read offset. -/
def ringFree (size w r : Nat) : Nat := (r + size - w - 1) % size

/-- The 32-byte header of an access unit (R373). -/
def unitHeader (u : EncUnit) (size : Nat) (pad : Bool) : List Byte :=
  let b := fun (c : Bool) (n : Nat) => if c then 2 ^ n else 0
  leBytes 4 size ++ leBytes 4 u.seq.toNat ++ leBytes 2 u.frame
  ++ leBytes 1 (if pad then 8 else b u.key 0 + b u.reenc 1 + b u.dropped 2) ++ leBytes 1 u.qp ++ leBytes 4 u.num
  ++ leBytes 8 u.trem ++ leBytes 4 u.filler ++ leBytes 4 0

/-- The operation that a unit's host writes belong to; a write of a unit whose ROLLOUT has ended stands alone (R375). -/
def State.unitOp (s : State) (u : EncUnit) : Op := (s.op? u.ring u.seq).getD { ring := u.ring, seq := u.seq, desc := 0 }

/-- ENCODE_RING_WRITE (R373, R374): the first waiting unit is written whole behind its header when the ring has room and, with
PACE set, no earlier than its final arrival time; `readOff` is the host read offset. The write offset advances once the unit's writes
have been acknowledged (`State.unitAcked`). -/
def execEncodeRingWrite (session : BitVec 6) (readOff : Nat) (s : State) : Answer :=
  s.issue fun s =>
    let k := session.toNat
    let x := s.encSession k
    match x.units with
    | [] => s
    | u :: rest =>
      let now := s.rd CODEC_GAUGE_VALUE
      let paced := x.f 26 5 1 = 1 && x.f 32 0 32 ≠ 0 && x.firstWrite.any fun t => decide (now - t < x.taken * 27000000 / x.f 32 0 32)
      let pad := x.size < x.writeOff + 32 + u.bytes
      let tail := x.size - x.writeOff
      let need := 32 + u.bytes + (if pad then tail else 0)
      if paced then s
      else if x.size = 0 || decide (ringFree x.size x.writeOff readOff < need) then s.setEnc k { x with ringWait := true }
      else
        let o := s.unitOp u
        let use := TagUse.unit k u.num
        let s1 := if pad then s.hostWrite o (x.base + x.writeOff) (unitHeader u (tail - 32) true) use else s
        let w := if pad then 0 else x.writeOff
        let s2 := s1.hostWrite o (x.base + w) (unitHeader u u.bytes false ++ freePicture x.hist u.bytes) use
        let w2 := (w + 32 + u.bytes) % x.size
        s2.setEnc k { x with units := rest, writeOff := w2, ringWait := false, firstWrite := some (x.firstWrite.getD now)
                             flights := x.flights ++ [(u.num, w2)] }

/-! ### Waits (R378) -/

/-- A session of a pipe waits for a free buffer under R358: a picture queued for decoding, or an output job. -/
def State.bufferWaits (s : State) (pipe : Nat) : Bool :=
  (s.vid.dec.any fun x => x.2.isOpen && x.2.pipe = pipe && !x.2.queue.isEmpty && x.2.active.isNone && !x.2.ready)
  || (s.rot.parts.any fun y => y.2.outJobs.any fun (w : OutPend) =>
        let x := s.encSession w.session
        x.isOpen && x.f 18 0 3 = pipe && (freeBuf x.bufs (x.f 19 0 6)).isNone)

/-- A session of a pipe waits for space in its output ring under R374. -/
def State.ringWaits (s : State) (pipe : Nat) : Bool := s.vid.enc.any fun x => x.2.ringWait && x.2.f 18 0 3 = pipe

/-- WAIT_BUFFER and WAIT_RING of the pipes from a number down count one 27 MHz period. -/
def State.countVideoWaits (s : State) : Nat → State
  | 0 => s
  | n + 1 =>
      let s1 := if s.bufferWaits n then s.bump ctrWaitBuffer n else s
      (if s1.ringWaits n then s1.bump ctrWaitRing n else s1).countVideoWaits n

end Sys2Proof.Machine
end

