-- ==== Sys2Proof/Machine/Levee.lean ====
section
/-! DEFINITION. The levee as firmware works it (R583 to R586, R156): fences, relocation onto spares, stranded partitions, and the
evidence that the fence policy acts on. -/

namespace Sys2Proof.Machine

/-! ### Stranded partitions (R586) -/

/-- Operations named in a list of chunks complete with FENCED_RESOURCE. -/
def State.strandOps (s : State) (detail : Nat) : List Chunk → State
  | [] => s
  | c :: cs =>
      (match s.op? c.ring c.seq with
        | some o => if o.stage = OpStage.done then s else s.failOp o stFenced (BitVec.ofNat 16 detail)
        | none => s).strandOps detail cs

/-- A partition that a fence has stranded drops its queue; one whose plots are whole again is stranded no longer. -/
def State.checkStranding (s : State) (p : Nat) : State :=
  let x := s.part p
  match s.strandingPlot p with
  | none => if x.stranded then s.setPart p { x with stranded := false } else s
  | some l =>
      if x.stranded then s
      else (s.setPart p { x with stranded := true }).strandOps l x.chunks

/-! ### Relocation (R156, R157, R254) -/

/-- Spare plots: column 16, one to a row (R17). -/
def spareOf (row : Nat) : Nat := 32 * 16 + row

/-- A spare is free: unmapped, not fenced, not under test. -/
def State.spareFree (s : State) (q : Nat) : Bool :=
  (s.logOf q).isNone && !s.flag LEVEE_PLOT_FLUME q && !s.flag LEVEE_PLOT_PLOT q && !s.flag LEVEE_PLOT_TEST q

/-- The spare that takes a plot's place: that of its own row, else the free one of lowest index. -/
def State.spareFor (s : State) (p : Nat) : Option Nat :=
  if s.spareFree (spareOf (p % 32)) then some (spareOf (p % 32))
  else (List.range 32).findSome? fun r => if s.spareFree (spareOf r) then some (spareOf r) else none

/-- The bytes of one column copied over those of another. -/
def copyColumn (m : List Host.Cell) (p q : Nat) : List Host.Cell :=
  let inCol := fun (k : Nat) (c : Nat) => decide (2 ^ 24 * c ≤ k ∧ k < 2 ^ 24 * (c + 1))
  let rest := m.filter fun x => !inCol x.1 q
  (m.filter fun x => inCol x.1 p).foldl (fun r x => sput (0 : Byte) r (2 ^ 24 * q + x.1 % 2 ^ 24) x.2) rest

/-- The old column reads without error: neither is the whole plot fenced nor does a word fail (R156 step 5, R583). -/
def State.columnReads (s : State) (p : Nat) : Bool := !s.flag LEVEE_PLOT_PLOT p && !s.mem.resvBad.any fun w => w / 2 ^ 21 = p

/-- What a plot leaves behind and what its successor takes over: the column, where it reads, and which lifts it holds; where it does not,
they are absent. The old plot keeps its accumulators for the diagnostic read (R153); early tokens it had already taken are dropped (DESIGN
CHOICE, log entry 112). -/
def State.moveColumn (s : State) (p q : Nat) : State :=
  let ok := s.columnReads p
  let old := sget ({} : Plot) s.plots p
  let now := sget ({} : Plot) s.plots q
  let m := { s.mem with resv := copyColumn s.mem.resv p q, fog := sput 0 s.mem.fog q (sget 0 s.mem.fog p),
                        resvBad := s.mem.resvBad.filter fun w => w / 2 ^ 21 ≠ q }
  let resident := if ok then old.resident else []
  let fresh : Plot := if now.loaded then { now with resident := resident } else { resident := resident }
  let plots := sput ({} : Plot) (sput ({} : Plot) s.plots p { old with resident := [], early := [] }) q fresh
  if ok then { s with mem := m, plots := plots } else { s with plots := plots }

/-- A logical plot moved from a physical plot to a spare (R156 steps 4 to 7). -/
def State.relocateTo (s : State) (l p q : Nat) : State :=
  let s1 := s.moveColumn p q
  let owed := s1.sfu.owed.map fun k => if k = p then q else k
  let s2 := { s1 with sfu := { s1.sfu with owed := owed } }
  let s3 := (s2.wr SFU_PLOT_CTL_BANK q (s2.rd SFU_PLOT_CTL_BANK p)).wr SFU_PLOT_CTL_ROUTE q (s2.rd SFU_PLOT_CTL_ROUTE p)
  let held := s3.canal.map fun (t : Token) => if t.pplot = p then { t with pplot := q } else t
  let s4 := (((({ s3 with canal := held } : State).wr MAP_ENTRY_PX l (q / 32)).wr MAP_ENTRY_PY l (q % 32)).recordReg .mapEntry l).recordReg
    .sfuPlotCtl q
  match s4.partOf l with
  | some k => s4.setPart k { s4.part k with forceCold := true }
  | none => s4

/-- A running plot test ends without a verdict (R591). -/
def State.abandonTest (s : State) (q : Nat) : State :=
  let s1 := (s.wr LEVEE_PLOT_TEST q 0).recordReg .leveePlot q
  if s1.flag PLOT_TEST_BUSY && s1.lev.testPlot = q then
    ((s1.wr PLOT_TEST_BUSY 0 0).wr PLOT_TEST_RESULT 0 3).raise evTestDone
  else s1

/-- A spare that only a plot test keeps from use (R591). -/
def State.testedSpare (s : State) : Option Nat :=
  (List.range 32).findSome? fun r =>
    let q := spareOf r
    if (s.logOf q).isNone && !s.flag LEVEE_PLOT_FLUME q && !s.flag LEVEE_PLOT_PLOT q then some q else none

/-- Firmware relocates the logical plot of a fenced physical plot, or raises SPARES_OUT (R586). -/
def State.relocate (s : State) (p : Nat) : State :=
  match s.logOf p with
  | none => s
  | some l =>
      match s.spareFor p with
      | some q => s.relocateTo l p q
      | none =>
        match s.testedSpare with
        | some q => (s.abandonTest q).relocateTo l p q
        | none =>
          let s1 := s.raise evSparesOut
          match s1.partOf l with
          | some k => s1.checkStranding k
          | none => s1

/-- A fence set on a flume or a whole plot, recorded, and its logical plot moved. -/
def State.fencePlot (s : State) (p : Nat) (whole : Bool) : State :=
  let s1 := (s.wr (if whole then LEVEE_PLOT_PLOT else LEVEE_PLOT_FLUME) p 1).recordReg .leveePlot p
  (s1.raise evFenced).relocate p

/-- The partition whose slot a physical plot belongs to. -/
def State.plotPart (s : State) (p : Nat) : Option Nat := (s.logOf p).bind s.partOf

/-- What the policy asked for at a plot, done. -/
def State.fenceDone (s : State) (p : Nat) : FenceKind → State
  | .flume => s.fencePlot p false
  | .whole => s.fencePlot p true
  | .move => s.relocate p

/-- Fences and relocations that wait for their slots to end are made where the slot has ended. -/
def State.fencePending (s : State) : List (Nat × FenceKind) → State
  | [] => s
  | (p, k) :: rest =>
      let idle : Bool := match s.plotPart p with
        | some i => decide ((s.part i).slot.phase = .idle)
        | none => true
      let s1 : State := if idle then ({ s with lev := { s.lev with pend := s.lev.pend.erase (p, k) } }).fenceDone p k else s
      s1.fencePending rest

/-- What the policy asks for stands already. -/
def State.fenceStands (s : State) (p : Nat) : FenceKind → Bool
  | .flume => s.flag LEVEE_PLOT_FLUME p
  | .whole => s.flag LEVEE_PLOT_PLOT p
  | .move => (s.logOf p).isNone

/-- The fence policy asks for a fence or a relocation (R584): it waits for the end of a running slot (R156). -/
def State.askFence (s : State) (p : Nat) (k : FenceKind) : State :=
  if s.fenceStands p k || s.lev.pend.contains (p, k) then s
  else
    let s1 := { s with lev := { s.lev with pend := s.lev.pend ++ [(p, k)] } }
    s1.fencePending s1.lev.pend

/-! ### Runnel fences (R158, R583) -/

/-- Bits set in a word. -/
def popCount (v : DWord) : Nat := ((List.range 64).filter v.getLsbD).length

/-- RUN_FENCED follows the runnel fences of a plot. -/
def State.countRunFences (s : State) (p : Nat) : State :=
  s.wr LEVEE_PLOT_RUN_FENCED p (popCount (s.reg .leveeRunLo p) + popCount (s.reg .leveeRunHi p))

/-- The partition of a physical plot loads cold at its next load (R152). -/
def State.coldNext (s : State) (p : Nat) : State :=
  match s.plotPart p with
  | some k => s.setPart k { s.part k with forceCold := true }
  | none => s

/-- Firmware fences a runnel, recorded; the plot's next load is cold, and the fifth fenced runnel moves its logical plot (R22, R584). -/
def State.fenceRunnel (s : State) (p r : Nat) : State :=
  let k := if r < 64 then RegKind.leveeRunLo else RegKind.leveeRunHi
  let v := s.reg k p
  if v.getLsbD (r % 64) then s
  else
    let s1 := ((((s.setReg k p (v ||| BitVec.ofNat 64 (2 ^ (r % 64)))).recordReg k p).countRunFences p).coldNext p).raise evFenced
    if 5 ≤ s1.rd LEVEE_PLOT_RUN_FENCED p then s1.askFence p .move else s1

/-! ### Evidence (R584) -/

/-- The policy acts on a failure of a unit: AUTO is 1 and the unit's seep has not FIRED (R579). -/
def State.policyActs (s : State) (seep : Fld) (n : Nat) : Bool := s.flag LEVEE_POLICY_AUTO && !s.flag seep n

/-- A pass of a flume ended with FLUME_CHECK, or was retried: the retries within 2^24 passes are counted. -/
def State.flumeEvidence (s : State) (p : Nat) (failed : Bool) : State :=
  if !s.policyActs FL_SEEP_FIRED p then s
  else if failed then s.askFence p .flume
  else
    let now := s.count ctrPasses p
    let w := sget (0, 0) s.lev.passWindow p
    let w' := if w.1 + 2 ^ 24 ≤ now then (now, 1) else (w.1, w.2 + 1)
    let s1 := { s with lev := { s.lev with passWindow := sput (0, 0) s.lev.passWindow p w' } }
    if s1.rd LEVEE_POLICY_FLUME_RETRIES < w'.2 then s1.askFence p .flume else s1

/-- A slot of a furrow ended with FURROW_RESIDUE. -/
def State.furrowEvidence (s : State) (p : Nat) : State :=
  if !s.policyActs FU_SEEP_FIRED p then s
  else
    let c := sget 0 s.lev.furrowFails p + 1
    let s1 := { s with lev := { s.lev with furrowFails := sput 0 s.lev.furrowFails p c } }
    if 2 ≤ c then s1.askFence p .whole else s1

/-- A failure logged against an SFU lane, or against a table unit: at the second the lane is fenced, and at a third fenced lane the
plot relocates; at a unit's third failure its function is routed (a reload is a table load). -/
def State.sfuEvidence (s : State) (p lane unit : Nat) (table : Bool) : State :=
  if !s.policyActs SFU_SEEP_FIRED p then s
  else if table then
    let c := sget 0 s.lev.unitFails (11 * p + unit) + 1
    let s1 := { s with lev := { s.lev with unitFails := sput 0 s.lev.unitFails (11 * p + unit) c } }
    if 3 ≤ c ∧ unit ≤ 9 then
      (s1.wr SFU_PLOT_CTL_ROUTE p (s1.rd SFU_PLOT_CTL_ROUTE p ||| 2 ^ unit)).recordReg .sfuPlotCtl p
    else s1
  else
    let c := sget 0 s.lev.laneFails (16 * p + lane) + 1
    let s1 := { s with lev := { s.lev with laneFails := sput 0 s.lev.laneFails (16 * p + lane) c } }
    if c = 2 then
      let m := s1.rd SFU_PLOT_CTL_LANE_FENCE p ||| 2 ^ lane
      let s2 := ((s1.wr SFU_PLOT_CTL_LANE_FENCE p m).recordReg .sfuPlotCtl p).raise evFenced
      if 3 ≤ ((List.range 16).filter m.testBit).length then s2.askFence p .move else s2
    else s1

/-- An error in a store of a plot that its code cannot correct, or one corrected: a runnel's stores fence the runnel, the others the plot
(R584). -/
def State.storeEvidence (s : State) (p unit index : Nat) (corrected : Bool) : State :=
  if !s.policyActs PLOT_SEEP_FIRED p ∨ 6 ≤ unit then s
  else if unit = 2 ∨ unit = 3 then
    if !corrected then s.fenceRunnel p index
    else
      let c := sget 0 s.lev.runFixes (80 * p + index) + 1
      let s1 := { s with lev := { s.lev with runFixes := sput 0 s.lev.runFixes (80 * p + index) c } }
      if s1.rd LEVEE_POLICY_CORR_LIMIT < c then s1.fenceRunnel p index else s1
  else if corrected then s else s.askFence p .whole

/-- A job of a headworks engine ended under R344: at the second the engine is fenced. -/
def State.headworksEvidence (s : State) (e : Nat) : State :=
  if !s.policyActs HW_SEEP_FIRED e then s
  else
    let c := sget 0 s.lev.engineFails e + 1
    let s1 := { s with lev := { s.lev with engineFails := sput 0 s.lev.engineFails e c } }
    if 2 ≤ c ∧ !(s1.rd LEVEE_ENG_HW).testBit e then
      ((s1.wr LEVEE_ENG_HW 0 (s1.rd LEVEE_ENG_HW ||| 2 ^ e)).recordReg .leveeEng 0).raise evFenced
    else s1

/-- The engine that runs a job: an engine out of service gives way to the next one in ascending order, modulo 16. -/
def State.engineFor (s : State) (e : Nat) : Nat :=
  (((List.range 16).map fun k => (e + k) % 16).find? fun k => !(s.rd LEVEE_ENG_HW).testBit k).getD e

end Sys2Proof.Machine
end

