-- ==== Sys2Proof/Machine/CfBase.lean ====
section
/-! DEFINITION. Groups of the Confluence engine, the packets it sends, and what the abort of a slot announces to its peers
(R440, R451 to R453, R460, R474). -/

namespace Sys2Proof.Machine

def State.group (s : State) (g : Nat) : Group := sget ({} : Group) s.cf.groups g
def State.setGroup (s : State) (g : Nat) (x : Group) : State :=
  { s with cf := { s.cf with groups := sput ({} : Group) s.cf.groups g x } }

/-- Modules of a group in the order of their ranks (R452). -/
def Group.members (x : Group) : List Nat := (List.range 8).filter fun m => x.mask.getLsbD m
def Group.size (x : Group) : Nat := x.members.length

def State.moduleId (s : State) : Nat := s.rd CF_BOARD_MODULE_ID

/-- This member's rank. -/
def State.myRank (s : State) (x : Group) : Nat := (x.members.filter (· < s.moduleId)).length

/-- Ranks of the other members. -/
def State.peersOf (s : State) (x : Group) : List Nat := (List.range x.size).filter (· ≠ s.myRank x)

/-- Ports that are UP to a module: its bundle (R440). -/
def State.bundle (s : State) (m : Nat) : List Nat :=
  (List.range 8).filter fun p => s.rd CF_PORT_STATE p = 2 && s.rd CF_PORT_PEER p = m

def pkHeader : Nat := 1
def pkChunk : Nat := 2
def pkGrant : Nat := 3
def pkVote : Nat := 4
def pkAbort : Nat := 5
def pkStop : Nat := 6
def pkSnapshot : Nat := 7

/-- What a packet header says beside its type, group, rank and sequence number. -/
structure CfHead where
  attempt : Nat := 0
  index : Nat := 0
  check : Word := 0
  bulk : Bool := false

/-- Bytes 0 to 11 of a packet header, which CHECK covers (R460). -/
def cfHeader12 (kind g rank : Nat) (n : Seq) (h : CfHead) : List Byte :=
  leBytes 1 kind ++ leBytes 1 g ++ leBytes 1 (rank + 16 * h.attempt) ++ leBytes 1 0 ++ leBytes 4 n.toNat ++ leBytes 4 h.index

/-- The 16-byte packet header (R460). -/
def cfHeader (kind g rank : Nat) (n : Seq) (h : CfHead) : List Byte := cfHeader12 kind g rank n h ++ leBytes 4 h.check.toNat

/-- Port of a packet to a module: the bundle's ports in turn for chunks, its lowest for any other (R440). -/
def State.cfPort (s : State) (m kind : Nat) : Nat × State :=
  let b := s.bundle m
  if kind = pkChunk then
    let n := sget 0 s.cf.turn m
    (b.getD (n % max 1 b.length) 0, { s with cf := { s.cf with turn := sput 0 s.cf.turn m (n + 1) } })
  else (b.getD 0 0, s)

/-- A packet to a rank of a group (R460): a chunk on the channel of its collective's class, any other on CTRL (R447). -/
def State.cfSend (s : State) (g rank : Nat) (cseq : Seq) (kind : Nat) (payload : List Byte) (h : CfHead := {}) : State :=
  let x := s.group g
  let r := s.cfPort (x.members.getD rank 0) kind
  let vc := if kind = pkChunk then (if h.bulk then 1 else 0) else 2
  (r.2.sendFlits r.1 vc payload.length).emit
    (.cfPacket (BitVec.ofNat 3 rank) (BitVec.ofNat 6 g) cseq kind (cfHeader kind g (s.myRank x) cseq h ++ payload))

/-- A packet to each of a list of ranks. -/
def State.cfSendTo (s : State) (g : Nat) (cseq : Seq) (kind : Nat) (payload : List Byte) (h : CfHead) : List Nat → State
  | [] => s
  | r :: rs => (s.cfSend g r cseq kind payload h).cfSendTo g cseq kind payload h rs

/-- A packet to every other member. -/
def State.cfSendAll (s : State) (g : Nat) (cseq : Seq) (kind : Nat) (payload : List Byte) (attempt : Nat := 0) : State :=
  s.cfSendTo g cseq kind payload { attempt := attempt } (s.peersOf (s.group g))

/-- A group that waits to close does so when its last collective has ended (R451). -/
def State.closeIdle (s : State) (g : Nat) : State :=
  let x := s.group g
  match x.closing with
  | some (q, n) =>
      if x.colls.isEmpty then
        let s1 := s.setGroup g {}
        match s1.op? q n with
        | some o => s1.finish o stOk
        | none => s1
      else s
  | none => s

/-- A collective leaves its group. -/
def State.dropColl (s : State) (g : Nat) (cseq : Seq) : State :=
  let x := s.group g
  s.setGroup g { x with colls := x.colls.filter fun c => c.cseq ≠ cseq }

/-- The collective list of an image of a partition's slot, with its group. -/
def State.listOf (s : State) (p img : Nat) : Option (Nat × List Byte) :=
  match (sget ({} : ImageRec) s.ctx.images img).listGroup with
  | some g =>
      let x := s.group g.toNat
      if x.isOpen && x.part = p && !x.hostUse then some (g.toNat, sget [] s.cf.lists img) else none
  | none => none

/-- Entries of a slot's list that have not committed, aborted one after the other (R474). -/
def State.abortEntries (s : State) (g p : Nat) : List Nat → State
  | [] => s
  | e :: es =>
      let x := s.group g
      let body := leBytes 2 stCollAbortPeer.toNat
      match x.colls.find? fun c => c.host.isNone && c.part = p && c.entry = e with
      | some c => ((s.cfSendAll g c.cseq pkAbort body c.attempt).dropColl g c.cseq).abortEntries g p es
      | none => ((s.cfSendAll g x.nextSeq pkAbort body).setGroup g { x with nextSeq := x.nextSeq + 1 }).abortEntries g p es

/-- The abort of a slot that runs a collective list, announced (R474). -/
def State.announceAbort (s : State) (p : Nat) (slot : Slot) : State :=
  match s.listOf p slot.image with
  | some (g, l) =>
      if (s.group g).broken then s
      else (s.abortEntries g p ((List.range (l.length / 64)).filter fun e => !slot.listDone.contains e)).closeIdle g
  | none => s

end Sys2Proof.Machine
end

