-- ==== Sys2Proof/Machine/Canal.lean ====
section
/-! DEFINITION. Routes of the canal (R27 to R29): the mesh of routers, x before y, and the express ring between the hubs and the edge
blocks. A request and its response pass within the command that makes them, so only tokens stand on the canal between commands. -/

namespace Sys2Proof.Machine

/-- A stretch of a route: a mesh link by its sending router and direction (0 N, 1 E, 2 S, 3 W), or a segment of one of the two rings by
the stop it leaves. -/
inductive Hop where
  | link (plot dir : Nat)
  | segment (stop : Nat) (clockwise : Bool)
  deriving DecidableEq, Repr

/-- Links of a run of n routers from one on, in a direction whose next router is a step away. -/
def linkRun (dir : Nat) (step : Nat → Nat) : Nat → Nat → List Hop
  | _, 0 => []
  | p, n + 1 => .link p dir :: linkRun dir step (step p) n

/-- Mesh route between two routers, first along x, then along y (R28): router 32·x + y, y rising to the south. -/
def meshRoute (a b : Nat) : List Hop :=
  let ax := a / 32
  let bx := b / 32
  let ay := a % 32
  let yb := b % 32
  (if ax ≤ bx then linkRun 1 (· + 32) a (bx - ax) else linkRun 3 (· - 32) a (ax - bx))
  ++ (if ay ≤ yb then linkRun 2 (· + 1) (32 * bx + ay) (yb - ay) else linkRun 0 (· - 1) (32 * bx + ay) (ay - yb))

/-- Segments of a ring of n stops, from a stop on. -/
def ringRun (n : Nat) (clockwise : Bool) : Nat → Nat → List Hop
  | _, 0 => []
  | a, k + 1 => .segment a clockwise :: ringRun n clockwise (if clockwise then (a + 1) % n else (a + n - 1) % n) k

/-- Ring route between two stops: the ring with fewer stops, the clockwise one when both have the same count (R28). -/
def ringRoute (n a b : Nat) : List Hop :=
  let cw := (b + n - a) % n
  let ccw := (a + n - b) % n
  if cw ≤ ccw then ringRun n true a cw else ringRun n false a ccw

/-- Stops of the express ring: a hub for each reach, then the edge blocks' stops; the manual gives neither their order nor the routers at
which the hubs sit (log entry 106). -/
def ringStops : Nat := Config.canalStops % 4096 + 16
def ringStop (hub : Bool) (n : Nat) : Nat := Config.canalStop hub n % ringStops
def hubRouter (reach : Nat) : Nat := Config.canalHub reach % 1056

/-- Numbers of the edge blocks: a Cistern channel's is its own, then Aquifer, the Confluence engine, and the codec pipes. -/
def edgeAquifer : Nat := 64
def edgeConfluence : Nat := 65
def edgePipe (k : Nat) : Nat := 80 + k

/-- Reach of a physical plot: that of the logical plot mapped to it (R18, R19). -/
def State.reachOfPlot (s : State) (p : Nat) : Option Nat := (s.logOf p).map reachOf

/-- The part of a route on the mesh between an endpoint and its stop, and that stop. -/
def State.toRing (s : State) : Station → List Hop × Nat
  | .plot p =>
      let r := (s.reachOfPlot p).getD 0
      (meshRoute p (hubRouter r), ringStop true r)
  | .hub r => ([], ringStop true r)
  | .edge b => ([], ringStop false b)

def State.fromRing (s : State) : Station → List Hop × Nat
  | .plot p =>
      let r := (s.reachOfPlot p).getD 0
      (meshRoute (hubRouter r) p, ringStop true r)
  | .hub r => ([], ringStop true r)
  | .edge b => ([], ringStop false b)

/-- The map entry of the logical plot at a physical plot is CHANGING: messages to it wait at their source routers (R155, R157). -/
def State.changing (s : State) (p : Nat) : Bool := (s.logOf p).any fun l => s.flag MAP_ENTRY_CHANGING l

def State.changingAt (s : State) : Station → Bool
  | .plot p => s.changing p
  | _ => false

/-- Reach that an endpoint belongs to, and its router on the mesh. -/
def State.meshAt (s : State) : Station → Option (Nat × Nat)
  | .plot p => (s.reachOfPlot p).map fun r => (r, p)
  | .hub r => some (r, hubRouter r)
  | .edge _ => none

/-- Route of a message (R28): on the mesh inside a reach, any other by the express ring. -/
def State.route (s : State) (a b : Station) : List Hop :=
  let byRing := (s.toRing a).1 ++ ringRoute ringStops (s.toRing a).2 (s.fromRing b).2 ++ (s.fromRing b).1
  match s.meshAt a, s.meshAt b with
  | some (r, p), some (q, t) => if r = q then meshRoute p t else byRing
  | _, _ => byRing

end Sys2Proof.Machine
end

