-- ==== Sys2Proof/Machine/Operands.lean ====
section
/-! DEFINITION. Number formats and arithmetic (R78 to R100): exact values, binary32 operations rounded once, the narrow formats
with their scales, conversions in both scale modes, stochastic rounding and its counter-based generator. -/

namespace Sys2Proof.Machine

/-! ### Exact values -/

/-- The value of a number: NaN, an infinity, or a sign with m times 2^e. Zeros keep their sign. -/
inductive Num where
  | nan
  | inf (neg : Bool)
  | fin (neg : Bool) (m : Nat) (e : Int)
  deriving DecidableEq, Repr

def Num.neg : Num → Num
  | .nan => .nan
  | .inf s => .inf (!s)
  | .fin s m e => .fin (!s) m e

def Num.abs : Num → Num
  | .nan => .nan
  | .inf _ => .inf false
  | .fin _ m e => .fin false m e

def Num.isNan : Num → Bool
  | .nan => true
  | _ => false

def Num.finite : Num → Bool
  | .fin _ _ _ => true
  | _ => false

/-- The value times a power of two, exactly. -/
def Num.scale (x : Num) (k : Int) : Num :=
  match x with
  | .fin s m e => .fin s m (e + k)
  | y => y

/-- Signed magnitude at an exponent not above the value's own. -/
def atExp (neg : Bool) (m : Nat) (e f : Int) : Int :=
  let v : Int := (m * 2 ^ (e - f).toNat : Nat)
  if neg then -v else v

/-- The exact sum; a sum that is exactly zero is -0 only when both terms are negative zeros (R90, R92). -/
def Num.add (x y : Num) : Num :=
  match x, y with
  | .nan, _ => .nan
  | _, .nan => .nan
  | .inf a, .inf b => if a = b then .inf a else .nan
  | .inf a, _ => .inf a
  | _, .inf b => .inf b
  | .fin a m e, .fin b n f =>
      let g := min e f
      let v := atExp a m e g + atExp b n f g
      if v = 0 then .fin (a && b && m = 0 && n = 0) 0 0 else .fin (decide (v < 0)) v.natAbs g

/-- The exact product (R90). -/
def Num.mul (x y : Num) : Num :=
  match x, y with
  | .nan, _ => .nan
  | _, .nan => .nan
  | .inf a, .inf b => .inf (a != b)
  | .inf a, .fin b n _ => if n = 0 then .nan else .inf (a != b)
  | .fin a m _, .inf b => if m = 0 then .nan else .inf (a != b)
  | .fin a m e, .fin b n f => .fin (a != b) (m * n) (e + f)

/-- The quotient, exact but for a sticky last bit that lies far below any format's precision. -/
def Num.div (x y : Num) : Num :=
  match x, y with
  | .nan, _ => .nan
  | _, .nan => .nan
  | .inf _, .inf _ => .nan
  | .inf a, .fin b _ _ => .inf (a != b)
  | .fin a _ _, .inf b => .fin (a != b) 0 0
  | .fin a m e, .fin b n f =>
      if n = 0 then (if m = 0 then .nan else .inf (a != b))
      else
        let k := 64 + Nat.log2 n
        let q := m * 2 ^ k / n
        let r := m * 2 ^ k % n
        .fin (a != b) (2 * q + (if r = 0 then 0 else 1)) (e - f - k - 1)

/-- Strictly less; false for a NaN. -/
def Num.lt (x y : Num) : Bool :=
  match x, y with
  | .nan, _ => false
  | _, .nan => false
  | .inf a, .inf b => a && !b
  | .inf a, .fin _ _ _ => a
  | .fin _ _ _, .inf b => !b
  | .fin a m e, .fin b n f => decide (atExp a m e (min e f) < atExp b n f (min e f))

/-- Equal values; zeros of either sign are equal, and a NaN equals nothing. -/
def Num.eqv (x y : Num) : Bool := !x.isNan && !y.isNan && !x.lt y && !y.lt x

/-- The exact sum of a list, from +0 on. -/
def sumNum (l : List Num) : Num := l.foldl Num.add (.fin false 0 0)

/-- The exponent of the largest power of two not above a non-zero magnitude. -/
def log2Floor (m : Nat) (e : Int) : Int := (Nat.log2 m : Int) + e

/-! ### Rounding (R93, R94) -/

/-- A rounding: to nearest, ties to even, or stochastic with a 16-bit draw. -/
inductive Rounding where
  | nearest
  | stochastic (r : Nat)
  deriving DecidableEq, Repr

/-- m / 2^k rounded to an integer. -/
def roundShift (rd : Rounding) (m k : Nat) : Nat :=
  let q := m / 2 ^ k
  let rem := m % 2 ^ k
  if rem = 0 then q
  else match rd with
    | .nearest => if 2 ^ k < 2 * rem ∨ (2 * rem = 2 ^ k ∧ q % 2 = 1) then q + 1 else q
    | .stochastic r => if 2 ^ 16 ≤ m * 2 ^ 16 / 2 ^ k % 2 ^ 16 + r then q + 1 else q

/-- A non-zero value that a format with quantum exponents down to q and mb fraction bits does not represent exactly: only
such a value consumes a draw. The result is the magnitude code: exponent field and fraction together. -/
def magCode (rd : Rounding) (mb : Nat) (q : Int) (m : Nat) (e : Int) : Nat :=
  if m = 0 then 0
  else
    let t := max q (log2Floor m e - mb)
    let v := if t ≤ e then m * 2 ^ (e - t).toNat else roundShift rd m (t - e).toNat
    (t - q).toNat * 2 ^ mb + v

/-! ### binary32, binary16, bfloat16 (R86, R87) -/

def canonicalNan : Word := 0x7FC00000

/-- A float of eb exponent bits and mb fraction bits without special codes. -/
def decFloat (eb mb : Nat) (bias : Int) (x : Nat) : Num :=
  let s := x / 2 ^ (eb + mb) % 2 = 1
  let ex := x / 2 ^ mb % 2 ^ eb
  let fr := x % 2 ^ mb
  if ex = 0 then .fin s fr (1 - bias - mb) else .fin s (2 ^ mb + fr) (ex - bias - mb)

/-- A float whose top exponent holds infinities and NaNs. -/
def decIeee (eb mb : Nat) (bias : Int) (x : Nat) : Num :=
  if x / 2 ^ mb % 2 ^ eb = 2 ^ eb - 1 then
    (if x % 2 ^ mb = 0 then .inf (decide (x / 2 ^ (eb + mb) % 2 = 1)) else .nan)
  else decFloat eb mb bias x

/-- A binary32 word's value. -/
def dec32 (w : Word) : Num := decIeee 8 23 127 w.toNat

/-- The code of a value in an IEEE format, rounded once; overflow gives an infinity (R86). -/
def encIeee (rd : Rounding) (eb mb : Nat) (bias : Int) (x : Num) : Nat :=
  match x with
  | .nan => (2 ^ eb - 1) * 2 ^ mb + 2 ^ (mb - 1)
  | .inf s => (if s then 2 ^ (eb + mb) else 0) + (2 ^ eb - 1) * 2 ^ mb
  | .fin s m e => (if s then 2 ^ (eb + mb) else 0) + min ((2 ^ eb - 1) * 2 ^ mb) (magCode rd mb (1 - bias - mb) m e)

/-- A value rounded once to binary32 by round to nearest even. -/
def enc32 (x : Num) : Word := BitVec.ofNat 32 (encIeee .nearest 8 23 127 x)

/-- A value rounded to bfloat16, as the word's upper half (R78). -/
def bf16 (w : Word) : Nat := encIeee .nearest 8 7 127 (dec32 w)

def fadd (a b : Word) : Word := enc32 ((dec32 a).add (dec32 b))
def fsub (a b : Word) : Word := enc32 ((dec32 a).add (dec32 b).neg)
def fmul (a b : Word) : Word := enc32 ((dec32 a).mul (dec32 b))
def fdiv (a b : Word) : Word := enc32 ((dec32 a).div (dec32 b))
def ffma (a b c : Word) : Word := enc32 (((dec32 a).mul (dec32 b)).add (dec32 c))

def fneg (a : Word) : Word := if (dec32 a).isNan then canonicalNan else a ^^^ 0x80000000
def fabs (a : Word) : Word := if (dec32 a).isNan then canonicalNan else a &&& 0x7FFFFFFF

/-- MAX of R219: the canonical NaN when either operand is NaN, +0 for a pair of zeros of opposite signs. -/
def fmax (a b : Word) : Word :=
  let x := dec32 a
  let y := dec32 b
  if x.isNan || y.isNan then canonicalNan
  else if x.lt y then b
  else if y.lt x then a
  else if a = b then a else 0

/-- MIN of R219, with the same rules. -/
def fmin (a b : Word) : Word :=
  let x := dec32 a
  let y := dec32 b
  if x.isNan || y.isNan then canonicalNan
  else if x.lt y then a
  else if y.lt x then b
  else if a = b then a else 0

/-- A word times 2^k, rounded once. -/
def fscale (a : Word) (k : Int) : Word := enc32 ((dec32 a).scale k)

def fzero : Word := 0
def fone : Word := 0x3F800000
def negInf : Word := 0xFF800000
def posInf : Word := 0x7F800000
def isNan32 (w : Word) : Bool := (dec32 w).isNan
def finite32 (w : Word) : Bool := (dec32 w).finite

/-- An integer as binary32, rounded once. -/
def ofInt32 (v : Int) : Word := enc32 (.fin (decide (v < 0)) v.natAbs 0)
def ofNat32 (v : Nat) : Word := enc32 (.fin false v 0)

/-- A quotient of integers formed exactly and rounded once (R223). -/
def ratio32 (a b : Nat) : Word := enc32 ((Num.fin false a 0).div (.fin false b 0))

/-- A binary32 value rounded to an integer, to nearest even. -/
def roundInt (m : Nat) (e : Int) : Nat := if 0 ≤ e then m * 2 ^ e.toNat else roundShift .nearest m (-e).toNat

/-! ### Compensated arithmetic (R99) -/

/-- two_sum of R99. -/
def twoSum (x y : Word) : Word × Word :=
  let sum := fadd x y
  let bp := fsub sum x
  (sum, fadd (fsub x (fsub sum bp)) (fsub y bp))

/-- comp_update of R99, with the rule for p or q not finite. -/
def compUpdate (s e a d : Word) : Word × Word :=
  let p := fmul a s
  let pe := ffma a s (fneg p)
  let q := fadd (fadd pe (fmul a e)) d
  if finite32 p && finite32 q then twoSum p q else (fadd p q, fzero)

/-! ### Narrow formats (R78, R79) -/

/-- Element width in bits by format code; a reserved code has none. -/
def fmtBits : Nat → Nat
  | 0 => 32 | 1 => 16 | 2 => 16 | 3 => 8 | 4 => 8 | 5 => 8 | 6 => 8 | 7 => 6 | 8 => 6 | 9 => 4 | 10 => 8 | 11 => 8 | 12 => 4
  | _ => 0

def fmtMx (f : Nat) : Bool := 5 ≤ f && f ≤ 10
def fmtInt (f : Nat) : Bool := f = 11 || f = 12
def fmtTensor (f : Nat) : Bool := f = 3 || f = 4

/-- emax of R79 by format code; for INT8 and INT4 the exponent that R83 subtracts. -/
def fmtEmax : Nat → Int
  | 3 => 8 | 5 => 8 | 4 => 15 | 6 => 15 | 7 => 4 | 8 => 2 | 9 => 2 | 10 => 0 | 11 => 6 | 12 => 2
  | _ => 0

/-- A two's complement code of w bits. -/
def signedOf (w x : Nat) : Int := if 2 ^ (w - 1) ≤ x % 2 ^ w then (x % 2 ^ w : Nat) - (2 ^ w : Nat) else (x % 2 ^ w : Nat)

/-- The value of an element before its scale (R79). -/
def elemDec (f code : Nat) : Num :=
  match f with
  | 0 => decIeee 8 23 127 code
  | 1 => decIeee 5 10 15 code
  | 2 => decIeee 8 7 127 code
  | 3 => if code % 128 = 127 then .nan else decFloat 4 3 7 code
  | 4 => decIeee 5 2 15 code
  | 5 => if code % 128 = 127 then .nan else decFloat 4 3 7 code
  | 6 => decIeee 5 2 15 code
  | 7 => decFloat 3 2 3 code
  | 8 => decFloat 2 3 1 code
  | 9 => decFloat 2 1 1 code
  | 10 => let v := signedOf 8 code; .fin (decide (v < 0)) v.natAbs (-6)
  | 11 => let v := signedOf 8 code; .fin (decide (v < 0)) v.natAbs 0
  | 12 => let v := signedOf 4 code; .fin (decide (v < 0)) v.natAbs 0
  | _ => .nan

/-- Exponent bits, fraction bits, bias and largest finite code of the float elements. -/
def floatShape : Nat → Nat × Nat × Int × Nat
  | 3 => (4, 3, 7, 0x7E) | 5 => (4, 3, 7, 0x7E)
  | 4 => (5, 2, 15, 0x7B) | 6 => (5, 2, 15, 0x7B)
  | 7 => (3, 2, 3, 0x1F)
  | 8 => (2, 3, 1, 0x1F)
  | _ => (2, 1, 1, 0x7)

/-- Fraction weight and largest magnitude of the integer elements. -/
def intShape : Nat → Int × Nat
  | 10 => (-6, 127)
  | 11 => (0, 127)
  | _ => (0, 7)

/-- An element's code from a value already divided by its scale, and whether the conversion saturated (R84, R85, R87). A NaN
into INT8 or INT4 is a value the manual does not state: free (log entry 13). A NaN into an MX element format without NaN is
code 0; its block's scale says NaN. F16 and BF16 take the rounding they are given, as R93 has it for a CONV word with SR (DEDUCED, log entry
102). -/
def elemEnc (f : Nat) (rd : Rounding) (x : Num) : Nat × Bool :=
  match f with
  | 0 => (encIeee rd 8 23 127 x, false)
  | 1 => (encIeee rd 5 10 15 x, false)
  | 2 => (encIeee rd 8 7 127 x, false)
  | _ =>
    if 10 ≤ f then
      let (q, top) := intShape f
      let w := fmtBits f
      match x with
      | .nan => (if f = 10 then 0 else Config.freeNat f % 2 ^ w, false)
      | .inf s => (if s then 2 ^ w - top else top, true)
      | .fin s m e =>
          let v := if q ≤ e then m * 2 ^ (e - q).toNat else roundShift rd m (q - e).toNat
          let c := min v top
          (if s then (2 ^ w - c) % 2 ^ w else c, decide (top < v))
    else
      let (eb, mb, bias, top) := floatShape f
      match x with
      | .nan => (if f = 3 ∨ f = 5 then 0x7F else if f = 4 ∨ f = 6 then 0x7E else 0, false)
      | .inf s =>
          if f = 4 ∨ f = 6 then ((if s then 0x80 else 0) + 0x7C, false)
          else ((if s then 2 ^ (eb + mb) else 0) + top, true)
      | .fin s m e =>
          let v := magCode rd mb (1 - bias - mb) m e
          ((if s then 2 ^ (eb + mb) else 0) + min v top, decide (top < v))

/-- The format's elements can hold a NaN. -/
def elemHasNan (f : Nat) : Bool := f = 5 || f = 6

/-! ### Scales (R82, R83) -/

/-- Largest finite magnitude of a list of values, as ⌊log2⌋; none where every finite element is zero. -/
def amaxLog : List Num → Option Int
  | [] => none
  | x :: xs =>
      match x, amaxLog xs with
      | .fin _ m e, none => if m = 0 then none else some (log2Floor m e)
      | .fin _ m e, some l => if m = 0 then some l else some (max l (log2Floor m e))
      | _, r => r

/-- X of COMPUTED mode for a block or row of a format (R83). -/
def computedScale (f : Nat) (l : List Num) : Int :=
  match amaxLog l with
  | none => if fmtMx f then -127 else -128
  | some k => if fmtMx f then max (-127) (min 127 (k - fmtEmax f)) else max (-128) (min 127 (k - fmtEmax f))

/-- The stored scale byte of X: biased for an MX block, two's complement otherwise. -/
def scaleCode (f : Nat) (x : Int) : Nat := if fmtMx f then (x + 127).toNat else (x % 256).toNat

/-- A stored element's value under its scale byte (R82, R87). -/
def scaledDec (f code scale : Nat) : Num :=
  if fmtMx f then (if scale = 255 then .nan else (elemDec f code).scale ((scale : Int) - 127))
  else if fmtInt f || fmtTensor f then (elemDec f code).scale (signedOf 8 scale)
  else elemDec f code

/-! ### Packing (R80) -/

/-- The code of element i of a packed row. -/
def unpackElem (w : Nat) (row : List Byte) (i : Nat) : Nat :=
  match w with
  | 32 => (row.getD (4 * i) 0).toNat + 256 * (row.getD (4 * i + 1) 0).toNat + 65536 * (row.getD (4 * i + 2) 0).toNat
          + 16777216 * (row.getD (4 * i + 3) 0).toNat
  | 16 => (row.getD (2 * i) 0).toNat + 256 * (row.getD (2 * i + 1) 0).toNat
  | 8 => (row.getD i 0).toNat
  | 6 =>
      let g := 3 * (i / 4)
      ((row.getD g 0).toNat + 256 * (row.getD (g + 1) 0).toNat + 65536 * (row.getD (g + 2) 0).toNat) / 2 ^ (6 * (i % 4)) % 64
  | 4 => (row.getD (i / 2) 0).toNat / 2 ^ (4 * (i % 2)) % 16
  | _ => 0

/-- The value of a run of codes as one number, element 0 lowest. -/
def packNat (w : Nat) : List Nat → Nat
  | [] => 0
  | c :: cs => c % 2 ^ w + 2 ^ w * packNat w cs

/-- Bytes of a value, lowest first. -/
def natBytes : Nat → Nat → List Byte
  | 0, _ => []
  | n + 1, v => BitVec.ofNat 8 v :: natBytes n (v / 256)

/-- A row of 64 codes packed into its 8·w bytes. -/
def packRow (w : Nat) (codes : List Nat) : List Byte := natBytes (8 * w) (packNat w codes)

/-! ### Conversion of a row (R231) -/

/-- A scale for a block: its X and its stored code. -/
def blockScale (f : Nat) (calib : Bool) (x : Int) (l : List Num) : Int × Nat :=
  let k := if calib then x else computedScale f l
  let nan := fmtMx f && !elemHasNan f && l.any Num.isNan
  (k, if nan then 255 else if fmtMx f && !calib && (amaxLog l).isNone then 0 else scaleCode f k)

/-- The valid lanes of a row, from lane a on. -/
def validPart (vals : List Num) (cols a n : Nat) : List Num := ((vals.take cols).drop a).take n

/-- A row of 64 values converted: its codes, its scale bytes, and which lanes saturated. Lanes outside the column extent become
code 0. `rd i` is the rounding of lane i. -/
def convRow (f : Nat) (calib : Bool) (x : Int) (cols : Nat) (vals : List Num) (rd : Nat → Rounding) :
    List Nat × List Nat × List Bool :=
  let s0 := blockScale f calib x (if fmtMx f then validPart vals cols 0 32 else validPart vals cols 0 64)
  let s1 := blockScale f calib x (validPart vals cols 32 32)
  let one := fun (i : Nat) =>
    if cols ≤ i then (0, false)
    else
      let k := if fmtMx f && 32 ≤ i then s1.1 else if fmtMx f || fmtInt f || fmtTensor f then s0.1 else 0
      elemEnc f (rd i) ((vals.getD i (.fin false 0 0)).scale (-k))
  let es := (List.range 64).map one
  (es.map (·.1), if fmtMx f then [s0.2, s1.2] else if fmtInt f || fmtTensor f then [s0.2] else [],
   es.map (·.2))

/-! ### The counter-based generator (R95, R96) -/

/-- One round of Philox-4×32. -/
def philoxRound (c : Word × Word × Word × Word) (k0 k1 : Word) : Word × Word × Word × Word :=
  let p0 := 0xD2511F53 * c.1.toNat
  let p1 := 0xCD9E8D57 * c.2.2.1.toNat
  (BitVec.ofNat 32 (p1 / 2 ^ 32) ^^^ c.2.1 ^^^ k0, BitVec.ofNat 32 p1,
   BitVec.ofNat 32 (p0 / 2 ^ 32) ^^^ c.2.2.2 ^^^ k1, BitVec.ofNat 32 p0)

/-- n rounds, the key advancing between them. -/
def philoxRounds : Nat → Word × Word × Word × Word → Word → Word → Word × Word × Word × Word
  | 0, c, _, _ => c
  | n + 1, c, k0, k1 => philoxRounds n (philoxRound c k0 k1) (k0 + 0x9E3779B9) (k1 + 0xBB67AE85)

/-- Philox-4×32 with 10 rounds. -/
def philox (c0 c1 c2 c3 k0 k1 : Word) : Word × Word × Word × Word := philoxRounds 10 (c0, c1, c2, c3) k0 k1

/-- Word w(i) of an evaluation. -/
def philoxWord (w : Word × Word × Word × Word) (i : Nat) : Word :=
  match i % 4 with
  | 0 => w.1
  | 1 => w.2.1
  | 2 => w.2.2.1
  | _ => w.2.2.2

end Sys2Proof.Machine
end

