-- ==== Sys2Proof/Machine/SfuUnit.lean ====
section
/-! DEFINITION. Special functions (R239 to R262): the values of R242 at extreme and special arguments, the exact results and
bounds of R241, the seams and the monotonicity of R243 to R245, and the micro-operations of R256. Within a bound, the loaded table
set decides the bits of a result: free values that these rules confine (log entries 14 and 101). -/

namespace Sys2Proof.Machine

/-! ### Exact values to 400 binary places, for the bounds -/

def fp : Nat := 400
def fixOne : Int := 2 ^ 400
def fixMul (a b : Int) : Int := a * b / fixOne

/-- A value as a fixed-point number. -/
def toFix (m : Nat) (e : Int) : Int :=
  if 0 ≤ e + 400 then m * 2 ^ (e + 400).toNat else m / 2 ^ (-(e + 400)).toNat

/-- Sum of x^k / k! for k from a on, n terms, the first being t. -/
def expSum (x t : Int) (k : Nat) : Nat → Int
  | 0 => 0
  | n + 1 => t + expSum x (fixMul t x / (k + 1)) (k + 1) n

def fixExp (x : Int) : Int := expSum x fixOne 0 100

/-- Sum of z^(2k+1) / (2k+1), with alternating signs or not. -/
def oddSum (z2 t : Int) (sgn : Int) (k : Nat) : Nat → Int
  | 0 => 0
  | n + 1 => t / (2 * k + 1) + oddSum z2 (sgn * fixMul t z2) sgn (k + 1) n

/-- Natural logarithm of a ratio a/b. -/
def fixLn (a b : Int) : Int :=
  let z := (a - b) * fixOne / (a + b)
  2 * oddSum (fixMul z z) z 1 0 140

def fixLn2 : Int := fixLn 2 1

/-- atan(1/n) to 640 binary places. -/
def atanInv (n : Int) (t : Int) (k : Nat) : Nat → Int
  | 0 => 0
  | f + 1 => t / (2 * k + 1) - atanInv n (t / (n * n)) (k + 1) f

/-- π to 640 binary places. -/
def pi640 : Int := 4 * (4 * atanInv 5 (2 ^ 640 / 5) 0 150 - atanInv 239 (2 ^ 640 / 239) 0 50)

def fixSinSum (x2 t : Int) (k : Nat) : Nat → Int
  | 0 => 0
  | n + 1 => t + fixSinSum x2 (-(fixMul t x2) / ((k + 1) * (k + 2))) (k + 2) n

def fixSin (x : Int) : Int := fixSinSum (fixMul x x) x 1 60
def fixCos (x : Int) : Int := fixSinSum (fixMul x x) fixOne 0 60

/-- 2^-y for y not negative. -/
def fixExp2Neg (y : Int) : Int :=
  fixExp (-(fixMul (y % fixOne) fixLn2)) / 2 ^ (y / fixOne).toNat

/-- e^-y for y not negative. -/
def fixExpNeg (y : Int) : Int := fixExp2Neg (y * fixOne / fixLn2)

/-- A fixed-point value. -/
def ofFix (x : Int) : Num := .fin (decide (x < 0)) x.natAbs (-400)

/-! ### Bounds (R241) -/

/-- A word's place in the order of values; both zeros stand at 0. -/
def ordOf (w : Word) : Int := let m : Int := (w.toNat % 2 ^ 31 : Nat); if w.toNat < 2 ^ 31 then m else -m
def ofOrd (i : Int) : Word := BitVec.ofNat 32 (i.natAbs + (if i < 0 then 2 ^ 31 else 0))

/-- Places of the words within a bound of k ulp of an exact value, ascending: for 1 ulp the value itself or the two words that bracket
it, otherwise of the k words on each side of it those nearer than k ulp (log entry 101). Beyond the largest finite value the words
that bracket it are that value and infinity. -/
def sfuWords (k : Nat) (x : Num) : List Int :=
  match x with
  | .fin s m e =>
      let c := magCode (.stochastic 0) 23 (-149) m e
      let mags : List Nat :=
        if 0x7F800000 ≤ c then [0x7F7FFFFF, 0x7F800000]
        else
          let exact := (Num.fin false m e).eqv (dec32 (BitVec.ofNat 32 c))
          let t := max (-149) (log2Floor m e - 23)
          let near := fun (i : Nat) =>
            let w := c + i + 1 - k
            let d := ((dec32 (BitVec.ofNat 32 w)).add (.fin true m e)).abs
            decide (k ≤ c + i + 1 ∧ w ≤ 0x7F800000) && (decide (i + 1 = k ∨ w = 0x7F800000 ∨ (k = 1 ∧ !exact)) || d.lt (.fin false k t))
          ((List.range (2 * k)).filter near).map fun i => c + i + 1 - k
      if s then (mags.map fun w => -(w : Int)).reverse else mags.map fun w => (w : Int)
  | _ => []

/-- Of the places a bound admits, the greatest that the table set reaches at a position: from one position on the result is at least a
given value, so that results never decrease as the position grows (R244). -/
def sfuPick (step : Int → Int) (ws : List Int) (pos : Int) : Int :=
  ((ws.filter fun w => decide (step w ≤ pos)).getLast?).getD (ws.headD 0)

/-- A free value confined to a list. -/
def confine (l : List Int) (v : Word) : Word := if l.contains (ordOf v) then v else ofOrd (l.headD 0)

/-! ### The exact functions -/

/-- Integer and fraction of 4 times a value of turns: nearest integer, ties to even, and the rest as a fixed-point turn. -/
def quarterTurns (neg : Bool) (m : Nat) (e : Int) : Int × Int :=
  let k : Int := roundInt m (e + 2)
  let r := toFix m e - k * (fixOne / 4)
  if neg then (-k, -r) else (k, r)

/-- The same for radians and π/2, with 2/π exact enough for every binary32 argument. -/
def quarterRadians (neg : Bool) (m : Nat) (e : Int) : Int × Int :=
  let x : Int := if 0 ≤ e + 640 then m * 2 ^ (e + 640).toNat else m / 2 ^ (-(e + 640)).toNat
  let h := pi640 / 2
  let k := (2 * x + h) / (2 * h)
  let r := (x - k * h) / 2 ^ 240
  if neg then (-k, -r) else (k, r)

/-- Sine of a quadrant count and a rest in radians. -/
def sinQuad (k r : Int) : Int :=
  match (k % 4).toNat with
  | 0 => fixSin r
  | 1 => fixCos r
  | 2 => -(fixSin r)
  | _ => -(fixCos r)

/-- 1/√x as a fixed-point quotient: √ of 2^(2·400 + 600) / x. -/
def rsqrtNum (m : Nat) (e : Int) : Num :=
  let e' := if e % 2 = 0 then e else e - 1
  let m' := if e % 2 = 0 then m else 2 * m
  .fin false (Nat.sqrt (2 ^ 1200 / m')) (-(600 + e' / 2))

/-- The exact value of a hardware function at a finite non-zero argument that no row of R242 covers. -/
def sfuExact (code : Nat) (neg : Bool) (m : Nat) (e : Int) : Num :=
  let x := toFix m e
  match code with
  | 0 => if neg then ofFix (fixExp2Neg x)
         else (ofFix (fixExp2Neg ((fixOne - x % fixOne) % fixOne))).scale ((x + fixOne - 1) / fixOne)
  | 1 =>
      let l := Nat.log2 m
      ofFix (fixLn m (2 ^ l : Nat) * fixOne / fixLn2 + ((l : Int) + e) * fixOne)
  | 2 => (Num.fin false 1 0).div (.fin neg m e)
  | 3 => rsqrtNum m e
  | 4 =>
      let t := fixExpNeg x
      ofFix ((if neg then t else fixOne) * fixOne / (fixOne + t))
  | 5 =>
      let t := fixExpNeg (2 * x)
      let v := (fixOne - t) * fixOne / (fixOne + t)
      ofFix (if neg then -v else v)
  | 6 => let q := quarterRadians neg m e; ofFix (sinQuad q.1 q.2)
  | 7 => let q := quarterRadians neg m e; ofFix (sinQuad (q.1 + 1) q.2)
  | 8 => let q := quarterTurns neg m e; ofFix (sinQuad q.1 (fixMul q.2 (pi640 / 2 ^ 239)))
  | _ => let q := quarterTurns neg m e; ofFix (sinQuad (q.1 + 1) (fixMul q.2 (pi640 / 2 ^ 239)))

/-- A value that is a power of two, as its exponent. -/
def powerOfTwo (m : Nat) (e : Int) : Option Int := if m = 2 ^ Nat.log2 m ∧ m ≠ 0 then some (Nat.log2 m + e) else none

/-- A finite value that is an integer. -/
def integerOf (neg : Bool) (m : Nat) (e : Int) : Option Int :=
  if 0 ≤ e then some ((if neg then -1 else 1) * (m * 2 ^ e.toNat : Nat))
  else if m % 2 ^ (-e).toNat = 0 then some ((if neg then -1 else 1) * (m / 2 ^ (-e).toNat : Nat)) else none

/-- Values of R242 at an infinity, at a zero, and in the limit ranges. -/
def sfuLimit (code : Nat) (w : Word) (x : Num) : Option Word :=
  match x with
  | .nan => some canonicalNan
  | .inf neg =>
      match code with
      | 0 => some (if neg then 0 else posInf)
      | 1 => some (if neg then canonicalNan else posInf)
      | 2 => some (if neg then 0x80000000 else 0)
      | 3 => some (if neg then canonicalNan else 0)
      | 4 => some (if neg then 0 else fone)
      | 5 => some (if neg then 0xBF800000 else fone)
      | _ => some canonicalNan
  | .fin neg m e =>
      if m = 0 then
        match code with
        | 0 => some fone
        | 1 => some negInf
        | 2 => some (if neg then negInf else posInf)
        | 3 => some posInf
        | 4 => some 0x3F000000
        | 7 => some fone
        | 9 => some fone
        | _ => some w
      else
        let f := toFix m e
        match code with
        | 0 => if !neg && decide (128 * fixOne ≤ f) then some posInf
               else if neg && decide (150 * fixOne ≤ f) then some 0 else none
        | 1 => if neg then some canonicalNan else none
        | 3 => if neg then some canonicalNan else none
        | 4 => if !neg && decide (25 * fixLn2 < f) then some fone
               else if neg && decide (150 * fixLn2 < f) then some 0
               else if f < fixOne / 2 ^ 12 then some (enc32 ((Num.fin false 1 (-1)).add (.fin neg m (e - 2)))) else none
        | 5 => if decide (13 * fixLn2 < f) then some (if neg then 0xBF800000 else fone)
               else if f < fixOne / 2 ^ 13 then some w else none
        | 8 => if (integerOf neg m (e + 1)).isSome then some 0 else none
        | 9 => (integerOf neg m (e + 2)).bind fun q => if q % 2 = 1 then some 0 else none
        | _ => none

/-- Bound in ulp by evaluation path and code (R241, R258, R261). -/
def sfuBound (path : BitVec 2) (code : Nat) : Nat :=
  if path = 0 then (if 4 ≤ code && code ≤ 7 then 2 else 1)
  else if path = 1 then (if code ≤ 3 then 2 else 3)
  else if code ≤ 5 then 4 else 6

/-! ### Reduced arguments (R241 to R245)

Each function is reduced to one that increases with a position: of EXP2 the fraction r, of RECIP and RSQRT minus the reduced
argument, of LOG2 and SIGMOID the argument's place, of TANH its magnitude's, of the circular functions the offset from the middle of
the interval between two extrema, negated where the function falls there. -/

/-- A reduced argument: what distinguishes results at one position, the position, the distances at which adjacent arguments lie, and the
sign and power of two of the reconstruction. -/
structure SfuArg where
  region : Int := 0
  pos : Int
  steps : List Int := [1]
  neg : Bool := false
  shift : Int := 0
  deriving DecidableEq, Repr

/-- Interval between extrema that a quadrant count and a rest lie in, modulo a whole turn, and the position in it; q is a quadrant. -/
def sfuInterval (k r q : Int) : Int × Int :=
  let i := if k % 2 = 0 then k / 2 else if r < 0 then (k - 1) / 2 else (k + 1) / 2
  let off := r + (k - 2 * i) * q
  (i % 2, if i % 2 = 0 then off else -off)

/-- A quadrant in radians. -/
def quadrant : Int := pi640 / 2 ^ 241

/-- The reduction of a finite non-zero argument. -/
def sfuReduce (code : Nat) (w : Word) (neg : Bool) (m : Nat) (e : Int) : SfuArg :=
  let fixed := fun (s : Bool) (m : Nat) (e : Int) => if s then -(toFix m e) else toFix m e
  let grid := fun (a b : Nat) => ((List.range b).drop a).map fun j => (2 ^ (400 - j) : Int)
  match code with
  | 0 =>
      let x := fixed neg m e
      let n := x / fixOne
      if n < -126 then { region := n, pos := x % fixOne, steps := grid 16 31 }
      else { pos := x % fixOne, steps := grid 16 31, shift := n }
  | 1 => { pos := ordOf w }
  | 2 =>
      let l := log2Floor m e
      let pos := -(toFix m (e - l))
      if -126 ≤ -l - 1 ∧ (-l < 128 ∨ (-l = 128 ∧ pos < -fixOne)) then { pos := pos, steps := grid 1 24, neg := neg, shift := -l }
      else { region := -l, pos := pos, steps := grid 1 24, neg := neg }
  | 3 =>
      let k := (log2Floor m e) / 2
      { pos := -(toFix m (e - 2 * k)), steps := grid 1 24, shift := -k }
  | 4 => { pos := ordOf w }
  | 5 => { pos := ordOf (w &&& 0x7FFFFFFF), neg := neg }
  | 6 =>
      let q := quarterRadians neg m e
      let i := sfuInterval q.1 q.2 quadrant
      { region := i.1, pos := i.2, steps := [toFix 1 e] }
  | 7 =>
      let q := quarterRadians neg m e
      let i := sfuInterval (q.1 + 1) q.2 quadrant
      { region := i.1, pos := i.2, steps := [toFix 1 e] }
  | 8 =>
      let q := quarterTurns neg m e
      let i := sfuInterval q.1 q.2 (fixOne / 4)
      { region := i.1, pos := i.2, steps := grid 2 46 }
  | _ =>
      let q := quarterTurns neg m e
      let i := sfuInterval (q.1 + 1) q.2 (fixOne / 4)
      { region := i.1, pos := i.2, steps := grid 2 46 }

/-- The exact function of a position. -/
def sfuAt (code : Nat) (region pos : Int) : Num :=
  let word := fun (c : Nat) => match dec32 (ofOrd pos) with
    | .fin neg m e => sfuExact c neg m e
    | x => x
  match code with
  | 0 => (sfuExact 0 false pos.natAbs (-400)).scale region
  | 1 => word 1
  | 2 => (sfuExact 2 false pos.natAbs (-400)).scale region
  | 3 => sfuExact 3 false pos.natAbs (-400)
  | 4 => word 4
  | 5 => word 5
  | 6 => ofFix (fixSin pos)
  | 7 => ofFix (fixSin pos)
  | _ => ofFix (fixSin (fixMul pos (pi640 / 2 ^ 239)))

/-- Positions that arguments reduce to. -/
def sfuInside (code : Nat) (pos : Int) : Bool :=
  match code with
  | 0 => decide (0 ≤ pos ∧ pos < fixOne)
  | 1 => decide (0 < pos)
  | 2 => decide (-2 * fixOne < pos ∧ pos ≤ -fixOne)
  | 3 => decide (-4 * fixOne < pos ∧ pos ≤ -fixOne)
  | 4 => decide (pos ≠ 0)
  | 5 => decide (0 < pos)
  | 6 => decide (-quadrant ≤ pos ∧ pos ≤ quadrant)
  | 7 => decide (-quadrant ≤ pos ∧ pos ≤ quadrant)
  | _ => decide (-(fixOne / 4) ≤ pos ∧ pos ≤ fixOne / 4)

/-- Binade of a magnitude and its 2^b-th part. -/
def binadePart (b : Nat) (m : Nat) (e : Int) : Int :=
  if m = 0 then 0 else let l := log2Floor m e; l * 2 ^ b + (toFix m (e - l) * 2 ^ b / fixOne - 2 ^ b)

/-- Segment of a position (R241), or of the SX-256 path's 32 segments per reduced range (R258; log entry 101). -/
def sfuSegment (path : BitVec 2) (code : Nat) (pos : Int) : Int × Int :=
  let b : Nat := if path = 0 then 6 else 5
  let word := fun (b : Nat) => match dec32 (ofOrd pos) with
    | .fin neg m e => ((if neg then -1 else 1), binadePart b m e)
    | _ => (0, 0)
  let circle := fun (q : Int) =>
    let k := (2 * pos + q) / (2 * q)
    let r := pos - k * q
    (2 * k + (if r < 0 then 1 else 0), binadePart 5 r.natAbs (-400))
  match code with
  | 0 => (0, pos * 2 ^ b / fixOne)
  | 1 => word b
  | 2 => (0, -pos * 2 ^ b / fixOne)
  | 3 => if -pos < 2 * fixOne then (0, -pos * 2 ^ (b - 1) / fixOne) else (1, -pos * 2 ^ (b - 2) / fixOne)
  | 4 => word (if path = 0 then 3 else 5)
  | 5 => word (if path = 0 then 3 else 5)
  | 6 => circle quadrant
  | 7 => circle quadrant
  | _ => circle (fixOne / 4)

/-- Results at a position that no polynomial gives: the exact ones of R241, on the table path, and those of R242. -/
def sfuFixed (path : BitVec 2) (code : Nat) (region pos : Int) : Option Int :=
  let limit := match sfuLimit code (ofOrd pos) (dec32 (ofOrd pos)) with
    | some v => some (ordOf v)
    | none => none
  match code with
  | 0 => if path = 0 ∧ pos = 0 then some (ordOf (enc32 (.fin false 1 region))) else none
  | 1 => match dec32 (ofOrd pos) with
      | .fin _ m e => if path = 0 then (powerOfTwo m e).map fun k => ordOf (ofInt32 k) else none
      | _ => none
  | 2 => if path = 0 ∧ pos = -fixOne ∧ region < 128 then some (ordOf (enc32 (.fin false 1 region))) else none
  | 3 => if path = 0 ∧ pos = -fixOne then some (ordOf fone) else none
  | 4 => limit
  | 5 => limit
  | 6 => if pos.natAbs < 2 ^ 388 then some (ordOf (enc32 (ofFix pos))) else none
  | 7 => if pos.natAbs < 2 ^ 388 then some (ordOf (enc32 (ofFix pos))) else none
  | _ => if pos = 0 then some 0 else if pos.natAbs = 2 ^ 398 then some (if 0 < pos then ordOf fone else -(ordOf fone)) else none

/-- A place held to the results of the limit range next to it (R244, R245): that of SIGMOID and TANH around 0, that of SIN and COS
around their zeros. -/
def sfuBeside (code : Nat) (a : SfuArg) (pos v : Int) : Int :=
  let hold := fun (l : Int) => if 0 < pos then max v l else min v l
  let edge := fun (b : Int) => match sfuLimit code (ofOrd b) (dec32 (ofOrd b)) with
    | some w => hold (ordOf w)
    | none => v
  match code with
  | 4 => edge (if 0 < pos then 0x397FFFFF else -0x397FFFFF)
  | 5 => edge 0x38FFFFFF
  | _ =>
      if code = 6 ∨ code = 7 then
        let d := a.steps.headD 1
        let n := ((pos.natAbs : Int) - 2 ^ 388) / d + 1
        let r := (pos.natAbs : Int) - n * d
        if -(2 ^ 388) < r then hold (ordOf (enc32 (ofFix (if 0 < pos then r else -r)))) else v
      else v

/-- The place of the result at a position: the table set's choice, held beside a limit range, and at a seam within 1 ulp of the larger
result, or 2 on the SX-256 path, of the step of the exact function (R243, R258). -/
def sfuResult (step : Int → Int → Int) (path : BitVec 2) (code : Nat) (a : SfuArg) : Nat → Int → Int
  | 0, _ => 0
  | n + 1, pos =>
      match sfuFixed path code a.region pos with
      | some v => v
      | none =>
          let x := sfuAt code a.region pos
          let ws := sfuWords (sfuBound path code) x
          let v := sfuBeside code a pos (sfuPick (step a.region) ws pos)
          a.steps.foldl (fun v d =>
            let prev := pos - d
            if pos % d ≠ 0 && decide (code ≠ 6 ∧ code ≠ 7) || !sfuInside code prev
              || sfuSegment path code prev = sfuSegment path code pos then v
            else
              let y := sfuResult step path code a n prev
              let span := x.add (sfuAt code a.region prev).neg
              let fits := fun (w : Int) =>
                let big := dec32 (ofOrd (if y.natAbs ≤ w.natAbs then w else y))
                let ulp := match big with
                  | .fin _ m e => Num.fin false (if path = 0 then 1 else 2) (max (-149) ((if m = 0 then -149 else log2Floor m e - 23)))
                  | z => z
                !(span.add ulp).lt ((dec32 (ofOrd w)).add (dec32 (ofOrd y)).neg)
              if fits v then v else (((y :: ws).filter fun w => decide (y ≤ w ∧ w ≤ v) && fits w).foldl max y)) v

/-- An argument next to an extremum of SIN or COS, whichever side of it the reduction puts it on, ends both intervals (R245). -/
def sfuExtremum (code : Nat) (a : SfuArg) : Bool :=
  (code = 6 || code = 7) && decide (2 * (quadrant - a.pos.natAbs).natAbs ≤ (a.steps.headD 1).natAbs)

/-- A hardware function, codes 0x0 to 0x9, on a path other than the fall-back's, at an argument that no row of R242 covers. -/
def sfuPoly (tab : BitVec 384) (path : BitVec 2) (code : Nat) (w : Word) (neg : Bool) (m : Nat) (e : Int) : Word :=
  let a := sfuReduce code w neg m e
  let step := Config.sfuStep tab path (BitVec.ofNat 4 code)
  let v := sfuResult step path code a 4 a.pos
  let v1 :=
    if sfuExtremum code a then
      let other := { a with region := 1 - a.region }
      let u := sfuResult step path code other 4 ((if 0 < a.pos then 2 * quadrant else -2 * quadrant) - a.pos)
      if 0 < a.pos then max v u else min v u
    else v
  if a.shift = 0 then (if a.neg then ofOrd (-v1) else ofOrd v1)
  else enc32 (match (dec32 (ofOrd v1)).scale a.shift with | .fin _ m e => .fin a.neg m e | x => x)

/-- A hardware function, codes 0x0 to 0x9: the limits of R242 on every path, and otherwise a value of the set within the bound, by the
fall-back without a promise of monotonicity (R261). In SX-256 compatibility mode SIN and COS of |x| above 65,536 give NaN. -/
def sfuHw (tab : BitVec 384) (path : BitVec 2) (code : Nat) (w : Word) : Word :=
  let x := dec32 w
  match sfuLimit code w x with
  | some v => v
  | none =>
    match x with
    | .fin neg m e =>
        if path = 1 && (code = 6 || code = 7) && decide (65536 * fixOne < toFix m e) then canonicalNan
        else if path = 2 then
          let a := sfuReduce code w neg m e
          match (if code = 6 ∨ code = 7 then sfuFixed path code a.region a.pos else none) with
          | some v => ofOrd v
          | none => confine (sfuWords (sfuBound path code) (sfuExact code neg m e)) (Config.sfuValue tab (BitVec.ofNat 4 code) w)
        else sfuPoly tab path code w neg m e
    | _ => canonicalNan

/-! ### Micro-operations (R256) -/

/-- GETEXP: ⌊log2 |A|⌋; ±0 gives -∞, ±∞ gives +∞. -/
def getExp (a : Word) : Word :=
  match dec32 a with
  | .nan => canonicalNan
  | .inf _ => posInf
  | .fin _ m e => if m = 0 then negInf else ofInt32 (log2Floor m e)

/-- GETMANT: |A| · 2^-⌊log2 |A|⌋ with the sign of A; ±0 and ±∞ unchanged. -/
def getMant (a : Word) : Word :=
  match dec32 a with
  | .nan => canonicalNan
  | .inf _ => a
  | .fin s m e => if m = 0 then a else enc32 (.fin s m (e - log2Floor m e))

/-- FLOOR: ⌊A⌋; a zero result keeps the sign of A (log entry 15). -/
def floor32 (a : Word) : Word :=
  match dec32 a with
  | .nan => canonicalNan
  | .inf _ => a
  | .fin s m e =>
      if 0 ≤ e then a
      else
        let k := 2 ^ (-e).toNat
        let q := if s && m % k ≠ 0 then m / k + 1 else m / k
        enc32 (.fin s q 0)

/-- CPSGN: |A| with the sign of B. -/
def copySign (a b : Word) : Word :=
  if isNan32 a then canonicalNan else (a &&& 0x7FFFFFFF) ||| (b &&& 0x80000000)

/-- What a lane's micro-operations read of their plot: the micro-program image in the active bank, and the hardware functions
under the plot's tables and mode. -/
structure MicroEnv where
  image : BitVec 384
  hw : Nat → Word → Word

def microReg (r : Sparse Word) (i : BitVec 3) : Word := (r.lookup i.toNat).getD 0

def microSet (r : Sparse Word) (i : BitVec 3) (v : Word) : Sparse Word :=
  (i.toNat, v) :: r.filter fun x => x.1 ≠ i.toNat

/-- One micro-operation other than END on a lane's registers, by its OP and fields. -/
def microOp (env : MicroEnv) (r : Sparse Word) (op : Nat) (d a b c : BitVec 3) (imm : BitVec 15) : Sparse Word :=
  let x := microReg r a
  let y := microReg r b
  let z := microReg r c
  match op with
  | 0x00 => microSet r d (fadd x y)
  | 0x01 => microSet r d (fsub x y)
  | 0x02 => microSet r d (fmul x y)
  | 0x03 => microSet r d (ffma x y z)
  | 0x04 => microSet r d (fmin x y)
  | 0x05 => microSet r d (fmax x y)
  | 0x06 => microSet r d (fabs x)
  | 0x07 => microSet r d (copySign x y)
  | 0x08 => microSet r d (Config.microConst env.image (imm.toNat % 64))
  | 0x09 => microSet r d (fscale x (signedOf 9 (imm.toNat % 512)))
  | 0x0A => microSet r d (getExp x)
  | 0x0B => microSet r d (getMant x)
  | 0x0C => microSet r d (floor32 x)
  | 0x0D => if (dec32 x).lt (dec32 y) then microSet r d z else r
  | 0x0E => microSet r d (env.hw (imm.toNat % 16) x)
  | _ => r

/-- A micro-program from word i on, at most n words: its result is r0 at END. -/
def microRun (env : MicroEnv) (r : Sparse Word) (i : Nat) : Nat → Word
  | 0 => microReg r 0
  | n + 1 =>
      let w := (Config.microWord env.image i).toNat
      if w / 2 ^ 27 = 0x1F then microReg r 0
      else
        let f := fun (lo : Nat) => BitVec.ofNat 3 (w / 2 ^ lo)
        microRun env (microOp env r (w / 2 ^ 27) (f 24) (f 21) (f 18) (f 15) (BitVec.ofNat 15 w)) (i + 1) n

/-- Directory entry of a micro-program slot (R255). -/
def microEntry (image : BitVec 384) (slot : Nat) : Nat := (Config.microDir image slot).toNat
def microValid (image : BitVec 384) (slot : Nat) : Bool := microEntry image slot / 2 ^ 22 % 2 = 1

/-- A call to a micro-program slot: r0 holds the argument and r1 to r7 hold +0. -/
def microCall (env : MicroEnv) (slot : Nat) (x : Word) : Word :=
  let d := microEntry env.image slot
  microRun env [(0, x)] (d % 512) (d / 512 % 64 + 1)

/-- The micro-program image check of R257: words of the programs of VALID entries, and the Reserved bits of the directory. -/
def microImageOk (image : BitVec 384) : Bool :=
  (List.range 6).all fun slot =>
    let d := microEntry image slot
    let len := d / 512 % 64 + 1
    d / 2 ^ 23 = 0 && (!microValid image slot ||
      (decide (d % 512 + len ≤ 512) &&
       (List.range len).all fun i =>
        let w := (Config.microWord image (d % 512 + i)).toNat
        let op := w / 2 ^ 27
        if i + 1 = len then op = 0x1F else op ≤ 0x0E && (op ≠ 0x0E || w % 16 ≤ 9)))

end Sys2Proof.Machine
end

