-- ==== Sys2Proof/Machine/PlotOps.lean ====
section
/-! DEFINITION. What the units of a plot share (R144 to R148, R152 to R158, R168 to R174, R181, R182, R191, R192): the image's
tables, tokens and counters, stored tiles and their addresses, and the abort of a slot. -/

namespace Sys2Proof.Machine

/-! ### The image (R144 to R147) -/

/-- n bytes of an image from an offset on, as a number. -/
def imgNat (img : List Byte) (off n : Nat) : Nat := leNat ((img.drop off).take n)

def imgFlags (i : List Byte) : Nat := imgNat i 6 2
def imgTrain (i : List Byte) : Bool := imgFlags i % 2 = 1
def imgLength (i : List Byte) : Nat := imgNat i 8 4
def imgId (i : List Byte) : Word := BitVec.ofNat 32 (imgNat i 12 4)
def imgFootW (i : List Byte) : Nat := imgNat i 16 1
def imgFootH (i : List Byte) : Nat := imgNat i 17 1
def imgRetry (i : List Byte) : Nat := imgNat i 18 1 % 16
def imgRunnels (i : List Byte) : Nat := imgNat i 19 1
def imgBudget (i : List Byte) : Nat := imgNat i 20 2
def imgNSect (i : List Byte) : Nat := imgNat i 24 2
def imgNLayer (i : List Byte) : Nat := imgNat i 26 2
def imgNDesc (i : List Byte) : Nat := imgNat i 28 2
def imgNNest (i : List Byte) : Nat := imgNat i 30 2
def imgNWin (i : List Byte) : Nat := imgNat i 32 1
def imgStateMap (i : List Byte) : BitVec 16 := BitVec.ofNat 16 (imgNat i 34 2)
def imgWcd (i : List Byte) : Nat := imgNat i 36 4
def imgModel (i : List Byte) : Nat := imgNat i 40 8
/-- Offset of one of the eight tables, in the order of R144. -/
def imgTable (i : List Byte) (k : Nat) : Nat := imgNat i (96 + 4 * k) 4

/-- Offset of a section table entry (R146). -/
def imgSection (i : List Byte) (s : Nat) : Nat := imgTable i 1 + 32 * s
def sectProg (i : List Byte) (s : Nat) : Nat := imgNat i (imgSection i s + 16) 4
def sectFlLen (i : List Byte) (s : Nat) : Nat := imgNat i (imgSection i s + 4) 2
def sectFuLen (i : List Byte) (s : Nat) : Nat := imgNat i (imgSection i s + 6) 2

/-- A field of a descriptor record at an offset: w bits from bit lo of byte b on. -/
def recFld (i : List Byte) (off b lo w : Nat) : Nat := imgNat i (off + b) ((lo + w + 7) / 8) / 2 ^ lo % 2 ^ w

/-- Layer table entry (R147): threshold, WIDE, and the wide variants' word indices. -/
def layerThresh (i : List Byte) (l : Nat) : Nat := imgNat i (imgTable i 2 + 16 * l) 3
def layerWide (i : List Byte) (l : Nat) : Bool := imgNat i (imgTable i 2 + 16 * l + 3) 1 % 2 = 1
def layerFlume (i : List Byte) (l : Nat) : Nat := imgNat i (imgTable i 2 + 16 * l + 4) 4
def layerFurrow (i : List Byte) (l : Nat) : Nat := imgNat i (imgTable i 2 + 16 * l + 8) 4

/-- A byte range lies inside one window of the image, with W set for a write (R148). -/
def windowOk (i : List Byte) (region : Nat) (write : Bool) (a len : Nat) : Bool :=
  (List.range (imgNWin i)).any fun k =>
    let off := imgTable i 5 + 16 * k
    let base := recFld i off 0 0 48 + (if recFld i off 6 0 1 = 1 then region else 0)
    decide (base ≤ a ∧ a + len ≤ base + imgNat i (off + 8) 8) && (!write || recFld i off 6 1 1 = 1)

/-! ### Plots -/

def State.plot (s : State) (p : Nat) : Plot := sget ({} : Plot) s.plots p
def State.setPlot (s : State) (p : Nat) (x : Plot) : State := { s with plots := sput ({} : Plot) s.plots p x }

/-- The image of the slot a plot runs. -/
def State.imgOf (s : State) (x : Plot) : List Byte := (s.part x.part).slot.img

/-- Stream context region of the slot that a partition runs. -/
def State.slotRegion (s : State) (part : Nat) : Nat :=
  match (s.part part).slot.chunk with
  | some c => (s.stream c.stream.toNat).region
  | none => 0

def Plot.tile (x : Plot) (t : Nat) : Tile := sget ({} : Tile) x.tiles t
def Plot.setTile (x : Plot) (t : Nat) (v : Tile) : Plot := { x with tiles := sput ({} : Tile) x.tiles t v }
def Plot.stage (x : Plot) (bank : Bool) (n : Nat) : StageSlot :=
  sget ({} : StageSlot) (if bank then x.bank else x.rowStage) n
def Plot.setStage (x : Plot) (bank : Bool) (n : Nat) (v : StageSlot) : Plot :=
  if bank then { x with bank := sput ({} : StageSlot) x.bank n v }
  else { x with rowStage := sput ({} : StageSlot) x.rowStage n v }
def Plot.counter (x : Plot) (c : Nat) : Word := sget (0 : Word) x.ctr c
/-- A token counted; counter 0 is never incremented (R168). -/
def Plot.addCounter (x : Plot) (c n : Nat) : Plot :=
  if c = 0 then x else { x with ctr := sput (0 : Word) x.ctr c (x.counter c + BitVec.ofNat 32 n) }
def Plot.param_ (x : Plot) (r : Nat) : Word := sget (0 : Word) x.param r
def Plot.entry (x : Plot) (i : Nat) : Word := sget (0 : Word) x.ctx i
def Plot.stream (x : Plot) : StreamSel → StreamPos
  | .flume => x.flume
  | .furrow => x.furrow
def Plot.setStream (x : Plot) (sel : StreamSel) (v : StreamPos) : Plot :=
  match sel with
  | .flume => { x with flume := v }
  | .furrow => { x with furrow := v }

/-- Element (r, l) of a tile as stored. -/
def Tile.elem (t : Tile) (r l : Nat) : Word := t.data.getD (64 * r + l) 0

/-- What the furrow reads at a lane: the fill outside the valid extent (R203, R216). -/
def Tile.read (t : Tile) (r l : Nat) : Word :=
  if r < t.rows ∧ l < t.cols then t.elem r l else if t.negInf then Machine.negInf else fzero

/-- A row of 64 lanes as the furrow reads it. -/
def Tile.row (t : Tile) (r : Nat) : List Word := (List.range 64).map (t.read r)

/-- A tile's elements with one row replaced from lane 0 on. -/
def setRow (data : List Word) (r : Nat) (row : List Word) : List Word :=
  let full := data ++ List.replicate (4096 - data.length) (0 : Word)
  full.take (64 * r) ++ row ++ full.drop (64 * r + row.length)

/-- Tiles that carry stream state (R144). -/
def Plot.isState (x : Plot) (t : Nat) : Bool := x.stateMap.getLsbD t

/-- Tiles that are not FREE. -/
def Plot.liveTiles (x : Plot) : Nat := ((List.range 16).filter fun t => (x.tile t).st ≠ .free).length

/-! ### Ending a slot (R182) -/

/-- PENDING clears and GEN advances once every partition has taken the new table (R481). -/
def State.commitTaken (s : State) : State :=
  if s.flag ROT_CTL_PENDING && !(s.rot.parts.any fun x => x.2.toTake.isSome) then
    (s.wr ROT_CTL_PENDING 0 0).wr ROT_CTL_GEN 0 ((s.rd ROT_CTL_GEN + 1) % 2 ^ 32)
  else s

/-- The bank selects of the loaded units flip on a plot (R253). -/
def State.flipBanks (s : State) (q : Nat) : State := s.wr SFU_PLOT_CTL_BANK q (s.rd SFU_PLOT_CTL_BANK q ^^^ s.sfu.loadedUnits.toNat)

/-- A switch that a plot has still to make is made. -/
def State.flipOwed (s : State) (q : Nat) : State :=
  if s.sfu.owed.contains q then ({ s with sfu := { s.sfu with owed := s.sfu.owed.filter (· ≠ q) } }).flipBanks q else s

/-- A partition that takes other plots, or none, makes a pending switch on its plots first: they may belong to no partition from then on
(R253 step 6). -/
def State.flipPending (s : State) (p : Nat) (w : DWord) : State :=
  let a := (s.part p).act
  if getBits a 0 20 = getBits w 0 20 && a.getLsbD 40 = w.getLsbD 40 then s
  else ((s.partPlots p).map s.physOf).foldl State.flipOwed s

/-- At a slot boundary a partition takes the fields of a PENDING commit and restarts its walk (R481). -/
def State.boundary (s : State) (p : Nat) : State :=
  let x := s.part p
  match x.toTake with
  | none => s
  | some w =>
      let x1 := { x with act := w, toTake := none, walk := 0, cadence := 0, fired := false, pendTrig := false, lastLoad := none,
                         skips := 0, forceCold := true }
      (((s.flipPending p w).setPart p x1).checkStranding p).commitTaken

/-- A partition's IDLE bit follows its slot (R477); fences that waited for the slot's end are made. -/
def State.syncIdle (s : State) (p : Nat) : State :=
  let s1 := s.wr ROT_PART_IDLE p (if (s.part p).slot.phase = .idle then 1 else 0)
  (s1.fencePending s1.lev.pend).restage

/-- A plot under ABORT: it stops issuing and discards passes that have not drained, its fills and moves; tile and stage contents
stay (R153). -/
def Plot.abort (x : Plot) : Plot :=
  { x with running := false, loaded := false, passes := [], fills := [], moves := [], sfuQ := [], fuRun := none, walks := [],
           flume := {}, furrow := {}, micro := [], mpNext := 0, mpOut := [],
           tiles := x.tiles.map fun t => (t.1, { t.2 with held := 0, st := if t.2.st = .free then .free else .live }) }

def State.abortPlots (s : State) (p : Nat) : List Nat → State
  | [] => s
  | l :: ls =>
      let q := s.physOf l
      ((s.setPlot q (s.plot q).abort).endPlotWalks p q).abortPlots p ls

/-- The operation of an aborted slot completes with its status (R64, R488), if nothing ended it before. -/
def State.failChunkOp (s : State) (c : Chunk) (st : BitVec 12) (dt : BitVec 16) : State :=
  match s.op? c.ring c.seq with
  | some o => if o.stage = .done then s else s.failOp o st dt
  | none => s

/-- A refill that does not complete leaves its set DROPPED: its new pages pass through the grace list and its step's count goes. -/
def State.dropRefills (s : State) (p : Nat) : List Nat → State
  | [] => s
  | n :: ns =>
      let pool := s.pool p
      let x := pool.set_ n
      let s1 := if x.st = .refilling then
          let q : Pool := pool.setSet n { x with st := .dropped, pages := [] }
          let q1 : Pool := { q with grace := pool.grace ++ [.pages x.pages pool.walkIds] }
          s.setPool p (q1.decSet n)
        else s
      s1.dropRefills p ns

/-- A slot ends with a status of 0x100 or above (R182): every plot of the footprint aborts, tokens still arriving are discarded,
no swap-out follows, and the slot's operation completes with the status. The first report counts. STATE_TORN and
RETRY_PAGE_STARVED end a slot the same way and are not counted as aborts (R285, R312). -/
def State.abortSlot (s : State) (p : Nat) (st : BitVec 12) (dt : BitVec 16 := 0) : State :=
  let x := s.part p
  if x.slot.phase = .loading ∨ x.slot.phase = .running then
    let s1 := s.abortPlots p (s.partPlots p)
    let phase : SlotPhase := if x.transit.isEmpty then .idle else .swapping
    let slot := { x.slot with phase := phase, chunk := none, status := st, detail := dt, insLeft := [] }
    let s2 := ((s1.setPart p { s1.part p with slot := slot }).bump ctrAborted p (if 0x100 ≤ st.toNat then 1 else 0)).announceAbort p x.slot
    let s3 := { s2 with canal := s2.canal.filter fun t => !((s2.plot t.pplot).part = p && t.seq = x.slot.seq) }
    let s4 := match x.slot.chunk with
      | some c => (s3.dropRefills p c.sets).failChunkOp c st dt
      | none => s3
    (s4.syncIdle p).boundary p
  else s

/-- A plot ends its slot. -/
def State.failPlot (s : State) (p : Nat) (st : BitVec 12) : State := s.abortSlot (s.plot p).part st

/-! ### Plot stores and the canal (R580, R581) -/

/-- An error in a store that ECC cannot correct: logged, and the slot of the access ends. The word hit is a free value. -/
def State.storeFailure (s : State) (p unit index : Nat) : State :=
  let word := Config.freeNat s.freeIdx % 4096
  let s1 := ({ s with freeIdx := s.freeIdx + 1 } : State).plotLog p unit index word
  (if (s1.plot p).loaded then s1.failPlot p stMemUncorrectable else s1).storeEvidence p unit index false

/-- What a plot seep does to a store: SECDED corrects one bit, parity none. -/
def State.storeFault (s : State) (p unit index : Nat) (w : DWord) : State :=
  if unit = 3 ∨ unit = 5 ∨ w.getLsbD 18 then s.storeFailure p unit index
  else (s.bump ctrPlotCorrected p).storeEvidence p unit index true

/-- An access to a store of a plot, which the plot's seep counts (R582): by unit and index. -/
def State.touch (s : State) (p unit index : Nat) : State :=
  let h := s.seepEvents .plot p 1 fun w => seepTarget .plot w = unit && getBits w 5 7 = index
  match h.word with
  | some w => h.st.storeFault p unit index w
  | none => h.st

/-- Accesses to several stores. -/
def State.touches_ (s : State) (p : Nat) : List (Nat × Nat) → State
  | [] => s
  | u :: us => (s.touch p u.1 u.2).touches_ p us

/-- The slot that an endpoint of a lost message belongs to ends (R581). -/
def State.loseAt (s : State) : Station → State
  | .plot p => if (s.plot p).loaded then s.failPlot p stMemUncorrectable else s
  | _ => s

/-- A message that no one receives: the slots it came from and was addressed to end, and the fourth double failure of one link stops the
module. -/
def State.linkFailure (s : State) (p dir : Nat) (a b : Station) : State :=
  let k := 4 * p + dir
  let c := sget 0 s.lev.linkFails k + 1
  let word := Config.freeNat s.freeIdx % 4096
  let s1 := ({ s with lev := { s.lev with linkFails := sput 0 s.lev.linkFails k c }, freeIdx := s.freeIdx + 1 } : State).plotLog p 6 dir word
  let s2 := (s1.loseAt a).loseAt b
  if 4 ≤ c then s2.stop causeCanal dir else s2

/-- A message over a route: the seeps of its mesh links count it; a step corrupted once is sent again, one that fails again loses the
message. The flag says whether it arrives. -/
def State.overRoute (s : State) (a b : Station) : List Hop → State × Bool
  | [] => (s, true)
  | .segment _ _ :: hs => s.overRoute a b hs
  | .link p d :: hs =>
      let h := s.seepEvents .plot p 1 fun w => seepTarget .plot w = 6 && getBits w 5 7 = d
      match h.word with
      | some w => if seepPersists w then (h.st.linkFailure p d a b, false) else h.st.overRoute a b hs
      | none => h.st.overRoute a b hs

/-- A canal link's seep is armed or has fired. -/
def State.linkSeeps (s : State) : Bool :=
  s.inject.any (fun x => x.kind = .plot && seepTarget .plot x.word = 6)
  || s.armed.any fun x => x.2.getLsbD 0 && seepTarget .plot x.2 = 6 && decide (regOff .plotSeep 0 ≤ x.1 ∧ x.1 ≤ regOff .plotSeep 1055)

/-- A message of the canal from one endpoint to another. -/
def State.cross (s : State) (a b : Station) : State × Bool := if s.linkSeeps then s.overRoute a b (s.route a b) else (s, true)

/-! ### Tokens (R168 to R171) -/

/-- A token of an endpoint, tagged with a slot's number. -/
def State.engineToken (s : State) (src : Station) (dst ctr inc : Nat) (seq : Seq) : State :=
  match s.cross src (.plot dst) with
  | (s1, true) => { s1 with canal := s1.canal ++ [⟨src, dst, ctr, inc, seq⟩] }
  | (s1, false) => s1

/-- A token sent to a plot: to the plot's own counters at once, to another on the canal. -/
def State.sendToken (s : State) (frm dst ctr inc : Nat) : State :=
  let x := s.plot frm
  if frm = dst then s.setPlot frm (x.addCounter ctr inc) else s.engineToken (.plot frm) dst ctr inc x.seq

/-! ### Tile descriptors (R191, R192) -/

/-- A tile descriptor with its counts as counts. -/
structure TileDesc where
  base : Nat
  src : Nat
  lplot : Nat
  fmt : Nat
  rows : Nat
  cols : Nat
  rstride : Nat
  sbase : Nat
  sstride : Nat
  tshift : Nat
  negInf : Bool
  state : Bool
  buf : Bool
  tiled : Bool
  bufstride : Nat
  deriving DecidableEq, Repr

/-- Descriptor n of an image. -/
def imgDesc (i : List Byte) (n : Nat) : TileDesc :=
  let o := imgTable i 3 + 32 * n
  { base := recFld i o 0 0 48, src := recFld i o 6 0 2, lplot := recFld i o 6 2 10, fmt := recFld i o 7 4 4,
    rows := imgNat i (o + 8) 2 + 1, cols := imgNat i (o + 10) 2 + 1, rstride := imgNat i (o + 12) 4,
    sbase := recFld i o 16 0 48, sstride := imgNat i (o + 22) 2, tshift := imgNat i (o + 24) 1,
    negInf := recFld i o 25 0 1 = 1, state := recFld i o 25 1 1 = 1, buf := recFld i o 25 2 1 = 1,
    tiled := recFld i o 25 3 1 = 1, bufstride := imgNat i (o + 26) 2 }

/-- Fields of BASE under SRC PAGE (R298). -/
def TileDesc.pgLayer (d : TileDesc) : Nat := d.base % 64
def TileDesc.pgValues (d : TileDesc) : Bool := d.base / 64 % 2 = 1
def TileDesc.pgOwner (d : TileDesc) : Nat := d.base / 128 % 8
def TileDesc.pgBack (d : TileDesc) : Nat := d.base / 1024 % 128

/-- Page geometry of the model whose slot a plot runs. -/
def State.plotGeom (s : State) (x : Plot) : BitVec 256 :=
  ((s.model? (imgModel (s.imgOf x))).map (·.geom)).getD 0

/-- Rows of the logical matrix of a tile reference (R299): T times the sets of the snapshot under PAGE. -/
def State.refRows (s : State) (x : Plot) (d : TileDesc) (t : TileRef) : Nat :=
  if d.src = 3 then 2 ^ geomTokLog (s.plotGeom x) * t.walk.length else d.rows

/-- Where element row i of a stored tile and its scales lie (R192, R299). -/
def State.rowAddr (s : State) (x : Plot) (d : TileDesc) (t : TileRef) (i : Nat) : Nat × Nat :=
  let w := fmtBits d.fmt
  let tb := 8 * w
  let soff := if fmtMx d.fmt then t.off * 8 / (32 * w) else 0
  if d.src = 3 then
    let g := s.plotGeom x
    let row := 64 * t.r + i
    let tok := 2 ^ geomTokLog g
    let set := (s.pool x.part).set_ (t.walk.getD (row / tok) 0)
    let page := set.pages.getD d.pgLayer 0
    let a := s.rd PG_POOL_BASE_ADDR x.part * 65536 + page * s.pageBytes x.part
    let kr := geomKR g
    let sr := geomSR g
    let part := if d.pgValues then tok * (kr + sr) else 0
    (a + part + row % tok * kr + t.c * tb + t.off, a + part + tok * kr + row % tok * sr + 2 * t.c + soff)
  else
    let b := if d.buf then t.buf * d.bufstride * 4096 else 0
    let base := d.base + t.off + b
    let sb := d.sbase + soff + b
    let tc := (d.cols + 63) / 64
    let e := if d.tiled then base + (t.r * tc + t.c) * 64 * tb + i * tb else base + (64 * t.r + i) * d.rstride + t.c * tb
    let sc := if fmtMx d.fmt then
        (if d.tiled then sb + (t.r * tc + t.c) * 128 + 2 * i else sb + (64 * t.r + i) * d.sstride + 2 * t.c)
      else sb + 64 * t.r + i
    (e, sc)

/-- Valid rows and columns of a stored tile (R201). -/
def validExtent (rows cols r c : Nat) : Nat × Nat := (min 64 (rows - 64 * r), min 64 (cols - 64 * c))

/-- How an access of a plot may proceed. -/
inductive SrcAccess where
  | ok
  | wait                       -- an Aquifer address whose unit is not READY (R405)
  | fail (st : BitVec 12)
  deriving DecidableEq, Repr

/-- The worse of two accesses: a failure before a wait before a success. -/
def SrcAccess.and (a b : SrcAccess) : SrcAccess :=
  match a, b with
  | .fail st, _ => .fail st
  | _, .fail st => .fail st
  | .wait, _ => .wait
  | _, .wait => .wait
  | .ok, .ok => .ok

/-- Reservoir words of a column range with an uncorrectable error (R383). -/
def State.resvOk (s : State) (p off n : Nat) : Bool :=
  !(s.mem.resvBad.any fun k => decide (resvKey p off / 8 ≤ k ∧ k ≤ (resvKey p off + n - 1) / 8 ∧ 0 < n))

/-- A row recorded for repair at the next start-up (R385); a bank that needs more than its 8 spare rows loses its tier, and the module
stops (R588). -/
def State.repairRow (s : State) (p off : Nat) : State :=
  let k := resvKey p off / 256
  if s.lev.repairRows.contains k then s
  else
    let rows := s.lev.repairRows ++ [k]
    let s1 := { s with lev := { s.lev with repairRows := rows } }
    if (rows.filter fun r => r / 512 = k / 512).length ≤ 8 then s1
    else
      let tier := s.rd RES_TIER_CTL_MAP / 2 ^ (3 * (off / 2 ^ 21 % 8)) % 8
      ({ s1 with lev := { s1.lev with badTiers := tier :: s1.lev.badTiers.erase tier } }).stop causeTier tier

/-- A corrected error of a row; a row with more than 16 since start-up is repaired at the next one (R385). -/
def State.correctedRow (s : State) (p off : Nat) : State :=
  let k := resvKey p off / 256
  let n := sget 0 s.lev.rowErrors k + 1
  let s1 : State := { s with lev := { s.lev with rowErrors := sput 0 s.lev.rowErrors k n } }
  if 16 < n then s1.repairRow p off else s1

/-- Whether a read of a column by a unit of a reach delivers data (R383). A seep of the reach corrupts one bit of its first word, which
is corrected, or two: the read then delivers nothing, and under PERSIST the word stays bad (R410). -/
def State.resvRead (s : State) (reach p off n : Nat) : Bool × State :=
  if !s.resvOk p off n then (false, s.repairRow p off)
  else
    let h := s.seepEvents .memt reach 1 fun w => seepTarget .memt w < 2
    match h.word with
    | some w =>
        if seepTarget .memt w = 0 then (true, h.st.correctedRow p off)
        else
          let s1 := h.st
          let s2 := if seepPersists w then { s1 with mem := { s1.mem with resvBad := (resvKey p off / 8) :: s1.mem.resvBad } } else s1
          (false, s2.repairRow p off)
    | none => (true, h.st)

/-- The unit of the weight cache that serves an Aquifer address, if it is READY. -/
def State.wcReady (s : State) (a : Nat) : Option Nat :=
  (s.wcFind ((a - aqBase) / 65536)).bind fun u => if (s.wcUnit u).st = .ready ∨ (s.wcUnit u).st = .pinned then some u else none

/-- Every unit that a range of the window touches is READY. -/
def State.wcReadyAll (s : State) (a n : Nat) : Bool :=
  (List.range ((a % 65536 + n + 65535) / 65536)).all fun k => (s.wcReady (a + 65536 * k)).isSome

/-- Bytes of the window through the weight cache, unit by unit. -/
def State.aqBytes (s : State) (a n : Nat) : Nat → List Byte
  | 0 => []
  | k + 1 =>
      let m := min n (65536 - a % 65536)
      (match s.wcReady a with
        | some u => s.cisBytes (s.wcAddr u + (a - aqBase) % 65536) m
        | none => List.replicate m 0) ++ s.aqBytes (a + m) (n - m) k

/-- A write of a plot that reaches a page which its slot does not hold open or refill (R296): pages of any partition's pool. -/
def State.pageForeign (s : State) (x : Plot) (a n : Nat) : Bool :=
  (List.range 64).any fun q =>
    let size := s.pageBytes q
    let base := s.rd PG_POOL_BASE_ADDR q * 65536
    let stop := base + s.rd PG_POOL_CTL_PAGES q * size
    s.flag PG_POOL_CTL_ENABLE q && decide (a < stop ∧ base < a + n) &&
      let pool := s.pool q
      let sets := (x.openSets.map fun o => o.2 - 1) ++ (((s.part q).slot.chunk.map (·.sets)).getD [])
      let mine := sets.flatMap fun k =>
        let f := pool.set_ k
        if f.st = .open_ ∨ f.st = .refilling then f.pages ++ f.recipe else []
      let lo := (max a base - base) / size
      let hi := (min (a + n) stop - 1 - base) / size
      x.part ≠ q || ((List.range (hi + 1)).drop lo).any fun g => !mine.contains g

/-- Bytes of the window whose cache copies can be read. -/
def State.aqClean (s : State) (a n : Nat) : Nat → Bool
  | 0 => true
  | k + 1 =>
      let m := min n (65536 - a % 65536)
      (match s.wcReady a with
        | some u => s.cisStatus (s.wcAddr u + (a - aqBase) % 65536) m = stOk
        | none => false) && (n ≤ m || s.aqClean (a + m) (n - m) k)

/-- An uncorrectable read of a cache unit returns the unit to FREE (R399). -/
def State.wcScrub (s : State) (a n : Nat) : Nat → State
  | 0 => s
  | k + 1 =>
      let m := min n (65536 - a % 65536)
      let s1 := match s.wcReady a with
        | some u => if s.cisStatus (s.wcAddr u + (a - aqBase) % 65536) m = stOk then s else s.setWcUnit u {}
        | none => s
      if n ≤ m then s1 else s1.wcScrub (a + m) (n - m) k

/-- Rights of an image's slot on a range of the MAS (R148, R296, R380, R405): inside one window, all in one row of R379, no write to the
Aquifer range or to a page that the slot does not hold, and readable. -/
def State.masRights (s : State) (img : List Byte) (region : Nat) (foreign write : Bool) (a n : Nat) : SrcAccess :=
  if n = 0 then .ok
  else if !windowOk img region write a n then .fail stDenied
  else if s.masRow a ≠ s.masRow (a + n - 1) ∨ s.masRow a = 3 then .fail stDenied
  else if s.masRow a = 0 && !s.cisOpen a n then .wait
  else if s.masRow a = 0 then
    if allGranules (fun g => !s.granSystem g) (a / 2 ^ 26) ((a + n - 1) / 2 ^ 26 - a / 2 ^ 26 + 1) then
      (if write then (if foreign then .fail stDenied else .ok)
       else if s.cisStatus a n = stOk then .ok else .fail (s.cisStatus a n))
    else .fail stDenied
  else if s.masRow a = 1 then
    if write || s.resvOk (s.physOf ((a - 0x10000000000) / 0x1000000)) (a % 0x1000000) n then .ok else .fail stMemUncorrectable
  else if write then .fail stDenied
  else if s.wcReadyAll a n && s.aqClean a n (n / 65536 + 2) then .ok else .wait

/-- Rights of a plot's slot on a range of the MAS. -/
def State.masAccess (s : State) (x : Plot) (write : Bool) (a n : Nat) : SrcAccess :=
  s.masRights (s.imgOf x) (s.slotRegion x.part) (write && s.pageForeign x a n) write a n

/-- Bytes of the MAS that a plot's access reads. -/
def State.masBytes (s : State) (a n : Nat) : List Byte :=
  if s.masRow a = 1 then s.resvBytes (s.physOf ((a - 0x10000000000) / 0x1000000)) (a % 0x1000000) n
  else if s.masRow a = 2 then
    s.aqBytes a n (n / 65536 + 2)
  else s.cisBytes a n

def State.masWrite (s : State) (part : Option Nat) (a : Nat) (bs : List Byte) : State := s.bufWrite part a bs

/-- Physical plot whose column a LOCAL or PLOT source names. -/
def State.colPlot (s : State) (p : Nat) (d : TileDesc) : Nat := if d.src = 2 then s.physOf d.lplot else p

/-- Budget in bytes of a column (R199). -/
def State.budgetOf (s : State) (p : Nat) : Nat := imgBudget (s.imgOf (s.plot p)) * 65536

/-- The 64-byte-aligned bursts that hold n bytes from an address on (R201). -/
def burstsOf (a n : Nat) : Nat × Nat := if n = 0 then (a, 0) else (a / 64 * 64, ((a + n - 1) / 64 - a / 64 + 1) * 64)

/-- Rights of a plot on one run of bytes of a descriptor's source; a read delivers nothing where a burst of it cannot be corrected. -/
def State.srcAccess (s : State) (p : Nat) (d : TileDesc) (write : Bool) (a n : Nat) : SrcAccess :=
  if n = 0 then .ok
  else if d.src = 0 ∨ d.src = 2 then
    let q := s.colPlot p d
    let b := burstsOf a n
    if s.budgetOf q < a + n then .fail stReservoirOverflow
    else if write || s.resvOk q b.1 b.2 then .ok else .fail stMemUncorrectable
  else if d.src = 1 then s.masAccess (s.plot p) write a n
  else if !s.cisOpen a n then .wait
  else if write ∨ s.cisStatus a n = stOk then .ok else .fail (s.cisStatus a n)

def State.srcBytes (s : State) (p : Nat) (d : TileDesc) (a n : Nat) : List Byte :=
  if d.src = 0 ∨ d.src = 2 then s.resvBytes (s.colPlot p d) a n
  else if d.src = 1 then s.masBytes a n else s.cisBytes a n

def State.srcWrite (s : State) (p : Nat) (d : TileDesc) (a : Nat) (bs : List Byte) : State :=
  if d.src = 0 ∨ d.src = 2 then s.resvWrite (s.colPlot p d) a bs
  else if d.src = 1 then s.masWrite (some (s.plot p).part) a bs else s.cisSend (some (s.plot p).part) a bs

/-- Scale bytes of row i that a tile with vc valid columns carries: one per MX block with a valid element, one row shift. -/
def scaleBytes (f vc : Nat) : Nat := if fmtMx f then (vc + 31) / 32 else if fmtInt f then 1 else 0

/-- Bytes of a row that an access of vc valid elements reaches; a write ends with a whole 6-bit group (R201, R204). -/
def rowBytes (f vc : Nat) (write : Bool) : Nat :=
  if write && fmtBits f = 6 then (vc + 3) / 4 * 3 else (vc * fmtBits f + 7) / 8

/-- The endpoint that holds a MAS address: a plot's column, or an edge block's memory (R25). -/
def State.masStation (s : State) (a : Nat) : Station :=
  if s.masRow a = 1 then .plot (s.physOf ((a - 0x10000000000) / 0x1000000)) else if s.masRow a = 0 then .edge (chanOf a) else .edge edgeAquifer

/-- The endpoint that holds a stored tile. -/
def State.tileStation (s : State) (p : Nat) (d : TileDesc) (t : TileRef) : Station :=
  let a := (s.rowAddr (s.plot p) d t 0).1
  if d.src = 0 ∨ d.src = 2 then .plot (s.colPlot p d) else if d.src = 1 then s.masStation a else .edge (chanOf a)

/-- A page tile as the cache of its reach names it (R320). -/
def State.pageKey (s : State) (p : Nat) (d : TileDesc) (t : TileRef) : Nat := (s.rowAddr (s.plot p) d t 0).1

/-- The reach's page-tile cache holds a tile. -/
def State.pageCached (s : State) (p : Nat) (d : TileDesc) (t : TileRef) : Bool :=
  d.src = 3 && (sget ([] : List Nat) s.sfu.pgCache (reachOf (s.plot p).lplot)).contains (s.pageKey p d t)

/-- The page-tile cache of a reach serves or takes a tile (R320): capacity in tiles of the size asked for, the least recently
requested replaced. -/
def State.cacheTouch (s : State) (reach key bytes : Nat) (count : Bool) : State :=
  let l := sget ([] : List Nat) s.sfu.pgCache reach
  let cap := s.cacheBytes reach * 64 / bytes
  let s1 := if count then s.bump (if l.contains key then ctrCacheHits else ctrCacheMisses) reach else s
  { s1 with sfu := { s1.sfu with pgCache := sput ([] : List Nat) s1.sfu.pgCache reach ((key :: l.erase key).take cap) } }

/-- Bytes of a page tile with its scales, as the cache counts it. -/
def pageTileBytes (f : Nat) : Nat := 64 * 8 * fmtBits f + 128

/-- Rights on every byte of a stored tile that an access reaches. A message to a plot whose map entry is CHANGING waits (R157). -/
def State.tileAccess (s : State) (p : Nat) (d : TileDesc) (t : TileRef) (write : Bool) : SrcAccess :=
  let x := s.plot p
  let v := validExtent (s.refRows x d t) d.cols t.r t.c
  let nb := rowBytes d.fmt v.2 write
  if s.changingAt (s.tileStation p d t) then .wait
  else if !write && s.pageCached p d t then .ok
  else (List.range v.1).foldl (fun acc i =>
    let a := s.rowAddr x d t i
    (acc.and (s.srcAccess p d write a.1 nb)).and (s.srcAccess p d write a.2 (scaleBytes d.fmt v.2))) .ok

/-- What an access meets in the plot's own stores. The flag says whether the slot goes on. -/
def State.enterStores (s : State) (p : Nat) (stores : List (Nat × Nat)) : State × Bool :=
  let s1 := s.touches_ p stores
  (s1, (s1.plot p).running = (s.plot p).running)

/-- The rows of a stored tile requested of Cistern with the partition's tag (R416, R423), from row i on. -/
def State.rowsRead (s : State) (p : Nat) (d : TileDesc) (t : TileRef) (i : Nat) : Nat → BitVec 12 × State
  | 0 => (stOk, s)
  | n + 1 =>
      let x := s.plot p
      let v := validExtent (s.refRows x d t) d.cols t.r t.c
      let r := s.cisRead (some x.part) (s.rowAddr x d t i).1 (rowBytes d.fmt v.2 false)
      if r.1 = stOk then r.2.rowsRead p d t (i + 1) n else r

def State.rowsSent (s : State) (p : Nat) (d : TileDesc) (t : TileRef) (i : Nat) : Nat → State
  | 0 => s
  | n + 1 =>
      let x := s.plot p
      let v := validExtent (s.refRows x d t) d.cols t.r t.c
      let nb := rowBytes d.fmt v.2 true
      (s.sendGranules (some x.part) (s.rowAddr x d t i).1 nb (nb / 256 + 2)).rowsSent p d t (i + 1) n

/-- A stored tile lies in Cistern. -/
def State.tileInCistern (s : State) (p : Nat) (d : TileDesc) (t : TileRef) : Bool :=
  d.src = 3 || (d.src = 1 && s.masRow (s.rowAddr (s.plot p) d t 0).1 = 0)

/-- What an access to a stored tile meets on its way: the canal to another endpoint, at a read of a column the seep of its reach, and in
Cistern its channels (R410, R416, R423, R581); a page tile passes the cache of the reach (R320). The flag says whether the slot goes
on. -/
def State.reachTile (s : State) (p : Nat) (d : TileDesc) (t : TileRef) (write : Bool) : State × Bool :=
  let a := s.tileStation p d t
  match if a = .plot p then (s, true) else if write then s.cross (.plot p) a else s.cross a (.plot p) with
  | (s1, false) => (s1, false)
  | (s1, true) =>
      if !write && (d.src = 0 || d.src = 2) then
        match s1.resvRead (reachOf (s1.plot p).lplot) (s1.colPlot p d) (s1.rowAddr (s1.plot p) d t 0).1 8 with
        | (true, s2) => (s2, true)
        | (false, s2) => (s2.failPlot p stMemUncorrectable, false)
      else
        let reach := reachOf (s1.plot p).lplot
        let rows := (validExtent (s1.refRows (s1.plot p) d t) d.cols t.r t.c).1
        let cached := s1.pageCached p d t
        let s2 := if d.src = 3 then s1.cacheTouch reach (s1.pageKey p d t) (pageTileBytes d.fmt) (!write) else s1
        if cached && !write || !s2.tileInCistern p d t then (s2, true)
        else if write then (s2.rowsSent p d t 0 rows, true)
        else
          let r := s2.rowsRead p d t 0 rows
          if r.1 = stOk then (r.2, true) else (r.2.failPlot p r.1, false)

/-- Cache units that a waiting read of a stored tile could not read return to FREE. -/
def State.scrubTile (s : State) (p : Nat) (d : TileDesc) (t : TileRef) : State :=
  let v := validExtent (s.refRows (s.plot p) d t) d.cols t.r t.c
  if d.src ≠ 1 then s
  else (List.range v.1).foldl (fun s i =>
    let a := (s.rowAddr (s.plot p) d t i).1
    if s.masRow a = 2 then s.wcScrub a (rowBytes d.fmt v.2 false) 2 else s) s

/-- Codes of the valid elements of row i of a stored tile. -/
def State.rowCodes (s : State) (p : Nat) (d : TileDesc) (t : TileRef) (vc i : Nat) : List Nat :=
  let w := fmtBits d.fmt
  let bs := s.srcBytes p d (s.rowAddr (s.plot p) d t i).1 ((vc * w + 7) / 8)
  (List.range vc).map (unpackElem w bs)

/-- Scale byte of block b, or of the row, of row i; the tensor shift comes from the descriptor. -/
def State.rowScale (s : State) (p : Nat) (d : TileDesc) (t : TileRef) (vc i b : Nat) : Nat :=
  if fmtTensor d.fmt then d.tshift
  else
    ((s.srcBytes p d (s.rowAddr (s.plot p) d t i).2 (scaleBytes d.fmt vc)).getD b 0).toNat

/-- A stored tile as staged (R122, R201, R202): elements outside the valid extent are +0, their scale bytes zero. In a block that the extent
cuts, the missing elements have the block's own scale, so under code 0xFF they read as NaN (R87; DEDUCED, log entry 116). -/
def State.stageTile (s : State) (p : Nat) (d : TileDesc) (t : TileRef) : StageSlot :=
  let v := validExtent (s.refRows (s.plot p) d t) d.cols t.r t.c
  let w := fmtBits d.fmt
  let data := (List.range 64).flatMap fun i => packRow w (if i < v.1 then s.rowCodes p d t v.2 i else [])
  let sc : List Byte :=
    if fmtMx d.fmt then
      (List.range 128).map fun k =>
        if k / 2 < v.1 ∧ k % 2 < scaleBytes d.fmt v.2 then BitVec.ofNat 8 (s.rowScale p d t v.2 (k / 2) (k % 2)) else 0
    else if fmtInt d.fmt then (List.range 64).map fun i => if i < v.1 then BitVec.ofNat 8 (s.rowScale p d t v.2 i 0) else 0
    else if fmtTensor d.fmt then [BitVec.ofNat 8 d.tshift] else []
  { full := true, fmt := d.fmt, negInf := d.negInf, data := data, scales := sc }

/-- Values of row i of a stored tile, scales applied, for the lanes inside the valid extent. -/
def State.rowValues (s : State) (p : Nat) (d : TileDesc) (t : TileRef) (vc i : Nat) : List Num :=
  (List.range vc).zipWith (fun l c => scaledDec d.fmt c (s.rowScale p d t vc i (if fmtMx d.fmt then l / 32 else 0)))
    (s.rowCodes p d t vc i)

/-- A converted row written at row i of a stored tile (R204): valid elements and the packed group they end in; scale bytes of
blocks that hold a valid element. -/
def State.writeRow (s : State) (p : Nat) (d : TileDesc) (t : TileRef) (vc i : Nat) (codes scales : List Nat) : State :=
  let w := fmtBits d.fmt
  let a := s.rowAddr (s.plot p) d t i
  let s1 := s.srcWrite p d a.1 ((packRow w (codes.take vc)).take (rowBytes d.fmt vc true))
  let sc : List Byte := (scales.take (scaleBytes d.fmt vc)).map (BitVec.ofNat 8)
  if sc.isEmpty then s1 else s1.srcWrite p d a.2 sc

/-! ### PAGE descriptors (R298, R301, R303, R304) -/

/-- The block an owner's version v_k of a TRAIN descriptor was, where the device keeps it (R304). -/
def Op.keptBlock (o : Op) (owner k : Nat) : Nat :=
  if k = 0 then ((o.anchors.find? fun x => x.1 = owner).map (·.2)).getD 0
  else ((o.kept.find? fun x => x.1 = owner && x.2.1 = k).map (·.2.2)).getD 0

/-- Sets that a PAGE descriptor's walk reads: the version's sets oldest first, then the open set, and in a refill only the sets
older than the refilled one (R316); under BACK b the sets of v_{H-b} and then the set of frame H-b+1, the last that
v_{H-b+1} lists. -/
def State.pageSets (s : State) (x : Plot) (d : TileDesc) : List Nat :=
  let pool := s.pool x.part
  if d.pgBack = 0 then
    let o := sget 0 x.openSets d.pgOwner
    let sets := (pool.block (sget 0 x.versions d.pgOwner)).sets
    if o = 0 then sets else sets.takeWhile (fun n => n ≠ o - 1) ++ [o - 1]
  else
    match (s.part x.part).slot.chunk.bind fun c => s.op? c.ring c.seq with
    | some o =>
        let owner := sget 0 x.owners d.pgOwner - 1
        let k := o.fld 24 0 10 + 1 - d.pgBack
        let last := (pool.block (o.keptBlock owner (k + 1))).sets
        (pool.block (o.keptBlock owner k)).sets ++ last.drop (last.length - 1)
    | none => []

/-- A PAGE descriptor that a word may not name when it issues (R298, R304). -/
def State.pageDenied (s : State) (x : Plot) (d : TileDesc) : Bool :=
  let g := s.plotGeom x
  let c := (s.part x.part).slot.chunk
  let o := c.bind fun c => s.op? c.ring c.seq
  let train := (o.map fun o => o.opcode = 4 && o.fld 27 0 1 = 1).getD false
  let w := (o.map fun o => o.fld 29 0 6 + 1).getD 0
  decide (geomLayers g ≤ d.pgLayer) || decide (d.cols ≠ geomKvCols g) || decide (d.fmt ≠ geomFmt g)
  || decide (sget 0 x.owners d.pgOwner = 0) || decide (d.pgBack ≠ 0 ∧ (!train ∨ w < d.pgBack))

end Sys2Proof.Machine
end

