-- ==== Sys2Proof/Machine/Nest.lean ====
section
/-! DEFINITION. The expansion of a nest descriptor (R184 to R211): the order of passes, staging rings, the accumulator window,
lift and buffer tokens, and the flume and furrow sides of a fused pair. -/

namespace Sys2Proof.Machine

/-! ### Nest descriptors (R188, R205) -/

/-- A PRODUCT descriptor with its counts as counts; levels are (M, N, K) for 1 to 4. -/
structure NestDesc where
  accin : Bool
  aAt : Bool
  bAt : Bool
  m : Nat
  n : Nat
  k : Nat
  levels : List (Nat × Nat × Nat)
  ords : List Nat
  adesc : Nat
  bdesc : Nat
  abase : Nat
  acount : Nat
  bbase : Nat
  bcount : Nat
  accBase : Nat
  dctr : Nat
  ofill : Nat
  lctr : Nat
  nbuf : Nat
  rctr : Nat
  deriving DecidableEq, Repr

def imgNestOff (i : List Byte) (n : Nat) : Nat := imgTable i 4 + 64 * n
def imgNestKind (i : List Byte) (n : Nat) : Nat := recFld i (imgNestOff i n) 0 0 2

def imgNest (i : List Byte) (x : Nat) : NestDesc :=
  let o := imgNestOff i x
  { accin := recFld i o 0 2 1 = 1, aAt := recFld i o 1 0 1 = 1, bAt := recFld i o 1 1 1 = 1,
    m := imgNat i (o + 2) 2 + 1, n := imgNat i (o + 4) 2 + 1, k := imgNat i (o + 6) 2 + 1,
    levels := (List.range 4).map fun l =>
      (imgNat i (o + 8 + 3 * l) 1 + 1, imgNat i (o + 9 + 3 * l) 1 + 1, imgNat i (o + 10 + 3 * l) 1 + 1),
    ords := (List.range 4).map fun l => recFld i o 20 (3 * l) 3,
    adesc := recFld i o 22 0 12, bdesc := recFld i o 24 0 12, abase := recFld i o 26 0 3, acount := recFld i o 26 4 3 + 1,
    bbase := recFld i o 27 0 4, bcount := recFld i o 27 4 4 + 1, accBase := recFld i o 28 0 4, dctr := recFld i o 30 0 6,
    ofill := recFld i o 30 6 2, lctr := recFld i o 31 0 6, nbuf := recFld i o 31 6 2 + 1, rctr := recFld i o 32 0 6 }

/-- A PAIR descriptor. -/
structure PairDesc where
  online : Bool
  res : Bool
  lag : Nat
  p1 : Nat
  p2 : Nat
  func : Nat
  ifmt : Nat
  icalib : Bool
  isr : Bool
  ix : Nat
  sctr : Nat
  octr : Nat
  ictr : Nat
  dctr : Nat
  idesc : Nat
  deriving DecidableEq, Repr

def imgPair (i : List Byte) (x : Nat) : PairDesc :=
  let o := imgNestOff i x
  { online := recFld i o 0 2 1 = 1, res := recFld i o 0 3 1 = 1, lag := recFld i o 1 0 4 + 1, p1 := recFld i o 2 0 12,
    p2 := recFld i o 4 0 12, func := recFld i o 6 0 6, ifmt := recFld i o 7 0 4, icalib := recFld i o 7 4 1 = 1,
    isr := recFld i o 7 5 1 = 1, ix := imgNat i (o + 8) 1, sctr := recFld i o 9 0 6, octr := recFld i o 10 0 6,
    ictr := recFld i o 11 0 6, dctr := recFld i o 12 0 6, idesc := recFld i o 13 0 12 }

/-! ### The order of passes (R185, R186) -/

/-- One level's iterations in its order. -/
def loop3 (ord M N K : Nat) : List (Nat × Nat × Nat) :=
  let rM := List.range M
  let rN := List.range N
  let rK := List.range K
  match ord with
  | 0 => rM.flatMap fun m => rN.flatMap fun n => rK.map fun k => (m, n, k)
  | 1 => rM.flatMap fun m => rK.flatMap fun k => rN.map fun n => (m, n, k)
  | 2 => rN.flatMap fun n => rM.flatMap fun m => rK.map fun k => (m, n, k)
  | 3 => rN.flatMap fun n => rK.flatMap fun k => rM.map fun m => (m, n, k)
  | 4 => rK.flatMap fun k => rM.flatMap fun m => rN.map fun n => (m, n, k)
  | _ => rK.flatMap fun k => rN.flatMap fun n => rM.map fun m => (m, n, k)

/-- A pass of a nest: its tile indices, its L1 block, its L3 block. -/
structure NPass where
  m : Nat
  n : Nat
  k : Nat
  key : List Nat := []
  blk : Nat := 0
  q : Nat := 0
  deriving DecidableEq, Repr

def NestDesc.level (d : NestDesc) (l : Nat) : Nat × Nat × Nat := d.levels.getD l (1, 1, 1)
def NestDesc.loop (d : NestDesc) (l : Nat) : List (Nat × Nat × Nat) :=
  loop3 (d.ords.getD l 0) (d.level l).1 (d.level l).2.1 (d.level l).2.2

def tiles64 (n : Nat) : Nat := (n + 63) / 64

/-- Index of one dimension from its four levels. -/
def mixIndex (a1 a2 a3 i1 i2 i3 i4 : Nat) : Nat := i1 + a1 * (i2 + a2 * (i3 + a3 * i4))

/-- The passes of a PRODUCT by L3 block, in the order of R186; a block may hold none. -/
def NestDesc.blocks (d : NestDesc) : List (List NPass) :=
  let l1 := d.level 0
  let l2 := d.level 1
  let l3 := d.level 2
  (d.loop 3).zipIdx.map fun (x4, q) =>
    (d.loop 2).flatMap fun x3 => (d.loop 1).flatMap fun x2 => (d.loop 0).filterMap fun x1 =>
      let m := mixIndex l1.1 l2.1 l3.1 x1.1 x2.1 x3.1 x4.1
      let n := mixIndex l1.2.1 l2.2.1 l3.2.1 x1.2.1 x2.2.1 x3.2.1 x4.2.1
      let k := mixIndex l1.2.2 l2.2.2 l3.2.2 x1.2.2 x2.2.2 x3.2.2 x4.2.2
      if m < tiles64 d.m ∧ n < tiles64 d.n ∧ k < tiles64 d.k then
        some { m := m, n := n, k := k, q := q, key := [x2.1, x2.2.1, x2.2.2, x3.1, x3.2.1, x3.2.2, q] }
      else none

/-- The product with its K loops innermost: the M and N loops in their orders, K merged (R207). -/
def NestDesc.innerK (d : NestDesc) : NestDesc :=
  let ks := d.levels.foldl (fun a l => a * l.2.2) 1
  { d with levels := d.levels.map (fun l => (l.1, l.2.1, 1)),
           ords := d.ords.map (fun o => if o = 0 ∨ o = 1 ∨ o = 4 then 0 else 2),
           k := min d.k (64 * ks) }

/-- The first product of a STAGE pair by L3 block and intermediate tile, all passes of a tile together (R207). With the K loops
innermost the L1 blocks of one output block merge over K, and the L3 blocks are those of M4 and N4 (log entry 100). -/
def NestDesc.stageBlocks (d : NestDesc) : List (List (List NPass)) :=
  let e := d.innerK
  ({ e with k := 1 } : NestDesc).blocks.map fun b => b.map fun p => (List.range (tiles64 e.k)).map fun k => { p with k := k }

def NestDesc.stageTiles (d : NestDesc) : List (List NPass) := d.stageBlocks.flatten

/-- L1 blocks numbered in the order in which they emit passes: one that emits none has no number, and breaks no run (log entry
100). -/
def numberBlocks (last : List Nat) (n : Nat) : List NPass → List NPass
  | [] => []
  | p :: ps => if p.key = last then { p with blk := n } :: numberBlocks last n ps
               else { p with blk := n + 1 } :: numberBlocks p.key (n + 1) ps

/-! ### Staging rings (R193, R194) -/

/-- Run number of each pass's tile: a run goes on while consecutive L1 blocks use the tile. -/
def runsOf (sel : NPass → Nat × Nat) (seen : List ((Nat × Nat) × Nat × Nat)) (next : Nat) : List NPass → List Nat
  | [] => []
  | p :: ps =>
      match seen.find? fun x => x.1 = sel p with
      | some (_, r, b) =>
          if p.blk ≤ b + 1 then r :: runsOf sel ((sel p, r, p.blk) :: seen.filter fun x => x.1 ≠ sel p) next ps
          else next :: runsOf sel ((sel p, next, p.blk) :: seen.filter fun x => x.1 ≠ sel p) (next + 1) ps
      | none => next :: runsOf sel ((sel p, next, p.blk) :: seen) (next + 1) ps

/-- A staging ring of an operand: first slot, slots, slots per tile. -/
structure SlotRing where
  bank : Bool
  base : Nat
  count : Nat
  w : Nat
  deriving DecidableEq, Repr

def SlotRing.cap (r : SlotRing) : Nat := r.count / r.w
def SlotRing.slot (r : SlotRing) (i : Nat) : Nat := r.base + r.w * (if r.cap = 0 then 0 else i % r.cap)

/-- Position of the first and of the last pass of a run. -/
def firstOf (runs : List Nat) (r : Nat) : Nat := runs.findIdx (· = r)
def lastOf (runs : List Nat) (r : Nat) : Nat := runs.length - 1 - runs.reverse.findIdx (· = r)

/-- Run i is not yet filled when its first pass is reached: its slot still holds run i - cap (R194). -/
def SlotRing.overflow (g : SlotRing) (runs : List Nat) (j : Nat) : Bool :=
  let r := runs.getD j 0
  firstOf runs r = j && decide (g.cap = 0 ∨ (g.cap ≤ r ∧ j ≤ lastOf runs (r - g.cap)))

/-! ### The accumulator window (R195) -/

/-- The (j+1)-th tile from a base on that carries no state; none below 16: ACC_OVERFLOW. -/
def windowTile (sm : BitVec 16) (base j : Nat) : Option Nat :=
  (((List.range 16).drop base).filter fun t => !sm.getLsbD t)[j]?

def NestDesc.outTile (d : NestDesc) (sm : BitVec 16) (m n : Nat) : Option Nat :=
  let wm := (d.level 0).1 * (d.level 1).1
  let wn := (d.level 0).2.1 * (d.level 1).2.1
  windowTile sm d.accBase ((m % wm) * wn + n % wn)

/-! ### Building the words -/

/-- What an expansion reads of its plot: STATE_MAP, slots per tile of each operand, the parameter offset, the page snapshots,
and the expansion's identity. -/
structure ExpEnv where
  img : List Byte
  sm : BitVec 16
  off : Nat
  sets : Nat → List Nat       -- by descriptor
  serial : Nat
  nest : Nat
  e : Nat

def waitItem (ctr v : Nat) : ExpItem := .word (.wait ⟨BitVec.ofNat 6 ctr, BitVec.ofNat 32 v⟩)
def signalItem (ctr : Nat) : ExpItem := .word (.signal ⟨BitVec.ofNat 6 ctr, 0, false, 1⟩)

/-- Slots that a tile of a descriptor takes (R122). -/
def slotsOf (img : List Byte) (desc : Nat) : Nat := if (imgDesc img desc).fmt = 0 then 2 else 1

/-- Reference to the stored tile that an operand's tile (r, c) is, transposed under AT or BT, within its L3 buffer (R192). -/
def ExpEnv.ref (v : ExpEnv) (d : NestDesc) (desc : Nat) (trans : Bool) (r c q br bc : Nat) : TileRef :=
  let t := imgDesc v.img desc
  let r' := if t.buf then r % br else r
  let c' := if t.buf then c % bc else c
  { desc := desc, r := if trans then c' else r', c := if trans then r' else c', off := v.off, buf := q % d.nbuf,
    walk := v.sets desc }

def block3 (d : NestDesc) (f : Nat × Nat × Nat → Nat) : Nat := f (d.level 0) * f (d.level 1) * f (d.level 2)

def ExpEnv.aRef (v : ExpEnv) (d : NestDesc) (desc : Nat) (p : NPass) : TileRef :=
  v.ref d desc d.aAt p.m p.k p.q (block3 d (·.1)) (block3 d (·.2.2))
def ExpEnv.bRef (v : ExpEnv) (d : NestDesc) (p : NPass) : TileRef :=
  v.ref d d.bdesc d.bAt p.k p.n p.q (block3 d (·.2.2)) (block3 d (·.2.1))

def ExpEnv.fill (v : ExpEnv) (g : SlotRing) (run : Nat) (t : TileRef) (m n k : Nat) : ExpItem :=
  .fill { bank := g.bank, slot := BitVec.ofNat 4 (g.slot run), desc := BitVec.ofNat 12 t.desc, usep := false, preg := 0,
          fillc := 0 } t v.nest v.e m n k

/-- Where a product's operand A comes from: its own descriptor's fills; fills of another descriptor, each behind words; or the
furrow's intermediate writes, of w slots each. -/
inductive ASource where
  | fills (desc : Nat) (before : NPass → List ExpItem)
  | furrow (w : Nat)

/-- One pass as an item. -/
def ExpEnv.passItem (v : ExpEnv) (d : NestDesc) (ga gb : SlotRing) (runA runB : List Nat) (ps : List NPass) (checkA : Bool)
    (sig : NPass → Nat → Nat) (j : Nat) (p : NPass) : ExpItem :=
  let later := ps.drop (j + 1)
  let first := !(ps.take j).any fun x => x.m = p.m && x.n = p.n
  let lastOut := !later.any fun x => x.m = p.m && x.n = p.n
  let ra := runA.getD j 0
  let rb := runB.getD j 0
  let c := sig p (if lastOut then 1 else 0)
  let tile := d.outTile v.sm p.m p.n
  let ovf : Option (Fin 4) :=
    if (checkA && ga.overflow runA j) || gb.overflow runB j then some 2 else if tile.isNone then some 1 else none
  .pass { aslot := BitVec.ofNat 3 (ga.slot ra), at_ := d.aAt, bslot := BitVec.ofNat 4 (gb.slot rb), bt := d.bAt,
          dst := BitVec.ofNat 4 (tile.getD 0), overwrite := first && !d.accin, relA := lastOf runA ra = j,
          relB := lastOf runB rb = j, sig := c ≠ 0, sigc := BitVec.ofNat 6 c }
        { serial := v.serial, nest := v.nest, e := v.e, m := p.m, n := p.n, k := p.k, rows := min 64 (d.m - 64 * p.m),
          cols := min 64 (d.n - 64 * p.n), negInf := d.ofill = 1, first := first, ovf := ovf }

/-- The words of a product's passes: the fills before its first pass, and for each pass the pass with the fills behind it, that of A
before that of B where the pass ends a run of each (log entry 100). -/
def ExpEnv.product (v : ExpEnv) (d : NestDesc) (ps0 : List NPass) (asrc : ASource) (aRuns : Option (List Nat))
    (sig : NPass → Nat → Nat) : List ExpItem × List (NPass × List ExpItem) :=
  let ps := numberBlocks [] 0 ps0
  let wa := match asrc with | .fills desc _ => slotsOf v.img desc | .furrow w => w
  let ga : SlotRing := ⟨false, d.abase, d.acount, wa⟩
  let gb : SlotRing := ⟨true, d.bbase, d.bcount, slotsOf v.img d.bdesc⟩
  let runA := aRuns.getD (runsOf (fun p => (p.m, p.k)) [] 0 ps)
  let runB := runsOf (fun p => (p.k, p.n)) [] 0 ps
  let nA := runA.foldl (fun a r => max a (r + 1)) 0
  let nB := runB.foldl (fun a r => max a (r + 1)) 0
  let blank : NPass := { m := 0, n := 0, k := 0 }
  let fillA := fun (i : Nat) => match asrc with
    | .fills desc before =>
        let p := ps.getD (firstOf runA i) blank
        before p ++ [v.fill ga i (v.aRef d desc p) p.m 0 p.k]
    | .furrow _ => []
  let fillB := fun (i : Nat) =>
    let p := ps.getD (firstOf runB i) blank
    [v.fill gb i (v.bRef d p) 0 p.n p.k]
  let init := (List.range (min ga.cap nA)).flatMap fillA ++ (List.range (min gb.cap nB)).flatMap fillB
  let checkA := match asrc with | .fills _ _ => true | .furrow _ => false
  (init, ps.zipIdx.map fun (p, j) =>
    let ra := runA.getD j 0
    let rb := runB.getD j 0
    (p, [v.passItem d ga gb runA runB ps checkA sig j p]
      ++ (if lastOf runA ra = j ∧ ra + ga.cap < nA then fillA (ra + ga.cap) else [])
      ++ (if lastOf runB rb = j ∧ rb + gb.cap < nB then fillB (rb + gb.cap) else [])))

/-- Outputs that a list of passes covers. -/
def outputsOf (ps : List NPass) : Nat := (ps.filter fun p => p.k = 0).length

/-- WAIT at the entry and SIGNAL at the exit of L3 blocks (R198). -/
def NestDesc.entry (d : NestDesc) (e q : Nat) : List ExpItem :=
  if d.lctr = 0 then [] else [waitItem d.lctr (e * ((d.level 3).1 * (d.level 3).2.1 * (d.level 3).2.2) + q + 1)]
def NestDesc.exit_ (d : NestDesc) : List ExpItem := if d.rctr = 0 then [] else [signalItem d.rctr]

/-- Groups of words laid out with the entries and exits of their L3 blocks, the first fills behind the first entry. -/
def layBlocks (d : NestDesc) (e : Nat) (init : List ExpItem) (groups : List (NPass × List ExpItem)) (nq : Nat) : List ExpItem :=
  (List.range nq).flatMap fun q =>
    d.entry e q ++ (if q = 0 then init else [])
    ++ (groups.filter fun x => x.1.q = q).flatMap (·.2) ++ d.exit_

/-- The flume side of a PRODUCT. -/
def ExpEnv.flumeProduct (v : ExpEnv) (d : NestDesc) : List ExpItem :=
  let bs := d.blocks
  let (init, gs) := v.product d bs.flatten (.fills d.adesc fun _ => []) none (fun _ last => if last = 1 then d.dctr else 0)
  layBlocks d v.e init gs bs.length

/-- The furrow side of a PRODUCT (R189, R190). -/
def ExpEnv.furrowProduct (v : ExpEnv) (d : NestDesc) : List ExpItem :=
  let t := outputsOf d.blocks.flatten
  if d.dctr = 0 then [] else [waitItem d.dctr (v.e * t + t)]

/-! ### Fused pairs (R206 to R210, R230) -/

/-- Intermediate tiles of a pair in order: on the STAGE path the tiles of P1 with K innermost, on the RES path P1's outputs in the
order of their last passes. -/
def pairTiles (p : PairDesc) (d1 : NestDesc) : List (Nat × Nat) :=
  if p.res then
    let ps := d1.blocks.flatten
    ps.zipIdx.filterMap fun (x, j) => if (ps.drop (j + 1)).any (fun y => y.m = x.m && y.n = x.n) then none else some (x.m, x.n)
  else d1.stageTiles.map fun l => match l with | x :: _ => (x.m, x.n) | [] => (0, 0)

/-- Ordinal of an intermediate tile. -/
def ordinalOf (ts : List (Nat × Nat)) (m j : Nat) : Nat := ts.findIdx fun t => t.1 = m && t.2 = j

/-- Slots per tile of the ring that the furrow writes the intermediate into (R193, R208; log entry 100). -/
def PairDesc.ringWidth (p : PairDesc) : Nat := if p.ifmt = 0 then 2 else 1

/-- Column and reduction tiles of a product that its counts cover (R185). -/
def NestDesc.coverM (d : NestDesc) : Nat := min (tiles64 d.m) (d.levels.foldl (fun a l => a * l.1) 1)
def NestDesc.coverN (d : NestDesc) : Nat := min (tiles64 d.n) (d.levels.foldl (fun a l => a * l.2.1) 1)

/-- The expansion with the outputs of a pair's second product told from those of its first. -/
def ExpEnv.second (v : ExpEnv) : ExpEnv := { v with serial := v.serial + 1 }

/-- Entries and exits of L3 blocks of a product, from one block up to but not into another, that emit no pass. -/
def NestDesc.passBy (d : NestDesc) (e a b : Nat) : List ExpItem :=
  ((List.range b).drop a).flatMap fun q => d.entry e q ++ d.exit_

/-- The L3 blocks of the first product of a STAGE pair around the words of its intermediate tiles (R198): what stands before and behind
the words of tile i. -/
def stageMarks (d : NestDesc) (e nq : Nat) (qs : List Nat) (i : Nat) : List ExpItem × List ExpItem :=
  let q := qs.getD i 0
  let next := qs.getD (i + 1) nq
  let before := if i = 0 then (if q = 0 then [] else d.exit_ ++ d.passBy e 1 q ++ d.entry e q)
    else if qs.getD (i - 1) 0 = q then [] else d.passBy e (qs.getD (i - 1) 0 + 1) q ++ d.entry e q
  let behind := if next = q then [] else d.exit_ ++ (if qs.length ≤ i + 1 then d.passBy e (q + 1) nq else [])
  (before, behind)

/-- The flume side of a pair on the STAGE path. P1's first fills stand behind its first L3 entry; P2 is one L3 block of its own, entered
before its first fills and left behind its last pass (log entry 100). -/
def ExpEnv.flumeStage (v : ExpEnv) (p : PairDesc) (d1 d2 : NestDesc) : List ExpItem :=
  let ts := pairTiles p d1
  let groups1 := d1.stageTiles
  let e1 : NestDesc := { d1.innerK with lctr := d1.lctr, rctr := d1.rctr }
  let nq := d1.stageBlocks.length
  let qs := groups1.map fun g => match g with | x :: _ => x.q | [] => 0
  let e2 : NestDesc := { d2 with levels := [] }
  let (init1, g1) := v.product d1 groups1.flatten (.fills d1.adesc fun _ => []) none
    (fun _ last => if last = 1 then p.sctr else 0)
  let n2 := d2.coverN
  let ps2 := ts.zipIdx.flatMap fun (t, i) => (List.range n2).map fun n => ({ m := t.1, n := n, k := t.2, key := [i, n] } : NPass)
  let runs2 := ts.zipIdx.flatMap fun (_, i) => List.replicate n2 i
  let (init2, g2) := v.second.product d2 ps2 (.furrow p.ringWidth) (some runs2) (fun x _ => if x.n + 1 = n2 then p.octr else 0)
  let seg1 := fun (i : Nat) =>
    let k := (groups1.getD i []).length
    let marks := stageMarks e1 v.e nq qs i
    marks.1 ++ ((g1.drop (((groups1.take i).map List.length).foldl (· + ·) 0)).take k).flatMap (·.2) ++ marks.2
  let seg2 := fun (i : Nat) => ((g2.drop (i * n2)).take n2).flatMap (·.2)
  e1.entry v.e 0 ++ init1 ++ e2.entry v.e 0 ++ init2 ++ (if ts.isEmpty then e1.exit_ ++ e1.passBy v.e 1 nq else [])
  ++ (List.range (ts.length + p.lag)).flatMap (fun i =>
      (if i < ts.length then seg1 i else []) ++ (if p.lag ≤ i then seg2 (i - p.lag) else []))
  ++ e2.exit_ ++ (if p.dctr = 0 then [] else [signalItem p.dctr])

/-- The flume side of a pair on the RES path (R210); the last pass of P2 signals OCTR (log entry 16). -/
def ExpEnv.flumeRes (v : ExpEnv) (p : PairDesc) (d1 d2 : NestDesc) : List ExpItem :=
  let ts := pairTiles p d1
  let b1 := d1.blocks
  let (init1, g1) := v.product d1 b1.flatten (.fills d1.adesc fun _ => []) none (fun _ last => if last = 1 then p.sctr else 0)
  let b2 := d2.blocks
  let ps2 := b2.flatten
  let fin := ps2.getLast?
  let (init2, g2) := v.second.product d2 ps2
    (.fills p.idesc fun x => [waitItem p.ictr (v.e * ts.length + ordinalOf ts x.m x.k + 1)]) none
    (fun x _ => if (fin.map fun y => y.m = x.m && y.n = x.n && y.k = x.k) = some true then p.octr else 0)
  layBlocks d1 v.e init1 g1 b1.length ++ layBlocks d2 v.e init2 g2 b2.length

/-- The fields of a furrow word that a pair's side uses. -/
def furrowWord (src1 src2 dst : Nat) : FurrowWord :=
  { src1 := BitVec.ofNat 4 src1, src2 := BitVec.ofNat 4 src2, dst := BitVec.ofNat 4 dst, fmt := 0, sr := false, calib := false,
    x := 0, sig := false, sigc := 0, rel1 := false, desc := 0, usep := false, preg := 0 }

/-- The furrow side of a pair (R208, R230). -/
def ExpEnv.furrowPair (v : ExpEnv) (p : PairDesc) (d1 d2 : NestDesc) : List ExpItem :=
  let ts := pairTiles p d1
  let base := v.e * ts.length
  let n2 := d2.coverN
  let k2 := d1.coverN
  let rowop := fun (fop src bank : Nat) (reset : Bool) =>
    ExpItem.furrow 0x8 (BitVec.ofNat 6 fop) (furrowWord src bank src) 0 0 v.off reset v.nest v.e
  let bankOf := fun (m : Nat) => if 0x18 ≤ p.func then 0 else m % 16
  let scaleAll := fun (fop m : Nat) => (List.range n2).map fun n => rowop fop ((d2.outTile v.sm m n).getD 0) (m % 16) false
  (ts.zipIdx.flatMap fun (t, i) =>
    let m := t.1
    let j := t.2
    let src := (d1.outTile v.sm m j).getD 0
    let w : FurrowWord := { furrowWord src 0 (if p.res then 0 else (SlotRing.mk false d2.abase d2.acount
        p.ringWidth).slot i) with
          fmt := BitVec.ofNat 4 p.ifmt, sr := p.isr, calib := p.icalib, x := BitVec.ofNat 8 p.ix, desc := BitVec.ofNat 12
            (if p.res then p.idesc else 0), sig := p.res && p.ictr ≠ 0, sigc := BitVec.ofNat 6 (if p.res then p.ictr else 0) }
    [waitItem p.sctr (base + i + 1)]
    ++ (if p.online ∧ 0 < j then [waitItem p.octr (base + ordinalOf ts m (j - 1) + 1)] else [])
    ++ [rowop p.func src (bankOf m) (j = 0 && p.func < 0x18)]
    ++ (if p.online ∧ 0 < j then scaleAll 0x0C m else [])
    ++ [.furrow 0xA (if p.res then 0x00 else 0x01) w m j v.off false v.nest v.e,
        .word (.release ⟨0, 0, BitVec.ofNat 16 (2 ^ src)⟩)]
    ++ (if p.online ∧ j + 1 = k2 then waitItem p.octr (base + i + 1) :: scaleAll 0x0B m else []))
  ++ (if p.res ∧ p.dctr ≠ 0 then [waitItem p.octr (v.e + 1), signalItem p.dctr] else [])

/-- A PRODUCT that a NEST may not issue: a Reserved order or output fill (R185, R188). -/
def NestDesc.denied (d : NestDesc) : Bool := d.ords.any (fun o => 6 ≤ o) || decide (2 ≤ d.ofill)

/-- A PAIR that a NEST may not issue (R206, R230), with a Reserved order or output fill of a product, or an intermediate format that is no
code (R78); its products' extents are those clipped to the walks. The orders of P2 count on the RES path alone. -/
def pairDenied (img : List Byte) (p : PairDesc) (d1 d2 : NestDesc) : Bool :=
  imgNestKind img p.p1 ≠ 0 || imgNestKind img p.p2 ≠ 0 || d1.denied || ({ d2 with ords := if p.res then d2.ords else [] } : NestDesc).denied
  || d2.m ≠ d1.m || d2.k ≠ d1.n || (p.online && p.res) || decide (13 ≤ p.ifmt)
  || !((p.func = 0x09 && p.online) || (p.func = 0x08 && !p.online && d1.coverN = 1)
       || (0x18 ≤ p.func && p.func ≤ 0x1D && !p.online))
  || (p.online && decide (16 < d1.coverM))

/-- Extents clipped to the rows of PAGE operands (R301); the ADESC of a pair's second product names no operand (R206). -/
def NestDesc.clip (d : NestDesc) (pageRows : Nat → Option Nat) (useA : Bool) : NestDesc :=
  let a := if useA then pageRows d.adesc else none
  let b := pageRows d.bdesc
  let m := match a with | some r => min d.m r | none => d.m
  let n := match b with | some r => if d.bAt then min d.n r else d.n | none => d.n
  let k := match b with | some r => if d.bAt then d.k else min d.k r | none => d.k
  { d with m := m, n := n, k := k }

/-- Descriptors that a nest reads. -/
def nestDescs (img : List Byte) (n : Nat) : List Nat :=
  if imgNestKind img n = 1 then
    let p := imgPair img n
    let d1 := imgNest img p.p1
    let d2 := imgNest img p.p2
    [d1.adesc, d1.bdesc, d2.bdesc] ++ (if p.res then [p.idesc] else [])
  else [(imgNest img n).adesc, (imgNest img n).bdesc]

end Sys2Proof.Machine
end

