-- ==== Sys2Proof/Machine/Flume.lean ====
section
/-! DEFINITION. The words of the flume stream and those common to both streams (R113 to R143, R159 to R174, R181, R187, R194,
R196, R200), and the arrival of tokens (R170). -/

namespace Sys2Proof.Machine

/-! ### Words (R161, R162, R164, R165) -/

/-- A field of a stream word. -/
def wbits (w lo n : Nat) : Nat := w / 2 ^ lo % 2 ^ n
def wflag (w lo : Nat) : Bool := wbits w lo 1 = 1

def decodePass (w : Nat) : PassWord :=
  { aslot := BitVec.ofNat 3 (wbits w 57 3), at_ := wflag w 56, bslot := BitVec.ofNat 4 (wbits w 52 4), bt := wflag w 51,
    dst := BitVec.ofNat 4 (wbits w 47 4), overwrite := wflag w 46, relA := wflag w 45, relB := wflag w 44, sig := wflag w 43,
    sigc := BitVec.ofNat 6 (wbits w 37 6) }

def decodeFurrow (w : Nat) : FurrowWord :=
  { src1 := BitVec.ofNat 4 (wbits w 50 4), src2 := BitVec.ofNat 4 (wbits w 46 4), dst := BitVec.ofNat 4 (wbits w 42 4),
    fmt := BitVec.ofNat 4 (wbits w 38 4), sr := wflag w 37, calib := wflag w 36, x := BitVec.ofNat 8 (wbits w 28 8),
    sig := wflag w 27, sigc := BitVec.ofNat 6 (wbits w 21 6), rel1 := wflag w 20, desc := BitVec.ofNat 12 (wbits w 8 12),
    usep := wflag w 7, preg := BitVec.ofNat 4 (wbits w 3 4) }

/-- A word of a stream; none where its OP is invalid in the stream. -/
def decodeWord (sel : StreamSel) (w : Nat) : Option StreamWord :=
  match wbits w 60 4, sel with
  | 0x0, _ => some .nop
  | 0x1, .flume => some (.pass (decodePass w))
  | 0x2, _ => some (.release ⟨BitVec.ofNat 8 (wbits w 52 8), BitVec.ofNat 16 (wbits w 36 16), BitVec.ofNat 16 (wbits w 20 16)⟩)
  | 0x3, .flume => some (.fill ⟨wflag w 59, BitVec.ofNat 4 (wbits w 55 4), BitVec.ofNat 12 (wbits w 43 12), wflag w 42,
      BitVec.ofNat 4 (wbits w 38 4), BitVec.ofNat 6 (wbits w 32 6)⟩)
  | 0x4, _ => some (.nest ⟨BitVec.ofNat 12 (wbits w 48 12), wflag w 47, BitVec.ofNat 4 (wbits w 43 4)⟩)
  | 0x5, _ => some (.wait ⟨BitVec.ofNat 6 (wbits w 54 6), BitVec.ofNat 32 (wbits w 0 32)⟩)
  | 0x6, _ => some (.signal ⟨BitVec.ofNat 6 (wbits w 54 6), BitVec.ofNat 10 (wbits w 44 10), wflag w 43,
      BitVec.ofNat 8 (wbits w 32 8)⟩)
  | 0x7, _ => some (.layer ⟨wflag w 59, BitVec.ofNat 8 (wbits w 51 8)⟩)
  | 0xE, _ => some .ret
  | 0xF, _ => some .end_
  | op, .furrow => if 0x8 ≤ op ∧ op ≤ 0xC then some (.compute (BitVec.ofNat 4 op) (BitVec.ofNat 6 (wbits w 54 6)) (decodeFurrow w))
                   else none
  | _, .flume => none

/-! ### Streams (R159, R160) -/

/-- Reservoir offset of word i of a stream: the flume stream at PROG, the furrow stream behind it (R146; log entry 17). -/
def progOff (img : List Byte) (sect : Nat) (sel : StreamSel) (i : Nat) : Nat :=
  sectProg img sect + 8 * i + (match sel with | .flume => 0 | .furrow => (8 * sectFlLen img sect + 255) / 256 * 256)

/-- The word that a stream's fetcher holds next, an expanded one before the stream's own. -/
def State.headItem (s : State) (p : Nat) (sel : StreamSel) : Option ExpItem :=
  let x := s.plot p
  match (x.stream sel).exp with
  | i :: _ => some i
  | [] => (decodeWord sel (leNat (s.resvBytes p (progOff (s.imgOf x) x.section_ sel (x.stream sel).pc) 8))).map .word

/-- The word that an item of a stream shows to a command. -/
def ExpItem.shown : ExpItem → Option StreamWord
  | .word w => some w
  | .pass w _ => some (.pass w)
  | .fill w _ _ _ _ _ _ => some (.fill w)
  | .furrow op fop w _ _ _ _ _ _ => some (.compute op fop w)
  | .retire _ => none

/-- The walks of a retired NEST end (R302). -/
def State.endWalks (s : State) (part : Nat) : List Nat → State
  | [] => s
  | w :: ws => (s.endWalk part w).endWalks part ws

/-- Walks that end once the last pass now in the array has drained. -/
def endWith (ws : List Nat) : List PassRec → List PassRec
  | [] => []
  | [r] => [{ r with ends := r.ends ++ ws }]
  | r :: rs => r :: endWith ws rs

/-- A stream whose NEST has issued its last word goes on behind it (R187). The NEST retires with that word: in the flume once the last
pass then in the array has drained. -/
def State.settle (s : State) (p : Nat) (sel : StreamSel) : State :=
  let x := s.plot p
  match (x.stream sel).exp with
  | .retire ws :: rest =>
      let y := x.setStream sel { x.stream sel with exp := rest }
      if sel = .flume ∧ !x.passes.isEmpty then s.setPlot p { y with passes := endWith ws y.passes }
      else (s.setPlot p y).endWalks x.part ws
  | _ => s

/-- A stream past its head word. -/
def State.advance (s : State) (p : Nat) (sel : StreamSel) : State :=
  let x := s.plot p
  let pos := x.stream sel
  let pos' := match pos.exp with
    | _ :: rest => { pos with exp := rest }
    | [] => { pos with pc := pos.pc + 1 }
  (s.setPlot p (x.setStream sel pos')).settle p sel

/-- A stream that may issue. -/
def StreamPos.open_ (q : StreamPos) : Bool := !q.ended && !q.stopped && q.atLayer.isNone

/-- A row of a stream word: the word at the head of a running plot's stream; otherwise nothing happens yet. -/
def State.streamRow (s : State) (p : PPlot) (sel : StreamSel) (w : StreamWord) (f : State → Nat → Plot → ExpItem → State) :
    Answer :=
  s.issue fun s =>
    let x := s.plot p.toNat
    if x.running && (x.stream sel).open_ then
      match s.headItem p.toNat sel with
      | some it => if it.shown = some w then f s p.toNat x it else s
      | none => s
    else s

/-- An overflow waits for the words already issued, and then ends the slot (R200). -/
def State.reportOverflow (s : State) (p : Nat) : State :=
  let x := s.plot p
  match x.pendFail with
  | some st => if x.passes.isEmpty && x.fills.isEmpty && x.fuRun.isNone then s.failPlot p st else s
  | none => s

/-- A word meets an overflow (R200): it does not issue, its stream issues nothing further, the log records it. -/
def State.overflow (s : State) (p : Nat) (sel : StreamSel) (cause : Nat) (outside : Bool) (nest e m n k : Nat) : State :=
  let s1 := s.logFirst OVF_LOG_VALID p [(OVF_LOG_DESC, if outside then 0 else nest), (OVF_LOG_CAUSE, cause),
    (OVF_LOG_OUTSIDE, if outside then 1 else 0), (OVF_LOG_MI, if outside then 0 else m), (OVF_LOG_NI, if outside then 0 else n),
    (OVF_LOG_KI, if outside then 0 else k), (OVF_LOG_EXP, if outside then 0 else e)]
  let x := s1.plot p
  let st := if cause = 1 then stAccOverflow else if cause = 2 then stStageOverflow else stReservoirOverflow
  let x1 := x.setStream sel { x.stream sel with stopped := true }
  (s1.setPlot p { x1 with pendFail := some (x.pendFail.getD st) }).reportOverflow p

/-! ### Common words -/

/-- NOP_WORD (R161). -/
def execNopWord (p : PPlot) (sel : StreamSel) (s : State) : Answer :=
  s.streamRow p sel .nop fun s p _ _ => s.advance p sel

/-- Slots of a row-stage tile or bank tile that hold one operand: two for F32 (R122). -/
def Plot.tileSlots (x : Plot) (bank : Bool) (n : Nat) : Nat := if (x.stage bank n).full ∧ (x.stage bank n).fmt = 0 then 2 else 1

/-- Slots that a pass reads of the row stage or of the bank. -/
def Plot.operandSlots (x : Plot) (w : PassWord) (bank : Bool) : List (Bool × Nat) :=
  let b := if bank then w.bslot.toNat else w.aslot.toNat
  (List.range (x.tileSlots bank b)).map fun i => (bank, b + i)

/-- A pass in the array reads a slot. -/
def Plot.slotRead (x : Plot) (bank : Bool) (n : Nat) : Bool :=
  x.passes.any fun r => (x.operandSlots r.w bank).contains (bank, n)

/-- A tile set FREE (R132): it loses its extent and its binding; its contents stay until the next load (R153). -/
def Plot.freeTile (x : Plot) (t : Nat) : Plot := x.setTile t { ({} : Tile) with data := (x.tile t).data }

def Plot.freeTiles (x : Plot) (mask : BitVec 16) : Plot :=
  (List.range 16).foldl (fun x t => if mask.getLsbD t then x.freeTile t else x) x

def Plot.emptySlot (x : Plot) (bank : Bool) (n : Nat) : Plot := x.setStage bank n { x.stage bank n with full := false }

def Plot.emptySlots (x : Plot) (bank : Bool) (mask n : Nat) : Plot :=
  (List.range n).foldl (fun x t => if mask.testBit t then x.emptySlot bank t else x) x

/-- Every earlier word of a stream has retired (R160, R171). -/
def Plot.retired (x : Plot) (sel : StreamSel) : Bool :=
  match sel with
  | .flume => x.passes.isEmpty
  | .furrow => x.fuRun.isNone

/-- RELEASE (R164): it takes effect as it retires, behind every earlier word of its stream (R160). -/
def execRelease (p : PPlot) (sel : StreamSel) (w : ReleaseWord) (s : State) : Answer :=
  s.streamRow p sel (.release w) fun s p x _ =>
    let busyA := (List.range 8).any fun n => w.rmask.getLsbD n && x.slotRead false n
    let busyB := (List.range 16).any fun n => w.bmask.getLsbD n && x.slotRead true n
    let busyT := (List.range 16).any fun t => w.amask.getLsbD t && ((x.tile t).st = .pending || decide (0 < (x.tile t).held))
    let fenced := x.fence && (List.range 16).any fun t => w.amask.getLsbD t && x.isState t
    if !x.retired sel || busyA || busyB || busyT || fenced then s
    else
      let x1 := (x.freeTiles w.amask).emptySlots false w.rmask.toNat 8
      (s.setPlot p (x1.emptySlots true w.bmask.toNat 16)).advance p sel

/-- WAIT (R169). -/
def execWait (p : PPlot) (sel : StreamSel) (w : WaitWord) (s : State) : Answer :=
  s.streamRow p sel (.wait w) fun s p x _ =>
    if reached (x.counter w.ctr.toNat) w.value then s.advance p sel else s

/-- SIGNAL (R171): the token goes to the plot itself, or under REMOTE to the logical plot named. -/
def execSignal (p : PPlot) (sel : StreamSel) (w : SignalWord) (s : State) : Answer :=
  s.streamRow p sel (.signal w) fun s p x _ =>
    if x.retired sel then
      (s.sendToken p (if w.remote then s.physOf w.lplot.toNat else p) w.ctr.toNat w.inc.toNat).advance p sel
    else s

/-- LAYER (R167): a begin in the furrow stream sets the saturation count to 0; at an end the stream stops. -/
def execLayer (p : PPlot) (sel : StreamSel) (w : LayerWord) (s : State) : Answer :=
  s.streamRow p sel (.layer w) fun s p x _ =>
    if w.isEnd then
      if x.retired sel then s.setPlot p (x.setStream sel { x.stream sel with atLayer := some w.layer.toNat }) else s
    else (if sel = .furrow then s.setPlot p { x with satCount := 0 } else s).advance p sel

/-- A stream past its LAYER end, or at its wide variant, from which it returns behind the LAYER end. -/
def StreamPos.decide_ (q : StreamPos) (wide : Option Nat) : StreamPos :=
  match wide with
  | none => { q with atLayer := none, pc := q.pc + 1 }
  | some i => { q with atLayer := none, pc := i, ret := some (q.pc + 1) }

/-- LAYER_DECIDE (R103, R104, R167, R233). -/
def execLayerDecide (p : PPlot) (s : State) : Answer :=
  s.issue fun s =>
    let n := p.toNat
    let x := s.plot n
    match x.flume.atLayer, x.furrow.atLayer with
    | some a, some b =>
      if !x.running || a ≠ b then s
      else
        let img := s.imgOf x
        let th := layerThresh img a
        let above := decide (th < x.satCount)
        let wide := above && layerWide img a && th ≠ 0xFFFFFF
        let s1 := s.bump ctrLayersDecided n
        let s2 := if x.satCount = 0xFFFFFF then s1.bump ctrSatPegged n else s1
        let s3 := if wide then s2.bump ctrLayersWidened n else if above then s2.bump ctrOverNoWide n else s2
        let x1 := { x with flume := x.flume.decide_ (if wide then some (layerFlume img a) else none),
                           furrow := x.furrow.decide_ (if wide then some (layerFurrow img a) else none) }
        let s4 := s3.setPlot n x1
        if wide then
          let q := s4.part x.part
          s4.setPart x.part { q with slot := { q.slot with widened := true } }
        else s4
    | _, _ => s

/-- RETURN (R167): the stream resumes after its LAYER end. -/
def execRet (p : PPlot) (sel : StreamSel) (s : State) : Answer :=
  s.streamRow p sel .ret fun s p x _ =>
    match (x.stream sel).ret with
    | some r => if x.retired sel then s.setPlot p (x.setStream sel { x.stream sel with pc := r, ret := none }) else s
    | none => s

/-- END (R181). -/
def execEndWord (p : PPlot) (sel : StreamSel) (s : State) : Answer :=
  s.streamRow p sel .end_ fun s p x _ =>
    if x.retired sel then s.setPlot p (x.setStream sel { x.stream sel with ended := true }) else s

/-! ### Tokens (R170) -/

/-- The early-token store with one more increment; one entry per counter and slot. -/
def addEarly (l : List (Seq × Nat × Nat)) (n : Seq) (c inc : Nat) : List (Seq × Nat × Nat) :=
  match l with
  | [] => [(n, c, inc)]
  | (m, d, v) :: rest => if m = n ∧ d = c then (m, d, (v + inc) % 2 ^ 32) :: rest else (m, d, v) :: addEarly rest n c inc

/-- The first token on the canal that reads so and that no earlier one of its source and destination precedes (R29). -/
def nextToken (p ctr inc : Nat) (n : Seq) (before : List Token) : List Token → Option Token
  | [] => none
  | t :: ts =>
      if t.pplot = p ∧ t.ctr = ctr ∧ t.inc = inc ∧ t.seq = n ∧ !(before.any fun u => u.src = t.src && u.pplot = p) then some t
      else nextToken p ctr inc n (t :: before) ts

/-- TOKEN_ARRIVAL: a token on the canal reaches its plot. -/
def execTokenArrival (p : PPlot) (ctr : BitVec 6) (inc : BitVec 8) (slotSeq : Seq) (s : State) : Answer :=
  s.issue fun s =>
    let n := p.toNat
    let x := s.plot n
    match nextToken n ctr.toNat inc.toNat slotSeq [] s.canal with
    | none => s
    | some t =>
    if s.changing n then s
    else
      let s1 := { s with canal := s.canal.erase t }
      if slotSeq = x.seq then s1.setPlot n (x.addCounter ctr.toNat inc.toNat)
      else if slotSeq - x.seq = 1 ∨ slotSeq - x.seq = 2 then
        (s1.setPlot n { x with early := addEarly x.early slotSeq ctr.toNat inc.toNat }).touch n 5 0
      else if follows slotSeq x.seq then s
      else s1.bump ctrStaleToken n

/-! ### Passes (R118 to R132) -/

/-- Stored element (r, c) of a staged operand, its scale applied. -/
def Plot.staged (x : Plot) (bank : Bool) (n r c : Nat) : Num :=
  let g := x.stage bank n
  let w := fmtBits g.fmt
  let data := if g.fmt = 0 then g.data ++ (x.stage bank (n + 1)).data else g.data
  let code := unpackElem w ((data.drop (r * 8 * w)).take (8 * w)) c
  let k := if fmtMx g.fmt then 2 * r + c / 32 else if fmtInt g.fmt then r else 0
  scaledDec g.fmt code (g.scales.getD k 0).toNat

/-- Operand elements a[m][k] and b[k][n] of a pass (R125, R126). -/
def Plot.opA (x : Plot) (w : PassWord) (m k : Nat) : Num :=
  if w.at_ then x.staged false w.aslot.toNat k m else x.staged false w.aslot.toNat m k
def Plot.opB (x : Plot) (w : PassWord) (k n : Nat) : Num :=
  if w.bt then x.staged true w.bslot.toNat n k else x.staged true w.bslot.toNat k n

/-- What the feeders deliver at index k: rows 0 to 63 of A, and σ_k as row 64; columns 0 to 63 of B, and s_k as column 64 (R113,
R114). -/
def Plot.feedA (x : Plot) (w : PassWord) (m k : Nat) : Num :=
  if m = 64 then sumNum ((List.range 64).map fun i => x.opA w i k) else x.opA w m k
def Plot.feedB (x : Plot) (w : PassWord) (k n : Nat) : Num :=
  if n = 64 then sumNum ((List.range 64).map fun i => x.opB w k i) else x.opB w k n

/-- The exact sums of the 65 × 65 cells, row by row (R113). -/
def Plot.cells (x : Plot) (w : PassWord) : List (List Num) :=
  let b := (List.range 65).map fun n => (List.range 64).map fun k => x.feedB w k n
  (List.range 65).map fun m =>
    let a := (List.range 64).map fun k => x.feedA w m k
    b.map fun c => sumNum (a.zipWith Num.mul c)

/-- A cell of the array. -/
def cellAt (cells : List (List Num)) (m n : Nat) : Num := (cells.getD m []).getD n .nan

/-- A drained element (R89, R90, R119): the exact sum rounded once, never -0. -/
def drained (acc : Word) (sum : Num) : Word :=
  let v := enc32 ((dec32 acc).add sum)
  if v = 0x80000000 then 0 else v

/-- DST after a pass whose cells hold the sums. -/
def Plot.passTile (x : Plot) (w : PassWord) (cells : List (List Num)) : List Word :=
  let t := x.tile w.dst.toNat
  (List.range 64).flatMap fun m => (List.range 64).map fun n => drained (if w.overwrite then 0 else t.elem m n) (cellAt cells m n)

/-- Class of a pass (R116): 0 W4, 1 W8, 2 W16, 3 F32M, 4 F32. -/
def passClass (a b : Nat) : Nat :=
  if a = 0 ∧ b = 0 then 4
  else if a = 0 ∨ b = 0 then 3
  else if fmtBits a = 16 ∨ fmtBits b = 16 then 2
  else if fmtBits a = 4 ∨ fmtBits b = 4 then 0 else 1

/-- Array steps of a class. -/
def classSteps : Nat → Nat
  | 0 => 32 | 1 => 64 | 2 => 128 | 3 => 256 | _ => 512

/-! ### The checks of a pass (R134 to R137) -/

/-- Exponent of the smallest non-zero magnitude of a format's elements before their scale. -/
def fmtUnit : Nat → Int
  | 0 => -149 | 1 => -24 | 2 => -133 | 3 => -9 | 4 => -16 | 5 => -9 | 6 => -16 | 7 => -4 | 8 => -3 | 9 => -1 | 10 => -6
  | _ => 0

/-- The same for a staged operand, under the smallest scale that it carries (log entry 99). -/
def StageSlot.unit (g : StageSlot) : Int :=
  let scale := fun (b : Byte) => if fmtMx g.fmt then (b.toNat : Int) - 127 else signedOf 8 b.toNat
  let used := if fmtMx g.fmt then g.scales.filter (· ≠ 255) else if fmtInt g.fmt || fmtTensor g.fmt then g.scales else []
  fmtUnit g.fmt + (match used with | [] => 0 | b :: bs => bs.foldl (fun m c => min m (scale c)) (scale b))

/-- A finite value with one bit of its two's complement flipped, bit 0 weighing 2^u. -/
def flipBit (u : Int) (bit : Nat) : Num → Num
  | .fin s m e =>
      let v := atExp s m e u
      let v' := if v / 2 ^ bit % 2 = 1 then v - 2 ^ bit else v + 2 ^ bit
      .fin (decide (v' < 0)) v'.natAbs u
  | x => x

/-- The cell that a flume seep's fields name (R140): target 0 a data cell, 1 the checksum column, 2 the checksum row. -/
def seepCell (f : DWord) : Option (Nat × Nat) :=
  match getBits f 2 2 with
  | 0 => some (getBits f 4 6, getBits f 10 6)
  | 1 => some (getBits f 4 6, 64)
  | 2 => some (64, getBits f 10 6)
  | _ => none

/-- The array's sums with the bit flipped that a seep's fields name. -/
def faultCells (cells : List (List Num)) (u : Int) (f : DWord) : List (List Num) :=
  match seepCell f with
  | none => cells
  | some (m, n) => cells.modify m fun r => r.modify n (flipBit u (getBits f 16 6))

/-- What the checks of a pass find: failing rows and columns, the corner, the drain residue, and what was left out. -/
structure PassCheck where
  rows : List Nat
  cols : List Nat
  corner : Bool
  drain : Bool
  skipped : Nat
  deriving DecidableEq, Repr

def PassCheck.fails (c : PassCheck) : Bool := !c.rows.isEmpty || !c.cols.isEmpty || c.corner || c.drain

/-- Row, column and corner checks on the exact sums; a row or column with a NaN or an infinity is left out, and with any of them the
corner (R134, R135). -/
def checkCells (cells : List (List Num)) (drain : Bool) : PassCheck :=
  let at_ := cellAt cells
  let rowOut := fun (m : Nat) => (List.range 65).any fun n => !(at_ m n).finite
  let colOut := fun (n : Nat) => (List.range 65).any fun m => !(at_ m n).finite
  let outs := ((List.range 64).filter rowOut).length + ((List.range 64).filter colOut).length
  let rowSum := fun (m : Nat) => sumNum ((List.range 64).map fun n => at_ m n)
  let colSum := fun (n : Nat) => sumNum ((List.range 64).map fun m => at_ m n)
  { rows := (List.range 64).filter fun m => !rowOut m && !(rowSum m).eqv (at_ m 64),
    cols := (List.range 64).filter fun n => !colOut n && !(colSum n).eqv (at_ 64 n),
    corner := decide (outs = 0) && !((at_ 64 64).eqv (colSum 64) && (at_ 64 64).eqv (rowSum 64)),
    drain := drain, skipped := outs }

/-- One attempt of a pass: its sums, with the fault that it carries, and its checks. -/
def Plot.attempt (x : Plot) (w : PassWord) (fault : Option DWord) : List (List Num) × PassCheck :=
  let u := (x.stage false w.aslot.toNat).unit + (x.stage true w.bslot.toNat).unit
  match fault with
  | none => let c := x.cells w; (c, checkCells c false)
  | some f => let c := faultCells (x.cells w) u f; (c, checkCells c (decide (getBits f 2 2 = 3)))

/-- What the binding of a nest says of a pass's tile, when the pass may issue: R196 for the first pass into an output, R132 for
the others. -/
inductive TileGate where
  | go
  | wait
  | overflow
  deriving DecidableEq, Repr

/-- Passes of an expansion into an output are still to be emitted. -/
def Plot.outputOpen (x : Plot) (serial m n : Nat) : Bool :=
  x.flume.exp.any fun i => match i with
    | .pass _ b => b.serial = serial && b.m = m && b.n = n
    | _ => false

def Plot.tileGate (x : Plot) (w : PassWord) (b : Option PassBind) : TileGate :=
  let t := x.tile w.dst.toNat
  if 0 < t.held ∨ (x.fence ∧ x.isState w.dst.toNat) then .wait
  else match b with
  | none => if t.st = .free ∧ !w.overwrite then .overflow else .go
  | some b =>
    if !w.overwrite then (if t.st = .free then .overflow else .go)
    else if t.st = .free then .go
    else match t.bound with
      | some (e, m, n) => if b.first ∧ x.outputOpen e m n then .overflow else .wait
      | none => .wait

/-- PASS (R127, R128, R196): it issues when its slots are FULL, its tile may take it, and the accumulating register is free. -/
def execPass (p : PPlot) (w : PassWord) (s : State) : Answer :=
  s.streamRow p .flume (.pass w) fun s p x it =>
    let b : Option PassBind := match it with | .pass _ b => some b | _ => none
    let (nest, e, m, n, k) := match b with | some b => (b.nest, b.e, b.m, b.n, b.k) | none => (0, 0, 0, 0, 0)
    match b.bind (·.ovf) with
    | some c => s.overflow p .flume c.val false nest e m n k
    | none =>
      let full := fun (bank : Bool) (i : Nat) =>
        (x.stage bank i).full && (x.tileSlots bank i = 1 || (x.stage bank (i + 1)).full)
      if !full false w.aslot.toNat || !full true w.bslot.toNat then s
      else match x.tileGate w b with
        | .overflow => s.overflow p .flume 1 b.isNone nest e m n k
        | .wait => s
        | .go =>
          if 2 ≤ x.passes.length then s
          else
            let t := x.tile w.dst.toNat
            let t1 : Tile := match b with
              | some b => if b.first then { t with rows := b.rows, cols := b.cols, negInf := b.negInf,
                                                   bound := some (b.serial, b.m, b.n) } else t
              | none => if w.overwrite then { t with rows := 64, cols := 64, negInf := false } else t
            let cls := passClass (x.stage false w.aslot.toNat).fmt (x.stage true w.bslot.toNat).fmt
            let h := s.seepEvents .flume p 1
            let y := x.setTile w.dst.toNat { t1 with st := .pending }
            ((h.st.setPlot p { y with passes := y.passes ++ [{ w := w, fault := h.hit.map (·.2) }] }).bump ctrFlumeSteps p
              (classSteps cls)).advance p .flume

/-- The check log of a failed pass (R139). -/
def State.checkLog (s : State) (p : Nat) (c : PassCheck) (w : PassWord) (cls : Nat) (ok : Bool) : State :=
  let only := if c.corner && c.rows.isEmpty && c.cols.isEmpty then 64 else 0x7F
  s.logFirst FL_CHECK_LOG_VALID p [(FL_CHECK_LOG_ROW, c.rows.headD only), (FL_CHECK_LOG_COL, c.cols.headD only),
    (FL_CHECK_LOG_MULTI, if 1 < c.rows.length ∨ 1 < c.cols.length then 1 else 0), (FL_CHECK_LOG_DRAIN, if c.drain then 1 else 0),
    (FL_CHECK_LOG_DST, w.dst.toNat), (FL_CHECK_LOG_CLASS, cls), (FL_CHECK_LOG_RETRY_OK, if ok then 1 else 0)]

/-- Slots that a pass gives up as it retires: those it names and those earlier passes left to it; what the pass behind it reads stays
FULL until that one retires (R123, R128). -/
def Plot.giveUp (x : Plot) (r : PassRec) (rest : List PassRec) : Plot :=
  let mine := r.rel ++ (if r.w.relA then x.operandSlots r.w false else []) ++ (if r.w.relB then x.operandSlots r.w true else [])
  let needed := fun (q : PassRec) (b : Bool × Nat) => (x.operandSlots q.w b.1).contains b
  let stay := fun (b : Bool × Nat) => rest.any fun q => needed q b
  let y := (mine.filter fun b => !stay b).foldl (fun (y : Plot) (b : Bool × Nat) => y.emptySlot b.1 b.2) x
  { y with passes := rest.map fun q => { q with rel := q.rel ++ mine.filter (needed q) } }

/-- A pass drains (R119, R120, R123, R197): its tile, its slots, its token, the NESTs that retire with it. -/
def State.drain (s : State) (p : Nat) (x : Plot) (r : PassRec) (rest : List PassRec) (a : List (List Num) × PassCheck) : State :=
  let w := r.w
  let d := w.dst.toNat
  let st : TileSt := if rest.any fun q => q.w.dst = w.dst then .pending else .live
  let x1 := (x.setTile d { x.tile d with st := st, data := x.passTile w a.1 }).giveUp r rest
  let x2 := if w.sig then x1.addCounter w.sigc.toNat 1 else x1
  ((((s.setPlot p x2).bump ctrPasses p).bump ctrCheckSkipped p a.2.skipped).endWalks x.part r.ends).reportOverflow p

/-- Array steps of a pass (R116, R142). -/
def Plot.passSteps (x : Plot) (r : PassRec) : Nat :=
  classSteps (passClass (x.stage false r.w.aslot.toNat).fmt (x.stage true r.w.bslot.toNat).fmt)

/-- What a marked pass carries into an attempt made again: a transient fault acts once (R140). -/
def retryFault (f : Option DWord) : Option DWord := f.bind fun f => if seepPersists f then some f else none

/-- Stores that a pass uses: the slots of its operands and its tile (R580). -/
def Plot.passStores (x : Plot) (w : PassWord) : List (Nat × Nat) :=
  (x.operandSlots w false).map (fun b => (1, b.2)) ++ (x.operandSlots w true).map (fun b => (1, 8 + b.2)) ++ [(0, w.dst.toNat)]

/-- The oldest pass is checked and drained (R137). When its check fails it is re-issued once while the slot's retry allowance lasts, and
the discarded pass behind it after it; else the slot ends with FLUME_CHECK. -/
def State.drainOldest (s : State) (n : Nat) : State :=
    let x := s.plot n
    match x.passes with
    | [] => s
    | r :: rest =>
      let cls := passClass (x.stage false r.w.aslot.toNat).fmt (x.stage true r.w.bslot.toNat).fmt
      let a := x.attempt r.w r.fault
      if !a.2.fails then s.drain n x r rest a
      else
        let again := x.attempt r.w (retryFault r.fault)
        let failed := fun (s : State) =>
          (((s.checkLog n a.2 r.w cls false).bump ctrCheckFailed n).failPlot n stFlumeCheck).flumeEvidence n true
        if x.retries = 0 then failed s
        else
          let s1 := s.bump ctrFlumeSteps n (((r :: rest).map x.passSteps).foldl (· + ·) 0)
          if again.2.fails then failed s1
          else
            let s2 := (s1.checkLog n a.2 r.w cls true).bump ctrCheckRetried n
            (s2.drain n { x with retries := x.retries - 1 } r (rest.map fun q => { q with fault := retryFault q.fault }) again).flumeEvidence
              n false

/-- PASS_DRAIN. -/
def execPassDrain (p : PPlot) (s : State) : Answer :=
  s.issue fun s =>
    match (s.plot p.toNat).passes with
    | [] => s
    | r :: _ =>
        match s.enterStores p.toNat ((s.plot p.toNat).passStores r.w) with
        | (s1, true) => s1.drainOldest p.toNat
        | (s1, false) => s1

/-! ### Fills (R123, R163, R199) -/

/-- The tile that an explicit word names: tile (0, 0) of its descriptor, offset by the parameter register under USEP, and for a
PAGE source the sets of a snapshot taken now. -/
def State.wordTile (s : State) (x : Plot) (desc : Nat) (usep : Bool) (preg : Nat) : TileRef :=
  let d := imgDesc (s.imgOf x) desc
  { desc := desc, off := if usep then (x.param_ preg).toNat else 0, walk := if d.src = 3 then s.pageSets x d else [] }

/-- A walk of one word: it begins when the word issues and retires with it (R301, R302). -/
def State.touchWalk (s : State) (p part : Nat) (sets : List Nat) : State :=
  let r := s.beginWalk part p sets
  r.2.endWalk part r.1

/-- FILL: accepted by the fill queue of 8 (R163); a Reservoir range beyond the budget is an overflow (R199). -/
def execFill (p : PPlot) (w : FillWord) (s : State) : Answer :=
  s.streamRow p .flume (.fill w) fun s p x it =>
    let explicit : Bool := match it with | .fill _ _ _ _ _ _ _ => false | _ => true
    let t : TileRef := match it with
      | .fill _ t _ _ _ _ _ => t
      | _ => s.wordTile x w.desc.toNat w.usep w.preg.toNat
    let d := imgDesc (s.imgOf x) t.desc
    if 8 ≤ x.fills.length ∨ (x.fence ∧ d.state) then s
    else if d.src = 3 ∧ explicit ∧ s.pageDenied x d then s.failPlot p stDenied
    else if s.tileAccess p d t false = .fail stReservoirOverflow then
      match it with
      | .fill _ _ nest e m n k => s.overflow p .flume 3 false nest e m n k
      | _ => s.overflow p .flume 3 true 0 0 0 0 0
    else
      let s1 := if d.src = 3 ∧ explicit then s.touchWalk p x.part t.walk else s
      let x1 := s1.plot p
      (s1.setPlot p { x1 with fills := x1.fills ++ [⟨w.bank, w.slot.toNat, t, w.fillc.toNat⟩] }).advance p .flume

/-- FILL_COMPLETE (R123, R148, R405): the first request of the queue, once its slots are EMPTY and its source can be read. -/
def execFillComplete (p : PPlot) (s : State) : Answer :=
  s.issue fun s =>
    let n := p.toNat
    let x := s.plot n
    match x.fills with
    | [] => s
    | q :: rest =>
      let d := imgDesc (s.imgOf x) q.tile.desc
      let two := d.fmt = 0
      if (x.stage q.bank q.slot).full ∨ (two ∧ (x.stage q.bank (q.slot + 1)).full) then s
      else match s.tileAccess n d q.tile false with
        | .wait => s.scrubTile n d q.tile
        | .fail st => s.failPlot n st
        | .ok =>
          match s.reachTile n d q.tile false with
          | (s, false) => s
          | (s, true) =>
          match s.enterStores n (((List.range (if two then 2 else 1)).map fun k => (1, (if q.bank then 8 else 0) + q.slot + k))) with
          | (s, false) => s
          | (s, true) =>
          let x := s.plot n
          let g := s.stageTile n d q.tile
          let x1 := if two then
              (x.setStage q.bank q.slot { g with data := g.data.take 8192 }).setStage q.bank (q.slot + 1)
                { g with data := g.data.drop 8192 }
            else x.setStage q.bank q.slot g
          let x2 := if q.fillc = 0 then x1 else x1.addCounter q.fillc 1
          (s.setPlot n { x2 with fills := rest }).reportOverflow n

/-! ### NEST (R187, R206, R301) -/

/-- The snapshots of an expansion: for each PAGE descriptor its sets, one walk for each owner slot and BACK. -/
def State.nestWalks (s : State) (p : Nat) (x : Plot) (img : List Byte) :
    List Nat → List (Nat × List Nat) → List Nat → State × List Nat
  | [], _, ids => (s, ids)
  | n :: ns, seen, ids =>
      let d := imgDesc img n
      if d.src ≠ 3 ∨ seen.any (fun y => y.1 = d.base / 128) then s.nestWalks p x img ns seen ids
      else
        let sets := s.pageSets x d
        let r := s.beginWalk x.part p sets
        r.2.nestWalks p x img ns ((d.base / 128, sets) :: seen) (ids ++ [r.1])

/-- NEST: the descriptor expands into the words its loop needs, which issue in its place. A STAGE pair whose P2 ring holds fewer than
LAG tiles ends with STAGE_OVERFLOW at its NEST (R206). -/
def execNest (p : PPlot) (sel : StreamSel) (w : NestWord) (s : State) : Answer :=
  s.streamRow p sel (.nest w) fun s p x _ =>
    let img := s.imgOf x
    let n := w.nest.toNat
    let ds := nestDescs img n
    if x.fence && ds.any (fun k => (imgDesc img k).state) then s
    else
      let tok := 2 ^ geomTokLog (s.plotGeom x)
      let rows := fun (k : Nat) => let d := imgDesc img k; if d.src = 3 then some (tok * (s.pageSets x d).length) else none
      let pair := imgPair img n
      let isPair := imgNestKind img n = 1
      let d1 := (imgNest img (if isPair then pair.p1 else n)).clip rows true
      let d2 := (imgNest img pair.p2).clip rows false
      let bad := imgNestKind img n ≥ 2
        || (if isPair then pairDenied img pair d1 d2 else d1.denied)
        || ds.any (fun k => (imgDesc img k).src = 3 && s.pageDenied x (imgDesc img k))
      let pos := x.stream sel
      let e := sget 0 pos.counts n
      if bad then s.failPlot p stDenied
      else if sel = .flume ∧ isPair ∧ !pair.res ∧ d2.acount / (if pair.ifmt = 0 then 2 else 1) < pair.lag then
        s.overflow p .flume 2 false n e 0 0 0
      else
        let env : ExpEnv :=
          { img := img, sm := x.stateMap, off := if w.usep then (x.param_ w.preg.toNat).toNat else 0,
            sets := fun k => let d := imgDesc img k; if d.src = 3 then s.pageSets x d else [],
            serial := 2 * x.serial, nest := n, e := e }
        let items := match sel with
          | .flume =>
              if isPair then (if pair.res then env.flumeRes pair d1 d2 else env.flumeStage pair d1 d2) else env.flumeProduct d1
          | .furrow => if isPair then env.furrowPair pair d1 d2 else env.furrowProduct d1
        let r := if sel = .flume then s.nestWalks p x img ds [] [] else (s, [])
        let y := r.1.plot p
        let pos' : StreamPos := { pos with pc := pos.pc + 1, exp := items ++ [.retire r.2], counts := sput 0 pos.counts n (e + 1) }
        ((r.1.setPlot p { y.setStream sel pos' with serial := y.serial + 1 })).settle p sel

end Sys2Proof.Machine
end

