-- ==== Sys2Proof/Machine/Furrow.lean ====
section
/-! DEFINITION. The furrow (R212 to R238), carried state (R267 to R275) and the special-function cluster as the furrow and the
runnels reach it (R239 to R266). -/

namespace Sys2Proof.Machine

/-! ### The SFU cluster of a plot (R248 to R262) -/

/-- A load wrote a bank of a table unit of a plot's cluster: that which the plot's select did not name. -/
def TableLoad.wrote (x : TableLoad) (p unit : Nat) (bank : Bool) : Bool :=
  x.units.getLsbD unit
  && (getBits (sget (0 : DWord) x.selects (regOff .sfuPlotCtl p)) SFU_PLOT_CTL_BANK.lo SFU_PLOT_CTL_BANK.w).testBit unit ≠ bank

/-- Image in a bank of a table unit of a plot's cluster; 0 where no load has written it. -/
def State.sfuBank (s : State) (p unit : Nat) (bank : Bool) : BitVec 384 :=
  ((s.sfu.tables.find? fun x => x.wrote p unit bank).map (·.image)).getD 0

/-- Image in the active bank of a table unit of a plot's cluster (R252). -/
def State.sfuTable (s : State) (p unit : Nat) : BitVec 384 := s.sfuBank p unit ((s.rd SFU_PLOT_CTL_BANK p).testBit unit)

/-- Evaluation path of a code on a plot: SX-256 compatible (R258), by fall-back (R261), or by the loaded tables. -/
def State.sfuPath (s : State) (p code : Nat) : BitVec 2 :=
  if s.flag SFU_PART_CTL_COMPAT_ACTIVE (s.plot p).part ∧ code ≤ 7 then 1
  else if (sget (0 : BitVec 10) s.sfu.route p).getLsbD code then 2 else 0

/-- A hardware function on a plot. -/
def State.sfuHwAt (s : State) (p code : Nat) (w : Word) : Word :=
  let path := s.sfuPath p code
  sfuHw (if path = 0 then s.sfuTable p code else 0) path code w

def State.microEnv (s : State) (p : Nat) : MicroEnv := { image := s.sfuTable p 10, hw := s.sfuHwAt p }

/-- A special function on a plot by its 4-bit code (R239). -/
def State.sfuEval (s : State) (p code : Nat) (w : Word) : Word :=
  if code ≤ 9 then s.sfuHwAt p code w else microCall (s.microEnv p) (code - 10) w

/-- A code that names no program of the active bank (R257). -/
def State.sfuInvalid (s : State) (p code : Nat) : Bool := 10 ≤ code && !microValid (s.sfuTable p 10) (code - 10)

/-- Steps of a hardware function: those of R239, or of its fall-back, of which R261 says only 9 to 34. -/
def State.hwCost (s : State) (p code : Nat) : Nat :=
  if s.sfuPath p code = 2 then 9 + Config.freeNat code % 26 else if code = 6 ∨ code = 7 then 2 else 1

/-- Steps of one evaluation (R239, R256). -/
def State.sfuCost (s : State) (p code : Nat) : Nat :=
  if code ≤ 9 then s.hwCost p code
  else
    let img := s.sfuTable p 10
    let d := microEntry img (code - 10)
    ((List.range (d / 512 % 64 + 1)).map fun i =>
      let w := (Config.microWord img (d % 512 + i)).toNat
      if w / 2 ^ 27 = 0x0E then s.hwCost p (w % 16) else 1).foldl (· + ·) 0

/-- Lanes in service, ascending (R249, R260). -/
def State.sfuLaneList (s : State) (p : Nat) : List Nat :=
  (List.range 16).filter fun n => !(s.rd SFU_PLOT_CTL_LANES_ACTIVE p).testBit n
def State.sfuLanes (s : State) (p : Nat) : Nat := (s.sfuLaneList p).length

/-- SFU log (R263). -/
def State.sfuLog (s : State) (p lane code source kind entry runnel : Nat) (ok : Bool) : State :=
  s.logFirst SFU_LOG_VALID p [(SFU_LOG_LANE, lane), (SFU_LOG_FUNC, code), (SFU_LOG_SOURCE, source), (SFU_LOG_KIND, kind),
    (SFU_LOG_ENTRY, entry), (SFU_LOG_RETRY_OK, if ok then 1 else 0), (SFU_LOG_RUNNEL, runnel)]

/-- A request to the cluster: code, argument, and the runnel that made it. -/
structure SfuAsk where
  code : Nat
  arg : Word
  runnel : Nat := 0

/-- Lane that request j of a grant is evaluated on (R249). -/
def State.sfuLaneOf (s : State) (p j : Nat) : Nat :=
  let l := s.sfuLaneList p
  if l = [] then 0 else l.getD (j % l.length) 0

/-- The evaluation of a grant's requests that the cluster's seep meets (R264): those on the lane it names are counted. -/
def State.sfuHit (s : State) (p n : Nat) : State × Option (Nat × DWord) :=
  let w := ((s.inject.find? fun x => x.kind = .sfu && x.inst = p).map (·.word)).getD (s.armedWord .sfu p)
  let mine := (List.range n).filter fun j => s.sfuLaneOf p j = getBits w 4 4
  let h := s.seepEvents .sfu p mine.length
  (h.st, h.hit.map fun x => (mine.getD x.1 0, x.2))

/-- A fault of a kind shows in an evaluation (R259, R264): kind 0 in a polynomial of a hardware function, 1 in a micro-program, the
fall-backs' among them, 2 and 3 in a read of a loaded table or of the micro-program store. -/
def State.sfuShows (s : State) (p code kind : Nat) : Bool :=
  let micro := 10 ≤ code || s.sfuPath p code = 2
  match kind with
  | 0 => !micro
  | 1 => micro
  | _ => 10 ≤ code || s.sfuPath p code = 0

/-- Table entry or micro-op word of an evaluation: a micro-program's first word (log entry 103). -/
def State.sfuEntryOf (s : State) (p : Nat) (q : SfuAsk) : Nat :=
  if 10 ≤ q.code then microEntry (s.sfuTable p 10) (q.code - 10) % 512
  else match dec32 q.arg with
    | .fin neg m e => (Config.sfuEntry q.code (sfuReduce q.code q.arg neg m e).pos).toNat
    | _ => 0

/-- Requests of a grant counted as they complete (R266). -/
def State.sfuDone (s : State) (p : Nat) (codes : List Nat) : State :=
  (s.bump ctrEvals p codes.length).bump ctrFallbackEvals p ((codes.filter fun c => c ≤ 9 ∧ s.sfuPath p c = 2).length)

/-! ### Row statistics (R221 to R224) -/

/-- The statistics of the valid lanes of one tile row. -/
structure TileStat where
  n : Nat
  max : Word
  sum : Word
  mean : Word
  m2 : Word
  deriving DecidableEq, Repr

def numOf (n : Nat) : Num := .fin false n 0

/-- Largest of a list of words under R219; -∞ for none. -/
def maxOf : List Word → Word
  | [] => negInf
  | x :: xs => xs.foldl fmax x

/-- Exact sum of words, rounded once. -/
def sumOf (l : List Word) : Word := enc32 (sumNum (l.map dec32))

/-- Tile statistics (R222): the sums exact, each rounded once. -/
def tileStat (l : List Word) : TileStat :=
  let s := sumNum (l.map dec32)
  let mu := enc32 (s.div (numOf l.length))
  let dev := l.map fun x => let d := (dec32 x).add (dec32 mu).neg; d.mul d
  { n := l.length, max := maxOf l, sum := enc32 s, mean := mu, m2 := enc32 (sumNum dev) }

/-- comp_add of R223. -/
def compAdd (hi lo y : Word) : Word × Word :=
  let t := twoSum hi y
  twoSum t.1 (fadd lo t.2)

/-- combine of R223; none: COUNT would exceed 2^22. -/
def BankRow.combine (b : BankRow) (t : TileStat) : Option BankRow :=
  let c := b.count.toNat
  if 2 ^ 22 < c + t.n then none
  else if c = 0 then
    some { b with max := t.max, sumHi := t.sum, sumLo := 0, mean := t.mean, m2Hi := t.m2, m2Lo := 0, count := BitVec.ofNat 32 t.n }
  else
    let n := c + t.n
    let d := fsub t.mean b.mean
    let m2 := compAdd b.m2Hi b.m2Lo (fadd t.m2 (fmul (fmul d d) (ratio32 (c * t.n) n)))
    let sm := compAdd b.sumHi b.sumLo t.sum
    some { b with mean := fadd b.mean (fmul d (ratio32 t.n n)), m2Hi := m2.1, m2Lo := m2.2, sumHi := sm.1, sumLo := sm.2,
                  max := fmax b.max t.max, count := BitVec.ofNat 32 n }

/-- SUM as delivered (R224). -/
def BankRow.sum (b : BankRow) : Word := fadd b.sumHi b.sumLo

/-- Exact sums of the pairs of a bank row. -/
def BankRow.sumNum (b : BankRow) : Num := (dec32 b.sumHi).add (dec32 b.sumLo)
def BankRow.m2Num (b : BankRow) : Num := (dec32 b.m2Hi).add (dec32 b.m2Lo)

def BankRow.mean_ (b : BankRow) : Word := enc32 (b.sumNum.div (numOf b.count.toNat))
def BankRow.var (b : BankRow) : Word := enc32 (b.m2Num.div (numOf b.count.toNat))
def BankRow.meanSquare (b : BankRow) : Word :=
  let n := b.count.toNat
  enc32 (((b.m2Num.mul (numOf n)).add (b.sumNum.mul b.sumNum)).div (numOf (n * n)))

/-! ### One row of a word -/

/-- What a row writes: the lanes of DST from lane 0 on, those of the e tile of a pair, its bank row; and what it counts. -/
structure RowOut where
  dst : Option (List Word) := none
  err : Option (List Word) := none
  bank : Option BankRow := none
  empty : Bool := false
  nan : Bool := false
  denied : Bool := false
  deriving DecidableEq, Repr

/-- What a row of a word reads. -/
structure RowIn where
  x1 : List Word       -- valid lanes of SRC1, or of the row's own tile for PAIR_FIX
  x2 : List Word
  d : List Word        -- DST
  e : List Word        -- the e tile of a pair
  e1 : List Word       -- the e tile of SRC1's pair
  v : List Word        -- the vector of R219, row 0 of its descriptor
  v1 : List Word       -- row 1
  b : BankRow
  x : Int              -- field X
  f : Nat → Word → Word  -- a special function of the plot

/-- The soft maximum of a row within a tile (R226, R228). A row masked in every lane writes +0 and counts in EMPTY_ROWS (log
entry 18). -/
def rowSoftmax (i : RowIn) : RowOut :=
  let m := maxOf i.x1
  let cnt := BitVec.ofNat 32 i.x1.length
  if isNan32 m ∨ m = posInf then
    { dst := some (i.x1.map fun _ => canonicalNan), nan := true,
      bank := some { i.b with max := canonicalNan, sumHi := canonicalNan, sumLo := 0, count := cnt, factor := fone } }
  else if m = negInf then
    { dst := some (i.x1.map fun _ => fzero), empty := true,
      bank := some { i.b with max := m, sumHi := 0, sumLo := 0, count := cnt, factor := fone } }
  else
    let es := i.x1.map fun x => i.f 0 (fsub x m)
    let l := sumOf es
    let r := i.f 2 l
    { dst := some (es.map fun e => fmul e r),
      bank := some { i.b with max := m, sumHi := l, sumLo := 0, count := cnt, factor := fone } }

/-- One block of a blocked soft maximum (R227, R228). -/
def rowSoftmaxBlock (i : RowIn) : RowOut :=
  let mOld := if i.b.count = 0 then negInf else i.b.max
  let m := fmax mOld (maxOf i.x1)
  let cnt := i.b.count + BitVec.ofNat 32 i.x1.length
  if isNan32 m ∨ m = posInf then
    { dst := some (i.x1.map fun _ => canonicalNan), nan := true,
      bank := some { i.b with max := canonicalNan, sumHi := canonicalNan, sumLo := 0, count := cnt,
                              factor := i.f 0 (fsub mOld m) } }
  else if m = negInf then
    { dst := some (i.x1.map fun _ => fzero),
      bank := some { i.b with max := m, sumHi := fadd (fmul i.b.sumHi fone) fzero, sumLo := 0, count := cnt, factor := fone } }
  else
    let f := if mOld = negInf then fzero else i.f 0 (fsub mOld m)
    let es := i.x1.map fun x => i.f 0 (fsub x m)
    { dst := some es,
      bank := some { i.b with max := m, sumHi := fadd (fmul i.b.sumHi f) (sumOf es), sumLo := 0, count := cnt, factor := f } }

/-- EXP_SUB (R218, R228). -/
def rowExpSub (i : RowIn) : RowOut :=
  let m := i.b.max
  if isNan32 m ∨ m = posInf ∨ i.x1.any isNan32 then
    { dst := some (i.x1.map fun _ => canonicalNan), nan := true,
      bank := some { i.b with max := canonicalNan, sumHi := canonicalNan, sumLo := 0 } }
  else if m = negInf then { dst := some (i.x1.map fun _ => fzero) }
  else
    let es := i.x1.map fun x => i.f 0 (fsub x m)
    let sm := compAdd i.b.sumHi i.b.sumLo (sumOf es)
    { dst := some es, bank := some { i.b with sumHi := sm.1, sumLo := sm.2 } }

/-- ROWSCALE_RECIP (R218, R228). -/
def rowRecip (i : RowIn) : RowOut :=
  if i.b.sumHi = fzero then { dst := some (i.x1.map fun _ => fzero), empty := true }
  else
    let r := i.f 2 i.b.sum
    { dst := some (i.x1.map fun x => fmul x r), nan := isNan32 i.b.sum }

/-- LNORM and RMSNORM (R225). -/
def rowNorm (rms : Bool) (i : RowIn) : RowOut :=
  let second := if rms then i.b.meanSquare else i.b.var
  if i.b.count = 0 then { dst := some (i.x1.map fun _ => fzero) }
  else if isNan32 second ∨ (!rms ∧ isNan32 i.b.mean_) then { dst := some (i.x1.map fun _ => canonicalNan), nan := true }
  else
    let r := i.f 3 (fadd second (fscale fone i.x))
    let lane := fun (x : Word) (l : Nat) =>
      if rms then fmul (fmul x r) (i.v.getD l 0)
      else ffma (fmul (fsub x i.b.mean_) r) (i.v.getD l 0) (i.v1.getD l 0)
    { dst := some (i.x1.zipIdx.map fun y => lane y.1 y.2) }

def gelu1 : Word := ratio32 797884 1000000
def gelu2 : Word := ratio32 44715 1000000

/-- ACT_GELU_TANH (R218), its products formed from left to right (log entry 19). -/
def geluTanh (f : Nat → Word → Word) (x : Word) : Word :=
  let t := f 5 (fmul gelu1 (fadd x (fmul gelu2 (fmul (fmul x x) x))))
  fmul (fmul (ratio32 1 2) x) (fadd fone t)

/-- Lane-wise application to the valid lanes of SRC1. -/
def RowIn.lanes (i : RowIn) (f : Word → Nat → Word) : RowOut := { dst := some (i.x1.zipIdx.map fun y => f y.1 y.2) }

/-- Lane-wise update of a pair over the valid lanes of SRC1. -/
def RowIn.pair (i : RowIn) (f : Word → Nat → Word × Word) : RowOut :=
  let r := i.x1.zipIdx.map fun y => f y.1 y.2
  { dst := some (r.map (·.1)), err := some (r.map (·.2)) }

/-- Words of a bank row in the order of R221, then zeros. -/
def BankRow.words (b : BankRow) : List Word :=
  [b.max, b.sumHi, b.sumLo, b.mean, b.m2Hi, b.m2Lo, b.count, b.factor] ++ List.replicate 56 0

/-- A row of a ROW word (R218). -/
def rowOp (fop : Nat) (i : RowIn) : RowOut :=
  match fop with
  | 0x00 => match ({} : BankRow).combine (tileStat i.x1) with | some b => { bank := some b } | none => { denied := true }
  | 0x01 => match i.b.combine (tileStat i.x1) with | some b => { bank := some b } | none => { denied := true }
  | 0x08 => rowSoftmax i
  | 0x09 => rowSoftmaxBlock i
  | 0x0A => rowExpSub i
  | 0x0B => rowRecip i
  | 0x0C => if i.b.factor = fone then i.lanes fun x _ => x else i.lanes fun x _ => fmul x i.b.factor
  | 0x0D => { dst := some i.b.words }
  | 0x10 => rowNorm false i
  | 0x11 => rowNorm true i
  | 0x18 => i.lanes fun x _ => fmax x fzero
  | 0x19 => i.lanes fun x _ => fmul x (i.f 4 x)
  | 0x1A => i.lanes fun x _ => geluTanh i.f x
  | 0x1B => i.lanes fun x _ => i.f 4 x
  | 0x1C => i.lanes fun x _ => i.f 5 x
  | _ => i.lanes fun x _ => x

/-- PAIR_FIX on a pair's lane (R270, R271). -/
def pairFixLane (k : Int) (s e : Word) : Word × Word :=
  let a := fscale s k
  let b := fscale e k
  if finite32 a && finite32 b then twoSum a b else (fadd a b, fzero)

/-- A row of an ELEM word (R219, R270). -/
def elemOp (fop : Nat) (i : RowIn) : RowOut :=
  let d := fun (l : Nat) => i.d.getD l 0
  let e := fun (l : Nat) => i.e.getD l 0
  let y := fun (l : Nat) => i.x2.getD l 0
  let v := fun (l : Nat) => i.v.getD l 0
  match fop with
  | 0x00 => i.lanes fun x _ => x
  | 0x01 => i.lanes fun x l => fadd x (y l)
  | 0x02 => i.lanes fun x l => fsub x (y l)
  | 0x03 => i.lanes fun x l => fmul x (y l)
  | 0x04 => i.lanes fun x l => fmax x (y l)
  | 0x05 => i.lanes fun x l => fmin x (y l)
  | 0x06 => i.lanes fun x l => ffma x (y l) (d l)
  | 0x07 => i.lanes fun x _ => fscale x i.x
  | 0x08 => i.lanes fun x l => fadd x (v l)
  | 0x09 => i.lanes fun x l => fmul x (v l)
  | 0x0B => i.lanes fun x _ => fabs x
  | 0x0C => i.lanes fun x _ => fneg x
  | 0x10 => { dst := some (List.replicate 64 0) }
  | 0x20 => i.lanes fun x l => ffma (v l) (d l) x
  | 0x21 => i.lanes fun x l => ffma (y l) (d l) x
  | 0x22 => i.lanes fun x l => ffma (y l) (fsub (d l) x) x
  | 0x24 => i.pair fun x l => compUpdate (d l) (e l) (v l) x
  | 0x25 => i.pair fun x l => compUpdate (d l) (e l) (y l) x
  | 0x26 => i.pair fun x l => compUpdate (d l) (e l) (y l) (fmul (fsub fone (y l)) x)
  | 0x28 => i.pair fun x l => pairFixLane i.x x (e l)
  | 0x29 => i.pair fun x _ => (x, fzero)
  | 0x2A => i.lanes fun x l => fadd x (i.e1.getD l 0)
  | _ => i.lanes fun x _ => i.f (fop - 0x30) x

/-- Arguments of a row's requests to the SFU cluster, those of its lanes before its own (R250). -/
def rowAsk (op fop : Nat) (i : RowIn) : List Word :=
  let m := maxOf i.x1
  let shifted := fun (m : Word) => i.x1.map fun x => fsub x m
  if op = 0x8 then
    match fop with
    | 0x08 => shifted m ++ [sumOf ((shifted m).map (i.f 0))]
    | 0x09 =>
        let old := if i.b.count = 0 then negInf else i.b.max
        shifted (fmax old m) ++ [fsub old (fmax old m)]
    | 0x0A => shifted i.b.max
    | 0x0B => [i.b.sum]
    | 0x10 => [fadd i.b.var (fscale fone i.x)]
    | 0x11 => [fadd i.b.meanSquare (fscale fone i.x)]
    | 0x1A => i.x1.map fun x => fmul gelu1 (fadd x (fmul gelu2 (fmul (fmul x x) x)))
    | _ => i.x1
  else i.x1

/-- Guarded units that a word uses, as UNIT of R236 numbers them (R234; log entry 104). -/
def fuUnits (op fop : Nat) : List Nat :=
  match op, fop with
  | 0x8, 0x00 => [3, 5]
  | 0x8, 0x01 => [3, 5]
  | 0x8, 0x08 => [0, 1, 3]
  | 0x8, 0x09 => [0, 1, 3]
  | 0x8, 0x0A => [0, 3]
  | 0x8, 0x0B => [0, 1]
  | 0x8, 0x0C => [1]
  | 0x8, 0x10 => [0, 1, 2]
  | 0x8, 0x11 => [0, 1]
  | 0x8, 0x19 => [1]
  | 0x8, 0x1A => [0, 1]
  | 0x9, 0x01 => [0]
  | 0x9, 0x02 => [0]
  | 0x9, 0x03 => [1]
  | 0x9, 0x06 => [2]
  | 0x9, 0x07 => [1]
  | 0x9, 0x08 => [0]
  | 0x9, 0x09 => [1]
  | 0x9, 0x20 => [2]
  | 0x9, 0x21 => [2]
  | 0x9, 0x22 => [0, 2]
  | 0x9, 0x24 => [0, 2]
  | 0x9, 0x25 => [0, 2]
  | 0x9, 0x26 => [0, 1, 2]
  | 0x9, 0x28 => [0, 1]
  | 0x9, 0x2A => [0]
  | 0xA, _ => [4]
  | 0xC, _ => [4]
  | _, _ => []

/-! ### What a word reads and writes (R215 to R217, R268, R269) -/

/-- Tiles that a word reads, tiles it writes, those of them that must be LIVE, whether it reads a vector, and the tile whose extent
DST takes. -/
structure FuSpec where
  reads : List Nat
  writes : List Nat
  live : List Nat := []
  vec : Bool := false
  sTile : Option Nat := none    -- the s tile a compensated operation names
  ext : Option Nat
  deriving DecidableEq, Repr

def rowSpec (fop : Nat) (w : FurrowWord) : FuSpec :=
  let a := w.src1.toNat
  let d := w.dst.toNat
  if fop ≤ 0x01 then { reads := [a], writes := [], ext := some a }
  else { reads := [a], writes := [d], vec := fop = 0x10 ∨ fop = 0x11, ext := some a }

def elemSpec (fop : Nat) (w : FurrowWord) : FuSpec :=
  let a := w.src1.toNat
  let b := w.src2.toNat
  let d := w.dst.toNat
  match fop with
  | 0x06 => { reads := [a, b, d], writes := [d], live := [d], ext := some a }
  | 0x08 => { reads := [a], writes := [d], vec := true, ext := some a }
  | 0x09 => { reads := [a], writes := [d], vec := true, ext := some a }
  | 0x10 => { reads := [], writes := [d], ext := none }
  | 0x20 => { reads := [a, d], writes := [d], live := [d], vec := true, ext := some a }
  | 0x21 => { reads := [a, b, d], writes := [d], live := [d], ext := some a }
  | 0x22 => { reads := [a, b, d], writes := [d], live := [d], ext := some a }
  | 0x24 => { reads := [a, d, d + 4], writes := [d, d + 4], live := [d, d + 4], vec := true, sTile := some d, ext := some a }
  | 0x25 => { reads := [a, b, d, d + 4], writes := [d, d + 4], live := [d, d + 4], sTile := some d, ext := some a }
  | 0x26 => { reads := [a, b, d, d + 4], writes := [d, d + 4], live := [d, d + 4], sTile := some d, ext := some a }
  | 0x28 => { reads := [d, d + 4], writes := [d, d + 4], live := [d, d + 4], sTile := some d, ext := some d }
  | 0x29 => { reads := [a], writes := [d, d + 4], sTile := some d, ext := some a }
  | 0x2A => { reads := [a, a + 4], writes := [d], live := [d], sTile := some a, ext := some a }
  | _ =>
      if 0x01 ≤ fop ∧ fop ≤ 0x05 then { reads := [a, b], writes := [d], ext := some a }
      else { reads := [a], writes := [d], ext := some a }

def fuSpec (op fop : Nat) (w : FurrowWord) : FuSpec := if op = 0x8 then rowSpec fop w else elemSpec fop w

/-- Special functions of a row (R250): the code of the request of each valid lane, and that of the row's own request. -/
def fuSfu (op fop : Nat) : Option (Option Nat × Option Nat) :=
  if op = 0x8 then
    match fop with
    | 0x08 => some (some 0, some 2)
    | 0x09 => some (some 0, some 0)
    | 0x0A => some (some 0, none)
    | 0x0B => some (none, some 2)
    | 0x10 => some (none, some 3)
    | 0x11 => some (none, some 3)
    | 0x19 => some (some 4, none)
    | 0x1A => some (some 5, none)
    | 0x1B => some (some 4, none)
    | 0x1C => some (some 5, none)
    | _ => none
  else if op = 0x9 ∧ 0x30 ≤ fop then some (some (fop - 0x30), none) else none

/-! ### Running a word -/

/-- Row r of a vector descriptor (R219, R225): +0 outside the extent. -/
def State.vecRow (s : State) (p : Nat) (t : TileRef) (r : Nat) : List Word :=
  let d := imgDesc (s.imgOf (s.plot p)) t.desc
  let v := validExtent (s.refRows (s.plot p) d t) d.cols 0 0
  if r < v.1 then (s.rowValues p d t v.2 r).map enc32 else []

/-- Rights on the rows that a vector operation reads. -/
def State.vecAccess (s : State) (p : Nat) (t : TileRef) (rows : Nat) : SrcAccess :=
  let x := s.plot p
  let d := imgDesc (s.imgOf x) t.desc
  let v := validExtent (s.refRows x d t) d.cols 0 0
  (List.range (min rows v.1)).foldl (fun acc r => acc.and (s.srcAccess p d false (s.rowAddr x d t r).1 ((v.2 * fmtBits d.fmt + 7) / 8))) .ok

def Plot.bankRow (x : Plot) (bank r : Nat) : BankRow := sget ({} : BankRow) x.stats (64 * bank + r)
def Plot.setBankRow (x : Plot) (bank r : Nat) (b : BankRow) : Plot :=
  { x with stats := sput ({} : BankRow) x.stats (64 * bank + r) b }

/-- The inputs of row r of a word. -/
def State.rowIn (s : State) (p : Nat) (op fop : Nat) (w : FurrowWord) (t : TileRef) (reset : Bool) (r : Nat) : RowIn :=
  let x := s.plot p
  let sp := fuSpec op fop w
  let a := if op = 0x9 ∧ fop = 0x28 then w.dst.toNat else w.src1.toNat
  let src := x.tile a
  let n := if r < src.rows then src.cols else 0
  { x1 := (src.row r).take n, x2 := (x.tile w.src2.toNat).row r, d := (x.tile w.dst.toNat).row r,
    e := (x.tile (w.dst.toNat + 4)).row r, e1 := (x.tile (w.src1.toNat + 4)).row r,
    v := if sp.vec then s.vecRow p t 0 else [], v1 := if sp.vec then s.vecRow p t 1 else [],
    b := if reset then {} else x.bankRow w.src2.toNat r, x := w.x.toInt, f := s.sfuEval p }

/-- Row r of a word as committed: DST, the e tile, the bank row, and the counts of R238. -/
def State.commitRow (s : State) (p : Nat) (w : FurrowWord) (r : Nat) (o : RowOut) : State :=
  let x := s.plot p
  let d := w.dst.toNat
  let x1 := match o.dst with
    | some l => x.setTile d { x.tile d with data := setRow (x.tile d).data r l }
    | none => x
  let x2 := match o.err with
    | some l => x1.setTile (d + 4) { x1.tile (d + 4) with data := setRow (x1.tile (d + 4)).data r l }
    | none => x1
  let x3 := match o.bank with
    | some b => x2.setBankRow w.src2.toNat r b
    | none => x2
  let s1 := (s.setPlot p x3).bump ctrRows p
  let s2 := if o.empty then s1.bump ctrEmptyRows p else s1
  if o.nan then s2.bump ctrNanRows p else s2

/-- Rows that a word takes: those inside the row extent of the tile that gives its extent, or all 64 (R218, R219). -/
def Plot.fuRows (x : Plot) (op fop : Nat) (w : FurrowWord) : Nat :=
  if (op = 0x8 ∧ fop = 0x0D) ∨ (op = 0x9 ∧ fop = 0x10) then 64
  else (x.tile (if op = 0x9 ∧ fop = 0x28 then w.dst.toNat else w.src1.toNat)).rows

/-- The outcome of one row. -/
def State.fuRow (s : State) (p op fop : Nat) (w : FurrowWord) (t : TileRef) (reset : Bool) (r : Nat) : RowOut :=
  let i := s.rowIn p op fop w t reset r
  if op = 0x8 then rowOp fop i else elemOp fop i

/-- A furrow word retires (R166, R214): its token, REL1, its tiles no longer HELD. -/
def State.fuRetire (s : State) (p : Nat) (w : FurrowWord) : State :=
  let x := s.plot p
  if !x.running then s
  else
    let x1 := if w.sig then x.addCounter w.sigc.toNat 1 else x
    let x2 := if w.rel1 then x1.freeTile w.src1.toNat else x1
    (((s.setPlot p { x2 with fuRun := none }).bump ctrWords p).bump ctrFurrowSteps p 64).reportOverflow p

/-- DST and the e tile of a pair as a word issues: FREE tiles are allocated, and take their extent (R216, R217). -/
def Plot.fuAlloc (x : Plot) (sp : FuSpec) : Plot :=
  let src := match sp.ext with | some a => x.tile a | none => {}
  sp.writes.foldl (fun x d =>
    x.setTile d { x.tile d with st := .live, rows := src.rows, cols := src.cols, negInf := src.negInf }) x

/-- Holds on the tiles of a word, added or taken away. -/
def Plot.hold (x : Plot) (up : Bool) (ts : List Nat) : Plot :=
  ts.dedup.foldl (fun x d => x.setTile d { x.tile d with held := if up then (x.tile d).held + 1 else (x.tile d).held - 1 }) x

/-- A furrow word's index in its stream (R236). -/
def Plot.fuIndex (x : Plot) : Nat := if x.furrow.exp.isEmpty then x.furrow.pc else x.furrow.pc - 1

/-- The residue log of a failing row. -/
def State.residueLog (s : State) (p row unit lane : Nat) (op fop : Nat) (index : Nat) (ok : Bool) : State :=
  s.logFirst FU_RESIDUE_LOG_VALID p [(FU_RESIDUE_LOG_ROW, row), (FU_RESIDUE_LOG_LANE, if unit = 3 ∨ unit = 5 then 0 else lane),
    (FU_RESIDUE_LOG_UNIT, unit), (FU_RESIDUE_LOG_WORD, index), (FU_RESIDUE_LOG_OP, op), (FU_RESIDUE_LOG_FOP, fop),
    (FU_RESIDUE_LOG_RETRY_OK, if ok then 1 else 0)]

/-- A row's residue check (R235): passed; passed on its recomputation, which uses a retry of the slot; or failed, which ends the slot with
FURROW_RESIDUE. -/
def State.residueCheck (s : State) (p row op fop index : Nat) (w : DWord) : State × Bool :=
  let x := s.plot p
  let unit := getBits w 2 3
  let lane := getBits w 5 6
  if seepPersists w ∨ x.retries = 0 then
    ((((s.residueLog p row unit lane op fop index false).bump ctrResidueFailed p).failPlot p stFurrowResidue).furrowEvidence p,
      false)
  else
    ((s.residueLog p row unit lane op fop index true).bump ctrResidueRetried p |>.setPlot p { x with retries := x.retries - 1 },
      true)

/-- A row enters the pipeline (R212, R237): the furrow's seep counts it. Its fault shows where the row is inside the extent, the word uses
the unit, and for a unit of the lanes the lane is valid. The flag says whether the row commits. -/
def State.rowEnter (s : State) (p op fop index row rows cols : Nat) : State × Bool :=
  let h := s.seepEvents .furrow p 1
  match h.word with
  | none => (h.st, true)
  | some w =>
      let unit := getBits w 2 3
      if row < rows ∧ (fuUnits op fop).contains unit ∧ (unit = 3 ∨ unit = 5 ∨ getBits w 5 6 < cols) then
        h.st.residueCheck p row op fop index w
      else (h.st, true)

/-- The 64 rows of a word from row r on: each enters, and those inside the extent commit. The flag says whether the slot goes on. -/
def State.rowsFrom (s : State) (p op fop index rows cols : Nat) (one : State → Nat → State × Bool) (r : Nat) : Nat → State × Bool
  | 0 => (s, true)
  | n + 1 =>
      match s.rowEnter p op fop index r rows cols with
      | (s1, false) => (s1, false)
      | (s1, true) =>
          match (if r < rows then one s1 r else (s1, true)) with
          | (s2, false) => (s2, false)
          | (s2, true) => s2.rowsFrom p op fop index rows cols one (r + 1) n

/-- Row r of a ROW or ELEM word: a combination beyond 2^22 elements ends the slot (R223). -/
def State.fuOne (p op fop : Nat) (w : FurrowWord) (t : TileRef) (reset : Bool) (s : State) (r : Nat) : State × Bool :=
  let o := s.fuRow p op fop w t reset r
  if o.denied then (s.failPlot p stDenied, false) else (s.commitRow p w r o, true)

/-- Columns that a word's checks guard. -/
def Plot.fuCols (x : Plot) (op fop : Nat) (w : FurrowWord) : Nat :=
  if (op = 0x8 ∧ fop = 0x0D) ∨ (op = 0x9 ∧ fop = 0x10) then 64
  else (x.tile (if op = 0x9 ∧ fop = 0x28 then w.dst.toNat else w.src1.toNat)).cols

/-- Stores that a ROW or ELEM word uses: its tiles, and for a ROW word its bank (R580). -/
def fuStores (op fop : Nat) (w : FurrowWord) : List (Nat × Nat) :=
  let sp := fuSpec op fop w
  ((sp.reads ++ sp.writes).dedup.map fun a => (0, a)) ++ (if op = 0x8 then [(4, w.src2.toNat)] else [])

/-- Issue conditions of a ROW or ELEM word (R172, R215, R217, R269). -/
def State.fuGate (s : State) (p : Nat) (x : Plot) (op fop : Nat) (w : FurrowWord) (t : TileRef) : SrcAccess :=
  let sp := fuSpec op fop w
  let ts := sp.reads ++ sp.writes
  let d := imgDesc (s.imgOf x) t.desc
  if x.fuRun.isSome then .wait
  else if sp.sTile.any (fun a => decide (11 < a)) then .fail stDenied
  else if x.fence && ts.any (fun a => x.isState a) then .wait
  else if ts.any (fun a => (x.tile a).st = .pending || decide (0 < (x.tile a).held)) then .wait
  else if (sp.reads ++ sp.live).any (fun a => (x.tile a).st = .free) then .fail stDenied
  else if sp.vec && (d.fmt ≠ 0 && d.fmt ≠ 1 && d.fmt ≠ 2) then .fail stDenied
  else if sp.vec && d.src = 3 && s.pageDenied x d then .fail stDenied
  else if op = 0x9 && 0x30 ≤ fop && s.sfuInvalid p (fop - 0x30) then .fail stDenied
  else if sp.vec then s.vecAccess p t (if op = 0x8 ∧ fop = 0x10 then 2 else 1)
  else .ok

/-- The descriptor tile, stored tile and reset flag of a furrow item. -/
def State.fuTile (s : State) (x : Plot) (w : FurrowWord) (it : ExpItem) : TileRef × Bool :=
  match it with
  | .furrow _ _ _ r c off reset _ _ => ({ (s.wordTile x w.desc.toNat false 0) with r := r, c := c, off := off }, reset)
  | _ => (s.wordTile x w.desc.toNat w.usep w.preg.toNat, false)

/-- A ROW or ELEM word: it issues when it may, and runs to its retirement; one whose rows need SFU grants waits for them
(R213). Its rows are read under the extents that the tiles had before it (R216, R217). -/
def State.furrowWord (s : State) (p : Nat) (op fop : Nat) (w : FurrowWord) (x : Plot) (it : ExpItem) : State :=
  let (t, reset) := s.fuTile x w it
  match s.fuGate p x op fop w t with
  | .wait => s
  | .fail st =>
      if st = stReservoirOverflow then s.overflow p .furrow 3 true 0 0 0 0 0
      else if op = 0x9 ∧ 0x30 ≤ fop ∧ s.sfuInvalid p (fop - 0x30) then (s.sfuLog p 0 (fop - 0x30) 0 3 0 0 false).failPlot p st
      else s.failPlot p st
  | .ok =>
      let sp := fuSpec op fop w
      match s.enterStores p (fuStores op fop w) with
      | (s, false) => s
      | (s, true) =>
      if (fuSfu op fop).isSome then
        let x := s.plot p
        let x1 := ((x.fuAlloc sp).hold true (sp.reads ++ sp.writes))
        (s.setPlot p { x1 with fuRun := some { op := BitVec.ofNat 4 op, fop := BitVec.ofNat 6 fop, w := w, tile := t, reset := reset, index := x.fuIndex } }).advance
          p .furrow
      else
        match s.rowsFrom p op fop x.fuIndex (x.fuRows op fop w) (x.fuCols op fop w) (State.fuOne p op fop w t reset) 0 64 with
        | (s1, false) => s1
        | (s1, true) => ((s1.setPlot p ((s1.plot p).fuAlloc sp)).advance p .furrow).fuRetire p w

/-- A furrow compute word's row of the table. -/
def State.fuWordRow (s : State) (p : PPlot) (op fop : Nat) (w : FurrowWord) : Answer :=
  s.streamRow p .furrow (.compute (BitVec.ofNat 4 op) (BitVec.ofNat 6 fop) w) fun s p x it => s.furrowWord p op fop w x it

/-! ### Furrow grants (R248, R259) -/

/-- The checks of R259 on a grant's requests: none where it goes on, else the status that ends the slot; a retry takes the steps given. -/
def State.sfuCheck (s : State) (p : Nat) (qs : List SfuAsk) (furrow : Bool) (steps : Nat → Nat) : State × Option (BitVec 12) :=
  let h := s.sfuHit p qs.length
  match h.2 with
  | none => (h.1, none)
  | some (j, w) =>
      let q := qs.getD j { code := 0, arg := 0 }
      let kind := getBits w 2 2
      if !s.sfuShows p q.code kind then (h.1, none)
      else if kind = 3 then (h.1.bump ctrTableCorrected p, none)
      else
        let x := h.1.plot p
        let none_ := decide (x.retries = 0)
        let bad := seepPersists w || none_
        let s1 := (h.1.sfuLog p (s.sfuLaneOf p j) q.code (if furrow then 0 else 1) kind (s.sfuEntryOf p q) q.runnel (!bad)).sfuEvidence p
          (s.sfuLaneOf p j) (min q.code 10) (kind = 2)
        let s2 := if none_ then s1
          else (s1.setPlot p { s1.plot p with retries := x.retries - 1 }).bump ctrSfuSteps p (steps j)
        let st := if kind = 2 ∧ !none_ then stMemUncorrectable else stFurrowResidue
        if bad then
          let s3 := s2.bump ctrSfuFailed p
          (if furrow ∧ st = stFurrowResidue then s3.bump ctrResidueFailed p else s3, some st)
        else
          let s3 := s2.bump ctrSfuRetried p
          (if furrow then s3.bump ctrResidueRetried p else s3, none)

/-- A row of a word that waits for grants has its outcome: it enters and commits, and the last row inside the extent retires the word. -/
def State.grantedRow (s : State) (p : Nat) (f : FuRun) (o : RowOut) : State :=
  let x := s.plot p
  let rows := x.fuRows f.op.toNat f.fop.toNat f.w
  match s.rowEnter p f.op.toNat f.fop.toNat f.index f.row rows (x.fuCols f.op.toNat f.fop.toNat f.w) with
  | (s1, false) => s1
  | (s1, true) =>
      let s2 := s1.commitRow p f.w f.row o
      if f.row + 1 < rows then
        s2.setPlot p { s2.plot p with fuRun := some { f with row := f.row + 1 }, sfuTurn := true }
      else
        let sp := fuSpec f.op.toNat f.fop.toNat f.w
        let s3 := (s2.seepEvents .furrow p (64 - rows)).st
        let y := (s3.plot p).hold false (sp.reads ++ sp.writes)
        (s3.setPlot p { y with sfuTurn := true }).fuRetire p f.w

/-- Request j of a row's micro-programs begins on a lane (R256): r0 holds its argument. -/
def Plot.beginMicro (x : Plot) (lane slot : Nat) (arg : Word) (user : MicroUser) : Plot :=
  { x with micro := sput ({} : MicroLane) x.micro lane { regs := microSet [] 0 arg, slot := slot, user := some user } }

/-- The lanes run micro-programs of an earlier grant. -/
def Plot.microBusy (x : Plot) : Bool := x.micro.any fun l => l.2.user.isSome

/-- A furrow grant: the requests of the row that waits are evaluated, each micro-program by its own steps (R256). -/
def State.furrowGrant (s : State) (p : Nat) (f : FuRun) : State :=
  let op := f.op.toNat
  let fop := f.fop.toNat
  let codes := (fuSfu op fop).getD (none, none)
  let i := s.rowIn p op fop f.w f.tile f.reset f.row
  let n := if codes.1.isSome then i.x1.length else 0
  let k := if codes.2.isSome then 1 else 0
  let code := (codes.1.orElse fun _ => codes.2).getD 0
  let own := codes.2.getD code
  let cost := max (if n = 0 then 0 else s.sfuCost p code) (if k = 0 then 0 else s.sfuCost p own)
  let l := s.sfuLanes p
  let steps := (n + k + l - 1) / l * cost
  let list := List.replicate n code ++ List.replicate k own
  let args := rowAsk op fop i
  let s1 := (s.bump ctrGrantsFurrow p).bump ctrSfuSteps p steps
  match s1.sfuCheck p (list.zipIdx.map fun c => { code := c.1, arg := args.getD c.2 0 }) true fun _ => steps with
  | (s2, some st) => s2.failPlot p st
  | (s2, none) =>
      if 10 ≤ code ∧ 0 < n then
        let lanes := (s2.sfuLaneList p).take n
        let y := lanes.zipIdx.foldl (fun (y : Plot) c => y.beginMicro c.1 (code - 10) (args.getD c.2 0) (.row c.2)) (s2.plot p)
        s2.setPlot p { y with mpNext := lanes.length, mpOut := [], sfuTurn := true }
      else (s2.sfuDone p list).grantedRow p f (s2.fuRow p op fop f.w f.tile f.reset f.row)

/-! ### Conversions, LOAD and STORE (R220, R231, R232) -/

/-- SEED and UPDATE of the descriptor, ordinal of the slot and batch index (R96). -/
def State.philoxKey (s : State) (x : Plot) : Word × Word × Nat × Nat :=
  match (s.part x.part).slot.chunk with
  | some c =>
      match s.op? c.ring c.seq with
      | some o =>
          if o.opcode = 0x04 then (BitVec.ofNat 32 (o.fld 40 0 32), BitVec.ofNat 32 (o.fld 44 0 32), c.ordinal, c.batch)
          else (0, 0, c.ordinal, c.batch)
      | none => (0, 0, c.ordinal, c.batch)
  | none => (0, 0, 0, 0)

/-- The draw of element i of a stochastic conversion (R95, R96). -/
def State.draw (s : State) (x : Plot) (i : Nat) : Nat :=
  let (k0, k1, ord, batch) := s.philoxKey x
  let c3 := 0x02 * 2 ^ 24 + x.lplot % 1024 * 2 ^ 14 + batch % 2 ^ 14
  (philoxWord (philox (BitVec.ofNat 32 (i / 4)) (BitVec.ofNat 32 x.stoch) (BitVec.ofNat 32 ord) (BitVec.ofNat 32 c3) k0 k1) i).toNat
    % 2 ^ 16

/-- Row r of SRC1 converted to a format. -/
def State.convTileRow (s : State) (x : Plot) (w : FurrowWord) (r : Nat) : List Nat × List Nat × List Bool :=
  let src := x.tile w.src1.toNat
  let cols := if r < src.rows then src.cols else 0
  convRow w.fmt.toNat w.calib w.x.toInt cols ((src.row r).map dec32)
    (fun l => if w.sr then .stochastic (s.draw x (64 * r + l)) else .nearest)

/-- Saturations of a converted row counted, those of its first n lanes (R232). -/
def State.convSat (s : State) (p : Nat) (w : FurrowWord) (sat : List Bool) (n : Nat) : State :=
  let k := if w.calib then ((sat.take n).filter id).length else 0
  let x := s.plot p
  (s.setPlot p { x with satCount := min 0xFFFFFF (x.satCount + k) }).bump ctrSatCalib p k

/-- A conversion is done: the plot counts the stochastic ones (R96). -/
def Plot.convDone (x : Plot) (w : FurrowWord) : Plot := { x with stoch := if w.sr then x.stoch + 1 else x.stoch }

/-- A conversion that R220 refuses. -/
def convDenied (w : FurrowWord) : Bool :=
  (fmtTensor w.fmt.toNat && !w.calib) || (fmtMx w.fmt.toNat && w.calib && w.x = 0x80)

/-- A word that reads SRC1 alone issues: not behind a word in the pipeline, not on a PENDING, HELD or fenced tile, not on a FREE
one. -/
def Plot.srcGate (x : Plot) (a : Nat) : SrcAccess :=
  if x.fuRun.isSome || (x.fence && x.isState a) || (x.tile a).st = .pending || decide (0 < (x.tile a).held) then .wait
  else if (x.tile a).st = .free then .fail stDenied
  else .ok

/-- A word that writes no ROW or ELEM result: it failed, waits, or meets its stores and the canal in `enter`, takes its rows through `one`
and, when all have committed, ends with `last`. -/
def State.fuFinish (s : State) (p op fop rows cols : Nat) (w : FurrowWord) (it : ExpItem) (gate : SrcAccess)
    (enter : State → State × Bool) (one : State → Nat → State × Bool) (last : State → State) : State :=
  match gate with
  | .wait => s
  | .fail st =>
      if st = stReservoirOverflow then
        match it with
        | .furrow _ _ _ m n _ _ nest e => s.overflow p .furrow 3 false nest e m n 0
        | _ => s.overflow p .furrow 3 true 0 0 0 0 0
      else s.failPlot p st
  | .ok =>
      match enter s with
      | (s, false) => s
      | (s, true) =>
      match s.rowsFrom p op fop (s.plot p).fuIndex rows cols one 0 64 with
      | (s1, false) => s1
      | (s1, true) => (((last s1).bump ctrRows p rows).advance p .furrow).fuRetire p w

/-- Row i of SRC1 converted and written to a stored tile (R204). Its scale is chosen over SRC1's valid columns, and the saturations of the
elements that are written count (log entry 105). -/
def State.convStoreRow (p : Nat) (x : Plot) (w : FurrowWord) (d : TileDesc) (t : TileRef) (s : State) (i : Nat) : State × Bool :=
  let v := validExtent (s.refRows x d t) d.cols t.r t.c
  if i < v.1 then
    let c := s.convTileRow x w i
    ((s.writeRow p d t v.2 i c.1 c.2.1).convSat p w c.2.2 v.2, true)
  else (s, true)

/-- The set whose page a word writes: the open set of the owner that its PAGE descriptor names (R296, R303). -/
def State.pageTarget (s : State) (x : Plot) (d : TileDesc) : List Nat :=
  let o := sget 0 x.openSets d.pgOwner
  let st := ((s.pool x.part).set_ (o - 1)).st
  if d.pgBack = 0 ∧ 0 < o ∧ (st = .open_ ∨ st = .refilling) then [o - 1] else []

/-- CONV_RES and STORE on a plot. Rows beyond SRC1's row extent write code 0. -/
def State.storeWord (s : State) (p : Nat) (x : Plot) (it : ExpItem) (w : FurrowWord) (op fop : Nat) (denied : TileDesc → Bool) :
    State :=
  let (t0, _) := s.fuTile x w it
  let d0 := imgDesc (s.imgOf x) t0.desc
  let t : TileRef := if d0.src = 3 then { t0 with walk := s.pageTarget x d0 } else t0
  let d := { d0 with fmt := w.fmt.toNat }
  let gate : SrcAccess := match x.srcGate w.src1.toNat with
    | .ok => if denied d0 || (d.src = 3 && (s.pageDenied x d0 || t.walk = [])) then .fail stDenied else s.tileAccess p d t true
    | g => g
  let enter := fun (s : State) =>
    match s.enterStores p [(0, w.src1.toNat)] with
    | (s1, true) => s1.reachTile p d t true
    | r => r
  s.fuFinish p op fop (validExtent (s.refRows x d t) d.cols t.r t.c).1 (x.tile w.src1.toNat).cols w it gate enter
    (State.convStoreRow p x w d t) fun s => s.setPlot p ((s.plot p).convDone w)

/-- SRC1 converted into staging slot n (R220), FULL once every row has committed (R235). -/
def State.convStage (s : State) (p : Nat) (w : FurrowWord) (bank : Bool) (n : Nat) : State :=
  let x := s.plot p
  let f := w.fmt.toNat
  let rows := (List.range 64).map fun r => s.convTileRow x w r
  let data := rows.flatMap fun c => packRow (fmtBits f) c.1
  let scales : List Byte :=
    if fmtTensor f then [BitVec.ofNat 8 (w.x.toNat)] else rows.flatMap fun c => c.2.1.map (BitVec.ofNat 8)
  let g : StageSlot := { full := true, fmt := f, negInf := false, data := data, scales := scales }
  let x1 := if f = 0 then
      (x.setStage bank n { g with data := data.take 8192 }).setStage bank (n + 1) { g with data := data.drop 8192 }
    else x.setStage bank n g
  s.setPlot p (x1.convDone w)

/-- CONV_STAGE and CONV_BANK on a plot. -/
def State.stageWord (s : State) (p : Nat) (x : Plot) (w : FurrowWord) (fop : Nat) (it : ExpItem) (bank : Bool) (n : Nat) : State :=
  let full := (x.stage bank n).full || (w.fmt = 0 && (x.stage bank (n + 1)).full)
  let src := x.tile w.src1.toNat
  let gate : SrcAccess := match x.srcGate w.src1.toNat with
    | .ok => if convDenied w ∨ (!bank ∧ 8 ≤ w.dst.toNat) then .fail stDenied else if full then .wait else .ok
    | g => g
  s.fuFinish p 0xA fop src.rows src.cols w it gate
    (fun s => s.enterStores p [(0, w.src1.toNat), (1, (if bank then 8 else 0) + n)]) (fun s r => (s.convSat p w (s.convTileRow x w r).2.2 64, true))
    fun s => s.convStage p w bank n

/-- CONV_RES. -/
def execConvRes (p : PPlot) (w : FurrowWord) (s : State) : Answer :=
  s.streamRow p .furrow (.compute 0xA 0x00 w) fun s p x it =>
    s.storeWord p x it w 0xA 0x00 fun d => convDenied w || (fmtTensor w.fmt.toNat && decide (w.x.toNat ≠ d.tshift))

/-- CONV_STAGE. -/
def execConvStage (p : PPlot) (w : FurrowWord) (s : State) : Answer :=
  s.streamRow p .furrow (.compute 0xA 0x01 w) fun s p x it => s.stageWord p x w 0x01 it false w.dst.toNat

/-- CONV_BANK. -/
def execConvBank (p : PPlot) (w : FurrowWord) (s : State) : Answer :=
  s.streamRow p .furrow (.compute 0xA 0x02 w) fun s p x it => s.stageWord p x w 0x02 it true w.dst.toNat

/-- STORE. -/
def execStore (p : PPlot) (w : FurrowWord) (s : State) : Answer :=
  s.streamRow p .furrow (.compute 0xC 0x00 w) fun s p x it =>
    s.storeWord p x it w 0xC 0x00 fun d => decide (2 < w.fmt.toNat) || decide (w.fmt.toNat ≠ d.fmt)

/-- LOAD. -/
def execLoad (p : PPlot) (w : FurrowWord) (s : State) : Answer :=
  s.streamRow p .furrow (.compute 0xB 0x00 w) fun s p x it =>
    let (t, _) := s.fuTile x w it
    let d := imgDesc (s.imgOf x) t.desc
    let a := w.dst.toNat
    let v := validExtent (s.refRows x d t) d.cols t.r t.c
    let busy := x.fuRun.isSome || (x.fence && (x.isState a || d.state)) || (x.tile a).st = .pending
      || decide (0 < (x.tile a).held)
    let gate : SrcAccess := if busy then .wait
      else if d.src = 3 && s.pageDenied x d then .fail stDenied else s.tileAccess p d t false
    let enter := fun (s : State) =>
      match s.reachTile p d t false with
      | (s1, true) => s1.enterStores p [(0, a)]
      | r => r
    let s := match gate with
      | .wait => if busy then s else s.scrubTile p d t
      | _ => s
    s.fuFinish p 0xB 0x00 v.1 v.2 w it gate enter (fun s _ => (s, true)) fun s =>
      let s1 := if d.src = 3 then s.touchWalk p x.part t.walk else s
      let y := s1.plot p
      let data := (List.range v.1).foldl (fun l i => setRow l i ((s1.rowValues p d t v.2 i).map enc32)) (y.tile a).data
      s1.setPlot p (y.setTile a { y.tile a with st := .live, data := data, rows := v.1, cols := v.2, negInf := d.negInf })

/-! ### The words -/

def execRstatInit (p : PPlot) (w : FurrowWord) (s : State) : Answer := s.fuWordRow p 0x8 0x00 w
def execRstatAcc (p : PPlot) (w : FurrowWord) (s : State) : Answer := s.fuWordRow p 0x8 0x01 w
def execSoftmax (p : PPlot) (w : FurrowWord) (s : State) : Answer := s.fuWordRow p 0x8 0x08 w
def execSoftmaxBlock (p : PPlot) (w : FurrowWord) (s : State) : Answer := s.fuWordRow p 0x8 0x09 w
def execExpSub (p : PPlot) (w : FurrowWord) (s : State) : Answer := s.fuWordRow p 0x8 0x0A w
def execRowscaleRecip (p : PPlot) (w : FurrowWord) (s : State) : Answer := s.fuWordRow p 0x8 0x0B w
def execRowscaleFactor (p : PPlot) (w : FurrowWord) (s : State) : Answer := s.fuWordRow p 0x8 0x0C w
def execBankRead (p : PPlot) (w : FurrowWord) (s : State) : Answer := s.fuWordRow p 0x8 0x0D w
def execLnorm (p : PPlot) (w : FurrowWord) (s : State) : Answer := s.fuWordRow p 0x8 0x10 w
def execRmsnorm (p : PPlot) (w : FurrowWord) (s : State) : Answer := s.fuWordRow p 0x8 0x11 w
def execActRelu (p : PPlot) (w : FurrowWord) (s : State) : Answer := s.fuWordRow p 0x8 0x18 w
def execActSilu (p : PPlot) (w : FurrowWord) (s : State) : Answer := s.fuWordRow p 0x8 0x19 w
def execActGeluTanh (p : PPlot) (w : FurrowWord) (s : State) : Answer := s.fuWordRow p 0x8 0x1A w
def execActSigmoid (p : PPlot) (w : FurrowWord) (s : State) : Answer := s.fuWordRow p 0x8 0x1B w
def execActTanh (p : PPlot) (w : FurrowWord) (s : State) : Answer := s.fuWordRow p 0x8 0x1C w
def execActIdent (p : PPlot) (w : FurrowWord) (s : State) : Answer := s.fuWordRow p 0x8 0x1D w
def execCopy (p : PPlot) (w : FurrowWord) (s : State) : Answer := s.fuWordRow p 0x9 0x00 w
def execAdd (p : PPlot) (w : FurrowWord) (s : State) : Answer := s.fuWordRow p 0x9 0x01 w
def execSub (p : PPlot) (w : FurrowWord) (s : State) : Answer := s.fuWordRow p 0x9 0x02 w
def execMul (p : PPlot) (w : FurrowWord) (s : State) : Answer := s.fuWordRow p 0x9 0x03 w
def execMax (p : PPlot) (w : FurrowWord) (s : State) : Answer := s.fuWordRow p 0x9 0x04 w
def execMin (p : PPlot) (w : FurrowWord) (s : State) : Answer := s.fuWordRow p 0x9 0x05 w
def execFma (p : PPlot) (w : FurrowWord) (s : State) : Answer := s.fuWordRow p 0x9 0x06 w
def execScale2 (p : PPlot) (w : FurrowWord) (s : State) : Answer := s.fuWordRow p 0x9 0x07 w
def execAddVec (p : PPlot) (w : FurrowWord) (s : State) : Answer := s.fuWordRow p 0x9 0x08 w
def execMulVec (p : PPlot) (w : FurrowWord) (s : State) : Answer := s.fuWordRow p 0x9 0x09 w
def execAbs (p : PPlot) (w : FurrowWord) (s : State) : Answer := s.fuWordRow p 0x9 0x0B w
def execNeg (p : PPlot) (w : FurrowWord) (s : State) : Answer := s.fuWordRow p 0x9 0x0C w
def execZero (p : PPlot) (w : FurrowWord) (s : State) : Answer := s.fuWordRow p 0x9 0x10 w
def execSpecialFunction (p : PPlot) (code : BitVec 4) (w : FurrowWord) (s : State) : Answer :=
  s.fuWordRow p 0x9 (0x30 + code.toNat) w
def execLinV (p : PPlot) (w : FurrowWord) (s : State) : Answer := s.fuWordRow p 0x9 0x20 w
def execLinT (p : PPlot) (w : FurrowWord) (s : State) : Answer := s.fuWordRow p 0x9 0x21 w
def execMixT (p : PPlot) (w : FurrowWord) (s : State) : Answer := s.fuWordRow p 0x9 0x22 w
def execClinV (p : PPlot) (w : FurrowWord) (s : State) : Answer := s.fuWordRow p 0x9 0x24 w
def execClinT (p : PPlot) (w : FurrowWord) (s : State) : Answer := s.fuWordRow p 0x9 0x25 w
def execCmixT (p : PPlot) (w : FurrowWord) (s : State) : Answer := s.fuWordRow p 0x9 0x26 w
def execPairFix (p : PPlot) (w : FurrowWord) (s : State) : Answer := s.fuWordRow p 0x9 0x28 w
def execPairSplit (p : PPlot) (w : FurrowWord) (s : State) : Answer := s.fuWordRow p 0x9 0x29 w
def execPairFold (p : PPlot) (w : FurrowWord) (s : State) : Answer := s.fuWordRow p 0x9 0x2A w

end Sys2Proof.Machine
end

