-- ==== Sys2Proof/Machine/Runnel.lean ====
section
/-! DEFINITION. Runnels (R175 to R179): the Brynler extension and the moves; the RV32IMC base code between its instructions,
as RISC-V International ratified it (log entry 20); the grants of the SFU cluster (R248). -/

namespace Sys2Proof.Machine

/-! ### Registers and scratch -/

def Plot.runnel (x : Plot) (r : Nat) : Runnel := sget ({} : Runnel) x.runnels r
def Plot.setRunnel (x : Plot) (r : Nat) (v : Runnel) : Plot := { x with runnels := sput ({} : Runnel) x.runnels r v }

/-- A register; x0 reads as zero. -/
def Runnel.reg (v : Runnel) (i : Nat) : Word := if i = 0 then 0 else sget (0 : Word) v.regs i
/-- A register written; a write of x0 is discarded. -/
def Runnel.setReg (v : Runnel) (i : Nat) (w : Word) : Runnel :=
  if i = 0 then v else { v with regs := sput (0 : Word) v.regs i w }

/-- Physical runnel of a logical one, as the last cold load took the map (R158). -/
def Plot.physRunnel (x : Plot) (r : Nat) : Nat := sget 0 x.runMap r
def Plot.scratchBytes (x : Plot) (r a n : Nat) : List Byte := readBytes x.scratch (4096 * x.physRunnel r + a) n
def Plot.scratchWrite (x : Plot) (r a : Nat) (bs : List Byte) : Plot :=
  { x with scratch := writeBytes x.scratch (4096 * x.physRunnel r + a) bs }

/-! ### Base instructions -/

/-- A decoded instruction; custom ones keep their word. -/
inductive Rv where
  | lui (rd : Nat) (v : Word)
  | auipc (rd : Nat) (v : Word)
  | jal (rd : Nat) (off : Int)
  | jalr (rd rs1 : Nat) (off : Int)
  | branch (f3 rs1 rs2 : Nat) (off : Int)
  | load (f3 rd rs1 : Nat) (off : Int)
  | store (f3 rs1 rs2 : Nat) (off : Int)
  | alu (f3 rd : Nat) (alt : Bool) (rs1 : Nat) (imm : Option Word) (rs2 : Nat)
  | muldiv (f3 rd rs1 rs2 : Nat)
  | fence
  | ecall
  | ebreak
  | custom (w : Nat)
  | illegal
  deriving DecidableEq, Repr

/-- A two's complement field. -/
def signExt (w x : Nat) : Int := signedOf w x
def word (v : Int) : Word := BitVec.ofInt 32 v

/-- A custom instruction that R175 or R177 lists. -/
def customOk (w : Nat) : Bool :=
  let f3 := wbits w 12 3
  let f7 := wbits w 25 7
  let rd := wbits w 7 5
  let rs1 := wbits w 15 5
  let rs2 := wbits w 20 5
  if w % 128 = 0x0B then
    match f3 with
    | 0 => rd = 0 && rs2 = 0 && f7 = 0
    | 1 => f7 = 0
    | 2 => true
    | 3 => true
    | 4 => rs2 = 0 && f7 = 0
    | 7 => false
    | _ => rd = 0 && rs1 = 0 && rs2 = 0 && f7 = 0
  else
    match f3 with
    | 0 => f7 ≤ 10
    | 1 => f7 = 0
    | 2 => f7 ≤ 0xF
    | _ => false

/-- A 32-bit instruction. -/
def rvDecode (w : Nat) : Rv :=
  let rd := wbits w 7 5
  let f3 := wbits w 12 3
  let rs1 := wbits w 15 5
  let rs2 := wbits w 20 5
  let f7 := wbits w 25 7
  let immI := signExt 12 (wbits w 20 12)
  match w % 128 with
  | 0x37 => .lui rd (BitVec.ofNat 32 (w / 4096 * 4096))
  | 0x17 => .auipc rd (BitVec.ofNat 32 (w / 4096 * 4096))
  | 0x6F => .jal rd (signExt 21 (wbits w 21 10 * 2 + wbits w 20 1 * 2048 + wbits w 12 8 * 4096 + wbits w 31 1 * 1048576))
  | 0x67 => if f3 = 0 then .jalr rd rs1 immI else .illegal
  | 0x63 => if f3 = 2 ∨ f3 = 3 then .illegal
            else .branch f3 rs1 rs2 (signExt 13 (wbits w 8 4 * 2 + wbits w 25 6 * 32 + wbits w 7 1 * 2048 + wbits w 31 1 * 4096))
  | 0x03 => if f3 = 3 ∨ 6 ≤ f3 then .illegal else .load f3 rd rs1 immI
  | 0x23 => if 3 ≤ f3 then .illegal else .store f3 rs1 rs2 (signExt 12 (rd + f7 * 32))
  | 0x13 =>
      if f3 = 1 then (if f7 = 0 then .alu 1 rd false rs1 (some (BitVec.ofNat 32 rs2)) 0 else .illegal)
      else if f3 = 5 then (if f7 = 0 ∨ f7 = 0x20 then .alu 5 rd (f7 = 0x20) rs1 (some (BitVec.ofNat 32 rs2)) 0 else .illegal)
      else .alu f3 rd false rs1 (some (word immI)) 0
  | 0x33 =>
      if f7 = 1 then .muldiv f3 rd rs1 rs2
      else if f7 = 0 then .alu f3 rd false rs1 none rs2
      else if f7 = 0x20 ∧ (f3 = 0 ∨ f3 = 5) then .alu f3 rd true rs1 none rs2 else .illegal
  | 0x0F => if f3 = 0 then .fence else .illegal
  | 0x73 => if w = 0x73 then .ecall else if w = 0x100073 then .ebreak else .illegal
  | 0x0B => if customOk w then .custom w else .illegal
  | 0x2B => if customOk w then .custom w else .illegal
  | _ => .illegal

/-- A compressed instruction of quadrant 1. -/
def rvcOne (w : Nat) : Rv :=
  let rd := wbits w 7 5
  let imm := signExt 6 (wbits w 2 5 + wbits w 12 1 * 32)
  let a := 8 + wbits w 7 3
  let b := 8 + wbits w 2 3
  let sh := BitVec.ofNat 32 (wbits w 2 5)
  let jump := signExt 12 (wbits w 3 3 * 2 + wbits w 11 1 * 16 + wbits w 2 1 * 32 + wbits w 7 1 * 64 + wbits w 6 1 * 128
    + wbits w 9 2 * 256 + wbits w 8 1 * 1024 + wbits w 12 1 * 2048)
  let br := signExt 9 (wbits w 3 2 * 2 + wbits w 10 2 * 8 + wbits w 2 1 * 32 + wbits w 5 2 * 64 + wbits w 12 1 * 256)
  match wbits w 13 3 with
  | 0 => .alu 0 rd false rd (some (word imm)) 0
  | 1 => .jal 1 jump
  | 2 => .alu 0 rd false 0 (some (word imm)) 0
  | 3 =>
      if rd = 2 then
        let k := signExt 10 (wbits w 6 1 * 16 + wbits w 2 1 * 32 + wbits w 5 1 * 64 + wbits w 3 2 * 128 + wbits w 12 1 * 512)
        if k = 0 then .illegal else .alu 0 2 false 2 (some (word k)) 0
      else if imm = 0 then .illegal else .lui rd (word (imm * 4096))
  | 4 =>
      match wbits w 10 2 with
      | 0 => if wflag w 12 then .illegal else .alu 5 a false a (some sh) 0
      | 1 => if wflag w 12 then .illegal else .alu 5 a true a (some sh) 0
      | 2 => .alu 7 a false a (some (word imm)) 0
      | _ =>
          if wflag w 12 then .illegal
          else match wbits w 5 2 with
            | 0 => .alu 0 a true a none b
            | 1 => .alu 4 a false a none b
            | 2 => .alu 6 a false a none b
            | _ => .alu 7 a false a none b
  | 5 => .jal 0 jump
  | 6 => .branch 0 a 0 br
  | _ => .branch 1 a 0 br

/-- A compressed instruction of quadrants 0 and 2. -/
def rvcOther (w : Nat) : Rv :=
  let a := 8 + wbits w 7 3
  let b := 8 + wbits w 2 3
  let rd := wbits w 7 5
  let rs2 := wbits w 2 5
  if w % 4 = 0 then
    let off : Int := wbits w 6 1 * 4 + wbits w 10 3 * 8 + wbits w 5 1 * 64
    match wbits w 13 3 with
    | 0 =>
        let k := wbits w 6 1 * 4 + wbits w 5 1 * 8 + wbits w 11 2 * 16 + wbits w 7 4 * 64
        if k = 0 then .illegal else .alu 0 b false 2 (some (BitVec.ofNat 32 k)) 0
    | 2 => .load 2 b a off
    | 6 => .store 2 a b off
    | _ => .illegal
  else
    match wbits w 13 3 with
    | 0 => if wflag w 12 then .illegal else .alu 1 rd false rd (some (BitVec.ofNat 32 rs2)) 0
    | 2 => if rd = 0 then .illegal else .load 2 rd 2 (wbits w 4 3 * 4 + wbits w 12 1 * 32 + wbits w 2 2 * 64 : Nat)
    | 4 =>
        if wflag w 12 then
          (if rd = 0 ∧ rs2 = 0 then .ebreak else if rs2 = 0 then .jalr 1 rd 0 else .alu 0 rd false rd none rs2)
        else if rs2 = 0 then (if rd = 0 then .illegal else .jalr 0 rd 0)
        else .alu 0 rd false 0 none rs2
    | 6 => .store 2 2 rs2 (wbits w 9 4 * 4 + wbits w 7 2 * 64 : Nat)
    | _ => .illegal

/-- The instruction at a pc and its length; none where the fetch leaves the scratch. -/
def Plot.fetch (x : Plot) (r : Nat) : Option (Rv × Nat) :=
  let pc := (x.runnel r).pc
  if 4096 < pc + 2 then none
  else
    let h := leNat (x.scratchBytes r pc 2)
    if h % 4 = 3 then
      (if 4096 < pc + 4 then none else some (rvDecode (leNat (x.scratchBytes r pc 4)), 4))
    else if h % 4 = 1 then some (rvcOne h, 2) else some (rvcOther h, 2)

/-- Register operations of the base. -/
def rvAlu (f3 : Nat) (alt : Bool) (a b : Word) : Word :=
  match f3 with
  | 0 => if alt then a - b else a + b
  | 1 => a <<< (b.toNat % 32)
  | 2 => if a.slt b then 1 else 0
  | 3 => if a.ult b then 1 else 0
  | 4 => a ^^^ b
  | 5 => if alt then a.sshiftRight (b.toNat % 32) else a >>> (b.toNat % 32)
  | 6 => a ||| b
  | _ => a &&& b

/-- Multiplication and division of the base. -/
def rvMulDiv (f3 : Nat) (a b : Word) : Word :=
  match f3 with
  | 0 => a * b
  | 1 => word (a.toInt * b.toInt / 2 ^ 32)
  | 2 => word (a.toInt * b.toNat / 2 ^ 32)
  | 3 => BitVec.ofNat 32 (a.toNat * b.toNat / 2 ^ 32)
  | 4 => if b = 0 then 0xFFFFFFFF else word (a.toInt.tdiv b.toInt)
  | 5 => if b = 0 then 0xFFFFFFFF else BitVec.ofNat 32 (a.toNat / b.toNat)
  | 6 => if b = 0 then a else word (a.toInt.tmod b.toInt)
  | _ => if b = 0 then a else BitVec.ofNat 32 (a.toNat % b.toNat)

def rvTaken (f3 : Nat) (a b : Word) : Bool :=
  match f3 with
  | 0 => a = b
  | 1 => a ≠ b
  | 4 => a.slt b
  | 5 => !a.slt b
  | 6 => a.ult b
  | _ => !a.ult b

/-- What one base instruction does: the plot goes on, the runnel traps with a cause of R617, or it stands at a custom
instruction. -/
inductive RvStep where
  | go (x : Plot)
  | trap (cause : Nat)
  | custom (w : Nat)

/-- Bytes of a load or store. -/
def rvSize (f3 : Nat) : Nat := 2 ^ (f3 % 4)

/-- Access of n bytes at an address: misaligned, outside the scratch, or allowed. -/
def rvAccess (a n : Nat) : Option Nat := if a % n ≠ 0 then some 3 else if 4096 < a + n then some 4 else none

def Plot.rvStep (x : Plot) (r : Nat) : RvStep :=
  let v := x.runnel r
  let at_ := fun (n : Nat) (v' : Runnel) => RvStep.go (x.setRunnel r { v' with pc := n })
  match x.fetch r with
  | none => .trap 4
  | some (i, len) =>
    let nx := v.pc + len
    let target := fun (b : Int) => (word b).toNat
    match i with
    | .lui rd w => at_ nx (v.setReg rd w)
    | .auipc rd w => at_ nx (v.setReg rd (w + BitVec.ofNat 32 v.pc))
    | .jal rd off => at_ (target (v.pc + off)) (v.setReg rd (BitVec.ofNat 32 nx))
    | .jalr rd rs1 off => at_ (target ((v.reg rs1).toNat + off) / 2 * 2) (v.setReg rd (BitVec.ofNat 32 nx))
    | .branch f3 a b off => at_ (if rvTaken f3 (v.reg a) (v.reg b) then target (v.pc + off) else nx) v
    | .load f3 rd rs1 off =>
        let a := target ((v.reg rs1).toNat + off)
        match rvAccess a (rvSize f3) with
        | some c => .trap c
        | none =>
            let n := leNat (x.scratchBytes r a (rvSize f3))
            at_ nx (v.setReg rd (if f3 < 4 then word (signExt (8 * rvSize f3) n) else BitVec.ofNat 32 n))
    | .store f3 rs1 rs2 off =>
        let a := target ((v.reg rs1).toNat + off)
        match rvAccess a (rvSize f3) with
        | some c => .trap c
        | none => .go ((x.scratchWrite r a (leBytes (rvSize f3) (v.reg rs2).toNat)).setRunnel r { v with pc := nx })
    | .alu f3 rd alt rs1 imm rs2 => at_ nx (v.setReg rd (rvAlu f3 alt (v.reg rs1) (imm.getD (v.reg rs2))))
    | .muldiv f3 rd a b => at_ nx (v.setReg rd (rvMulDiv f3 (v.reg a) (v.reg b)))
    | .fence => at_ nx v
    | .ecall => .trap 1
    | .ebreak => .trap 2
    | .custom w => .custom w
    | .illegal => .trap 0

/-- A trap (R178): logged, and the slot ends with SECURITY_DENIED. -/
def State.trap (s : State) (p r cause : Nat) : State :=
  (s.logFirst TRAP_LOG_VALID p [(TRAP_LOG_LRUNNEL, r), (TRAP_LOG_PC, ((s.plot p).runnel r).pc), (TRAP_LOG_CAUSE, cause)]).failPlot
    p stDenied

/-- Base code up to the next custom instruction, at most n instructions of it; the custom word at which the runnel then stands. Each
instruction is an access to the scratch that holds it and to the register file. -/
def State.runBase (s : State) (p r : Nat) : Nat → State × Option Nat
  | 0 => (s, none)
  | n + 1 =>
      let i := (s.plot p).physRunnel r
      let s := (s.touch p 2 i).touch p 3 i
      if !(s.plot p).running then (s, none)
      else match (s.plot p).rvStep r with
      | .go x => (s.setPlot p x).runBase p r n
      | .trap c => (s.trap p r c, none)
      | .custom w => (s, some w)

/-- A runnel may execute: its plot runs, it has not stopped, and it does not wait for the SFU cluster. -/
def Plot.runnelLive (x : Plot) (r : Nat) : Bool := x.running && !(x.runnel r).done && !(x.sfuQ.any fun q => q.runnel = r)

/-- Base instructions that one command runs at most (log entry 20). -/
def baseFuel : Nat := 65536

/-- A row of the Brynler extension: base code runs up to the runnel's next custom instruction, and when that is the one named the
row has its effect. -/
def State.runnelRow (s : State) (p : PPlot) (r : BitVec 7) (want : Nat → Bool) (f : State → Nat → Nat → State) : Answer :=
  s.issue fun s =>
    if (s.plot p.toNat).runnelLive r.toNat then
      let (s1, w) := s.runBase p.toNat r.toNat baseFuel
      match w with
      | some w => if want w then f s1 p.toNat r.toNat else s1
      | none => s1
    else s

/-- The runnel past its custom instruction. -/
def State.past (s : State) (p r : Nat) (v : Runnel) : State := s.setPlot p ((s.plot p).setRunnel r { v with pc := v.pc + 4 })

/-- A word of the R form. -/
def rForm (opc f3 f7 rd rs1 rs2 : Nat) : Nat := opc + rd * 2 ^ 7 + f3 * 2 ^ 12 + rs1 * 2 ^ 15 + rs2 * 2 ^ 20 + f7 * 2 ^ 25

/-! ### The extension (R175, R176, R179) -/

/-- PC.TSIG. A descriptor outside the ranges of R175 sends the token that its fields spell; counter 0 counts nothing (log entry 107). -/
def execPcTsig (p : PPlot) (r : BitVec 7) (rs1 : BitVec 5) (s : State) : Answer :=
  s.runnelRow p r (· = rForm 0x0B 0 0 0 rs1.toNat 0) fun s p r =>
    let x := s.plot p
    let v := x.runnel r
    if x.moves.any fun m => m.runnel = r then s
    else
      let t := (v.reg rs1.toNat).toNat
      (s.past p r v).sendToken p (if wflag t 16 then s.physOf (wbits t 6 10) else p) (wbits t 0 6) (wbits t 24 8)

/-- PC.TWAIT. -/
def execPcTwait (p : PPlot) (r : BitVec 7) (rd rs1 rs2 : BitVec 5) (s : State) : Answer :=
  s.runnelRow p r (· = rForm 0x0B 1 0 rd.toNat rs1.toNat rs2.toNat) fun s p r =>
    let x := s.plot p
    let v := x.runnel r
    let c := x.counter ((v.reg rs1.toNat).toNat % 64)
    if reached c (v.reg rs2.toNat) then s.past p r (v.setReg rd.toNat c) else s

/-- Bits of a list, lowest first. -/
def bitsNat : List Bool → Nat
  | [] => 0
  | b :: bs => (if b then 1 else 0) + 2 * bitsNat bs

/-- State value of a tile in R131: FREE 0, LIVE 1, PENDING 2, HELD 3. -/
def Tile.code (t : Tile) : Nat :=
  if t.st = .free then 0 else if t.st = .pending then 2 else if 0 < t.held then 3 else 1

/-- A plot-control entry as a runnel reads it (R179); none: not listed. -/
def Plot.control (x : Plot) (r i : Nat) : Option Word :=
  if i = 0 then some (BitVec.ofNat 32 x.lplot)
  else if i = 1 then some (x.entry 1)
  else if i = 2 then some (if x.ctx.isEmpty then 0 else BitVec.ofNat 32 r)
  else if i ≤ 0x00D then some (x.entry i)
  else if 0x010 ≤ i ∧ i ≤ 0x01F then some (x.param_ (i - 0x010))
  else if 0x040 ≤ i ∧ i ≤ 0x07F then some (x.counter (i - 0x040))
  else if i = 0x080 then some (BitVec.ofNat 32 (((List.range 16).map fun t => (x.tile t).code * 4 ^ t).foldl (· + ·) 0))
  else if i = 0x081 then
    some (BitVec.ofNat 32 (bitsNat ((List.range 8).map fun n => (x.stage false n).full)
      + 256 * bitsNat ((List.range 16).map fun n => (x.stage true n).full)))
  else if i = 0x082 then some (BitVec.ofNat 32 (x.stateMap.toNat + (if x.fence then 65536 else 0)))
  else if i = 0x083 then some (BitVec.ofNat 32 x.satCount)
  else none

/-- PC.RDS. -/
def execPcRds (p : PPlot) (r : BitVec 7) (rd rs1 : BitVec 5) (imm : BitVec 12) (s : State) : Answer :=
  s.runnelRow p r (· = 0x0B + rd.toNat * 2 ^ 7 + 2 * 2 ^ 12 + rs1.toNat * 2 ^ 15 + imm.toNat * 2 ^ 20) fun s p r =>
    let x := s.plot p
    let v := x.runnel r
    match x.control r (v.reg rs1.toNat + imm.signExtend 32).toNat with
    | some w => s.past p r (v.setReg rd.toNat w)
    | none => s.trap p r 5

/-- PC.WRS. -/
def execPcWrs (p : PPlot) (r : BitVec 7) (rs1 rs2 : BitVec 5) (imm : BitVec 12) (s : State) : Answer :=
  s.runnelRow p r (· = 0x0B + imm.toNat % 32 * 2 ^ 7 + 3 * 2 ^ 12 + rs1.toNat * 2 ^ 15 + rs2.toNat * 2 ^ 20
      + imm.toNat / 32 * 2 ^ 25) fun s p r =>
    let x := s.plot p
    let v := x.runnel r
    let i := (v.reg rs1.toNat + imm.signExtend 32).toNat
    if 0x010 ≤ i ∧ i ≤ 0x01F then
      (s.setPlot p { x with param := sput (0 : Word) x.param (i - 0x010) (v.reg rs2.toNat) }).past p r v
    else s.trap p r 5

/-- A move descriptor (R176); none: malformed, as is a tile move that passes element 4095 (log entry 107). -/
def parseMove (r : Nat) (bs : List Byte) : Option Move :=
  let lo := leNat (bs.take 8)
  let off := leNat ((bs.drop 8).take 2)
  let len := leNat ((bs.drop 10).take 2)
  let kind := wbits lo 48 2
  if 2 ≤ kind ∨ lo / 2 ^ 51 ≠ 0 ∨ leNat (bs.drop 12) ≠ 0 ∨ len < 4 ∨ 4096 < len ∨ len % 4 ≠ 0 ∨ 4096 < off + len then none
  else if kind = 1 ∧ 4096 < wbits lo 4 12 + len / 4 then none
  else some { runnel := r, tile := kind = 1, toRemote := wflag lo 50, addr := lo % 2 ^ 48, off := off, len := len }

/-- PC.MOVE: at most 4 moves of the runnel are outstanding, and their ordinals are its own (log entry 107). A move on a FREE tile fails
R176, and the runnel traps. -/
def execPcMove (p : PPlot) (r : BitVec 7) (rd rs1 : BitVec 5) (s : State) : Answer :=
  s.runnelRow p r (· = rForm 0x0B 4 0 rd.toNat rs1.toNat 0) fun s p r =>
    let x := s.plot p
    let v := x.runnel r
    let a := (v.reg rs1.toNat).toNat
    if 4 ≤ (x.moves.filter fun m => m.runnel = r).length then s
    else if a % 16 ≠ 0 then s.trap p r 7
    else if 4096 < a + 16 then s.trap p r 4
    else match parseMove r (x.scratchBytes r a 16) with
      | none => s.trap p r 7
      | some m =>
        let t := m.addr % 16
        if m.tile then
          if (x.fence ∧ x.isState t) ∨ (x.tile t).st = .pending ∨ 0 < (x.tile t).held then s
          else if (x.tile t).st = .free then s.trap p r 7
          else
            let y := { (x.setTile t { x.tile t with held := (x.tile t).held + 1 }) with moves := x.moves ++ [m] }
            (s.setPlot p y).past p r { (v.setReg rd.toNat (BitVec.ofNat 32 v.moves)) with moves := v.moves + 1 }
        else if s.masAccess x m.toRemote m.addr m.len = .fail stDenied then s.trap p r 6
        else
          (s.setPlot p { x with moves := x.moves ++ [m] }).past p r
            { (v.setReg rd.toNat (BitVec.ofNat 32 v.moves)) with moves := v.moves + 1 }

/-- Words of a tile replaced from an element on. -/
def setElems (data : List Word) (i : Nat) (ws : List Word) : List Word :=
  let full := data ++ List.replicate (4096 - data.length) (0 : Word)
  full.take i ++ ws ++ full.drop (i + ws.length)

/-- Little-endian words of bytes. -/
def wordsOf (bs : List Byte) (n : Nat) : List Word := (List.range n).map fun i => BitVec.ofNat 32 (leNat ((bs.drop (4 * i)).take 4))

/-- A move's data moved. -/
def State.doMove (s : State) (p : Nat) (m : Move) : State :=
  let x := s.plot p
  if m.tile then
    let t := m.addr % 16
    let i := m.addr / 16 % 4096
    if m.toRemote then
      s.setPlot p (x.setTile t { x.tile t with data := setElems (x.tile t).data i (wordsOf (x.scratchBytes m.runnel m.off m.len) (m.len / 4)) })
    else
      s.setPlot p (x.scratchWrite m.runnel m.off
        (((List.range (m.len / 4)).map fun k => leBytes 4 ((x.tile t).data.getD (i + k) 0).toNat).flatten))
  else if m.toRemote then s.masWrite (some x.part) m.addr (x.scratchBytes m.runnel m.off m.len)
  else s.setPlot p (x.scratchWrite m.runnel m.off (s.masBytes m.addr m.len))

/-- The read of a move: whether it delivers. A column's read may meet a seep of its reach (R410); `ecc` is what any other store of the
read met. -/
def State.moveRead (s : State) (p : Nat) (m : Move) (ecc : EccOutcome) : State × Bool :=
  if ecc = .uncorrectable then (s, false)
  else
    let s1 := if ecc = .corrected then
        (if m.tile ∨ m.toRemote then s.bump ctrPlotCorrected p
         else if s.masRow m.addr = 0 then s.bump ctrEccCorrected (chanOf m.addr) else s)
      else s
    if !m.tile && !m.toRemote && s.masRow m.addr = 1 then
      let r := s1.resvRead (reachOf (s.plot p).lplot) (s.physOf ((m.addr - 0x10000000000) / 0x1000000)) (m.addr % 0x1000000) m.len
      (r.2, r.1)
    else (s1, true)

/-- MOVE_COMPLETE (R176): the runnel's oldest move. -/
def execMoveComplete (p : PPlot) (r : BitVec 7) (ecc : EccOutcome) (s : State) : Answer :=
  s.issue fun s =>
    let n := p.toNat
    let x := s.plot n
    match x.moves.find? fun m => m.runnel = r.toNat with
    | none => s
    | some m =>
      let t := m.addr % 16
      match if m.tile then SrcAccess.ok else s.masAccess x m.toRemote m.addr m.len with
      | .wait => if s.masRow m.addr = 2 then s.wcScrub m.addr m.len (m.len / 65536 + 2) else s
      | .fail st => s.failPlot n st
      | .ok =>
        if !m.tile && (s.changingAt (s.masStation m.addr)) then s
        else
          let s1 := s.touches_ n ((2, x.physRunnel m.runnel) :: (if m.tile then [(0, t)] else []))
          match if m.tile then (s1, true) else s1.cross (.plot n) (s1.masStation m.addr) with
          | (s2, false) => s2
          | (s2, true) =>
            if !(s2.plot n).running then s2
            else match s2.moveRead n m ecc with
            | (s3, false) => s3.failPlot n stMemUncorrectable
            | (s3, true) =>
              let s4 := s3.doMove n m
              let y := s4.plot n
              let y1 := if m.tile then y.setTile t { y.tile t with held := (y.tile t).held - 1 } else y
              s4.setPlot n { y1 with moves := y1.moves.erase m }

/-- PC.MWAIT. -/
def execPcMwait (p : PPlot) (r : BitVec 7) (s : State) : Answer :=
  s.runnelRow p r (· = rForm 0x0B 5 0 0 0 0) fun s p r =>
    if (s.plot p).moves.any fun m => m.runnel = r then s else s.past p r ((s.plot p).runnel r)

/-- PC.END. -/
def execPcEnd (p : PPlot) (r : BitVec 7) (s : State) : Answer :=
  s.runnelRow p r (· = rForm 0x0B 6 0 0 0 0) fun s p r => s.past p r { (s.plot p).runnel r with done := true }

/-! ### Arithmetic (R177) -/

/-- A row of custom-1 with two sources and a result. -/
def State.arithRow (s : State) (p : PPlot) (r : BitVec 7) (f3 f7 : Nat) (rd rs1 rs2 : BitVec 5) (f : Word → Word → Word → Word) :
    Answer :=
  s.runnelRow p r (· = rForm 0x2B f3 f7 rd.toNat rs1.toNat rs2.toNat) fun s p r =>
    let v := (s.plot p).runnel r
    s.past p r (v.setReg rd.toNat (f (v.reg rs1.toNat) (v.reg rs2.toNat) (v.reg rd.toNat)))

/-- A row of custom-1 with one source; the rs2 field is not read. -/
def State.unaryRow (s : State) (p : PPlot) (r : BitVec 7) (f7 : Nat) (rd rs1 : BitVec 5) (f : Word → Word) : Answer :=
  s.runnelRow p r (fun w => rForm 0x2B 0 f7 rd.toNat rs1.toNat (wbits w 20 5) = w) fun s p r =>
    let v := (s.plot p).runnel r
    s.past p r (v.setReg rd.toNat (f (v.reg rs1.toNat)))

def execFadd (p : PPlot) (r : BitVec 7) (rd rs1 rs2 : BitVec 5) (s : State) : Answer :=
  s.arithRow p r 0 0 rd rs1 rs2 fun a b _ => fadd a b
def execFsub (p : PPlot) (r : BitVec 7) (rd rs1 rs2 : BitVec 5) (s : State) : Answer :=
  s.arithRow p r 0 1 rd rs1 rs2 fun a b _ => fsub a b
def execFmul (p : PPlot) (r : BitVec 7) (rd rs1 rs2 : BitVec 5) (s : State) : Answer :=
  s.arithRow p r 0 2 rd rs1 rs2 fun a b _ => fmul a b
def execFdiv (p : PPlot) (r : BitVec 7) (rd rs1 rs2 : BitVec 5) (s : State) : Answer :=
  s.arithRow p r 0 3 rd rs1 rs2 fun a b _ => fdiv a b
def execFmin (p : PPlot) (r : BitVec 7) (rd rs1 rs2 : BitVec 5) (s : State) : Answer :=
  s.arithRow p r 0 4 rd rs1 rs2 fun a b _ => fmin a b
def execFmax (p : PPlot) (r : BitVec 7) (rd rs1 rs2 : BitVec 5) (s : State) : Answer :=
  s.arithRow p r 0 5 rd rs1 rs2 fun a b _ => fmax a b
def execFlt (p : PPlot) (r : BitVec 7) (rd rs1 rs2 : BitVec 5) (s : State) : Answer :=
  s.arithRow p r 0 6 rd rs1 rs2 fun a b _ => if (dec32 a).lt (dec32 b) then 1 else 0
def execFeq (p : PPlot) (r : BitVec 7) (rd rs1 rs2 : BitVec 5) (s : State) : Answer :=
  s.arithRow p r 0 7 rd rs1 rs2 fun a b _ => if (dec32 a).eqv (dec32 b) then 1 else 0
def execRunnelFma (p : PPlot) (r : BitVec 7) (rd rs1 rs2 : BitVec 5) (s : State) : Answer :=
  s.arithRow p r 1 0 rd rs1 rs2 ffma

/-- FCVT.W.S: to nearest even, saturating; NaN gives 0. -/
def toInt32 (a : Word) : Word :=
  match dec32 a with
  | .nan => 0
  | .inf s => if s then 0x80000000 else 0x7FFFFFFF
  | .fin s m e =>
      let v := roundInt m e
      if s then word (-(min v (2 ^ 31) : Nat)) else BitVec.ofNat 32 (min v (2 ^ 31 - 1))

def execFcvtSW (p : PPlot) (r : BitVec 7) (rd rs1 : BitVec 5) (s : State) : Answer :=
  s.unaryRow p r 8 rd rs1 fun a => ofInt32 a.toInt
def execFcvtWS (p : PPlot) (r : BitVec 7) (rd rs1 : BitVec 5) (s : State) : Answer := s.unaryRow p r 9 rd rs1 toInt32
def execFbf16 (p : PPlot) (r : BitVec 7) (rd rs1 : BitVec 5) (s : State) : Answer :=
  s.unaryRow p r 10 rd rs1 fun a => BitVec.ofNat 32 (bf16 a)

/-- SFU: the runnel stalls until its grant ends (R248); a call to an invalid micro-program slot ends the slot (R257). -/
def execSfu (p : PPlot) (r : BitVec 7) (code : BitVec 7) (rd rs1 : BitVec 5) (s : State) : Answer :=
  s.runnelRow p r (fun w => rForm 0x2B 2 code.toNat rd.toNat rs1.toNat (wbits w 20 5) = w) fun s p r =>
    if s.sfuInvalid p code.toNat then (s.sfuLog p 0 code.toNat 1 3 0 r false).failPlot p stDenied
    else
      let x := s.plot p
      s.setPlot p { x with sfuQ := x.sfuQ ++ [⟨r, BitVec.ofNat 4 code.toNat, rd, (x.runnel r).reg rs1.toNat⟩] }

/-! ### Grants (R248) -/

/-- Requests of a group: at most n, in ascending runnel order from the runnel after the last one served. -/
def sfuGroup (q : List SfuReq) (last n : Nat) : List SfuReq :=
  let order := (List.range 80).map fun k => (last + 1 + k) % 80
  (order.filterMap fun r => q.find? fun x => x.runnel = r).take n

/-- A runnel has its result and goes on. -/
def State.sfuGive (s : State) (p r : Nat) (rd : BitVec 5) (v : Word) : State :=
  let x := s.plot p
  (s.setPlot p { x with sfuQ := x.sfuQ.filter fun y => y.runnel ≠ r }).past p r ((x.runnel r).setReg rd.toNat v)

/-- Requests of a runnel group, each with its lane: a hardware function has its result as the grant ends, a micro-program begins on the
lane (R256). -/
def State.serveGroup (s : State) (p : Nat) : List (SfuReq × Nat) → State
  | [] => s
  | (q, lane) :: qs =>
      let s1 := s.setPlot p { s.plot p with sfuLast := q.runnel }
      (if 10 ≤ q.code.toNat then
        s1.setPlot p ((s1.plot p).beginMicro lane (q.code.toNat - 10) q.arg (.runnel q.runnel q.rd))
      else (s1.sfuDone p [q.code.toNat]).sfuGive p q.runnel q.rd (s1.sfuEval p q.code.toNat q.arg)).serveGroup p qs

/-- A runnel-group grant: it lasts for the largest cost among its requests; a failing check ends the slot (R259). -/
def State.runnelGrant (s : State) (p : Nat) : State :=
  let x := s.plot p
  let g := sfuGroup x.sfuQ x.sfuLast (s.sfuLanes p)
  let costs := g.map fun q => s.sfuCost p q.code.toNat
  let asks := g.map fun q => ({ code := q.code.toNat, arg := q.arg, runnel := q.runnel } : SfuAsk)
  let s1 := (s.bump ctrGrantsRunnel p).bump ctrSfuSteps p (costs.foldl max 0)
  let s2 := s1.setPlot p { s1.plot p with sfuTurn := false }
  match s2.sfuCheck p asks false fun j => costs.getD j 0 with
  | (s3, some st) => s3.failPlot p st
  | (s3, none) => s3.serveGroup p (g.zip (s3.sfuLaneList p))

/-- SFU_GRANT: when both requesters wait, grants alternate; a grant whose micro-programs still run holds the cluster. -/
def execSfuGrant (p : PPlot) (s : State) : Answer :=
  s.issue fun s =>
    let n := p.toNat
    let x := s.plot n
    if x.microBusy then s
    else match x.fuRun with
    | some f => if x.sfuQ.isEmpty || !x.sfuTurn then s.furrowGrant n f else s.runnelGrant n
    | none => if x.sfuQ.isEmpty then s else s.runnelGrant n

/-! ### Micro-programs (R256) -/

/-- The micro-op word at which a lane's program stands (R255, R256). -/
def State.microWordAt (s : State) (p : Nat) (l : MicroLane) : Nat :=
  let img := s.sfuTable p 10
  (Config.microWord img (microEntry img l.slot % 512 + l.word)).toNat

/-- A three-bit field of a micro-op word (R255). -/
def microField (w lo : Nat) : BitVec 3 := BitVec.ofNat 3 (w / 2 ^ lo)

/-- The word spells an OP and its registers D and A; and B; and C. -/
def spellsDA (w op : Nat) (d a : BitVec 3) : Bool := w / 2 ^ 27 = op && microField w 24 = d && microField w 21 = a
def spellsDAB (w op : Nat) (d a b : BitVec 3) : Bool := spellsDA w op d a && microField w 18 = b
def spellsDABC (w op : Nat) (d a b c : BitVec 3) : Bool := spellsDAB w op d a b && microField w 15 = c

/-- A micro-operation of a lane: it runs where the lane's program stands at a word that spells it. -/
def State.microRow (s : State) (p : PPlot) (lane : BitVec 4) (spells : Nat → Bool) : Answer :=
  s.issue fun s =>
    let n := p.toNat
    let x := s.plot n
    let l := sget ({} : MicroLane) x.micro lane.toNat
    let w := s.microWordAt n l
    if l.user.isNone || !spells w then s
    else
      let r := microOp (s.microEnv n) l.regs (w / 2 ^ 27) (microField w 24) (microField w 21) (microField w 18) (microField w 15)
        (BitVec.ofNat 15 w)
      let s1 := s.setPlot n { x with micro := sput ({} : MicroLane) x.micro lane.toNat { l with regs := r, word := l.word + 1 } }
      if w / 2 ^ 27 = 0x0E ∧ s.sfuPath n (w % 16) = 2 then s1.bump ctrFallbackEvals n else s1

def execMpFadd (p : PPlot) (lane : BitVec 4) (d a b : BitVec 3) (s : State) : Answer := s.microRow p lane fun w => spellsDAB w 0x00 d a b
def execMpFsub (p : PPlot) (lane : BitVec 4) (d a b : BitVec 3) (s : State) : Answer := s.microRow p lane fun w => spellsDAB w 0x01 d a b
def execMpFmul (p : PPlot) (lane : BitVec 4) (d a b : BitVec 3) (s : State) : Answer := s.microRow p lane fun w => spellsDAB w 0x02 d a b
def execMpFma (p : PPlot) (lane : BitVec 4) (d a b c : BitVec 3) (s : State) : Answer := s.microRow p lane fun w => spellsDABC w 0x03 d a b c
def execMpFmin (p : PPlot) (lane : BitVec 4) (d a b : BitVec 3) (s : State) : Answer := s.microRow p lane fun w => spellsDAB w 0x04 d a b
def execMpFmax (p : PPlot) (lane : BitVec 4) (d a b : BitVec 3) (s : State) : Answer := s.microRow p lane fun w => spellsDAB w 0x05 d a b
def execMpFabs (p : PPlot) (lane : BitVec 4) (d a : BitVec 3) (s : State) : Answer := s.microRow p lane fun w => spellsDA w 0x06 d a
def execMpCpsgn (p : PPlot) (lane : BitVec 4) (d a b : BitVec 3) (s : State) : Answer := s.microRow p lane fun w => spellsDAB w 0x07 d a b
def execMpConst (p : PPlot) (lane : BitVec 4) (d : BitVec 3) (imm : BitVec 15) (s : State) : Answer :=
  s.microRow p lane fun w => w / 2 ^ 27 = 0x08 && microField w 24 = d && w % 64 = imm.toNat % 64
def execMpLdexp (p : PPlot) (lane : BitVec 4) (d a : BitVec 3) (imm : BitVec 15) (s : State) : Answer :=
  s.microRow p lane fun w => spellsDA w 0x09 d a && w % 512 = imm.toNat % 512
def execMpGetexp (p : PPlot) (lane : BitVec 4) (d a : BitVec 3) (s : State) : Answer := s.microRow p lane fun w => spellsDA w 0x0A d a
def execMpGetmant (p : PPlot) (lane : BitVec 4) (d a : BitVec 3) (s : State) : Answer := s.microRow p lane fun w => spellsDA w 0x0B d a
def execMpFloor (p : PPlot) (lane : BitVec 4) (d a : BitVec 3) (s : State) : Answer := s.microRow p lane fun w => spellsDA w 0x0C d a
def execMpSellt (p : PPlot) (lane : BitVec 4) (d a b c : BitVec 3) (s : State) : Answer := s.microRow p lane fun w => spellsDABC w 0x0D d a b c
def execMpHw (p : PPlot) (lane : BitVec 4) (d a : BitVec 3) (imm : BitVec 15) (s : State) : Answer :=
  s.microRow p lane fun w => spellsDA w 0x0E d a && w % 16 = imm.toNat % 16

/-- A row's next request begins on a lane that has become free; with none left the lane is idle. -/
def State.nextRequest (s : State) (p lane : Nat) (f : FuRun) : State :=
  let x := s.plot p
  let asks := rowAsk f.op.toNat f.fop.toNat (s.rowIn p f.op.toNat f.fop.toNat f.w f.tile f.reset f.row)
  match asks[x.mpNext]? with
  | some v =>
      s.setPlot p { (x.beginMicro lane (f.fop.toNat - 0x3A) v (.row x.mpNext)) with mpNext := x.mpNext + 1 }
  | none => s.setPlot p { x with micro := sput ({} : MicroLane) x.micro lane {} }

/-- END: the result is r0, and goes to the request that the lane served; once every request of a row has its result the row commits. -/
def execMpEnd (p : PPlot) (lane : BitVec 4) (s : State) : Answer :=
  s.issue fun s =>
    let n := p.toNat
    let x := s.plot n
    let l := sget ({} : MicroLane) x.micro lane.toNat
    let v := microReg l.regs 0
    if s.microWordAt n l / 2 ^ 27 ≠ 0x1F then s
    else
      let s1 := s.bump ctrEvals n
      let y := s1.plot n
      match l.user with
      | none => s
      | some (.runnel r rd) =>
          (s1.setPlot n { y with micro := sput ({} : MicroLane) y.micro lane.toNat {} }).sfuGive n r rd v
      | some (.row k) =>
          match y.fuRun with
          | none => s
          | some f =>
              let s2 := (s1.setPlot n { y with mpOut := sput (0 : Word) y.mpOut k v }).nextRequest n lane.toNat f
              let z := s2.plot n
              if z.microBusy then s2
              else s2.grantedRow n f { dst := some ((List.range z.mpNext).map fun i => sget (0 : Word) z.mpOut i) }

end Sys2Proof.Machine
end

