-- ==== Sys2Proof/Machine/Headworks.lean ====
section
/-! DEFINITION. Headworks engines (R324 to R347): programs and their checks, jobs, and the operations of a chain. A job works down
its picture in stripes (R336): each command runs one operation of the chain over the stripe at which the job stands. -/

namespace Sys2Proof.Machine

/-! ### Programs (R327 to R330) -/

/-- A field of a program: w bits from bit lo of byte b on. -/
def pfld (bs : List Byte) (b lo w : Nat) : Nat := leNat ((bs.drop b).take ((lo + w + 7) / 8)) / 2 ^ lo % 2 ^ w

/-- The 288 bytes that hold a program of eight operations. -/
def State.hwProg (s : State) (a : Nat) : List Byte := s.cisBytes a 288

def hwOps (bs : List Byte) : Nat := pfld bs 5 0 4
/-- Record of operation k. -/
def hwRec (bs : List Byte) (k : Nat) : List Byte := (bs.drop (32 + 32 * k)).take 32
def recOp (r : List Byte) : Nat := pfld r 0 0 3

/-- Bits of a record that carry a field, by OP (R328 to R330). -/
def recMask (op : Nat) : Nat :=
  match op with
  | 0 => fieldMask [(0, 0, 3), (1, 0, 1), (4, 0, 48), (12, 0, 96)]
  | 1 => fieldMask [(0, 0, 3), (1, 0, 4), (2, 0, 6), (3, 0, 8), (4, 0, 8), (5, 0, 8), (6, 0, 6), (7, 0, 6), (8, 0, 6), (9, 0, 6),
                    (10, 0, 2), (12, 0, 32), (16, 0, 32)]
  | 2 => fieldMask [(0, 0, 3), (1, 0, 3), (2, 0, 4), (4, 0, 5), (5, 0, 4), (8, 0, 32)]
  | 3 => fieldMask [(0, 0, 3), (1, 0, 3), (8, 0, 32)]
  | _ => fieldMask [(0, 0, 3), (1, 0, 1), (4, 0, 48), (12, 0, 96)]

/-- CHROMA REPLICATE (R330): bit 0 of byte 1, in UNPATCHIFY also the low bit of PLOG (log entry 21). -/
def recReplicate (r : List Byte) : Bool := pfld r 1 0 1 = 1

/-- Fields of a CONV record. -/
structure ConvRec where
  cin : Nat
  cout : Nat
  kh : Nat
  kw : Nat
  sh : Nat
  sw : Nat
  dh : Nat
  dw : Nat
  pt : Nat
  pb : Nat
  pl : Nat
  pr : Nat
  relu : Bool
  int8 : Bool
  padv : Word
  woff : Nat
  deriving DecidableEq, Repr

def convRec (r : List Byte) : ConvRec :=
  { cin := pfld r 1 0 4 + 1, cout := pfld r 2 0 6 + 1, kh := pfld r 3 0 4 + 1, kw := pfld r 3 4 4 + 1, sh := pfld r 4 0 4 + 1,
    sw := pfld r 4 4 4 + 1, dh := pfld r 5 0 4 + 1, dw := pfld r 5 4 4 + 1, pt := pfld r 6 0 6, pb := pfld r 7 0 6,
    pl := pfld r 8 0 6, pr := pfld r 9 0 6, relu := pfld r 10 0 1 = 1, int8 := pfld r 10 1 1 = 1,
    padv := BitVec.ofNat 32 (pfld r 12 0 32), woff := pfld r 16 0 32 }

/-- Output extent of a filter (R332). -/
def convExtent (n p1 p2 k dil stride : Nat) : Nat :=
  let k' := (k - 1) * dil + 1
  if n + p1 + p2 < k' then 0 else (n + p1 + p2 - k') / stride + 1

/-- The planes between two operations of a chain: channels, width, height, and whether chroma keeps half size. -/
structure HwShape where
  c : Nat
  w : Nat
  h : Nat
  native : Bool
  deriving DecidableEq, Repr

def patchOf (r : List Byte) : Nat := 2 ^ pfld r 1 0 3

/-- Shape that an operation emits; for an output program the token matrix is that of the picture it forms. -/
def hwShape (bs : List Byte) (x : HwShape) (r : List Byte) : HwShape :=
  let f := pfld bs 4 0 2
  match recOp r with
  | 0 => { c := if pixChroma f then 3 else 1, w := pfld bs 0 0 16 + 1, h := pfld bs 2 0 16 + 1, native := pixChroma f && !recReplicate r }
  | 1 =>
      let q := convRec r
      { c := q.cout, w := convExtent x.w q.pl q.pr q.kw q.dw q.sw, h := convExtent x.h q.pt q.pb q.kh q.dh q.sh, native := false }
  | 3 => { c := if pixChroma f then 3 else 1, w := (pfld bs 0 0 16 + 1) / patchOf r * patchOf r,
           h := (pfld bs 2 0 16 + 1) / patchOf r * patchOf r, native := pixChroma f }
  | 2 => { c := 0, w := x.w / patchOf r, h := x.h / patchOf r, native := false }
  | _ => x

/-- The records of a program. -/
def hwRecs (bs : List Byte) : List (List Byte) := (List.range (hwOps bs)).map (hwRec bs)

/-- Shapes at the input of each operation, and at the end. -/
def hwShapes (bs : List Byte) (x : HwShape) : List (List Byte) → List HwShape
  | [] => [x]
  | r :: rs => x :: hwShapes bs (hwShape bs x r) rs

def hwStart (bs : List Byte) : HwShape :=
  let r := hwRec bs 0
  { c := if pixChroma (pfld bs 4 0 2) then 3 else 1, w := pfld bs 0 0 16 + 1, h := pfld bs 2 0 16 + 1,
    native := pixChroma (pfld bs 4 0 2) && !(recOp r = 3 && recReplicate r) }

/-- Vertical stride and dilated filter height of an operation. -/
def recStride (r : List Byte) : Nat × Nat :=
  match recOp r with
  | 1 => let q := convRec r; (q.sh, (q.kh - 1) * q.dh + 1)
  | 2 => (patchOf r, patchOf r)
  | 3 => (patchOf r, patchOf r)
  | _ => (1, 1)

/-- Stripe heights and line-buffer bytes down a chain (R336, R337); none where a stride does not divide its stripe. -/
def hwBuffer (g : Nat) : List (List Byte × HwShape) → Option Nat
  | [] => some 0
  | (r, x) :: rs =>
      let (st, k) := recStride r
      if g % st ≠ 0 then none
      else match hwBuffer (g / st) rs with
        | none => none
        | some n => some (n + (if recOp r = 0 then 0 else ((k - st) + g) * (if x.native then 6 * x.w else 4 * x.w * x.c)))

/-- A field of a record outside its range. -/
def recBad (r : List Byte) : Bool :=
  leNat r &&& recMask (recOp r) ≠ leNat r || 5 ≤ recOp r
  || ((recOp r = 2 || recOp r = 3) && (pfld r 1 0 3 = 0 || pfld r 1 0 3 = 7 || pfld r 8 0 32 % 64 ≠ 0))
  || (recOp r = 2 && ((pfld r 2 0 4 ≠ 2 && pfld r 2 0 4 ≠ 5 && pfld r 2 0 4 ≠ 6) || 16 < pfld r 4 0 5))
  || (recOp r = 1 && (pfld r 3 0 4 = 15 || pfld r 3 4 4 = 15 || pfld r 4 0 4 = 15 || pfld r 4 4 4 = 15 || pfld r 5 0 4 = 15
        || pfld r 5 4 4 = 15))

/-- The chain's order (R328). -/
def chainOk (dir : Nat) (ops : List Nat) : Bool :=
  let mid := (ops.drop 1).dropLast
  decide (2 ≤ ops.length) && mid.all (fun o => o = 1)
  && (if dir = 0 then ops.headD 9 = 0 && ops.getLastD 9 = 2 else ops.headD 9 = 3 && ops.getLastD 9 = 4)

/-- A program that R331 refuses. -/
def progBad (bs : List Byte) : Bool :=
  let recs := hwRecs bs
  let shapes := hwShapes bs (hwStart bs) recs
  let pairs := recs.zip shapes
  let w := pfld bs 0 0 16 + 1
  let h := pfld bs 2 0 16 + 1
  let header := leNat (bs.take 32)
  header &&& fieldMask [(0, 0, 32), (4, 0, 2), (5, 0, 4), (6, 0, 1), (7, 0, 3), (8, 0, 48)] ≠ header
  || decide (8192 < w ∨ 4352 < h) || hwOps bs = 0 || decide (8 < hwOps bs) || decide (pfld bs 7 0 3 < 4)
  || recs.any recBad || !chainOk (pfld bs 6 0 1) (recs.map recOp)
  || pairs.any (fun x => recOp x.1 = 1 && (x.2.native || (convRec x.1).cin ≠ x.2.c
        || decide (1024 < (convRec x.1).cin * (convRec x.1).kh * (convRec x.1).kw)))
  || (match hwBuffer (2 ^ pfld bs 7 0 3) pairs with | none => true | some n => decide (4194304 < n))

/-- An operation of a program has an empty output (R332). -/
def progEmpty (bs : List Byte) : Bool :=
  ((hwShapes bs (hwStart bs) (hwRecs bs)).drop 1).any fun x => x.w = 0 || x.h = 0

/-! ### Stripes and rings (R333, R334, R336) -/

/-- The records of a program with the shape that each reads. -/
def hwPairs (bs : List Byte) : List (List Byte × HwShape) := (hwRecs bs).zip (hwShapes bs (hwStart bs) (hwRecs bs))

/-- Shape at the input of operation k; at the number of operations, that of the result. -/
def hwShapeAt (bs : List Byte) (k : Nat) : HwShape := (hwShapes bs (hwStart bs) (hwRecs bs)).getD k (hwStart bs)

/-- Whether the operations that follow read a row, or across a column, of the planes before them (R333, R334). -/
def hwReads (down : Bool) : List (List Byte × HwShape) → Nat → Bool
  | [], _ => true
  | (r, x) :: rest, y =>
      if recOp r = 1 then
        let q := convRec r
        let n := if down then convExtent x.h q.pt q.pb q.kh q.dh q.sh else convExtent x.w q.pl q.pr q.kw q.dw q.sw
        let k := if down then q.kh else q.kw
        (List.range n).any fun o => hwReads down rest o && (List.range k).any fun i =>
          if down then o * q.sh + i * q.dh = y + q.pt else o * q.sw + i * q.dw = y + q.pl
      else if recOp r = 2 then decide (y < (if down then x.h else x.w) / patchOf r * patchOf r)
      else true

/-- Height of the stripe at the first operation. -/
def hwStripe (bs : List Byte) : Nat := 2 ^ pfld bs 7 0 3

/-- Input rows that operation k has when a job stands at it. -/
def HwJob.avail (j : HwJob) (bs : List Byte) (k : Nat) : Nat :=
  if k = 0 then min (pfld bs 2 0 16 + 1) ((j.stripe + 1) * hwStripe bs) else sget 0 j.done (k - 1)

/-- Output rows that operation k has emitted once it has read that many rows: those whose every tap has its row or padding. -/
def hwUpto (bs : List Byte) (k a : Nat) : Nat :=
  let r := hwRec bs k
  let x := hwShapeAt bs k
  match recOp r with
  | 1 =>
      let q := convRec r
      let n := convExtent x.h q.pt q.pb q.kh q.dh q.sh
      let k' := (q.kh - 1) * q.dh + 1
      if x.h ≤ a then n else min n (if a + q.pt < k' then 0 else (a + q.pt - k') / q.sh + 1)
  | 2 => a / patchOf r
  | 3 => a / patchOf r * patchOf r
  | _ => a

/-- First input row that operation k still needs once it has emitted that many rows. -/
def hwKeep (bs : List Byte) (k done : Nat) : Nat :=
  let r := hwRec bs k
  match recOp r with
  | 1 => let q := convRec r; done * q.sh - q.pt
  | 2 => done * patchOf r
  | _ => done

/-- Rows of plane c up to a luma row of a picture of h rows. -/
def planeRows (native : Bool) (h c y : Nat) : Nat := if native ∧ c ≠ 0 then (if h ≤ y then (h + 1) / 2 else y / 2) else y

def Plane.at_ (p : Plane) (x y : Nat) : Word := p.data.getD (y * p.w + x) 0

/-- Value of channel c at a column and a row of the whole planes, from a ring. -/
def HwRing.at_ (g : HwRing) (native : Bool) (c x y : Nat) : Word :=
  (g.planes.getD c { w := 0, h := 0, data := [] }).at_ x (y - (if native ∧ c ≠ 0 then g.start / 2 else g.start))

/-- A ring after rows have been emitted into it. -/
def HwRing.push (g : HwRing) (out : List Plane) : HwRing :=
  if g.planes.isEmpty then { g with planes := out }
  else { g with planes := g.planes.zipWith (fun p q => { w := p.w, h := p.h + q.h, data := p.data ++ q.data }) out }

/-- A ring that keeps its rows from one on. -/
def HwRing.keepFrom (g : HwRing) (native : Bool) (y : Nat) : HwRing :=
  if y ≤ g.start then g
  else
    { start := y,
      planes := g.planes.zipIdx.map fun (p, c) =>
        let n := if native ∧ c ≠ 0 then y / 2 - g.start / 2 else y - g.start
        { w := p.w, h := p.h - n, data := p.data.drop (n * p.w) } }

/-- A job stands at its last stripe. -/
def HwJob.lastStripe (j : HwJob) (bs : List Byte) : Bool := decide (pfld bs 2 0 16 + 1 ≤ (j.stripe + 1) * hwStripe bs)

/-- A job past an operation that has emitted rows: its ring keeps the halo, the next one holds them, and after the chain's last operation
the next stripe begins. -/
def HwJob.past (j : HwJob) (bs : List Byte) (upto : Nat) (out : List Plane) : HwJob :=
  let k := j.opIdx
  let last := k + 1 = hwOps bs
  let rings := sput ({} : HwRing) j.rings k ((sget ({} : HwRing) j.rings k).keepFrom (hwShapeAt bs k).native (hwKeep bs k upto))
  { j with rings := if last then rings else sput ({} : HwRing) rings (k + 1) ((sget ({} : HwRing) rings (k + 1)).push out),
           done := sput 0 j.done k upto, opIdx := if last then 0 else k + 1, stripe := if last then j.stripe + 1 else j.stripe }

/-- Output rows that an operation emits now, and among them those that a later tap reads. -/
def HwJob.emits (j : HwJob) (bs : List Byte) : Nat × Nat := (sget 0 j.done j.opIdx, hwUpto bs j.opIdx (j.avail bs j.opIdx))
def HwJob.rowsOut (j : HwJob) (bs : List Byte) : List Nat :=
  ((List.range (j.emits bs).2).drop (j.emits bs).1).filter (hwReads true ((hwPairs bs).drop (j.opIdx + 1)))

/-! ### Operations (R330, R335, R339, R340) -/

/-- Bytes of the MAS that an engine reads, and whether they stand there: in READY units (R45), behind channels that serve (R429). -/
def State.engBytes (s : State) (a n : Nat) : List Byte := s.masBytes a n
def State.engReady (s : State) (a n : Nat) : Bool := if s.masRow a = 2 then s.wcReadyAll a n else s.bufOpen a n
def State.runsOpen (s : State) (runs : List (Nat × List Byte)) : Bool := runs.all fun x => s.bufOpen x.1 x.2.length

/-- An engine's reads, in order until one cannot be done (R416). -/
def State.engReadAll (s : State) (part : Option Nat) (reads : List (Nat × Nat)) : BitVec 12 × State :=
  s.bufReadAll part (reads.filter fun x => s.masRow x.1 ≠ 2)

/-- Partition of a job's stream, which its requests carry (R423); a HEADWORKS_RUN has no stream, and its requests are SYSTEM's
(log entry 111). -/
def State.jobPart (s : State) (j : HwJob) : Option Nat :=
  match j.what with
  | .input q n _ _ => (s.op? q n).map fun o => (s.stream o.streamNo).part.toNat
  | .output _ _ _ p => some p
  | .run _ _ => none

/-- Values of a row of samples of a plane. -/
def State.sampleRow (s : State) (f a w : Nat) : List Nat :=
  let b := pixBytes f
  let bs := s.engBytes a (w * b)
  (List.range w).map fun x => leNat ((bs.drop (b * x)).take b)

def recOfs (r : List Byte) (c : Nat) : Nat := pfld r (4 + 2 * c) 0 16
def recScl (r : List Byte) (c : Nat) : Word := BitVec.ofNat 32 (pfld r (12 + 4 * c) 0 32)

/-- UNPACK of one sample: rounded once. -/
def unpackSample (r : List Byte) (c v : Nat) : Word :=
  enc32 (((numOf v).add (numOf (recOfs r c)).neg).mul (dec32 (recScl r c)))

/-- Planes of a HEADWORKS_RUN picture: its decoded area is the whole picture. -/
def runPlanes (bs : List Byte) (a : Nat) : List (Nat × Nat × Nat × Nat) :=
  let w := pfld bs 0 0 16 + 1
  let h := pfld bs 2 0 16 + 1
  codedPlanes (pfld bs 4 0 2) a { codedW := w, codedH := h, x := 0, y := 0, w := w, h := h, blockLog := 6 } h

/-- Bursts of 64 bytes that UNPACK reads of rows y0 to y1 of the picture: those of the rows and columns that a tap reads (R201, R334). -/
def unpackReads (bs r : List Byte) (planes : List (Nat × Nat × Nat × Nat)) (y0 y1 : Nat) : List (Nat × Nat) :=
  let f := pfld bs 4 0 2
  let rest := (hwPairs bs).drop 1
  let h := pfld bs 2 0 16 + 1
  planes.zipIdx.flatMap fun (p, c) =>
    let k := if c = 0 then 1 else 2
    let cols := (List.range p.2.2.1).filter fun x => (List.range k).any fun i => hwReads false rest
      (if recReplicate r ∨ c = 0 then k * x + i else 2 * x)
    let rows := ((List.range (planeRows (pixChroma f) h c y1)).drop (planeRows (pixChroma f) h c y0)).filter fun y =>
      (List.range k).any fun i => hwReads true rest (k * y + i)
    rows.flatMap fun y => ((cols.map fun x => (p.1 + y * p.2.1 + x * pixBytes f) / 64).eraseDups).map fun b => (64 * b, 64)

/-- UNPACK of rows y0 to y1 of a picture. -/
def State.unpackRows (s : State) (bs r : List Byte) (planes : List (Nat × Nat × Nat × Nat)) (y0 y1 : Nat) : List Plane :=
  let f := pfld bs 4 0 2
  let w := pfld bs 0 0 16 + 1
  let h := pfld bs 2 0 16 + 1
  let row := fun (p : Nat × Nat × Nat × Nat) (c cw y : Nat) =>
    ((if y < p.2.2.2 then s.sampleRow f (p.1 + y * p.2.1) (min cw p.2.2.1) else List.replicate (min cw p.2.2.1) 0)
      ++ List.replicate (cw - p.2.2.1) 0).map (unpackSample r c)
  planes.zipIdx.map fun (p, c) =>
    if c = 0 then { w := w, h := y1 - y0, data := ((List.range y1).drop y0).flatMap (row p c w) }
    else if recReplicate r then
      { w := w, h := y1 - y0,
        data := ((List.range y1).drop y0).flatMap fun y =>
          let q := row p c ((w + 1) / 2) (y / 2)
          (List.range w).map fun x => q.getD (x / 2) 0 }
    else
      let a := planeRows true h c y0
      let b := planeRows true h c y1
      { w := (w + 1) / 2, h := b - a, data := ((List.range b).drop a).flatMap (row p c ((w + 1) / 2)) }

/-- Where a CONV's weights, shifts and biases lie from PARAM on, and their length (R329). -/
def ConvRec.taps (q : ConvRec) : Nat := q.cin * q.kh * q.kw
def ConvRec.biasOff (q : ConvRec) : Nat := if q.int8 then q.cout * q.taps + q.cout else 2 * q.cout * q.taps
def ConvRec.paramLen (q : ConvRec) : Nat := q.biasOff + 4 * q.cout

/-- A weight with its shift: BF16, or INT8 with one shift to an output channel (R329). -/
def State.hwWeight (s : State) (param : Nat) (q : ConvRec) (co i : Nat) : Num :=
  let n := q.taps
  if q.int8 then
    let w := leNat (s.engBytes (param + q.woff + (co * n + i)) 1)
    let sh := leNat (s.engBytes (param + q.woff + (q.cout * n + co)) 1)
    (elemDec 11 w).scale (signedOf 8 sh)
  else elemDec 2 (leNat (s.engBytes (param + q.woff + 2 * (co * n + i)) 2))

def State.hwBias (s : State) (param : Nat) (q : ConvRec) (co : Nat) : Word :=
  BitVec.ofNat 32 (leNat (s.engBytes (param + q.woff + q.biasOff + 4 * co) 4))

/-- One output element of a CONV: the exact sum of its taps and the bias, rounded once (R333, R335). -/
def convElem (q : ConvRec) (x : HwShape) (at_ : Nat → Nat → Nat → Word) (wts : List Num) (bias : Word) (ox oy : Nat) : Word :=
  let terms := (List.range q.cin).flatMap fun c => (List.range q.kh).flatMap fun i => (List.range q.kw).map fun j =>
    let yy := oy * q.sh + i * q.dh
    let xx := ox * q.sw + j * q.dw
    let v := if q.pt ≤ yy ∧ yy - q.pt < x.h ∧ q.pl ≤ xx ∧ xx - q.pl < x.w then at_ c (xx - q.pl) (yy - q.pt) else q.padv
    (dec32 v).mul (wts.getD ((c * q.kh + i) * q.kw + j) (numOf 0))
  let v := enc32 ((sumNum terms).add (dec32 bias))
  if q.relu then fmax v fzero else v

/-- CONV of output rows y0 to y1; a row that no later tap reads is not computed (R334). -/
def State.convRows (s : State) (param : Nat) (q : ConvRec) (x : HwShape) (at_ : Nat → Nat → Nat → Word) (need : Nat → Bool) (y0 y1 : Nat) :
    List Plane :=
  let w := convExtent x.w q.pl q.pr q.kw q.dw q.sw
  (List.range q.cout).map fun co =>
    let wts := (List.range q.taps).map (s.hwWeight param q co)
    let bias := s.hwBias param q co
    { w := w, h := y1 - y0,
      data := ((List.range y1).drop y0).flatMap fun y =>
        if need y then (List.range w).map fun c => convElem q x at_ wts bias c y else List.replicate w 0 }

/-- The fixed coefficient set of the position lanes (R340). -/
def positionTable : BitVec 384 := BitVec.allOnes 384

/-- Position column i of a token. -/
def positionCode (kmin tx ty i : Nat) : Word :=
  let k := kmin + i / 4
  sfuHw positionTable 0 (if i % 2 = 0 then 8 else 9) (fscale (ofNat32 (if i % 4 < 2 then tx else ty)) (-(k : Int)))

/-- Patch sizes of the planes, half under NATIVE chroma. -/
def patchSizes (x : HwShape) (p : Nat) : List Nat :=
  (List.range x.c).map fun c => if x.native ∧ c ≠ 0 then p / 2 else p

/-- Columns of a token: the patches of its planes, then the position columns. -/
def tokenCols (x : HwShape) (at_ : Nat → Nat → Nat → Word) (p nf kmin tx ty : Nat) : List Word :=
  ((patchSizes x p).zipIdx.flatMap fun (n, c) =>
    (List.range n).flatMap fun j => (List.range n).map fun i => at_ c (tx * n + i) (ty * n + j))
  ++ (List.range (4 * nf)).map (positionCode kmin tx ty)

/-- Geometry of a token matrix (R339): its tokens, and their columns. -/
structure TokenMat where
  tw : Nat
  th : Nat
  fmt : Nat
  cols : Nat
  deriving DecidableEq, Repr

def TokenMat.stride (m : TokenMat) : Nat := roundUp ((m.cols * fmtBits m.fmt + 7) / 8) 64
def TokenMat.sstride (m : TokenMat) : Nat := 64 * ((2 * ((m.cols + 63) / 64) + 63) / 64)
/-- Offset of a token's elements, and of its scale bytes. -/
def TokenMat.elems (m : TokenMat) (t : Nat) : Nat := t * m.stride
def TokenMat.scales (m : TokenMat) (t : Nat) : Nat := m.tw * m.th * m.stride + t * m.sstride
def TokenMat.bytes (m : TokenMat) : Nat := m.tw * m.th * (m.stride + if fmtMx m.fmt then m.sstride else 0)

def tokenMat (x : HwShape) (p fmt nf : Nat) : TokenMat :=
  { tw := x.w / p, th := x.h / p, fmt := fmt, cols := ((patchSizes x p).map fun n => n * n).foldl (· + ·) 0 + 4 * nf }

/-- A token's bytes: packed elements, and the scale bytes of its blocks under COMPUTED scales (R231). -/
def tokenBytes (f : Nat) (cols : List Word) : List Byte × List Byte :=
  let n := cols.length
  let tiles := (List.range ((n + 63) / 64)).map fun t =>
    let vc := min 64 (n - 64 * t)
    let r := convRow f false 0 vc (((cols.drop (64 * t)).take 64).map dec32) (fun _ => .nearest)
    ((packRow (fmtBits f) r.1).take ((vc * fmtBits f + 7) / 8), (r.2.1.take (scaleBytes f vc)).map (BitVec.ofNat 8))
  (tiles.flatMap (·.1), tiles.flatMap (·.2))

/-- Values of a token read back. -/
def tokenValues (m : TokenMat) (elems scales : List Byte) : List Word :=
  (List.range m.cols).map fun i =>
    let w := fmtBits m.fmt
    let code := unpackElem w ((elems.drop (i / 64 * 8 * w)).take (8 * w)) (i % 64)
    enc32 (if fmtMx m.fmt then scaledDec m.fmt code (scales.getD (i / 32) 0).toNat else elemDec m.fmt code)

/-- Runs of bytes that write token rows t0 to t1 of a matrix at an offset (R339, R204). -/
def matrixWrites (r : List Byte) (x : HwShape) (at_ : Nat → Nat → Nat → Word) (doff t0 t1 : Nat) : List (Nat × List Byte) :=
  let p := patchOf r
  let m := tokenMat x p (pfld r 2 0 4) (pfld r 4 0 5)
  ((List.range (t1 * m.tw)).drop (t0 * m.tw)).flatMap fun t =>
    let b := tokenBytes m.fmt (tokenCols x at_ p (pfld r 4 0 5) (pfld r 5 0 4) (t % m.tw) (t / m.tw))
    (doff + m.elems t, b.1) :: (if fmtMx m.fmt then [(doff + m.scales t, b.2)] else [])

/-- The exact mean of the four values that a chroma sample stands for, rounded once (R330); at an odd edge the last one stands twice. -/
def mean4 (w h : Nat) (at_ : Nat → Nat → Word) (x y : Nat) : Word :=
  let x1 := min (2 * x + 1) (w - 1)
  let y1 := min (2 * y + 1) (h - 1)
  enc32 ((sumNum ([at_ (2 * x) (2 * y), at_ x1 (2 * y), at_ (2 * x) y1, at_ x1 y1].map dec32)).scale (-2))

/-- UNPATCHIFY of token rows t0 to t1: planes from the tokens' values, their position columns ignored; chroma under REPLICATE is the mean
of the four samples that the matrix holds for it. -/
def unpatchRows (x : HwShape) (r : List Byte) (m : TokenMat) (tokens : Nat → List Word) (t0 t1 : Nat) : List Plane :=
  let p := patchOf r
  let sizes := patchSizes x p
  let rows := ((List.range (t1 * m.tw)).drop (t0 * m.tw)).map tokens
  let full := fun (c n xx yy : Nat) =>
    (rows.getD (yy / n * m.tw + xx / n) []).getD (((sizes.take c).map fun n => n * n).foldl (· + ·) 0 + yy % n * n + xx % n) 0
  sizes.zipIdx.map fun (n, c) =>
    let w := m.tw * n
    let h := (t1 - t0) * n
    if c ≠ 0 ∧ !x.native ∧ x.c = 3 then
      { w := w / 2, h := h / 2,
        data := (List.range (h / 2)).flatMap fun yy => (List.range (w / 2)).map fun xx => mean4 w h (full c n) xx yy }
    else { w := w, h := h, data := (List.range h).flatMap fun yy => (List.range w).map fun xx => full c n xx yy }

/-- PACK of one value (R330): rounded to nearest even and clamped; NaN packs as 0. -/
def packSample (r : List Byte) (depth c : Nat) (v : Num) : Nat :=
  match (v.mul (dec32 (recScl r c))).add (numOf (recOfs r c)) with
  | .nan => 0
  | .inf s => if s then 0 else 2 ^ depth - 1
  | .fin s m e => if s then 0 else min (roundInt m e) (2 ^ depth - 1)

/-- Rows of bytes of the packed picture that luma rows y0 to y1 give, with their addresses. -/
def packWrites (bs r : List Byte) (x : HwShape) (at_ : Nat → Nat → Nat → Word) (dst y0 y1 : Nat) : List (Nat × List Byte) :=
  let f := pfld bs 4 0 2
  (runPlanes bs dst).zipIdx.flatMap fun (p, c) =>
    let mean := c ≠ 0 ∧ recReplicate r
    ((List.range (planeRows (pixChroma f) x.h c y1)).drop (planeRows (pixChroma f) x.h c y0)).map fun y =>
      (p.1 + y * p.2.1,
       (List.range (min p.2.2.1 (if c = 0 then x.w else (x.w + 1) / 2))).flatMap fun xx =>
         leBytes (pixBytes f) (packSample r (pixDepth f) c (dec32 (if mean then mean4 x.w x.h (at_ c) xx y else at_ c xx y))))

/-! ### Jobs (R326) -/

def State.hwQueue (s : State) (e : Nat) : List HwJob := sget ([] : List HwJob) s.vid.hw e
def State.setHwQueue (s : State) (e : Nat) (l : List HwJob) : State :=
  ({ s with vid := { s.vid with hw := sput ([] : List HwJob) s.vid.hw e l } }).restage

/-- A job accepted by an engine. -/
def State.acceptJob (s : State) (e : Nat) (j : HwJob) : State := s.setHwQueue e (s.hwQueue e ++ [j])

/-- The operation that caused a job. -/
def HwFor.op (s : State) : HwFor → Option Op
  | .input q n _ _ => s.op? q n
  | .run q n => s.op? q n
  | .output k num _ _ => ((s.encSession k).jobs.find? fun j => j.num = num).bind fun j => s.op? j.ring j.seq

/-- A job's reads of a decoded picture end (R357, R360). -/
def State.unread (s : State) : HwFor → State
  | .input q n k num =>
      let x := s.decSession k
      let s1 := match x.pic? num with
        | some p => s.setDec k { x with bufs := modBuf x.bufs p.buf fun b => { b with reads := b.reads - 1 } }
        | none => s
      s1.unholdPic q n k num
  | _ => s

/-- A picture that its output job cannot give leaves its encode session, and its buffer's SRC mark goes. -/
def State.dropOutput (s : State) : HwFor → State
  | .output k num _ _ =>
      let x := s.encSession k
      match x.jobs.find? fun j => j.num = num with
      | none => s
      | some y =>
          s.setEnc k { x with jobs := x.jobs.filter fun j => j.num ≠ num, active := if x.active = some num then none else x.active,
                              bufs := modBuf x.bufs y.buf fun b => { b with src := false } }
  | _ => s

/-- The head job of an engine ends without its result. -/
def State.dropJob (s : State) (e : Nat) (j : HwJob) : State :=
  ((s.setHwQueue e ((s.hwQueue e).drop 1)).unread j.what).dropOutput j.what

/-- A job ends with a status, and the operation that caused it completes with it (R344, R416). -/
def State.endBad (s : State) (e : Nat) (j : HwJob) (st : BitVec 12) : State :=
  let o := j.what.op s
  let s1 := s.dropJob e j
  match o with
  | some o => if o.stage = .done then s1 else s1.failOp o st
  | none => s1

/-- A job ends under R344. -/
def State.failJob (s : State) (e : Nat) (j : HwJob) (st : BitVec 12) : State :=
  ((s.endBad e j st).bump ctrHwFailed e).headworksEvidence e

/-- INPUT tokens (R341): one on counter 1 to every plot of a footprint, tagged with its slot. -/
def State.inputTokens (s : State) (src : Station) (seq : Seq) : List Nat → State
  | [] => s
  | l :: ls => (s.engineToken src (s.physOf l) 1 1 seq).inputTokens src seq ls

/-- A chunk is a frame-1 slot's. -/
def Chunk.frameOne (c : Chunk) : Bool := (c.kind = .frame || c.kind = .observe) && c.ordinal = 0

/-- An operation's input matrix stands: its running frame-1 slot receives INPUT; later slots receive theirs as they load. -/
def State.inputDone (s : State) (src : Station) (q : RingNo) (n : Seq) : State :=
  match s.op? q n with
  | none => s
  | some o =>
    let s1 := s.setOp { o with inputReady := true }
    let p := (s1.stream o.streamNo).part.toNat
    let x := s1.part p
    match x.slot.chunk with
    | some c =>
        if c.ring = q ∧ c.seq = n ∧ c.frameOne ∧ (x.slot.phase = .loading ∨ x.slot.phase = .running) then
          s1.inputTokens src x.slot.seq (s1.partPlots p)
        else s1
    | none => s1

/-- The head job of an engine replaced. -/
def State.setHead (s : State) (e : Nat) (j : HwJob) : State := s.setHwQueue e (j :: (s.hwQueue e).drop 1)

/-- The head job of an engine has its result. -/
def State.endJob (s : State) (e : Nat) (j : HwJob) : State :=
  ((s.setHwQueue e ((s.hwQueue e).drop 1)).bump ctrHwJobs e).unread j.what

/-- Units that an operation's rows use (R324, R344): 0 MAC array, 1 rearranger, 2 line buffer, 3 position lanes, 4 converter. -/
def hwUnits (r : List Byte) : List Nat :=
  match recOp r with
  | 0 => [1]
  | 1 => [0, 2]
  | 2 => [1, 2] ++ (if pfld r 4 0 5 = 0 then [] else [3]) ++ [4]
  | _ => [1, 2]

/-- An operation's rows under the engine's checks (R344, R346): none where the job has ended. A row that fails is computed once more from
its ring; a line buffer that cannot be read, or a second failure, ends the job. -/
def State.hwCheck (s : State) (e : Nat) (j : HwJob) (bs r : List Byte) : State × Bool :=
  let rows := j.rowsOut bs
  let h := s.seepEvents .headworks e rows.length fun w => (hwUnits r).contains (seepTarget .headworks w)
  let s1 := h.st.bump ctrHwRowsOut e rows.length
  match h.hit with
  | none => (s1, true)
  | some (i, w) =>
      let u := seepTarget .headworks w
      let bad := seepPersists w || u = 2
      let s2 := h.st.logFirst HW_LOG_VALID e [(HW_LOG_OPK, j.opIdx), (HW_LOG_UNIT, u), (HW_LOG_ROW, rows.getD i 0),
        (HW_LOG_RETRY_OK, if bad then 0 else 1)]
      if bad then (s2.failJob e j (if u = 2 then stMemUncorrectable else stFurrowResidue), false)
      else ((s2.bump ctrHwRowsOut e rows.length).bump ctrHwRetried e, true)

/-- A job whose operation has ended has nothing left to give; an output job serves the picture of a frame that stands. -/
def State.jobOver (s : State) (j : HwJob) : Bool :=
  match j.what with
  | .output k num _ _ => !(s.encSession k).jobs.any fun y => y.num = num
  | w => !((w.op s).any fun o => o.stage = .running)

/-- A program with an empty output completes in its turn (R331, R343): it writes nothing. -/
def State.endEmpty (s : State) (e : Nat) (j : HwJob) : State :=
  let s1 := (s.endJob e j).bump ctrHwEmptyJobs e
  match j.what.op s with
  | some o => s1.finish o stOkEmpty
  | none => s1

/-- A row of an engine: the operation at which its head job stands, of the OP named, over one stripe. The function gives what the
operation reads first: whether it stands, and the reads that may fail; then what it emits. -/
def State.hwRow (s : State) (engine : ReachNo) (op : Nat) (ready : State → HwJob → List Byte → List Byte → Bool)
    (reads : State → HwJob → List Byte → List Byte → List (Nat × Nat)) (f : State → Nat → HwJob → List Byte → List Byte → State) : Answer :=
  s.issue fun s =>
    let e := engine.toNat
    match s.hwQueue e with
    | [] => s
    | j :: _ =>
      let bs := s.hwProg j.prog
      let r := hwRec bs j.opIdx
      if s.jobOver j then s.dropJob e j
      else if hwOps bs ≤ j.opIdx ∨ recOp r ≠ op then s
      else if progEmpty bs then s.endEmpty e j
      else if !ready s j bs r || !(reads s j bs r).all (fun x => s.engReady x.1 x.2) then s
      else
        let read := s.engReadAll (s.jobPart j) (reads s j bs r)
        if read.1 ≠ stOk then read.2.endBad e j read.1
        else
          let (s1, good) := read.2.hwCheck e j bs r
          if good then f s1 e j bs r else s1

/-- The ring that a job's operation reads, as a function of channel, column and row. -/
def HwJob.input (j : HwJob) (bs : List Byte) : Nat → Nat → Nat → Word :=
  (sget ({} : HwRing) j.rings j.opIdx).at_ (hwShapeAt bs j.opIdx).native

/-- Planes of the picture that a job reads, once the stripe's rows have been written (R336). -/
def State.hwSource (s : State) (j : HwJob) (bs : List Byte) : Option (List (Nat × Nat × Nat × Nat)) :=
  match j.what with
  | .input _ _ k num =>
      let x := s.decSession k
      match x.pic? num with
      | some p =>
          match p.geom with
          | some g => if min g.h (j.avail bs 0) ≤ p.rows ∧ (p.st = .decoding ∨ p.st = .done) then
                        some (windowPlanes x.pixfmt (x.bufAddr p.buf) g) else none
          | none => none
      | none => none
  | _ => some (runPlanes bs j.src)

/-- UNPACK: it reads a stripe once row tokens show that all its rows have been written (R46, R336). -/
def execUnpack (engine : ReachNo) (s : State) : Answer :=
  s.hwRow engine 0 (fun s j bs _ => (s.hwSource j bs).isSome)
    (fun s j bs r => unpackReads bs r ((s.hwSource j bs).getD []) (j.emits bs).1 (j.emits bs).2)
    fun s e j bs r =>
      let (y0, y1) := j.emits bs
      s.setHead e (j.past bs y1 (s.unpackRows bs r ((s.hwSource j bs).getD []) y0 y1))

/-- CONV: it waits until its parameters stand in the weight cache (R45). -/
def execConv (engine : ReachNo) (s : State) : Answer :=
  let param := fun (bs r : List Byte) => (pfld bs 8 0 48 + (convRec r).woff, (convRec r).paramLen)
  s.hwRow engine 1 (fun _ _ _ _ => true) (fun _ _ bs r => [param bs r])
    fun s e j bs r =>
      let (y0, y1) := j.emits bs
      let need := hwReads true ((hwPairs bs).drop (j.opIdx + 1))
      s.setHead e (j.past bs y1 (s.convRows (pfld bs 8 0 48) (convRec r) (hwShapeAt bs j.opIdx) (j.input bs) need y0 y1))

/-- Runs of bytes written to the columns of logical plots. -/
def State.writeColumns (s : State) (runs : List (Nat × List Byte)) : List Nat → State
  | [] => s
  | l :: ls => (runs.foldl (fun (s : State) (x : Nat × List Byte) => s.resvWrite (s.physOf l) x.1 x.2) s).writeColumns runs ls

/-- Runs of bytes written to the MAS. -/
def State.writeRuns (s : State) (part : Option Nat) (runs : List (Nat × List Byte)) : State :=
  runs.foldl (fun (s : State) (x : Nat × List Byte) => s.bufWrite part x.1 x.2) s

/-- The operation of a HEADWORKS_RUN completes with its job. -/
def State.runDone (s : State) (q : RingNo) (n : Seq) : State :=
  match s.op? q n with
  | some o => s.finish o stOk
  | none => s

/-- PATCHIFY: an input job writes its stripe's tokens in every plot of the stream's partition, and with the last sends INPUT (R341); a
HEADWORKS_RUN job writes them at DST. -/
def execPatchify (engine : ReachNo) (s : State) : Answer :=
  let runs := fun (j : HwJob) (bs r : List Byte) (doff : Nat) =>
    matrixWrites r (hwShapeAt bs j.opIdx) (j.input bs) doff (j.emits bs).1 (j.emits bs).2
  s.hwRow engine 2 (fun s j bs r => match j.what with | .input _ _ _ _ => true | _ => s.runsOpen (runs j bs r j.dst))
      (fun _ _ _ _ => []) fun s e j bs r =>
    let t1 := (j.emits bs).2
    let s1 := match j.what with
      | .input q n _ _ =>
          let part := match s.op? q n with | some o => (s.stream o.streamNo).part.toNat | none => 0
          s.writeColumns (runs j bs r (pfld r 8 0 32)) (s.partPlots part)
      | _ => s.writeRuns (s.jobPart j) (runs j bs r j.dst)
    if !j.lastStripe bs then s1.setHead e (j.past bs t1 [])
    else match j.what with
      | .input q n _ _ => (s1.endJob e j).inputDone (.hub e) q n
      | .run q n => (s1.endJob e j).runDone q n
      | .output _ _ _ _ => s1.endJob e j

/-- The matrix that UNPATCHIFY reads: of the same layout as that of PATCHIFY in the model's input program; a HEADWORKS_RUN has no such
program, and its matrix is BF16 without position columns (log entry 22). -/
def State.unpatchMat (s : State) (j : HwJob) (bs r : List Byte) : TokenMat :=
  let like : Option (List Byte) := match j.what with
    | .output k _ _ _ =>
        (s.model? (s.stream ((s.encSession k).f 20 0 17)).model.toNat).bind fun m =>
          let ib := s.hwProg m.inProg
          (hwRecs ib).find? fun q => recOp q = 2
    | _ => none
  let x := hwShapeAt bs 0
  match like with
  | some q => tokenMat x (patchOf r) (pfld q 2 0 4) (pfld q 4 0 5)
  | none => tokenMat x (patchOf r) 2 0

/-- Reads of the matrix's token rows t0 to t1: offset and length. -/
def TokenMat.reads (m : TokenMat) (t0 t1 : Nat) : List (Nat × Nat) :=
  ((List.range (t1 * m.tw)).drop (t0 * m.tw)).flatMap fun t =>
    (m.elems t, (m.cols * fmtBits m.fmt + 7) / 8) :: (if fmtMx m.fmt then [(m.scales t, (m.cols + 31) / 32)] else [])

/-- Where a job's matrix begins in the MAS: at SRC, or at DOFF in the column of the future's plot. -/
def State.matrixBase (s : State) (j : HwJob) (r : List Byte) : Nat :=
  match j.what with
  | .output _ _ p _ => 0x10000000000 + (s.logOf p).getD 0 * 0x1000000 + pfld r 8 0 32
  | _ => j.src

/-- UNPATCHIFY: its reads of the plot served, the partition may load again (R342). -/
def execUnpatchify (engine : ReachNo) (s : State) : Answer :=
  s.hwRow engine 3 (fun _ _ _ _ => true)
    (fun s j bs r => ((s.unpatchMat j bs r).reads ((j.emits bs).1 / patchOf r) ((j.emits bs).2 / patchOf r)).map fun x =>
      (s.matrixBase j r + x.1, x.2))
    fun s e j bs r =>
      let (y0, y1) := j.emits bs
      let m := s.unpatchMat j bs r
      let base := s.matrixBase j r
      let tokens := fun t => tokenValues m (s.engBytes (base + m.elems t) ((m.cols * fmtBits m.fmt + 7) / 8))
        (s.engBytes (base + m.scales t) ((m.cols + 31) / 32))
      s.setHead e (j.past bs y1 (unpatchRows (hwShapeAt bs 0) r m tokens (y0 / patchOf r) (y1 / patchOf r)))

/-- PACK: the stripe is written to the frame buffer, and a row token tells the encode pipe how many rows stand (R342, R369), or it is
written to DST. -/
def execPack (engine : ReachNo) (s : State) : Answer :=
  let runs := fun (j : HwJob) (bs r : List Byte) => packWrites bs r (hwShapeAt bs j.opIdx) (j.input bs) j.dst (j.emits bs).1 (j.emits bs).2
  s.hwRow engine 4 (fun s j bs r => s.runsOpen (runs j bs r)) (fun _ _ _ _ => []) fun s e j bs r =>
    let y1 := (j.emits bs).2
    let last := j.lastStripe bs
    let s1 := s.writeRuns (s.jobPart j) (runs j bs r)
    let s2 := match j.what with
      | .output k num _ _ =>
          let x := s1.encSession k
          (s1.setEnc k { x with jobs := x.jobs.map fun (y : EncJob) => if y.num = num then { y with rows := y1, packed := last } else y }).emit
            (.encodeRows (x.f 18 0 3) k y1)
      | _ => s1
    if !last then s2.setHead e (j.past bs y1 [])
    else match j.what with
      | .run q n => (s2.endJob e j).runDone q n
      | _ => s2.endJob e j

/-! ### Starting jobs -/

/-- The handle that an operation holds: its session and picture. -/
def State.heldPic (s : State) (q : RingNo) (n : Seq) : Option (Nat × Pic) :=
  s.vid.dec.findSome? fun x => (x.2.pics.find? fun p => p.holds.contains (q, n)).map fun p => (x.1, p)

/-- A job of an operation is already with an engine. -/
def State.hasInputJob (s : State) (q : RingNo) (n : Seq) : Bool :=
  s.vid.hw.any fun x => x.2.any fun j => match j.what with | .input a b _ _ => a = q && b = n | _ => false

/-- INPUT_JOB (R326, R341): the job of an operation that has proceeded on a handle of a session that is not DIRECT. -/
def execInputJob (q : RingNo) (n : Seq) (s : State) : Answer :=
  s.issue fun s =>
    match s.op? q n, s.heldPic q n with
    | some o, some (k, p) =>
      if o.stage ≠ .running ∨ (s.decSession k).direct ∨ o.inputReady ∨ s.hasInputJob q n then s
      else
        let st := s.stream o.streamNo
        let prog := ((s.model? st.model.toNat).map (·.inProg)).getD 0
        let e := s.engineFor (s.defaultPipe o.streamNo)
        let x := s.decSession k
        let s1 := s.setDec k { x with bufs := modBuf x.bufs p.buf fun b => { b with reads := b.reads + 1 } }
        s1.acceptJob e { what := .input q n k p.num, prog := prog }
    | _, _ => s

/-- Rows of a picture's planes in the layout of R355 with the record's pitches: offset, address and bytes. -/
def copyRows (f : Nat) : List (Nat × Nat × Nat × Nat) → List (Nat × Nat × Nat)
  | [] => []
  | p :: ps =>
      (List.range p.2.2.2).map (fun y => (y * p.2.1, p.1 + y * p.2.1, p.2.2.1 * pixBytes f))
      ++ (copyRows f ps).map fun a => (a.1 + p.2.2.2 * p.2.1, a.2)

/-- DIRECT_COPY (R366): a DIRECT session's pipe copies the picture's planes to DOFF in every plot of the partition. -/
def execDirectCopy (q : RingNo) (n : Seq) (s : State) : Answer :=
  s.issue fun s =>
    match s.op? q n, s.heldPic q n with
    | some o, some (k, p) =>
      let x := s.decSession k
      let planes := match p.geom with
        | some g => if p.rows = g.h ∧ (p.st = .decoding ∨ p.st = .done) then windowPlanes x.pixfmt (x.bufAddr p.buf) g else []
        | none => []
      let rows := copyRows x.pixfmt planes
      if o.stage ≠ .running ∨ !x.direct ∨ planes.isEmpty ∨ o.inputReady ∨ !rows.all (fun a => s.engReady a.2.1 a.2.2) then s
      else
        let read := s.engReadAll (s.decPart x) (rows.map fun (a : Nat × Nat × Nat) => a.2)
        let s := read.2
        if read.1 ≠ stOk then (s.unholdPic q n k p.num).failOp o read.1
        else
          let runs := rows.map fun (a : Nat × Nat × Nat) => (descFld x.desc 48 0 32 + a.1, s.engBytes a.2.1 a.2.2)
          let part := (s.stream o.streamNo).part.toNat
          ((s.writeColumns runs (s.partPlots part)).unholdPic q n k p.num).inputDone (.edge (edgePipe x.pipe)) q n
    | _, _ => s

/-- OUTPUT_JOB (R342, R358, R369): the job of a future-frame whose slot has ended, for the encode session that watches the future;
it waits for a free buffer. -/
def execOutputJob (part : PartNo) (session : BitVec 6) (pos : Nat) (s : State) : Answer :=
  s.issue fun s =>
    let x := s.part part.toNat
    let k := session.toNat
    match x.outJobs[pos]? with
    | none => s
    | some w =>
      let v := s.encSession k
      if w.session ≠ k ∨ !v.isOpen then s
      else match freeBuf v.bufs (v.f 19 0 6) with
        | none => s
        | some b =>
          let prog := ((s.model? (s.stream (v.f 20 0 17)).model.toNat).map (·.outProg)).getD 0
          let addr := v.f 48 0 48 + b * bufferBytes (s.progFmt prog) (s.progW prog) (s.progH prog)
          let job : EncJob := { ring := w.ring, seq := w.seq, frame := w.frame, num := v.nextPic, buf := b }
          let v1 := { v with nextPic := v.nextPic + 1, jobs := v.jobs ++ [job], bufs := modBuf v.bufs b fun f => { f with src := true } }
          let s1 := (s.setEnc k v1).setPart part.toNat { x with outJobs := x.outJobs.eraseIdx pos }
          let e := s1.engineFor (reachOf ((s1.logOf w.pplot).getD 0))
          s1.acceptJob e { what := .output k v.nextPic w.pplot part.toNat, prog := prog, dst := addr }

/-- Output jobs that still read a plot of a partition: the next load's step 4 waits for them (R342). -/
def State.outputsReading (s : State) (part : Nat) : Bool :=
  !(s.part part).outJobs.isEmpty
  || s.vid.hw.any fun x => x.2.any fun j => match j.what with
    | .output _ _ _ p =>
        let bs := s.hwProg j.prog
        p = part && decide (sget 0 j.done 0 < hwUpto bs 0 (pfld bs 2 0 16 + 1))
    | _ => false

/-- Bytes of the MAS that a HEADWORKS_RUN program reads and writes: address and length (R343). -/
def hwRanges (bs : List Byte) (src dst : Nat) : List (Nat × Nat) :=
  let pic := pictureBytes (pfld bs 4 0 2) (pfld bs 0 0 16 + 1) (pfld bs 2 0 16 + 1)
  let mat := ((hwPairs bs).find? fun x => recOp x.1 = 2 || recOp x.1 = 3).map fun x =>
    (if recOp x.1 = 2 then tokenMat x.2 (patchOf x.1) (pfld x.1 2 0 4) (pfld x.1 4 0 5) else tokenMat x.2 (patchOf x.1) 2 0).bytes
  let ends := if pfld bs 6 0 1 = 0 then [(src, pic), (dst, mat.getD 0)] else [(src, mat.getD 0), (dst, pic)]
  ends ++ ((hwRecs bs).filter fun r => recOp r = 1).map fun r => (pfld bs 8 0 48 + (convRec r).woff, (convRec r).paramLen)

/-- HEADWORKS_RUN (R326, R331, R343). -/
def execHeadworksRun (q : RingNo) (n : Seq) (s : State) : Answer :=
  s.opRow q n 0x25 fun s o =>
    let t := o.tenant s
    let prog := o.fld 16 0 48
    let bs := s.hwProg prog
    match (s.rangeDetail t prog 32).orElse fun _ => s.rangeDetail t prog (32 + 32 * min 8 (hwOps bs)) with
    | some d => s.refuseOp o (stDenied, d)
    | none =>
      if progBad bs then s.refuseOp o (stDenied, 0)
      else
        let bad := (hwRanges bs (o.fld 24 0 48) (o.fld 32 0 48)).filterMap fun x => s.rangeDetail t x.1 x.2
        match if bad.contains dtTenant then some dtTenant else bad.head? with
        | some d => s.refuseOp o (stDenied, d)
        | none =>
          (s.begin_ o).acceptJob (s.engineFor (o.fld 40 0 4))
            { what := .run q n, prog := prog, src := o.fld 24 0 48, dst := o.fld 32 0 48 }

end Sys2Proof.Machine
end

