-- ==== Sys2Proof/Machine/Cistern.lean ====
section
/-! DEFINITION. The Cistern channels (R412 to R437): interleave and the map after a retirement, inline ECC and the protected region,
the memory-side adders, retraining, repair and retirement. -/

namespace Sys2Proof.Machine

/-! ### Serving a read or write (R415, R416, R421) -/

/-- A parity group is written by no other unit than the channel controllers (R420). -/
def State.inParity (s : State) (a n : Nat) : Bool :=
  s.flag CIS_PROT_ENABLE && decide (a < s.parBase + s.parSize ∧ s.parBase < a + n)

/-- No slot reaches the system area (R381). -/
def inSystemArea (a : Nat) : Bool := decide (a < 2 ^ 27)

/-- A request refused, or failed: its slot or operation ends with the status. -/
def State.failRequest (s : State) (part : PartNo) (st : BitVec 12) : State := s.abortSlot part.toNat st

/-- A read served (R416). -/
def State.serveRead (s : State) (part : PartNo) (a n : Nat) (ecc : EccOutcome) : State :=
  let r := s.readBlocks a ecc (blocksOf a n)
  if r.1 = stOk then
    (r.2.bump ctrReadBytes (s.chanBlock a).1 n).emit (.cisData part a (r.2.cisBytes a n))
  else r.2.failRequest part r.1

/-- A block written in part that ECC cannot correct: in the protected region it is rebuilt first, else it becomes UE or stays
LOST (R416). -/
def State.partWrite (s : State) (a : Nat) (ecc : EccOutcome) : State :=
  let r := s.readBlock a ecc
  if r.1 = stOk ∨ r.1 = stChannelRetired then r.2
  else { r.2 with mem := r.2.mem.setTag (a / 64) 2 }

/-- A write served (R416, R420). -/
def State.serveWrite (s : State) (a : Nat) (data : List Byte) (ecc : EccOutcome) : State :=
  let n := data.length
  let ch := (s.chanBlock a).1
  let s1 := if n % 64 = 0 ∧ a % 64 = 0 then s else s.partWrite a ecc
  ((s1.cisWrite a data).bump ctrWriteBytes ch n).xtsCheck ch (blocksOf a n)

/-! ### Queues (R429) -/

def State.queue (s : State) (ch : Nat) : List Instr := sget [] s.cis.queues ch
def State.setQueue (s : State) (ch : Nat) (q : List Instr) : State :=
  let s1 := { s with cis := { s.cis with queues := sput [] s.cis.queues ch q } }
  s1.wr CIS_CH_CTL_QUEUE ch (min 512 q.length)

/-- A request joins the queue of a channel that is not ONLINE. -/
def State.enqueue (s : State) (ch : Nat) (i : Instr) : State := s.setQueue ch (s.queue ch ++ [i])

/-! ### Adders (R425 to R427) -/

/-- The block of a target brought into the add cache: whether it was there, and the state. The cache holds 64 blocks; the least
recently used one leaves. -/
def State.cacheBlock (s : State) (ch b : Nat) : Bool × State :=
  let l := sget [] s.cis.cached ch
  (l.contains b, { s with cis := { s.cis with cached := sput [] s.cis.cached ch ((b :: l.erase b).take 64) } })

/-- An add served: the channel counts it, fills its cache, and a block that cannot be filled ends the requesting operation. -/
def State.addTo (s : State) (q : RingNo) (n : Seq) (a size : Nat) (f : State → State) : State :=
  let fail := fun (s : State) (st : BitVec 12) =>
    match s.op? q n with
    | some o => if o.stage = OpStage.done then s else s.failOp o st
    | none => s
  if a % size ≠ 0 then fail s stDenied
  else
    let ch := (s.chanBlock a).1
    let c := (s.bump ctrAdds ch).cacheBlock ch (a / 64)
    if c.1 then f c.2
    else
      let r := (c.2.bump ctrAddMisses ch).readBlock a .clean
      if r.1 = stOk then f r.2 else fail r.2 r.1

/-- The bytes of an add's target replaced by a value; the old one returned where the request asks for it. -/
def State.addWrite (s : State) (a size : Nat) (old new : Nat) (ret : Bool) : State :=
  let s1 := s.cisWrite a (leBytes size new)
  if ret then s1.emit (.adder a (BitVec.ofNat 64 old)) else s1

/-- Value of an exact cell's 504 bits (R425). -/
def cellValue (x : Nat) : Int := signedOf 504 (x % 2 ^ 504)

/-- A cell with a value and flags. -/
def cellBits (v : Int) (flags : Nat) : Nat := (v % 2 ^ 504).toNat + flags * 2 ^ 504

/-- ACC_X: a binary32 operand added exactly, or its flag set (R425). -/
def accAdd (cell : Nat) (w : Word) : Nat :=
  let flags := cell / 2 ^ 504
  match dec32 w with
  | .nan => cellBits (cellValue cell) (flags ||| 1)
  | .inf neg => cellBits (cellValue cell) (flags ||| (if neg then 4 else 2))
  | .fin neg m e => cellBits (cellValue cell + atExp neg m e (-149)) flags

/-- ACC_X_READ's result (R425). -/
def accRead (cell : Nat) : Word :=
  let flags := cell / 2 ^ 504
  let p := flags.testBit 1
  let n := flags.testBit 2
  if flags.testBit 0 || (p && n) then canonicalNan
  else if p then posInf else if n then negInf
  else
    let v := cellValue cell
    enc32 (.fin (decide (v < 0)) v.natAbs (-149))

/-- A command of a channel served, when it comes to its turn. -/
def State.serve (s : State) : Instr → State
  | .cisternRead part a n ecc => (s.grant_ (s.chanBlock a.toNat).1 part.toNat).serveRead part a.toNat n.toNat ecc
  | .cisternWrite part a d ecc => (s.grant_ (s.chanBlock a.toNat).1 part.toNat).serveWrite a.toNat d ecc
  | .addI32 q n a v ret => s.addTo q n a.toNat 4 fun s =>
      let old := leNat (s.cisBytes a.toNat 4)
      s.addWrite a.toNat 4 old ((old + v.toNat) % 2 ^ 32) ret
  | .addI64 q n a v ret => s.addTo q n a.toNat 8 fun s =>
      let old := leNat (s.cisBytes a.toNat 8)
      s.addWrite a.toNat 8 old ((old + v.toNat) % 2 ^ 64) ret
  | .addF32 q n a v ret => s.addTo q n a.toNat 4 fun s =>
      let old := leNat (s.cisBytes a.toNat 4)
      s.addWrite a.toNat 4 old (fadd (BitVec.ofNat 32 old) v).toNat ret
  | .accX q n a v => s.addTo q n a.toNat 64 fun s =>
      s.cisWrite a.toNat (leBytes 64 (accAdd (leNat (s.cisBytes a.toNat 64)) v))
  | .accXRead q n a clr => s.addTo q n a.toNat 64 fun s =>
      let cell := leNat (s.cisBytes a.toNat 64)
      (if clr then s.cisWrite a.toNat (leBytes 64 0) else s).emit (.adder a.toNat ((accRead cell).zeroExtend 64))
  | _ => s

/-- A request at a channel (R429): served while the channel is ONLINE, otherwise held in order. A target outside the Cistern range
is unmapped (R380); the system area and the parity area are refused (R381, R420). -/
def State.request (s : State) (i : Instr) (a : Nat) (denied : State → State) : State :=
  if s.cisEnd ≤ a ∨ inSystemArea a ∨ s.inParity a 1 then denied s
  else if s.chanServes (s.chanHome a) then s.serve i else s.enqueue (s.chanHome a) i

/-- CISTERN_READ: at most the 256 bytes of a granule (R423). -/
def execCisternRead (part : PartNo) (addr : BitVec 48) (len : BitVec 9) (ecc : EccOutcome) (s : State) : Answer :=
  s.issue fun s =>
    if 256 < addr.toNat % 256 + len.toNat then s
    else s.request (.cisternRead part addr len ecc) addr.toNat fun s => s.failRequest part stDenied

/-- CISTERN_WRITE. -/
def execCisternWrite (part : PartNo) (addr : BitVec 48) (data : List Byte) (ecc : EccOutcome) (s : State) : Answer :=
  s.issue fun s =>
    if 256 < addr.toNat % 256 + data.length then s
    else s.request (.cisternWrite part addr data ecc) addr.toNat fun s => s.failRequest part stDenied

/-- An add's operation ends with a status. -/
def State.denyAdd (s : State) (q : RingNo) (n : Seq) : State :=
  match s.op? q n with
  | some o => if o.stage = .done then s else s.failOp o stDenied
  | none => s

/-- An add request at its channel. -/
def State.addRequest (s : State) (q : RingNo) (n : Seq) (i : Instr) (a : Nat) : State :=
  s.request i a fun s => s.denyAdd q n

def execAddI32 (q : RingNo) (n : Seq) (addr : BitVec 48) (v : Word) (ret : Bool) (s : State) : Answer :=
  s.issue fun s => s.addRequest q n (.addI32 q n addr v ret) addr.toNat
def execAddI64 (q : RingNo) (n : Seq) (addr : BitVec 48) (v : DWord) (ret : Bool) (s : State) : Answer :=
  s.issue fun s => s.addRequest q n (.addI64 q n addr v ret) addr.toNat
def execAddF32 (q : RingNo) (n : Seq) (addr : BitVec 48) (v : Word) (ret : Bool) (s : State) : Answer :=
  s.issue fun s => s.addRequest q n (.addF32 q n addr v ret) addr.toNat
def execAccX (q : RingNo) (n : Seq) (addr : BitVec 48) (v : Word) (s : State) : Answer :=
  s.issue fun s => s.addRequest q n (.accX q n addr v) addr.toNat
def execAccXRead (q : RingNo) (n : Seq) (addr : BitVec 48) (clr : Bool) (s : State) : Answer :=
  s.issue fun s => s.addRequest q n (.accXRead q n addr clr) addr.toNat

/-- PATROL_SCRUB: a corrected error is counted, an uncorrectable block is counted and left as it is (R417). -/
def execPatrolScrub (ch : BitVec 6) (block : Nat) (ecc : EccOutcome) (s : State) : Answer :=
  s.issue fun s =>
    if s.chanState ch.toNat ≠ chOnline then s
    else
      let h := s.eccFor ch.toNat (groupGranule block ch.toNat) ecc
      match h.1 with
      | .clean => h.2.2
      | .corrected => h.2.2.bump ctrEccCorrected ch.toNat
      | .uncorrectable => h.2.2.bump ctrEccUncorrectable ch.toNat

/-! ### Retraining and repair (R428, R429) -/

/-- A held queue served in order. -/
def State.serveAll (s : State) : List Instr → State
  | [] => s
  | i :: is => (s.serve i).serveAll is

/-- A channel returns to service. -/
def State.serveQueue (s : State) (ch : Nat) : State := (s.setQueue ch []).serveAll (s.queue ch)

/-- A channel of the same group of 8 is retraining. -/
def State.groupBusy (s : State) (ch : Nat) : Bool :=
  (List.range 8).any fun k => s.chanState (8 * (ch / 8) + k) = chRetraining

/-- A full retraining starts, or waits for the one that runs in the channel's group. -/
def State.startRetrain (s : State) (ch : Nat) : State :=
  if s.chanState ch = chRetraining ∨ s.chanState ch = chRetired ∨ s.cis.retrainWait.contains ch then s
  else if s.groupBusy ch then { s with cis := { s.cis with retrainWait := s.cis.retrainWait ++ [ch] } }
  else (s.wr CIS_CH_CTL_STATE ch chRetraining).bump ctrRetrainFull ch

/-- The next waiting channel of a group starts. -/
def State.nextRetrain (s : State) (ch : Nat) : State :=
  match s.cis.retrainWait.find? fun c => c / 8 = ch / 8 with
  | none => s
  | some c => ({ s with cis := { s.cis with retrainWait := s.cis.retrainWait.erase c } }).startRetrain c

/-- A quick retraining (R428): the channel stays ONLINE; drift beyond its limit starts a full one. -/
def State.quickRetrain (s : State) (ch : Nat) (drift : Bool) : State :=
  if s.chanState ch ≠ chOnline then s
  else
    let s1 := s.bump ctrRetrainQuick ch
    if drift then s1.startRetrain ch else s1

def execDqsOscRead (ch : BitVec 6) (drift : Bool) (s : State) : Answer := s.issue fun s => s.quickRetrain ch.toNat drift

/-- ZQ_CALIBRATION: both channels of a package together (R412). -/
def execZqCalibration (pkg : BitVec 5) (drift0 drift1 : Bool) (s : State) : Answer :=
  s.issue fun s => (s.quickRetrain (2 * pkg.toNat) drift0).quickRetrain (2 * pkg.toNat + 1) drift1

/-- MR4_POLL: the refresh rate follows the reading (R412); a case above 105 degrees stops the module (R631). -/
def execMr4Poll (ch : BitVec 6) (mr4 : BitVec 3) (caseTemp : Nat) (s : State) : Answer :=
  s.issue fun s =>
    let s1 := { s with cis := { s.cis with mr4 := sput 0 s.cis.mr4 ch.toNat mr4 } }
    if 105 < caseTemp then s1.stop causeThermal ch.toNat else s1

def execCorrectedErrorBurst (ch : BitVec 6) (s : State) : Answer :=
  s.issue fun s => if s.chanState ch.toNat = chOnline then s.startRetrain ch.toNat else s

/-- RETRAIN set in CIS_CH_CTL; a channel in REPAIR leaves it only when REPAIR is cleared. -/
def State.fullRetrain (s : State) (ch : Nat) : State := if s.chanState ch = chOnline then s.startRetrain ch else s

def execChannelRetrain (ch : BitVec 6) (s : State) : Answer := s.issue fun s => s.fullRetrain ch.toNat

/-- A channel enters REPAIR. -/
def State.enterRepair (s : State) (ch : Nat) : State :=
  (s.wr CIS_CH_CTL_STATE ch chRepair).wr CIS_CH_CTL_REPAIR ch 1

/-- Another channel is in REPAIR or RETIRED. -/
def State.otherOut (s : State) (ch : Nat) : Bool :=
  (List.range 64).any fun c => c ≠ ch && (s.chanState c = chRepair || s.chanState c = chRetired)

/-- A full retraining ends (R428, R435): success returns the channel ONLINE; a failure is logged and retried, and the third in a row
enters REPAIR, raises CIS_CHANNEL, and stops a module that has another channel out of service. -/
def State.retrainDone (s : State) (ch : Nat) (ok : Bool) : State :=
  if s.chanState ch ≠ chRetraining then s
  else
    let hit := s.inject.find? fun x => x.kind = .cistern && (x.inst = 64 + ch || (x.inst = ch && seepTarget .cistern x.word = 2))
    let seep := hit.isSome
    let s0 : State := match hit with | some x => { s with inject := s.inject.erase x } | none => s
    if ok && !seep then
      (((s0.wr CIS_CH_CTL_STATE ch chOnline).wr CIS_CH_CTL_FAILS ch 0).nextRetrain ch).serveQueue ch
    else
      let f := s0.rd CIS_CH_CTL_FAILS ch + 1
      let s1 := (s0.wr CIS_CH_CTL_FAILS ch (min 3 f)).cisLog ch 0 3 stOk
      if f < 3 then s1.bump ctrRetrainFull ch
      else
        let s2 := ((s1.enterRepair ch).raise evCisChannel).nextRetrain ch
        if s2.otherOut ch then s2.stop causeCistern ch else s2

def execRetrainDone (ch : BitVec 6) (ok : Bool) (s : State) : Answer := s.issue fun s => s.retrainDone ch.toNat ok

/-- Firmware sets REPAIR. -/
def State.repairEnter (s : State) (ch : Nat) : State :=
  if s.chanState ch = chRetired ∨ s.chanState ch = chRepair then s
  else
    let s1 := { s with cis := { s.cis with retrainWait := s.cis.retrainWait.erase ch } }
    let s2 := s1.enterRepair ch
    if s.chanState ch = chRetraining then s2.nextRetrain ch else s2

/-- Firmware clears REPAIR: a full retraining starts. -/
def State.repairLeave (s : State) (ch : Nat) : State :=
  if s.chanState ch = chRepair then
    ((s.wr CIS_CH_CTL_REPAIR ch 0).wr CIS_CH_CTL_FAILS ch 0).startRetrain ch
  else s

def execChannelRepairEnter (ch : BitVec 6) (s : State) : Answer := s.issue fun s => s.repairEnter ch.toNat
def execChannelRepairLeave (ch : BitVec 6) (s : State) : Answer := s.issue fun s => s.repairLeave ch.toNat

/-! ### Retirement (R430 to R434) -/

/-- A range lies inside the protected region. -/
def State.wholeProtected (s : State) (a n : Nat) : Bool :=
  s.flag CIS_PROT_READY && decide (s.protBase ≤ a ∧ a + n ≤ s.protBase + s.protSize)

/-- DROP edits of the unpinned LIVE sets of a pool (R432). -/
def State.dropUnpinned (s : State) (p : Nat) (ns : List Nat) : State :=
  s.submitEdits ((ns.filter fun n => ((s.pool p).set_ n).st = .live && !s.setPinned p n).map (dropEdit p))

/-- Recovery of one partition's page pool: inside the region, unpinned LIVE sets are dropped; outside it, every set is lost. -/
def State.recoverPool (s : State) (p : Nat) : State :=
  let base := s.rd PG_POOL_BASE_ADDR p * 65536
  let size := s.rd PG_POOL_CTL_PAGES p * s.pageBytes p
  let pool := s.pool p
  if s.wholeProtected base size then s.dropUnpinned p (pool.sets.map (·.1))
  else s.setPool p { pool with sets := pool.sets.map fun x => (x.1, { x.2 with lost := true }) }

/-- Streams whose region lies outside the protected region are lost. -/
def State.recoverStreams (s : State) : State :=
  { s with ctx := { s.ctx with streams := s.ctx.streams.map fun x =>
      let r := x.2
      let sb := ((s.model? r.model.toNat).map (·.stateBytes)).getD 0
      (x.1, if r.st ≠ .free && !s.wholeProtected r.region (regionBytes r.cap sb r.trainT) then { r with lost := true } else r) } }

def State.recoverPools (s : State) : List Nat → State
  | [] => s
  | p :: ps => (s.recoverPool p).recoverPools ps

/-- A held request at its channel again, under the map now in force (R431 step 4). -/
def State.requestAgain (s : State) (i : Instr) : State :=
  match i with
  | .cisternRead part a _ _ => s.request i a.toNat fun y => y.failRequest part stDenied
  | .cisternWrite part a _ _ => s.request i a.toNat fun y => y.failRequest part stDenied
  | .addI32 q n a _ _ => s.addRequest q n i a.toNat
  | .addI64 q n a _ _ => s.addRequest q n i a.toNat
  | .addF32 q n a _ _ => s.addRequest q n i a.toNat
  | .accX q n a _ => s.addRequest q n i a.toNat
  | .accXRead q n a _ => s.addRequest q n i a.toNat
  | _ => s

def State.requestsAgain (s : State) : List Instr → State
  | [] => s
  | i :: is => (s.requestAgain i).requestsAgain is

/-- Retirement of channel ch, steps 1 to 4 (R431): the map changes, EPOCH advances, the held requests are routed under the new map, those
for moved blocks wait, and those for unmapped addresses are denied. -/
def State.retireChannel (s : State) (ch : Nat) : State :=
  let held := s.queue ch
  let s1 := s.wrs 0 [(CIS_MAP_CHANNEL, ch), (CIS_MAP_RETIRED, 1), (CIS_MAP_EPOCH, (s.rd CIS_MAP_EPOCH + 1) % 2 ^ 32), (CIS_MAP_PHASE, 2)]
  let s2 := (s1.setQueue ch []).wr CIS_CH_CTL_STATE ch chRetired
  let s3 := { s2 with aqf := { s2.aqf with wc := [] }, cis := { s2.cis with cached := [] } }
  s3.requestsAgain held

/-- Step 5: every moved block is LOST. -/
def State.sweep (s : State) : State :=
  { s with mem := { s.mem with swept := some { ch := s.rd CIS_MAP_CHANNEL, base := 0, size := 0, pbase := 0, psize := 0 } } }

/-- Stripe members of a block of the region that lay on the retired channel. -/
def State.movedMembers (s : State) (b : Nat) : List Nat :=
  (64 * b :: s.stripeOthers (64 * b)).filter fun a => chanOf a = s.rd CIS_MAP_CHANNEL

/-- Blocks of the region whose stripes have a second member that cannot be read stay LOST; a UE block that moved is rebuilt as any
other. -/
def State.keepLost (s : State) : List Nat → State
  | [] => s
  | b :: bs =>
      let s1 := if chanOf (64 * b) = s.rd CIS_MAP_CHANNEL then { s with mem := s.mem.setTag b 0 }
        else { s with mem := (s.movedMembers b).foldl (fun m a => m.setTag (a / 64) 1) s.mem }
      s1.keepLost bs

/-- Blocks of the region that cannot be corrected. -/
def State.ueBlocks (s : State) : List Nat :=
  (s.mem.cisTag.map (·.1)).filter fun b => s.mem.tag b = 2 && inRange (64 * b) s.protBase s.protSize

/-- Steps 6 and 7: moved granules of the region and of its parity are rebuilt, the recovery of R432 is applied, and CIS_RETIRED raised. -/
def State.rebuildMoved (s : State) : State :=
  let ready := s.flag CIS_PROT_READY
  let ue := if ready then s.ueBlocks else []
  let w : Swept := { ch := s.rd CIS_MAP_CHANNEL, rebuilt := true, base := s.protBase, size := if ready then s.protSize else 0,
                     pbase := s.parBase, psize := if ready then s.parSize else 0 }
  let s1 := ({ s with mem := { s.mem with swept := some w } } : State).keepLost ue
  ((s1.recoverPools (s1.pools.map (·.1))).recoverStreams).raise evCisRetired

/-- One phase of a retirement, as a period passes (log entry 42): SWEEPING ends, or REBUILDING ends and the requests that waited for moved
blocks are served in order. -/
def State.retireStep (s : State) : State :=
  match s.rd CIS_MAP_PHASE with
  | 2 => s.sweep.wr CIS_MAP_PHASE 0 3
  | 3 =>
      let ch := s.rd CIS_MAP_CHANNEL
      let s1 := s.rebuildMoved.wr CIS_MAP_PHASE 0 0
      (s1.setQueue ch []).requestsAgain (s1.queue ch)
  | _ => s

/-- A retirement that a reset cut is finished at start-up (R434). -/
def State.finishRetirement (s : State) : State :=
  if s.flag CIS_MAP_RETIRED && !(s.mem.swept.any (·.rebuilt)) then s.sweep.rebuildMoved else s

/-- Parity of the region recomputed from its data at start-up (R422): a data block that cannot be read is first rebuilt from the parity as
it stood. -/
def State.parityUp (s : State) : State :=
  if !s.flag CIS_PROT_READY then s
  else
    let s1 := (s.ueBlocks.filter fun b => s.rebuildable (64 * b)).foldl (fun (x : State) b => x.rebuildBlock b) s
    let tags := s1.mem.cisTag.filter fun (x : Nat × BitVec 2) => !inRange (64 * x.1) s.parBase s.parSize
    { s1 with mem := { s1.mem with cis := s1.freshParity, cisTag := tags } }

/-- RETIRE written to CIS_MAP: it is refused while a channel is RETIRED (R435), or where the channel is not in REPAIR (R431). -/
def State.retireWrite (s : State) (ch : Nat) : State :=
  if s.flag CIS_MAP_RETIRED ∨ s.chanState ch ≠ chRepair then s.wr CIS_MAP_REFUSED 0 1 else s.retireChannel ch

def execChannelRetire (ch : BitVec 6) (s : State) : Answer := s.issue fun s => s.retireWrite ch.toNat

/-! ### CIS_PROT (R420) -/

/-- Two half-open ranges do not meet. -/
def apart (a n b m : Nat) : Bool := decide (a + n ≤ b ∨ b + m ≤ a ∨ n = 0 ∨ m = 0)

/-- A region, its parity area and the weight cache keep R420. -/
def protOk (base size par psize wc wcSize : Nat) : Bool :=
  decide (base + size ≤ map63End ∧ par + psize ≤ map63End)
  && apart base size par psize && apart base size wc wcSize && apart par psize wc wcSize

/-- ENABLE set: parity is computed over the region, and READY set; a region that breaks R420 sets REFUSED and changes nothing. -/
def State.protEnable (s : State) : State :=
  if s.flag CIS_PROT_ENABLE then s
  else if protOk s.protBase s.protSize s.parBase s.parSize (s.rd WC_CTL_BASE_1G * 2 ^ 30) (s.rd WC_CTL_SIZE_1G * 2 ^ 30) then
    let s1 := { s with mem := { s.mem with cis := s.freshParity } }
    (s1.wr CIS_PROT_ENABLE 0 1).wr CIS_PROT_READY 0 1
  else s.wr CIS_PROT_REFUSED 0 1

def execCisProtEnable (s : State) : Answer := s.issue State.protEnable

end Sys2Proof.Machine
end

