-- ==== Sys2Proof/Machine/Confluence.lean ====
section
/-! DEFINITION. Collectives of the Confluence engine (R451 to R474): groups, descriptors and lists, the header round, chunks, reductions,
votes and commits, time limits, and members that leave. -/

namespace Sys2Proof.Machine

/-! ### A collective's body (R454, R455) -/

def Coll.fld (c : Coll) (b lo w : Nat) : Nat := recFld c.body 0 b lo w
def Coll.op (c : Coll) : Nat := c.fld 1 0 4
def Coll.red (c : Coll) : Nat := c.fld 1 4 4
def Coll.ty (c : Coll) : Nat := c.fld 2 0 2
def Coll.eager (c : Coll) : Bool := c.fld 3 1 1 = 1 && c.host.isNone
def Coll.accum (c : Coll) : Bool := c.fld 3 2 1 = 1
def Coll.spread (c : Coll) : Bool := c.fld 3 3 1 = 1
def Coll.root (c : Coll) : Nat := c.fld 4 0 3
def Coll.count (c : Coll) : Nat := c.fld 8 0 32
def Coll.src (c : Coll) : Nat := c.fld 16 0 48
def Coll.dst (c : Coll) : Nat := c.fld 24 0 48
def Coll.scratch (c : Coll) : Nat := c.fld 32 0 48
def Coll.esz (c : Coll) : Nat := [4, 2, 4, 1].getD c.ty 1
def Coll.reducing (c : Coll) : Bool := c.op < 2

/-- Sizes that a collective's streams follow from: members, own rank, plots of the footprint. -/
structure CollGeom where
  n : Nat
  me : Nat
  plots : List Nat
  deriving DecidableEq, Repr

def State.collGeom (s : State) (g : Nat) (c : Coll) : CollGeom :=
  let x := s.group g
  { n := x.size, me := s.myRank x, plots := if c.spread then s.partPlots c.part else [] }

/-- Contribution count C in bytes, and the shard of a rank in bytes from its start (R455). -/
def Coll.total (c : Coll) (x : CollGeom) : Nat := c.count * (if c.spread then x.plots.length else 1)
def Coll.bytes (c : Coll) (x : CollGeom) : Nat := c.total x * c.esz
def Coll.shard (c : Coll) (x : CollGeom) : Nat := (c.total x + x.n - 1) / max 1 x.n
def Coll.shardStart (c : Coll) (x : CollGeom) (r : Nat) : Nat := r * c.shard x * c.esz
def Coll.shardBytes (c : Coll) (x : CollGeom) (r : Nat) : Nat :=
  (min ((r + 1) * c.shard x) (c.total x) - r * c.shard x) * c.esz

/-- Chunks of 4,096 bytes of a stream (R462). -/
def chunksIn (n : Nat) : Nat := (n + 4095) / 4096

/-- Bytes that rank a contributes to rank r, and where they start in its SRC. -/
def Coll.streamBytes (c : Coll) (x : CollGeom) (a r : Nat) : Nat :=
  match c.op with
  | 0 => c.shardBytes x r
  | 1 => c.shardBytes x r
  | 2 => c.bytes x
  | 3 => if a = c.root then c.bytes x else 0
  | 4 => c.bytes x
  | _ => 0
def Coll.streamStart (c : Coll) (x : CollGeom) (r : Nat) : Nat :=
  if c.reducing then c.shardStart x r else if c.op = 4 then r * c.bytes x else 0

/-- Chunks of contributions from a to r, and, for ALL_REDUCE, of results that follow them in the stream. -/
def Coll.contribs (c : Coll) (x : CollGeom) (a r : Nat) : Nat := chunksIn (c.streamBytes x a r)
def Coll.results_ (c : Coll) (x : CollGeom) (a : Nat) : Nat := if c.op = 0 then chunksIn (c.shardBytes x a) else 0

/-- Bytes of SRC and of DST, over all plots under SPREAD. -/
def Coll.srcLen (c : Coll) (x : CollGeom) : Nat :=
  if c.op = 5 then 0 else if c.op = 4 then x.n * c.bytes x else if c.op = 3 ∧ x.me ≠ c.root then 0 else c.bytes x
def Coll.dstLen (c : Coll) (x : CollGeom) : Nat :=
  match c.op with
  | 0 => c.bytes x
  | 1 => if c.spread then c.bytes x else c.shardBytes x x.me
  | 2 => x.n * c.bytes x
  | 3 => if x.me = c.root then 0 else c.bytes x
  | 4 => x.n * c.bytes x
  | _ => 0

/-- Bytes that SRC and DST hold in each plot under SPREAD. -/
def Coll.srcPer (c : Coll) (x : CollGeom) : Nat := c.count * c.esz * (if c.op = 4 then x.n else 1)
def Coll.dstPer (c : Coll) (x : CollGeom) : Nat := c.count * c.esz * (if c.op = 2 ∨ c.op = 4 then x.n else 1)

/-! ### Memory of a collective -/

/-- Parts of a run of bytes of a concatenation over plots: plot, offset within its share, and length (R459). -/
def spreadParts (per start len : Nat) (k : Nat) : List Nat → List (Nat × Nat × Nat)
  | [] => []
  | l :: ls =>
      let a := max start (k * per)
      let b := min (start + len) ((k + 1) * per)
      (if a < b then [(l, a - k * per, b - a)] else []) ++ spreadParts per start len (k + 1) ls

/-- A run of bytes of SRC or DST read over the footprint's plots. -/
def State.partsRead (s : State) (base : Nat) (l : List (Nat × Nat × Nat)) : Bool × List Byte :=
  l.foldl (fun (r : Bool × List Byte) (p : Nat × Nat × Nat) =>
    (r.1 && s.resvOk (s.physOf p.1) (base + p.2.1) p.2.2, r.2 ++ s.resvBytes (s.physOf p.1) (base + p.2.1) p.2.2)) (true, [])

/-- Partition whose tag a collective's Cistern requests carry: its slot's; a host collective's are SYSTEM (log entry 111). -/
def Coll.tag (c : Coll) : Option Nat := if c.host.isSome then none else some c.part

/-- What a run's read gives: the state after it, whether it could be read, and the bytes. -/
structure CollData where
  st : State
  ok : Bool
  bytes : List Byte

/-- A run of bytes of SRC or DST read. -/
def State.collRead (s : State) (c : Coll) (x : CollGeom) (base per start n : Nat) : CollData :=
  if c.spread then
    let r := s.partsRead base (spreadParts per start n 0 x.plots)
    { st := s, ok := r.1, bytes := r.2 }
  else if s.masRow (base + start) = 1 then
    let a := base + start
    { st := s, ok := s.resvOk (s.physOf ((a - 0x10000000000) / 0x1000000)) (a % 0x1000000) n, bytes := s.masBytes a n }
  else
    let r := s.cisRead c.tag (base + start) n
    { st := r.2, ok := r.1 = stOk, bytes := r.2.cisBytes (base + start) n }

/-- The channels that a run needs all serve (R429, R450). -/
def State.collOpen (s : State) (c : Coll) (base start n : Nat) : Bool :=
  c.spread || s.masRow (base + start) ≠ 0 || s.cisOpen (base + start) n

/-- Bytes written over the parts of a run. -/
def State.writeParts (s : State) (base : Nat) : List (Nat × Nat × Nat) → List Byte → State
  | [], _ => s
  | (l, off, n) :: ps, bs => (s.resvWrite (s.physOf l) (base + off) (bs.take n)).writeParts base ps (bs.drop n)

def State.collWrite (s : State) (c : Coll) (x : CollGeom) (base per start : Nat) (bs : List Byte) : State :=
  if c.spread then s.writeParts base (spreadParts per start bs.length 0 x.plots) bs
  else if s.masRow (base + start) = 0 then s.cisSend c.tag (base + start) bs
  else s.masWrite c.tag (base + start) bs

/-- Where results go: SCRATCH until the commit under ACCUM (R467). -/
def Coll.outBase (c : Coll) : Nat := if c.accum then c.scratch else c.dst

/-! ### Reductions (R456) -/

/-- Elements of a run of bytes. -/
def elemsOf (esz : Nat) (bs : List Byte) : List Nat :=
  (List.range (bs.length / esz)).map fun i => leNat ((bs.drop (i * esz)).take esz)

/-- A float element as binary32, and back. -/
def asF32 (ty x : Nat) : Word := if ty = 1 then BitVec.ofNat 32 (x * 65536) else BitVec.ofNat 32 x
def ofF32 (ty : Nat) (w : Word) : Nat := if ty = 1 then w.toNat / 65536 else w.toNat

/-- The larger or smaller of two signed words. -/
def pickInt (takeMax : Bool) (a b : Nat) : Nat :=
  if (decide (signedOf 32 a < signedOf 32 b)) = takeMax then b else a

/-- The reduction of one element's contributions. -/
def reduceElem (red ty : Nat) (l : List Nat) : Nat :=
  if ty = 2 then
    (if red = 0 then l.foldl (· + ·) 0 % 2 ^ 32
     else l.tail.foldl (pickInt (red = 1)) (l.headD 0))
  else if red = 0 then
    let x := sumNum (l.map fun v => dec32 (asF32 ty v))
    let y := if l.all (fun v => asF32 ty v = 0x80000000) then Num.fin true 0 0 else x
    if ty = 1 then encIeee .nearest 8 7 127 y else (enc32 y).toNat
  else
    let f := if red = 1 then fmax else fmin
    ofF32 ty (l.tail.foldl (fun (a : Word) (v : Nat) => f a (asF32 ty v)) (asF32 ty (l.headD 0)))

/-- Contributions of equal length reduced element by element. -/
def reduceRuns (red ty esz : Nat) (runs : List (List Byte)) : List Byte :=
  let es := runs.map (elemsOf esz)
  (List.range ((runs.headD []).length / esz)).flatMap fun i => leBytes esz (reduceElem red ty (es.map fun e => e.getD i 0))

/-! ### Collectives of a group -/

def State.coll? (s : State) (g : Nat) (n : Seq) : Option Coll := (s.group g).colls.find? fun c => c.cseq = n
def State.setColl (s : State) (g : Nat) (c : Coll) : State :=
  let x := s.group g
  s.setGroup g { x with colls := x.colls.map fun d => if d.cseq = c.cseq then c else d }

/-- Entry of the collective's list, with its gate and consumer counters. -/
def State.entryBytes (s : State) (c : Coll) : List Byte :=
  match s.listOf c.part (s.part c.part).slot.image with
  | some (_, l) => (l.drop (64 * c.entry)).take 64
  | none => []

/-- The token of a list entry to every plot of the footprint (R459). -/
def State.entryTokens (s : State) (c : Coll) : State :=
  let d := recFld (s.entryBytes c) 0 41 0 6
  if d = 0 then s
  else (s.partPlots c.part).foldl (fun (s : State) (l : Nat) => s.engineToken (.edge edgeConfluence) (s.physOf l) d 1 (s.part c.part).slot.seq) s

/-- An entry of the slot's list has committed or failed. -/
def State.entryDone (s : State) (c : Coll) : State :=
  let p := s.part c.part
  s.setPart c.part { p with slot := { p.slot with listDone := p.slot.listDone ++ [c.entry] } }

/-- A collective ends without a commit: its operation, or the slot that runs its entry, ends with the status. -/
def State.endColl (s : State) (g : Nat) (c : Coll) (st : BitVec 12) (dt : BitVec 16) : State :=
  let s1 := s.dropColl g c.cseq
  let s2 := if st = stCollMismatch then s1.bump ctrMismatches
    else if st = stCollTimeout then s1.bump ctrTimeouts
    else if st = stCollSlowMember then s1.bump ctrSlowNamed
    else if st = stCollAbortPeer then s1.bump ctrPeerAborts else s1
  let s3 := match c.host with
    | some (q, n) =>
        (match s2.op? q n with
          | some o => if o.stage = OpStage.done then s2 else s2.finish o st dt
          | none => s2)
    | none => (s2.entryDone c).abortSlot c.part st dt
  s3.closeIdle g

/-- A failed check recorded (R464, R475, R476). -/
def State.checkFail (s : State) (g : Nat) (c : Coll) (kind rank index : Nat) (port : Nat := 0) : State :=
  let s1 := (s.bump ctrCheckFails).logFirst CF_LOG_VALID 0
    [(CF_LOG_GROUP, g), (CF_LOG_SRANK, rank), (CF_LOG_KIND, kind), (CF_LOG_PORT, port), (CF_LOG_CSEQ, c.cseq.toNat),
     (CF_LOG_INDEX, index)]
  match s1.coll? g c.cseq with
  | some d => s1.setColl g { d with failed := true }
  | none => s1

/-! ### Sending (R462 to R464) -/

/-- CHECK of a chunk: over its payload, then bytes 0 to 11 of its header (R460). -/
def chunkCheck (g rank attempt : Nat) (n : Seq) (index : Nat) (data : List Byte) : Word :=
  crc32c (data ++ cfHeader12 pkChunk g rank n { attempt := attempt, index := index })

/-! ### Seeps (R475) -/

/-- An event that CF_SEEP counts, and whether it is hit: now, or again on a replay under PERSIST. -/
def State.collSeep (s : State) (g : Nat) (c : Coll) (target rank k : Nat) : State × Bool :=
  let h := s.seepEvents .cf 0 1 fun w => seepTarget .cf w = target && (target ≠ 1 || getBits w 8 3 = rank)
  if h.word.any seepPersists then
    (match h.st.coll? g c.cseq with
      | some d => (h.st.setColl g { d with faults := d.faults ++ [(target, rank, k)] }, true)
      | none => (h.st, true))
  else (h.st, h.hit.isSome || c.faults.contains (target, rank, k))

/-- One bit of a run of bytes flipped. -/
def flipRunBit (bs : List Byte) (n : Nat) : List Byte := bs.set (n / 8) (bs.getD (n / 8) 0 ^^^ BitVec.ofNat 8 (2 ^ (n % 8)))

/-- Bytes of chunk k of the stream to rank r: a contribution from SRC, or a result as it was written. -/
def State.chunkOut (s : State) (c : Coll) (x : CollGeom) (r k : Nat) : CollData :=
  let nc := c.contribs x x.me r
  if k < nc then
    s.collRead c x c.src (c.srcPer x) (c.streamStart x r + 4096 * k) (min 4096 (c.streamBytes x x.me r - 4096 * k))
  else
    let j := k - nc
    s.collRead c x c.outBase (c.dstPer x) (c.shardStart x x.me + 4096 * j) (min 4096 (c.shardBytes x x.me - 4096 * j))

/-- The channels serve what chunk k of the stream to rank r is read from. -/
def State.chunkOpen (s : State) (c : Coll) (x : CollGeom) (r k : Nat) : Bool :=
  let nc := c.contribs x x.me r
  if k < nc then s.collOpen c c.src (c.streamStart x r + 4096 * k) (min 4096 (c.streamBytes x x.me r - 4096 * k))
  else s.collOpen c c.outBase (c.shardStart x x.me + 4096 * (k - nc)) (min 4096 (c.shardBytes x x.me - 4096 * (k - nc)))

/-- One chunk sent, with its CHECK; a seep may flip a bit, whichever it is, after CHECK is formed. -/
def State.sendChunk (s : State) (g : Nat) (c : Coll) (x : CollGeom) (r k : Nat) : State :=
  let d := s.chunkOut c x r k
  let check := chunkCheck g x.me c.attempt c.cseq k d.bytes
  let h := d.st.collSeep g c 1 r k
  let bit := Config.freeNat h.1.freeIdx % max 1 (8 * d.bytes.length)
  let data := if h.2 then flipRunBit d.bytes bit else d.bytes
  let s1 : State := if h.2 then { h.1 with freeIdx := h.1.freeIdx + 1 } else h.1
  let head : CfHead := { attempt := c.attempt, index := k, check := check, bulk := c.fld 3 0 1 = 1 }
  let s2 := (s1.cfSend g r c.cseq pkChunk data head).bump ctrChunksTx
  if d.ok then s2 else s2.checkFail g c 2 x.me k

/-- Chunks sent to a rank as far as its window and the results at hand allow. -/
def State.pumpTo (s : State) (g : Nat) (n : Seq) (r : Nat) : Nat → State
  | 0 => s
  | fuel + 1 =>
      match s.coll? g n with
      | none => s
      | some c =>
          let x := s.collGeom g c
          let k := sget 0 c.sent r
          let nc := c.contribs x x.me r
          if k < nc + c.results_ x x.me ∧ k < sget 64 c.window r ∧ (k < nc ∨ c.results.contains (k - nc)) ∧ s.chunkOpen c x r k then
            ((s.setColl g { c with sent := sput 0 c.sent r (k + 1) }).sendChunk g c x r k).pumpTo g n r fuel
          else s

def State.pump (s : State) (g : Nat) (n : Seq) : List Nat → State
  | [] => s
  | r :: rs =>
      match s.coll? g n with
      | some c =>
          let x := s.collGeom g c
          (s.pumpTo g n r (c.contribs x x.me r + c.results_ x x.me)).pump g n rs
      | none => s

/-! ### Votes and the end (R465 to R467) -/

/-- Every chunk has arrived and been checked, every result written, every own chunk sent. -/
def Coll.complete (c : Coll) (x : CollGeom) : Bool :=
  let peers := (List.range x.n).filter (· ≠ x.me)
  peers.all (fun a => (c.chunks.filter fun k => k.1 = a).length = c.contribs x a x.me + c.results_ x a
                      && sget 0 c.sent a = c.contribs x x.me a + c.results_ x x.me)
  && (!c.reducing || c.results.length = chunksIn (c.shardBytes x x.me))

/-- ACCUM's adds: each result element into DST with one ADD_F32 at its channel (R467). -/
def State.accumAdds (s : State) (c : Coll) (start : Nat) : Nat → State
  | 0 => s
  | k + 1 =>
      let s1 := s.accumAdds c start k
      let a := c.dst + start + 4 * k
      let ch := (s1.chanBlock a).1
      let v := BitVec.ofNat 32 (leNat (s1.cisBytes (c.scratch + start + 4 * k) 4))
      let r := (s1.bump ctrAdds ch).cacheBlock ch (a / 64)
      let s2 := if r.1 then r.2 else ((r.2.bump ctrAddMisses ch).readBlock a .clean).2
      s2.cisWrite a (leBytes 4 (fadd (BitVec.ofNat 32 (leNat (s2.cisBytes a 4))) v).toNat)

/-- The commit (R465). -/
def State.commit (s : State) (g : Nat) (c : Coll) : State :=
  let x := s.collGeom g c
  let s1 := if c.accum then s.accumAdds c 0 (c.dstLen x / 4) else s
  let s2 := (s1.dropColl g c.cseq).bump ctrCommitted
  let s3 := match c.host with
    | some (q, n) => (match s2.op? q n with
        | some o => s2.finish o stOk
        | none => s2)
    | none => (if c.released then s2 else s2.entryTokens c).entryDone c
  s3.closeIdle g

/-- A replay from SRC (R466); votes are kept by attempt. -/
def Coll.replay (c : Coll) : Coll :=
  { c with phase := 2, attempt := c.attempt + 1, window := [], sent := [], chunks := [], results := [], failed := false,
           voted := false, released := false }

/-- Own blocks copied to DST (R455). -/
def State.localCopy (s : State) (g : Nat) (c : Coll) : State :=
  let x := s.collGeom g c
  if c.op = 2 ∨ c.op = 4 then
    let d := s.collRead c x c.src (c.srcPer x) (c.streamStart x x.me) (c.bytes x)
    let s1 := d.st.collWrite c x c.dst (c.dstPer x) (x.me * c.bytes x) d.bytes
    if d.ok then s1 else s1.checkFail g c 2 x.me 0
  else s

/-- Position in DST of a chunk that is written as it arrives, and whether it is one. -/
def Coll.place (c : Coll) (x : CollGeom) (a k : Nat) : Option Nat :=
  if c.reducing then
    (if k < c.contribs x a x.me then none else some (c.shardStart x a + 4096 * (k - c.contribs x a x.me)))
  else if c.op = 3 then some (4096 * k)
  else some (a * c.bytes x + 4096 * k)

/-- Length a chunk must have. -/
def Coll.chunkLen (c : Coll) (x : CollGeom) (a k : Nat) : Nat :=
  let nc := c.contribs x a x.me
  if k < nc then min 4096 (c.streamBytes x a x.me - 4096 * k) else min 4096 (c.shardBytes x a - 4096 * (k - nc))

/-- Position in DST of an own result chunk. -/
def Coll.resultAt (c : Coll) (x : CollGeom) (k : Nat) : Nat := if c.op = 1 ∧ !c.spread then 4096 * k else c.shardStart x x.me + 4096 * k

/-- A shard's chunk summed once all contributions are present, written, and its slots granted again (R462, R463). -/
def State.reduceChunk (s : State) (g : Nat) (n : Seq) (k : Nat) : State :=
  match s.coll? g n with
  | none => s
  | some c =>
      let x := s.collGeom g c
      let others := ((List.range x.n).filter (· ≠ x.me)).filterMap fun a => c.chunks.find? fun d => d.1 = a && d.2.1 = k
      if !c.reducing ∨ c.results.contains k ∨ others.length < x.n - 1 ∨ chunksIn (c.shardBytes x x.me) ≤ k then s
      else
        let len := min 4096 (c.shardBytes x x.me - 4096 * k)
        let own := s.collRead c x c.src (c.srcPer x) (c.shardStart x x.me + 4096 * k) len
        let bs := reduceRuns c.red c.ty c.esz (own.bytes :: others.map (·.2.2))
        let s1 := (own.st.collWrite c x c.outBase (c.dstPer x) (c.resultAt x k) bs).setColl g { c with results := c.results ++ [k] }
        let s2 := if own.ok then s1 else s1.checkFail g c 2 x.me k
        let h := s2.collSeep g c 4 0 k
        let s3 := if h.2 then h.1.checkFail g c 1 x.me k else h.1
        (s.peersOf (s.group g)).foldl (fun (s : State) (a : Nat) =>
          let d := (s.coll? g n).getD c
          let res := (d.chunks.filter fun y => y.1 = a && c.contribs x a x.me ≤ y.2.1).length
          s.cfSend g a n pkGrant (leBytes 4 (64 + d.results.length + res)) { attempt := c.attempt }) s3

/-- A chunk that has landed (R464): CHECK is recomputed, and the chunk is kept for its reduction or written to DST. -/
def State.landChunk (s : State) (g : Nat) (n : Seq) (p : ChunkPkt) : State :=
  match s.coll? g n with
  | none => s
  | some c =>
      let x := s.collGeom g c
      let a := p.rank.toNat
      let k := p.index.toNat
      if a = x.me ∨ c.contribs x a x.me + c.results_ x a ≤ k ∨ c.chunks.any (fun d => d.1 = a && d.2.1 = k) then s
      else
        let ok := p.check = chunkCheck g a c.attempt n k p.data && decide (p.data.length = c.chunkLen x a k)
        let s1 := (s.setColl g { c with chunks := c.chunks ++ [(a, k, p.data)] }).bump ctrChunksRx
        let s2 := if ok then s1 else s1.checkFail g c 0 a k p.port.toNat
        match c.place x a k with
        | some off =>
            (s2.collWrite c x c.outBase (c.dstPer x) off p.data).cfSend g a n pkGrant
              (leBytes 4 (64 + c.results.length + ((c.chunks ++ [(a, k, p.data)]).filter fun (d : Nat × Nat × List Byte) =>
                d.1 = a && (!c.reducing || c.contribs x a x.me ≤ d.2.1)).length)) { attempt := c.attempt }
        | none => s2.reduceChunk g n k

def State.landAll (s : State) (g : Nat) (n : Seq) : List ChunkPkt → State
  | [] => s
  | p :: ps => (s.landChunk g n p).landAll g n ps

/-- The channels serve what a chunk's landing reads and writes: its place in DST, or the sum its contribution goes into. -/
def State.landOpen (s : State) (c : Coll) (x : CollGeom) (a k : Nat) : Bool :=
  match c.place x a k with
  | some off => s.collOpen c c.outBase off 4096
  | none =>
      let len := min 4096 (c.shardBytes x x.me - 4096 * k)
      s.collOpen c c.src (c.shardStart x x.me + 4096 * k) len && s.collOpen c c.outBase (c.resultAt x k) len

/-- The channels serve what the local copy reads and writes. -/
def State.copyOpen (s : State) (g : Nat) (c : Coll) : Bool :=
  let x := s.collGeom g c
  !(c.op = 2 || c.op = 4) || (s.collOpen c c.src (c.streamStart x x.me) (c.bytes x) && s.collOpen c c.dst (x.me * c.bytes x) (c.bytes x))

/-- The data phase of an attempt begins: own blocks are copied, the first window is sent, and chunks of the attempt that have landed
before are taken. -/
def State.startData (s : State) (g : Nat) (n : Seq) : State :=
  match s.coll? g n with
  | some c =>
      let now := c.early.filter fun (p : ChunkPkt) => p.attempt.toNat = c.attempt
      let s1 := s.setColl g { c with early := c.early.filter fun (p : ChunkPkt) => p.attempt.toNat ≠ c.attempt }
      ((s1.localCopy g c).pump g n (s.peersOf (s.group g))).landAll g n now
  | none => s

/-- The votes of an attempt, once all are held: a commit, a replay, or COLL_CHECK. -/
def State.tally (s : State) (g : Nat) (n : Seq) : State :=
  match s.coll? g n with
  | none => s
  | some c =>
      let x := s.collGeom g c
      let vs := (List.range x.n).map fun r => sget none c.votes (8 * c.attempt + r)
      if c.stopped ∨ vs.any (·.isNone) then s
      else if vs.all (· = some true) then
        (if c.accum && !s.collOpen c c.dst 0 (c.dstLen x) then s else s.commit g c)
      else if c.eager then
        let s1 := if c.released then s.bump ctrEagerAborts else s
        s1.endColl g c stCollCheck 0
      else if c.attempt < (s.group g).replays then
        ((s.setColl g c.replay).bump ctrReplayed).startData g n
      else s.endColl g c stCollCheck 0

/-- A member that has finished an attempt votes (R465); an eager list entry releases its consumers with its own OK (R466). -/
def State.tryVote (s : State) (g : Nat) (n : Seq) : State :=
  match s.coll? g n with
  | none => s
  | some c =>
      let x := s.collGeom g c
      if c.voted ∨ c.stopped ∨ !c.reserved ∨ !c.complete x then s
      else
        let ok := !c.failed
        let h := s.collSeep g c 5 0 0
        let s1 := if h.2 then h.1 else h.1.cfSendAll g n pkVote (leBytes 1 (if ok then 1 else 0)) c.attempt
        let rel := c.eager && ok
        let c0 := (s1.coll? g n).getD c
        let c1 := { c0 with voted := true, phase := 3, votes := sput none c0.votes (8 * c.attempt + x.me) (some ok), released := rel }
        let s2 := (s1.setColl g c1)
        (if rel then s2.entryTokens c1 else s2).tally g n

/-- Landing slots reserved by all collectives (R463). -/
def State.landing (s : State) : Nat :=
  (s.cf.groups.map fun g => (g.2.colls.filter (·.reserved)).length * 64 * (g.2.size - 1)).foldl (· + ·) 0

/-- The next collective that may reserve: header round passed, every earlier one of its group reserved, and room for 64 slots a
peer among the 4,096 of the landing buffer. -/
def State.nextReserve (s : State) : Option (Nat × Seq) :=
  s.cf.groups.findSome? fun g =>
    match g.2.colls.find? fun c => !c.reserved with
    | some c => if c.phase = 2 ∧ !c.stopped ∧ s.copyOpen g.1 c ∧ s.landing + 64 * (g.2.size - 1) ≤ 4096 then some (g.1, c.cseq) else none
    | none => none

/-- Collectives reserve and begin while any can. -/
def State.reserveAll (s : State) : Nat → State
  | 0 => s
  | fuel + 1 =>
      match s.nextReserve with
      | none => s
      | some (g, n) =>
          match s.coll? g n with
          | none => s
          | some c => (((s.setColl g { c with reserved := true }).startData g n).tryVote g n).reserveAll fuel

/-- Votes that an attempt which has begun anew can already give. -/
def State.voteAll (s : State) : List (Nat × Seq) → State
  | [] => s
  | (g, n) :: l => (s.tryVote g n).voteAll l

/-- The collectives that run. -/
def State.running (s : State) : List (Nat × Seq) := s.cf.groups.flatMap fun x => x.2.colls.map fun c => (x.1, c.cseq)

/-- Collectives that wait are served after every event. -/
def State.settleColls (s : State) : State :=
  let s1 := s.reserveAll (s.running.length + 1)
  s1.voteAll s1.running

/-- Collectives that wait behind a channel in repair are tried again (R450). -/
def State.retryColls (s : State) : List (Nat × Seq) → State
  | [] => s.settleColls
  | (g, n) :: l =>
      match s.coll? g n with
      | some c => (if c.reserved && !c.stopped then ((s.pump g n (s.peersOf (s.group g))).tryVote g n).tally g n else s).retryColls l
      | none => s.retryColls l

/-! ### The header round (R461) -/

/-- HASH of a collective: bits [63:0] of the digest of body bytes 0 to 15 with TLIMIT zero, and for a list entry the IMAGE_ID and
entry index. -/
def State.collHash (s : State) (c : Coll) : DWord :=
  let m := c.body.take 12 ++ leBytes 4 0
  let ident := if c.host.isNone then
      leBytes 4 (sget ({} : ImageRec) s.ctx.images (s.part c.part).slot.image).imageId.toNat ++ leBytes 4 c.entry
    else []
  BitVec.ofNat 64 (leNat ((beBytes 32 (sha256 (m ++ ident)).toNat).take 8))

/-- The HEADER this member sends. -/
def State.ownHeader (s : State) (g : Nat) (c : Coll) : HeaderPkt :=
  { count := c.total (s.collGeom g c), type_ := BitVec.ofNat 2 c.ty, op := BitVec.ofNat 4 c.op, red := BitVec.ofNat 4 c.red,
    hash := s.collHash c, refused := c.refused }

def headerBytes (h : HeaderPkt) : List Byte :=
  leBytes 8 h.count ++ leBytes 1 h.type_.toNat ++ leBytes 1 (h.op.toNat + 16 * h.red.toNat)
  ++ leBytes 1 (if h.refused then 1 else 0) ++ leBytes 5 0 ++ leBytes 8 h.hash.toNat

/-- First differing field of the headers held, as the completion's detail names it; 0 where all agree. -/
def headerDiff (own : HeaderPkt) (l : List HeaderPkt) : Nat :=
  if l.any (·.count ≠ own.count) then 1
  else if l.any (·.type_ ≠ own.type_) then 2
  else if l.any (fun h => h.op ≠ own.op || h.red ≠ own.red) then 3
  else if l.any (·.hash ≠ own.hash) then 4
  else if l.any (·.refused) then 5 else 0

/-- The comparison once a HEADER of every member is held. -/
def State.compareHeaders (s : State) (g : Nat) (n : Seq) : State :=
  match s.coll? g n with
  | none => s
  | some c =>
      let hs := (s.peersOf (s.group g)).map fun r => sget none c.headers r
      if c.phase ≠ 1 ∨ hs.any (·.isNone) then s
      else
        let d := headerDiff (s.ownHeader g c) (hs.filterMap id)
        if d = 0 then s.setColl g { c with phase := 2 }
        else (s.cfSendAll g n pkAbort (leBytes 2 stCollMismatch.toNat)).endColl g c stCollMismatch (BitVec.ofNat 16 d)

/-- Names the slowest member from the snapshots (R471): the lowest phase, then the fewest chunks, then the lowest rank. -/
def slowest : List (Nat × Nat × Nat) → Nat
  | [] => 0
  | x :: xs => (xs.foldl (fun (b : Nat × Nat × Nat) (y : Nat × Nat × Nat) =>
      if y.2.1 < b.2.1 ∨ (y.2.1 = b.2.1 ∧ y.2.2 < b.2.2) then y else b) x).1

/-- Detail of COLL_SLOW_MEMBER: rank and module. -/
def slowDetail (x : Group) (r : Nat) : BitVec 16 := BitVec.ofNat 16 (r + 8 * x.members.getD r 0)

/-- A collective that a peer ended before this member reached it. -/
def State.endedBefore (s : State) (g : Nat) (n : Seq) : Option (BitVec 12 × BitVec 16) :=
  let x := s.group g
  if x.broken then some (stCollAbortPeer, 0)
  else match x.aborted.find? fun a => a.1 = n with
    | none => none
    | some a =>
        if a.2 = stCollSlowMember then
          let sn := (x.earlySnaps.filter fun e => e.1 = n).map (·.2)
          let ranks := (s.peersOf x).filterMap fun r => sn.find? fun e => e.1 = r
          if ranks.length = x.size - 1 then
            some (stCollSlowMember, slowDetail x (slowest (((s.myRank x, 0, 0) :: ranks))))
          else some (stCollTimeout, 0)
        else some (a.2, 0)

/-- A collective starts on this member (R452, R461). -/
def State.startColl (s : State) (g : Nat) (c0 : Coll) (deny_ : Option (BitVec 16)) : State :=
  let x := s.group g
  let n := x.nextSeq
  let c := { c0 with cseq := n, refused := deny_.isSome }
  let s1 := s.setGroup g { x with nextSeq := n + 1 }
  match s1.endedBefore g n with
  | some (st, dt) => s1.endColl g c st dt
  | none =>
      let s2 := s1.cfSendAll g n pkHeader (headerBytes (s1.ownHeader g c))
      match deny_ with
      | some d => s2.endColl g c stDenied d
      | none =>
          let mine := s2.cf.early.filter fun e => e.1 = g && e.2.2.1 = n
          let hs := mine.foldl (fun (m : Sparse (Option HeaderPkt)) e => sput none m e.2.1 (some e.2.2.2)) []
          let y := s2.group g
          let s3 := s2.setGroup g { y with colls := y.colls ++ [{ c with headers := hs }] }
          let s4 := { s3 with cf := { s3.cf with early := s3.cf.early.filter fun e => !(e.1 = g && e.2.2.1 = n) } }
          (s4.compareHeaders g n).settleColls

/-! ### Checks (R457) -/

/-- The parts of R457 that the body alone decides. -/
def Coll.bodyOk (c : Coll) : Bool :=
  c.op < 6 && c.red < 3 && (c.reducing || c.red = 0) && !(c.reducing && c.ty = 3)
  && !(c.accum && !(c.reducing && c.red = 0 && c.ty = 0)) && !(c.accum && c.spread)
  && c.count ≤ 2 ^ 28 && (c.op ≠ 5 || c.count = 0)

/-- Rights of a host collective on a range: the tenant's Cistern granules, or columns of its partitions. -/
def State.hostRange (s : State) (t : TenantNo) (a n : Nat) : Option (BitVec 16) :=
  if n = 0 then none
  else if s.masRow a = 1 ∧ s.masRow (a + n - 1) = 1 then
    let l := (a - 0x10000000000) / 0x1000000
    if l = (a + n - 1 - 0x10000000000) / 0x1000000 then
      (if (s.partOf l).any (fun p => s.partTenant p = t) then none else some dtTenant)
    else some 0
  else s.rangeDetail t a n

/-- Rights of a list entry on a range under its image (R148, R457). -/
def State.entryRange (s : State) (c : Coll) (write : Bool) (a n per : Nat) : Option (BitVec 16) :=
  let img := (s.part c.part).slot.img
  if n = 0 then none
  else if c.spread then (if a + per ≤ imgBudget img * 65536 then none else some 0)
  else if windowOk img (s.slotRegion c.part) write a n && s.masRow a = s.masRow (a + n - 1)
          && (s.masRow a = 1 || (s.masRow a = 0
              && allGranules (fun g => !s.granSystem g) (a / 2 ^ 26) ((a + n - 1) / 2 ^ 26 - a / 2 ^ 26 + 1))) then none
  else some 0

/-- Every check of R457 for a collective that starts. -/
def State.collDenied (s : State) (g : Nat) (c : Coll) : Option (BitVec 16) :=
  let x := s.collGeom g c
  let t := (s.group g).tenant
  let range := fun (w : Bool) (a n per : Nat) => if c.host.isSome then s.hostRange t a n else s.entryRange c w a n per
  let sl := if c.spread then c.srcPer x else c.srcLen x
  let dl := if c.spread then c.dstPer x else c.dstLen x
  if !c.bodyOk ∨ (c.host.isSome ∧ c.spread) then some 0
  else if c.op ≠ 5 ∧ !apart c.src sl c.dst dl then some 0
  else if c.accum ∧ s.masRow c.dst ≠ 0 then some 0
  else
    match range false c.src (c.srcLen x) (c.srcPer x), range true c.dst (c.dstLen x) (c.dstPer x),
          (if c.accum then range true c.scratch (c.dstLen x) 0 else none) with
    | some d, _, _ => some d
    | _, some d, _ => some d
    | _, _, some d => some d
    | none, none, none => none

/-! ### Host operations -/

/-- CF_GROUP_OPEN (R451). -/
def execCfGroupOpen (q : RingNo) (n : Seq) (s : State) : Answer :=
  s.opRow q n 0x30 fun s o =>
    let g := o.fld 16 0 6
    let mask := BitVec.ofNat 8 (o.fld 17 0 8)
    let x : Group := { isOpen := true, mask := mask, part := o.fld 18 0 7, hostUse := o.fld 18 7 1 = 1,
                       replays := o.fld 19 0 2, nameMode := o.fld 19 2 1 = 1, tlimit := o.fld 20 0 32, tenant := o.tenant s }
    if (s.group g).isOpen ∨ !mask.getLsbD s.moduleId ∨ x.size < 2 ∨ x.tlimit = 0 ∨ (!x.hostUse ∧ 64 ≤ x.part) then
      s.refuseOp o (stDenied, 0)
    else if !x.hostUse ∧ s.partTenant x.part ≠ o.tenant s then s.refuseOp o (stDenied, dtTenant)
    else if (x.members.filter (· ≠ s.moduleId)).any fun m => (s.bundle m).isEmpty then s.refuseOp o (stFenced, 0)
    else (s.setGroup g x).finish o stOk

/-- CF_GROUP_CLOSE (R451). -/
def execCfGroupClose (q : RingNo) (n : Seq) (s : State) : Answer :=
  s.opRow q n 0x31 fun s o =>
    let g := o.fld 16 0 6
    let x := s.group g
    if !x.isOpen ∨ x.closing.isSome then s.refuseOp o (stDenied, 0)
    else if x.tenant ≠ o.tenant s then s.refuseOp o (stDenied, dtTenant)
    else ((s.begin_ o).setGroup g { x with closing := some (q, n) }).closeIdle g

/-- COLLECTIVE (R454, R457, R461). -/
def execCollective (q : RingNo) (n : Seq) (s : State) : Answer :=
  s.opRow q n 0x32 fun s o =>
    let g := o.fld 16 0 6
    let x := s.group g
    let c : Coll := { cseq := 0, body := leBytes 40 (o.fld 16 0 320), host := some (q, n) }
    if !x.isOpen ∨ !x.hostUse ∨ x.closing.isSome then s.refuseOp o (stDenied, 0)
    else (s.begin_ o).startColl g c (if x.tenant ≠ o.tenant s then some dtTenant else s.collDenied g c)

/-- CF_LIST_REGISTER (R458): every entry is checked as far as it decides. -/
def execCfListRegister (q : RingNo) (n : Seq) (s : State) : Answer :=
  s.opRow q n 0x33 fun s o =>
    let g := o.fld 20 0 6
    let x := s.group g
    let id := BitVec.ofNat 32 (o.fld 16 0 32)
    let ents := o.fld 32 0 9
    let a := o.fld 24 0 48
    match s.ctx.images.find? (fun i => i.2.imageId = id && i.2.tenant = o.tenant s) with
    | none =>
        let d := if s.ctx.images.any (fun i => decide (i.2.imageId = id)) then dtTenant else 0
        s.refuseOp o (stDenied, d)
    | some (k, im) =>
        if ents = 0 ∨ 256 < ents ∨ !x.isOpen then s.refuseOp o (stDenied, 0)
        else if x.tenant ≠ o.tenant s then s.refuseOp o (stDenied, dtTenant)
        else match s.rangeDetail (o.tenant s) a (64 * ents) with
          | some d => s.refuseOp o (stDenied, d)
          | none =>
              let st := s.cisStatus a (64 * ents)
              let l := s.cisBytes a (64 * ents)
              let ok := (List.range ents).all fun e =>
                let c : Coll := { cseq := 0, body := (l.drop (64 * e)).take 40 }
                c.bodyOk && c.fld 0 0 6 = g
                && (c.spread || (s.masRow c.src ≠ 2 && s.masRow c.dst ≠ 2 && (!c.accum || s.masRow c.dst = 0)))
              if st ≠ stOk then s.refuseOp o (st, 0)
              else if !ok then s.refuseOp o (stDenied, 0)
              else
                let im1 : ImageRec := { im with listGroup := some (BitVec.ofNat 6 g) }
                let s1 := { s with ctx := { s.ctx with images := sput ({} : ImageRec) s.ctx.images k im1 },
                                   cf := { s.cf with lists := sput [] s.cf.lists k l } }
                s1.finish o stOk

/-! ### Lists (R459) -/

/-- Entries of a slot's list that have started. -/
def State.entriesStarted (s : State) (g p : Nat) : Nat :=
  (s.part p).slot.listDone.length + ((s.group g).colls.filter fun c => c.host.isNone && c.part = p).length

/-- LIST_ENTRY_START: the next entry of the slot's list starts when its gate has opened on every plot of the footprint. -/
def execListEntryStart (part : PartNo) (s : State) : Answer :=
  s.issue fun s =>
    let p := part.toNat
    let slot := (s.part p).slot
    match s.listOf p slot.image with
    | none => s
    | some (g, l) =>
        let e := s.entriesStarted g p
        if slot.phase ≠ .running ∨ l.length / 64 ≤ e then s
        else
          let b := (l.drop (64 * e)).take 64
          let ctr := recFld b 0 40 0 6
          let v := BitVec.ofNat 32 (recFld b 0 44 0 32)
          let gate := decide (ctr = 0) || (s.partPlots p).all fun k => reached ((s.plot (s.physOf k)).counter ctr) v
          if gate then
            let c : Coll := { cseq := 0, body := b.take 40, part := p, entry := e }
            s.startColl g c (s.collDenied g c)
          else s

/-! ### Packets -/

/-- HEADER: held for a collective that runs, or until it starts; for a group that is not open at most 64 a peer (R453). -/
def execHeader (group : BitVec 6) (rank : BitVec 3) (n : Seq) (h : HeaderPkt) (s : State) : Answer :=
  s.issue fun s =>
    let g := group.toNat
    let r := rank.toNat
    match s.coll? g n with
    | some c => ((s.setColl g { c with headers := sput none c.headers r (some h) }).compareHeaders g n).settleColls
    | none =>
        let x := s.group g
        let held := (s.cf.early.filter fun e => !(s.group e.1).isOpen && e.2.1 = r).length
        if x.isOpen && !(n = x.nextSeq || follows n x.nextSeq) then s
        else if !x.isOpen && 64 ≤ held then s
        else { s with cf := { s.cf with early := s.cf.early ++ [(g, r, n, h)] } }

/-- CHUNK (R464, R450): a chunk that lands in its reserved slot is checked and written or summed once the channels it needs serve; one
of the attempt to come is kept for it. -/
def execChunk (group : BitVec 6) (n : Seq) (p : ChunkPkt) (s : State) : Answer :=
  s.issue fun s =>
    let g := group.toNat
    match s.coll? g n with
    | none => s
    | some c =>
        let x := s.collGeom g c
        if c.stopped ∨ p.attempt.toNat < c.attempt then s
        else if c.attempt < p.attempt.toNat then s.setColl g { c with early := c.early ++ [p] }
        else if s.landOpen c x p.rank.toNat p.index.toNat then
          ((((s.landChunk g n p).pump g n (s.peersOf (s.group g))).tryVote g n)).settleColls
        else s

/-- GRANT: a peer's window advances (R463). -/
def execGrant (group : BitVec 6) (rank : BitVec 3) (n : Seq) (upto : Nat) (s : State) : Answer :=
  s.issue fun s =>
    let g := group.toNat
    match s.coll? g n with
    | none => s
    | some c =>
        let w := max (sget 64 c.window rank.toNat) upto
        let s1 := s.setColl g { c with window := sput 64 c.window rank.toNat w }
        if c.reserved && !c.stopped then ((s1.pump g n [rank.toNat]).tryVote g n).settleColls else s1

/-- VOTE (R465, R466). -/
def execVote (group : BitVec 6) (rank : BitVec 3) (n : Seq) (attempt : BitVec 2) (ok : Bool) (s : State) : Answer :=
  s.issue fun s =>
    let g := group.toNat
    match s.coll? g n with
    | none => s
    | some c =>
        let votes := sput none c.votes (8 * attempt.toNat + rank.toNat) (some ok)
        ((s.setColl g { c with votes := votes }).tally g n).settleColls

/-- A collective that a peer ends: now where it runs, at once when it is reached otherwise. -/
def State.abortColl (s : State) (g : Nat) (n : Seq) (st : BitVec 12) : State :=
  match s.coll? g n with
  | some c => (s.endColl g c st 0).settleColls
  | none =>
      let x := s.group g
      if x.isOpen && (n = x.nextSeq || follows n x.nextSeq) then s.setGroup g { x with aborted := x.aborted ++ [(n, st)] } else s

/-- ABORT (R461, R470, R474). -/
def execAbort (group : BitVec 6) (_rank : BitVec 3) (n : Seq) (st : BitVec 12) (s : State) : Answer :=
  s.issue fun s =>
    if st = stCollMismatch ∨ st = stCollTimeout ∨ st = stCollAbortPeer then s.abortColl group.toNat n st else s

/-- Chunks a member has sent and checked (R471). -/
def Coll.progress (c : Coll) : Nat := c.chunks.length + (c.sent.map (·.2)).foldl (· + ·) 0

/-- A collective stops and the member sends its SNAPSHOT to every member. -/
def State.stopColl (s : State) (g : Nat) (c : Coll) : State :=
  if c.stopped then s
  else
    let me := s.myRank (s.group g)
    let c1 := { c with stopped := true, snaps := sput none c.snaps me (some (c.phase, c.progress)) }
    (s.setColl g c1).cfSendAll g c.cseq pkSnapshot (leBytes 1 c.phase ++ leBytes 4 c.progress) c.attempt

/-- A collective whose every SNAPSHOT is held ends with COLL_SLOW_MEMBER. -/
def State.nameSlowest (s : State) (g : Nat) (n : Seq) : State :=
  match s.coll? g n with
  | none => s
  | some c =>
      let x := s.group g
      let sn := (List.range x.size).filterMap fun r => (sget none c.snaps r).map fun v => (r, v.1, v.2)
      if c.stopped && sn.length = x.size then s.endColl g c stCollSlowMember (slowDetail x (slowest sn)) else s

/-- STOP (R471): a member that has not reached the collective replies with phase 0. -/
def execStop (group : BitVec 6) (_rank : BitVec 3) (n : Seq) (s : State) : Answer :=
  s.issue fun s =>
    let g := group.toNat
    match s.coll? g n with
    | some c => ((s.stopColl g c).nameSlowest g n).settleColls
    | none =>
        let x := s.group g
        if x.isOpen && (n = x.nextSeq || follows n x.nextSeq) && !x.aborted.any (fun a => a.1 = n) then
          (s.cfSendAll g n pkSnapshot (leBytes 1 0 ++ leBytes 4 0)).setGroup g { x with aborted := x.aborted ++ [(n, stCollSlowMember)] }
        else s

/-- SNAPSHOT (R471). -/
def execSnapshot (group : BitVec 6) (rank : BitVec 3) (n : Seq) (phase : BitVec 2) (chunks : Nat) (s : State) : Answer :=
  s.issue fun s =>
    let g := group.toNat
    match s.coll? g n with
    | some c =>
        ((s.setColl g { c with snaps := sput none c.snaps rank.toNat (some (phase.toNat, chunks)) }).nameSlowest g n).settleColls
    | none =>
        let x := s.group g
        if x.isOpen && (n = x.nextSeq || follows n x.nextSeq) then
          s.setGroup g { x with earlySnaps := x.earlySnaps ++ [(n, rank.toNat, phase.toNat, chunks)] }
        else s

/-- COLL_TIME_LIMIT (R469 to R471). -/
def execCollTimeLimit (group : BitVec 6) (n : Seq) (s : State) : Answer :=
  s.issue fun s =>
    let g := group.toNat
    match s.coll? g n with
    | none => s
    | some c =>
        if c.voted ∨ c.stopped then s
        else if (s.group g).nameMode then ((s.cfSendAll g n pkStop [] c.attempt).stopColl g c).settleColls
        else ((s.cfSendAll g n pkAbort (leBytes 2 stCollTimeout.toNat) c.attempt).endColl g c stCollTimeout 0).settleColls

/-- SNAPSHOT_TIMEOUT (R471). -/
def execSnapshotTimeout (group : BitVec 6) (n : Seq) (s : State) : Answer :=
  s.issue fun s =>
    match s.coll? group.toNat n with
    | none => s
    | some c => if c.stopped then (s.endColl group.toNat c stCollTimeout 0).settleColls else s

/-! ### Peers that leave (R453, R473) -/

/-- Every uncommitted collective of a group ends with COLL_ABORT_PEER. -/
def State.endAll (s : State) (g : Nat) : List Coll → State
  | [] => s
  | c :: cs =>
      match s.coll? g c.cseq with
      | some d => (s.endColl g d stCollAbortPeer 0).endAll g cs
      | none => s.endAll g cs

/-- Groups that a lost peer belongs to become BROKEN. -/
def State.breakGroups (s : State) (m : Nat) : List Nat → State
  | [] => s
  | g :: gs =>
      let x := s.group g
      if x.isOpen && x.mask.getLsbD m then
        ((s.setGroup g { x with broken := true }).endAll g x.colls).breakGroups m gs
      else s.breakGroups m gs

/-- A peer is unreachable. -/
def State.peerLost (s : State) (m : Nat) : State :=
  if m = s.moduleId then s else (s.breakGroups m (s.cf.groups.map (·.1))).settleColls

end Sys2Proof.Machine
end

