-- ==== Sys2Proof/Machine/Link.lean ====
section
/-! DEFINITION. Flits and training of the Confluence ports and Dexlink halves (R441 to R448, R524 to R527, R562, R587). -/

namespace Sys2Proof.Machine

def lkDisabled : Nat := 0
def lkTraining : Nat := 1
def lkUp : Nat := 2
def lkFailed : Nat := 3

/-- Number of a link: port p, or 8 + half (LinkRec). -/
def linkIdx : Link → Nat
  | .cf p => p.toNat
  | .dex h => 8 + h.toNat

def State.linkState (s : State) (l : Link) : Nat :=
  match l with
  | .cf p => s.rd CF_PORT_STATE p.toNat
  | .dex h => s.rd DEX_HALF_STATE h.toNat

/-- A half's state; under SPLIT 0 both halves report the link's (R530). -/
def State.setHalf (s : State) (h st : Nat) : State :=
  if s.flag DEX_CTL_SPLIT then s.wr DEX_HALF_STATE h st
  else (s.wr DEX_HALF_STATE 0 st).wr DEX_HALF_STATE 1 st

/-! ### Failing and retraining -/

/-- A module can still be reached: a port of its bundle is UP, or retrains and keeps its flits (R443). -/
def State.reachable (s : State) (m : Nat) : Bool :=
  (List.range 8).any fun p => s.rd CF_PORT_PEER p = m
    && (s.rd CF_PORT_STATE p = lkUp || (s.rd CF_PORT_STATE p = lkTraining && 0 < (s.link p).keys))

/-- Packets that wait on a port that fails go to the lowest port left in its bundle (DESIGN CHOICE, log entry 110). -/
def State.moveTx (s : State) (p : Nat) (bundle : List Nat) : State :=
  let x := s.link p
  match bundle.filter (· ≠ p) with
  | [] => s
  | q :: _ => ((s.setLink p { x with txq := [] }).setLink q { s.link q with txq := (s.link q).txq ++ x.txq }).drainFlits q

/-- A port goes FAILED; when it was the last to its peer, the peer is lost (R444, R445, R473). -/
def State.failPort (s : State) (p reason : Nat) : State :=
  let known := 0 < (s.link p).keys
  let m := s.rd CF_PORT_PEER p
  let s1 := ((s.wr CF_PORT_STATE p lkFailed).wr CF_PORT_REASON p reason).moveTx p (s.bundle m)
  if known && !s1.reachable m then s1.peerLost m else s1

/-- A half goes FAILED: DEX_DOWN is raised and the module stops (R527). -/
def State.failHalf (s : State) (h reason : Nat) : State :=
  (((s.setHalf h lkFailed).wr DEX_HALF_REASON h reason).raise evDexDown).stop causeDexlink h

/-- A link that is UP retrains (R444, R526). -/
def State.retrainLink (s : State) (l : Link) : State :=
  if s.linkState l ≠ lkUp then s
  else match l with
    | .cf p => ((s.wr CF_PORT_STATE p.toNat lkTraining).bump ctrPortRetrains p.toNat)
    | .dex h =>
        let s1 := (s.setHalf h.toNat lkTraining).bump ctrHalfRetrains h.toNat
        s1.setLink (linkIdx l) { s1.link (linkIdx l) with trained := false }

/-! ### Flits (R443, R446, R448) -/

/-- A received flit that is discarded asks for a replay. -/
def State.sendNak (s : State) (l : Link) : State := s.emit (.flitNak l (s.link (linkIdx l)).lastGood)

/-- A flit that fails its CRC: it and every later flit are discarded until the replay; 16 failures of one flit in succession retrain
the link. -/
def State.badFlit (s : State) (l : Link) (f : FlitIn) : State :=
  let x := s.link (linkIdx l)
  let s0 := match l with
    | .dex h => s.dexLog h.toNat 0 0 0
    | .cf _ => s
  if x.replaying && f.fseq ≠ x.lastGood + 1 then s0
  else
    let n := x.fails + 1
    let s1 := (s0.setLink (linkIdx l) { x with replaying := true, fails := n }).sendNak l
    if 16 ≤ n then (s1.setLink (linkIdx l) { s1.link (linkIdx l) with fails := 0 }).retrainLink l else s1

/-- What the header of a good flit says to the sender here: credits, and a replay from ACK + 1 where NAK is set. -/
def State.flitHeader (s : State) (l : Link) (f : FlitIn) : State :=
  let x := s.link (linkIdx l)
  let s1 := s.setLink (linkIdx l) { x with freed := sput (0 : BitVec 12) x.freed f.cvc.toNat f.credit }
  let s2 := if f.nak then s1.replayFlits (linkIdx l) (f.ack + 1) else s1
  s2.drainFlits (linkIdx l)

/-- A packet whose tag fails is discarded and replayed; a second failure fails the link (R446, R527). -/
def State.tagFail (s : State) (l : Link) : State :=
  let x := s.link (linkIdx l)
  match l with
  | .cf p =>
      let s1 := (s.bump ctrPortTagFails p.toNat).logFirst CF_LOG_VALID 0
        [(CF_LOG_GROUP, 0), (CF_LOG_SRANK, 0), (CF_LOG_KIND, 3), (CF_LOG_PORT, p.toNat), (CF_LOG_CSEQ, 0), (CF_LOG_INDEX, 0)]
      if x.tagFailed then s1.failPort p.toNat 6
      else (s1.setLink (linkIdx l) { x with tagFailed := true, replaying := true, lastGood := x.sopPrev }).sendNak l
  | .dex h =>
      let s1 := (s.bump ctrHalfTagFails h.toNat).dexLog h.toNat 1 0 0
      if x.tagFailed then s1.failHalf h.toNat 5
      else (s1.setLink (linkIdx l) { x with tagFailed := true, replaying := true, lastGood := x.sopPrev }).sendNak l

/-- A flit accepted in order: it is counted and its buffer freed; with the last flit of a packet its tag and its sense are judged. -/
def State.takeFlit (s : State) (l : Link) (f : FlitIn) : State :=
  let x := s.link (linkIdx l)
  let prev := if f.sop then x.lastGood else x.sopPrev
  let x1 := { x with lastGood := f.fseq, replaying := false, fails := 0, sopPrev := prev }
  if f.vc = 3 then s.setLink (linkIdx l) x1
  else
    let freed := sput (0 : BitVec 12) x1.rxFreed f.vc.toNat (sget (0 : BitVec 12) x1.rxFreed f.vc.toNat + 1)
    let s1 := (s.setLink (linkIdx l) { x1 with rxFreed := freed }).bump
      (match l with | .cf _ => ctrPortFlitsRx | .dex _ => ctrHalfFlitsRx) (match l with | .cf p => p.toNat | .dex h => h.toNat)
    if !f.eop then s1
    else if !f.tagOk then s1.tagFail l
    else if !f.protoOk then s1.stop causePeer (match l with | .cf p => p.toNat | .dex h => h.toNat)
    else match l with
      | .dex _ => s1.setLink (linkIdx l) { s1.link (linkIdx l) with tagFailed := false }
      | .cf _ => s1

/-! ### Lanes (R445, R526) -/

/-- A failing lane: a Confluence port moves it to a free spare or fails; a Dexlink half retrains. -/
def State.laneFail (s : State) (l : Link) (lane : Nat) : State :=
  if s.linkState l ≠ lkUp then s
  else match l with
    | .cf p =>
        let n := p.toNat
        let s1 := s.logFirst CF_LOG_VALID 0
          [(CF_LOG_GROUP, 0), (CF_LOG_SRANK, 0), (CF_LOG_KIND, 4), (CF_LOG_PORT, n), (CF_LOG_CSEQ, 0), (CF_LOG_INDEX, 0)]
        if s.rd CF_PORT_SPARED n = lane ∨ (lane = 8 ∧ s.rd CF_PORT_SPARED n = 15) ∨ 8 < lane then s
        else if s.rd CF_PORT_SPARED n = 15 then (s1.wr CF_PORT_SPARED n lane).bump ctrLaneSwaps n
        else s1.failPort n 5
    | .dex h => (s.dexLog h.toNat 2 0 lane).retrainLink l

/-- A lane seep counts the flits received on its link (R475, R530). -/
def State.laneSeep (s : State) (l : Link) : SeepHit :=
  match l with
  | .cf p => s.seepEvents .cf 0 1 fun w => seepTarget .cf w = 3 && getBits w 5 3 = p.toNat
  | .dex h => s.seepEvents .dex 0 1 fun w => seepTarget .dex w = 2 && getBits w 4 1 = h.toNat

/-- Lane that a seep fails: DEX_SEEP names it, of a Confluence port any may be the one. -/
def seepLane (l : Link) (w : DWord) (free : Nat) : Nat :=
  match l with
  | .cf _ => Config.freeNat free % 8
  | .dex _ => getBits w 5 3

/-- FLIT: a flit received on a link that is UP. -/
def execFlit (l : Link) (f : FlitIn) (s : State) : Answer :=
  s.issue fun s =>
    if s.linkState l ≠ lkUp then s
    else
      let h := s.laneSeep l
      let s1 := match h.word with
        | some w => h.st.laneFail l (seepLane l w h.st.freeIdx)
        | none => h.st
      if s1.linkState l ≠ lkUp then s1
      else if !f.crcOk then s1.badFlit l f
      else if f.fseq = (s1.link (linkIdx l)).lastGood + 1 then ((s1.takeFlit l f).flitHeader l f).idleFlit (linkIdx l)
      else s1

def execLaneFail (l : Link) (lane : BitVec 4) (s : State) : Answer := s.issue fun s => s.laneFail l lane.toNat

/-! ### Keys and training (R444, R526, R562) -/

/-- A link key agreed. -/
def State.newKey (s : State) (l : Link) : State :=
  (s.setLink (linkIdx l) { s.link (linkIdx l) with keys := (s.link (linkIdx l)).keys + 1 }).bump ctrLinkAgreements

/-- REKEY (R446). -/
def execRekey (l : Link) (s : State) : Answer := s.issue fun s => if s.linkState l = lkUp then s.newKey l else s

/-- Reason a port's training fails, by the first step that does; 0 where it passes (R444). -/
def portReason (e : TrainEnv) : Nat :=
  if !e.signal then 1
  else if 1 < e.failedLanes.length then 5
  else if !e.boardOk then 4
  else if !e.versionOk then 3
  else if !(e.attestOk && e.svnOk) then 6
  else if 2000 < e.loopNs then 2 else 0

/-- What a seep makes of the next link agreement: a signature that does not verify (R577). -/
def State.seepAgree (s : State) (e : TrainEnv) : TrainEnv × State :=
  let h := s.seepOne .wm 0 2
  (if h.hit.isSome then { e with attestOk := false } else e, h.st)

/-- CF_PORT_TRAIN (R444). -/
def execCfPortTrain (port : BitVec 3) (e : TrainEnv) (s : State) : Answer :=
  s.issue fun s =>
    let p := port.toNat
    if s.rd CF_PORT_STATE p ≠ lkTraining then s
    else
      let (e, s) : TrainEnv × State := s.seepAgree e
      if portReason e = 6 then (s.wmLog 4 0 0 0).failPort p 6
      else if portReason e ≠ 0 then s.failPort p (portReason e)
      else
        let s1 := s.wrs p [(CF_PORT_STATE, lkUp), (CF_PORT_REASON, 0), (CF_PORT_PEER, e.peer.toNat),
          (CF_PORT_PEER_PORT, e.peerPort.toNat), (CF_PORT_LOOP, e.loopNs), (CF_PORT_SPARED, e.failedLanes.headD 15)]
        let s2 : State := { s1 with boot := { s1.boot with portUp := true } }
        ((s2.newKey (.cf port)).raise evCfPort).drainFlits p

/-- Reason a half's training fails (R526). -/
def halfReason (e : TrainEnv) : Nat :=
  if !e.signal then 1
  else if 1 < e.failedLanes.length then 4
  else if !e.versionOk then 3
  else if !(e.attestOk && e.svnOk) then 5
  else if 2000 < e.loopNs then 2 else 0

/-- A half passes or fails its training (R526); under SPLIT 0 the link is UP once both halves have passed. -/
def State.dexHalfTrain (s : State) (half : BitVec 1) (e : TrainEnv) : State :=
  let h := half.toNat
  if s.rd DEX_HALF_STATE h ≠ lkTraining then s
  else
    let (e, s) : TrainEnv × State := s.seepAgree e
    if halfReason e = 5 then (s.wmLog 4 0 0 0).failHalf h 5
    else if halfReason e ≠ 0 then s.failHalf h (halfReason e)
    else
      let s1 := s.wrs h [(DEX_HALF_REASON, 0), (DEX_HALF_LOOP, e.loopNs), (DEX_HALF_SPARED, e.failedLanes.headD 15)]
      let s2 := s1.newKey (.dex half)
      let s3 := s2.setLink (8 + h) { s2.link (8 + h) with trained := true }
      if s3.flag DEX_CTL_SPLIT then (s3.wr DEX_HALF_STATE h lkUp).drainFlits (8 + h)
      else if (s3.link 8).trained && (s3.link 9).trained then ((s3.setHalf h lkUp).drainFlits 8).drainFlits 9 else s3

/-! ### Enables by register (R444, R526) -/

/-- ENABLE written to a port: a DISABLED port trains; a port whose ENABLE is cleared is DISABLED. -/
def State.portEnable (s : State) (p : Nat) : State :=
  let s1 := s.wr CF_PORT_ENABLE p 1
  if s.rd CF_PORT_STATE p = lkDisabled then s1.wr CF_PORT_STATE p lkTraining else s1

def State.portDisable (s : State) (p : Nat) : State :=
  let m := s.rd CF_PORT_PEER p
  let known := 0 < (s.link p).keys
  let s1 := ((s.wr CF_PORT_ENABLE p 0).wr CF_PORT_STATE p lkDisabled).setLink p {}
  if known && !s1.reachable m then s1.peerLost m else s1

/-- EN_A or EN_B written. -/
def State.halfEnable (s : State) (h : Nat) : State :=
  let s1 := s.wr (if h = 0 then DEX_CTL_EN_A else DEX_CTL_EN_B) 0 1
  if s.rd DEX_HALF_STATE h = lkDisabled then s1.setHalf h lkTraining else s1

def State.halfDisable (s : State) (h : Nat) : State :=
  ((s.wr (if h = 0 then DEX_CTL_EN_A else DEX_CTL_EN_B) 0 0).setHalf h lkDisabled).setLink (8 + h) {}

def execCfPortEnable (port : BitVec 3) (s : State) : Answer := s.issue fun s => s.portEnable port.toNat
def execCfPortRetrain (port : BitVec 3) (s : State) : Answer := s.issue fun s => s.retrainLink (.cf port)
def execDexHalfEnable (half : BitVec 1) (s : State) : Answer := s.issue fun s => s.halfEnable half.toNat
def execDexRetrain (half : BitVec 1) (s : State) : Answer := s.issue fun s => s.retrainLink (.dex half)

/-- Ports to a module fail with its lanes (R445, R473). -/
def State.dropPorts (s : State) (m : Nat) : List Nat → State
  | [] => s
  | p :: ps =>
      (if s.rd CF_PORT_PEER p = m ∧ s.rd CF_PORT_STATE p = lkUp then
        (s.wr CF_PORT_STATE p lkFailed).wr CF_PORT_REASON p 5 else s).dropPorts m ps

/-- PEER_LEAVE (R453, R473): a peer has reset, or its last port has failed. -/
def execPeerLeave (module : BitVec 3) (s : State) : Answer :=
  s.issue fun s => (s.dropPorts module.toNat (List.range 8)).peerLost module.toNat

end Sys2Proof.Machine
end

