-- ==== Sys2Proof/Machine/ImageCheck.lean ====
section
/-! DEFINITION. The thirteen checks that the loader runs on the copy of a slot image (R150, R385, R401), each from the image and what the
tenant holds alone (R151). -/

namespace Sys2Proof.Machine

/-! ### Tables and streams -/

def sectFlOff (i : List Byte) (s : Nat) : Nat := imgNat i (imgSection i s) 4
def sectFuOff (i : List Byte) (s : Nat) : Nat := imgNat i (imgSection i s + 8) 4
def sectRnOff (i : List Byte) (s : Nat) : Nat := imgNat i (imgSection i s + 12) 4
def sectOff (i : List Byte) (s : Nat) : StreamSel → Nat
  | .flume => sectFlOff i s
  | .furrow => sectFuOff i s
def sectLen (i : List Byte) (s : Nat) : StreamSel → Nat
  | .flume => sectFlLen i s
  | .furrow => sectFuLen i s

/-- Words of a stream of a section. -/
def sectWords (i : List Byte) (s : Nat) (sel : StreamSel) : List Nat :=
  (List.range (sectLen i s sel)).map fun k => imgNat i (sectOff i s sel + 8 * k) 8

/-- Decoded words with their indices; words that do not decode are left out. -/
def sectStream (i : List Byte) (s : Nat) (sel : StreamSel) : List (Nat × StreamWord) :=
  (sectWords i s sel).zipIdx.filterMap fun x => (decodeWord sel x.1).map fun w => (x.2, w)

def sections (i : List Byte) : List Nat := List.range (imgNSect i)
def bothStreams : List StreamSel := [.flume, .furrow]

/-- Plot table entry of footprint position k (R145). -/
def plotSect (i : List Byte) (k : Nat) : Nat := imgNat i (imgTable i 0 + 8 * k) 1 % 16
def plotParam (i : List Byte) (k : Nat) : Nat := imgNat i (imgTable i 0 + 8 * k + 4) 4

/-- A runnel segment: its offset in the image, code length, data length, entry address (R146; the segments follow the table one after
the other in order, log entry 24). -/
structure RunSeg where
  off : Nat
  code : Nat
  data : Nat
  entry : Nat
  deriving DecidableEq, Repr

def runSegsFrom (i : List Byte) (tab : Nat) : Nat → Nat → Nat → List RunSeg
  | _, _, 0 => []
  | off, k, n + 1 =>
      let g : RunSeg := ⟨off, imgNat i (tab + 8 * k) 2, imgNat i (tab + 8 * k + 2) 2, imgNat i (tab + 8 * k + 4) 2⟩
      g :: runSegsFrom i tab (off + g.code + g.data) (k + 1) n

def runSegs (i : List Byte) (s : Nat) : List RunSeg :=
  runSegsFrom i (sectRnOff i s) (sectRnOff i s + 8 * imgRunnels i) 0 (imgRunnels i)

/-! ### Lift segment (R400, R401) -/

def liftOff (i : List Byte) : Nat := imgTable i 6
def liftCount (i : List Byte) : Nat := imgNat i (liftOff i) 2
def liftMask (i : List Byte) : Nat := imgNat i (liftOff i + 8) 8
def liftTol (i : List Byte) : Nat := imgNat i (liftOff i + 4) 4
/-- Offset of a lift entry, behind the 16-byte header. -/
def liftEntry (i : List Byte) (k : Nat) : Nat := liftOff i + 16 + 64 * k

/-- Bits of a lift entry that carry a field. -/
def liftFields : Nat :=
  fieldMask [(0, 0, 5), (1, 0, 4), (2, 0, 6), (3, 0, 6), (4, 0, 32), (8, 0, 56), (16, 0, 64), (24, 0, 24), (28, 0, 32),
             (32, 0, 10), (34, 0, 10), (36, 0, 32), (40, 0, 32)]

def liftReserved (i : List Byte) (k : Nat) : Bool :=
  let v := imgNat i (liftEntry i k) 64
  v &&& liftFields ≠ v || imgNat i (liftEntry i k) 1 % 4 = 3

/-! ### Checks 1 to 3 -/

/-- Digest of an image: bytes 0 to 47 and from 96 on (R144). -/
def imgDigestOk (i : List Byte) (len : Nat) : Bool :=
  beBytes 48 (sha384 (i.take 48 ++ (i.take len).drop 96)).toNat = (i.drop 48).take 48

/-- Size in bytes of each table of R144. -/
def tableBytes (i : List Byte) (k : Nat) : Nat :=
  let plots := imgFootW i * imgFootH i
  match k with
  | 0 => 8 * plots
  | 1 => 32 * imgNSect i
  | 2 => 16 * imgNLayer i
  | 3 => 32 * imgNDesc i
  | 4 => 64 * imgNNest i
  | 5 => 16 * imgNWin i
  | 6 => 16 + 64 * liftCount i
  | _ => 64 * ((List.range plots).foldl (fun m k => max m (plotParam i k + 1)) 0)

def headerReserved (i : List Byte) : Bool :=
  decide (4 ≤ imgFlags i) || decide (16 ≤ imgNat i 18 1) || imgNat i 22 2 ≠ 0 || imgNat i 33 1 ≠ 0 || imgNat i 128 128 ≠ 0

def inside (lo n hi : Nat) : Bool := decide (lo ≤ n ∧ n ≤ hi)

/-- Check 2. -/
def headerBad (i : List Byte) (len : Nat) : Bool :=
  imgNat i 0 4 ≠ 0x53574931 || imgNat i 4 2 ≠ 0x0100 || imgLength i ≠ len || len % 64 ≠ 0 || decide (len < 256)
  || headerReserved i
  || !inside 1 (imgFootW i) 32 || !inside 1 (imgFootH i) 32 || !inside 1 (imgRunnels i) 76 || !inside 1 (imgBudget i) 256
  || !inside 1 (imgNSect i) 16 || !inside 0 (imgNLayer i) 256 || !inside 0 (imgNDesc i) 4096 || !inside 0 (imgNNest i) 4096
  || !inside 0 (imgNWin i) 16 || !inside 0 (liftCount i) 4096
  || (List.range 8).any (fun k => decide (len < imgTable i k + tableBytes i k))
  || (List.range (imgFootW i * imgFootH i)).any fun k => decide (imgNSect i ≤ plotSect i k)

/-- A section exceeds a limit of R146 or the budget. -/
def sectionBad (i : List Byte) (len : Nat) (s : Nat) : Bool :=
  bothStreams.any (fun sel => !inside 1 (sectLen i s sel) 16384 || decide (len < sectOff i s sel + 8 * sectLen i s sel))
  || decide (len < sectRnOff i s + 8 * imgRunnels i)
  || (runSegs i s).any (fun g => !inside 2 g.code 3072 || decide (4096 < g.code + g.data) || decide (len < g.off + g.code + g.data))
  || sectProg i s % 256 ≠ 0
  || decide (imgBudget i * 65536 < progOff i s .furrow 0 + 8 * sectFuLen i s)

/-- Check 3; with a tier retired a budget is at most 224 (R385). -/
def sizeBad (i : List Byte) (len : Nat) (seven : Bool) : Bool :=
  (sections i).any (sectionBad i len) || (seven && decide (224 < imgBudget i))

/-! ### Check 4 -/

/-- Bits of a word from lo on, n of them. -/
def bitRun (lo n : Nat) : Nat := (2 ^ n - 1) * 2 ^ lo

/-- Fields of furrow compute words, as masks. -/
def mS1 : Nat := bitRun 50 4
def mS2 : Nat := bitRun 46 4
def mD : Nat := bitRun 42 4
def mFmt : Nat := bitRun 38 4
def mSr : Nat := bitRun 37 1
def mCalib : Nat := bitRun 36 1
def mX : Nat := bitRun 28 8
def mRel : Nat := bitRun 20 1
def mDesc : Nat := bitRun 3 17
/-- OP, FOP, SIG and SIGC, which every compute word has. -/
def mAlways : Nat := bitRun 54 10 + bitRun 21 7

/-- Fields that a ROW operation uses; none: a reserved FOP (R218). -/
def rowUsed (fop : Nat) : Option Nat :=
  if fop ≤ 0x01 then some (mS1 + mS2 + mRel)
  else if 0x08 ≤ fop ∧ fop ≤ 0x0D then some (mS1 + mS2 + mD + mRel)
  else if fop = 0x10 ∨ fop = 0x11 then some (mS1 + mS2 + mD + mRel + mX + mDesc)
  else if 0x18 ≤ fop ∧ fop ≤ 0x1D then some (mS1 + mD + mRel)
  else none

/-- Fields that an ELEM operation uses (R219, R267, R268). -/
def elemUsed (fop : Nat) : Option Nat :=
  let one := mS1 + mD + mRel
  if fop = 0x00 ∨ fop = 0x0B ∨ fop = 0x0C ∨ fop = 0x29 ∨ fop = 0x2A ∨ 0x30 ≤ fop then some one
  else if (0x01 ≤ fop ∧ fop ≤ 0x06) ∨ fop = 0x21 ∨ fop = 0x22 ∨ fop = 0x25 ∨ fop = 0x26 then some (one + mS2)
  else if fop = 0x07 ∨ fop = 0x28 then some (one + mX)
  else if fop = 0x08 ∨ fop = 0x09 ∨ fop = 0x20 ∨ fop = 0x24 then some (one + mDesc)
  else if fop = 0x10 then some mD
  else none

/-- Fields that a compute word uses, by OP and FOP (R220). -/
def computeUsed (op fop : Nat) : Option Nat :=
  let conv := mS1 + mFmt + mSr + mCalib + mX + mRel
  match op with
  | 0x8 => rowUsed fop
  | 0x9 => elemUsed fop
  | 0xA => if fop = 0 then some (conv + mDesc) else if fop ≤ 2 then some (conv + mD) else none
  | 0xB => if fop = 0 then some (mD + mDesc) else none
  | 0xC => if fop = 0 then some (mS1 + mFmt + mRel + mDesc) else none
  | _ => none

/-- Bits that a word of a stream may set; none where the word has a reserved code. -/
def wordUsed (sel : StreamSel) (w : Nat) : Option Nat :=
  match decodeWord sel w with
  | none => none
  | some (.compute op fop f) =>
      if 13 ≤ f.fmt.toNat then none else (computeUsed op.toNat fop.toNat).map (· + mAlways)
  | some .nop => some (bitRun 60 4)
  | some .ret => some (bitRun 60 4)
  | some .end_ => some (bitRun 60 4)
  | some (.pass _) => some (bitRun 37 27)
  | some (.release _) => some (bitRun 20 44)
  | some (.fill _) => some (bitRun 32 32)
  | some (.nest _) => some (bitRun 43 21)
  | some (.wait _) => some (bitRun 54 10 + bitRun 0 32)
  | some (.signal _) => some (bitRun 43 21 + bitRun 32 8)
  | some (.layer _) => some (bitRun 51 13)

/-- CONV_STAGE keeps DST[3] zero (R220). -/
def stageDstBad (w : Nat) : Bool := wbits w 60 4 = 0xA && wbits w 54 6 = 1 && wflag w 45

def wordReserved (sel : StreamSel) (w : Nat) : Bool :=
  match wordUsed sel w with
  | none => true
  | some m => w &&& m ≠ w || (sel = .furrow && stageDstBad w)

/-- Check 4, with the descriptors' format codes (R78) and the lift entries (R401). -/
def reservedBad (i : List Byte) : Bool :=
  (sections i).any (fun s => bothStreams.any fun sel => (sectWords i s sel).any (wordReserved sel))
  || (List.range (imgNDesc i)).any (fun d => decide (13 ≤ (imgDesc i d).fmt))
  || (List.range (liftCount i)).any (liftReserved i)

/-! ### Checks 5 and 6 -/

/-- Every decoded word of the image satisfies a test. -/
def anyWord (i : List Byte) (f : StreamSel → StreamWord → Bool) : Bool :=
  (sections i).any fun s => bothStreams.any fun sel => (sectStream i s sel).any fun x => f sel x.2

def slotBad (i : List Byte) (w : StreamWord) : Bool :=
  match w with
  | .fill f =>
      let n := f.slot.toNat
      (!f.bank && decide (8 ≤ n)) || ((imgDesc i f.desc.toNat).fmt = 0 && n = (if f.bank then 15 else 7))
  | .compute op fop f =>
      op = 0xA && f.fmt = 0 && ((fop = 1 && f.dst = 7) || (fop = 2 && f.dst = 15))
  | _ => false

def signalBad (w : SignalWord) : Bool := decide (w.ctr.toNat < 2) || w.inc = 0

/-- Logical plots that the SIGNALs of an image name. -/
def signalTargets (i : List Byte) : List Nat :=
  (sections i).flatMap fun s => bothStreams.flatMap fun sel => (sectStream i s sel).filterMap fun x =>
    match x.2 with | .signal w => if w.remote then some w.lplot.toNat else none | _ => none

/-- Coordinates that no stretch of n covers. -/
def spreadBad (l : List Nat) (n : Nat) : Bool := l.any fun a => l.any fun b => decide (a + n ≤ b)

/-- No footprint of the image's size holds every plot that its SIGNALs target (log entry 25: the image does not name its partition's
origin). -/
def targetsBad (i : List Byte) : Bool :=
  spreadBad ((signalTargets i).map (· % 32)) (imgFootW i) || spreadBad ((signalTargets i).map (· / 32)) (imgFootH i)

def counterBad (w : StreamWord) : Bool :=
  match w with
  | .wait x => x.ctr = 0
  | .signal x => signalBad x
  | .pass x => x.sig && decide (x.sigc.toNat < 2)
  | .compute _ _ x => x.sig && decide (x.sigc.toNat < 2)
  | _ => false

/-! ### Wide variants (R167) -/

/-- Layers at whose end a stream stops. -/
def layersEnded (ws : List (Nat × StreamWord)) : List Nat :=
  ws.filterMap fun x => match x.2 with | .layer l => if l.isEnd then some l.layer.toNat else none | _ => none

def layerEntry (i : List Byte) (sel : StreamSel) (l : Nat) : Nat :=
  match sel with | .flume => layerFlume i l | .furrow => layerFurrow i l

/-- Range of a wide variant: from its entry to its RETURN. -/
def variantRange (ws : List (Nat × StreamWord)) (entry : Nat) : Option (Nat × Nat) :=
  ((ws.find? fun x => decide (entry ≤ x.1) && x.2 = .ret).map fun x => (entry, x.1))

/-- Wide variants of a stream, by layer. -/
def variants (i : List Byte) (sel : StreamSel) (ws : List (Nat × StreamWord)) : List (Nat × Option (Nat × Nat)) :=
  ((layersEnded ws).dedup.filter (layerWide i)).map fun l => (l, variantRange ws (layerEntry i sel l))

def inVariant (vs : List (Nat × Option (Nat × Nat))) (k : Nat) : Bool :=
  vs.any fun v => match v.2 with | some r => decide (r.1 ≤ k ∧ k ≤ r.2) | none => false

/-- Words of a stream outside its wide variants, in order. -/
def mainWords (i : List Byte) (sel : StreamSel) (ws : List (Nat × StreamWord)) : List (Nat × StreamWord) :=
  ws.filter fun x => !inVariant (variants i sel ws) x.1

/-! ### Check 7 -/

/-- Tiles that a section's furrow stream may allocate. -/
def furrowTiles (i : List Byte) (s : Nat) : List Nat :=
  (sectStream i s .furrow).flatMap fun x =>
    match x.2 with
    | .compute op fop f =>
        if op = 0x8 ∨ op = 0x9 then (fuSpec op.toNat fop.toNat f).writes else if op = 0xB then [f.dst.toNat] else []
    | _ => []

/-- Expansion of a nest without offset, as far as the image decides it. -/
def staticExpand (i : List Byte) (sel : StreamSel) (n : Nat) : List ExpItem :=
  let env : ExpEnv := { img := i, sm := imgStateMap i, off := 0, sets := fun _ => [], serial := 0, nest := n, e := 0 }
  let isPair := imgNestKind i n = 1
  let pair := imgPair i n
  let d1 := imgNest i (if isPair then pair.p1 else n)
  let d2 := imgNest i pair.p2
  if 2 ≤ imgNestKind i n ∨ (if isPair then pairDenied i pair d1 d2 else d1.denied) = true then []
  else match sel with
    | .flume => if isPair then (if pair.res then env.flumeRes pair d1 d2 else env.flumeStage pair d1 d2) else env.flumeProduct d1
    | .furrow => if isPair then env.furrowPair pair d1 d2 else env.furrowProduct d1

/-- Tiles that may be LIVE along the flume stream: none where an ACCUMULATE pass targets one that is FREE. -/
def tileWalk (i : List Byte) (live : List Nat) : List ExpItem → Option (List Nat)
  | [] => some live
  | .pass w b :: rest =>
      if b.ovf.isSome then some live
      else if w.overwrite || live.contains w.dst.toNat then tileWalk i (w.dst.toNat :: live) rest else none
  | .word (.pass w) :: rest =>
      if w.overwrite || live.contains w.dst.toNat then tileWalk i (w.dst.toNat :: live) rest else none
  | .word (.release w) :: rest => tileWalk i (live.filter fun t => !w.amask.getLsbD t) rest
  | _ :: rest => tileWalk i live rest

/-- Words of a stretch with their nests expanded. -/
def expandWords (i : List Byte) (sel : StreamSel) (ws : List (Nat × StreamWord)) : List ExpItem :=
  ws.flatMap fun x => match x.2 with | .nest w => staticExpand i sel w.nest.toNat | w => [.word w]

/-- Check 7 of a section: tiles that carry state and tiles that the furrow may allocate can be LIVE at any word (log entry 26). -/
def tileBad (i : List Byte) (s : Nat) : Bool :=
  let ws := sectStream i s .flume
  let start := ((List.range 16).filter fun t => (imgStateMap i).getLsbD t) ++ furrowTiles i s
  (tileWalk i start (expandWords i .flume (mainWords i .flume ws))).isNone
  || (variants i .flume ws).any fun v =>
      match v.2 with
      | none => false
      | some r =>
          let before := (mainWords i .flume ws).takeWhile fun x =>
            !(match x.2 with | .layer l => l.isEnd && l.layer.toNat = v.1 | _ => false)
          match tileWalk i start (expandWords i .flume before) with
          | none => false
          | some live =>
              (tileWalk i (start ++ live) (expandWords i .flume (ws.filter fun x => decide (r.1 ≤ x.1 ∧ x.1 ≤ r.2)))).isNone

/-! ### Check 8 -/

/-- LAYER markers of a stretch: end or begin, and the layer. -/
def layerMarks (ws : List (Nat × StreamWord)) : List (Bool × Nat) :=
  ws.filterMap fun x => match x.2 with | .layer l => some (l.isEnd, l.layer.toNat) | _ => none

/-- Begins and ends alternate, each end behind its begin. -/
def marksPaired : List (Bool × Nat) → Bool
  | [] => true
  | (false, a) :: (true, b) :: rest => a = b && marksPaired rest
  | _ => false

/-- Format codes of the conversions under CALIBRATED scales that a word makes. -/
def calibrated (i : List Byte) (w : StreamWord) : List Nat :=
  match w with
  | .compute op _ f => if op = 0xA ∧ f.calib = true then [f.fmt.toNat] else []
  | .nest n =>
      let p := imgPair i n.nest.toNat
      if imgNestKind i n.nest.toNat = 1 ∧ p.icalib = true then [p.ifmt] else []
  | _ => []

/-- Words between a layer's begin and its end. -/
def layerBody (l : Nat) (ws : List (Nat × StreamWord)) : List (Nat × StreamWord) :=
  (ws.dropWhile fun x => !(match x.2 with | .layer y => !y.isEnd && y.layer.toNat = l | _ => false)).takeWhile
    fun x => !(match x.2 with | .layer y => y.isEnd && y.layer.toNat = l | _ => false)

/-- R102 allows a wide variant: the layer's activation format is MXFP8_E4M3 or MXFP8_E5M2 under CALIBRATED scales. -/
def wideAllowed (i : List Byte) (s l : Nat) : Bool :=
  let fs := (layerBody l (mainWords i .furrow (sectStream i s .furrow))).flatMap fun x => calibrated i x.2
  !fs.isEmpty && fs.all fun f => f = 5 || f = 6

def layerBad (i : List Byte) (s : Nat) : Bool :=
  let marks := fun sel => layerMarks (mainWords i sel (sectStream i s sel))
  !marksPaired (marks .flume) || marks .flume ≠ marks .furrow
  || (marks .flume).any (fun m => decide (imgNLayer i ≤ m.2))
  || ((marks .flume).map (·.2)).any (fun l => layerWide i l && !wideAllowed i s l)
  || bothStreams.any fun sel =>
      let ws := sectStream i s sel
      let vs := variants i sel ws
      (mainWords i sel ws).any (fun x => x.2 = .ret)
      || vs.any fun v => match v.2 with
          | none => true
          | some r =>
              let body := ws.filter fun x => decide (r.1 ≤ x.1 ∧ x.1 ≤ r.2)
              body.any (fun x => match x.2 with
                | .layer _ => true
                | w => sel = .furrow && !(calibrated i w).isEmpty)
              || vs.any fun u => u.1 ≠ v.1 && decide (r.1 ≤ layerEntry i sel u.1 ∧ layerEntry i sel u.1 ≤ r.2)

/-! ### Check 9 -/

/-- A word selects stochastic rounding (R93). -/
def stochastic (i : List Byte) (sel : StreamSel) (w : StreamWord) : Bool :=
  match w with
  | .compute op _ f => op = 0xA && f.sr
  | .nest n => sel = .furrow && imgNestKind i n.nest.toNat = 1 && (imgPair i n.nest.toNat).isr
  | _ => false

/-! ### Check 10 -/

/-- A range lies wholly in VALID extents of a tenant, one after the other. -/
def State.extentsCover (s : State) (t : TenantNo) (a e : Nat) : Nat → Bool
  | 0 => decide (e ≤ a)
  | n + 1 =>
      decide (e ≤ a) ||
      (match s.aqf.extents.find? fun x => x.2.st = .valid && s.extentTenant x.2 = some t.toNat
          && decide (aqBase + x.2.base * 65536 ≤ a ∧ a < aqBase + (x.2.base + x.2.units) * 65536) with
        | some x => s.extentsCover t (aqBase + (x.2.base + x.2.units) * 65536) e n
        | none => false)

/-- A window that does not count from a region lies within a tenant's grants: Cistern granules, columns of its partitions' plots, or
VALID extents. -/
def State.windowGranted (s : State) (t : TenantNo) (a n : Nat) : Bool :=
  if n = 0 then true
  else if s.masRow a ≠ s.masRow (a + n - 1) then false
  else match s.masRow a with
    | 0 => (s.rangeDetail t a n).isNone
    | 1 => (List.range ((a + n - 1 - 0x10000000000) / 0x1000000 - (a - 0x10000000000) / 0x1000000 + 1)).all fun k =>
        (s.partOf ((a - 0x10000000000) / 0x1000000 + k)).any fun p => s.partTenant p = t
    | 2 => s.extentsCover t a (a + n) (s.aqf.extents.length + 1)
    | _ => false

def winOff (i : List Byte) (k : Nat) : Nat := imgTable i 5 + 16 * k
def winRel (i : List Byte) (k : Nat) : Bool := recFld i (winOff i k) 6 0 1 = 1

/-- A run of bytes whose address is known may lie inside a window. -/
def staticOk (i : List Byte) (write : Bool) (a n : Nat) : Bool :=
  n = 0 || (List.range (imgNWin i)).any fun k =>
    (!write || recFld i (winOff i k) 6 1 1 = 1)
    && (winRel i k || decide (recFld i (winOff i k) 0 0 48 ≤ a ∧ a + n ≤ recFld i (winOff i k) 0 0 48 + imgNat i (winOff i k + 8) 8))

/-- Every run of a stored tile of a MAS descriptor may lie inside a window. -/
def staticTile (i : List Byte) (write : Bool) (t : TileRef) : Bool :=
  let d := imgDesc i t.desc
  d.src ≠ 1 ||
    (let v := validExtent d.rows d.cols t.r t.c
     (List.range v.1).all fun k =>
       let a := State.rowAddr {} {} d t k
       staticOk i write a.1 ((v.2 * fmtBits d.fmt + 7) / 8) && staticOk i write a.2 (scaleBytes d.fmt v.2))

/-- Stored tiles that the items of a stream name at addresses the image decides, and whether they are written. -/
def staticTiles (usesDesc : Nat → Nat → Bool) : List ExpItem → List (TileRef × Bool)
  | [] => []
  | .fill _ t _ _ _ _ _ :: rest => (t, false) :: staticTiles usesDesc rest
  | .word (.fill w) :: rest => (if w.usep then [] else [({ desc := w.desc.toNat }, false)]) ++ staticTiles usesDesc rest
  | .word (.compute op fop w) :: rest =>
      (if usesDesc op.toNat fop.toNat ∧ w.usep = false then
        [({ desc := w.desc.toNat }, decide (op.toNat = 0xC ∨ (op.toNat = 0xA ∧ fop.toNat = 0)))] else []) ++ staticTiles usesDesc rest
  | .furrow op fop w r c _ _ _ _ :: rest =>
      (if op = 0xA ∧ fop = 0 then [({ desc := w.desc.toNat, r := r, c := c }, true)] else []) ++ staticTiles usesDesc rest
  | _ :: rest => staticTiles usesDesc rest

/-- A compute word names a descriptor. -/
def usesDesc (op fop : Nat) : Bool := ((computeUsed op fop).map fun m => m.testBit 8).getD false

/-- Items of a stream, with the nests that take no offset expanded. -/
def staticItems (i : List Byte) (s : Nat) (sel : StreamSel) : List ExpItem :=
  (sectStream i s sel).flatMap fun x =>
    match x.2 with
    | .nest w => if w.usep then [] else staticExpand i sel w.nest.toNat
    | w => [.word w]

def liftSrcBad (i : List Byte) (k : Nat) : Bool :=
  let o := liftEntry i k
  imgNat i o 1 % 4 ≠ 1 && !staticOk i false (recFld i o 8 0 48) (64 * imgNat i (o + 24) 3)

def State.windowBad (s : State) (t : TenantNo) (i : List Byte) : Bool :=
  (List.range (imgNWin i)).any (fun k =>
    !winRel i k && !s.windowGranted t (recFld i (winOff i k) 0 0 48) (imgNat i (winOff i k + 8) 8))
  || (sections i).any (fun n => bothStreams.any fun sel => (staticTiles usesDesc (staticItems i n sel)).any fun x =>
      !staticTile i x.2 x.1)
  || (List.range (liftCount i)).any (liftSrcBad i)

/-! ### Checks 11 to 13, and all of them in order -/

def imgEndBad (i : List Byte) (s : Nat) (sel : StreamSel) : Bool :=
  let ws := sectStream i s sel
  let m := mainWords i sel ws
  (m.getLast?).map (·.2) ≠ some .end_ || (ws.filter fun x => x.2 = .end_).length ≠ 1

def runnelBad (i : List Byte) (s : Nat) : Bool := (runSegs i s).any fun g => decide (g.code ≤ g.entry)

/-- The value of the first check that an image fails, in the order of R150; 0 where it passes them all. `len` is the LENGTH of the
operation. -/
def State.imageCheck (s : State) (t : TenantNo) (i : List Byte) (len : Nat) : Nat :=
  if imgLength i = len ∧ !imgDigestOk i len then 1
  else if headerBad i len then 2
  else if sizeBad i len (s.flag RES_TIER_CTL_SEVEN) then 3
  else if reservedBad i then 4
  else if anyWord i (fun _ w => slotBad i w) then 5
  else if anyWord i (fun _ w => counterBad w) || targetsBad i then 6
  else if (sections i).any (tileBad i) then 7
  else if (sections i).any (layerBad i) then 8
  else if !imgTrain i && anyWord i (stochastic i) then 9
  else if s.windowBad t i then 10
  else if (sections i).any (fun n => bothStreams.any (imgEndBad i n)) then 11
  else if (sections i).any (runnelBad i) then 12
  else if imgWcd i = 0 then 13
  else 0

end Sys2Proof.Machine
end

