-- ==== Sys2Proof/Machine/Models.lean ====
section
/-! DEFINITION. Models, policies and slot images registered with the device (R149, R499 to R502, R641). -/

namespace Sys2Proof.Machine

/-! ### Models (R499, R500) -/

def recGeom (r : List Byte) : BitVec 256 := BitVec.ofNat 256 (leNat (r.take 32))
def recState (r : List Byte) : Nat := imgNat r 32 4
def recAct (r : List Byte) : Nat := imgNat r 36 4
def recIn (r : List Byte) : Nat := imgNat r 40 8
def recOut (r : List Byte) : Nat := imgNat r 48 8
def recExtents (r : List Byte) : BitVec 256 := BitVec.ofNat 256 (imgNat r 64 32)

/-- Bytes of a headworks program at an address: its header and its operations. -/
def State.progLen (s : State) (a : Nat) : Nat := 32 + 32 * min 8 (hwOps (s.hwProg a))

/-- The address checks of R641 on a model record's programs. -/
def State.progRange (s : State) (t : TenantNo) (a : Nat) : Option (BitVec 16) :=
  (s.rangeDetail t a 32).orElse fun _ => s.rangeDetail t a (s.progLen a)

/-- Every extent that a record names is the tenant's. -/
def State.extentsOwned (s : State) (t : TenantNo) (m : BitVec 256) : Bool :=
  (List.range 256).all fun e => !m.getLsbD e || ((s.extent e).occupies && s.extentTenant (s.extent e) = some t.toNat)

/-- A record that R499 refuses with detail 0. -/
def State.modelBad (s : State) (r : List Byte) : Bool :=
  !geomOk (recGeom r) || recState r % 4096 ≠ 0 || decide (2 ^ 20 < recState r)
  || imgNat r 56 8 ≠ 0 || imgNat r 96 160 ≠ 0
  || [recIn r, recOut r].any fun a => progBad (s.hwProg a) || progEmpty (s.hwProg a)

def State.setModel (s : State) (h : Nat) (m : ModelRec) : State :=
  { s with ctx := { s.ctx with models := sput ({} : ModelRec) s.ctx.models h m } }

/-- MODEL_REGISTER (R499, R641): it waits for the channels that hold what it reads (R429). -/
def execModelRegister (q : RingNo) (n : Seq) (s : State) : Answer :=
  s.opRow q n 0x10 fun s o =>
    let t := o.tenant s
    let h := o.fld 16 0 64
    let a := o.fld 24 0 48
    if h = 0 ∨ (s.model? h).isSome ∨ 4096 ≤ s.ctx.models.length then s.refuseOp o (stDenied, 0)
    else match s.rangeDetail t a 256 with
    | some d => s.refuseOp o (stDenied, d)
    | none =>
      if !s.cisOpen a 256 then s
      else
      let read := s.cisRead none a 256
      let s1 := read.2
      let r := s1.cisBytes a 256
      let progs := [(recIn r, s1.progLen (recIn r)), (recOut r, s1.progLen (recOut r))]
      if read.1 ≠ stOk then s1.refuseOp o (read.1, 0)
      else match (s1.progRange t (recIn r)).orElse fun _ => s1.progRange t (recOut r) with
      | some d => s1.refuseOp o (stDenied, d)
      | none =>
        let read2 := s1.cisReadAll none progs
        let s2 := read2.2
        if !s1.cisOpenAll progs then s
        else if read2.1 ≠ stOk then s2.refuseOp o (read2.1, 0)
        else if s2.modelBad r then s2.refuseOp o (stDenied, 0)
        else if !s2.extentsOwned t (recExtents r) then s2.refuseOp o (stDenied, dtTenant)
        else
          (s2.setModel h { tenant := t, geom := recGeom r, stateBytes := recState r, actBytes := recAct r, inProg := recIn r,
                           outProg := recOut r, extents := recExtents r }).finish o stOk

/-- A stream that is not FREE, a policy or an image names a model (R500). -/
def State.modelNamed (s : State) (h : Nat) : Bool :=
  s.ctx.streams.any (fun x => x.2.st ≠ .free && x.2.model.toNat = h)
  || s.ctx.policies.any (fun x => x.2.model.toNat = h) || s.ctx.images.any (fun x => x.2.model.toNat = h)

/-- MODEL_RETIRE (R500). -/
def execModelRetire (q : RingNo) (n : Seq) (s : State) : Answer :=
  s.opRow q n 0x11 fun s o =>
    let h := o.fld 16 0 64
    match s.model? h with
    | none => s.refuseOp o (stDenied, 0)
    | some m =>
      if m.tenant ≠ o.tenant s then s.refuseOp o (stDenied, dtTenant)
      else if s.modelNamed h then s.refuseOp o (stDenied, 0)
      else ((s.unstick (BitVec.ofNat 64 h)).setModel h {}).finish o stOk

/-! ### Policies (R501) -/

def State.setPolicy (s : State) (h : Nat) (p : PolicyRec) : State :=
  { s with ctx := { s.ctx with policies := sput ({} : PolicyRec) s.ctx.policies h p } }

/-- Bytes of a policy's region: ⌈6.0625 N / 4096⌉ + 1 pages. -/
def policyBytes (n : Nat) : Nat := ((97 * n + 65535) / 65536 + 1) * 4096

/-- A policy's record and its region written: the region's layout is private (R501), so its bytes are free values of what the policy
holds (log entry 1). -/
def State.storePolicy (s : State) (part : Option Nat) (h : Nat) (p : PolicyRec) : State :=
  (s.setPolicy h p).cisSend part p.region ((List.range (policyBytes p.n)).map (Config.policyByte p.weights p.moments p.hyper))

/-- POLICY_CREATE (R501, R641): it waits for the channels that it reads and writes (R429). -/
def execPolicyCreate (q : RingNo) (n : Seq) (s : State) : Answer :=
  s.opRow q n 0x12 fun s o =>
    let t := o.tenant s
    let h := o.fld 16 0 64
    let m := s.model? (o.fld 24 0 64)
    let np := o.fld 32 0 29
    let reg := o.fld 40 0 48
    let ini := o.fld 48 0 48
    if h = 0 ∨ (s.policy? h).isSome ∨ 16384 ≤ s.ctx.policies.length ∨ m.isNone ∨ np = 0 ∨ 2 ^ 28 < np ∨ reg % 4096 ≠ 0 then
      s.refuseOp o (stDenied, 0)
    else if m.any (fun x => x.tenant ≠ t) then s.refuseOp o (stDenied, dtTenant)
    else match (s.rangeDetail t reg (policyBytes np)).orElse fun _ => s.rangeDetail t ini (16 + 2 * np) with
    | some d => s.refuseOp o (stDenied, d)
    | none =>
      if !s.cisOpenAll [(ini, 16 + 2 * np), (reg, policyBytes np)] then s
      else
      let read := s.cisRead none ini (16 + 2 * np)
      let s1 := read.2
      if read.1 ≠ stOk then s1.refuseOp o (read.1, 0)
      else
        let word := fun (k : Nat) => BitVec.ofNat 32 (leNat (s1.cisBytes (ini + 4 * k) 4))
        let w := (List.range np).flatMap fun k =>
          [BitVec.ofNat 32 (leNat (s1.cisBytes (ini + 16 + 2 * k) 2)), (0 : Word)]
        (s1.storePolicy none h { tenant := t, model := BitVec.ofNat 64 (o.fld 24 0 64), n := np, region := reg,
                                 hyper := (List.range 4).map word, weights := w,
                                 moments := List.replicate (2 * np) (0 : Word) }).finish o stOk

/-- POLICY_DESTROY (R501). -/
def execPolicyDestroy (q : RingNo) (n : Seq) (s : State) : Answer :=
  s.opRow q n 0x13 fun s o =>
    let h := o.fld 16 0 64
    match s.policy? h with
    | none => s.refuseOp o (stDenied, 0)
    | some p =>
      if p.tenant ≠ o.tenant s then s.refuseOp o (stDenied, dtTenant)
      else if s.ctx.streams.any (fun x => x.2.st ≠ .free && x.2.policy.toNat = h) then s.refuseOp o (stDenied, 0)
      else (s.setPolicy h {}).finish o stOk

/-! ### Images (R149, R150, R502) -/

def State.image (s : State) (k : Nat) : ImageRec := sget ({} : ImageRec) s.ctx.images k
def State.setImage (s : State) (k : Nat) (x : ImageRec) : State :=
  { s with ctx := { s.ctx with images := sput ({} : ImageRec) s.ctx.images k x } }

def State.poolBase (s : State) : Nat := s.rd ROT_POOL_BASE_64K * 65536
def State.poolUnits (s : State) : Nat := s.rd ROT_POOL_SIZE_1M * 16

/-- 64 KiB units of the pool that no image holds, from unit u on, as many as are asked for. -/
def State.runFree (s : State) (u n : Nat) : Bool :=
  !(s.ctx.images.any fun x => decide (s.poolBase + 65536 * u < x.2.addr + x.2.len ∧ x.2.addr < s.poolBase + 65536 * (u + n)))

/-- The lowest-addressed free run of n units, among those that begin at the pool's start or behind an image. -/
def State.poolRun (s : State) (n : Nat) : Option Nat :=
  let starts := 0 :: s.ctx.images.map fun x => (x.2.addr + x.2.len + 65535 - s.poolBase) / 65536
  (starts.filter fun u => decide (u + n ≤ s.poolUnits) && s.runFree u n).foldl
    (fun (b : Option Nat) (u : Nat) => some (match b with | none => u | some v => min u v)) none

/-- The lowest free index of the pool. -/
def State.poolIndex (s : State) : Option Nat := (List.range 4096).find? fun k => !(s.ctx.images.any fun x => x.1 = k)

/-- IMAGE_REGISTER (R149, R150, R502, R641): the copy takes its place in the pool and the checks run on it; it
waits for the channels that it reads and writes (R429). -/
def execImageRegister (q : RingNo) (n : Seq) (s : State) : Answer :=
  s.opRow q n 0x14 fun s o =>
    let t := o.tenant s
    let a := o.fld 16 0 48
    let len := o.fld 24 0 32
    match s.rangeDetail t a len with
    | some d => s.refuseOp o (stDenied, d)
    | none =>
      match s.poolIndex, s.poolRun ((len + 65535) / 65536) with
      | some k, some u =>
          let addr := s.poolBase + 65536 * u
          let read := s.cisRead none a len
          let s1 := read.2
          let img := s1.cisBytes a len
          let bad := s1.imageCheck t img len
          if !s.cisOpenAll [(a, len), (addr, len)] then s
          else if read.1 ≠ stOk then s1.refuseOp o (read.1, 0)
          else if bad ≠ 0 then s1.refuseOp o (stDenied, BitVec.ofNat 16 bad)
          else
            ((s1.cisSend none addr img).setImage k { tenant := t, addr := addr, len := len, imageId := imgId img,
                                                     model := BitVec.ofNat 64 (imgModel img) }).finish o stOk 0 (BitVec.ofNat 32 k)
      | _, _ => s.refuseOp o (stDenied, dtPool)

/-- A VALID entry of the shadow or the active bank names an image. -/
def State.imageNamed (s : State) (k : Nat) : Bool :=
  (List.range 1024).any fun e =>
    (s.flag ROT_ENTRY_VALID e && s.rd ROT_ENTRY_IMAGE e = k)
    || (partBits ROT_ENTRY_VALID (s.entry e) = 1 && partBits ROT_ENTRY_IMAGE (s.entry e) = k)

/-- IMAGE_RELEASE (R502). -/
def execImageRelease (q : RingNo) (n : Seq) (s : State) : Answer :=
  s.opRow q n 0x15 fun s o =>
    let k := o.fld 16 0 12
    if !(s.ctx.images.any fun x => x.1 = k) then s.refuseOp o (stDenied, 0)
    else if (s.image k).tenant ≠ o.tenant s then s.refuseOp o (stDenied, dtTenant)
    else if s.imageNamed k then s.refuseOp o (stDenied, 0)
    else
      let s1 := s.setImage k {}
      ({ s1 with cf := { s1.cf with lists := sput [] s1.cf.lists k [] } }).finish o stOk

end Sys2Proof.Machine
end

