-- ==== Sys2Proof/Machine/Slots.lean ====
section
/-! DEFINITION. State slots of streams (R49, R58 to R60, R285, R498): their addresses and seals, the sluice engine's checked read of
one, and the copies that fork sharing asks for. -/

namespace Sys2Proof.Machine

/-! ### Slots and seals -/

/-- S of a stream's model (R49). -/
def State.stateBytes (s : State) (n : Nat) : Nat := ((s.model? (s.stream n).model.toNat).map (·.stateBytes)).getD 0

/-- Address of an owner's slot A or B (R49). -/
def State.slotAddr (s : State) (n o : Nat) (b : Bool) : Nat :=
  let r := s.stream n
  let sz := s.stateBytes n
  r.region + futureTableEnd r.cap + (if o = trunkOwner then 0 else 2 * sz * (o + 1)) + (if b then sz else 0)

/-- Owner and slot that a reference of an owner names. -/
def SlotRef.place (o : Nat) : SlotRef → Nat × Bool
  | .ownA => (o, false)
  | .ownB => (o, true)
  | .shared p b => (p, b)

def OwnerRec.seal (x : OwnerRec) (b : Bool) : Seal := if b then x.sealB else x.sealA
def OwnerRec.crc (x : OwnerRec) (b : Bool) : Word := if b then x.crcB else x.crcA
def OwnerRec.setSeal (x : OwnerRec) (b : Bool) (v : Seal) (c : Word) : OwnerRec :=
  if b then { x with sealB := v, crcB := c } else { x with sealA := v, crcA := c }

def OwnerRec.torn (x : OwnerRec) : Bool := x.sealA = .torn || x.sealB = .torn

/-- TORN seals become EMPTY (R288). -/
def OwnerRec.clearTorn (x : OwnerRec) : OwnerRec :=
  { x with sealA := if x.sealA = .torn then .empty else x.sealA, sealB := if x.sealB = .torn then .empty else x.sealB }

/-- Slot that a swap-out of an owner writes: the one that is not its committed slot, slot B while it shares (R59, R64). True: B. -/
def OwnerRec.target (x : OwnerRec) : Bool := decide (x.committed ≠ .ownB)

/-- Slot an owner's swap-in reads: the slot its running operation last sealed, else its committed slot (R496). -/
def OwnerRec.reads (x : OwnerRec) : SlotRef := x.current.getD x.committed

/-- Futures that share a slot (R58). -/
def StreamRec.sharers (r : StreamRec) (o : Nat) (b : Bool) : List Nat :=
  (r.futs.filter fun x => x.2.live && x.2.committed = .shared o b).map (·.1)

/-- A field of several owners changed. -/
def State.mapOwners (s : State) (n : Nat) (f : OwnerRec → OwnerRec) : List Nat → State
  | [] => s
  | o :: os => (s.setOwner n o (f (s.owner n o))).mapOwners n f os

/-! ### The sluice engine's reads (R498) -/

/-- Sluice channel of a logical plot (R494). -/
def sluiceOf (l : Nat) : Nat := 2 * reachOf l + l % 2

/-- Sluice channel of a partition's first plot, which carries copies that no slot causes. -/
def State.partSluice (s : State) (p : Nat) : Nat := sluiceOf ((s.partPlots p).headD 0)

def State.sluiceLog (s : State) (ch n o kind : Nat) (st : BitVec 12) (retryOk committed : Bool) : State :=
  s.logFirst SLUICE_LOG_VALID ch [(SLUICE_LOG_STREAM, n), (SLUICE_LOG_FUTURE, if o = trunkOwner then 0 else o),
    (SLUICE_LOG_TRUNK, if o = trunkOwner then 1 else 0), (SLUICE_LOG_KIND, kind), (SLUICE_LOG_STATUS, st.toNat),
    (SLUICE_LOG_RETRY_OK, if retryOk then 1 else 0), (SLUICE_LOG_COMMITTED, if committed then 1 else 0)]

/-- What a read of a slot gave: OK and its bytes, or the status that it ends with. -/
structure SlotRead where
  st : State
  bytes : List Byte
  status : BitVec 12
  deriving DecidableEq, Repr

/-- A slot read and its CRC compared, and the slot read once more on a mismatch (R498); `who` is the owner the read is for. -/
def State.readSlot (s : State) (ch n : Nat) (place : Nat × Bool) (who : Nat) (committed : Bool) : SlotRead :=
  let a := s.slotAddr n place.1 place.2
  let sz := s.stateBytes n
  let part := some (s.stream n).part.toNat
  let r := s.cisRead part a sz
  if r.1 ≠ stOk then { st := r.2.sluiceLog ch n who 1 r.1 false committed, bytes := [], status := r.1 }
  else
    let bytes := r.2.cisBytes a sz
    let differs := decide (crc32c bytes ≠ (s.owner n place.1).crc place.2)
    let h := r.2.seepOne .sluice ch 1
    if !differs && h.hit.isNone then { st := h.st, bytes := bytes, status := stOk }
    else
      let again := h.st.cisRead part a sz
      if differs || h.word.any seepPersists then
        { st := (again.2.bump ctrCrcFailed ch).sluiceLog ch n who 0 stMemUncorrectable false committed, bytes := [],
          status := stMemUncorrectable }
      else { st := (again.2.bump ctrCrcRetried ch).sluiceLog ch n who 0 stOk true committed, bytes := bytes, status := stOk }

/-- A committed slot is damaged: the owner and every future that shares the slot are marked (R498). -/
def State.markDamaged (s : State) (n : Nat) (place : Nat × Bool) (who : Nat) : State :=
  s.mapOwners n (fun x => { x with damaged := true }) (who :: (s.stream n).sharers place.1 place.2)

/-! ### Copies of a shared slot (R60) -/

/-- A copy written into a future's slot A, sealed with the CRC that was verified; the future shares no longer. -/
def State.sealCopy (s : State) (ch n f : Nat) (bytes : List Byte) (crc : Word) : State :=
  let s1 := s.cisSend (some (s.stream n).part.toNat) (s.slotAddr n f false) bytes
  let s2 := s1.setOwner n f { ((s1.owner n f).setSeal false .sealed crc) with committed := .ownA }
  ((s2.bump ctrSwapIns ch).bump ctrSwapOuts ch).bump ctrSwapBytes ch (2 * bytes.length)

/-- A step of copying a shared slot: what it leaves, its status, and whether every copy is sealed. -/
structure CopyStep where
  st : State
  status : BitVec 12
  done : Bool

/-- The shared slot read and checked for each future named, whose slot A becomes OPEN; a status other than OK when a read failed
twice, and then every sharer is marked DAMAGED. -/
def State.openCopies (s : State) (ch n : Nat) (place : Nat × Bool) : List Nat → CopyStep
  | [] => { st := s, status := stOk, done := false }
  | f :: fs =>
      let r := s.readSlot ch n place f true
      if r.status ≠ stOk then
        { st := r.st.mapOwners n (fun x => { x with damaged := true }) ((r.st.stream n).sharers place.1 place.2),
          status := r.status, done := false }
      else (r.st.setOwner n f ((r.st.owner n f).setSeal false .open_ (r.st.owner n f).crcA)).openCopies ch n place fs

/-- The copies written and sealed. -/
def State.sealCopies (s : State) (ch n : Nat) (place : Nat × Bool) : List Nat → State
  | [] => s
  | f :: fs =>
      (s.sealCopy ch n f (s.cisBytes (s.slotAddr n place.1 place.2) (s.stateBytes n)) ((s.owner n place.1).crc place.2)).sealCopies
        ch n place fs

/-- A shared slot copied for the futures named, in the steps of R285: first their slots are opened, then written and sealed. -/
def State.copySlot (s : State) (ch n : Nat) (place : Nat × Bool) (fs : List Nat) : CopyStep :=
  let shut := fs.filter fun f => (s.owner n f).sealA ≠ .open_
  if shut.isEmpty then { st := s.sealCopies ch n place fs, status := stOk, done := true } else s.openCopies ch n place shut

/-- The channels of an owner's slot serve (R429, R433). -/
def State.slotOpen (s : State) (n o : Nat) (b : Bool) : Bool := s.cisOpen (s.slotAddr n o b) (s.stateBytes n)

/-- The channels of a shared slot and of the slots that take its copies serve. -/
def State.copyReady (s : State) (n : Nat) (place : Nat × Bool) (fs : List Nat) : Bool :=
  s.slotOpen n place.1 place.2 && fs.all fun f => s.slotOpen n f false

/-! ### Reads of owners that a start refuses (R288, R432, R498) -/

/-- An owner's version lists a set lost with a channel (R432). -/
def State.versionLost (s : State) (n o : Nat) : Bool :=
  let pool := s.pool (s.stream n).part.toNat
  (pool.block (s.owner n o).block).sets.any fun k => (pool.set_ k).lost

def State.readsRefused (s : State) (n : Nat) (owners : List Nat) : Refused :=
  if (s.stream n).lost || owners.any (s.versionLost n) then some (stChannelRetired, 0)
  else if owners.any fun o => (s.owner n o).damaged then some (stMemUncorrectable, 1)
  else if owners.any fun o => (s.owner n o).torn then some (stStateTorn, 0)
  else none

/-- The refusal of an operation that reads owners: under STATE_TORN the TORN seals it names become EMPTY. -/
def State.refuseReads (s : State) (o : Op) (named : List Nat) (r : BitVec 12 × BitVec 16) : State :=
  (if r.1 = stStateTorn then s.mapOwners o.streamNo OwnerRec.clearTorn named else s).refuseOp o r

end Sys2Proof.Machine
end

