-- ==== Sys2Proof/Machine/Streams.lean ====
section
/-! DEFINITION. Stream operations (R47 to R65, R285 to R288, R484, R485): opening and closing, forks, prunes, and the start of
observations and rollouts with the chunks they make. -/

namespace Sys2Proof.Machine

/-! ### Fields of the operations (R57, R63) -/

def Op.base (o : Op) : Nat := o.fld 20 0 12
def Op.count_ (o : Op) : Nat := o.fld 22 0 12 + 1
def Op.horizon (o : Op) : Nat := o.fld 24 0 10 + 1
def Op.train (o : Op) : Bool := o.opcode = 4 && o.fld 27 0 1 = 1
def Op.observed (o : Op) : Bool := o.opcode = 2 || o.fld 26 0 2 = 1
/-- Observation handle (R63, R515). -/
def Op.handle (o : Op) : Nat := if o.opcode = 2 then o.fld 20 0 32 else o.fld 36 0 32

/-- n consecutive indices. -/
def indices (base n : Nat) : List Nat := (List.range n).map fun i => base + i

/-- Owners that an operation reads (R288). -/
def Op.readOwners (o : Op) : List Nat :=
  match o.opcode with
  | 2 => [trunkOwner]
  | 3 => [if o.fld 20 15 1 = 1 then trunkOwner else o.base]
  | 4 => indices o.base o.count_
  | _ => []

/-- Children of a FORK (R57). -/
def Op.children (o : Op) : List Nat := indices (o.fld 22 0 12) (o.fld 24 0 12 + 1)

/-- A check of R54 that no longer holds when the operation starts (R55). -/
def State.recheck (s : State) (o : Op) : Refused := (s.checkStream o (s.stream o.streamNo)).map fun r => (stDenied, r.2)

/-! ### Opening (R51) -/

/-- STREAM_OPEN: the trunk's zero state waits for its channels (R429). -/
def execStreamOpen (q : RingNo) (n : Seq) (s : State) : Answer :=
  s.opRow q n 0x01 fun s o =>
    match s.recheck o with
    | some r => s.refuseOp o r
    | none =>
      let sz := ((s.model? (o.fld 24 0 64)).map (·.stateBytes)).getD 0
      let zero : List Byte := List.replicate sz 0
      let r : StreamRec := { st := .open_, everOpen := true, home := some q, tenant := o.tenant s,
                             model := BitVec.ofNat 64 (o.fld 24 0 64), policy := BitVec.ofNat 64 (o.fld 32 0 64),
                             part := BitVec.ofNat 6 (o.fld 20 0 6), cap := o.fld 22 0 12 + 1, region := o.fld 40 0 48,
                             trainT := o.fld 48 0 64,
                             trunk := { live := true, sealA := .sealed, crcA := crc32c zero } }
      let s1 := s.setStream o.streamNo r
      let a := s1.slotAddr o.streamNo trunkOwner false
      if !s.cisOpen a sz then s else (s1.cisSend (some (o.fld 20 0 6)) a zero).finish o stOk

/-! ### Forks (R56 to R61) -/

/-- A child as a copy of its parent: it shares the parent's committed slot; its version follows by a SHARE edit. -/
def forkChild (parent : OwnerRec) (place : Nat × Bool) (x : OwnerRec) : OwnerRec :=
  { x with live := true, frame := parent.frame, committed := .shared place.1 place.2, latent := parent.latent }

/-- FORK: the journal write makes every child LIVE at once. -/
def execFork (q : RingNo) (n : Seq) (s : State) : Answer :=
  s.opRow q n 0x03 fun s o =>
    match s.recheck o with
    | some r => s.refuseOp o r
    | none =>
      let k := o.streamNo
      match s.readsRefused k o.readOwners with
      | some r => s.refuseReads o (o.readOwners ++ o.children) r
      | none =>
        let po := o.readOwners.headD trunkOwner
        let parent := s.owner k po
        let part := (s.stream k).part.toNat
        let s1 := (s.mapOwners k (forkChild parent (parent.committed.place po)) o.children).finish o stOk
        s1.submitEdits (o.children.map fun c =>
          { kind := .share, part := part, stream := k, owner := c, arg := parent.block, cause := some (q, n) })

/-! ### Prunes and closes (R60, R62) -/

/-- A released future: FREE, its slots EMPTY; its version goes by a CLEAR edit. -/
def freedOwner (x : OwnerRec) : OwnerRec := { block := x.block, vseq := x.vseq }

/-- CLEAR edits of owners. -/
def State.clearEdits (s : State) (k : Nat) (owners : List Nat) (cause : Option (RingNo × Seq)) : State :=
  s.submitEdits (owners.map fun c =>
    { kind := .clear, part := (s.stream k).part.toNat, stream := k, owner := c, arg := 0, cause := cause })

/-- LIVE futures that a PRUNE names. -/
def State.prunes (s : State) (o : Op) : List Nat :=
  (indices o.base o.count_).filter fun f => (s.owner o.streamNo f).live

/-- Slots of owners about to be released, copied for the futures outside `gone` that share them (R60). -/
def State.copyReleased (s : State) (ch k : Nat) (gone : List Nat) : List (Nat × Bool) → CopyStep
  | [] => { st := s, status := stOk, done := true }
  | p :: ps =>
      let fs := ((s.stream k).sharers p.1 p.2).filter fun f => !gone.contains f
      let r := s.copySlot ch k p fs
      if fs.isEmpty then s.copyReleased ch k gone ps
      else if !s.copyReady k p fs then { st := s, status := stOk, done := false }
      else if r.done then r.st.copyReleased ch k gone ps else r

/-- PRUNE: the slots it releases are first copied for the futures that share them, in the steps of SLOT_COPY. -/
def execPrune (q : RingNo) (n : Seq) (s : State) : Answer :=
  s.opRow q n 0x05 fun s o =>
    match s.recheck o with
    | some r => s.refuseOp o r
    | none =>
      let k := o.streamNo
      if (s.stream k).lost then s.refuseOp o (stChannelRetired, 0)
      else
        let gone := s.prunes o
        let r := s.copyReleased (s.partSluice (s.stream k).part.toNat) k gone (gone.flatMap fun f => [(f, false), (f, true)])
        if r.status ≠ stOk then r.st.finish o stMemUncorrectable 1
        else if !r.done then r.st
        else ((r.st.mapOwners k freedOwner gone).finish o stOk).clearEdits k gone (some (q, n))

/-- LIVE futures of a stream. -/
def StreamRec.liveFutures (r : StreamRec) : List Nat := (r.futs.filter fun x => x.2.live).map (·.1)

/-- STREAM_CLOSE: every owner is released; the operation completes with the final swap-out. -/
def execStreamClose (q : RingNo) (n : Seq) (s : State) : Answer :=
  s.opRow q n 0x06 fun s o =>
    match s.recheck o with
    | some r => s.refuseOp o r
    | none =>
      let k := o.streamNo
      let all := trunkOwner :: (s.stream k).liveFutures
      let s1 := ((s.mapOwners k freedOwner all).setStream k { (s.mapOwners k freedOwner all).stream k with st := .closing }).begin_ o
      s1.clearEdits k all (some (q, n))

/-! ### Which entries serve a chunk (R485) -/

/-- Header of a registered image. -/
def State.imageHead (s : State) (k : Nat) : List Byte := s.cisBytes (s.image k).addr 144

def ChunkKind.role : ChunkKind → Nat
  | .back => 1
  | .optim => 2
  | _ => 0

/-- An entry can serve a chunk of a model, a role and a TRAIN bit. -/
def State.serves (s : State) (model role : Nat) (train : Bool) (e : Nat) : Bool :=
  let w := s.entry e
  let k := partBits ROT_ENTRY_IMAGE w
  partBits ROT_ENTRY_VALID w = 1 && partBits ROT_ENTRY_ROLE w = role && (s.ctx.images.any fun x => x.1 = k)
  && (s.image k).model.toNat = model && imgTrain (s.imageHead k) = train

/-- Entries of a partition's active cycle that can serve. -/
def State.servers (s : State) (p model role : Nat) (train : Bool) : List Nat := (s.cycle p).filter (s.serves model role train)

/-- Batch size of an entry: P · FPP (R479). -/
def State.batchSize (s : State) (e : Nat) : Nat :=
  let i := s.imageHead (partBits ROT_ENTRY_IMAGE (s.entry e))
  imgFootW i * imgFootH i * (partBits ROT_ENTRY_FPP_M1 (s.entry e) + 1)

/-- Model of a chunk of an operation: the policy's for OPTIM (R485). -/
def State.chunkModel (s : State) (o : Op) (k : ChunkKind) : Nat :=
  let r := s.stream o.streamNo
  if k = .optim then ((s.policy? r.policy.toNat).map fun x => x.model.toNat).getD 0 else r.model.toNat

/-- The operation makes chunks of a kind that no entry of the active cycle serves. -/
def State.unserved (s : State) (o : Op) : Bool :=
  let p := (s.stream o.streamNo).part.toNat
  ([ChunkKind.frame] ++ (if o.train then [ChunkKind.back, ChunkKind.optim] else [])).any fun k =>
    (s.servers p (s.chunkModel o k) k.role o.train).isEmpty

/-- A partition's pages, main and emergency, and their metadata of 1,536 bytes a page lie in granules of the partition's tenant
(R294, R564). -/
def State.poolOwned (s : State) (p : Nat) : Bool :=
  let pages := s.rd PG_POOL_CTL_PAGES p + s.rd PG_POOL_CTL_EMERG p
  s.rangeDetail (s.partTenant p) (s.rd PG_POOL_BASE_ADDR p * 65536) (pages * s.pageBytes p) = none
  && s.rangeDetail (s.partTenant p) (s.rd PG_META_BASE_ADDR p * 65536) (pages * 1536) = none

/-- What refuses the start of an operation that makes chunks: its pool (R294, R564), an entry that serves (R485), a stranded
partition (R586). -/
def State.stepsRefused (s : State) (o : Op) : Refused :=
  let r := s.stream o.streamNo
  let p := r.part.toNat
  let g := ((s.model? r.model.toNat).map (·.geom)).getD 0
  if !s.flag PG_POOL_CTL_ENABLE p ∨ s.pageBytes p < geomPageBytes g then deny
  else if !s.poolOwned p then deny
  else if s.unserved o then deny
  else match s.strandingPlot p with
    | some l => some (stFenced, BitVec.ofNat 16 l)
    | none => none

/-! ### Chunks (R484, R316) -/

/-- DROPPED sets of an owner's version, oldest first. -/
def State.droppedOf (s : State) (k o : Nat) : List Nat :=
  let pool := s.pool (s.stream k).part.toNat
  (pool.block (s.owner k o).block).sets.filter fun n => (pool.set_ n).st = .dropped

/-- DROPPED sets that owners list, each with the first owner that lists it. -/
def State.toRefill (s : State) (k : Nat) (owners : List Nat) : List (Nat × Nat) :=
  owners.foldl (fun (l : List (Nat × Nat)) (o : Nat) =>
    l ++ (((s.droppedOf k o).filter fun n => !(l.map (·.2)).contains n).map fun n => (o, n))) []

/-- REFILL chunks from number i on: each takes up to b sets whose older DROPPED sets lie in earlier chunks. -/
def State.refillChunks (s : State) (o : Op) (b : Nat) (left : List (Nat × Nat)) (i : Nat) : Nat → List Chunk
  | 0 => []
  | fuel + 1 =>
      let names := left.map (·.2)
      let now := (left.filter fun x =>
        ((s.droppedOf o.streamNo x.1).takeWhile fun n => n ≠ x.2).all fun y => !names.contains y).take b
      if now.isEmpty then []
      else
        { kind := .refill, ring := o.ring, seq := o.seq, stream := BitVec.ofNat 17 o.streamNo, owners := now.map (·.1),
          batch := 0x3FFF, ordinal := i, sets := now.map (·.2) }
        :: s.refillChunks o b (left.filter fun x => !now.contains x) (i + 1) fuel

/-- Owners in batches of b. -/
def batches (b : Nat) (owners : List Nat) : Nat → List (List Nat)
  | 0 => []
  | fuel + 1 => if owners.isEmpty then [] else owners.take b :: batches b (owners.drop b) fuel

def Op.stepKind (o : Op) : ChunkKind := if o.opcode = 2 then .observe else .frame

/-- Chunks of an operation at its start: its refills, and frame 1 of every batch. -/
def State.firstChunks (s : State) (o : Op) (owners : List Nat) : List Chunk :=
  let r := s.stream o.streamNo
  let e := (s.servers r.part.toNat r.model.toNat 0 o.train).headD 0
  let b := max 1 (s.batchSize e)
  let left := s.toRefill o.streamNo owners
  s.refillChunks o b left 0 (left.length + 1)
  ++ ((batches b owners owners.length).zipIdx.map fun x =>
        { kind := o.stepKind, ring := o.ring, seq := o.seq, stream := BitVec.ofNat 17 o.streamNo, owners := x.1, batch := x.2,
          ordinal := 0 })

/-- Chunks put at the end of a partition's queue. -/
def State.queueChunks (s : State) (p : Nat) (cs : List Chunk) : State :=
  s.setPart p { s.part p with chunks := (s.part p).chunks ++ cs }

/-- Anchors taken on the versions of owners (R310). -/
def State.anchorAll (s : State) (p k : Nat) : List Nat → State
  | [] => s
  | o :: os => (s.setPool p ((s.pool p).incBlock (s.owner k o).block)).anchorAll p k os

/-- An operation that makes chunks starts. -/
def State.startSteps (s : State) (o : Op) : State :=
  let k := o.streamNo
  let owners := o.readOwners
  let p := (s.stream k).part.toNat
  let anchors := owners.map fun x => (x, (s.owner k x).block)
  let s1 := (s.anchorAll p k owners).setOp
    { o with stage := .running, owners := owners, anchors := anchors, pool := p, runs := owners.map fun x => { owner := x } }
  s1.queueChunks p (s.firstChunks o owners)

/-- The handle check of an operation that names a picture (R360). -/
def State.startHandle (s : State) (o : Op) : Refused :=
  if o.observed then s.handleRefused o (s.stream o.streamNo).tenant o.handle else none

/-- An operation that makes chunks starts, holding its picture. -/
def State.startHeld (s : State) (o : Op) : State :=
  let s1 := s.startSteps o
  if o.observed then s1.holdPic o o.handle else s1

/-- STREAM_OBSERVE. -/
def execStreamObserve (q : RingNo) (n : Seq) (s : State) : Answer :=
  s.opRow q n 0x02 fun s o =>
    match s.recheck o with
    | some r => s.refuseOp o r
    | none =>
      match s.readsRefused o.streamNo o.readOwners with
      | some r => s.refuseReads o o.readOwners r
      | none =>
        match (s.stepsRefused o).orElse fun _ => s.startHandle o with
        | some r => s.refuseOp o r
        | none => s.startHeld o

/-! ### The start of a rollout (R66, R68, R74) -/

/-- Bytes of the action input block that a descriptor's source reads (R68). -/
def Op.ainLen (o : Op) : Nat :=
  match o.fld 26 2 2 with
  | 0 => 48
  | 1 => 64 + o.count_ * o.horizon * 64
  | _ => 64 + o.horizon * 64

/-- How the read of the action input block goes: its bytes, a status, or a wait for its channels (R429) or for its Aquifer units to be
READY, which no read of the fetcher's fills (R45, R405). -/
inductive AinRead where
  | bytes (st : State) (b : List Byte)
  | refused (st : State) (r : BitVec 12 × BitVec 16)
  | wait

/-- The block is read once, at the descriptor's start (R68), under the rights of R380 and R641. -/
def State.readAin (s : State) (o : Op) : AinRead :=
  let a := o.fld 48 0 48
  let n := o.ainLen
  if s.masRow a ≠ s.masRow (a + n - 1) ∨ s.masRow a = 3 then .refused s (stDenied, 0)
  else match s.masRow a with
  | 0 =>
      match s.rangeDetail (o.tenant s) a n with
      | some d => .refused s (stDenied, d)
      | none =>
          let read := s.cisRead none a n
          if !s.cisOpen a n then .wait
          else if read.1 = stOk then .bytes read.2 (read.2.cisBytes a n) else .refused read.2 (read.1, 0)
  | 1 =>
      if s.resvOk (s.physOf ((a - 0x10000000000) / 0x1000000)) (a % 0x1000000) n then .bytes s (s.masBytes a n)
      else .refused s (stMemUncorrectable, 0)
  | _ => if s.wcReadyAll a n then .bytes s (s.masBytes a n) else .wait

/-- Where a TRAIN descriptor's update number stands (R74): it may start, it waits, or it does not follow. -/
inductive UpdateTurn where
  | go
  | wait
  | refused
  deriving DecidableEq, Repr

def State.updateTurn (s : State) (o : Op) : UpdateTurn :=
  if !o.train then .go
  else match s.policy? (s.stream o.streamNo).policy.toNat with
  | none => .refused
  | some p =>
      let u := BitVec.ofNat 32 (o.fld 44 0 32)
      if o.holdsUpdate then .go
      else if !follows u p.applied then .refused
      else if u ≠ p.applied + 1 ∨ p.held.isSome then .wait else .go

/-- A TRAIN descriptor whose first slot starts holds its update number until it completes. -/
def State.holdUpdate (s : State) (o : Op) : State :=
  let h := (s.stream o.streamNo).policy.toNat
  match s.policy? h with
  | some p =>
      if o.train && !o.holdsUpdate then
        (s.setPolicy h { p with held := some (BitVec.ofNat 32 (o.fld 44 0 32)) }).setOp { o with holdsUpdate := true }
      else s
  | none => s

/-- ROLLOUT. -/
def execRollout (q : RingNo) (n : Seq) (s : State) : Answer :=
  s.opRow q n 0x04 fun s o =>
    match s.recheck o with
    | some r => s.refuseOp o r
    | none =>
      match s.readsRefused o.streamNo o.readOwners with
      | some r => s.refuseReads o o.readOwners r
      | none =>
        match (s.stepsRefused o).orElse fun _ => s.startHandle o with
        | some r => s.refuseOp o r
        | none =>
          if s.updateTurn o = .refused then s.refuseOp o (stDenied, 0)
          else match s.readAin o with
            | .refused st r => st.refuseOp o r
            | .wait => s
            | .bytes st b => st.startHeld { o with ain := b }

/-! ### Readiness (R484) -/

/-- Chunks of an operation queued or in the partition's slot. -/
def State.opChunks (s : State) (p : Nat) (q : RingNo) (n : Seq) : List Chunk :=
  ((s.part p).chunks ++ (s.part p).slot.chunk.toList).filter fun c => c.ring = q && c.seq = n

/-- Edits of a kind that an operation still has in the queue. -/
def State.editWaits (s : State) (k : EditKind) (q : RingNo) (n : Seq) : Bool :=
  s.edits.any fun e => e.kind = k && e.cause = some (q, n)

/-- The condition under which a chunk becomes ready. -/
def State.chunkCond (s : State) (p : Nat) (c : Chunk) : Bool :=
  match s.op? c.ring c.seq with
  | none => false
  | some o =>
    let refills := (s.opChunks p c.ring c.seq).filter fun d => d.kind = .refill
    let refilled := !s.editWaits .refill c.ring c.seq
    o.stage = .running &&
    (match c.kind with
     | .refill => refilled && refills.all (fun d => decide (c.ordinal ≤ d.ordinal))
     | .observe => refilled && refills.isEmpty && o.inputReady
     | .frame =>
         if c.ordinal = 0 then refilled && refills.isEmpty && (!o.observed || o.inputReady)
         else !(s.edits.any fun e => e.kind = .append && e.cause = some (c.ring, c.seq) && c.owners.contains e.owner)
     | .back => !(s.edits.any fun e => e.kind = .append && e.cause = some (c.ring, c.seq) && c.owners.contains e.owner)
     | .optim => true)

/-- CHUNK_READY: the chunk named becomes ready, and with it every chunk of its operation whose condition holds at the same
moment (R485). -/
def execChunkReady (part : PartNo) (idx : Nat) (s : State) : Answer :=
  s.issue fun s =>
    let x := s.part part.toNat
    match x.chunks[idx]? with
    | none => s
    | some c =>
      if c.ready.isSome || !s.chunkCond part.toNat c then s
      else
        let t := s.rot.readyClock + 1
        let cs := x.chunks.map fun (d : Chunk) =>
          if d.ring = c.ring && d.seq = c.seq && d.ready.isNone && s.chunkCond part.toNat d then { d with ready := some t } else d
        let s1 := s.setPart part.toNat { x with chunks := cs, skips := 0 }
        { s1 with rot := { s1.rot with readyClock := t } }

/-! ### The record of an operation (R42, R518, R357) -/

/-- What an operation that named a picture leaves of it: AUTOREL clears OBS once the first such operation completes, and a hold
that no input job serves goes. -/
def State.leavePicture (s : State) (o : Op) : State :=
  if (o.opcode = 2 || (o.opcode = 4 && o.fld 26 0 2 = 1)) && !o.owners.isEmpty then
    let s1 := match s.heldPic o.ring o.seq with
      | some (k, p) => if s.hasInputJob o.ring o.seq then s else s.unholdPic o.ring o.seq k p.num
      | none => s
    s1.autoRelease o.handle
  else s

/-- COMPLETION_RECORD: the record of an operation that has ended and whose every write has been acknowledged (R42, R518). -/
def execCompletionRecord (q : RingNo) (n : Seq) (s : State) : Answer :=
  s.issue fun s =>
    match s.op? q n with
    | some o => if o.completed then (s.leavePicture o).writeRecord o else s
    | none => s

end Sys2Proof.Machine
end

