-- ==== Sys2Proof/Machine/Heads.lean ====
section
/-! DEFINITION. What the slots of an operation take and give for its owners (R65 to R67, R69, R73, R106, R316): latents, actions, the
results of the model's heads, activations and gradients. -/

namespace Sys2Proof.Machine

/-! ### Actions (R66 to R68) -/

/-- A bfloat16 code as a binary32 word. -/
def bf16Word (c : Nat) : Word := BitVec.ofNat 32 (c % 65536 * 65536)

/-- n of the action input block: from 1 to 20, any other value taken as 20 (R68). -/
def Op.ainN (o : Op) : Nat :=
  let v := (o.ain.getD 0 0).toNat
  if 1 ≤ v ∧ v ≤ 20 then v else 20

def Op.ainBf16 (o : Op) (off : Nat) : Word := bf16Word (leNat ((o.ain.drop off).take 2))
def Op.lambda (o : Op) : Word := BitVec.ofNat 32 (leNat ((o.ain.drop 4).take 4))
def Op.sigma (o : Op) (j : Nat) : Word := o.ainBf16 (8 + 2 * j)

/-- Physical plot of the partition's lowest-numbered logical plot, which forms the sums over futures (R71). -/
def State.scorer (s : State) (p : Nat) : Nat := s.physOf ((s.partPlots p).headD 0)

/-- Action noise element j of a future at a frame (R67, R96, R97). -/
def State.noise (s : State) (plot seed stream f t j : Nat) : Word :=
  let w := philox (BitVec.ofNat 32 (j / 2)) (BitVec.ofNat 32 t) (BitVec.ofNat 32 f) 0x01000000 (BitVec.ofNat 32 seed)
    (BitVec.ofNat 32 stream)
  let u1 := enc32 (.fin false ((philoxWord w 0).toNat / 256 + 1) (-24))
  let u2 := enc32 (.fin false ((philoxWord w 1).toNat / 256) (-24))
  let q := fmul (s.sfuHwAt plot 1 u1) 0xBFB17218
  let rad := if (dec32 fzero).lt (dec32 q) then fmul q (s.sfuHwAt plot 3 q) else fzero
  fmul rad (if j % 2 = 0 then s.sfuHwAt plot 9 u2 else s.sfuHwAt plot 8 u2)

/-- Element j of the action of a future at frame t, in binary32 (R66); μ is the policy network's. -/
def State.action (s : State) (o : Op) (plot future t j : Nat) (mu : Word) : Word :=
  let noisy := fun (m : Word) => fadd m (fmul (o.sigma j) (s.noise plot (o.fld 40 0 32) o.streamNo future t j))
  match o.fld 26 2 2 with
  | 0 => noisy mu
  | 1 => o.ainBf16 (64 + 64 * (o.horizon * (future - o.base) + t - 1) + 2 * j)
  | _ => noisy (o.ainBf16 (64 + 64 * (t - 1) + 2 * j))

/-! ### Latents (R56, R65, R339, R342) -/

def hwOpOf (bs : List Byte) (op : Nat) : Option Nat := (List.range (hwOps bs)).find? fun k => recOp (hwRec bs k) = op

/-- Offset in each plot's column and length of the token matrix that a model's input program writes (R341). -/
def State.inMatrix (s : State) (m : ModelRec) : Nat × Nat :=
  let bs := s.hwProg m.inProg
  match hwOpOf bs 2 with
  | some k =>
      let r := hwRec bs k
      (pfld r 8 0 32, (tokenMat (hwShapeAt bs k) (patchOf r) (pfld r 2 0 4) (pfld r 4 0 5)).bytes)
  | none => (0, 0)

/-- Offset and length of the matrix that its output program reads, of the same layout (R339, R342). -/
def State.outMatrix (s : State) (m : ModelRec) : Nat × Nat :=
  match hwOpOf (s.hwProg m.outProg) 3 with
  | some k => (pfld (hwRec (s.hwProg m.outProg) k) 8 0 32, (s.inMatrix m).2)
  | none => (0, 0)

def State.streamModel (s : State) (n : Nat) : ModelRec := (s.model? (s.stream n).model.toNat).getD {}

/-- Physical plot and owner slot of the k-th owner of a chunk (R486). -/
def State.seat (s : State) (p k : Nat) : Nat × Nat :=
  let plots := s.partPlots p
  (s.physOf (plots.getD (k % plots.length) 0), k / plots.length)

def Op.run (o : Op) (owner : Nat) : FutureRun := (o.runs.find? fun r => r.owner = owner).getD { owner := owner }
def Op.setRun (o : Op) (r : FutureRun) : Op := { o with runs := o.runs.map fun x => if x.owner = r.owner then r else x }

/-- The matrix that an observation's input job has written in a plot (R341). -/
def State.observation (s : State) (n q : Nat) : List Byte :=
  let m := s.inMatrix (s.streamModel n)
  s.resvBytes q m.1 m.2

/-- The latent that a frame starts from (R65), or that a refill takes from its set's recipe (R316). -/
def State.latentFor (s : State) (p : Nat) (c : Chunk) (o : Op) (owner k : Nat) : List Byte :=
  let n := c.stream.toNat
  if c.kind = .refill then ((s.pool p).set_ (c.sets.getD k 0)).latent
  else if c.ordinal ≠ 0 then (o.run owner).latent
  else if o.observed then s.observation n (s.seat p k).1
  else (s.owner n owner).latent

/-- What R110 lists beside contents, for the k-th owner of a slot: the image, SEED, UPDATE, the window W, the logical plots and their
tables. -/
def State.runKey (s : State) (p : Nat) (o : Op) (k : Nat) : List Nat :=
  [(imgId (s.part p).slot.img).toNat, o.fld 40 0 32, o.fld 44 0 32, min (o.fld 29 0 6 + 1) o.horizon, k]
  ++ (s.partPlots p).flatMap fun l =>
      l :: (List.range 16).flatMap fun u => [(s.sfuPath (s.physOf l) u).toNat, (s.sfuTable (s.physOf l) u).toNat]

/-- The policy network's weights as its forward pass reads them (R107). -/
def PolicyRec.high (p : PolicyRec) : List Word := (List.range p.n).map fun i => p.weights.getD (2 * i) 0

/-- The action of a frame: 20 elements, of which those from n on are zero in every record (R66, R72). A refill takes the recipe's. -/
def State.actionFor (s : State) (p : Nat) (c : Chunk) (o : Op) (owner k : Nat) (latent : List Byte) : List Word :=
  if c.kind = .refill then ((s.pool p).set_ (c.sets.getD k 0)).action
  else if o.opcode ≠ 4 then []
  else
    let w := ((s.policy? (s.stream c.stream.toNat).policy.toNat).map PolicyRec.high).getD []
    (List.range 20).map fun j =>
      s.action o (s.scorer p) owner (c.ordinal + 1) j (Config.policyMean (s.runKey p o k) w latent j)

def Chunk.runsModel (c : Chunk) : Bool := c.kind = .observe || c.kind = .refill || c.kind = .frame

/-- What a slot gives its owners. -/
def State.givens (s : State) (p : Nat) (c : Chunk) (o : Op) : List Given :=
  if c.runsModel then c.owners.zipIdx.map fun y =>
    let l := s.latentFor p c o y.1 y.2
    { owner := y.1, latent := l, action := s.actionFor p c o y.1 y.2 l }
  else []

/-- Latents put where the input program's matrix stands, that of owner slot i as the i-th from there; an observation stands there already
(R65; log entry 113). -/
def State.placeLatents (s : State) (p : Nat) (c : Chunk) (o : Op) : List (Given × Nat) → State
  | [] => s
  | (g, k) :: rest =>
      let m := s.inMatrix (s.streamModel c.stream.toNat)
      (if (c.kind ≠ .refill && c.ordinal = 0 && o.observed) || g.latent.isEmpty then s
       else s.resvWrite (s.seat p k).1 (m.1 + (s.seat p k).2 * m.2) g.latent).placeLatents p c o rest

/-- A set keeps the latent and the action of its frame for its recipe (R316). -/
def State.keepRecipe (s : State) (p : Nat) (openSet : Option Nat) (g : Given) : State :=
  match openSet with
  | some n =>
      let pool := s.pool p
      if (pool.set_ n).pinnable then s.setPool p (pool.setSet n { pool.set_ n with latent := g.latent, action := g.action }) else s
  | none => s

def State.keepRecipes (s : State) (p stream : Nat) : List Given → State
  | [] => s
  | g :: gs => (s.keepRecipe p (s.owner stream g.owner).openSet g).keepRecipes p stream gs

/-- Latents and actions given as a slot starts. -/
def State.giveSlot (s : State) (p : Nat) (c : Chunk) (o : Op) : State :=
  let gs := s.givens p c o
  let s1 := s.placeLatents p c o gs.zipIdx
  let s2 := s1.setPart p { s1.part p with slot := { (s1.part p).slot with given := gs } }
  if c.kind = .refill then s2 else s2.keepRecipes p c.stream.toNat gs

/-! ### What a slot gives back (R69, R73, R106) -/

/-- Contents of a plot: its column, and its accumulator tiles. -/
def State.plotContents (s : State) (q : Nat) : List (Nat × Nat) :=
  ((s.mem.resv.filter fun x => x.1 / 2 ^ 24 = q).map fun x => (x.1 % 2 ^ 24, x.2.toNat)) ++ [(2 ^ 24, sget 0 s.mem.fog q)]
  ++ (s.plot q).tiles.flatMap fun t => t.2.data.zipIdx.map fun y => (2 ^ 25 + 4096 * t.1 + y.2, y.1.toNat)

/-- A result of an owner as its slot ends: 0 its reward, 1 its value, 2 an activation, 3 a gradient. -/
def State.head (s : State) (p : Nat) (o : Op) (k : Nat) (g : Given) (what i : Nat) : Word :=
  Config.headWord (s.runKey p o k) g.latent g.action ((s.partPlots p).map fun l => s.plotContents (s.physOf l)) what i

/-- The latent a frame leaves: the matrix that the output program reads (R342). -/
def State.latentOut (s : State) (p n k : Nat) : List Byte :=
  let m := s.outMatrix (s.streamModel n)
  s.resvBytes (s.seat p k).1 (m.1 + (s.seat p k).2 * m.2) m.2

/-- Bytes of activations of a future-frame, and where those of frame t of a future lie in the training scratch, which holds the last
min(W, H) frames of each (R49, R54, R73). -/
def State.actBytes (s : State) (o : Op) : Nat := (s.streamModel o.streamNo).actBytes
def Op.window (o : Op) : Nat := min (o.fld 29 0 6 + 1) o.horizon
def State.scratchAddr (s : State) (o : Op) (future t : Nat) : Nat :=
  let r := s.stream o.streamNo
  r.region + regionBytes r.cap (s.stateBytes o.streamNo) 0 + ((future - o.base) * o.window + (t - 1) % o.window) * s.actBytes o

/-- The channels of the training scratch serve (R429). -/
def State.scratchOpen (s : State) (o : Op) : Bool :=
  !o.train || s.cisOpen (s.scratchAddr o o.base 1) (o.count_ * o.window * s.actBytes o)

/-- A frame's results noted, its activations stored under TRAIN. -/
def State.noteFrame (s : State) (p : Nat) (c : Chunk) (q : RingNo) (n : Seq) : List (Given × Nat) → State
  | [] => s
  | (g, k) :: rest =>
      match s.op? q n with
      | none => s
      | some o =>
        let r := o.run g.owner
        let r1 : FutureRun := { r with actions := r.actions ++ [g.action], rewards := r.rewards ++ [s.head p o k g 0 0],
                                       value := s.head p o k g 1 0, latent := s.latentOut p c.stream.toNat k }
        let s1 := s.setOp (o.setRun r1)
        let s2 := if o.train then s1.cisSend (some p) (s.scratchAddr o g.owner (c.ordinal + 1))
                      ((List.range (s.actBytes o)).map fun i => (s.head p o k g 2 i).setWidth 8) else s1
        s2.noteFrame p c q n rest

/-! ### Gradients (R71, R73, R106) -/

/-- A draw of the generator (R95, R96) at a place: the element, the ordinal of its conversion and its logical plot are of the mapper's
placement, which is a free value (log entry 1). -/
def placedDraw (place seed update ord : Nat) : Nat :=
  let c3 := 2 * 2 ^ 24 + place / 2 ^ 34 % 1024 * 2 ^ 14
  (philoxWord (philox (BitVec.ofNat 32 (place % 1024)) (BitVec.ofNat 32 (place / 2 ^ 12 % 2 ^ 20)) (BitVec.ofNat 32 ord)
    (BitVec.ofNat 32 c3) (BitVec.ofNat 32 seed) (BitVec.ofNat 32 update)) (place / 1024 % 4)).toNat % 65536

/-- Values converted to an MX format under COMPUTED scales with stochastic rounding, in blocks of 32 in parameter order, and decoded as
they are stored. -/
def narrow (f : Nat) (draw : Nat → Nat) (i : Nat) : Nat → List Word → List Word
  | 0, _ => []
  | fuel + 1, l =>
      if l.isEmpty then []
      else
        let row := l.take 64
        let c := convRow f false 0 row.length (row.map dec32) fun k => .stochastic (draw (i + k))
        ((List.range row.length).map fun k => enc32 (scaledDec f (c.1.getD k 0) (c.2.1.getD (k / 32) 0)))
        ++ narrow f draw (i + 64) fuel (l.drop 64)

/-- A gradient as it leaves the accumulators: MXFP8_E5M2, COMPUTED, stochastic (R106). -/
def Op.gradient (o : Op) (ord node : Nat) (l : List Word) : List Word :=
  narrow 6 (fun k => placedDraw (Config.gradientPlace node k) (o.fld 40 0 32) (o.fld 44 0 32) ord) 0 l.length l

/-- The activations that a backward step of frame t reaches: those of the last W frames up to it. -/
def State.activations (s : State) (o : Op) (future t : Nat) : List Byte :=
  (List.range o.window).flatMap fun i => if t ≤ i then [] else s.cisBytes (s.scratchAddr o future (t - i)) (s.actBytes o)

/-- A backward step's gradients added to those its futures keep. -/
def State.noteBack (s : State) (p n : Nat) (c : Chunk) (o : Op) : List (Nat × Nat) → Op
  | [] => o
  | (f, k) :: rest =>
      let o1 := s.noteBack p n c o rest
      let r := o1.run f
      let g : Given := { owner := f, latent := s.activations o f (2 * o.horizon - c.ordinal), action := [] }
      let new := (List.range n).map fun i => s.head p o k g 3 i
      let sum := if r.grad.isEmpty then new else r.grad.zipWith fadd new
      o1.setRun { r with grad := o.gradient c.ordinal f sum }

/-- What an ended slot gave its owners, kept with the operation. -/
def State.noteSlot (s : State) (p : Nat) (c : Chunk) (o : Op) : State :=
  match c.kind with
  | .frame => s.noteFrame p c c.ring c.seq (s.part p).slot.given.zipIdx
  | .observe => s.noteFrame p c c.ring c.seq (s.part p).slot.given.zipIdx
  | .back => s.setOp (s.noteBack p (((s.policy? (s.stream o.streamNo).policy.toNat).map (·.n)).getD 0) c o c.owners.zipIdx)
  | _ => s

/-- The sum of gradients over futures as a pairwise tree, each addition decoded, added and converted back (R71, R106). -/
def Op.treeGrads (o : Op) : Nat → Nat → List (List Word) → List Word
  | 0, _, l => l.headD []
  | fuel + 1, node, l =>
      if l.length ≤ 1 then l.headD []
      else
        let h := (l.length + 1) / 2
        o.gradient (2 * o.horizon) node ((o.treeGrads fuel (2 * node) (l.take h)).zipWith fadd (o.treeGrads fuel (2 * node + 1) (l.drop h)))

def Op.gradients (o : Op) : List Word := o.treeGrads o.runs.length (trunkOwner + 1) (o.runs.map (·.grad))

end Sys2Proof.Machine
end

