-- ==== Sys2Proof/Machine/Commit.lean ====
section
/-! DEFINITION. The end of a rollout (R64, R66 to R72, R75, R286): actions, returns, ranking, plans, the records, and the flip of the
committed slots; and the optimiser step of a policy (R93, R107, R108). -/

namespace Sys2Proof.Machine

/-! ### Scoring (R69 to R71) -/

/-- The return G of a future: from V backwards over its rewards. -/
def returnOf (gamma v : Word) (rewards : List Word) : Word := rewards.foldr (fun r g => fadd r (fmul gamma g)) v

/-- A future and its return. -/
abbrev Scored := FutureRun × Word

/-- A future put in its place: a higher G first, equal ones by ascending index, which is the order they arrive in (R70). -/
def rankIn (x : Scored) : List Scored → List Scored
  | [] => [x]
  | y :: ys => if (dec32 y.2).lt (dec32 x.2) then x :: y :: ys else y :: rankIn x ys

/-- Futures ranked; one whose G is NaN is not. -/
def ranked (l : List Scored) : List Scored := (l.filter fun x => !isNan32 x.2).foldl (fun r x => rankIn x r) []

/-- A sum as a pairwise tree over terms in order (R71). -/
def treeSum : Nat → List Word → Word
  | 0, l => l.headD fzero
  | fuel + 1, l =>
      if l.length ≤ 1 then l.headD fzero
      else
        let h := (l.length + 1) / 2
        fadd (treeSum fuel (l.take h)) (treeSum fuel (l.drop h))

/-- Contributing futures in ascending index order. -/
def inOrder (l : List Scored) (chosen : List Scored) : List Scored :=
  l.filter fun x => chosen.any fun y => y.1.owner = x.1.owner

/-- A positive finite temperature (R69). -/
def lambdaOk (w : Word) : Bool := finite32 w && (dec32 fzero).lt (dec32 w)

/-- Element j of a future's action at frame t. -/
def FutureRun.elem (r : FutureRun) (t j : Nat) : Word := (r.actions.getD (t - 1) []).getD j 0

/-- A plan element in binary32 (R69, R71). -/
def State.planElem (s : State) (o : Op) (plot : Nat) (all rank : List Scored) (t j : Nat) : Word :=
  let act := fun (x : Scored) => x.1.elem t j
  let best := match rank with | x :: _ => act x | [] => canonicalNan
  if rank.isEmpty then canonicalNan
  else match o.fld 26 4 3 with
  | 2 =>
      let k := min (o.fld 28 0 8 + 1) rank.length
      fdiv (treeSum k ((inOrder all (rank.take k)).map act)) (ofNat32 k)
  | 3 =>
      if !lambdaOk o.lambda then best
      else
        let g := (rank.map (·.2)).headD 0
        let c := inOrder all rank
        let w := c.map fun x => s.sfuHwAt plot 0 (fdiv (fsub x.2 g) o.lambda)
        fdiv (treeSum c.length ((c.zip w).map fun x => fmul x.2 (act x.1))) (treeSum c.length w)
  | _ => best

/-! ### Records (R72) -/

def bf16Inf (c : Nat) : Bool := c % 2 ^ 15 = 0x7F80

/-- A 64-byte record: its action has n elements, the rest zero. -/
def Op.record_ (o : Op) (future frame kind : Nat) (noPlan : Bool) (g : Word) (action : List Word) : List Byte :=
  let codes := action.map bf16
  let flags := (if noPlan then 1 else 0) + (if codes.any bf16Inf then 2 else 0)
  leBytes 4 o.streamNo ++ leBytes 2 future ++ leBytes 2 frame ++ leBytes 4 o.seq.toNat ++ leBytes 1 kind ++ leBytes 1 o.ainN
  ++ leBytes 2 flags ++ leBytes 4 g.toNat ++ leBytes 4 o.pver.toNat
  ++ (codes ++ List.replicate (20 - codes.length) 0).flatMap (leBytes 2)

/-- The records of a rollout, return records first. -/
def State.records (s : State) (o : Op) : List (List Byte) :=
  let plot := s.scorer (s.stream o.streamNo).part.toNat
  let gamma := BitVec.ofNat 32 (o.fld 32 0 32)
  let all : List Scored := o.runs.map fun r => (r, returnOf gamma r.value r.rewards)
  let rank := ranked all
  let js := List.range o.ainN
  let returns := if o.fld 27 2 1 = 1 then
      all.map fun x => o.record_ x.1.owner 0 2 false x.2 (js.map (x.1.elem 1)) else []
  let top := (rank.map (·.2)).headD canonicalNan
  let plans := if o.fld 27 3 1 = 1 ∧ o.fld 26 4 3 ≠ 0 then
      (List.range o.horizon).map fun i => o.record_ 0xFFFF (i + 1) 1 rank.isEmpty top (js.map (s.planElem o plot all rank (i + 1)))
    else []
  returns ++ plans

/-- Records written from an address on. -/
def State.writeRecords (s : State) (o : Op) (addr : Nat) : List (List Byte) → State
  | [] => s
  | r :: rs => (s.hostWrite o addr r).writeRecords o (addr + 64) rs

/-! ### The commit (R64, R286) -/

/-- An owner after the commit: the slot its operation last sealed is its committed slot, its frame counter has advanced, and its
latest latent is that of its last frame. -/
def commitOwner (h : Nat) (latent : List Byte) (x : OwnerRec) : OwnerRec :=
  { x with committed := x.reads, current := none, frame := x.frame + h, latent := latent }

def State.commitOwners (s : State) (k : Nat) (o : Op) (h : Nat) : List Nat → State
  | [] => s
  | x :: xs => (s.setOwner k x (commitOwner h (o.run x).latent (s.owner k x))).commitOwners k o h xs

/-- Frames by which an operation advances its owners. -/
def Op.frames (o : Op) : Nat := if o.opcode = 2 then 1 else o.horizon

/-- The operation runs and every chunk it makes has ended, its swap-outs are sealed and its versions applied. -/
def State.mayCommit (s : State) (o : Op) : Bool :=
  let p := (s.stream o.streamNo).part.toNat
  o.stage = .running && (o.opcode = 2 || o.opcode = 4) && (s.opChunks p o.ring o.seq).isEmpty
  && !((s.part p).transit.any fun t => t.ring = o.ring && t.seq = o.seq) && !s.editWaits .append o.ring o.seq

/-- A waiting TRAIN descriptor whose update number no longer follows the applied counter completes with SECURITY_DENIED (R74). -/
def State.refuseWaiters (s : State) (h : Nat) : List Op → State
  | [] => s
  | x :: xs =>
      (match s.op? x.ring x.seq with
       | some o => if o.stage = OpStage.running && !o.holdsUpdate && (s.stream o.streamNo).policy.toNat = h && s.updateTurn o = UpdateTurn.refused
                   then s.failOp o stDenied else s
       | none => s).refuseWaiters h xs

/-- ROLLOUT_COMMIT: the committed slots flip and the records follow. An observation commits its trunk the same way. -/
def execRolloutCommit (q : RingNo) (n : Seq) (s : State) : Answer :=
  s.issue fun s =>
    match s.op? q n with
    | none => s
    | some o =>
      if !s.mayCommit o then s
      else
        let recs := if o.opcode = 2 then [] else s.records o
        let s1 := s.commitOwners o.streamNo o o.frames o.owners
        let s2 := s1.releaseUpdate o
        let s3 := s2.finish { o with holdsUpdate := false } (if o.status = stWidened then stWidened else stOk) 0
          (BitVec.ofNat 32 recs.length)
        let s4 := s3.writeRecords o (o.fld 56 0 64) recs
        if o.train then s4.refuseWaiters (s.stream o.streamNo).policy.toNat (s4.host.ops.filter Op.train) else s4

/-! ### The optimiser step (R93, R107, R108) -/

/-- The 16-bit draw of a parameter's conversion (R95, R96). -/
def optimiserDraw (seed update ord n k : Nat) : Nat := placedDraw (Config.optimiserPlace n k) seed update ord

/-- One moment converted as it is stored: side 0 the first, 1 the second. -/
def storeMoments (f seed update ord n side : Nat) (l : List Word) : List Word :=
  narrow f (fun k => optimiserDraw seed update ord n (2 * k + side)) 0 l.length l

/-- One parameter after a step: its weight pair, from its moments as stored. -/
def stepWeight (f : Nat → Word → Word) (b1 b2 eta eps u m v hi lo : Word) : List Word :=
  let c1 := fsub fone (f 0 (fmul u (f 1 b1)))
  let c2 := fsub fone (f 0 (fmul u (f 1 b2)))
  let mh := fmul m (f 2 c1)
  let vh := fmul v (f 2 c2)
  let dw := fmul (fmul (fneg eta) mh) (f 3 (fadd vh (fmul eps eps)))
  let x := fadd (fadd (bf16Word hi.toNat) (bf16Word lo.toNat)) dw
  let h := bf16 x
  [BitVec.ofNat 32 h, BitVec.ofNat 32 (bf16 (fsub x (bf16Word h)))]

/-- A policy after the step of update u with summed gradients. -/
def PolicyRec.optimise (p : PolicyRec) (f : Nat → Word → Word) (seed ord : Nat) (u : Word) (grads : List Word) : PolicyRec :=
  let h := fun (k : Nat) => p.hyper.getD k 0
  let b1 := h 0
  let b2 := h 1
  let m := (p.moments.take p.n).zipWith (fun m g => fadd (fmul b1 m) (fmul (fsub fone b1) g)) grads
  let v := (p.moments.drop p.n).zipWith (fun v g => fadd (fmul b2 v) (fmul (fsub fone b2) (fmul g g))) grads
  let ms := storeMoments 5 seed u.toNat ord p.n 0 m
  let vs := storeMoments 6 seed u.toNat ord p.n 1 v
  let w := (List.range p.n).flatMap fun i =>
    stepWeight f b1 b2 (h 2) (h 3) (ofNat32 u.toNat) (ms.getD i 0) (vs.getD i 0) (p.weights.getD (2 * i) 0)
      (p.weights.getD (2 * i + 1) 0)
  { p with weights := w, moments := ms ++ vs, applied := u }

/-- A running descriptor other than the named one pins a version of a policy older than u (R75). -/
def State.olderPinned (s : State) (o : Op) (h : Nat) (u : Word) : Bool :=
  s.host.ops.any fun x => !(x.ring = o.ring && x.seq = o.seq) && x.opcode = 4 && x.stage = OpStage.running && x.pinned
    && (s.stream x.streamNo).policy.toNat = h && follows u x.pver

/-- OPTIMISER_STEP: the OPTIM slot's step over every parameter of the policy, with the gradients summed over the operation's futures;
the policy's region takes the new weights (R107). -/
def execOptimiserStep (part : PartNo) (s : State) : Answer :=
  s.issue fun s =>
    let x := (s.part part.toNat).slot
    match x.chunk.bind fun c => if c.kind = .optim then s.op? c.ring c.seq else none with
    | none => s
    | some o =>
      let h := (s.stream o.streamNo).policy.toNat
      let u := BitVec.ofNat 32 (o.fld 44 0 32)
      match s.policy? h with
      | none => s
      | some p =>
        if x.phase ≠ .running ∨ p.applied = u ∨ s.olderPinned o h u = true ∨ s.cisOpen p.region (policyBytes p.n) = false then s
        else
          let f := s.sfuHwAt (s.scorer part.toNat)
          s.storePolicy (some part.toNat) h (p.optimise f (o.fld 40 0 32) (2 * o.horizon) u o.gradients)

end Sys2Proof.Machine
end

