-- ==== Sys2Proof/Machine/Sluice.lean ====
section
/-! DEFINITION. The sluice engine (R285, R487, R494 to R498): swap-outs and their transit, swap-ins, copies of shared slots, the final
swap-out of a stream, and refilled sets. -/

namespace Sys2Proof.Machine

/-! ### An owner's state on a plot (R487) -/

/-- Tiles that carry state, in ascending order. -/
def stateTiles (m : BitVec 16) : List Nat := (List.range 16).filter fun t => m.getLsbD t

/-- Where owner slot i of a slot lies: a column offset, or none for the STATE_MAP tiles. -/
def ownerPlace (m : BitVec 16) (stateOff sz i : Nat) : Option Nat :=
  if m = 0 then some (stateOff + i * sz) else if i = 0 then none else some (stateOff + (i - 1) * sz)

/-- 16 KiB of a tile's elements. -/
def Tile.bytes (t : Tile) : List Byte := (List.range 4096).flatMap fun k => leBytes 4 (t.data.getD k 0).toNat

/-- The state as it stands on a plot, or none where a Reservoir word cannot be read. -/
def State.plotState (s : State) (p sz : Nat) : Option Nat → Option (List Byte)
  | some off => if s.resvOk p off sz then some (s.resvBytes p off sz) else none
  | none => let x := s.plot p; some (((stateTiles x.stateMap).flatMap fun t => (x.tile t).bytes).take sz)

/-- A LIVE tile that holds 16 KiB of state. -/
def stateTile (bs : List Byte) : Tile :=
  { st := .live, data := (List.range 4096).map fun k => BitVec.ofNat 32 (leNat ((bs.drop (4 * k)).take 4)) }

def fillTiles (x : Plot) (bs : List Byte) : List Nat → Plot
  | [] => x
  | t :: ts => fillTiles (x.setTile t (stateTile (bs.take 16384))) (bs.drop 16384) ts

/-- State written into its place on a plot. -/
def State.putState (s : State) (p : Nat) (bs : List Byte) : Option Nat → State
  | some off => s.resvWrite p off bs
  | none => s.setPlot p (fillTiles (s.plot p) bs (stateTiles (s.plot p).stateMap))

/-! ### Transit (R495) -/

/-- Bytes of a channel's 2 MiB transit buffer that hold state. -/
def State.transitUsed (s : State) (ch : Nat) : Nat :=
  s.rot.parts.foldl (fun (n : Nat) (x : Nat × Part) =>
    x.2.transit.foldl (fun (m : Nat) (t : Transit) => if t.read && sluiceOf t.lplot = ch then m + t.bytes.length else m) n) 0

def Transit.is (a b : Transit) : Bool := a.stream = b.stream && a.owner = b.owner && a.ring = b.ring && a.seq = b.seq

def State.setTransit (s : State) (p : Nat) (t : Transit) : State :=
  s.setPart p { s.part p with transit := (s.part p).transit.map fun u => if u.is t then t else u }

def State.dropTransit (s : State) (p : Nat) (t : Transit) : State :=
  s.setPart p { s.part p with transit := (s.part p).transit.filter fun u => !u.is t }

/-- Slot that a swap-out writes. -/
def State.outPlace (s : State) (t : Transit) : Nat × Bool := (t.owner, (s.owner t.stream.toNat t.owner).target)

/-- The operation of a failed swap-out completes with MEM_UNCORRECTABLE. -/
def State.failTransit (s : State) (p : Nat) (t : Transit) (dt : BitVec 16) : State :=
  let s1 := s.dropTransit p t
  match s1.op? t.ring t.seq with
  | some o => if o.stage = .running then s1.failOp o stMemUncorrectable dt else s1
  | none => s1

/-- The seal of a swap-out's slot written as OPEN (R285 step 1). -/
def State.openOut (s : State) (t : Transit) : State :=
  let n := t.stream.toNat
  let d := s.outPlace t
  s.setOwner n t.owner ((s.owner n t.owner).setSeal d.2 .open_ ((s.owner n t.owner).crc d.2))

/-- One owner's state read into the transit buffer, if it has room; the seal of its slot becomes OPEN unless futures still share
that slot (R60). -/
def State.readTransit (s : State) (p : Nat) (t : Transit) : State :=
  let n := t.stream.toNat
  let sz := s.stateBytes n
  let ch := sluiceOf t.lplot
  if t.read || (s.transitUsed ch ≠ 0 && decide (2 ^ 21 < s.transitUsed ch + sz)) then s
  else match s.plotState (s.physOf t.lplot) sz t.resv with
  | none => (s.sluiceLog ch n t.owner 2 stMemUncorrectable false false).failTransit p t 0
  | some bs =>
      let s1 := s.setTransit p { t with read := true, bytes := bs }
      let d := s1.outPlace t
      if ((s1.stream n).sharers d.1 d.2).isEmpty then s1.openOut t else s1

def State.readTransits (s : State) (p : Nat) : List Transit → State
  | [] => s
  | t :: ts => (s.readTransit p t).readTransits p ts

/-- A partition whose swap-outs have all been sealed is swapping no longer (R477). -/
def State.endSwapping (s : State) (p : Nat) : State :=
  let x := s.part p
  if x.slot.phase = .swapping && x.transit.isEmpty then
    (s.setPart p { x with slot := { x.slot with phase := .idle } }).syncIdle p
  else s

/-- The first state word with one bit flipped. -/
def flipFirst (bs : List Byte) (bit : Nat) : List Byte :=
  let w := leNat (bs.take 4) ^^^ 2 ^ (bit % 32)
  leBytes 4 w ++ bs.drop 4

/-- A swap-out's state written to its slot and sealed with the CRC formed as it was read (R285, R498); a seep may flip a bit behind
the CRC (R504). -/
def State.sealOut (s : State) (p : Nat) (t : Transit) : State :=
  let n := t.stream.toNat
  let ch := sluiceOf t.lplot
  let d := s.outPlace t
  let h := s.seepOne .sluice ch 0
  let bytes := match h.word with
    | some w => flipFirst t.bytes (getBits w 4 5)
    | none => t.bytes
  let s1 := h.st.cisSend (some (s.stream n).part.toNat) (s.slotAddr n d.1 d.2) bytes
  let x := (s1.owner n t.owner).setSeal d.2 .sealed (crc32c t.bytes)
  let runs := (s1.op? t.ring t.seq).any fun o => o.stage = .running
  let cur : Option SlotRef := if runs then some (if d.2 then .ownB else .ownA) else x.current
  let s2 := s1.setOwner n t.owner { x with current := cur }
  ((s2.bump ctrSwapOuts ch).bump ctrSwapBytes ch t.bytes.length).dropTransit p t

/-! ### The queue of a channel (R494) -/

/-- A swap-in that its channel can serve: the owner's state is not in transit, and the channels of its slot serve. -/
def State.inReady (s : State) (k : Nat) (x : Part) (y : Nat × Nat) : Bool :=
  let plots := s.partPlots k
  match x.slot.chunk, (x.slot.chunk.bind fun c => c.owners[y.1 + plots.length * y.2]?) with
  | some c, some o =>
      let n := c.stream.toNat
      let place := (s.owner n o).reads.place o
      if c.kind = .refill then ((s.pool k).set_ (c.sets.getD (y.1 + plots.length * y.2) 0)).st = .refilling
      else !x.transit.any (fun t => t.stream.toNat = n && t.owner = o) && s.slotOpen n place.1 place.2
  | _, _ => false

/-- A channel has a swap-in to serve. -/
def State.insWaiting (s : State) (ch : Nat) : Bool :=
  s.rot.parts.any fun x => x.2.slot.phase = .running && x.2.slot.insLeft.any fun y =>
    sluiceOf ((s.partPlots x.1).getD y.1 0) = ch && s.inReady x.1 x.2 y

/-- It is a swap-out's turn on its channel: swap-ins are served first, then swap-outs in arrival order. -/
def State.outTurn (s : State) (t : Transit) : Bool :=
  let ch := sluiceOf t.lplot
  !s.insWaiting ch && !s.rot.parts.any fun x => x.2.transit.any fun u => u.read && sluiceOf u.lplot = ch && decide (u.num < t.num)

/-- SWAP_OUT: the owner's state goes to the slot that is not its committed slot. Futures that share that slot are given their copies
first (R60), and its seal is OPEN while they have theirs and the state is not yet sealed. -/
def execSwapOut (part : PartNo) (pos : Nat) (slot : BitVec 3) (s : State) : Answer :=
  s.issue fun s =>
    let p := part.toNat
    match (s.part p).transit.find? fun t => t.pos = pos && t.slot = slot.toNat with
    | none => s
    | some t =>
      if !t.read || !s.outTurn t then s
      else
        let n := t.stream.toNat
        let d := s.outPlace t
        let fs := (s.stream n).sharers d.1 d.2
        let ends := fun (s1 : State) => (s1.readTransits p (s1.part p).transit).endSwapping p
        if fs.isEmpty then (if s.slotOpen n d.1 d.2 then ends (s.sealOut p t) else s)
        else if !s.copyReady n d fs then s
        else
          let r := s.copySlot (sluiceOf t.lplot) n d fs
          if r.status ≠ stOk then ends (r.st.failTransit p t 1) else if r.done then r.st.openOut t else r.st

/-! ### Copies on their own (R60) -/

/-- A swap-out in transit is about to write a slot. -/
def State.outDue (s : State) (n : Nat) (place : Nat × Bool) : Option (Nat × Transit) :=
  s.rot.parts.findSome? fun x => (x.2.transit.find? fun t => t.read && t.stream.toNat = n && s.outPlace t = place).map fun t => (x.1, t)

/-- A PRUNE that may start is about to release a slot. -/
def State.pruneDue (s : State) (n : Nat) (place : Nat × Bool) : Option Op :=
  s.host.ops.find? fun o => o.opcode = 5 && o.streamNo = n && s.canStart o && (s.recheck o).isNone
    && (s.prunes o).contains place.1

/-- SLOT_COPY: a step of copying a shared slot that is about to be written or released for the futures that share it: their slots A are
opened, then written and sealed. -/
def execSlotCopy (stream : StreamNo) (trunk : Bool) (owner : BitVec 12) (slotB : Bool) (s : State) : Answer :=
  s.issue fun s =>
    let n := stream.toNat
    let place := (if trunk then trunkOwner else owner.toNat, slotB)
    let sharers := (s.stream n).sharers place.1 place.2
    match s.outDue n place, s.pruneDue n place with
    | some (p, t), _ =>
        if sharers.isEmpty || !s.copyReady n place sharers then s
        else
          let r := s.copySlot (sluiceOf t.lplot) n place sharers
          if r.status ≠ stOk then (r.st.failTransit p t 1).endSwapping p else if r.done then r.st.openOut t else r.st
    | none, some o =>
        let fs := sharers.filter fun f => !(s.prunes o).contains f
        if fs.isEmpty || !s.copyReady n place fs then s
        else
          let r := s.copySlot (s.partSluice (s.stream n).part.toNat) n place fs
          if r.status = stOk then r.st else r.st.finish o stMemUncorrectable 1
    | none, none => s

/-! ### Swap-ins (R496) -/

/-- Owner slot i of a plot takes an owner's version and open set (R300). -/
def State.placeOwner (s : State) (p i owner block : Nat) (openSet : Option Nat) : State :=
  let x := s.plot p
  s.setPlot p { x with owners := sput 0 x.owners i (owner + 1), versions := sput 0 x.versions i block,
                       openSets := sput 0 x.openSets i (match openSet with | some n => n + 1 | none => 0) }

/-- A swap-in acknowledged: the plot's state fence opens with its last. -/
def State.swapInDone (s : State) (part pos i : Nat) (p : Nat) : State :=
  let x := s.part part
  let left := x.slot.insLeft.filter fun y => y ≠ (pos, i)
  let s1 := s.setPart part { x with slot := { x.slot with insLeft := left } }
  if left.any fun y => y.1 = pos then s1 else s1.setPlot p { s1.plot p with fence := false }

/-- A set keeps the carried state at the start of its frame for its recipe (R316). -/
def State.keepCarried (s : State) (part : Nat) (openSet : Option Nat) (bs : List Byte) : State :=
  match openSet with
  | some n =>
      let pool := s.pool part
      if (pool.set_ n).pinnable then s.setPool part (pool.setSet n { pool.set_ n with carried := bs }) else s
  | none => s

/-- The state that a swap-in brings, written to the plot and counted. -/
def State.bringState (s : State) (part pos i owner block : Nat) (openSet : Option Nat) (l : Nat) (bs : List Byte) : State :=
  let p := s.physOf l
  let ch := sluiceOf l
  let s1 := s.putState p bs (ownerPlace (s.plot p).stateMap (s.part part).slot.stateOff bs.length i)
  let s2 := ((s1.placeOwner p i owner block openSet).bump ctrSwapIns ch).bump ctrSwapBytes ch bs.length
  s2.swapInDone part pos i p

/-- A swap-in that finds its owner in transit waits, and is counted once. -/
def State.waitTransit (s : State) (part pos i l : Nat) : State :=
  let x := s.part part
  if x.slot.waited.contains (pos, i) then s
  else (s.setPart part { x with slot := { x.slot with waited := x.slot.waited ++ [(pos, i)] } }).bump ctrTransitWaits (sluiceOf l)

/-- SWAP_IN: owner slot `slot` of footprint position `pos`, the lowest that the plot still waits for. -/
def execSwapIn (part : PartNo) (pos : Nat) (slot : BitVec 3) (s : State) : Answer :=
  s.issue fun s =>
    let k := part.toNat
    let x := s.part k
    let i := slot.toNat
    let plots := s.partPlots k
    let l := plots.getD pos 0
    match x.slot.chunk, (x.slot.chunk.bind fun c => c.owners[pos + plots.length * i]?) with
    | some c, some o =>
      let n := c.stream.toNat
      let w := s.owner n o
      if x.slot.phase ≠ .running || !x.slot.insLeft.contains (pos, i) || x.slot.insLeft.any (fun y => y.1 = pos && decide (y.2 < i)) then s
      else if c.kind = .refill then
        let set := c.sets.getD (pos + plots.length * i) 0
        if ((s.pool k).set_ set).st ≠ .refilling then s else
        let bs := ((s.pool k).set_ set).carried
        s.bringState k pos i o w.block (some set) l (bs.take (s.stateBytes n) ++ List.replicate (s.stateBytes n - bs.length) 0)
      else if x.transit.any fun t => t.stream.toNat = n && t.owner = o then s.waitTransit k pos i l
      else
        let place := w.reads.place o
        let committed := w.current.isNone
        if !s.slotOpen n place.1 place.2 then s
        else if (s.owner n place.1).seal place.2 ≠ .sealed then s.abortSlot k stStateTorn
        else
          let r := s.readSlot (sluiceOf l) n place o committed
          if r.status ≠ stOk then
            let s1 := if committed && r.status = stMemUncorrectable then r.st.markDamaged n place o else r.st
            s1.abortSlot k r.status (if committed && r.status = stMemUncorrectable then 1 else 0)
          else (r.st.keepCarried k w.openSet r.bytes).bringState k pos i o w.block w.openSet l r.bytes
    | _, _ => s

/-! ### Refills (R312, R316) -/

/-- New layer pages for a set that a refill rewrites; the step holds one count of it. -/
def Pool.beginRefill (p : Pool) (layers : Nat) (pages : List Nat) : List Nat → Pool
  | [] => p
  | n :: ns =>
      let x := p.set_ n
      let y : FrameSet := { x with st := .refilling, pages := pages.take layers, refs := x.refs + 1 }
      (p.setSet n y).beginRefill layers (pages.drop layers) ns

/-- REFILL_RUN: the pages of a running REFILL slot's sets are allocated as a single action, and the slot recomputes them; its status
is its descriptor's (R316). -/
def execRefillRun (part : PartNo) (s : State) : Answer :=
  s.issue fun s =>
    let p := part.toNat
    let x := (s.part p).slot
    match x.chunk with
    | none => s
    | some c =>
      let sets := c.sets.filter fun n => ((s.pool p).set_ n).st = .dropped
      let layers := geomLayers (((s.model? (s.stream c.stream.toNat).model.toNat).map (·.geom)).getD 0)
      if c.kind ≠ .refill ∨ x.phase ≠ .running ∨ sets.isEmpty = true then s
      else if !s.flag PG_POOL_CTL_ENABLE p then s.abortSlot p stDenied
      else match s.takePages p (sets.length * layers) with
      | none => (s.starve p).abortSlot p stPageStarved
      | some s1 =>
          let pages := lowestFree (s1.pool p).usedPages (sets.length * layers) (s1.rd PG_POOL_CTL_PAGES p + s1.rd PG_POOL_CTL_EMERG p)
          s1.setPool p ((s1.pool p).beginRefill layers pages sets)

/-! ### The final swap-out (R497) -/

/-- Chunks of a stream that have not started complete with STREAM_CLOSED, and so do their operations. -/
def State.closeChunks (s : State) (n : Nat) : List Chunk → State
  | [] => s
  | c :: cs =>
      (if c.stream.toNat = n then
        match s.op? c.ring c.seq with
        | some o => if o.stage = OpStage.done then s else s.failOp o stStreamClosed
        | none => s
      else s).closeChunks n cs

/-- The STREAM_CLOSE that runs on a stream. -/
def State.closeOp (s : State) (n : Nat) : Option Op :=
  s.host.ops.find? fun o => o.opcode = 6 && o.streamNo = n && o.stage = .running

/-- The stream record FREE; the context remembers its home ring (R52). -/
def State.freeStream (s : State) (n : Nat) : State :=
  let r := s.stream n
  s.setStream n { everOpen := r.everOpen, home := r.home, tenant := r.tenant }

/-- FINAL_SWAP_OUT: it waits for every swap and every page-table edit of the stream. -/
def execFinalSwapOut (stream : StreamNo) (s : State) : Answer :=
  s.issue fun s =>
    let n := stream.toNat
    let busy := s.rot.parts.any (fun x => x.2.transit.any fun t => t.stream = stream)
      || s.edits.any fun e => e.kind ≠ .drop && e.kind ≠ .refill && e.stream = n
    if (s.stream n).st ≠ .closing || busy then s
    else
      let s1 := (s.closeChunks n (s.part (s.stream n).part.toNat).chunks).freeStream n
      match s1.closeOp n with
      | some o => s1.finish o stOk
      | none => s1

end Sys2Proof.Machine
end

