-- ==== Sys2Proof/Machine/Rotation.lean ====
section
/-! DEFINITION. The rotation controller (R152, R181, R477 to R493, R602): admission and commit of the table, triggers, and the load, start
and end of slots. -/

namespace Sys2Proof.Machine

/-! ### Admission (R490, R491) -/

/-- A failed check: its value, and the entry or the partition that failed. -/
abbrev CheckFail := Nat × Option Nat × Option Nat

def State.shadowOn (s : State) (p : Nat) : Bool := s.flag ROT_PART_ENABLE p

/-- Enabled partitions under the shadow fields. -/
def State.shadowParts (s : State) : List Nat := (List.range 64).filter s.shadowOn

/-- Logical plots of a partition under its shadow fields. -/
def State.shadowPlots (s : State) (p : Nat) : List Nat :=
  rectPlots (s.rd ROT_PART_X0 p) (s.rd ROT_PART_Y0 p) (s.rd ROT_PART_W_M1 p + 1) (s.rd ROT_PART_H_M1 p + 1)

def State.shadowCycle (s : State) (p : Nat) : List Nat :=
  (List.range (s.rd ROT_PART_COUNT_M1 p + 1)).map fun i => (s.rd ROT_PART_FIRST p + i) % 1024

/-- VALID entries of the cycles of the enabled partitions, with their partitions. -/
def State.checkedEntries (s : State) : List (Nat × Nat) :=
  s.shadowParts.flatMap fun p => ((s.shadowCycle p).filter fun e => s.flag ROT_ENTRY_VALID e).map fun e => (p, e)

def State.shadowImage (s : State) (e : Nat) : List Byte := s.imageHead (s.rd ROT_ENTRY_IMAGE e)

/-- Check 1 on a partition: it leaves the grid, or meets another enabled partition in plots or in cycle indices. -/
def State.gridBad (s : State) (p : Nat) : Bool :=
  decide (32 < s.rd ROT_PART_X0 p + s.rd ROT_PART_W_M1 p + 1 ∨ 32 < s.rd ROT_PART_Y0 p + s.rd ROT_PART_H_M1 p + 1)
  || s.shadowParts.any fun q => q ≠ p
    && ((s.shadowPlots p).any (fun l => (s.shadowPlots q).contains l) || (s.shadowCycle p).any fun e => (s.shadowCycle q).contains e)

/-- Check 2. -/
def State.entryImageBad (s : State) (e : Nat) : Bool :=
  let k := s.rd ROT_ENTRY_IMAGE e
  !(s.ctx.images.any fun x => x.1 = k) || (s.model? (s.image k).model.toNat).isNone

/-- Check 3. -/
def State.footprintBad (s : State) (p e : Nat) : Bool :=
  let i := s.shadowImage e
  imgFootW i ≠ s.rd ROT_PART_W_M1 p + 1 || imgFootH i ≠ s.rd ROT_PART_H_M1 p + 1

/-- Check 4. -/
def State.roleBad (s : State) (e : Nat) : Bool :=
  let r := s.rd ROT_ENTRY_ROLE e
  let i := s.shadowImage e
  r = 3 || (r ≠ 0 && (!imgTrain i || imgStateMap i ≠ 0))

def State.entrySize (s : State) (e : Nat) : Nat :=
  ((s.model? (s.image (s.rd ROT_ENTRY_IMAGE e)).model.toNat).map (·.stateBytes)).getD 0

/-- Check 5. -/
def State.stateBad (s : State) (e : Nat) : Bool :=
  let i := s.shadowImage e
  let m := imgStateMap i
  let sz := s.entrySize e
  let fpp := s.rd ROT_ENTRY_FPP_M1 e + 1
  let held := if m = 0 then fpp else fpp - 1
  (m ≠ 0 && decide ((stateTiles m).length * 16384 ≠ sz))
  || (s.rd ROT_ENTRY_ROLE e = 0 && decide (held * sz ≠ 0 ∧ imgBudget i * 65536 < s.rd ROT_ENTRY_STATE_OFF e * 65536 + held * sz))

/-- Check 6. -/
def State.budgetBad (s : State) (p e : Nat) : Bool :=
  let b := imgBudget (s.shadowImage e) * 65536
  (s.shadowPlots p).any fun l =>
    let r := reachOf l
    let video := s.rd VID_AREA_SIZE_1M r * 2 ^ 20
    decide (s.columnBytes < b + s.cacheBytes r + video)
    || decide (video ≠ 0 ∧ s.rd VID_AREA_OFF_1M r * 2 ^ 20 < b)

/-- Working runnels left on a physical plot: none on a plot whose flume or whole is fenced (R583). -/
def State.runnelsLeft (s : State) (q : Nat) : Nat :=
  if s.flag LEVEE_PLOT_FLUME q || s.flag LEVEE_PLOT_PLOT q then 0 else min 76 (80 - s.rd LEVEE_PLOT_RUN_FENCED q)

/-- Check 7. -/
def State.runnelsBad (s : State) (p e : Nat) : Bool :=
  (s.shadowPlots p).any fun l => decide (s.runnelsLeft (s.physOf l) < imgRunnels (s.shadowImage e))

/-- A partition that holds a VALID real-time entry. -/
def State.shadowRt (s : State) (p : Nat) : Bool :=
  (s.shadowCycle p).any fun e => s.flag ROT_ENTRY_VALID e && s.flag ROT_ENTRY_RT e

/-- Check 9, of an entry and of a partition. -/
def State.mixEntryBad (s : State) (p e : Nat) : Bool :=
  s.shadowRt p && (!s.flag ROT_ENTRY_RT e || s.rd ROT_ENTRY_TRIG e = 0)
def State.mixPartBad (s : State) (p : Nat) : Bool :=
  s.shadowRt p && s.shadowParts.any fun q => q ≠ p
    && (s.shadowPlots p).any fun l => (s.shadowPlots q).any fun m => reachOf l = reachOf m

/-- C of R491: the time limits of the image's collective list entries in ns, each its body's or else its group's (R454). -/
def State.listLimit (s : State) (p e : Nat) : Nat :=
  match s.listOf p (s.rd ROT_ENTRY_IMAGE e) with
  | some (g, l) => (List.range (l.length / 64)).foldl (fun (m : Nat) (k : Nat) =>
      let t := imgNat l (64 * k + 12) 4
      m + 10 * (if t = 0 then (s.group g).tlimit else t)) 0
  | none => 0

/-- Check 10: the bound W + L + 2X + C exceeds the trigger interval, compared exactly with everything times 16 and the rate's
denominator (R491). -/
def State.timeBad (s : State) (p e : Nat) : Bool :=
  let i := s.shadowImage e
  let n := (s.shadowPlots p).length * (s.rd ROT_ENTRY_FPP_M1 e + 1) * s.entrySize e
  let minres := s.rd ROT_ENTRY_MINRES e
  let chans := 2 * ((s.shadowPlots p).map reachOf).dedup.length
  let swaps := s.rd ROT_ENTRY_ROLE e = 0 && n ≠ 0
  let cis := decide (91 * minres ≤ 64 * (24 * chans))
  let den := if !swaps then 1 else if cis then 91 * minres else 24 * chans
  let num := if !swaps then 0 else if cis then 64 * n else n
  let interval := 1000 * (if s.rd ROT_ENTRY_TRIG e = 1 then (s.rd ROT_PART_CDIV_M1 p + 1) * s.rd CADENCE_CTL_MIN_US
                          else s.rd ROT_ENTRY_PERIOD_US e)
  s.flag ROT_ENTRY_RT e
  && ((swaps && minres = 0)
      || decide (16 * interval * den < (16 * imgWcd i + 32000 + imgLength i + 16 * s.listLimit p e) * den + 32 * num))

/-- Check 12. -/
def State.triggerBad (s : State) (e : Nat) : Bool :=
  let t := s.rd ROT_ENTRY_TRIG e
  t = 3 || (t = 1 && s.rd CADENCE_CTL_MIN_US = 0) || (t = 2 && s.rd ROT_ENTRY_PERIOD_US e = 0)

/-- The first entry that fails a check. -/
def State.entryFail (s : State) (v : Nat) (f : Nat → Nat → Bool) : Option CheckFail :=
  (s.checkedEntries.find? fun x => f x.1 x.2).map fun x => (v, some x.2, none)

/-- The first partition that fails a check. -/
def State.partFail (s : State) (v : Nat) (f : Nat → Bool) : Option CheckFail :=
  (s.shadowParts.find? f).map fun p => (v, none, some p)

/-- The admission check: the first check that fails, in the order of R490. -/
def State.admission (s : State) : Option CheckFail :=
  if s.flag ROT_CTL_PENDING then some (11, none, none)
  else [s.partFail 1 s.gridBad, s.entryFail 2 fun _ e => s.entryImageBad e, s.entryFail 3 s.footprintBad,
        s.entryFail 4 fun _ e => s.roleBad e, s.entryFail 5 fun _ e => s.stateBad e, s.entryFail 6 s.budgetBad,
        s.entryFail 7 s.runnelsBad,
        s.entryFail 8 fun p e => s.flag ROT_ENTRY_RT e && decide (s.rd CIS_PART_BW_RESERVE p < s.rd ROT_ENTRY_MINRES e),
        (s.entryFail 9 s.mixEntryBad).orElse fun _ => s.partFail 9 s.mixPartBad,
        s.entryFail 10 s.timeBad, s.entryFail 12 fun _ e => s.triggerBad e].findSome? id

/-! ### The commit (R481) -/

/-- The active bank as a copy of the shadow bank. -/
def State.copyBank (s : State) : Sparse DWord :=
  ((List.range 1024).map fun e => (e, s.reg .rotEntry e)).filter fun x => x.2 ≠ 0

/-- Every partition has the new fields to take. -/
def State.handOut (s : State) : List Nat → State
  | [] => s
  | p :: ps => (s.setPart p { s.part p with toTake := some (s.reg .rotPart p) }).handOut ps

/-- Partitions at a slot boundary take the table at once. -/
def State.takeAll (s : State) : List Nat → State
  | [] => s
  | p :: ps =>
      (if (s.part p).slot.phase = .idle ∨ (s.part p).slot.phase = .swapping then s.boundary p else s).takeAll ps

/-- ROT_COMMIT: admission, and on a pass the commit. -/
def State.rotCommit (s : State) : State :=
  match s.admission with
  | some (v, e, p) =>
      s.wrs 0 [(ROT_CTL_REFUSED, 1), (ROT_CTL_CHECK, v), (ROT_CTL_ENTRY, e.getD 0), (ROT_CTL_PART, p.getD 0)]
  | none =>
      let s1 := s.wrs 0 [(ROT_CTL_REFUSED, 0), (ROT_CTL_CHECK, 0), (ROT_CTL_ENTRY, 0), (ROT_CTL_PART, 0), (ROT_CTL_PENDING, 1)]
      let s2 := { s1 with rot := { s1.rot with bank := s1.copyBank } }
      (s2.handOut (List.range 64)).takeAll (List.range 64)

def execRotCommit (s : State) : Answer := s.issue State.rotCommit

/-! ### Holds (R489) -/

def State.held_ (s : State) (p : Nat) : Bool := s.flag ROT_PART_HOLD p || s.flag ROT_PART_DIAG_HOLD p

/-- PART_HOLD: the current slot ends or aborts; no further slot starts while HOLD is set. -/
def execPartHold (part : PartNo) (s : State) : Answer := s.issue fun s => s.wr ROT_PART_HOLD part.toNat 1
/-- PART_HOLD_CLEAR: the walk resumes at the next entry. -/
def execPartHoldClear (part : PartNo) (s : State) : Answer := s.issue fun s => s.wr ROT_PART_HOLD part.toNat 0
/-- DIAG_HOLD set or cleared (R153). -/
def execDiagHold (part : PartNo) (on : Bool) (s : State) : Answer :=
  s.issue fun s => s.wr ROT_PART_DIAG_HOLD part.toNat (if on then 1 else 0)

/-! ### The walk and its triggers (R480, R482, R483) -/

/-- Position in the cycle of the entry at which the walk stands: the next VALID one. -/
def State.walkPos (s : State) (p : Nat) : Option Nat :=
  let c := s.cycle p
  let w := (s.part p).walk
  ((List.range c.length).map fun i => (w + i) % c.length).find? fun i => partBits ROT_ENTRY_VALID (s.entry (c.getD i 0)) = 1

def State.walkEntry (s : State) (p : Nat) : Option Nat := (s.walkPos p).map fun i => (s.cycle p).getD i 0

def State.validEntries (s : State) (p : Nat) : Nat :=
  ((s.cycle p).filter fun e => partBits ROT_ENTRY_VALID (s.entry e) = 1).length

/-- A whole cycle has been skipped (R480). -/
def State.skippedAll (s : State) (p : Nat) : Bool := 0 < s.validEntries p && s.validEntries p ≤ (s.part p).skips

/-- The previous slot has not ended (R482). -/
def Part.slotRuns (x : Part) : Bool := x.slot.phase = .loading || x.slot.phase = .running

def State.entryTrig (s : State) (p : Nat) : Option Nat := (s.walkEntry p).map fun e => partBits ROT_ENTRY_TRIG (s.entry e)

/-- A trigger meets the entry at which the walk stands: it is held as pending while the previous slot has not ended, and otherwise
fires; none where one is held already. -/
def Part.trigger (x : Part) : Option Part :=
  if x.slotRuns then (if x.pendTrig then none else some { x with pendTrig := true })
  else if x.fired || x.pendTrig then none else some { x with fired := true }

/-- A CADENCE trigger of a partition fires: it counts for the entry at which the walk stands, or is discarded. -/
def State.cadenceFire (s : State) (p : Nat) : State :=
  let s1 := s.bump ctrEdges p
  if !s1.partEnabled p || s1.held_ p || s1.entryTrig p ≠ some 1 || s1.skippedAll p then s1.bump ctrEdgesMissed p
  else match (s1.part p).trigger with
    | some x => s1.setPart p x
    | none => s1.bump ctrEdgesMissed p

/-- An accepted edge advances every partition's count; every CDIV-th fires. -/
def State.cadenceAll (s : State) : List Nat → State
  | [] => s
  | p :: ps =>
      let x := s.part p
      let d := partBits ROT_PART_CDIV_M1 x.act + 1
      let s1 := s.setPart p { x with cadence := x.cadence + 1 }
      (if (x.cadence + 1) % d = 0 then s1.cadenceFire p else s1).cadenceAll ps

/-- CADENCE_EDGE: a transition begins its qualification. -/
def execCadenceEdge (level : Bool) (s : State) : Answer :=
  s.issue fun s =>
    if s.rot.pinLevel = level then s
    else { s with rot := { s.rot with pinLevel := level, edgePending := some level } }

/-- CADENCE_QUALIFY: the new level has held for 4 periods; `sinceUs` is the time since the previous accepted edge qualified. -/
def execCadenceQualify (sinceUs : Nat) (s : State) : Answer :=
  s.issue fun s =>
    match s.rot.edgePending with
    | none => s
    | some level =>
      let s1 := { s with rot := { s.rot with edgePending := none } }
      if !s1.flag CADENCE_CTL_ENABLE || level = s1.flag CADENCE_CTL_EDGE then s1
      else if s1.rot.edgeSeen && decide (sinceUs < s1.rd CADENCE_CTL_MIN_US) then
        let s2 := (s1.wr CADENCE_CTL_FAST 0 1).bump ctrFastEdges
        if s2.flag CADENCE_CTL_FAST_EN then s2.raise evCadenceFast else s2
      else ({ s1 with rot := { s1.rot with edgeSeen := true } }).cadenceAll (List.range 64)

/-- PERIOD_TRIGGER: PERIOD_US after the start of the partition's previous load. -/
def execPeriodTrigger (part : PartNo) (s : State) : Answer :=
  s.issue fun s =>
    let p := part.toNat
    if s.partEnabled p && s.entryTrig p = some 2 && (s.part p).lastLoad.isSome then
      match (s.part p).trigger with
      | some x => s.setPart p x
      | none => s
    else s

/-- The trigger of the entry at which the walk stands has fired. -/
def State.triggered (s : State) (p e : Nat) : Bool :=
  let x := s.part p
  let t := partBits ROT_ENTRY_TRIG (s.entry e)
  t = 0 || x.fired || x.pendTrig || (t = 2 && x.lastLoad.isNone)

/-! ### The choice of a chunk (R485), of which no descriptor waits for its update number (R74) -/

def State.chunkServed (s : State) (e : Nat) (c : Chunk) : Bool :=
  match s.op? c.ring c.seq with
  | some o => c.ready.isSome && s.serves (s.chunkModel o c.kind) c.kind.role o.train e && s.updateTurn o ≠ .wait
  | none => false

/-- Of two chunks, the one that became ready first; then that of the lower batch. -/
def Chunk.before (a b : Chunk) : Bool :=
  a.ready.getD 0 < b.ready.getD 0 || (a.ready.getD 0 = b.ready.getD 0 && a.batch < b.batch)

def State.pickChunk (s : State) (p e : Nat) : Option Chunk :=
  ((s.part p).chunks.filter (s.chunkServed e)).foldl (fun (b : Option Chunk) (c : Chunk) =>
    match b with | none => some c | some d => if c.before d then some c else some d) none

/-! ### The load (R152) -/

/-- Runnel map of a physical plot (R158, R618). -/
def State.runnelOf (s : State) (q r : Nat) : Nat := getBits (s.reg .runMap (10 * q + r / 8)) (7 * (r % 8)) 7

/-- A physical runnel is fenced (R583). -/
def State.runnelFenced (s : State) (q r : Nat) : Bool :=
  if r < 64 then (s.rd LEVEE_RUN_LO_BITS q).testBit r else (s.rd LEVEE_RUN_HI_BITS q).testBit (r - 64)

/-- A runnel map that a cold load refuses: a fenced runnel, or one physical runnel twice (R618). -/
def State.runnelsUnfit (s : State) (q n : Nat) : Bool :=
  let m := (List.range n).map (s.runnelOf q)
  m.any (s.runnelFenced q) || !decide m.Nodup

/-- Runnel segments written to scratch: code and data under a cold load, data alone under a warm one. -/
def loadScratch (img : List Byte) (cold : Bool) (x : Plot) : List (Nat × RunSeg) → List Host.Cell → List Host.Cell
  | [], m => m
  | (r, g) :: rest, m =>
      let base := 4096 * x.physRunnel r
      let m1 := if cold then writeBytes m base ((img.drop g.off).take g.code) else m
      loadScratch img cold x rest (writeBytes m1 (base + g.code) ((img.drop (g.off + g.code)).take g.data))

/-- Early tokens of a slot added to the counters (R170). -/
def applyEarly (seq : Seq) (c : Sparse Word) : List (Seq × Nat × Nat) → Sparse Word
  | [] => c
  | (n, k, v) :: rest =>
      applyEarly seq (if n = seq then sput (0 : Word) c k (sget (0 : Word) c k + BitVec.ofNat 32 v) else c) rest

/-- Step 4 of the load on a plot at footprint position k. -/
def loadPlot (img : List Byte) (old : Plot) (part l k : Nat) (seq : Seq) (cold fence : Bool) (runMap : Sparse Nat) : Plot :=
  let x : Plot := { old with runMap := if cold then runMap else old.runMap }
  let block := plotParam img k
  { part := part, lplot := l, loaded := true, seq := seq, section_ := plotSect img k,
    param := ((List.range 16).map fun i => (i, BitVec.ofNat 32 (imgNat img (imgTable img 7 + 64 * block + 4 * i) 4))).filter fun y => y.2 ≠ 0,
    ctr := applyEarly seq [] old.early, early := old.early.filter fun e => follows e.1 seq,
    stateMap := imgStateMap img, fence := fence, retries := imgRetry img, runMap := x.runMap,
    scratch := loadScratch img cold x ((runSegs img (plotSect img k)).zipIdx.map fun g => (g.2, g.1)) old.scratch,
    resident := if cold then [] else old.resident, sfuLast := old.sfuLast, sfuTurn := old.sfuTurn }

/-- Both streams written at PROG of the plot's own column under a cold load (step 3). -/
def State.loadStreams (s : State) (q k : Nat) (img : List Byte) : State :=
  let n := plotSect img k
  let words := fun (sel : StreamSel) => (img.drop (sectOff img n sel)).take (8 * sectLen img n sel)
  (s.resvWrite q (progOff img n .flume 0) (words .flume)).resvWrite q (progOff img n .furrow 0) (words .furrow)

/-- What a slot load brings into force on a plot: bank selects of a switch (R253), lane fences (R260) and routes (R261). -/
def State.loadSfu (s : State) (q : Nat) : State :=
  let s1 := s.flipOwed q
  let s2 := s1.wr SFU_PLOT_CTL_LANES_ACTIVE q (s1.rd SFU_PLOT_CTL_LANE_FENCE q)
  { s2 with sfu := { s2.sfu with route := sput (0 : BitVec 10) s2.sfu.route q (BitVec.ofNat 10 (s2.rd SFU_PLOT_CTL_ROUTE q)) } }

/-- A footprint position holds an owner of a chunk whose state is swapped in. -/
def Chunk.swaps (c : Chunk) : Bool := c.kind = .observe || c.kind = .refill || c.kind = .frame

/-- The plots of a footprint loaded, position by position. -/
def State.loadPlots (s : State) (p : Nat) (img : List Byte) (c : Chunk) (seq : Seq) (cold : Bool) :
    List (Nat × Nat) → State
  | [] => s
  | (l, k) :: rest =>
      let q := s.physOf l
      let map := ((List.range (imgRunnels img)).map fun r => (r, s.runnelOf q r)).filter fun y => y.2 ≠ 0
      let s1 := if cold then s.loadStreams q k img else s
      let s2 := s1.setPlot q (loadPlot img (s1.plot q) p l k seq cold (c.swaps && decide (k < c.owners.length)) map)
      (s2.loadSfu q).loadPlots p img c seq cold rest

/-- Positions and owner slots that a chunk fills (R486). -/
def Chunk.places (c : Chunk) (n : Nat) : List (Nat × Nat) :=
  if c.swaps then (List.range c.owners.length).map fun k => (k % n, k / n) else []

/-- What ends a slot at its load: a lost or unreadable image copy (R432), a budget that seven tiers no longer hold (R385), a runnel map
that does not fit (R618). -/
def State.loadFails (s : State) (p k : Nat) (img : List Byte) (cold : Bool) (read : BitVec 12) : Option (BitVec 12) :=
  let r := s.image k
  if s.cisEnd < r.addr + r.len then some stChannelRetired
  else if read ≠ stOk then some read
  else if s.flag RES_TIER_CTL_SEVEN && decide (224 < imgBudget img) then some stFenced
  else if cold && (s.partPlots p).any fun l => s.runnelsUnfit (s.physOf l) (imgRunnels img) then some stFenced
  else none

/-- A chunk's slot loaded from an entry (steps 1 to 4). -/
def State.loadSlot (s : State) (p e pos : Nat) (c : Chunk) : State :=
  let x := s.part p
  let w := s.entry e
  let k := partBits ROT_ENTRY_IMAGE w
  let r := s.image k
  let img := s.cisBytes r.addr r.len
  let cold := x.forceCold || x.warmId ≠ some r.imageId
  let seq := x.slotSeq + 1
  let plots := s.partPlots p
  let warmed := x.warmImage = some k
  let slot : Slot := { phase := .loading, entry := e, image := k, chunk := some c, seq := seq, cold := cold, img := img,
                       startGauge := s.rd REF_GAUGE_VALUE, insLeft := c.places plots.length,
                       stateOff := partBits ROT_ENTRY_STATE_OFF w * 65536, liftStarted := if warmed then x.warmStarted else [] }
  let x1 : Part := { x with slot := slot, slotSeq := seq, walk := (pos + 1) % (s.cycle p).length, fired := false, pendTrig := false,
                            lastLoad := some (s.rd REF_GAUGE_VALUE), skips := 0, forceCold := false, warmId := some r.imageId,
                            chunks := x.chunks.erase c, warmImage := none, warmStarted := [], warmFail := none,
                            lifts := if warmed then x.lifts else x.lifts.filter fun r => r.seq ≠ seq }
  let read := s.cisRead none r.addr r.len
  let s1 := (read.2.setPart p x1).syncIdle p
  let s2 := if x.pendTrig then (s1.bump ctrOverruns p).raise evRotOverrun else s1
  match (s2.loadFails p k img cold read.1).orElse fun _ => if warmed then x.warmFail else none with
  | some st => (s2.abortSlot p st).setPart p { (s2.abortSlot p st).part p with forceCold := true }
  | none =>
      let pend := s2.rd SFU_SWITCH_PENDING_PEND
      let s3 := s2.loadPlots p img c seq cold plots.zipIdx
      let s4 := if pend.testBit p then s3.wr SFU_SWITCH_PENDING_PEND 0 (pend ^^^ 2 ^ p) else s3
      let s5 := s4.wr SFU_PART_CTL_COMPAT_ACTIVE p (s4.rd SFU_PART_CTL_COMPAT p)
      match s5.op? c.ring c.seq with
      | some o =>
          let s6 := s5.holdUpdate o
          if c.frameOne && o.inputReady then s6.inputTokens (.hub (reachOf (plots.headD 0))) seq plots else s6
      | none => s5

/-- An entry whose trigger has fired serves no chunk (R480): it is skipped and consumes its trigger. -/
def State.skipEntry (s : State) (p pos : Nat) : State :=
  let x := s.part p
  (s.setPart p { x with walk := (pos + 1) % (s.cycle p).length, fired := false, pendTrig := false, skips := x.skips + 1 }).bump ctrSkipped p

/-- A load may begin: the partition runs slots and is not held, its previous slot has ended and its state has been read out (R495), no
output job still reads its plots (R342), and none of its plots is in another partition's slot. -/
def State.mayLoad (s : State) (p : Nat) : Bool :=
  let x := s.part p
  s.boot.ready && s.partEnabled p && !s.held_ p && !x.slotRuns && x.transit.all (·.read) && !s.outputsReading p
  && (s.partPlots p).all fun l =>
    let y := s.plot (s.physOf l)
    !y.loaded || y.part = p || !(s.part y.part).slotRuns

/-- A chunk taken: it loads from an entry once the channels of its image serve (R429); the first of a TRAIN descriptor whose update number
no longer follows the applied counter ends its operation instead (R74). -/
def State.takeChunk (s : State) (p e pos : Nat) (c : Chunk) : State :=
  let r := s.image (partBits ROT_ENTRY_IMAGE (s.entry e))
  match s.op? c.ring c.seq with
  | some o =>
      if s.updateTurn o = .refused then s.failOp o stDenied else if s.cisOpen r.addr r.len then s.loadSlot p e pos c else s
  | none => s

/-- SLOT_LOAD: the entry at which the walk stands, its trigger having fired, takes a chunk and loads, or is skipped. After a whole cycle
of skips the partition waits for a chunk to become ready. -/
def execSlotLoad (part : PartNo) (s : State) : Answer :=
  s.issue fun s =>
    let p := part.toNat
    match s.walkPos p, s.walkEntry p with
    | some pos, some e =>
        if !s.mayLoad p || s.skippedAll p || !s.triggered p e then s
        else match s.pickChunk p e with
          | some c => s.takeChunk p e pos c
          | none => s.skipEntry p pos
    | _, _ => s

/-! ### The start (R152 step 5, R312, R602) -/

/-- Slot context of a plot (R179, R180). -/
def slotContext (q l : Nat) (imgId : Word) (seq : Seq) (c : Chunk) (o : Option Op) (region : Nat) : Sparse Word :=
  let f := c.owners.headD 0
  let w := fun (v : Nat) => BitVec.ofNat 32 v
  let roll := o.filter fun o => o.opcode = 4
  let vals : List Word :=
    [w l, w (q / 32 * 32 + q % 32), 0, imgId, seq, w c.ordinal, w c.batch, w c.stream.toNat,
     w (if f = trunkOwner then 0 else f), w c.owners.length, w ((roll.map fun o => o.fld 40 0 32).getD 0),
     w ((roll.map fun o => o.fld 44 0 32).getD 0), w (region % 2 ^ 32), w (region / 2 ^ 32)]
  (vals.zipIdx.map fun x => (x.2, x.1)).filter fun x => x.2 ≠ 0

/-- START on every plot: its streams begin at word 0, and its runnels at their entries with registers zero (steps 5 and 6). -/
def State.startPlots (s : State) (img : List Byte) (c : Chunk) (o : Option Op) (region : Nat) (seq : Seq) : List Nat → State
  | [] => s
  | l :: ls =>
      let q := s.physOf l
      let x := s.plot q
      let run := (runSegs img x.section_).zipIdx.map fun g => (g.2, ({ pc := g.1.entry, done := false } : Runnel))
      (s.setPlot q { x with running := true, ctx := slotContext q l (imgId img) seq c o region, runnels := run }).startPlots img c o region seq ls

/-- The policy version that an operation reads is fixed as its first slot starts (R75); of an operation that reads none it is 0 (DESIGN
CHOICE, log entry 117). -/
def State.pinVersion (s : State) (o : Op) : State :=
  if o.pinned then s
  else s.setOp { o with pinned := true, pver := ((s.policy? (s.stream o.streamNo).policy.toNat).map (·.applied)).getD 0 }

/-- The watchdog aborts a slot (R602). -/
def State.hang (s : State) (p : Nat) : State :=
  ((s.abortSlot p stDenied dtHung).wr SLOT_WDOG_LAST_PART 0 p).raise evSlotHung

/-- A backward slot's owners hold their versions, and no state (R304, R486). -/
def State.placeBack (s : State) (p : Nat) (c : Chunk) : List (Nat × Nat) → State
  | [] => s
  | (o, k) :: rest =>
      (if c.kind = .back then s.placeOwner (s.seat p k).1 (s.seat p k).2 o (s.owner c.stream.toNat o).block none else s).placeBack p c rest

/-- A slot started; the watchdog's seep makes it expire at once. -/
def State.startSlot (s : State) (p : Nat) (c : Chunk) : State :=
  let x := s.part p
  let s1 := s.startPlots x.slot.img c (s.op? c.ring c.seq) (s.stream c.stream.toNat).region x.slot.seq (s.partPlots p)
  let s2 := (s1.setPart p { x with slot := { x.slot with phase := .running, startGauge := s1.rd REF_GAUGE_VALUE } }).bump ctrSlots p
  let s3 := match s2.op? c.ring c.seq with
    | some o => ((s2.pinVersion o).giveSlot p c o).placeBack p c c.owners.zipIdx
    | none => s2
  if s3.flag SLOT_WDOG_SEEP_ARM && s3.rd SLOT_WDOG_SEEP_PART = p then
    ((s3.wr SLOT_WDOG_SEEP_ARM 0 0).wr SLOT_WDOG_FIRED 0 1).hang p
  else s3.restage

/-- SLOT_START: every plot has acknowledged the load. A step's frame sets are allocated first, as a single action. -/
def execSlotStart (part : PartNo) (s : State) : Answer :=
  s.issue fun s =>
    let p := part.toNat
    let x := (s.part p).slot
    match x.chunk with
    | none => s
    | some c =>
      if x.phase ≠ .loading then s
      else if c.kind = .frame ∨ c.kind = .observe then
        let g := ((s.model? (s.stream c.stream.toNat).model.toNat).map (·.geom)).getD 0
        if !s.flag PG_POOL_CTL_ENABLE p then s.abortSlot p stDenied
        else match s.allocSets p c.stream g c.owners with
          | some s1 => s1.startSlot p c
          | none => (s.starve p).abortSlot p stPageStarved
      else s.startSlot p c

/-! ### The end (R181, R342, R459, R484) -/

/-- A plot has finished its slot (R181). -/
def Plot.finished (x : Plot) (runnels : Nat) : Bool :=
  x.flume.ended && x.furrow.ended && (List.range runnels).all (fun r => (sget ({} : Runnel) x.runnels r).done)
  && x.fills.isEmpty && x.moves.isEmpty && x.passes.isEmpty && x.fuRun.isNone && x.sfuQ.isEmpty

/-- Every entry of the slot's collective list has committed or failed (R459). -/
def State.listEnded (s : State) (p : Nat) : Bool :=
  let x := (s.part p).slot
  match s.listOf p x.image with
  | some (_, l) => (List.range (l.length / 64)).all fun e => x.listDone.contains e
  | none => true

/-- Successor chunks of one that has ended (R64, R484). -/
def State.successors (s : State) (p : Nat) (o : Op) (c : Chunk) : List Chunk :=
  let h := o.horizon
  let next := fun (k : ChunkKind) (n : Nat) => [{ c with kind := k, ordinal := n, ready := none }]
  match c.kind with
  | .frame => if c.ordinal + 1 < h then next .frame (c.ordinal + 1) else if o.train then next .back h else []
  | .back =>
      if c.ordinal + 1 < 2 * h then next .back (c.ordinal + 1)
      else if (s.opChunks p c.ring c.seq).isEmpty then
        [{ c with kind := .optim, owners := [], batch := 0, ordinal := 2 * h, ready := none }]
      else []
  | _ => []

/-- Edits that end a step: an APPEND for each owner's open set, a REFILL for each refilled set. -/
def State.stepEdits (s : State) (p : Nat) (c : Chunk) : List Edit :=
  let n := c.stream.toNat
  let cause := some (c.ring, c.seq)
  match c.kind with
  | .refill => c.sets.map fun k => { kind := .refill, part := p, stream := n, owner := 0, arg := k, cause := cause }
  | .back => []
  | .optim => []
  | _ => c.owners.filterMap fun o => (s.owner n o).openSet.map fun k =>
      { kind := .append, part := p, stream := n, owner := o, arg := k, cause := cause, frame := c.ordinal + 1 }

/-- Swap-outs of an ended slot (R495). -/
def State.newTransits (s : State) (p : Nat) (c : Chunk) : List Transit :=
  let plots := s.partPlots p
  let x := (s.part p).slot
  if c.kind = .frame ∨ c.kind = .observe then
    c.owners.zipIdx.map fun y =>
      let l := plots.getD (y.2 % plots.length) 0
      let i := y.2 / plots.length
      { stream := c.stream, owner := y.1, ring := c.ring, seq := c.seq, lplot := l, pos := y.2 % plots.length, slot := i, num := s.rot.outs + y.2,
        resv := ownerPlace (s.plot (s.physOf l)).stateMap x.stateOff (s.stateBytes c.stream.toNat) i }
  else []

/-- Open encode session that watches a future (R368, R369). -/
def State.watcher (s : State) (n f : Nat) : Option Nat :=
  (s.vid.enc.find? fun x => x.2.isOpen && x.2.f 20 0 17 = n && x.2.f 24 0 12 = f).map (·.1)

/-- Output jobs that the future-frames of an ended slot start (R342, R369). -/
def State.newOutputs (s : State) (p : Nat) (o : Op) (c : Chunk) : List OutPend :=
  let plots := s.partPlots p
  if o.opcode = 4 && o.fld 27 1 1 = 1 && c.kind = .frame then
    c.owners.zipIdx.filterMap fun y => (s.watcher c.stream.toNat y.1).map fun k =>
      { ring := c.ring, seq := c.seq, session := k, pplot := s.physOf (plots.getD (y.2 % plots.length) 0), frame := c.ordinal + 1 }
  else []

def State.stopPlots (s : State) : List Nat → State
  | [] => s
  | l :: ls => (s.setPlot (s.physOf l) { s.plot (s.physOf l) with running := false, loaded := false }).stopPlots ls

/-- A slot may end: all its plots have finished, its swap-ins and its collective list are done, and an OPTIM slot has applied its
step (R108). -/
def State.mayEnd (s : State) (p : Nat) (c : Chunk) (o : Op) : Bool :=
  let x := (s.part p).slot
  x.phase = .running && x.insLeft.isEmpty && s.listEnded p && s.scratchOpen o
  && (s.partPlots p).all (fun l => (s.plot (s.physOf l)).finished (imgRunnels x.img))
  && (c.kind ≠ .optim
      || ((s.policy? (s.stream o.streamNo).policy.toNat).any fun y => y.applied = BitVec.ofNat 32 (o.fld 44 0 32)))
  && (c.kind ≠ .refill || c.sets.all fun n => decide (((s.pool p).set_ n).st = .refilling))

/-- A slot ends: what it leaves is handed to the engines that take it on, and its successors join the queue. -/
def State.endSlot (s : State) (p : Nat) (c : Chunk) (o : Op) : State :=
  let s := s.noteSlot p c o
  let x := s.part p
  let o := (s.op? c.ring c.seq).getD o
  let o1 : Op := if x.slot.widened then { o with status := stWidened } else o
  let outs := s.newTransits p c
  let phase : SlotPhase := if outs.isEmpty && x.transit.isEmpty then .idle else .swapping
  let x1 : Part := { x with slot := { x.slot with phase := phase, chunk := none }, transit := x.transit ++ outs,
                            outJobs := x.outJobs ++ s.newOutputs p o c }
  let s0 := s.setPart p x1
  let s1 := ({ s0 with rot := { s0.rot with outs := s0.rot.outs + outs.length } }).setOp o1
  let s2 := s1.submitEdits (s.stepEdits p c)
  let s3 := s2.queueChunks p (s2.successors p o c)
  let s4 := (s3.stopPlots (s3.partPlots p)).readTransits p outs
  (s4.syncIdle p).boundary p

/-- SLOT_END. -/
def execSlotEnd (part : PartNo) (s : State) : Answer :=
  s.issue fun s =>
    let p := part.toNat
    match (s.part p).slot.chunk with
    | none => s
    | some c =>
      match s.op? c.ring c.seq with
      | none => s
      | some o => if s.mayEnd p c o then s.endSlot p c o else s

/-- SLOT_ABORT: a unit ends the slot with a status of 0x100 or above (R13, R15). -/
def execSlotAbort (part : PartNo) (status : BitVec 12) (detail : BitVec 16) (s : State) : Answer :=
  s.issue fun s => if abortStatuses.contains status then s.abortSlot part.toNat status detail else s

/-- SLOT_WATCHDOG_EXPIRY: the limit of R602 has been reached; a MULT of 0 disables the watchdog. -/
def execSlotWatchdogExpiry (part : PartNo) (s : State) : Answer :=
  s.issue fun s =>
    if s.rd SLOT_WDOG_MULT ≠ 0 && (s.part part.toNat).slot.phase = .running then s.hang part.toNat else s

end Sys2Proof.Machine
end

