-- ==== Sys2Proof/Machine/Lift.lean ====
section
/-! DEFINITION. The lift engines (R400 to R411): entries that stage and warm, lateness, and the reads of Aquifer pages. -/

namespace Sys2Proof.Machine

/-! ### Entries (R401) -/

def LiftRun.f (r : LiftRun) (b lo w : Nat) : Nat := recFld r.bytes 0 b lo w
def LiftRun.keep (r : LiftRun) : Bool := r.f 0 2 1 = 1
def LiftRun.sticky (r : LiftRun) : Bool := r.f 0 3 1 = 1
def LiftRun.warms (r : LiftRun) : Bool := r.f 0 0 2 = 2
def LiftRun.len (r : LiftRun) : Nat := 64 * imgNat r.bytes 24 3
def LiftRun.doff (r : LiftRun) : Nat := imgNat r.bytes 28 4

/-- Logical plot i of a reach (R401). -/
def reachPlot (reach i : Nat) : Nat := 32 * (8 * (reach / 4) + i / 8) + (8 * (reach % 4) + i % 8)

/-- Plots of an entry's MASK in the partition's footprint. -/
def State.maskPlots (s : State) (p : Nat) (r : LiftRun) : List Nat :=
  (((List.range 64).filter (imgNat r.bytes 16 8).testBit).map (reachPlot r.reach)).filter (s.partPlots p).contains

/-- The entries of a lift segment that a reach runs. -/
def reachEntries (img : List Byte) (reach : Nat) : List Nat :=
  (List.range (liftCount img)).filter fun k => imgNat img (liftEntry img k + 1) 1 % 16 = reach

def liftKind (img : List Byte) (k : Nat) : Nat := imgNat img (liftEntry img k) 1 % 4

/-- Entries that a lift engine has in flight. -/
def State.inFlight (s : State) (reach : Nat) : Nat :=
  s.rot.parts.foldl (fun (n : Nat) (x : Nat × Part) => n + (x.2.lifts.filter fun r => r.reach = reach).length) 0

/-- The gate of an entry is open (R402). -/
def State.gateOpen (s : State) (p : Nat) (r : LiftRun) : Bool :=
  let c := r.f 2 0 6
  let at_ := fun (l : Nat) => reached ((s.plot (s.physOf l)).counter c) (BitVec.ofNat 32 (imgNat r.bytes 4 4))
  c = 0 || (if r.f 0 4 1 = 1 then (s.maskPlots p r).all at_ else at_ (r.f 32 0 10))

/-! ### The weight cache as a source (R398, R404) -/

/-- Aquifer units that a range touches. -/
def aqUnitsOf (a n : Nat) : List Nat :=
  let u := (a - aqBase) / 65536
  (List.range ((a + n - 1 - aqBase) / 65536 - u + 1)).map (u + ·)

/-- Units of a range requested in order: those that are absent are read from Aquifer where the cache has room; sticky ones are marked. -/
def State.requestLift (s : State) (p : Nat) (model : DWord) (sticky : Bool) : List Nat → State
  | [] => s
  | u :: us =>
      match s.wcRequest (some p) u with
      | none => s
      | some (k, s1) => (if sticky then s1.makeSticky k model else s1).requestLift p model sticky us

/-- Units of a range that no cache unit holds or fills. -/
def State.absentUnits (s : State) (us : List Nat) : List Nat := us.filter fun u => (s.wcFind u).isNone

/-- Every unit of a range is READY. -/
def State.unitsReady (s : State) (us : List Nat) : Bool := us.all fun u => (s.wcReady (aqBase + u * 65536)).isSome

/-- Where the Cistern copy of a unit's part of a range lies: the cache unit, the address and the length. -/
def State.unitPlace (s : State) (a n u : Nat) : Nat × Nat × Nat :=
  let k := (s.wcReady (aqBase + u * 65536)).getD 0
  let lo := max a (aqBase + u * 65536)
  (k, s.wcAddr k + (lo - aqBase) % 65536, min (a + n) (aqBase + (u + 1) * 65536) - lo)

/-- The channels of a range's copies serve (R429). -/
def State.unitsOpen (s : State) (a n : Nat) : Bool := (aqUnitsOf a n).all fun u => s.cisOpen (s.unitPlace a n u).2.1 (s.unitPlace a n u).2.2

/-- The copies read in order: the first cache unit that cannot be read, if any. -/
def State.readUnits (s : State) (p a n : Nat) : List Nat → Option Nat × State
  | [] => (none, s)
  | u :: us =>
      let x := s.unitPlace a n u
      let r := s.cisRead (some p) x.2.1 x.2.2
      if r.1 = stOk then r.2.readUnits p a n us else (some x.1, r.2)

/-- Units read without an error may be refilled again (R399). -/
def State.unitsRead (s : State) : List Nat → State
  | [] => s
  | u :: us =>
      match s.wcReady (aqBase + u * 65536) with
      | some k => (s.setWcUnit k { s.wcUnit k with refilled := false }).unitsRead us
      | none => s.unitsRead us

/-- Bytes of an Aquifer range from its cache units. -/
def State.unitBytes (s : State) (a n : Nat) : List Byte :=
  (aqUnitsOf a n).flatMap fun u =>
    let lo := max a (aqBase + u * 65536)
    let hi := min (a + n) (aqBase + (u + 1) * 65536)
    s.masBytes lo (hi - lo)

/-! ### Starting, failing and completing an entry (R402 to R404, R408) -/

def State.setLifts (s : State) (p : Nat) (f : List LiftRun → List LiftRun) : State :=
  s.setPart p { s.part p with lifts := f (s.part p).lifts }

/-- An entry fails: it is logged, and its slot ends with its status; an entry that warms the next slot leaves that slot to end so
when it loads. -/
def State.failLift (s : State) (p : Nat) (r : LiftRun) (st : BitVec 12) (channel : Nat := 0) : State :=
  let s1 := (s.setLifts p fun l => l.erase r).logFirst LIFT_LOG_VALID r.reach
    [(LIFT_LOG_ENTRY, r.entry), (LIFT_LOG_STATUS, st.toNat), (LIFT_LOG_DEGRADED, if r.degraded then 1 else 0),
     (LIFT_LOG_CHANNEL, channel)]
  let x := s1.part p
  if r.seq = x.slot.seq then s1.abortSlot p st
  else if r.seq = x.slotSeq + 1 then s1.setPart p { x with warmFail := some st }
  else s1

/-- Bytes written at an entry's destination in its plots, which become resident under KEEP. -/
def State.liftWrite (s : State) (r : LiftRun) (bs : List Byte) : List Nat → State
  | [] => s
  | l :: ls =>
      let q := s.physOf l
      let s1 := s.resvWrite q r.doff bs
      let x := s1.plot q
      let s2 := if r.keep then s1.setPlot q { x with resident := x.resident.filter (fun y => y.1 ≠ r.entry) ++ [(r.entry, r.doff, bs.length)] }
                else s1
      s2.liftWrite r bs ls

/-- The LCTR token to each plot of MASK (R404), tagged with the slot's number. -/
def State.liftTokens (s : State) (r : LiftRun) : List Nat → State
  | [] => s
  | l :: ls => (s.engineToken (.hub r.reach) (s.physOf l) (r.f 3 0 6) (r.f 14 0 8) r.seq).liftTokens r ls

/-- The entry is done. The tokens of an aborted slot are discarded (R408). -/
def State.endLift (s : State) (p : Nat) (r : LiftRun) : State :=
  let s1 := s.setLifts p fun l => l.erase r
  let x := s1.part p
  if r.f 3 0 6 = 0 ∨ r.seq ≠ x.slot.seq ∨ !x.slotRuns then s1 else s1.liftTokens r (s1.maskPlots p r)

/-- Every plot of an entry holds its data (R403). -/
def State.liftResident (s : State) (p : Nat) (r : LiftRun) : Bool :=
  r.keep && (s.maskPlots p r).all fun l => (s.plot (s.physOf l)).resident.any fun y => y.1 = r.entry

/-- The data of a started entry, once its source can be read, written and its token sent. -/
def State.completeLift (s : State) (p : Nat) (r : LiftRun) (model : DWord) : State :=
  let n := r.len
  let plots := s.maskPlots p r
  let us := aqUnitsOf r.src n
  let write := fun (s : State) (bs : List Byte) =>
    (((s.liftWrite r bs plots).bump ctrLifts r.reach).bump ctrLiftBytes r.reach (n * plots.length)).endLift p r
  if s.masRow r.src = 2 then
    if !(s.absentUnits us).isEmpty then s.requestLift p model r.sticky (s.absentUnits us)
    else if !s.unitsReady us then s
    else if r.warms then (s.bump ctrLifts r.reach).endLift p r
    else if !s.unitsOpen r.src n then s
    else
      let read := s.readUnits p r.src n us
      let s1 := read.2
      match read.1 with
      | some k =>
          let u := s1.wcUnit k
          if u.refilled then (s1.setWcUnit k {}).failLift p r stMemUncorrectable
          else (s1.setWcUnit k { st := .filling, aq := u.aq, sticky := u.sticky, refilled := true, part := some p }).bump ctrWcMisses
      | none => write (s1.unitsRead us) (s1.unitBytes r.src n)
  else if r.warms then (s.bump ctrLifts r.reach).endLift p r
  else if s.masRow r.src = 1 then
    let d := s.resvRead r.reach (s.physOf ((r.src - 0x10000000000) / 0x1000000)) (r.src % 0x1000000) n
    if d.1 then write d.2 (d.2.masBytes r.src n) else d.2.failLift p r stMemUncorrectable
  else if !s.cisOpen r.src n then s
  else
    let read := s.cisRead (some p) r.src n
    if read.1 ≠ stOk then read.2.failLift p r read.1 else write read.2 (read.2.cisBytes r.src n)

/-- A plot of the entry is being relocated: its writes wait at their source router (R157). -/
def State.liftHeld (s : State) (p : Nat) (r : LiftRun) : Bool := (s.maskPlots p r).any fun l => s.flag MAP_ENTRY_CHANGING l

/-- An entry that starts: resident data is not lifted again; a range past the budget or a source outside the windows fails it. -/
def State.startLift (s : State) (p : Nat) (r : LiftRun) (img : List Byte) (region : Nat) : State :=
  let model := BitVec.ofNat 64 (imgModel img)
  let s1 := s.setLifts p fun l => l ++ [r]
  if s1.liftResident p r then (s1.bump ctrKeepSkips r.reach).endLift p r
  else if !r.warms && decide (imgBudget img * 65536 < r.doff + r.len) then s1.failLift p r stReservoirOverflow
  else match s1.masRights img region false false r.src r.len with
    | .fail st => s1.failLift p r st
    | _ =>
        let s2 := if s1.masRow r.src = 2 then s1.requestLift p model r.sticky (aqUnitsOf r.src r.len) else s1
        s2.completeLift p r model

/-- The next entry of a reach in segment order that the slot has not started. -/
def nextLift (img : List Byte) (reach : Nat) (started : List Nat) : Option Nat :=
  (reachEntries img reach).find? fun k => !started.contains k

/-- Source of an entry: under STAGE_IX the index is read from its plot's column as the gate opens. -/
def State.liftSource (s : State) (reach : Nat) (r : LiftRun) : Bool × Nat × State :=
  let base := r.f 8 0 48
  if r.f 0 0 2 ≠ 1 then (true, base, s)
  else
    let q := s.physOf (r.f 34 0 10)
    let off := imgNat r.bytes 36 4
    let d := s.resvRead reach q off 2
    (d.1, base + leNat (d.2.resvBytes q off 2) * imgNat r.bytes 40 4 * 65536, d.2)

/-- A lift entry of the partition's slot: one in flight is completed once its data is there; otherwise the next one in segment order
starts, if it is of the command's kind and its gate is open, while fewer than 16 are in flight. -/
def State.runLift (s : State) (p reach kind : Nat) : State :=
  let x := s.part p
  let img := x.slot.img
  let model := BitVec.ofNat 64 (imgModel img)
  match x.lifts.find? fun r => r.reach = reach && r.f 0 0 2 = kind && !s.liftHeld p r
      && (s.masRow r.src ≠ 2 || s.unitsReady (aqUnitsOf r.src r.len) || !(s.absentUnits (aqUnitsOf r.src r.len)).isEmpty) with
  | some r => s.completeLift p r model
  | none =>
      if !x.slotRuns || decide (16 ≤ s.inFlight reach) then s
      else match nextLift img reach x.slot.liftStarted with
        | none => s
        | some k =>
          let r : LiftRun := { entry := k, reach := reach, bytes := (img.drop (liftEntry img k)).take 64, src := 0, seq := x.slot.seq }
          let d := s.liftSource reach r
          if liftKind img k ≠ kind || !s.gateOpen p r || s.liftHeld p r || s.rangeHeld d.2.1 r.len then s
          else
            let s1 := d.2.2.setPart p { d.2.2.part p with slot := { (d.2.2.part p).slot with liftStarted := x.slot.liftStarted ++ [k] } }
            if d.1 then s1.startLift p { r with src := d.2.1 } img (s1.slotRegion p) else s1.failLift p r stMemUncorrectable

/-- STAGE. -/
def execStage (part : PartNo) (reach : ReachNo) (s : State) : Answer := s.issue fun s => s.runLift part.toNat reach.toNat 0
/-- STAGE_IX. -/
def execStageIx (part : PartNo) (reach : ReachNo) (s : State) : Answer := s.issue fun s => s.runLift part.toNat reach.toNat 1

/-- The image of the entry that the rotation table gives the partition next, while its slot runs (R406). -/
def State.nextImage (s : State) (p : Nat) : Option Nat :=
  if (s.part p).slotRuns then (s.walkEntry p).map fun e => partBits ROT_ENTRY_IMAGE (s.entry e) else none

/-- The next ungated WARM entry of the image of slot n + 1 starts. -/
def State.warmAhead (s : State) (p reach k : Nat) : State :=
  let x := s.part p
  let img := s.cisBytes (s.image k).addr (s.image k).len
  let started := if x.warmImage = some k then x.warmStarted else []
  match ((reachEntries img reach).filter fun e => liftKind img e = 2).find? fun e => !started.contains e with
  | none => s
  | some e =>
      let bytes := (img.drop (liftEntry img e)).take 64
      let r : LiftRun := { entry := e, reach := reach, bytes := bytes, src := recFld bytes 0 8 0 48, seq := x.slotSeq + 1 }
      if r.f 2 0 6 ≠ 0 || decide (16 ≤ s.inFlight reach) || s.rangeHeld r.src r.len then s
      else
        (s.setPart p { x with warmImage := some k, warmStarted := started ++ [e] }).startLift p r img (s.slotRegion p)

/-- WARM: an entry of the slot, else one of the image of the next slot (R406). -/
def execWarm (part : PartNo) (reach : ReachNo) (s : State) : Answer :=
  s.issue fun s =>
    let p := part.toNat
    let s1 := s.runLift p reach.toNat 2
    if s1 ≠ s then s1
    else match s.nextImage p with
      | some k => s.warmAhead p reach.toNat k
      | none => s

/-! ### Lateness (R407) -/

/-- A plot has a lift wait: a WAIT on a counter of LMASK that cannot issue, or a fill or LOAD from an Aquifer unit that is not READY. -/
def State.liftWaits (s : State) (p : Nat) : Bool :=
  let x := s.plot p
  let img := s.imgOf x
  let head := fun (sel : StreamSel) =>
    match (s.headItem p sel).bind ExpItem.shown with
    | some (.wait w) => (liftMask img).testBit w.ctr.toNat && !reached (x.counter w.ctr.toNat) w.value
    | some (.compute op _ w) =>
        let d := imgDesc img w.desc.toNat
        op = 0xB && d.src = 1 && s.masRow d.base = 2 && s.tileAccess p d (s.wordTile x w.desc.toNat w.usep w.preg.toNat) false = .wait
    | _ => false
  x.running && ((x.flume.open_ && head .flume) || (x.furrow.open_ && head .furrow) || (match x.fills with
    | q :: _ => let d := imgDesc img q.tile.desc; d.src = 1 && s.masRow d.base = 2 && s.tileAccess p d q.tile false = .wait
    | [] => false))

/-- LIFT_LATE: plots of the reach wait; `periods` are the periods that the report adds to the slot's total. -/
def execLiftLate (part : PartNo) (reach : ReachNo) (periods : Nat) (s : State) : Answer :=
  s.issue fun s =>
    let p := part.toNat
    let r := reach.toNat
    let x := s.part p
    if x.slot.phase ≠ .running ∨ !((s.partPlots p).any fun l => reachOf l = r && s.liftWaits (s.physOf l)) then s
    else
      let total := sget 0 x.slot.latePeriods r + periods
      let s1 := s.setPart p { x with slot := { x.slot with latePeriods := sput 0 x.slot.latePeriods r total } }
      let s2 := (s1.bump ctrLateWaits r).bump ctrLatePeriods r periods
      let tol := liftTol x.slot.img
      if tol ≠ 0xFFFFFFFF ∧ tol < total then (s2.bump ctrLateAborts r).abortSlot p stLiftLate else s2

/-! ### Page reads (R386, R389) -/

/-- Channels of a page's stripe whose die is retired; a channel that is DOWN is served as if all its dies were (R619). -/
def State.retiredIn (s : State) (a : Nat) : List Nat :=
  let stripe := (a - aqBase) / 16384 / 31
  (List.range 32).filter fun c => s.rd AQ_CH_CTL_RATE c = 3 || (s.rd AQ_CH_CTL_DIE_RETIRED c).testBit (Config.dieOf stripe c % 8)

/-- What a page read comes to, past what a seep injects and past retired dies: such a page is served by reconstruction, and a second
unreadable page of the stripe fails the read. -/
def State.pageOutcome (s : State) (a reach : Nat) (o : AqOutcome) : AqOutcome × State :=
  let c := aqChannel a
  let h := s.seepEvents .memt reach 1 fun w => decide (2 ≤ seepTarget .memt w) && getBits w 4 5 = c
  let o1 : AqOutcome := match h.word with
    | some w => if seepTarget .memt w = 3 || seepPersists w then .failed else .reconstructed
    | none => o
  let s1 := h.st
  let dead := s.retiredIn a
  let others := dead.filter (· ≠ c)
  let o2 : AqOutcome :=
    if dead.contains c then (if others.isEmpty ∧ o1 ≠ .failed then .reconstructed else .failed)
    else if o1 = .reconstructed ∧ !others.isEmpty then .failed else o1
  (o2, s1)

/-- AQUIFER_READ: a page of a unit that is being filled is read for a lift entry. A page that no stage delivers leaves its unit absent
and fails the entry. -/
def execAquiferRead (addr : BitVec 48) (part : PartNo) (reach : ReachNo) (outcome : AqOutcome) (s : State) : Answer :=
  s.issue fun s =>
    let a := addr.toNat
    let p := part.toNat
    let u := (a - aqBase) / 65536
    match s.wcFind u with
    | none => s
    | some k =>
      if s.masRow a ≠ 2 ∨ (s.wcUnit k).st ≠ .filling then s
      else
        let d := s.pageOutcome a reach.toNat outcome
        let s1 := (d.2.noteBlockRead a).setWcUnit k { d.2.wcUnit k with pages := (d.2.wcUnit k).pages ||| BitVec.ofNat 4 (2 ^ ((a - aqBase) / 16384 % 4)) }
        let run := (s1.part p).lifts.find? fun r => r.reach = reach.toNat && (aqUnitsOf r.src r.len).contains u
        match if s.unitValid u then d.1 else .failed with
        | .hard => s1
        | .retry => s1.bump ctrAqRetries
        | .soft => s1.bump ctrAqSoft
        | .reconstructed =>
            (s1.setLifts p fun l => l.map fun r => if some r = run then { r with degraded := true } else r).bump ctrAqReconstruct
        | .failed =>
            let s2 := (s1.setWcUnit k {}).bump ctrAqFails
            match run with
            | some r => s2.failLift p r stAquiferReadFail (aqChannel a)
            | none => s2

end Sys2Proof.Machine
end

