-- ==== Sys2Proof/Machine/Power.lean ====
section
/-! DEFINITION. Power, pace and wake depths (R532 to R547): headgates, metered mode, the thermal cap and trip, and the entry into a
depth. -/

namespace Sys2Proof.Machine

/-! ### Headgates (R532 to R534) -/

/-- Rated current of a rail in 0.25 A units (R532). -/
def ratedCurrent (rail : Nat) : Nat := [6000, 480, 240, 40, 400, 200, 120, 60, 16].getD rail 0

/-- A rail whose action is None. -/
def unpaced (rail : Nat) : Bool := rail = 2 || rail = 8

/-- Samples of a rail's window: one every 250 ns over 2 to 50 µs. -/
def State.hgWindow (s : State) (rail : Nat) : Nat := 4 * max 2 (min 50 (s.rd HG_CTL_WINDOW_US rail))

def State.hgLimit (s : State) (rail : Nat) : Nat := min (ratedCurrent rail) (s.rd HG_CTL_LIMIT rail)

/-- What the seep adds to a reading (R546): it counts the samples of the rail or sensor it names; a transient one acts once, a persistent one
on every sample while ARM stays set. -/
def State.pwrSeep (s : State) (which target : Nat) : Nat × State :=
  let h := s.seepEvents .pwr 0 1 fun w => seepTarget .pwr w = target && getBits w 3 7 = which
  ((h.word.map fun w => getBits w 10 13).getD 0, h.st)

/-- A trip past the limit: recorded, and the module stops. -/
def State.trip (s : State) (rail kind : Nat) : State :=
  (s.logFirst PWR_LOG_VALID 0 [(PWR_LOG_RAIL, rail), (PWR_LOG_KIND, kind)]).stop causeHeadgate rail

/-- METER_ACTIVE cleared by a throttle in metered mode (R540). -/
def State.losePace (s : State) : State :=
  let s1 := ((s.wr PWR_CTL_METER_ACTIVE 0 0).wr PWR_CTL_PACE_LOST 0 1).bump ctrPaceLosses
  let s2 := s1.logFirst PWR_LOG_VALID 0 [(PWR_LOG_KIND, 3)]
  let s3 := { s2 with pwr := { s2.pwr with calm := some 0 } }
  if s3.flag PWR_CTL_PACE_LOST_EN then s3.raise evPaceLost else s3

/-- METER_ACTIVE follows the throttle levels of VCORE and VRES after a sample of one of them (R540). -/
def State.meterSample (s : State) (rail : Nat) : State :=
  if 2 ≤ rail ∨ !s.flag PWR_CTL_METER then s
  else if s.rd HG_STATUS_LEVEL 0 ≠ 0 ∨ s.rd HG_STATUS_LEVEL 1 ≠ 0 then
    if s.flag PWR_CTL_METER_ACTIVE then s.losePace
    else { s with pwr := { s.pwr with calm := s.pwr.calm.map fun _ => 0 } }
  else match s.pwr.calm with
    | none => s
    | some n =>
        if rail ≠ 0 then s
        else if s.hgWindow 0 ≤ n + 1 then ({ s with pwr := { s.pwr with calm := none } }).wr PWR_CTL_METER_ACTIVE 0 1
        else { s with pwr := { s.pwr with calm := some (n + 1) } }

/-- One sample: the mean over the window, and the throttle level that follows from it (R533). -/
def State.hgSample (s : State) (rail current : Nat) : State :=
  let n := s.hgWindow rail
  let limit := s.hgLimit rail
  let g := sget ({} : Headgate) s.pwr.gates rail
  let xs := (current :: g.samples).take n
  let sum := xs.foldl (· + ·) 0
  let above := decide (limit * xs.length < sum)
  let low := decide (16 * sum ≤ 15 * limit * xs.length)
  let k := s.rd HG_STATUS_LEVEL rail
  let lowFor := if low then g.lowFor + 1 else 0
  let fall := decide (n ≤ lowFor)
  let k' := if unpaced rail then 0 else if above then min 12 (k + 1) else if fall then k - 1 else k
  let overFor := if above && (unpaced rail || k = 12) then g.overFor + 1 else 0
  let g' : Headgate := { samples := xs, lowFor := if fall then 0 else lowFor, overFor := overFor }
  let s1 := { s with pwr := { s.pwr with gates := sput ({} : Headgate) s.pwr.gates rail g' } }
  let s2 := (s1.wr HG_STATUS_MEAN rail (sum / xs.length)).wr HG_STATUS_LEVEL rail k'
  let s3 := if 0 < k then s2.bump ctrThrottled rail else s2
  let s4 := if k = 0 ∧ 0 < k' then
      (let t := s3.wr HG_STATUS_LIMITED rail 1
       if t.flag HG_CTL_LIM_EN rail then t.raise evHeadgate else t)
    else s3
  if n ≤ overFor then s4.trip rail 0 else s4.meterSample rail

/-- HEADGATE_SAMPLE: `current` in 0.25 A units. A sample above the rated current trips at once (R534). -/
def execHeadgateSample (rail : Fin 9) (current : Nat) (s : State) : Answer :=
  s.issue fun s =>
    let r := rail.val
    let d := s.pwrSeep r 0
    let c := current + d.1
    if ratedCurrent r < c then d.2.trip r 1 else d.2.hgSample r c

/-! ### Metered mode (R538 to R540) -/

/-- METER_ENTER. -/
def State.meterEnter (s : State) : State :=
  if s.flag PWR_CTL_METER then s else (s.wr PWR_CTL_METER 0 1).restage

def execMeterEnter (s : State) : Answer := s.issue State.meterEnter

/-- METER_ACTIVE_REACHED: VCORE has reached 0.72 V; METER_ACTIVE is set while neither VCORE nor VRES is throttled, and otherwise once
both have been calm for a window. -/
def execMeterActiveReached (s : State) : Answer :=
  s.issue fun s =>
    if !s.flag PWR_CTL_METER then s
    else if s.rd HG_STATUS_LEVEL 0 = 0 ∧ s.rd HG_STATUS_LEVEL 1 = 0 then s.wr PWR_CTL_METER_ACTIVE 0 1
    else { s with pwr := { s.pwr with calm := some 0 } }

/-- METER_EXIT: the pace goes at once, and stages apply again. -/
def State.meterExit (s : State) : State :=
  let s1 := (s.wr PWR_CTL_METER 0 0).wr PWR_CTL_METER_ACTIVE 0 0
  ({ s1 with pwr := { s1.pwr with calm := none } }).restage

def execMeterExit (s : State) : Answer := s.issue State.meterExit

/-! ### Thermal sensing (R541) -/

/-- The VCORE ceiling after a sample: lowered by 1 mV each 100 µs while the reading is above T_CAP outside metered mode. -/
def State.thermalCap (s : State) (hot : Nat) : State :=
  let cap := decide (min 103 (s.rd THERM_CTL_T_CAP) < hot) && !s.flag PWR_CTL_METER
  let s1 := { s with pwr := { s.pwr with capMv := if cap then s.vcoreTarget s.pwr.stage - 1 else 250 } }
  let s2 := (s1.wr THERM_STATUS_CAPPING 0 (if cap then 1 else 0)).restage
  if cap then s2.bump ctrCapped else s2

/-- THERMAL_SAMPLE: the hottest reading in °C and its sensor. -/
def execThermalSample (hot : Nat) (sensor : BitVec 7) (s : State) : Answer :=
  s.issue fun s =>
    let d := s.pwrSeep sensor.toNat 1
    let t := hot + d.1 / 8
    let s1 := (d.2.wr THERM_STATUS_HOT 0 (min 255 t)).wr THERM_STATUS_SENSOR 0 sensor.toNat
    let s2 := if s1.rd THERM_CTL_T_WARN < t ∧ !s1.flag THERM_STATUS_WARN then
        (let w := s1.wr THERM_STATUS_WARN 0 1
         if w.flag THERM_CTL_WARN_EN then w.raise evThermWarn else w)
      else s1
    let run := if 107 < t then s2.pwr.hotRun + 1 else 0
    let s3 := ({ s2 with pwr := { s2.pwr with hotRun := run } }).thermalCap t
    if 3 ≤ run then
      (s3.logFirst PWR_LOG_VALID 0 [(PWR_LOG_SENSOR, sensor.toNat), (PWR_LOG_KIND, 2)]).stop causeThermal sensor.toNat
    else s3

/-! ### Depths (R542 to R544) -/

/-- The device is idle (R543). -/
def State.deviceIdle (s : State) : Bool :=
  s.host.ops.isEmpty
  && s.rot.parts.all (fun x => x.2.slot.phase = .idle && x.2.chunks.isEmpty && x.2.lifts.isEmpty)
  && (List.range 64).all (fun p => !s.flag ROT_PART_DIAG_HOLD p && !s.flag PG_RECLAIM_BUSY p)
  && s.vid.dec.all (fun x => x.2.queue.isEmpty && x.2.active.isNone)
  && s.vid.enc.all (fun x => x.2.jobs.isEmpty && x.2.units.isEmpty && x.2.active.isNone)
  && s.vid.hw.all (fun x => x.2.isEmpty)
  && s.aqf.extents.all (fun x => x.2.st ≠ .loading) && decide (s.rd CIS_MAP_PHASE = 0)

/-- Pooled's condition: no enabled partition's cycle holds a CADENCE or PERIOD entry. -/
def State.mayPool (s : State) : Bool :=
  !((List.range 64).any fun p => s.partEnabled p && (s.cycle p).any fun e =>
    partBits ROT_ENTRY_VALID (s.entry e) = 1 && partBits ROT_ENTRY_TRIG (s.entry e) ≠ 0)

def State.mayDrain (s : State) : Bool :=
  s.mayPool && s.flag PWR_SAVE_ENABLE && decide ((s.rd PWR_SAVE_BASE_1G + 16) * 2 ^ 30 ≤ s.cisEnd)
  && s.cf.groups.all fun x => !x.2.isOpen

def State.mayDry (s : State) : Bool :=
  s.mayDrain && s.flag PWR_IDLE_DRY_OK
  && s.ctx.streams.all (fun x => x.2.st = .free) && s.ctx.models.isEmpty && s.ctx.policies.isEmpty && s.ctx.images.isEmpty
  && s.vid.dec.all (fun x => !x.2.isOpen) && s.vid.enc.all (fun x => !x.2.isOpen)

/-- The deepest depth whose WAKE_MAX is at most TOL_US and whose conditions hold; Still where none qualifies. -/
def State.nextDepth (s : State) : Depth :=
  let tol := s.rd PWR_IDLE_TOL_US
  if 5000000 ≤ tol ∧ s.mayDry then .dry
  else if 40000 ≤ tol ∧ s.mayDrain then .drained
  else if 250 ≤ tol ∧ s.mayPool then .pooled
  else .still

/-- Number of a depth in DEPTH and in the counters. -/
def Depth.num : Depth → Nat
  | .awake => 0
  | .still => 0
  | .pooled => 1
  | .drained => 2
  | .dry => 3

/-- A plot whose VCORE has been gated: its Reservoir marks and runnel map stay. -/
def Plot.gated (x : Plot) : Plot := { resident := x.resident, runMap := x.runMap }

/-- VCORE gated: accumulators, staging, row statistics and runnel scratch go, and every partition's next load is cold (R542, R544). -/
def State.gateVcore (s : State) : State :=
  { s with plots := s.plots.map fun x => (x.1, x.2.gated),
           rot := { s.rot with parts := s.rot.parts.map fun x => (x.1, { x.2 with forceCold := true }) } }

/-- An entry that has completed. -/
def State.enterDepth (s : State) (d : Depth) : State :=
  let s1 := { s with pwr := { s.pwr with depth := d, entering := none } }
  (s1.wr PWR_IDLE_DEPTH 0 d.num).bump (ctrEntries d.num)

/-- IDLE_TIMER_EXPIRY: Still and Pooled are entered at once; Drained and Dry begin with the save of the Reservoir. -/
def execIdleTimerExpiry (s : State) : Answer :=
  s.issue fun s =>
    if !s.boot.ready ∨ s.pwr.depth ≠ .awake ∨ !s.deviceIdle then s
    else match s.nextDepth with
      | .pooled => s.gateVcore.enterDepth .pooled
      | .drained => { s with pwr := { s.pwr with depth := .still, entering := some .drained } }
      | .dry => { s with pwr := { s.pwr with depth := .still, entering := some .dry } }
      | _ => s.enterDepth .still

/-- The columns of all logical plots in the save area: column l lies 16 MiB times l behind its start. -/
def State.saveReservoir (s : State) : State :=
  let base := s.rd PWR_SAVE_BASE_1G * 2 ^ 30
  let rest := s.mem.cis.filter fun c => !(decide (base ≤ c.1 ∧ c.1 < base + 2 ^ 34))
  let saved := s.mem.resv.filterMap fun (c : Host.Cell) => (s.logOf (c.1 / 2 ^ 24)).map fun l => (base + 2 ^ 24 * l + c.1 % 2 ^ 24, c.2)
  let tags := s.mem.cisTag.filter fun c => !(decide (base / 64 ≤ c.1 ∧ c.1 < (base + 2 ^ 34) / 64))
  let fog := s.mem.cisFog.filter fun c => !(decide (base / 2 ^ 26 ≤ c.1 ∧ c.1 < base / 2 ^ 26 + 256))
  { s with mem := { s.mem with cis := saved.foldl (fun m c => sput (0 : Byte) m c.1 c.2) rest, cisTag := tags, cisFog := fog } }

/-- The saved columns back in the Reservoir. -/
def State.restoreReservoir (s : State) : State :=
  let base := s.rd PWR_SAVE_BASE_1G * 2 ^ 30
  let cells := s.mem.cis.filter fun c => decide (base ≤ c.1 ∧ c.1 < base + 2 ^ 34)
  { s with mem := { s.mem with resv := cells.foldl (fun m c =>
      sput (0 : Byte) m (2 ^ 24 * s.physOf ((c.1 - base) / 2 ^ 24) + (c.1 - base) % 2 ^ 24) c.2) [] } }

/-- VCORE and VRES gated, Cistern in self-refresh, and the Confluence ports down. -/
def State.drainPower (s : State) : State :=
  let s1 := s.saveReservoir.gateVcore
  let s2 := { s1 with mem := { s1.mem with resv := [] }, boot := { s1.boot with selfRefresh := true } }
  wrAll CF_PORT_STATE 0 8 s2

/-- DRAINED_SAVE_DONE: the copy is complete; contents are lost only now. Dry then removes every rail except VAON. -/
def execDrainedSaveDone (s : State) : Answer :=
  s.issue fun s =>
    match s.pwr.entering with
    | some .drained => s.drainPower.enterDepth .drained
    | some .dry =>
        let s1 := s.drainPower.enterDepth .dry
        let s2 : State := { s1 with boot := { s1.boot with railsUp := false, selfRefresh := false, plls := { island := s1.boot.plls.island } } }
        wrAll DEX_HALF_STATE 0 2 s2
    | _ => s

end Sys2Proof.Machine
end

