-- ==== Sys2Proof/Machine/LeveeOps.lean ====
section
/-! DEFINITION. Fences, runnel maps and map entries as registers (R155, R158, R583, R585, R586, R608), and the plot test (R590 to
R592). -/

namespace Sys2Proof.Machine

/-! ### Fence registers (R583) -/

/-- A plot may be put under test (R590): it is fenced, or it lies in no enabled partition's rectangle, as a free spare does. -/
def State.mayTest (s : State) (p : Nat) (fenced : Bool) : Bool := fenced || (s.plotPart p).isNone

/-- The partition of a physical plot judged anew (R586). -/
def State.restrand (s : State) (p : Nat) : State :=
  match s.plotPart p with
  | some k => s.checkStranding k
  | none => s

/-- LEVEE_PLOT: MANUF keeps FLUME and PLOT as they are set; TEST is set only where R590 allows it. -/
def State.writeLeveePlot (s : State) (p : Nat) (v : DWord) : State :=
  let manuf := s.flag LEVEE_PLOT_MANUF p
  let fl := v.getLsbD 0 || (manuf && s.flag LEVEE_PLOT_FLUME p)
  let pl := v.getLsbD 1 || (manuf && s.flag LEVEE_PLOT_PLOT p)
  let test := v.getLsbD 2 && (s.flag LEVEE_PLOT_TEST p || s.mayTest p (fl || pl))
  (s.wrs p [(LEVEE_PLOT_FLUME, if fl then 1 else 0), (LEVEE_PLOT_PLOT, if pl then 1 else 0),
    (LEVEE_PLOT_TEST, if test then 1 else 0)]).restrand p

/-- LEVEE_RUN_LO and LEVEE_RUN_HI: bits that the fuses set stay; RUN_FENCED follows; a new runnel fence makes the next load cold. -/
def State.writeRunFence (s : State) (k : RegKind) (p : Nat) (v : DWord) : State :=
  let old := s.reg k p
  let new := (v ||| regReset k p) &&& (if k = .leveeRunHi then 0xFFFF else 0xFFFFFFFFFFFFFFFF)
  let s1 := s.setReg k p new
  let s2 := s1.countRunFences p
  if new &&& ~~~old = 0 then s2 else s2.coldNext p

/-- A slot runs on a plot, or its cluster holds a lookup (R265). -/
def State.clusterBusy (s : State) (p : Nat) : Bool :=
  let x := s.plot p
  x.running || (x.loaded && (s.part x.part).slotRuns) || !x.sfuQ.isEmpty || x.fuRun.isSome

/-- SFU_PLOT_CTL: LANE_FENCE and ROUTE for the next slot load, BANK only while the plot is quiet. -/
def State.writeSfuPlot (s : State) (p : Nat) (v : DWord) : State :=
  let s1 := s.wrs p [(SFU_PLOT_CTL_LANE_FENCE, getBits v 0 16), (SFU_PLOT_CTL_ROUTE, getBits v 16 10)]
  if s.clusterBusy p then s1 else s1.wr SFU_PLOT_CTL_BANK p (getBits v 26 11)

/-- Every field of a register that a write may set, set. -/
def writeFields (k : RegKind) (n : Nat) (old v : DWord) : DWord :=
  k.fields.foldl (fun (acc : DWord) (f : FieldDesc) =>
    if !fieldPresent k n f then acc
    else match f.acc with
      | .rw => setBits acc f.lo f.w (getBits v f.lo f.w)
      | .w1c => setBits acc f.lo f.w (getBits (acc &&& ~~~v) f.lo f.w)
      | .ro => acc
      | .wo => acc) old

/-! ### Map entries (R155, R157, R608) -/

/-- Messages held for a logical plot go to the physical plot that it names now (R156 step 7). -/
def State.moveTokens (s : State) (p q : Nat) : State :=
  { s with canal := s.canal.map fun (t : Token) => if t.pplot = p then { t with pplot := q } else t }

/-- A map entry takes a value on every copy: with a changed place the column is carried across (R156 step 5, R382), the partition's next load
is cold, and it may be stranded or free again. -/
def State.writeMapEntry (s : State) (l : Nat) (v : DWord) : State :=
  let p := s.physOf l
  let s1 := s.wrs l [(MAP_ENTRY_PY, getBits v 0 5), (MAP_ENTRY_PX, getBits v 5 6), (MAP_ENTRY_CHANGING, getBits v 11 1)]
  let q := s1.physOf l
  let s2 := if p = q then s1 else ((s1.moveColumn p q).moveTokens p q).coldNext q
  match s2.partOf l with
  | some k => s2.checkStranding k
  | none => s2

/-- MAP_ENTRY_WRITE: recorded in the levee list, then in force (R585). -/
def execMapEntryWrite (lplot : LPlot) (v : DWord) (s : State) : Answer :=
  s.issue fun s => (s.writeMapEntry lplot.toNat v).recordReg .mapEntry lplot.toNat

/-! ### Recorded writes (R585) -/

/-- Registers whose writes by the operator are held until firmware has recorded them. -/
def leveeKind (k : RegKind) : Bool :=
  k = .leveePlot || k = .leveeRunLo || k = .leveeRunHi || k = .leveeEng || k = .sfuPlotCtl || k = .runMap || k = .mapEntry

/-- A recorded write takes effect. -/
def State.leveeApply (s : State) (k : RegKind) (n : Nat) (v : DWord) : State :=
  match k with
  | .leveePlot => s.writeLeveePlot n v
  | .leveeRunLo => s.writeRunFence .leveeRunLo n v
  | .leveeRunHi => s.writeRunFence .leveeRunHi n v
  | .leveeEng => (s.setReg .leveeEng 0 (writeFields .leveeEng 0 (s.reg .leveeEng 0) v)).fencePipes
  | .sfuPlotCtl => s.writeSfuPlot n v
  | .runMap => s.setReg .runMap n (writeFields .runMap n (s.reg .runMap n) v)
  | .mapEntry => s.writeMapEntry n v
  | _ => s

/-- A write of a fence register, recorded. -/
def State.leveeWrite (s : State) (off : Nat) (v : DWord) : State :=
  match regAt off with
  | some (k, n) =>
      if leveeKind k then
        let s1 := { s with lev := { s.lev with heldWrites := s.lev.heldWrites.erase (off, v) } }
        (s1.leveeApply k n v).recordReg k n
      else s
  | none => s

/-- LEVEE_WRITE: a held write of the operator, or firmware's own, has been recorded and takes effect. -/
def execLeveeWrite (offset : BitVec 32) (v : DWord) (s : State) : Answer := s.issue fun s => s.leveeWrite offset.toNat v

/-! ### Plot test (R590 to R592) -/

/-- START written: ignored while BUSY, and where TEST is 0. -/
def State.plotTestStart (s : State) : State :=
  if s.flag PLOT_TEST_BUSY ∨ !s.flag LEVEE_PLOT_TEST (s.rd PLOT_TEST_PPLOT) then s
  else
    let s1 := s.wrs 0 [(PLOT_TEST_BUSY, 1), (PLOT_TEST_RESULT, 0), (PLOT_TEST_UNIT, 0)]
    { s1 with lev := { s1.lev with testPlot := s.rd PLOT_TEST_PPLOT } }

def execPlotTestStart (s : State) : Answer := s.issue State.plotTestStart

/-- A plot as a test leaves it: its stores hold what the patterns left, which the manual does not give (free values from index i on). -/
def testedPlot (i : Nat) (x : Plot) : Plot :=
  let w := fun (k : Nat) => Config.freeWord (i + k)
  let b := fun (k n : Nat) => (List.range n).map fun j => Config.freeByte (i + k + j)
  let stage := fun (k : Nat) => ({ data := b (8192 * k) 8192, scales := b (2 ^ 18 + 128 * k) 128 } : StageSlot)
  let row := fun (k : Nat) => ({ max := w (8 * k), sumHi := w (8 * k + 1), sumLo := w (8 * k + 2), mean := w (8 * k + 3),
                                 m2Hi := w (8 * k + 4), m2Lo := w (8 * k + 5), count := w (8 * k + 6), factor := w (8 * k + 7) } : BankRow)
  { runMap := x.runMap,
    tiles := (List.range 16).map fun t => (t, ({ data := (List.range 4096).map fun k => w (2 ^ 16 + 4096 * t + k) } : Tile)),
    rowStage := (List.range 8).map fun k => (k, stage k),
    bank := (List.range 16).map fun k => (k, stage (8 + k)),
    stats := (List.range 1024).map fun k => (k, row k),
    scratch := ((List.range 327680).map fun k => (k, Config.freeByte (i + 2 ^ 19 + k))).filter fun c => c.2 ≠ 0 }

/-- The test has overwritten a plot: its Reservoir column and its stores. -/
def State.overwritePlot (s : State) (q : Nat) : State :=
  let m := { s.mem with resv := s.mem.resv.filter (fun (c : Host.Cell) => c.1 / 2 ^ 24 ≠ q),
                        resvBad := s.mem.resvBad.filter (fun w => w / 2 ^ 21 ≠ q),
                        fog := sput 0 s.mem.fog q (s.freeIdx + 1) }
  let s1 := { s with mem := m, freeIdx := s.freeIdx + 2 ^ 24 + 2 ^ 20 }
  s1.setPlot q (testedPlot (s.freeIdx + 2 ^ 24) (s1.plot q))

/-- PLOT_TEST_DONE. -/
def execPlotTestDone (res : TestResult) (s : State) : Answer :=
  s.issue fun s =>
    if !s.flag PLOT_TEST_BUSY then s
    else
      let q := s.lev.testPlot
      let s1 := s.overwritePlot q
      match res with
      | .pass => (s1.wrs 0 [(PLOT_TEST_RESULT, 1), (PLOT_TEST_UNIT, 0), (PLOT_TEST_BUSY, 0)]).raise evTestDone
      | .fail u => (s1.wrs 0 [(PLOT_TEST_RESULT, 2), (PLOT_TEST_UNIT, u.toNat), (PLOT_TEST_BUSY, 0)]).raise evTestDone
      | .abandoned => s1.abandonTest q

end Sys2Proof.Machine
end

