-- ==== Sys2Proof/Machine/Tables.lean ====
section
/-! DEFINITION. SFU table loads and switches (R252 to R257, R265). -/

namespace Sys2Proof.Machine

/-- The verified copy that SFU_TBL_ADDR names (R558). -/
def State.tblCopy (s : State) : Option Component := s.wm.sfuCopies.find? fun c => c.addr = s.rd SFU_TBL_ADDR_ADDR

/-- LOAD written: refused while a switch is pending or a load runs, for an address of no verified copy, and for a micro-program image
that fails R257. -/
def State.sfuLoad (s : State) : State :=
  let units := BitVec.ofNat 11 (s.rd SFU_TBL_CTL_UNITS)
  match s.tblCopy with
  | none => s.wr SFU_TBL_CTL_LOAD_REFUSED 0 1
  | some c =>
      if s.rd SFU_SWITCH_PENDING_PEND ≠ 0 ∨ s.sfu.loading.isSome ∨ (units.getLsbD 10 ∧ !microImageOk c.measure) then
        s.wr SFU_TBL_CTL_LOAD_REFUSED 0 1
      else ({ s with sfu := { s.sfu with loading := some (units, c) } }).wr SFU_TBL_CTL_LOAD_DONE 0 0

/-- SFU_TABLE_LOAD: one write of the UNITS mask with LOAD. -/
def execSfuTableLoad (units : BitVec 11) (s : State) : Answer :=
  s.issue fun s => (s.wr SFU_TBL_CTL_UNITS 0 units.toNat).sfuLoad

/-- An image broadcast to every physical plot: each takes it into the inactive banks of the units named (R253 step 2). -/
def State.broadcastTable (s : State) (units : BitVec 11) (m : BitVec 384) : State :=
  let selects := s.regs.filter fun (x : Nat × DWord) => decide (regOff .sfuPlotCtl 0 ≤ x.1 ∧ x.1 ≤ regOff .sfuPlotCtl 1055)
  { s with sfu := { s.sfu with tables := { units := units, image := m, selects := selects } :: s.sfu.tables } }

/-- SFU_LOAD_DONE: every plot has acknowledged. -/
def execSfuLoadDone (s : State) : Answer :=
  s.issue fun s =>
    match s.sfu.loading with
    | none => s
    | some (units, c) =>
        let s1 := s.broadcastTable units c.measure
        ({ s1 with sfu := { s1.sfu with loading := none, loadedUnits := units, loaded := some c } }).wr SFU_TBL_CTL_LOAD_DONE 0 1

/-- Bank selects of the loaded units flipped on the first n physical plots but those named. -/
def State.flipOthers (s : State) (kept : List Nat) : Nat → State
  | 0 => s
  | q + 1 =>
      let s1 := s.flipOthers kept q
      if kept.contains q then s1 else s1.flipBanks q

/-- SWITCH written: EPOCH advances and every partition is pending; plots of enabled partitions flip at their next slot load, and every
other plot flips now. -/
def State.sfuSwitch (s : State) : State :=
  if !s.flag SFU_TBL_CTL_LOAD_DONE ∨ s.rd SFU_SWITCH_PENDING_PEND ≠ 0 then s
  else
    let owed := (((List.range 64).filter s.partEnabled).flatMap s.partPlots).map s.physOf
    let s1 := (s.wr SFU_TBL_CTL_EPOCH 0 ((s.rd SFU_TBL_CTL_EPOCH + 1) % 2 ^ 32)).wr SFU_SWITCH_PENDING_PEND 0 (2 ^ 64 - 1)
    let s2 := s1.flipOthers owed 1056
    { s2 with wm := { s2.wm with sfuActive := s2.sfu.loaded }, boot := { s2.boot with sfuImageKept := s2.sfu.loaded },
              sfu := { s2.sfu with owed := owed } }

def execSfuTableSwitch (s : State) : Answer := s.issue State.sfuSwitch

end Sys2Proof.Machine
end

