-- ==== Sys2Proof/Machine/Seeps.lean ====
section
/-! DEFINITION. Seeps (R141, R579): arming by register, and what a seep injects when it fires. -/

namespace Sys2Proof.Machine

/-- Registers that arm a seep under R141. -/
def isSeep (k : RegKind) : Bool :=
  k = .flSeep || k = .fuSeep || k = .sfuSeep || k = .hwSeep || k = .codecSeep || k = .plotSeep || k = .memtSeep || k = .cisSeep
  || k = .sluiceSeep || k = .cfSeep || k = .dexSeep || k = .pwrSeep || k = .wmSeep

/-- What a write of a seep register does to its arming: an arming takes the fields and counts anew, later writes wait for the next one, and
a cleared ARM disarms. -/
def State.armSeep (s : State) (off : Nat) (old new : DWord) : State :=
  if !new.getLsbD 0 then { s with armed := sput (0 : DWord) s.armed off 0, seen := sput 0 s.seen off 0 }
  else if old.getLsbD 0 then s
  else { s with armed := sput (0 : DWord) s.armed off new, seen := sput 0 s.seen off 0 }

/-- A seep that has let its DELAY events through fires: the next event of its unit, pass, row, block or whatever the seep counts, meets the
fault. -/
def State.seepFire (s : State) (k : SeepKind) (inst : Nat) : State :=
  if k = .watchdog || !s.seepArmed k inst || decide (s.seepSeen k inst < seepDelay (s.armedWord k inst)) then s
  else (s.disarm k inst).inject_ k inst (s.armedWord k inst)

/-- SEEP_FIRE: the watchdog's seep fires with the slot it makes expire (R602), at that slot's start. -/
def execSeepFire (kind : SeepKind) (inst : Nat) (s : State) : Answer := s.issue fun s => s.seepFire kind inst

end Sys2Proof.Machine
end

