-- ==== Sys2Proof/Machine/Diag.lean ====
section
/-! DEFINITION. The plot diagnostic windows (R612, R613), and what the operator window keeps from them (R572). -/

namespace Sys2Proof.Machine

/-- What an offset in a plot's diagnostic window names. -/
inductive DiagPlace where
  | tile (t elem : Nat)
  | stage (bank : Bool) (slot byte : Nat)
  | scale (bank : Bool) (slot byte : Nat)
  | stats (row word : Nat)          -- row 64 * bank + row
  | control (entry : Nat)
  | scratch (byte : Nat)
  | none
  deriving DecidableEq, Repr

/-- Row-stage slots come before bank slots. -/
def diagSlot (k : Nat) : Bool × Nat := if k < 8 then (false, k) else (true, k - 8)

def diagPlace (d : Nat) : DiagPlace :=
  if d < 0x40000 then .tile (d / 0x4000) (d % 0x4000 / 4)
  else if d < 0x70000 then
    let k := diagSlot ((d - 0x40000) / 0x2000)
    .stage k.1 k.2 (d % 0x2000)
  else if d < 0x70000 + 3264 then
    let k := diagSlot ((d - 0x70000) / 136)
    .scale k.1 k.2 ((d - 0x70000) % 136)
  else if 0x71000 ≤ d ∧ d < 0x79000 then .stats ((d - 0x71000) / 32) ((d - 0x71000) % 32 / 4)
  else if 0x79000 ≤ d ∧ d < 0x79000 + 528 then .control ((d - 0x79000) / 4)
  else if 0x80000 ≤ d ∧ d < 0xD0000 then .scratch (d - 0x80000)
  else .none

/-- Contents that R572 keeps from the operator: accumulators, staging and row statistics. -/
def DiagPlace.kept : DiagPlace → Bool
  | .tile _ _ => true
  | .stage _ _ _ => true
  | .scale _ _ _ => true
  | .stats _ _ => true
  | .control _ => false
  | .scratch _ => false
  | .none => false

/-- Word of a statistics row (R221). -/
def BankRow.get (r : BankRow) (w : Nat) : Word :=
  [r.max, r.sumHi, r.sumLo, r.mean, r.m2Hi, r.m2Lo, r.count, r.factor].getD w 0

def BankRow.set (r : BankRow) (w : Nat) (v : Word) : BankRow :=
  match w with
  | 0 => { r with max := v }
  | 1 => { r with sumHi := v }
  | 2 => { r with sumLo := v }
  | 3 => { r with mean := v }
  | 4 => { r with m2Hi := v }
  | 5 => { r with m2Lo := v }
  | 6 => { r with count := v }
  | 7 => { r with factor := v }
  | _ => r

/-- Bytes of a list with some replaced, the list padded with zeros to a length. -/
def putBytes (l : List Byte) (off : Nat) (bs : List Byte) (size : Nat) : List Byte :=
  let p := l ++ List.replicate (size - l.length) (0 : Byte)
  p.take off ++ bs ++ p.drop (off + bs.length)

/-- The slot whose bytes a staging place shows, and where: an F32 tile fills its slot and the next (R122). -/
def Plot.stagePlace (x : Plot) (bank : Bool) (slot byte : Nat) : Nat × Nat :=
  if 0 < slot ∧ 8192 < (x.stage bank (slot - 1)).data.length then (slot - 1, 8192 + byte) else (slot, byte)

/-- Scale store entry of a slot: 128 scale bytes and the tag word. -/
def StageSlot.entry (y : StageSlot) (byte : Nat) : Byte :=
  if byte < 128 then y.scales.getD byte 0
  else if byte = 128 then BitVec.ofNat 8 (y.fmt % 16 + (if y.negInf then 16 else 0)) else 0

/-- The eight bytes at a place. -/
def State.diagRead (s : State) (p : Nat) (d : DiagPlace) : DWord :=
  let x := s.plot p
  let two := fun (a b : Word) => BitVec.ofNat 64 (a.toNat + b.toNat * 2 ^ 32)
  match d with
  | .tile t e => two ((x.tile t).data.getD e 0) ((x.tile t).data.getD (e + 1) 0)
  | .stage b k o =>
      let q := x.stagePlace b k o
      BitVec.ofNat 64 (leNat ((List.range 8).map fun i => (x.stage b q.1).data.getD (q.2 + i) 0))
  | .scale b k o => BitVec.ofNat 64 (leNat ((List.range 8).map fun i => (x.stage b k).entry (o + i)))
  | .stats r w => two ((sget ({} : BankRow) x.stats r).get w) ((sget ({} : BankRow) x.stats r).get (w + 1))
  | .control e => two ((x.control 0 e).getD 0) ((x.control 0 (e + 1)).getD 0)
  | .scratch a => BitVec.ofNat 64 (leNat (readBytes x.scratch a 8))
  | .none => 0

/-- A plot with eight bytes written at a place; the plot-control state takes none. -/
def Plot.diagWrite (x : Plot) (d : DiagPlace) (v : DWord) : Plot :=
  let lo : Word := v.setWidth 32
  let hi : Word := (v >>> 32).setWidth 32
  match d with
  | .tile t e =>
      let y := x.tile t
      let data := y.data ++ List.replicate (4096 - y.data.length) (0 : Word)
      x.setTile t { y with data := (data.set e lo).set (e + 1) hi }
  | .stage b k o =>
      let q := x.stagePlace b k o
      let y := x.stage b q.1
      x.setStage b q.1 { y with data := putBytes y.data q.2 (leBytes 8 v.toNat) 8192 }
  | .scale b k o =>
      let y := x.stage b k
      x.setStage b k (if o < 128 then { y with scales := putBytes y.scales o (leBytes 8 v.toNat) 128 }
                      else { y with fmt := getBits v 0 4, negInf := v.getLsbD 4 })
  | .stats r w => { x with stats := sput ({} : BankRow) x.stats r (((sget ({} : BankRow) x.stats r).set w lo).set (w + 1) hi) }
  | .control _ => x
  | .scratch a => { x with scratch := writeBytes x.scratch a (leBytes 8 v.toNat) }
  | .none => x

/-- The device serves a diagnostic access: the plot lies in no enabled partition, or its partition is IDLE. -/
def State.diagServed (s : State) (p : Nat) : Bool :=
  match s.plotPart p with
  | none => true
  | some k => s.flag ROT_PART_IDLE k

/-- A plot of a partition granted to a tenant other than 0. -/
def State.foreignPlot (s : State) (p : Nat) : Bool :=
  match s.plotPart p with
  | none => false
  | some k => s.partTenant k ≠ 0

/-- First offset of the diagnostic windows. -/
def diagBase : Nat := 0x40000000

/-- Physical plot and offset in its window. -/
def diagOf (off : Nat) : Option (Nat × Nat) :=
  if diagBase ≤ off ∧ off < diagBase + 1056 * 2 ^ 20 then some ((off - diagBase) / 2 ^ 20, (off - diagBase) % 2 ^ 20) else none

/-- A write through a diagnostic window. -/
def State.diagPut (s : State) (src : AccessSource) (off : Nat) (v : DWord) : State :=
  match diagOf off with
  | none => s
  | some (p, d) =>
      let place := diagPlace d
      match src with
      | .tenant t => s.violation t off
      | .operator =>
          if s.foreignPlot p && place.kept then s.violation 0 off
          else if s.diagServed p then s.setPlot p ((s.plot p).diagWrite place v) else s
      | .firmware => if s.diagServed p then s.setPlot p ((s.plot p).diagWrite place v) else s

/-- Store of a plot that a place lies in, by unit and index (R580, R582). -/
def DiagPlace.store : DiagPlace → Option (Nat × Nat)
  | .tile t _ => some (0, t)
  | .stage bank k _ => some (1, if bank then 8 + k else k)
  | .scale bank k _ => some (1, if bank then 8 + k else k)
  | .stats r _ => some (4, r / 64)
  | .scratch a => some (2, a / 4096)
  | .control _ => Option.none
  | .none => Option.none

/-- A served read: a word that its code cannot correct reads zero, and the failure is logged (R613). -/
def State.diagServe (s : State) (p : Nat) (d : DiagPlace) : DWord × State :=
  match d.store with
  | none => (s.diagRead p d, s)
  | some (unit, index) =>
      let h := s.seepEvents .plot p 1 fun w => seepTarget .plot w = unit && getBits w 5 7 = index
      match h.word with
      | none => (s.diagRead p d, h.st)
      | some w =>
          if w.getLsbD 18 then (0, ({ h.st with freeIdx := s.freeIdx + 1 } : State).plotLog p unit index (Config.freeNat s.freeIdx % 4096))
          else (s.diagRead p d, h.st.bump ctrPlotCorrected p)

/-- A read through a diagnostic window by the operator or over I3C. -/
def State.diagGet (s : State) (off : Nat) : DWord × State :=
  match diagOf off with
  | none => (0, s)
  | some (p, d) =>
      let place := diagPlace d
      if s.foreignPlot p && place.kept then (0, s.violation 0 off)
      else if s.diagServed p then s.diagServe p place else (0, s)

/-- DIAG_WRITE (R612, R613). -/
def execDiagWrite (src : AccessSource) (offset : BitVec 32) (v : DWord) (s : State) : Answer :=
  s.issue fun s => if offset.toNat % 8 ≠ 0 then s.bump ctrBadAccess else s.diagPut src offset.toNat v

end Sys2Proof.Machine
end

