-- ==== Sys2Proof/Machine/Registers.lean ====
section
/-! DEFINITION. Register accesses (R10, R11, R571, R598, R604 to R606, R614 to R616, R621): counter blocks, gauges, the write rule of
each register, and the reading of any register of the privileged view. -/

namespace Sys2Proof.Machine

/-! ### Counter blocks (R609 to R611, R614, R615) -/

/-- A family of counter blocks: offset of the first, stride, number of them, and the counters that each holds. -/
structure CtrFamily where
  base : Nat
  stride : Nat
  count : Nat
  lo : Nat
  hi : Nat
  deriving DecidableEq, Repr

def deviceBlocks : List CtrFamily :=
  [⟨0x1000, 0x200, 1, 0, 9⟩, ⟨0x1200, 0x200, 1, 6, 14⟩, ⟨0x1400, 0x200, 1, 0, 0⟩, ⟨0x1600, 0x200, 1, 1, 13⟩,
   ⟨0x1800, 0x200, 1, 0, 2⟩, ⟨0x1A00, 0x200, 1, 0, 0⟩]

def instanceBlocks : List CtrFamily :=
  [⟨0x10200, 0x800, 64, 0, 5⟩, ⟨0x10400, 0x800, 64, 0, 6⟩, ⟨0x10600, 0x800, 64, 0, 2⟩, ⟨0x40200, 0x1000, 16, 0, 5⟩,
   ⟨0x40400, 0x1000, 16, 0, 1⟩, ⟨0x40600, 0x1000, 16, 0, 7⟩, ⟨0x50200, 0x400, 32, 0, 5⟩, ⟨0x60200, 0x400, 64, 0, 9⟩,
   ⟨0x80200, 0x400, 16, 0, 10⟩, ⟨0x90200, 0x400, 8, 0, 7⟩, ⟨0x94200, 0x400, 2, 0, 6⟩, ⟨0x98200, 0x400, 9, 0, 0⟩,
   ⟨0xA0200, 0x400, 64, 0, 1⟩, ⟨0x400200, 0x400, 4096, 7, 12⟩]

def plotBlocks : List CtrFamily :=
  [⟨0x1000200, 0x1000, 1056, 0, 8⟩, ⟨0x1000400, 0x1000, 1056, 0, 8⟩, ⟨0x1000600, 0x1000, 1056, 0, 4⟩,
   ⟨0x1000800, 0x1000, 1056, 0, 7⟩, ⟨0x1000A00, 0x1000, 1056, 0, 1⟩]

/-- A block of a family holds an offset. -/
def CtrFamily.holds (f : CtrFamily) (off : Nat) : Bool :=
  decide (f.base ≤ off ∧ (off - f.base) / f.stride < f.count ∧ (off - f.base) % f.stride < 0x200)

/-- The counter block at an offset: its family and its own offset. -/
def ctrBlockAt (off : Nat) : Option (CtrFamily × Nat) :=
  ((deviceBlocks ++ instanceBlocks ++ plotBlocks).find? fun f => f.holds off).map fun f =>
    (f, f.base + f.stride * ((off - f.base) / f.stride))

/-- Bits of a CNT_OVF or CNT_CLEAR value that name counters the block holds. -/
def CtrFamily.mask (f : CtrFamily) : DWord := BitVec.ofNat 64 (2 ^ (f.hi + 1) - 2 ^ f.lo)

/-- Domain of counter i of a family: 15 where the counter is no gauge. -/
def CtrFamily.domain (f : CtrFamily) (i : Nat) : Nat :=
  if i < f.lo ∨ f.hi < i then 15
  else match f.base with
  | 0x1600 => if i = 4 ∨ i = 13 then 0 else 15
  | 0x40200 => if i = 4 then 0 else 15
  | 0x40600 => if 2 ≤ i ∧ i ≤ 4 then 7 else 15
  | 0x60200 => if i = 6 then 2 else 15
  | 0x80200 => if i = 7 ∨ i = 8 then 1 else 15
  | 0x90200 => if i = 7 then 3 else 15
  | 0x94200 => if i = 6 then 3 else 15
  | 0x98200 => 0
  | 0x400200 => if i = 12 then 0 else 15
  | 0x1000200 => if 1 ≤ i ∧ i ≤ 5 then 4 else 15
  | 0x1000400 => if 2 ≤ i ∧ i ≤ 4 then 5 else 15
  | 0x1000800 => if i = 1 then 6 else 15
  | _ => 15

/-- A word of a counter block: a counter with its domain, CNT_OVF, or zero. -/
def State.ctrWord (s : State) (f : CtrFamily) (block off : Nat) : DWord :=
  let i := (off - block) / 8
  if off = block + 0x1F0 then sget (0 : DWord) s.ovf block
  else if i < 60 then
    let v := if f.lo ≤ i ∧ i ≤ f.hi then (sget (0 : BitVec 48) s.ctrs off).toNat else 0
    BitVec.ofNat 64 (v + f.domain i * 2 ^ 48)
  else 0

/-- CNT_CLEAR: the counters named become 0 and their overflow bits clear, in one action (R598). -/
def State.clearBlock (s : State) (f : CtrFamily) (block : Nat) (mask : DWord) : State :=
  let m := mask &&& f.mask
  { s with ctrs := clearCounters s.ctrs block m 60,
           ovf := sput (0 : DWord) s.ovf block (sget (0 : DWord) s.ovf block &&& ~~~m) }

/-- CNT_OVF is W1C. -/
def State.clearOvf (s : State) (block : Nat) (v : DWord) : State :=
  { s with ovf := sput (0 : DWord) s.ovf block (sget (0 : DWord) s.ovf block &&& ~~~v) }

/-- A write into a counter block. -/
def State.ctrWrite (s : State) (f : CtrFamily) (block off : Nat) (v : DWord) : State :=
  if off = block + 0x1F8 then s.clearBlock f block v else if off = block + 0x1F0 then s.clearOvf block v else s

/-- COUNTER_CLEAR: a CNT_CLEAR write to the block at an offset. -/
def execCounterClear (block : BitVec 32) (mask : DWord) (s : State) : Answer :=
  s.issue fun s =>
    match ctrBlockAt block.toNat with
    | some (f, b) => if b = block.toNat then s.clearBlock f b mask else s
    | none => s

/-! ### Gauges (R597, R616) -/

/-- GAUGE_CLEAR written. -/
def State.gaugeClear (s : State) (v : DWord) : State :=
  let s1 := if v.getLsbD 0 then s.wr REF_GAUGE_VALUE 0 0 else s
  if v.getLsbD 1 then ({ s1 with codecPhase := 0 } : State).wr CODEC_GAUGE_VALUE 0 0 else s1

def execGaugeClear (v : DWord) (s : State) : Answer := s.issue fun s => s.gaugeClear v

/-- A gauge of the always-on kind at all-ones. -/
def State.saturate (s : State) (f : Fld) : State :=
  if s.rd f = ctrMax then s else (s.wr f 0 ctrMax).raise evCounterOvf

/-- GAUGE_SATURATED: the gauge at an offset reaches all-ones, stops there, sets its CNT_OVF bit and raises COUNTER_OVF. -/
def execGaugeSaturated (offset : BitVec 32) (s : State) : Answer :=
  s.issue fun s =>
    let off := offset.toNat
    if off = regOff .refGauge 0 then s.saturate REF_GAUGE_VALUE
    else if off = regOff .codecGauge 0 then s.saturate CODEC_GAUGE_VALUE
    else match ctrBlockAt off with
    | none => s
    | some (f, b) =>
        let i := (off - b) / 8
        if off % 8 ≠ 0 ∨ f.domain i = 15 ∨ 60 ≤ i then s
        else s.bump ⟨f.base, f.stride, i⟩ ((b - f.base) / f.stride) ctrMax

/-! ### SYSTEM areas (R381, R569) -/

/-- The Cistern range that a register makes SYSTEM: its base and length. -/
def State.sysRegion (s : State) (k : RegKind) : Nat × Nat :=
  match k with
  | .wcCtl => (s.rd WC_CTL_BASE_1G * 2 ^ 30, s.rd WC_CTL_SIZE_1G * 2 ^ 30)
  | .rotPool => (s.rd ROT_POOL_BASE_64K * 2 ^ 16, s.rd ROT_POOL_SIZE_1M * 2 ^ 20)
  | .pwrSave => (s.rd PWR_SAVE_BASE_1G * 2 ^ 30, if s.flag PWR_SAVE_ENABLE then 2 ^ 34 else 0)
  | .cisProt => (s.parBase, if s.flag CIS_PROT_ENABLE then s.parSize else 0)
  | _ => (0, 0)

/-- Granules that a range touches. -/
def granulesOf (r : Nat × Nat) : List Nat :=
  if r.2 = 0 then []
  else
    let g := r.1 / 2 ^ 26
    (List.range ((r.1 + r.2 - 1) / 2 ^ 26 - g + 1)).map fun i => g + i

/-- What stands against a write that would leave the module as `t`: it would cover the system area, or a granule of a tenant other
than 0, which it names. -/
inductive SysVerdict where
  | take
  | systemArea
  | held (t : TenantNo)
  deriving DecidableEq, Repr

def State.sysVerdict (s t : State) (k : RegKind) : SysVerdict :=
  let gs := granulesOf (t.sysRegion k)
  if gs.any (fun g => g ≤ 1) then .systemArea
  else match gs.find? fun g => s.granTenant g ≠ 0 with
    | some g => .held (s.granTenant g)
    | none => .take

/-- The write taken: granules that become SYSTEM, or are ordinary again, take another key (R568). -/
def State.sysTake (s t : State) (k : RegKind) : State :=
  t.rekey (((granulesOf (s.sysRegion k) ++ granulesOf (t.sysRegion k)).filter fun g => s.granSystem g ≠ t.granSystem g).dedup)

/-- A write that may change the SYSTEM granules: `t` is the state it would leave. -/
def State.sysWrite (s t : State) (k : RegKind) : State :=
  match s.sysVerdict t k with
  | .take => s.sysTake t k
  | .systemArea => if k = .cisProt then s.wr CIS_PROT_REFUSED 0 1 else s
  | .held h => s.wmLog 5 h.toNat (regOff k 0 / 8) 0

/-! ### Write rules -/

/-- The fields set under their access codes. -/
def State.plainWrite (s : State) (k : RegKind) (n : Nat) (v : DWord) : State := s.setReg k n (writeFields k n (s.reg k n) v)

/-- SFU_TBL_CTL (R265): UNITS first, then what LOAD and SWITCH ask for. -/
def State.writeTblCtl (s : State) (v : DWord) : State :=
  let s1 := s.plainWrite .sfuTblCtl 0 v
  let s2 := if v.getLsbD 11 then s1.sfuLoad else s1
  if v.getLsbD 12 then s2.sfuSwitch else s2

/-- PG_POOL_CTL (R322): its sizes are kept while ENABLE is 1, a pool that holds a set stays enabled, and a pool newly enabled has every
page free. -/
def State.writePoolCtl (s : State) (n : Nat) (v : DWord) : State :=
  let want := v.getLsbD 56
  if s.flag PG_POOL_CTL_ENABLE n then
    (if !want && (s.pool n).sets.isEmpty then s.wr PG_POOL_CTL_ENABLE n 0 else s)
  else
    let s1 := s.plainWrite .pgPoolCtl n v
    if !want then s1
    else
      let s2 := s1.wrs n [(PG_STATUS_FREE, s1.rd PG_POOL_CTL_PAGES n), (PG_STATUS_EMERG_FREE, s1.rd PG_POOL_CTL_EMERG n)]
      s2.setPool n { walks := (s2.pool n).walks, nextWalk := (s2.pool n).nextWalk }

/-- PG_RECLAIM (R322): TARGET is set, then START acts. -/
def State.writeReclaim (s : State) (n : Nat) (v : DWord) : State :=
  let s1 := s.plainWrite .pgReclaim n v
  if v.getLsbD 24 then s1.reclaim n else s1

/-- PG_DIRECT (R322, R572). -/
def State.writeDirect (s : State) (src : AccessSource) (v : DWord) : State :=
  if src = .operator ∧ s.foreignStream (getBits v 0 17) then s.violation 0 (regOff .pgDirect 0)
  else
    let s1 := (s.wr PG_DIRECT_STREAM 0 (getBits v 0 17)).wr PG_DIRECT_QUIESCED 0 0
    if v.getLsbD 17 then s1.quiesce else s1.quiesceRelease

/-- Every enabled partition that covers a reach is held under HOLD. -/
def State.reachHeld (s : State) (r : Nat) : Bool :=
  (List.range 64).all fun p => !s.partEnabled p || s.flag ROT_PART_HOLD p || !((s.partPlots p).any fun l => reachOf l = r)

/-- The cache of a reach at the top of its columns meets its video area, or the area leaves the column (R322, R377). -/
def State.areasClash (s : State) (r : Nat) : Bool :=
  let off := s.rd VID_AREA_OFF_1M r * 2 ^ 20
  let size := s.rd VID_AREA_SIZE_1M r * 2 ^ 20
  decide (s.columnBytes < off + size) || decide (0 < size ∧ 0 < s.cacheBytes r ∧ s.columnBytes < off + size + s.cacheBytes r)

/-- PG_CACHE: a change empties the reach's page-tile cache. -/
def State.writeCache (s : State) (r : Nat) (v : DWord) : State :=
  let t := s.plainWrite .pgCache r v
  if !s.reachHeld r ∨ t.areasClash r ∨ 64 < getBits v 0 7 then s
  else { t with sfu := { t.sfu with pgCache := sput [] t.sfu.pgCache r [] } }

/-- VID_AREA. -/
def State.writeVidArea (s : State) (r : Nat) (v : DWord) : State :=
  let t := s.plainWrite .vidArea r v
  if !s.reachHeld r ∨ t.areasClash r then s else t

/-- WC_CTL (R410): the region changes only while the cache holds no unit and lies within 480 GiB; FLUSH acts at any time, but not with
a write that is ignored whole (R381, R569). -/
def State.writeWcCtl (s : State) (v : DWord) : State :=
  let flush := fun (x : State) => if v.getLsbD 18 then x.wcFlush else x
  if s.aqf.wc.any (fun x => x.2.st ≠ .free) ∨ 480 < getBits v 0 9 + getBits v 9 9 then flush s
  else
    let t := s.plainWrite .wcCtl 0 v
    if s.sysVerdict t .wcCtl = .take then flush (s.sysTake t .wcCtl) else s.sysWrite t .wcCtl

/-- ROT_POOL (R504). -/
def State.writeRotPool (s : State) (v : DWord) : State :=
  if s.ctx.images.isEmpty then s.sysWrite (s.plainWrite .rotPool 0 v) .rotPool else s

/-- CIS_PROT (R420, R436): the areas change only while ENABLE is 0, and only to areas that keep R420. -/
def State.writeCisProt (s : State) (v : DWord) : State :=
  let s0 := if v.getLsbD 57 then s.wr CIS_PROT_REFUSED 0 0 else s
  let want := v.getLsbD 55
  if s0.flag CIS_PROT_ENABLE then
    (if want then s0
     else
       let t := s0.wrs 0 [(CIS_PROT_ENABLE, 0), (CIS_PROT_READY, 0)]
       s0.sysTake t .cisProt)
  else
    let t := s0.wrs 0 [(CIS_PROT_BASE_1M, getBits v 0 19), (CIS_PROT_SIZE_7M, getBits v 19 17), (CIS_PROT_PAR_BASE_1M, getBits v 36 19)]
    if !protOk t.protBase t.protSize t.parBase t.parSize (t.rd WC_CTL_BASE_1G * 2 ^ 30) (t.rd WC_CTL_SIZE_1G * 2 ^ 30) then
      s0.wr CIS_PROT_REFUSED 0 1
    else if want then s0.sysWrite t.protEnable .cisProt else t

/-- CIS_MAP: CHANNEL names the channel to retire until one is retired; then RETIRE acts. -/
def State.writeCisMap (s : State) (v : DWord) : State :=
  let s1 := if v.getLsbD 42 then s.wr CIS_MAP_REFUSED 0 0 else s
  let s2 := if s1.flag CIS_MAP_RETIRED then s1 else s1.wr CIS_MAP_CHANNEL 0 (getBits v 32 6)
  if v.getLsbD 39 then s2.retireWrite (getBits v 32 6) else s2

/-- CIS_CH_CTL: an edge of REPAIR enters or leaves it; RETRAIN starts a full retraining. -/
def State.writeChCtl (s : State) (ch : Nat) (v : DWord) : State :=
  let was := s.flag CIS_CH_CTL_REPAIR ch
  let s1 := if v.getLsbD 3 && !was then s.repairEnter ch else if !v.getLsbD 3 && was then s.repairLeave ch else s
  if v.getLsbD 2 then s1.fullRetrain ch else s1

/-- Sum of RESERVE over all partitions but one. -/
def State.otherReserves (s : State) (p : Nat) : Nat :=
  ((List.range 64).filter (· ≠ p)).foldl (fun (m q : Nat) => m + s.rd CIS_PART_BW_RESERVE q) 0

/-- CIS_PART_BW (R424). -/
def State.writePartBw (s : State) (p : Nat) (v : DWord) : State :=
  if 224 < s.otherReserves p + getBits v 8 8 then s.wr CIS_PART_BW_REFUSED p 1 else s.plainWrite .cisPartBw p v

/-- CF_BOARD (R438, R475): BOARD_SIZE 3 is written as 2. -/
def State.writeBoard (s : State) (v : DWord) : State :=
  if s.boot.portUp then s
  else
    let s1 := s.plainWrite .cfBoard 0 v
    if s1.rd CF_BOARD_BOARD_SIZE = 3 then s1.wr CF_BOARD_BOARD_SIZE 0 2 else s1

/-- CF_PORT: edges of ENABLE, then RETRAIN. -/
def State.writePort (s : State) (p : Nat) (v : DWord) : State :=
  let was := s.flag CF_PORT_ENABLE p
  let s1 := if v.getLsbD 0 && !was then s.portEnable p else if !v.getLsbD 0 && was then s.portDisable p else s
  if v.getLsbD 1 then s1.retrainLink (.cf (BitVec.ofNat 3 p)) else s1

/-- An edge of EN_A or EN_B. -/
def State.halfEdge (s : State) (h : Nat) (want : Bool) : State :=
  let was := s.flag (if h = 0 then DEX_CTL_EN_A else DEX_CTL_EN_B)
  if want && !was then s.halfEnable h else if !want && was then s.halfDisable h else s

/-- DEX_CTL (R530): SPLIT only while both halves are DISABLED, then the enables, then the retrainings. -/
def State.writeDexCtl (s : State) (v : DWord) : State :=
  let s1 := if s.rd DEX_HALF_STATE 0 = lkDisabled ∧ s.rd DEX_HALF_STATE 1 = lkDisabled then s.wr DEX_CTL_SPLIT 0 (getBits v 0 1) else s
  let s2 := (s1.halfEdge 0 (v.getLsbD 1)).halfEdge 1 (v.getLsbD 2)
  let s3 := if v.getLsbD 3 then s2.retrainLink (.dex 0) else s2
  if v.getLsbD 4 then s3.retrainLink (.dex 1) else s3

/-- ROT_CTL: REFUSED is cleared, then COMMIT acts. -/
def State.writeRotCtl (s : State) (v : DWord) : State :=
  let s1 := s.plainWrite .rotCtl 0 v
  if v.getLsbD 0 then s1.rotCommit else s1

/-- PWR_CTL: edges of METER. -/
def State.writePwrCtl (s : State) (v : DWord) : State :=
  let s1 := s.setReg .pwrCtl 0 (writeFields .pwrCtl 0 (s.reg .pwrCtl 0) (setBits v 0 1 (s.rd PWR_CTL_METER)))
  if v.getLsbD 0 then s1.meterEnter else if s1.flag PWR_CTL_METER then s1.meterExit else s1

/-- PLOT_TEST: START starts a test; it is ignored while one runs (R591). -/
def State.writePlotTest (s : State) (v : DWord) : State :=
  let s1 := s.wr PLOT_TEST_PPLOT 0 (getBits v 0 11)
  if v.getLsbD 11 then s1.plotTestStart else s1

/-- AQ_CH_CTL: a retired die stays retired (R619). -/
def State.writeAqCh (s : State) (ch : Nat) (v : DWord) : State :=
  s.wr AQ_CH_CTL_DIE_RETIRED ch (s.rd AQ_CH_CTL_DIE_RETIRED ch ||| getBits v 2 8)

/-! ### Rings (R507, R530) -/

/-- SQ_LOG or CQ_LOG outside its range. -/
def ringLogsBad (v : DWord) : Bool :=
  let sq := getBits v 0 5
  let cq := getBits v 5 5
  decide (sq < 6 ∨ 16 < sq ∨ cq < sq ∨ 16 < cq)

/-- RING_CTL as a write leaves it: TENANT and MAINT are the Watermaster's, and a ring that is enabled or ACTIVE keeps its sizes and
its half. -/
def ringCtlNext (old v : DWord) (busy : Bool) : DWord :=
  let v1 := setBits (setBits v 10 6 (getBits old 10 6)) 16 1 (getBits old 16 1)
  let v2 := if busy then setBits (setBits v1 0 10 (getBits old 0 10)) 17 1 (getBits old 17 1) else v1
  setBits v2 56 8 0

/-- ENABLE newly set: the four indices are 0, PHASE is 1, and 1 is the next sequence number. -/
def State.ringRestart (s : State) (q : Nat) : State :=
  (s.wrs q [(RING_STATUS_SQ_HEAD, 0), (RING_STATUS_SQ_TAIL, 0), (RING_STATUS_CQ_TAIL, 0)]).setRing (BitVec.ofNat 12 q) {}

/-- RING_CTL written. -/
def State.ringCtlWrite (s : State) (q : Nat) (v : DWord) : State :=
  let on := s.flag RING_CTL_ENABLE q
  let active := s.flag RING_STATUS_ACTIVE q
  let starts := v.getLsbD 18 && !on
  if starts && active then s
  else if starts && ringLogsBad v then s.wr RING_STATUS_BAD q 1
  else
    let s1 := s.setReg .ringCtl q (ringCtlNext (s.reg .ringCtl q) v (on || active))
    if starts then s1.ringRestart q else s1

/-- RING_ENABLE: a write of RING_CTL with ENABLE 1. -/
def execRingEnable (ring : RingNo) (v : DWord) (s : State) : Answer :=
  s.issue fun s => s.ringCtlWrite ring.toNat (v ||| BitVec.ofNat 64 (2 ^ 18))

/-- RING_DISABLE: a write of RING_CTL with ENABLE 0. -/
def execRingDisable (ring : RingNo) (v : DWord) (s : State) : Answer :=
  s.issue fun s => s.ringCtlWrite ring.toNat (v &&& ~~~(BitVec.ofNat 64 (2 ^ 18)))

/-- RING_SQ_BASE and RING_CQ_BASE. -/
def State.writeRingBase (s : State) (k : RegKind) (q : Nat) (v : DWord) : State :=
  if s.flag RING_CTL_ENABLE q || s.flag RING_STATUS_ACTIVE q then s else s.plainWrite k q v

/-! ### A write of any register -/

/-- The registers that memory chapters give a rule of their own. -/
def State.memoryRegWrite (s : State) (src : AccessSource) (k : RegKind) (n : Nat) (v : DWord) : State :=
  match k with
  | .sfuTblCtl => s.writeTblCtl v
  | .pgPoolCtl => s.writePoolCtl n v
  | .pgReclaim => s.writeReclaim n v
  | .pgDirect => s.writeDirect src v
  | .pgCache => s.writeCache n v
  | .vidArea => s.writeVidArea n v
  | .wcCtl => s.writeWcCtl v
  | .cisProt => s.writeCisProt v
  | .cisMap => s.writeCisMap v
  | .cisChCtl => s.writeChCtl n v
  | .cisPartBw => s.writePartBw n v
  | .aqChCtl => s.writeAqCh n v
  | .rotPool => s.writeRotPool v
  | _ => s.plainWrite k n v

/-- A register written under its rule; a register without one takes its fields under their access codes, and a seep is armed or
disarmed. -/
def State.regWrite (s : State) (src : AccessSource) (k : RegKind) (n : Nat) (v : DWord) : State :=
  if isSeep k then (s.plainWrite k n v).armSeep (regOff k n) (s.reg k n) (writeFields k n (s.reg k n) v)
  else match k with
  | .cfBoard => s.writeBoard v
  | .cfPort => s.writePort n v
  | .dexCtl => s.writeDexCtl v
  | .rotCtl => s.writeRotCtl v
  | .ringCtl => s.ringCtlWrite n v
  | .ringSqBase => s.writeRingBase .ringSqBase n v
  | .ringCqBase => s.writeRingBase .ringCqBase n v
  | .pwrCtl => s.writePwrCtl v
  | .pwrStage => (s.plainWrite .pwrStage n v).restage
  | .pwrPhase => (s.plainWrite .pwrPhase n v).restage
  | .pwrSave => s.sysWrite (s.plainWrite .pwrSave 0 v) .pwrSave
  | .plotTest => s.writePlotTest v
  | .evtCtl => (s.plainWrite .evtCtl 0 v).announceEvents
  | .gaugeClear => s.gaugeClear v
  | _ => s.memoryRegWrite src k n v

/-- A write at an offset of the privileged view. A fence register's write waits for its record (R585). -/
def State.privWrite (s : State) (src : AccessSource) (off : Nat) (v : DWord) : State :=
  if diagBase ≤ off then s.diagPut src off v
  else match regAt off with
  | some (k, n) =>
      if leveeKind k then
        (if src = .firmware then s.leveeWrite off v
         else { s with lev := { s.lev with heldWrites := s.lev.heldWrites ++ [(off, v)] } })
      else s.regWrite src k n v
  | none =>
      match ctrBlockAt off with
      | some (f, b) => s.ctrWrite f b off v
      | none => s

/-- A write at an offset of a tenant's window (R571, R621). -/
def State.windowWrite (s : State) (t : TenantNo) (off : Nat) (v : DWord) : State :=
  let q := if off < 0x1000000 then off / 0x1000 else (off - 0x1000000) / 8
  let ring : RingNo := BitVec.ofNat 12 q
  if off < 0x1000000 then (if off % 0x1000 = 0 then s.deliverDoorbell t ring v else s.violation t off)
  else if off < 0x1008000 then
    (if s.ringTenant ring = t then s.plainWrite .ringStatus q v else s.violation t off)
  else if off = 0x1008000 ∨ off = 0x1008008 then s
  else s.violation t off

/-- A register write takes effect. -/
def State.accessWrite (s : State) (src : AccessSource) (off : Nat) (v : DWord) : State :=
  match src with
  | .tenant t => s.windowWrite t off v
  | _ => s.privWrite src off v

/-- Registers of the always-on island (R606). -/
def islandReg (k : RegKind) : Bool :=
  k = .rstCause || k = .pwrCtl || k = .pwrPhase || k = .pwrStage || k = .pwrIdle || k = .pwrSave || k = .pwrLog || k = .pwrSeep
  || k = .thermCtl || k = .thermStatus || k = .hgCtl || k = .hgStatus || k = .wmStatus || k = .wmCtl || k = .wmLog || k = .wmSeep
  || k = .wmTenant || k = .refGauge

/-- An access completes now: firmware's, any access in service, and in a wake depth one to the island, but for PWR_SAVE in Drained
(R546, R606). Before step 15 of start-up it waits (R639). -/
def State.accessNow (s : State) (src : AccessSource) (off : Nat) : Bool :=
  src = .firmware || s.serving
  || (s.boot.ready && src = .operator && match regAt off with
      | some (k, _) => islandReg k && !(k = .pwrSave && s.pwr.depth = .drained)
      | none => false)

/-- REGISTER_WRITE (R10, R604, R605). An access that waits is delivered with the wake buffer. -/
def execRegisterWrite (src : AccessSource) (offset : BitVec 32) (v : DWord) (s : State) : Answer :=
  s.issue fun s =>
    if offset.toNat % 8 ≠ 0 then s.bump ctrBadAccess
    else if s.accessNow src offset.toNat then s.accessWrite src offset.toNat v
    else { s with boot := { s.boot with held := s.boot.held ++ [.registerWrite src offset v] } }

/-! ### Reads, and what has waited -/

/-- The word at an offset of the privileged view as the operator or I3C reads it (R572, R613, R614). -/
def State.readReg (s : State) (off : Nat) : DWord × State :=
  if diagBase ≤ off then s.diagGet off
  else match regAt off with
  | some (k, n) => (s.reg k n, s)
  | none =>
      match ctrBlockAt off with
      | some (f, b) => (s.ctrWord f b off, s)
      | none => (0, s)

/-- The reply to an I3C command. -/
def State.reply (s : State) (bs : List Byte) : State := s.emit (.i3cReply bs)

/-- REG_READ served: 8 bytes of the register (R633). -/
def State.readReply (s : State) (off : Nat) : State :=
  let r := s.readReg off
  r.2.reply (leBytes 8 r.1.toNat)

/-- Packets and accesses that have waited take effect in their order (R545). -/
def State.deliverAll (s : State) : List HeldPacket → State
  | [] => s
  | .doorbell t q v :: is => (s.deliverDoorbell t q v).deliverAll is
  | .registerWrite src off v :: is => (s.accessWrite src off.toNat v).deliverAll is
  | .regRead bytes :: is => (s.readReply (leNat bytes)).deliverAll is

def State.deliverHeld (s : State) : State :=
  ({ s with boot := { s.boot with held := [] } } : State).deliverAll s.boot.held

end Sys2Proof.Machine
end

