-- ==== Sys2Proof/Machine/Clock.lean ====
section
/-! DEFINITION. One 100 MHz reference period (R43, R44, R616): what the block does by itself when no command waits. The periods
pass only there (log entry 3). -/

namespace Sys2Proof.Machine

/-- A gauge counts one period and stops at all-ones, where it raises COUNTER_OVF (R597). -/
def State.countGauge (s : State) (f : Fld) : State :=
  let v := s.rd f + 1
  if ctrMax ≤ v then s.saturate f else s.wr f 0 v

/-- CODEC_GAUGE counts 27 MHz periods, 27 for every 100 reference periods, and with it the pipes' wait gauges (R43, R378). -/
def State.countCodec (s : State) : State :=
  let t := s.codecPhase + 27
  if 100 ≤ t then
    let s1 := ({ s with codecPhase := t - 100 } : State).countGauge CODEC_GAUGE_VALUE
    if s1.boot.stopped then s1 else s1.countVideoWaits 16
  else { s with codecPhase := t }

/-- A ring's fetch is held under R511: it has entries to fetch, and no record of it would find space. -/
def State.heldByCq (s : State) (q : RingNo) : Bool :=
  s.flag RING_CTL_ENABLE q.toNat && !(s.ring q).halted && s.fetchReady q ≠ 0 && s.cqSize q - 1 ≤ s.unconsumed q

/-- CQ_WAIT of the rings whose fetch is held (R531). -/
def State.countHeld (s : State) : List Nat → State
  | [] => s
  | q :: qs => (if s.heldByCq (BitVec.ofNat 12 q) then s.bump ctrCqWait q else s).countHeld qs

/-- Collectives that waited behind a channel go on once it serves (R450). -/
def State.retryIdle (s : State) : State := if s.running.isEmpty then s else s.retryColls s.running

/-- One reference period. -/
def State.tick (s : State) : State :=
  let s1 := (s.countGauge REF_GAUGE_VALUE).countCodec
  if s1.boot.stopped then s1 else (((s1.countHeld (s1.host.rings.map (·.1))).settleQuiesce).retireStep).retryIdle

end Sys2Proof.Machine
end

