-- ==== Sys2Proof/Machine/Revoke.lean ====
section
/-! DEFINITION. The revocation of a tenant (R566, R567). -/

namespace Sys2Proof.Machine

/-! ### Steps 2 to 4: the tenant's work -/

/-- Operations of a tenant's rings that have not started are complete (step 2). -/
def State.refuseWaiting (s : State) (t : TenantNo) : State :=
  let ops := s.host.ops.map fun (o : Op) =>
    if s.ringTenant o.ring = t && o.stage = OpStage.waiting then { o with stage := OpStage.done, status := stDenied, detail := dtRevoked } else o
  { s with host := { s.host with ops := ops } }

/-- Tenant of a partition's slot. -/
def State.slotTenant (s : State) (p : Nat) : Option TenantNo := (s.part p).slot.chunk.map fun c => (s.stream c.stream.toNat).tenant

/-- Slots of the tenant's streams abort (R497); a slot that still loads has not started its chunk. -/
def State.abortTenant (s : State) (t : TenantNo) : List Nat → State
  | [] => s
  | p :: ps =>
      (if s.slotTenant p = some t then
        (if (s.part p).slot.phase = .loading then s.abortSlot p stStreamClosed else s.abortSlot p stDenied)
      else s).abortTenant t ps

/-- Stream operations of a tenant that still run end with their stream; a STREAM_CLOSE completes with its final swap-out. -/
def State.endStreamOps (s : State) (t : TenantNo) : List Op → State
  | [] => s
  | o :: os =>
      (match s.op? o.ring o.seq with
       | some p => if s.ringTenant p.ring = t && p.isStream && p.opcode ≠ 6 && p.stage = OpStage.running then s.failOp p stStreamClosed else s
       | none => s).endStreamOps t os

/-- Open streams of the tenant close: their owners are released and their final swap-outs may follow. -/
def State.closeStreams (s : State) (t : TenantNo) : List Nat → State
  | [] => s
  | k :: ks =>
      let r := s.stream k
      (if r.st = .open_ && r.tenant = t then
        (let all := trunkOwner :: r.liveFutures
         let s1 := s.closeChunks k (s.part r.part.toNat).chunks
         let s2 := s1.mapOwners k freedOwner all
         (s2.setStream k { s2.stream k with st := .closing }).clearEdits k all none)
      else s).closeStreams t ks

/-- Uncommitted collectives of a group end, and its peers are told (R474). -/
def State.endGroupColls (s : State) (g : Nat) : List Coll → State
  | [] => s
  | c :: cs =>
      (match s.coll? g c.cseq with
       | some d => (s.cfSendAll g d.cseq pkAbort (leBytes 2 stCollAbortPeer.toNat)).endColl g d stCollAbortPeer 0
       | none => s).endGroupColls g cs

def State.endGroups (s : State) (t : TenantNo) : List Nat → State
  | [] => s
  | g :: gs =>
      (if (s.group g).isOpen && (s.group g).tenant = t then s.endGroupColls g (s.group g).colls else s).endGroups t gs

/-- Steps 1 to 4: STATE is REVOKING, what has not started is refused, slots abort, streams and collectives end. -/
def State.revokeBegin (s : State) (t : TenantNo) (erase : Bool) : State :=
  let s1 := (s.wr WM_TENANT_STATE t.toNat 2).setTenant t.toNat { s.tenant t.toNat with erase := erase }
  let s2 := (s1.refuseWaiting t).abortTenant t (List.range 64)
  let s3 := s2.endStreamOps t s2.host.ops
  (s3.closeStreams t (s3.ctx.streams.map (·.1))).endGroups t (s3.cf.groups.map (·.1))

/-- Everything of the tenant has ended: its streams are FREE, its sessions hold no queued work, and every record of its rings is
written (steps 3 to 5). -/
def State.revokeDrained (s : State) (t : TenantNo) : Bool :=
  s.host.ops.all (fun o => s.ringTenant o.ring ≠ t)
  && s.ctx.streams.all (fun x => x.2.st = .free || x.2.tenant ≠ t)
  && s.vid.dec.all (fun x => !x.2.isOpen || x.2.tenant ≠ t || (x.2.queue.isEmpty && x.2.active.isNone))
  && s.vid.enc.all (fun x => !x.2.isOpen || x.2.tenant ≠ t || (x.2.jobs.isEmpty && x.2.units.isEmpty && x.2.active.isNone))
  && s.vid.hw.all (fun x => x.2.all fun j => match j.what with
      | .output k _ _ _ => (s.encSession k).tenant ≠ t
      | .input q _ _ _ => s.ringTenant q ≠ t
      | .run q _ => s.ringTenant q ≠ t)

/-! ### Steps 5 to 7 -/

/-- The first n rings that the tenant holds are disabled and tenant 0's again; a ring keeps its MAINT. -/
def State.returnRings (s : State) (t : TenantNo) : Nat → State
  | 0 => s
  | n + 1 =>
      let s1 := s.returnRings t n
      if s1.rd RING_CTL_TENANT n = t.toNat then
        (let tab := sput (0 : BitVec 7) s1.wm.ringTab n (BitVec.ofNat 7 (64 * s1.rd RING_CTL_MAINT n))
         ({ s1 with wm := { s1.wm with ringTab := tab } } : State).wrs n [(RING_CTL_ENABLE, 0), (RING_CTL_TENANT, 0)])
      else s1

/-- The tenant's partitions go back with HOLD set. -/
def State.returnParts (s : State) (t : TenantNo) : List Nat → State
  | [] => s
  | p :: ps =>
      (if s.partTenant p = t then
        (let own := sput (0 : TenantNo) s.wm.partOwner p 0
         ({ s with wm := { s.wm with partOwner := own } } : State).wr ROT_PART_HOLD p 1)
      else s).returnParts t ps

/-- Sessions and groups of the tenant closed, its models, policies and images gone. -/
def State.dropObjects (s : State) (t : TenantNo) : State :=
  let dec := s.vid.dec.filter fun (x : Nat × DecSession) => x.2.tenant ≠ t
  let enc := s.vid.enc.filter fun (x : Nat × EncSession) => x.2.tenant ≠ t
  let models := s.ctx.models.filter fun (x : Nat × ModelRec) => x.2.tenant ≠ t
  let policies := s.ctx.policies.filter fun (x : Nat × PolicyRec) => x.2.tenant ≠ t
  let images := s.ctx.images.filter fun (x : Nat × ImageRec) => x.2.tenant ≠ t
  let lists := s.cf.lists.filter fun (x : Nat × List Byte) => images.any fun y => y.1 = x.1
  let groups := s.cf.groups.filter fun (x : Nat × Group) => x.2.tenant ≠ t
  { s with vid := { s.vid with dec := dec, enc := enc }, ctx := { s.ctx with models := models, policies := policies, images := images },
           cf := { s.cf with groups := groups, lists := lists } }

/-- Weight-cache units of the owner's extents freed; under ERASE the extents retire as under AQ_FREE. -/
def State.dropExtents (s : State) (fp : BitVec 384) (erase : Bool) : List Nat → State
  | [] => s
  | e :: es =>
      let x := s.extent e
      let s1 := if x.occupies && x.owner = fp then
          (let s0 := s.wcInvalidate x.base x.units
           if !erase then s0
           else if x.st = .valid then s0.commitExtent e { x with st := .retiring }
           else if x.st = .loading then s0.commitExtent e { loads := x.loads }
           else s0)
        else s
      s1.dropExtents fp erase es

/-- Granules of the tenant. -/
def State.tenantGranules (s : State) (t : TenantNo) : List Nat := (s.wm.granOwner.filter fun x => x.2 = t).map (·.1)

/-- Steps 5 to 7: EPOCH advances, and every resource is tenant 0's. -/
def State.revokeFinish (s : State) (t : TenantNo) : State :=
  let x := s.tenant t.toNat
  let gs := s.tenantGranules t
  let s1 := ((s.dropObjects t).dropExtents x.owner x.erase (List.range 256)).returnRings t 4096
  let s2 := s1.returnParts t (List.range 64)
  let gran := s2.wm.granOwner.filter fun (y : Nat × TenantNo) => y.2 ≠ t
  let s3 : State := { s2 with wm := { s2.wm with granOwner := gran } }
  let s4 := (s3.rekey gs).setTenant t.toNat {}
  s4.wrs t.toNat [(WM_TENANT_EPOCH, (s4.rd WM_TENANT_EPOCH t.toNat + 1) % 2 ^ 32), (WM_TENANT_STATE, 0)]

/-- A revocation that runs goes on: it finishes when everything of the tenant has ended. -/
def State.revokeStep (s : State) (o : Op) (t : TenantNo) : State :=
  if s.revokeDrained t then (s.revokeFinish t).finish o stOk else s

/-- WM_TENANT_REVOKE: it starts in its turn (R556), and its row comes again until it has finished. -/
def execWmTenantRevoke (q : RingNo) (n : Seq) (s : State) : Answer :=
  s.issue fun s =>
    match s.op? q n with
    | none => s
    | some o =>
      let t := o.fld 16 0 6
      let tn : TenantNo := BitVec.ofNat 6 t
      if o.opcode ≠ 0x53 then s
      else if o.stage = .running then s.revokeStep o tn
      else if !s.canStart o || !((handedBefore o s.host.ops).all fun p => !p.isWm || p.stage = .done) then s
      else if t = 0 ∨ s.tenantState t ≠ 1 then s.wmRefuse o dtTenantState
      else
        let s1 := (s.begin_ o).revokeBegin tn (o.fld 17 0 1 = 1)
        match s1.op? q n with
        | some p => s1.revokeStep p tn
        | none => s1

end Sys2Proof.Machine
end

