-- ==== Sys2Proof/Machine/Management.lean ====
section
/-! DEFINITION. Module management (R545, R553 to R555, R589, R593 to R596, R625 to R640): start-up and its reset kinds, wake-up, the
reset pin, the I3C commands, and the conditions that stop the module. -/

namespace Sys2Proof.Machine

/-- Kinds of reset (R593). -/
def rkPowerOn : Nat := 0
def rkPin : Nat := 1
def rkMgmt : Nat := 2
def rkWatchdog : Nat := 3
def rkDryWake : Nat := 4

/-- Kinds after which Cistern and the device records are gone. -/
def coldKind (k : Nat) : Bool := k = rkPowerOn || k = rkDryWake

/-- A step of the start-up table, unless an earlier one has stopped the module. -/
def State.andThen (s : State) (f : State → State) : State := if s.boot.stopped then s else f s

/-! ### What a reset loses (R12, R593, R606) -/

/-- Registers that firmware restores from its system record (R593): tier, Cistern, page, image-pool, rotation and power registers. -/
def restoredReg (k : RegKind) : Bool :=
  k = .wcCtl || k = .cisProt || k = .cisMap || k = .cisChCtl || k = .cisPartBw || k = .pgPoolBase || k = .pgMetaBase
  || k = .pgPoolCtl || k = .pgStatus || k = .pgReclaim || k = .pgCache || k = .vidArea || k = .rotPool || k = .rotPart
  || k = .rotEntry || k = .rotCtl || k = .cadenceCtl || k = .pwrCtl || k = .pwrStage || k = .pwrPhase || k = .pwrIdle
  || k = .pwrSave || k = .hgCtl || k = .thermCtl

/-- Registers that the fuses' records, the tenant table and the metadata area hold over every reset: the tenants, retired dies, and the
retirement record. -/
def recordedReg (k : RegKind) : Bool := k = .wmTenant || k = .aqChCtl || k = .cisMap

/-- Step of R637 at which a register takes its record again (R12). -/
def recordStep (k : RegKind) : Nat :=
  if k = .wmTenant then 8 else if k = .aqChCtl then 9 else if k = .cisMap || k = .cisChCtl || k = .cisProt then 11 else 12

/-- A reset of a kind leaves a register's word in the records. -/
def inRecords (kind : Nat) (k : RegKind) : Bool := recordedReg k || (!coldKind kind && restoredReg k)

/-- A register keeps its word over a reset of a kind: fuses, RST_CAUSE but for POWER_ON, and the island's in Dry. -/
def keepsReg (kind : Nat) (k : RegKind) : Bool :=
  k = .wmStatus || (k = .rstCause && kind ≠ rkPowerOn) || (kind = rkDryWake && islandReg k && k ≠ .refGauge)

/-- The register words of kinds that satisfy a test. -/
def regWords (f : RegKind → Bool) (regs : Sparse DWord) : Sparse DWord :=
  regs.filter fun (x : Nat × DWord) => match regAt x.1 with | some (k, _) => f k | none => false

/-- The records of a reset of a kind: what the registers hold, or, where a start-up had not restored them yet, what the records held. -/
def State.recordsOf (s : State) (kind : Nat) : Sparse DWord :=
  regWords (fun k => inRecords kind k && decide (recordStep k ≤ s.boot.restored)) s.regs
  ++ regWords (fun k => inRecords kind k && decide (s.boot.restored < recordStep k)) s.boot.record

/-- Fields of kept registers that a reset clears all the same: what runs, what has failed, and the weak state of a channel. -/
def State.clearRunning (s : State) (cold : Bool) : State :=
  let s1 := wrAll AQ_CH_CTL_RATE 0 32 ((s.wrs 0 [(CIS_MAP_PHASE, 0), (CIS_MAP_REFUSED, 0), (WM_STATUS_EXHAUSTED, 0), (WM_STATUS_FALLBACK, 0),
    (WM_STATUS_BANK, 0),
    (ROT_CTL_PENDING, 0), (PWR_CTL_METER_ACTIVE, 0), (PWR_CTL_PACE_LOST, 0)]))
  let s2 := wrAll CIS_PART_BW_REFUSED 0 64 (wrAll ROT_PART_IDLE 1 64 (wrAll PG_STATUS_LOW 0 64 (wrAll PG_STATUS_STARVED 0 64 s1)))
  let s3 := wrAll CIS_CH_CTL_QUEUE 0 64 (wrAll CIS_CH_CTL_FAILS 0 64 s2)
  if cold then s3.wr CIS_MAP_EPOCH 0 0 else s3

/-- Memories after a reset: the Reservoir is lost in every kind, Cistern where power went. -/
def Mem.afterReset (m : Mem) (cold : Bool) : Mem :=
  if cold then { aqua := m.aqua }
  else { m with resv := [], resvBad := [], fog := [] }

/-- What the Watermaster keeps. -/
def WmS.afterReset (w : WmS) (cold : Bool) : WmS :=
  { w with sfuActive := none, rseq := 0, sfuCopies := if cold then [] else w.sfuCopies }

/-- What a reset of a kind loses. Everything the block has sent, and the queue of commands, are outside it. -/
def State.lose (s : State) (kind : Nat) : State :=
  let cold := coldKind kind
  let kept := s.clearRunning cold
  let s1 : State :=
    { regs := regWords (keepsReg kind) kept.regs, mem := s.mem.afterReset cold, wm := s.wm.afterReset cold,
      ctx := if cold then {} else s.ctx, pools := if cold then [] else s.pools, edits := if cold then [] else s.edits,
      host := if cold then {} else { ops := s.host.ops },
      rot := { bank := if cold then [] else s.rot.bank, parts := if cold then [] else s.rot.parts, pinLevel := s.rot.pinLevel },
      cf := { lists := if cold then [] else s.cf.lists },
      aqf := { extents := s.aqf.extents, gen := s.aqf.gen },
      lev := { list := s.lev.list, repairRows := s.lev.repairRows, badTiers := s.lev.badTiers },
      boot := { s.boot with ready := false, stopped := false, kind := BitVec.ofNat 3 kind, selfRefresh := false, portUp := false,
                            faultN := true, config := if kind = rkPowerOn then none else s.boot.config,
                            i3cAddr := if kind = rkPowerOn then none else s.boot.i3cAddr,
                            i3cErr := if kind = rkPowerOn then false else s.boot.i3cErr,
                            held := if kind = rkPowerOn then [] else s.boot.held,
                            plls := if cold then {} else s.boot.plls, record := kept.recordsOf kind, restored := 7 },
      out := s.out, freeIdx := s.freeIdx, pending := s.pending }
  s1

/-- RST_CAUSE of a reset (R596). -/
def State.noteReset (s : State) (kind : Nat) (stopped : Bool) : State :=
  if kind = rkPowerOn then s
  else s.wrs 0 [(RST_CAUSE_KIND, kind), (RST_CAUSE_STOPPED, if stopped then 1 else 0),
                (RST_CAUSE_BOOTS, (s.rd RST_CAUSE_BOOTS + 1) % 2 ^ 32)]

def State.atStep (s : State) (n : Nat) : State := { s with boot := { s.boot with step := n } }

/-- Registers written from the records of a step. AQ_CH_CTL takes its retired dies; its rate is that of the training. -/
def applyRecord (n : Nat) : List (Nat × DWord) → State → State
  | [], s => s
  | (off, v) :: rest, s =>
      applyRecord n rest (match regAt off with
        | some (k, i) =>
            if recordStep k = n then s.setReg k i (if k = .aqChCtl then setBits v 0 2 (getBits (s.reg k i) 0 2) else v) else s
        | none => s)

/-- The registers take the records of a step (R12, R637). -/
def State.restoreAt (s : State) (n : Nat) : State :=
  let s1 := applyRecord n s.boot.record s
  { s1 with boot := { s1.boot with restored := n } }

/-! ### Steps 3 to 7 -/

/-- Steps 3 to 6: conditions; the island's PLL, to which the island switches from its oscillator before any other is enabled (R38); the
rails; the PLLs of the links. -/
def State.bringUp (s : State) (e : BootEnv) : State :=
  if !e.inputOk then (s.atStep 3).stopAny causeSupply
  else if !e.coolantOk then (s.atStep 3).stopAny causeThermal
  else if !e.refOk then (s.atStep 4).stopAny causeReference
  else match e.badRail with
  | some r => (({ s with boot := { s.boot with plls := { island := true } } } : State).atStep 5).stop causeSupply r.val
  | none => { s with boot := { s.boot with railsUp := true, step := 7, plls := { island := true, links := true } } }

/-- PLLs that a step locks. -/
def State.lockPlls (s : State) (f : Plls → Plls) : State := { s with boot := { s.boot with plls := f s.boot.plls } }

/-- Step 7: every ONFI channel trained. -/
def trainOnfi : List (BitVec 2) → Nat → State → State
  | [], _, s => s
  | r :: rs, ch, s => trainOnfi rs (ch + 1) (if ch < 32 then s.wr AQ_CH_CTL_RATE ch r.toNat else s)

/-! ### Step 8: identity (R553 to R555) -/

/-- The bank preferred at this start-up: a WM_COMPONENT may have changed the record (R557). -/
def WmS.settleBank (w : WmS) : WmS :=
  match w.nextBank with
  | some b => { w with preferB := b, nextBank := none }
  | none => w

/-- The lowest unburned LEDGER bits, four of them at most. -/
def State.unburned (s : State) : List Nat :=
  let frontier := s.rd WM_STATUS_LEAVES_USED + s.wm.stuck.length
  ((s.wm.stuck ++ (List.range 4).map fun i => frontier + i).filter fun i => i < 2 ^ 20).take 4

/-- A leaf burned and read back, after `fails` bits that did not read back. -/
def State.burnLeaf (s : State) (fails : Nat) : State :=
  let frontier := s.rd WM_STATUS_LEAVES_USED + s.wm.stuck.length
  match s.unburned[fails]? with
  | none => ({ s with wm := { s.wm with leaf := 0xFFFFFFFF } } : State).wr WM_STATUS_EXHAUSTED 0 1
  | some q =>
      let stuck := if q < frontier then s.wm.stuck.filter (fun i => i ≠ q) else s.wm.stuck ++ (List.range (q - frontier)).map fun i => frontier + i
      ({ s with wm := { s.wm with leaf := BitVec.ofNat 32 q, stuck := stuck } } : State).wr WM_STATUS_LEAVES_USED 0 (s.rd WM_STATUS_LEAVES_USED + 1)

/-- The bank that boots: the preferred one, or the other with FALLBACK; it becomes the preferred one. -/
def State.pickBank (s : State) (e : BootEnv) : Option State :=
  let w := s.wm.settleBank
  let pref := w.preferB
  let ok := fun (b : Bool) => e.bankOk.getD (if b then 1 else 0) true
  let boot := fun (x : State) (b : Bool) => ({ x with wm := { w with preferB := b } } : State).wr WM_STATUS_BANK 0 (if b then 1 else 0)
  if ok pref then some (boot s pref)
  else
    let s1 := s.wmLog 2 0 0 0
    if ok !pref then some ((boot s1 !pref).wr WM_STATUS_FALLBACK 0 1) else none

/-- TENANT and MAINT of every ring, written again from the tenant table. -/
def writeRingTab : List (Nat × BitVec 7) → State → State
  | [], s => s
  | (q, v) :: rest, s => writeRingTab rest (s.wrs q [(RING_CTL_TENANT, v.toNat % 64), (RING_CTL_MAINT, v.toNat / 64)])

/-- Revocations that a reset has cut are finished (R567); nothing of the tenant runs. -/
def State.finishRevocations (s : State) : List Nat → State
  | [] => s
  | t :: ts =>
      (if s.tenantState t = 2 then
        (let streams := s.ctx.streams.filter fun (x : Nat × StreamRec) => x.2.tenant.toNat ≠ t
         ({ s with ctx := { s.ctx with streams := streams } } : State).revokeFinish (BitVec.ofNat 6 t))
      else s).finishRevocations ts

def State.identify (s : State) (e : BootEnv) : State :=
  let s := s.atStep 8
  if !e.wmSelfTestOk ∨ 3 ≤ e.burnFails then s.stopAny causeWatermaster
  else match s.pickBank e with
  | none => (s.wmLog 2 0 0 0).stopAny causeWatermaster
  | some s1 =>
      let s2 := (({ s1 with wm := { s1.wm with nonce := e.nonce } } : State).burnLeaf e.burnFails).restoreAt 8
      writeRingTab s2.wm.ringTab (s2.finishRevocations (List.range 64))

/-! ### Steps 9 and 10 -/

/-- A register of the levee list holds its recorded value again; TEST, CHANGING and what follows the slots do not. -/
def leveeRestored (k : RegKind) (v : DWord) : DWord :=
  match k with
  | .leveePlot => setBits v 2 1 0
  | .mapEntry => setBits v 11 1 0
  | .sfuPlotCtl => setBits v 26 38 0
  | _ => v

def applyLevee : List (Nat × DWord) → State → State
  | [], s => s
  | (off, v) :: rest, s =>
      applyLevee rest (match regAt off with | some (k, n) => if leveeKind k then s.setReg k n (leveeRestored k v) else s | none => s)

/-- RES_TIER_CTL: a lost tier is logical tier 7, which is unmapped (R588). -/
def State.mapTiers (s : State) : State :=
  match s.lev.badTiers with
  | [] => s
  | t :: _ =>
      let m := s.rd RES_TIER_CTL_MAP
      let l := ((List.range 8).find? fun i => m / 2 ^ (3 * i) % 8 = t).getD 7
      let top := m / 2 ^ 21 % 8
      let v := setBits (setBits (BitVec.ofNat 64 m) (3 * l) 3 top) 21 3 t
      s.wrs 0 [(RES_TIER_CTL_MAP, v.toNat), (RES_TIER_CTL_SEVEN, 1)]

/-- LOADING and RETIRING extents are EMPTY (R395). -/
def settleExtents (m : Sparse Extent) : Sparse Extent :=
  m.map fun (x : Nat × Extent) => (x.1, if x.2.st = .loading ∨ x.2.st = .retiring then { loads := x.2.loads } else x.2)

/-- Partitions whose plots the fuses leave on fenced plots raise SPARES_OUT (R586). -/
def State.applyRecords (s : State) : State :=
  let s1 := (applyLevee s.lev.list ((s.atStep 9).restoreAt 9)).mapTiers
  let aq : AqS := { s1.aqf with extents := settleExtents s1.aqf.extents }
  let s2 : State := { s1 with aqf := aq }
  if (List.range 1024).any fun l => s2.flag LEVEE_PLOT_FLUME (s2.physOf l) || s2.flag LEVEE_PLOT_PLOT (s2.physOf l) then
    s2.raise evSparesOut
  else s2

/-- Plots that fail the self-test are fenced and relocated. -/
def fenceAll : List PPlot → State → State
  | [], s => s
  | p :: ps, s => fenceAll ps (if p.toNat < 1056 then s.fencePlot p.toNat true else s)

/-- Step 10: a newly lost tier is recorded and stops the module; a second one prevents every later start-up. -/
def State.selfTest (s : State) (e : BootEnv) : State :=
  let s := s.atStep 10
  let lost := (e.badTiers.map (·.toNat)).find? fun t => !s.lev.badTiers.contains t
  match lost with
  | some t => ({ s with lev := { s.lev with badTiers := s.lev.badTiers ++ [t] } } : State).stop causeTier t
  | none =>
      match s.lev.badTiers with
      | _ :: t :: _ => s.stop causeTier t
      | _ => fenceAll e.badPlots s

/-! ### Step 11: Cistern -/

/-- Channels that cannot be used: RETIRED, in REPAIR, or failing their training. -/
def State.unusable (s : State) (bad : List (BitVec 6)) : List Nat :=
  (List.range 64).filter fun c => s.chanState c = chRetired || s.chanState c = chRepair || bad.any fun b => b.toNat = c

def State.channelStates (s : State) (cold : Bool) (bad : List (BitVec 6)) : Nat → State
  | 0 => s
  | c + 1 =>
      let s1 := s.channelStates cold bad c
      if s1.flag CIS_MAP_RETIRED ∧ s1.rd CIS_MAP_CHANNEL = c then s1.wrs c [(CIS_CH_CTL_STATE, chRetired), (CIS_CH_CTL_REPAIR, 0)]
      else if (bad.any fun b => b.toNat = c) || (!cold && s1.chanState c = chRepair) then s1.enterRepair c
      else s1.wrs c [(CIS_CH_CTL_STATE, chOnline), (CIS_CH_CTL_REPAIR, 0)]

def State.cisternUp (s : State) (cold : Bool) (e : BootEnv) : State :=
  let s0 := ((s.atStep 11).lockPlls fun p => { p with lpddr := true }).restoreAt 11
  let s1 := s0.channelStates cold e.badChannels 64
  match s1.unusable e.badChannels with
  | _ :: c :: _ => s1.stop causeCistern c
  | _ => s1.finishRetirement

/-! ### Step 12: device records (R287, R309, R593, R594) -/

/-- Edits that a reset rolls forward: those of operations whose one write has been made, and the reverts of the others. -/
def State.rollEdits (s : State) : List Edit → State
  | [] => s
  | e :: es =>
      (if e.kind = .share ∨ e.kind = .clear ∨ e.kind = .revert then s.applyEdit e else { s with edits := s.edits.erase e }).rollEdits es

/-- Owners of the operations that the reset cut return to the versions of their anchors. -/
def State.revertOwners (s : State) (k : Nat) : List (Nat × Nat) → State
  | [] => s
  | (o, b) :: rest => (s.setOwner k o { s.owner k o with block := b }).revertOwners k rest

def State.revertOps (s : State) : List Op → State
  | [] => s
  | o :: os => (if o.stage = .running then s.revertOwners o.streamNo o.anchors else s).revertOps os

/-- An owner after a reset: an OPEN slot is TORN, and no step of it runs. -/
def OwnerRec.afterReset (x : OwnerRec) : OwnerRec :=
  let torn := fun (v : Seal) => if v = .open_ then Seal.torn else v
  { x with sealA := torn x.sealA, sealB := torn x.sealB, current := none, openSet := none }

def StreamRec.afterReset (r : StreamRec) : StreamRec :=
  if r.st = .closing then { everOpen := r.everOpen, home := r.home, tenant := r.tenant }
  else { r with trunk := r.trunk.afterReset, futs := r.futs.map fun x => (x.1, x.2.afterReset) }

/-- Blocks that the root words of a partition's owners hold. -/
def State.rootBlocks (s : State) (p : Nat) : List Nat :=
  (s.ctx.streams.flatMap fun x =>
    if x.2.st ≠ .free ∧ x.2.part.toNat = p then x.2.trunk.block :: x.2.futs.map (fun y => y.2.block) else []).filter (· ≠ 0)

/-- A pool rebuilt from its owners' root words (R309). -/
def Pool.rebuild (p : Pool) (roots : List Nat) : Pool :=
  let blocks := (p.blocks.filter fun (x : Nat × Block) => roots.contains x.1).map fun x =>
    (x.1, { x.2 with refs := BitVec.ofNat 32 (roots.count x.1) })
  let uses := fun (n : Nat) => (blocks.filter fun x => x.2.sets.contains n).length
  let sets := (p.sets.filter fun (x : Nat × FrameSet) => x.2.st ≠ .open_ && decide (0 < uses x.1)).map fun x =>
    let y : FrameSet := { x.2 with refs := BitVec.ofNat 32 (uses x.1) }
    (x.1, if y.st = .refilling then { y with st := .dropped, pages := [] } else y)
  { p with blocks := blocks, sets := sets, grace := [], walks := [] }

/-- The pools of a list of partitions rebuilt, with their free pages: the emergency pool first. -/
def State.rebuildPools (s : State) : List Nat → State
  | [] => s
  | p :: ps =>
      let q := (s.pool p).rebuild (s.rootBlocks p)
      let e := s.rd PG_POOL_CTL_EMERG p
      let free := s.rd PG_POOL_CTL_PAGES p + e - q.usedPages.length
      ((s.setPool p q).wrs p [(PG_STATUS_EMERG_FREE, min e free), (PG_STATUS_FREE, free - min e free)]).rebuildPools ps

/-- PG_CACHE and VID_AREA keep their reset values where the column no longer holds them (R385). -/
def State.fitAreas (s : State) : List Nat → State
  | [] => s
  | r :: rs =>
      (if s.areasClash r then s.wrs r [(VID_AREA_OFF_1M, 0), (VID_AREA_SIZE_1M, 0)] else s).fitAreas rs

/-- Fields of ROT_PART that the last commit gave a partition. -/
def Part.committed (x : Part) : DWord := x.toTake.getD x.act

/-- Shadow registers take the last committed table. -/
def State.shadowTable (s : State) : State :=
  let parts := (List.range 64).foldl (fun (x : State) (p : Nat) =>
    let w := (x.part p).committed
    x.setReg .rotPart p (setBits (setBits w 41 2 (getBits (x.reg .rotPart p) 41 2)) 43 1 1)) s
  (List.range 1024).foldl (fun (x : State) (e : Nat) => x.setReg .rotEntry e (x.entry e)) parts

/-- The restored table in force: admission runs on it again (R593). -/
def State.restoreTable (s : State) : State :=
  let s1 := s.shadowTable
  let parts := s1.rot.parts.map fun (x : Nat × Part) => (x.1, ({ act := x.2.committed } : Part))
  let s2 : State := { s1 with rot := { s1.rot with parts := parts } }
  match s2.admission with
  | none => s2.wrs 0 [(ROT_CTL_REFUSED, 0), (ROT_CTL_CHECK, 0), (ROT_CTL_ENTRY, 0), (ROT_CTL_PART, 0)]
  | some (v, e, p) =>
      let s3 : State := { s2 with rot := { s2.rot with bank := [] } }
      s3.wrs 0 [(ROT_CTL_REFUSED, 1), (ROT_CTL_CHECK, v), (ROT_CTL_ENTRY, e.getD 0), (ROT_CTL_PART, p.getD 0)]

/-- Device records and their registers after PIN, MGMT and WATCHDOG; the region's parity is recomputed before them (R422). -/
def State.restoreRecords (s : State) : State :=
  let s0 := (s.restoreAt 12).parityUp
  let s1 := (s0.rollEdits s0.edits).revertOps s0.host.ops
  let streams := (s1.ctx.streams.map fun (x : Nat × StreamRec) => (x.1, x.2.afterReset)).filter fun x => x.2 ≠ {}
  let policies := s1.ctx.policies.map fun (x : Nat × PolicyRec) => (x.1, { x.2 with held := none })
  let s2 : State := { s1 with host := {}, ctx := { s1.ctx with streams := streams, policies := policies } }
  let s3 := (s2.rebuildPools (s2.pools.map (·.1))).fitAreas (List.range 16)
  s3.restoreTable

/-- The image loaded at step 12: the last one switched, else the one from manufacture (R638). -/
def State.bootImage (s : State) : Component :=
  s.boot.sfuImageKept.getD { kind := 4, svn := 0, measure := Config.factoryImage }

/-- The SFU image loaded and switched. -/
def State.loadBootImage (s : State) (e : BootEnv) : State :=
  if !e.sfuImageOk then s.stopAny causeWatermaster
  else
    let c := s.bootImage
    let s0 := s.broadcastTable 0x7FF c.measure
    let s1 : State := { s0 with sfu := { s0.sfu with loadedUnits := 0x7FF, loaded := some c } }
    ((s1.wr SFU_TBL_CTL_LOAD_DONE 0 1).wr SFU_TBL_CTL_UNITS 0 0x7FF).sfuSwitch

def State.restore (s : State) (cold : Bool) (e : BootEnv) : State :=
  ((if cold then (s.atStep 12).restoreAt 12 else (s.atStep 12).restoreRecords).restage).loadBootImage e

/-! ### Steps 13 to 15 -/

def enablePorts : List Nat → State → State
  | [], s => s
  | p :: ps, s => enablePorts ps (s.portEnable p)

/-- Step 13: CF_BOARD and SPLIT from the held configuration, and the halves and ports enabled; without a configuration it waits. -/
def State.configure (s : State) : State :=
  match s.boot.config with
  | none => s.atStep 13
  | some c =>
      let n := c.toNat
      let size := if n / 8 % 4 = 3 then 2 else n / 8 % 4
      let s1 := (s.atStep 14).wrs 0 [(CF_BOARD_MODULE_ID, n % 8), (CF_BOARD_BOARD_SIZE, size), (CF_BOARD_BOARD_ID, n / 32 % 2 ^ 24),
        (DEX_CTL_SPLIT, n / 2 ^ 29 % 2)]
      enablePorts (List.range 8) ((s1.halfEnable 0).halfEnable 1)

/-- Steps 7 to 14; while RESET_N is low the start-up stands at step 7 (R639). -/
def State.fromStep7 (s : State) (e : BootEnv) : State :=
  if s.boot.resetLow then s.atStep 7
  else
    let cold := coldKind s.boot.kind.toNat
    ((((((trainOnfi e.onfiRates 0 (s.lockPlls fun p => { p with onfi := true })).identify e).andThen State.applyRecords).andThen fun x => x.selfTest e).andThen fun x =>
      x.cisternUp cold e).andThen fun x => x.restore cold e).andThen State.configure

/-- A reset of a kind, and the start-up it ends in. -/
def State.startUp (s : State) (kind : Nat) (e : BootEnv) : State :=
  let s1 := (s.lose kind).noteReset kind s.boot.stopped
  if coldKind kind then
    let s2 := ({ s1 with boot := { s1.boot with railsUp := false, step := if kind = rkPowerOn then 1 else 3 } } : State).bringUp e
    s2.andThen fun x => x.fromStep7 e
  else (s1.atStep 7).fromStep7 e

/-- A reset by pin, command or watchdog: after a stop that removed the rails it is POWER_ON (R593), and in Dry, where nothing but the
island is powered, DRY_WAKE. -/
def State.reset_ (s : State) (kind : Nat) (e : BootEnv) : State :=
  if s.boot.stopped && !s.boot.railsUp then s.startUp rkPowerOn e
  else if s.pwr.depth = .dry then s.startUp rkDryWake e
  else if !s.boot.railsUp then s
  else s.startUp kind e

/-- Step 15: every half UP. -/
def State.finishBoot (s : State) : State :=
  if s.boot.step = 14 ∧ s.rd DEX_HALF_STATE 0 = lkUp ∧ s.rd DEX_HALF_STATE 1 = lkUp ∧ !s.boot.stopped then
    ({ s with boot := { s.boot with step := 15, ready := true } } : State).deliverHeld
  else s

/-- DEX_HALF_TRAIN (R526); at the end of start-up the last half to come UP makes the module READY (R637). -/
def execDexHalfTrain (half : BitVec 1) (e : TrainEnv) (s : State) : Answer :=
  s.issue fun s => (s.dexHalfTrain half e).finishBoot

/-- POWER_ON: 54 V is applied; whatever was powered before has lost it. -/
def execPowerOn (env : BootEnv) (s : State) : Answer := .next (s.startUp rkPowerOn env)

/-- WATCHDOG_RESET: the ditch rider's firmware watchdog. -/
def execWatchdogReset (env : BootEnv) (s : State) : Answer := .next (s.reset_ rkWatchdog env)

/-! ### The reset pin (R626, R639, R640) -/

/-- RESET_N has been low long enough: units stop issuing and Cistern refreshes itself; a start-up that runs returns to step 7, and in
service or after a stop the reset will be a PIN reset. -/
def State.holdReset (s : State) : State :=
  let boot : BootS := { s.boot with resetLow := true }
  if !s.boot.railsUp then { s with boot := boot }
  else
    let fresh := s.boot.ready || s.boot.stopped
    { s with boot := { boot with ready := false, selfRefresh := true, step := 7, kind := if fresh then 1 else s.boot.kind } }

/-- RESET_PIN_ASSERT: RESET_N has been low for `us` µs. Below 1 µs it is ignored; between 1 and 10 µs it may or may not reset. -/
def execResetPinAssert (us : Nat) (s : State) : Answer :=
  .next (if us < 1 ∨ s.boot.resetLow then s
         else if 10 ≤ us then s.holdReset
         else
           let s1 : State := { s with freeIdx := s.freeIdx + 1 }
           if Config.freeNat s.freeIdx % 2 = 1 then s1.holdReset else s1)

/-- A start-up that a low RESET_N has returned to step 7: it is no new reset, so what the ditch rider holds and what waits for
step 15 stay (R635, R639). -/
def State.resumeStartUp (s : State) (e : BootEnv) : State :=
  let s1 := s.lose s.boot.kind.toNat
  ({ s1 with boot := { s1.boot with config := s.boot.config, i3cAddr := s.boot.i3cAddr, i3cErr := s.boot.i3cErr,
                                    held := s.boot.held } } : State).fromStep7 e

/-- RESET_N rises: a held start-up goes on at step 7, and a reset in service begins there. -/
def State.releaseReset (s : State) (e : BootEnv) : State :=
  let s1 : State := { s with boot := { s.boot with resetLow := false } }
  if s1.boot.railsUp && s1.boot.kind ≠ 1 && !s1.boot.stopped then s1.resumeStartUp e
  else s1.reset_ rkPin e

def execResetPinRelease (env : BootEnv) (s : State) : Answer :=
  .next (if s.boot.resetLow then s.releaseReset env else s)

/-! ### Wake-up (R542, R544, R545) -/

/-- Ports that are enabled train again. -/
def trainPorts : List Nat → State → State
  | [], s => s
  | p :: ps, s => trainPorts ps (if s.flag CF_PORT_ENABLE p then s.wr CF_PORT_STATE p lkTraining else s)

/-- A module awake again: what has waited is delivered. -/
def State.awaken (s : State) : State :=
  ({ s with pwr := { s.pwr with depth := .awake, entering := none } } : State).deliverHeld

/-- An event wakes a depth: Confluence packets only Still and Pooled, lanes only Dry. -/
def wakes (ev : WakeEvent) (d : Depth) : Bool :=
  match ev with
  | .cfPacket => d = .still || d = .pooled
  | .lanes => d = .dry
  | _ => d ≠ .awake

/-- The device leaves its depth; an entry whose save runs is abandoned. -/
def State.wakeUp (s : State) (e : BootEnv) : State :=
  match s.pwr.entering with
  | some d => (s.bump (ctrAbandoned d.num)).awaken
  | none =>
      match s.pwr.depth with
      | .awake => s
      | .still => s.awaken
      | .pooled => s.awaken
      | .drained =>
          let s1 : State := { s.restoreReservoir with boot := { s.boot with selfRefresh := false } }
          (trainPorts (List.range 8) s1).awaken
      | .dry => s.startUp rkDryWake e

def State.wakeBy (s : State) (ev : WakeEvent) (e : BootEnv) : State := if wakes ev s.pwr.depth then s.wakeUp e else s

/-- WAKE (R545). -/
def execWake (ev : WakeEvent) (env : BootEnv) (s : State) : Answer := s.issue fun s => s.wakeBy ev env

/-! ### I3C commands (R633 to R635) -/

/-- A command that is ignored sets ERR. -/
def State.i3cBad (s : State) : State := { s with boot := { s.boot with i3cErr := true } }

/-- The status of R634. -/
def State.statusBytes (s : State) : List Byte :=
  let b := s.boot
  leBytes 1 ((if b.ready then 31 else b.step % 32) + (if b.ready then 32 else 0) + (if b.stopped then 64 else 0)
             + (if b.i3cErr then 128 else 0))
  ++ leBytes 1 (if b.config.isSome then 1 else 0) ++ leBytes 8 (s.reg .rstCause 0).toNat

/-- The status read: ERR is cleared. -/
def State.replyStatus (s : State) : State :=
  let s1 := s.reply s.statusBytes
  { s1 with boot := { s1.boot with i3cErr := false } }

/-- I3C_ENTDAA: the dynamic address is taken. -/
def execI3cEntdaa (addr : BitVec 7) (s : State) : Answer :=
  .next { s with boot := { s.boot with i3cAddr := some addr } }

/-- An I3C read waits for the wake: in a wake depth all but the island's registers do (R606). -/
def State.readWaits (s : State) (off : Nat) : Bool :=
  s.boot.ready && !s.boot.stopped && s.pwr.depth ≠ .awake && !(match regAt off with | some (k, _) => islandReg k | none => false)

/-- REG_READ: 4 bytes of offset, a multiple of 8; the logs of a stopped module can be read too (R589). -/
def execRegRead (bytes : List Byte) (s : State) : Answer :=
  let off := leNat bytes
  .next (if bytes.length ≠ 4 ∨ off % 8 ≠ 0 then s.i3cBad
         else if s.readWaits off then { s with boot := { s.boot with held := s.boot.held ++ [.regRead bytes] } }
         else s.readReply off)

/-- The held configuration replaced; a start-up that waits for one goes on. -/
def State.takeConfig (s : State) (c : Word) : State :=
  let s1 : State := { s with boot := { s.boot with config := some c } }
  if s1.boot.step = 13 ∧ !s1.boot.stopped ∧ !s1.boot.resetLow then s1.configure else s1

/-- BOARD_CONFIG: ignored once a Confluence port is UP. -/
def execBoardConfig (bytes : List Byte) (s : State) : Answer :=
  .next (if bytes.length ≠ 4 ∨ s.boot.portUp = true then s.i3cBad
         else (s.takeConfig (BitVec.ofNat 32 (leNat bytes % 2 ^ 30))).replyStatus)

/-- STATUS. -/
def execStatus (bytes : List Byte) (s : State) : Answer := .next (if bytes.isEmpty then s.replyStatus else s.i3cBad)

/-- WAKE over I3C. -/
def execI3cWake (bytes : List Byte) (env : BootEnv) (s : State) : Answer :=
  .next (if bytes.isEmpty then (if s.boot.stopped || s.boot.resetLow then s else s.wakeBy .i3c env).replyStatus else s.i3cBad)

/-- RESET over I3C: the key 0x5A, 0xA5 performs a MGMT reset; while RESET_N is low the command is ignored. -/
def execI3cReset (bytes : List Byte) (env : BootEnv) (s : State) : Answer :=
  .next (if bytes ≠ [0x5A, 0xA5] ∨ s.boot.resetLow = true then s.i3cBad else s.reset_ rkMgmt env)

/-- SENSE: input voltage and current, inlet and outlet temperature in 0.125 °C, and flow. -/
def execSense (bytes : List Byte) (mv ma inlet outlet flow : Nat) (s : State) : Answer :=
  .next (if bytes.isEmpty then s.reply (leBytes 4 mv ++ leBytes 4 ma ++ leBytes 2 inlet ++ leBytes 2 outlet ++ leBytes 4 flow)
         else s.i3cBad)

/-! ### Monitored conditions (R628, R630, R631) -/

/-- SUPPLY_FAULT: an input below 38 V or above 62 V for more than 100 µs. -/
def execSupplyFault (mv us : Nat) (s : State) : Answer :=
  .next (if (mv < 38000 ∨ 62000 < mv) ∧ 100 < us then s.stopAny causeSupply else s)

/-- RAIL_FAULT: a rail outside its window for more than 10 µs. -/
def execRailFault (rail : Fin 9) (us : Nat) (s : State) : Answer :=
  .next (if 10 < us then s.stop causeSupply rail.val else s)

/-- COOLANT_FAULT: a coolant or package condition past its limit for as long as R631 lays down. -/
def execCoolantFault (_cause : CoolantCause) (s : State) : Answer := .next (s.stopAny causeThermal)

/-- REFERENCE_FAULT: the reference beyond 200 ppm, or absent for 10 µs. -/
def execReferenceFault (ppm absentUs : Nat) (s : State) : Answer :=
  .next (if 200 < ppm ∨ 10 ≤ absentUs then s.stopAny causeReference else s)

end Sys2Proof.Machine
end

