-- ==== Sys2Proof/Machine/Dispatch.lean ====
section
/-! DEFINITION. The dispatcher: one arm per command, each one direct call of its meaning. -/

namespace Sys2Proof.Machine

/-- The effect of a command on everything but the queue of waiting commands. -/
def exec (i : Instr) (s : State) : Host.Outcome State Fault Refusal :=
  match i with
  | .doorbell tenant ring v => Sys2Proof.Machine.execDoorbell tenant ring v s
  | .fetchDescriptors ring entries => Sys2Proof.Machine.execFetchDescriptors ring entries s
  | .markExpiry ring seq => Sys2Proof.Machine.execMarkExpiry ring seq s
  | .completionRecord ring seq => Sys2Proof.Machine.execCompletionRecord ring seq s
  | .eventDelayExpiry ring => Sys2Proof.Machine.execEventDelayExpiry ring s
  | .hostAccessFail kind ring seq => Sys2Proof.Machine.execHostAccessFail kind ring seq s
  | .nop ring seq => Sys2Proof.Machine.execNop ring seq s
  | .streamOpen ring seq => Sys2Proof.Machine.execStreamOpen ring seq s
  | .streamObserve ring seq => Sys2Proof.Machine.execStreamObserve ring seq s
  | .fork ring seq => Sys2Proof.Machine.execFork ring seq s
  | .rollout ring seq => Sys2Proof.Machine.execRollout ring seq s
  | .rolloutCommit ring seq => Sys2Proof.Machine.execRolloutCommit ring seq s
  | .prune ring seq => Sys2Proof.Machine.execPrune ring seq s
  | .streamClose ring seq => Sys2Proof.Machine.execStreamClose ring seq s
  | .modelRegister ring seq => Sys2Proof.Machine.execModelRegister ring seq s
  | .modelRetire ring seq => Sys2Proof.Machine.execModelRetire ring seq s
  | .policyCreate ring seq => Sys2Proof.Machine.execPolicyCreate ring seq s
  | .policyDestroy ring seq => Sys2Proof.Machine.execPolicyDestroy ring seq s
  | .imageRegister ring seq => Sys2Proof.Machine.execImageRegister ring seq s
  | .imageRelease ring seq => Sys2Proof.Machine.execImageRelease ring seq s
  | .vdecOpen ring seq => Sys2Proof.Machine.execVdecOpen ring seq s
  | .decode ring seq => Sys2Proof.Machine.execDecode ring seq s
  | .videoRelease ring seq => Sys2Proof.Machine.execVideoRelease ring seq s
  | .vencOpen ring seq ringBase ringSize => Sys2Proof.Machine.execVencOpen ring seq ringBase ringSize s
  | .vsessionClose ring seq => Sys2Proof.Machine.execVsessionClose ring seq s
  | .headworksRun ring seq => Sys2Proof.Machine.execHeadworksRun ring seq s
  | .cfGroupOpen ring seq => Sys2Proof.Machine.execCfGroupOpen ring seq s
  | .cfGroupClose ring seq => Sys2Proof.Machine.execCfGroupClose ring seq s
  | .collective ring seq => Sys2Proof.Machine.execCollective ring seq s
  | .cfListRegister ring seq => Sys2Proof.Machine.execCfListRegister ring seq s
  | .aqLoadBegin ring seq => Sys2Proof.Machine.execAqLoadBegin ring seq s
  | .aqLoadData ring seq data => Sys2Proof.Machine.execAqLoadData ring seq data s
  | .aqLoadCommit ring seq digest => Sys2Proof.Machine.execAqLoadCommit ring seq digest s
  | .aqFree ring seq => Sys2Proof.Machine.execAqFree ring seq s
  | .wmAttest ring seq => Sys2Proof.Machine.execWmAttest ring seq s
  | .wmIdentity ring seq => Sys2Proof.Machine.execWmIdentity ring seq s
  | .wmTenantCreate ring seq ownerFp sigOk => Sys2Proof.Machine.execWmTenantCreate ring seq ownerFp sigOk s
  | .wmTenantRevoke ring seq => Sys2Proof.Machine.execWmTenantRevoke ring seq s
  | .wmGrant ring seq => Sys2Proof.Machine.execWmGrant ring seq s
  | .wmRingMaint ring seq => Sys2Proof.Machine.execWmRingMaint ring seq s
  | .wmComponent ring seq sigOk => Sys2Proof.Machine.execWmComponent ring seq sigOk s
  | .wmSvnCommit ring seq => Sys2Proof.Machine.execWmSvnCommit ring seq s
  | .rdData half tag data => Sys2Proof.Machine.execRdData half tag data s
  | .wrAck half tag => Sys2Proof.Machine.execWrAck half tag s
  | .flit link f => Sys2Proof.Machine.execFlit link f s
  | .laneFail link lane => Sys2Proof.Machine.execLaneFail link lane s
  | .rekey link => Sys2Proof.Machine.execRekey link s
  | .cfPortTrain port env => Sys2Proof.Machine.execCfPortTrain port env s
  | .dexHalfTrain half env => Sys2Proof.Machine.execDexHalfTrain half env s
  | .header group rank cseq h => Sys2Proof.Machine.execHeader group rank cseq h s
  | .chunk group cseq pkt => Sys2Proof.Machine.execChunk group cseq pkt s
  | .grant group rank cseq upto => Sys2Proof.Machine.execGrant group rank cseq upto s
  | .vote group rank cseq attempt ok => Sys2Proof.Machine.execVote group rank cseq attempt ok s
  | .abort group rank cseq status => Sys2Proof.Machine.execAbort group rank cseq status s
  | .stop group rank cseq => Sys2Proof.Machine.execStop group rank cseq s
  | .snapshot group rank cseq phase chunks => Sys2Proof.Machine.execSnapshot group rank cseq phase chunks s
  | .collTimeLimit group cseq => Sys2Proof.Machine.execCollTimeLimit group cseq s
  | .snapshotTimeout group cseq => Sys2Proof.Machine.execSnapshotTimeout group cseq s
  | .peerLeave module => Sys2Proof.Machine.execPeerLeave module s
  | .listEntryStart part => Sys2Proof.Machine.execListEntryStart part s
  | .slotLoad part => Sys2Proof.Machine.execSlotLoad part s
  | .slotStart part => Sys2Proof.Machine.execSlotStart part s
  | .slotEnd part => Sys2Proof.Machine.execSlotEnd part s
  | .slotAbort part status detail => Sys2Proof.Machine.execSlotAbort part status detail s
  | .periodTrigger part => Sys2Proof.Machine.execPeriodTrigger part s
  | .cadenceEdge level => Sys2Proof.Machine.execCadenceEdge level s
  | .cadenceQualify sinceUs => Sys2Proof.Machine.execCadenceQualify sinceUs s
  | .slotWatchdogExpiry part => Sys2Proof.Machine.execSlotWatchdogExpiry part s
  | .swapIn part pos slot => Sys2Proof.Machine.execSwapIn part pos slot s
  | .swapOut part pos slot => Sys2Proof.Machine.execSwapOut part pos slot s
  | .slotCopy stream trunk owner slotB => Sys2Proof.Machine.execSlotCopy stream trunk owner slotB s
  | .finalSwapOut stream => Sys2Proof.Machine.execFinalSwapOut stream s
  | .chunkReady part idx => Sys2Proof.Machine.execChunkReady part idx s
  | .optimiserStep part => Sys2Proof.Machine.execOptimiserStep part s
  | .refillRun part => Sys2Proof.Machine.execRefillRun part s
  | .append stream owner => Sys2Proof.Machine.execAppend stream owner s
  | .share stream owner => Sys2Proof.Machine.execShare stream owner s
  | .clear stream owner => Sys2Proof.Machine.execClear stream owner s
  | .revert stream owner => Sys2Proof.Machine.execRevert stream owner s
  | .drop part set => Sys2Proof.Machine.execDrop part set s
  | .refill part set => Sys2Proof.Machine.execRefill part set s
  | .graceRelease part => Sys2Proof.Machine.execGraceRelease part s
  | .pgReclaimStart part => Sys2Proof.Machine.execPgReclaimStart part s
  | .pgQuiesce => Sys2Proof.Machine.execPgQuiesce s
  | .pgQuiesceRelease => Sys2Proof.Machine.execPgQuiesceRelease s
  | .pgDirectWrite src stream what => Sys2Proof.Machine.execPgDirectWrite src stream what s
  | .tokenArrival p ctr inc slotSeq => Sys2Proof.Machine.execTokenArrival p ctr inc slotSeq s
  | .nopWord p sel => Sys2Proof.Machine.execNopWord p sel s
  | .pass p w => Sys2Proof.Machine.execPass p w s
  | .passDrain p => Sys2Proof.Machine.execPassDrain p s
  | .release p sel w => Sys2Proof.Machine.execRelease p sel w s
  | .fill p w => Sys2Proof.Machine.execFill p w s
  | .fillComplete p => Sys2Proof.Machine.execFillComplete p s
  | .nest p sel w => Sys2Proof.Machine.execNest p sel w s
  | .wait p sel w => Sys2Proof.Machine.execWait p sel w s
  | .signal p sel w => Sys2Proof.Machine.execSignal p sel w s
  | .layer p sel w => Sys2Proof.Machine.execLayer p sel w s
  | .layerDecide p => Sys2Proof.Machine.execLayerDecide p s
  | .ret p sel => Sys2Proof.Machine.execRet p sel s
  | .endWord p sel => Sys2Proof.Machine.execEndWord p sel s
  | .rstatInit p w => Sys2Proof.Machine.execRstatInit p w s
  | .rstatAcc p w => Sys2Proof.Machine.execRstatAcc p w s
  | .softmax p w => Sys2Proof.Machine.execSoftmax p w s
  | .softmaxBlock p w => Sys2Proof.Machine.execSoftmaxBlock p w s
  | .expSub p w => Sys2Proof.Machine.execExpSub p w s
  | .rowscaleRecip p w => Sys2Proof.Machine.execRowscaleRecip p w s
  | .rowscaleFactor p w => Sys2Proof.Machine.execRowscaleFactor p w s
  | .bankRead p w => Sys2Proof.Machine.execBankRead p w s
  | .lnorm p w => Sys2Proof.Machine.execLnorm p w s
  | .rmsnorm p w => Sys2Proof.Machine.execRmsnorm p w s
  | .actRelu p w => Sys2Proof.Machine.execActRelu p w s
  | .actSilu p w => Sys2Proof.Machine.execActSilu p w s
  | .actGeluTanh p w => Sys2Proof.Machine.execActGeluTanh p w s
  | .actSigmoid p w => Sys2Proof.Machine.execActSigmoid p w s
  | .actTanh p w => Sys2Proof.Machine.execActTanh p w s
  | .actIdent p w => Sys2Proof.Machine.execActIdent p w s
  | .copy p w => Sys2Proof.Machine.execCopy p w s
  | .add p w => Sys2Proof.Machine.execAdd p w s
  | .sub p w => Sys2Proof.Machine.execSub p w s
  | .mul p w => Sys2Proof.Machine.execMul p w s
  | .max p w => Sys2Proof.Machine.execMax p w s
  | .min p w => Sys2Proof.Machine.execMin p w s
  | .fma p w => Sys2Proof.Machine.execFma p w s
  | .scale2 p w => Sys2Proof.Machine.execScale2 p w s
  | .addVec p w => Sys2Proof.Machine.execAddVec p w s
  | .mulVec p w => Sys2Proof.Machine.execMulVec p w s
  | .abs p w => Sys2Proof.Machine.execAbs p w s
  | .neg p w => Sys2Proof.Machine.execNeg p w s
  | .zero p w => Sys2Proof.Machine.execZero p w s
  | .specialFunction p code w => Sys2Proof.Machine.execSpecialFunction p code w s
  | .linV p w => Sys2Proof.Machine.execLinV p w s
  | .linT p w => Sys2Proof.Machine.execLinT p w s
  | .mixT p w => Sys2Proof.Machine.execMixT p w s
  | .clinV p w => Sys2Proof.Machine.execClinV p w s
  | .clinT p w => Sys2Proof.Machine.execClinT p w s
  | .cmixT p w => Sys2Proof.Machine.execCmixT p w s
  | .pairFix p w => Sys2Proof.Machine.execPairFix p w s
  | .pairSplit p w => Sys2Proof.Machine.execPairSplit p w s
  | .pairFold p w => Sys2Proof.Machine.execPairFold p w s
  | .convRes p w => Sys2Proof.Machine.execConvRes p w s
  | .convStage p w => Sys2Proof.Machine.execConvStage p w s
  | .convBank p w => Sys2Proof.Machine.execConvBank p w s
  | .load p w => Sys2Proof.Machine.execLoad p w s
  | .store p w => Sys2Proof.Machine.execStore p w s
  | .sfuGrant p => Sys2Proof.Machine.execSfuGrant p s
  | .pcTsig p r rs1 => Sys2Proof.Machine.execPcTsig p r rs1 s
  | .pcTwait p r rd rs1 rs2 => Sys2Proof.Machine.execPcTwait p r rd rs1 rs2 s
  | .pcRds p r rd rs1 imm => Sys2Proof.Machine.execPcRds p r rd rs1 imm s
  | .pcWrs p r rs1 rs2 imm => Sys2Proof.Machine.execPcWrs p r rs1 rs2 imm s
  | .pcMove p r rd rs1 => Sys2Proof.Machine.execPcMove p r rd rs1 s
  | .moveComplete p r ecc => Sys2Proof.Machine.execMoveComplete p r ecc s
  | .pcMwait p r => Sys2Proof.Machine.execPcMwait p r s
  | .pcEnd p r => Sys2Proof.Machine.execPcEnd p r s
  | .fadd p r rd rs1 rs2 => Sys2Proof.Machine.execFadd p r rd rs1 rs2 s
  | .fsub p r rd rs1 rs2 => Sys2Proof.Machine.execFsub p r rd rs1 rs2 s
  | .fmul p r rd rs1 rs2 => Sys2Proof.Machine.execFmul p r rd rs1 rs2 s
  | .fdiv p r rd rs1 rs2 => Sys2Proof.Machine.execFdiv p r rd rs1 rs2 s
  | .fmin p r rd rs1 rs2 => Sys2Proof.Machine.execFmin p r rd rs1 rs2 s
  | .fmax p r rd rs1 rs2 => Sys2Proof.Machine.execFmax p r rd rs1 rs2 s
  | .flt p r rd rs1 rs2 => Sys2Proof.Machine.execFlt p r rd rs1 rs2 s
  | .feq p r rd rs1 rs2 => Sys2Proof.Machine.execFeq p r rd rs1 rs2 s
  | .fcvtSW p r rd rs1 => Sys2Proof.Machine.execFcvtSW p r rd rs1 s
  | .fcvtWS p r rd rs1 => Sys2Proof.Machine.execFcvtWS p r rd rs1 s
  | .fbf16 p r rd rs1 => Sys2Proof.Machine.execFbf16 p r rd rs1 s
  | .runnelFma p r rd rs1 rs2 => Sys2Proof.Machine.execRunnelFma p r rd rs1 rs2 s
  | .sfu p r code rd rs1 => Sys2Proof.Machine.execSfu p r code rd rs1 s
  | .mpFadd p lane d a b => Sys2Proof.Machine.execMpFadd p lane d a b s
  | .mpFsub p lane d a b => Sys2Proof.Machine.execMpFsub p lane d a b s
  | .mpFmul p lane d a b => Sys2Proof.Machine.execMpFmul p lane d a b s
  | .mpFma p lane d a b c => Sys2Proof.Machine.execMpFma p lane d a b c s
  | .mpFmin p lane d a b => Sys2Proof.Machine.execMpFmin p lane d a b s
  | .mpFmax p lane d a b => Sys2Proof.Machine.execMpFmax p lane d a b s
  | .mpFabs p lane d a => Sys2Proof.Machine.execMpFabs p lane d a s
  | .mpCpsgn p lane d a b => Sys2Proof.Machine.execMpCpsgn p lane d a b s
  | .mpConst p lane d imm => Sys2Proof.Machine.execMpConst p lane d imm s
  | .mpLdexp p lane d a imm => Sys2Proof.Machine.execMpLdexp p lane d a imm s
  | .mpGetexp p lane d a => Sys2Proof.Machine.execMpGetexp p lane d a s
  | .mpGetmant p lane d a => Sys2Proof.Machine.execMpGetmant p lane d a s
  | .mpFloor p lane d a => Sys2Proof.Machine.execMpFloor p lane d a s
  | .mpSellt p lane d a b c => Sys2Proof.Machine.execMpSellt p lane d a b c s
  | .mpHw p lane d a imm => Sys2Proof.Machine.execMpHw p lane d a imm s
  | .mpEnd p lane => Sys2Proof.Machine.execMpEnd p lane s
  | .stage part reach => Sys2Proof.Machine.execStage part reach s
  | .stageIx part reach => Sys2Proof.Machine.execStageIx part reach s
  | .warm part reach => Sys2Proof.Machine.execWarm part reach s
  | .liftLate part reach periods => Sys2Proof.Machine.execLiftLate part reach periods s
  | .aquiferRead addr part reach outcome => Sys2Proof.Machine.execAquiferRead addr part reach outcome s
  | .wcFillDone unit => Sys2Proof.Machine.execWcFillDone unit s
  | .blockRefresh ch block => Sys2Proof.Machine.execBlockRefresh ch block s
  | .addI32 ring seq addr v ret => Sys2Proof.Machine.execAddI32 ring seq addr v ret s
  | .addI64 ring seq addr v ret => Sys2Proof.Machine.execAddI64 ring seq addr v ret s
  | .addF32 ring seq addr v ret => Sys2Proof.Machine.execAddF32 ring seq addr v ret s
  | .accX ring seq addr v => Sys2Proof.Machine.execAccX ring seq addr v s
  | .accXRead ring seq addr clear => Sys2Proof.Machine.execAccXRead ring seq addr clear s
  | .cisternRead part addr len ecc => Sys2Proof.Machine.execCisternRead part addr len ecc s
  | .cisternWrite part addr data ecc => Sys2Proof.Machine.execCisternWrite part addr data ecc s
  | .patrolScrub ch block ecc => Sys2Proof.Machine.execPatrolScrub ch block ecc s
  | .dqsOscRead ch drift => Sys2Proof.Machine.execDqsOscRead ch drift s
  | .zqCalibration pkg drift0 drift1 => Sys2Proof.Machine.execZqCalibration pkg drift0 drift1 s
  | .mr4Poll ch mr4 caseTemp => Sys2Proof.Machine.execMr4Poll ch mr4 caseTemp s
  | .correctedErrorBurst ch => Sys2Proof.Machine.execCorrectedErrorBurst ch s
  | .channelRetrain ch => Sys2Proof.Machine.execChannelRetrain ch s
  | .retrainDone ch ok => Sys2Proof.Machine.execRetrainDone ch ok s
  | .channelRepairEnter ch => Sys2Proof.Machine.execChannelRepairEnter ch s
  | .channelRepairLeave ch => Sys2Proof.Machine.execChannelRepairLeave ch s
  | .channelRetire ch => Sys2Proof.Machine.execChannelRetire ch s
  | .cisProtEnable => Sys2Proof.Machine.execCisProtEnable s
  | .rotCommit => Sys2Proof.Machine.execRotCommit s
  | .partHold part => Sys2Proof.Machine.execPartHold part s
  | .partHoldClear part => Sys2Proof.Machine.execPartHoldClear part s
  | .diagHold part on => Sys2Proof.Machine.execDiagHold part on s
  | .sfuTableLoad units => Sys2Proof.Machine.execSfuTableLoad units s
  | .sfuLoadDone => Sys2Proof.Machine.execSfuLoadDone s
  | .sfuTableSwitch => Sys2Proof.Machine.execSfuTableSwitch s
  | .wcFlush => Sys2Proof.Machine.execWcFlush s
  | .dieRetire ch die => Sys2Proof.Machine.execDieRetire ch die s
  | .meterEnter => Sys2Proof.Machine.execMeterEnter s
  | .meterActiveReached => Sys2Proof.Machine.execMeterActiveReached s
  | .meterExit => Sys2Proof.Machine.execMeterExit s
  | .headgateSample rail current => Sys2Proof.Machine.execHeadgateSample rail current s
  | .thermalSample hot sensor => Sys2Proof.Machine.execThermalSample hot sensor s
  | .idleTimerExpiry => Sys2Proof.Machine.execIdleTimerExpiry s
  | .drainedSaveDone => Sys2Proof.Machine.execDrainedSaveDone s
  | .wake ev env => Sys2Proof.Machine.execWake ev env s
  | .plotTestStart => Sys2Proof.Machine.execPlotTestStart s
  | .plotTestDone res => Sys2Proof.Machine.execPlotTestDone res s
  | .leveeWrite offset v => Sys2Proof.Machine.execLeveeWrite offset v s
  | .mapEntryWrite lplot v => Sys2Proof.Machine.execMapEntryWrite lplot v s
  | .ringEnable ring v => Sys2Proof.Machine.execRingEnable ring v s
  | .ringDisable ring v => Sys2Proof.Machine.execRingDisable ring v s
  | .dexHalfEnable half => Sys2Proof.Machine.execDexHalfEnable half s
  | .dexRetrain half => Sys2Proof.Machine.execDexRetrain half s
  | .cfPortEnable port => Sys2Proof.Machine.execCfPortEnable port s
  | .cfPortRetrain port => Sys2Proof.Machine.execCfPortRetrain port s
  | .counterClear block mask => Sys2Proof.Machine.execCounterClear block mask s
  | .gaugeClear v => Sys2Proof.Machine.execGaugeClear v s
  | .registerWrite src offset v => Sys2Proof.Machine.execRegisterWrite src offset v s
  | .diagWrite src offset v => Sys2Proof.Machine.execDiagWrite src offset v s
  | .accessViolation tenant offset write => Sys2Proof.Machine.execAccessViolation tenant offset write s
  | .badAccess write => Sys2Proof.Machine.execBadAccess write s
  | .seepFire kind inst => Sys2Proof.Machine.execSeepFire kind inst s
  | .rowToken session rows geom => Sys2Proof.Machine.execRowToken session rows geom s
  | .pipePictureGrant pipe session enc => Sys2Proof.Machine.execPipePictureGrant pipe session enc s
  | .decodeDone session info => Sys2Proof.Machine.execDecodeDone session info s
  | .encodePicture session attempts readOk => Sys2Proof.Machine.execEncodePicture session attempts readOk s
  | .encodeRingWrite session readOff => Sys2Proof.Machine.execEncodeRingWrite session readOff s
  | .inputJob ring seq => Sys2Proof.Machine.execInputJob ring seq s
  | .outputJob part session pos => Sys2Proof.Machine.execOutputJob part session pos s
  | .directCopy ring seq => Sys2Proof.Machine.execDirectCopy ring seq s
  | .unpack engine => Sys2Proof.Machine.execUnpack engine s
  | .conv engine => Sys2Proof.Machine.execConv engine s
  | .patchify engine => Sys2Proof.Machine.execPatchify engine s
  | .unpatchify engine => Sys2Proof.Machine.execUnpatchify engine s
  | .pack engine => Sys2Proof.Machine.execPack engine s
  | .i3cEntdaa addr => Sys2Proof.Machine.execI3cEntdaa addr s
  | .regRead bytes => Sys2Proof.Machine.execRegRead bytes s
  | .boardConfig bytes => Sys2Proof.Machine.execBoardConfig bytes s
  | .status bytes => Sys2Proof.Machine.execStatus bytes s
  | .i3cWake bytes env => Sys2Proof.Machine.execI3cWake bytes env s
  | .i3cReset bytes env => Sys2Proof.Machine.execI3cReset bytes env s
  | .sense bytes mv ma inlet outlet flow => Sys2Proof.Machine.execSense bytes mv ma inlet outlet flow s
  | .powerOn env => Sys2Proof.Machine.execPowerOn env s
  | .resetPinAssert us => Sys2Proof.Machine.execResetPinAssert us s
  | .resetPinRelease env => Sys2Proof.Machine.execResetPinRelease env s
  | .watchdogReset env => Sys2Proof.Machine.execWatchdogReset env s
  | .supplyFault mv us => Sys2Proof.Machine.execSupplyFault mv us s
  | .railFault rail us => Sys2Proof.Machine.execRailFault rail us s
  | .coolantFault cause => Sys2Proof.Machine.execCoolantFault cause s
  | .referenceFault ppm absentUs => Sys2Proof.Machine.execReferenceFault ppm absentUs s
  | .extentEraseDone extent => Sys2Proof.Machine.execExtentEraseDone extent s
  | .nandCaseTemperature pkg celsius => Sys2Proof.Machine.execNandCaseTemperature pkg celsius s
  | .jtagInstruction code mandatory => Sys2Proof.Machine.execJtagInstruction code mandatory s
  | .gaugeSaturated offset => Sys2Proof.Machine.execGaugeSaturated offset s

end Sys2Proof.Machine
end

