-- ==== Sys2Proof/Safety.lean ====
section
/-! DEFINITION. What the claims call safe: stores in canonical form, and a module that has stopped. -/

namespace Sys2Proof.Machine

/-- A sparse map's entries from a key on: keys strictly rising, and no entry equal to what an unlisted key reads as. -/
def sparseFrom {α : Type} [DecidableEq α] (d : α) : Nat → Sparse α → Bool
  | _, [] => true
  | lo, (k, v) :: m => lo ≤ k && v ≠ d && sparseFrom d (k + 1) m

/-- The canonical form of a sparse map. -/
def sparseWf {α : Type} [DecidableEq α] (d : α) (m : Sparse α) : Bool := sparseFrom d 0 m

/-- The canonical form of the storage tiers. -/
def Mem.wf (m : Mem) : Bool :=
  sparseWf (0 : Byte) m.cis && sparseWf (0 : BitVec 2) m.cisTag && sparseWf (0 : Byte) m.resv && sparseWf (0 : Nat) m.fog
  && sparseWf (0 : Byte) m.aqua && sparseWf (0 : Nat) m.cisFog

/-- A byte of Cistern that a write of n bytes from an address on leaves alone: it lies outside them, and is the parity of none of them in a
region whose parity is kept (R420). -/
def State.cisSpares (s : State) (a n b : Nat) : Prop :=
  (b < a ∨ a + n ≤ b) ∧
  (s.flag CIS_PROT_READY = true → ∀ i < n, inRange (a + i) s.protBase s.protSize = true → s.parityOf (a + i) ≠ b)

/-- Registers that reads and writes of Cistern may change: event bits, logs, seeps, and those of a module stop. -/
def trafficRegs : List RegKind := [.evtStatus, .cisLog, .wmLog, .sluiceLog, .cisSeep, .wmSeep, .sluiceSeep, .rstCause, .cfPort, .dexHalf]

/-- A state with all that reads and writes of Cistern may change taken from another. -/
def State.withTraffic (s t : State) : State :=
  { s with mem := t.mem, regs := t.regs, ctrs := t.ctrs, ovf := t.ovf, cis := t.cis, armed := t.armed, seen := t.seen,
           inject := t.inject, out := t.out, boot := t.boot, freeIdx := t.freeIdx }

/-- What the channels' traffic between two states has left: no register but those of logs, events, seeps and a stop has changed, what was
sent stays sent, and no module stop comes of it unless a seep of the XTS engines acts (R569). -/
structure Traffic (s t : State) : Prop where
  regs : ∀ k n, regAt (regOff k n) = some (k, n) → k ∉ trafficRegs → t.reg k n = s.reg k n
  sent : s.out <+: t.out
  calm : s.seepQuiet .wm 0 = true → t.boot = s.boot ∧ t.freeIdx = s.freeIdx

/-- The module issues work: it has not stopped (R589), and RESET_N does not hold it (R640). -/
def State.runs (s : State) : Bool := !s.boot.stopped && !s.boot.resetLow

/-- The operation that a ring and sequence number name is of an opcode and may start (R53, R512), in a running module. -/
structure OpReady (s : State) (q : RingNo) (n : Seq) (o : Op) (opc : Nat) : Prop where
  runs : s.runs = true
  found : s.op? q n = some o
  opcode : o.opcode = opc
  start : s.canStart o = true

/-- The same, or one that runs and goes on. -/
structure OpGoes (s : State) (q : RingNo) (n : Seq) (o : Op) (opc : Nat) : Prop where
  runs : s.runs = true
  found : s.op? q n = some o
  opcode : o.opcode = opc
  goes : o.stage = .running ∨ s.canStart o = true

/-- A Watermaster operation that may start in its turn: every one handed over before it has ended (R556). -/
structure WmReady (s : State) (q : RingNo) (n : Seq) (o : Op) (opc : Nat) : Prop extends OpReady s q n o opc where
  turn : ∀ p ∈ handedBefore o s.host.ops, p.isWm = true → p.stage = .done

/-- An operation that has ended: its record is to be written (R516, R518). -/
def Op.ended (o : Op) (st : BitVec 12) (dt : BitVec 16) (res : Word) : Op :=
  { o with stage := .done, status := st, detail := dt, result := res }

/-- An operation that runs. -/
def Op.started (o : Op) : Op := { o with stage := .running }

/-- A stream of a running plot stands at a word, which may issue (R160). -/
structure AtHead (s : State) (p : PPlot) (sel : StreamSel) (w : StreamWord) (it : ExpItem) : Prop where
  runs : s.runs = true
  running : (s.plot p.toNat).running = true
  issues : ((s.plot p.toNat).stream sel).open_ = true
  head : s.headItem p.toNat sel = some it
  shown : it.shown = some w

/-- A furrow word that stands at the head of its stream, finds its tiles as R215 asks, and meets no injected fault. -/
structure FurrowReady (s : State) (p : PPlot) (op fop : Nat) (w : FurrowWord) (it : ExpItem) : Prop
    extends AtHead s p .furrow (.compute (BitVec.ofNat 4 op) (BitVec.ofNat 6 fop) w) it where
  gate : s.fuGate p.toNat (s.plot p.toNat) op fop w (s.fuTile (s.plot p.toNat) w it).1 = .ok
  sound : s.seepQuiet .furrow p.toNat = true ∧ s.seepQuiet .plot p.toNat = true
  calm : (s.plot p.toNat).pendFail = none

/-- What a furrow word that has retired leaves beside its results (R166, R216): its destinations LIVE, no other tile changed but one
that it releases, its token counted. -/
structure FurrowRetired (s t : State) (p : PPlot) (w : FurrowWord) (dsts : List Nat) : Prop where
  live : ∀ d ∈ dsts, (w.rel1 = true ∧ d = w.src1.toNat) ∨ ((t.plot p.toNat).tile d).st = .live
  released : w.rel1 = true → ((t.plot p.toNat).tile w.src1.toNat).st = .free
  others : ∀ k, k ∉ dsts → ¬(w.rel1 = true ∧ k = w.src1.toNat) → (t.plot p.toNat).tile k = (s.plot p.toNat).tile k
  token : ∀ c, (t.plot p.toNat).counter c = (s.plot p.toNat).counter c + (if w.sig = true ∧ c = w.sigc.toNat ∧ c ≠ 0 then 1 else 0)
  counted : t.count ctrWords p.toNat = satAdd (s.count ctrWords p.toNat) 1
  mem : t.mem = s.mem
  host : t.host = s.host
  canal : t.canal = s.canal

/-- A runnel that may execute stands at a custom instruction word (R175, R177), and no seep acts on its plot's stores. -/
structure AtCustom (s : State) (p : PPlot) (r : BitVec 7) (w : Nat) : Prop where
  runs : s.runs = true
  live : (s.plot p.toNat).runnelLive r.toNat = true
  fetched : (s.plot p.toNat).fetch r.toNat = some (.custom w, 4)
  sound : s.seepQuiet .plot p.toNat = true

/-- Two fields apart from each other: at different offsets, or in one register without a common bit. -/
def Fld.apart (f : Fld) (n : Nat) (g : Fld) (m : Nat) : Prop :=
  regOff g.reg m ≠ regOff f.reg n ∨ (f.reg = g.reg ∧ n = m ∧ (g.lo + g.w ≤ f.lo ∨ f.lo + f.w ≤ g.lo))

/-- Commands that end a module stop (R589, R637, R639, R640). -/
def Instr.restarts : Instr → Bool
  | .powerOn .. | .resetPinAssert .. | .resetPinRelease .. | .watchdogReset .. | .i3cReset .. => true
  | _ => false

/-- What goes to the host over Dexlink (R525). -/
def Output.toHost : Output → Bool
  | .memWrite .. | .memRead .. | .event .. => true
  | .flit (.dex _) _ => true
  | _ => false

/-- A module that has stopped as `s0` did: it stays stopped, its stores and its operations stay as they stood, nothing more has gone
to the host, and no command that would end the stop is waiting (R589). -/
structure HaltedAs (s0 s : State) : Prop where
  stopped : s.boot.stopped = true
  mem : s.mem = s0.mem
  host : s.host = s0.host
  out : s.out.filter Output.toHost = s0.out.filter Output.toHost
  waiting : ∀ c ∈ s.pending, Instr.restarts c = false

end Sys2Proof.Machine
end

