-- ==== Sys2Proof/Certificates/Slice0/Obligations.lean ====
section
/-! DEFINITION. The statements for the provers. -/

open Sys2Proof Sys2Proof.Machine

/-- For every command and every state, a step of a state with that command in front of its queue is exec of the command on the state with the rest of the queue. On an empty queue, while no collective runs and no retirement is under way, a step answers a next state in which REF_GAUGE has counted one period and stops at all-ones, CODEC_GAUGE has counted 27 periods of every 100 and stops at all-ones, and stores, operations, streams, rotation, plots, links and the queue stand as they were. That the periods pass here is the model's choice (log entry 3). (00_scope.md, R44, R597, R616.) -/
def Obligations.StepTakesFrontOrIdles : Prop :=
  (
  ∀ (c : Instr) (rest : List Instr) (s : State),
    step { s with pending := c :: rest } = exec c { s with pending := rest }) ∧
  (
  ∀ s : State, s.pending = [] → s.running = [] → s.rd CIS_MAP_PHASE = 0 →
    ∃ t, step s = .next t ∧
      t.rd REF_GAUGE_VALUE = min ctrMax (s.rd REF_GAUGE_VALUE + 1) ∧
      t.rd CODEC_GAUGE_VALUE = (if 100 ≤ s.codecPhase + 27 then min ctrMax (s.rd CODEC_GAUGE_VALUE + 1) else s.rd CODEC_GAUGE_VALUE) ∧
      t.codecPhase = (if 100 ≤ s.codecPhase + 27 then s.codecPhase + 27 - 100 else s.codecPhase + 27) ∧
      t.mem = s.mem ∧ t.host = s.host ∧ t.ctx = s.ctx ∧ t.rot = s.rot ∧ t.plots = s.plots ∧ t.boot = s.boot ∧ t.lnk = s.lnk ∧
      t.cf = s.cf ∧ t.pending = [])

/-- If the module has stopped as s0 did (it is stopped, its stores and operations are those of s0, what has gone to the host is what had gone in s0, and no command that restarts it waits), then after any step that answers a next state it is still so. (R589, R593, R640.) -/
def Obligations.HaltedModuleStays : Prop :=
  ∀ s0 s s' : State, HaltedAs s0 s → step s = .next s' → HaltedAs s0 s'

/-- SUPPLY_FAULT outside 38 V to 62 V for more than 100 µs, RAIL_FAULT for more than 10 µs, COOLANT_FAULT, and REFERENCE_FAULT beyond 200 ppm or absent for 10 µs each answer a next state that is stopped and not READY, with FAULT_N low, every rail but VAON removed, the cause in RST_CAUSE, links down, and stores, operations and streams as they were; a rail fault puts its rail into DETAIL. (R589, R596, R628, R630, R631.) -/
def Obligations.MonitorsStopModule : Prop :=
  ∀ (s : State), s.boot.stopped = false →
    (∀ (c : Instr) (cause : Nat),
      ((∃ mv us, c = .supplyFault mv us ∧ (mv < 38000 ∨ 62000 < mv) ∧ 100 < us ∧ cause = 1) ∨
       (∃ rail us, c = .railFault rail us ∧ 10 < us ∧ cause = 1) ∨
       (∃ k, c = .coolantFault k ∧ cause = 2) ∨
       (∃ ppm us, c = .referenceFault ppm us ∧ (200 < ppm ∨ 10 ≤ us) ∧ cause = 3)) →
      ∃ t, exec c s = .next t ∧ t.boot.stopped = true ∧ t.boot.ready = false ∧ t.boot.faultN = false ∧ t.boot.railsUp = false ∧
        t.rd RST_CAUSE_STOP_CAUSE = cause ∧ (∀ h < 2, t.rd DEX_HALF_STATE h = 0) ∧ (∀ p < 8, t.rd CF_PORT_STATE p = 0) ∧
        t.mem = s.mem ∧ t.host = s.host ∧ t.ctx = s.ctx ∧ t.plots = s.plots ∧ t.pending = s.pending) ∧
    (∀ (rail : Fin 9) (us : Nat), 10 < us → ∃ t, exec (.railFault rail us) s = .next t ∧ t.rd RST_CAUSE_DETAIL = rail.val)

/-- After reset the queue is empty, the module stands at step 1 of start-up, is not READY and not stopped, FAULT_N is high, every context is FREE, no operation waits, the stores are in canonical form, REF_GAUGE and CODEC_GAUGE read 0, DEX_CTL reads with both halves disabled, the row-statistics reset values hold, and RING_CTL, RING_STATUS and ROT_PART read 0 for every instance. (R12, R47, R221, R616, R637.) -/
def Obligations.ResetState : Prop :=
  State.reset.pending = [] ∧ State.reset.boot.step = 1 ∧ State.reset.boot.ready = false ∧ State.reset.boot.stopped = false ∧
  State.reset.boot.faultN = true ∧ State.reset.host.ops = [] ∧ State.reset.mem.wf = true ∧
  State.reset.rd REF_GAUGE_VALUE = 0 ∧ State.reset.rd CODEC_GAUGE_VALUE = 0 ∧
  (∀ k, (State.reset.stream k).st = .free) ∧
  (∀ n, State.reset.rd RING_CTL_ENABLE n = 0 ∧ State.reset.rd RING_STATUS_SQ_HEAD n = 0 ∧ State.reset.rd RING_STATUS_CQ_TAIL n = 0) ∧
  (∀ n, State.reset.rd ROT_PART_ENABLE n = 0 ∧ State.reset.rd ROT_PART_HOLD n = 0) ∧
  (∀ p k, (sget ({} : BankRow) (State.reset.plot p).stats k).max = 0xFF800000 ∧
    (sget ({} : BankRow) (State.reset.plot p).stats k).factor = 0x3F800000)

/-- A doorbell from the ring's tenant, delivered while the fetcher serves, answers a next state. If it is not bad, SQ_TAIL takes its value where SQ_V is set, the completion head its value where CQ_V is set, and every other field, ring and part of the state stands. If it is bad, BAD of RING_STATUS is set, DB_BAD counts one and neither index moves. While the fetcher does not serve, it waits in the wake buffer. A doorbell of another tenant's ring moves nothing and counts a violation of its tenant. (R508, R509, R530, R545, R571.) -/
def Obligations.DoorbellUpdatesRing : Prop :=
  ∀ (s : State) (q : RingNo) (v : DWord), s.runs = true →
    (s.serving = true → s.doorbellBad q v = false →
      ∃ t, exec (.doorbell (s.ringTenant q) q v) s = .next t ∧
        t.rd RING_STATUS_SQ_TAIL q.toNat = (if v.getLsbD 48 then getBits v 0 16 else s.rd RING_STATUS_SQ_TAIL q.toNat) ∧
        t.ring q = (if v.getLsbD 49 then { s.ring q with cqHead := getBits v 32 16 } else s.ring q) ∧
        (∀ g m, Fld.apart RING_STATUS_SQ_TAIL q.toNat g m → t.rd g m = s.rd g m) ∧
        (∀ q', q' ≠ q → t.ring q' = s.ring q') ∧
        t = { s with regs := t.regs, host := { s.host with rings := t.host.rings } }) ∧
    (s.serving = true → s.doorbellBad q v = true →
      ∃ t, exec (.doorbell (s.ringTenant q) q v) s = .next t ∧
        t.rd RING_STATUS_BAD q.toNat = 1 ∧ t.count ctrDbBad q.toNat = satAdd (s.count ctrDbBad q.toNat) 1 ∧
        t.rd RING_STATUS_SQ_TAIL q.toNat = s.rd RING_STATUS_SQ_TAIL q.toNat ∧ t.host = s.host ∧ t.mem = s.mem) ∧
    (s.serving = true → ∀ tn, s.ringTenant q ≠ tn →
      ∃ t, exec (.doorbell tn q v) s = .next t ∧ t.count ctrViolations tn.toNat = satAdd (s.count ctrViolations tn.toNat) 1 ∧
        t.reg .ringStatus q.toNat = s.reg .ringStatus q.toNat ∧ t.host = s.host ∧ t.mem = s.mem) ∧
    (s.serving = false → ∀ tn, exec (.doorbell tn q v) s = .next { s with boot := { s.boot with held := s.boot.held ++ [.doorbell tn q v] } })

/-- With room for a descriptor on a ring that may be fetched, and no other ring that has waited too long for the arbiter (R34), FETCH_DESCRIPTORS of one entry answers a next state in which the entry at SQ_HEAD has been read over the ring's half, the ring's next number has advanced by one, SQ_HEAD has passed the entry, FETCHED counts one, and the operation stands last in the order of fetch: waiting where the check of the fetch finds nothing, else ended with the status and detail the check gives. A NOP that may start ends with status OK, no detail and result 0, and nothing else changes. (R34, R510, R511, R512, R513, R514, R518.) -/
def Obligations.FetchAndNop : Prop :=
  (
  ∀ (s : State) (q : RingNo) (d : BitVec 512), s.runs = true → s.fetchable q = true → 0 < s.fetchRoom q →
    (s.arbGrant arbFetch s.ringsOn.length q.toNat s.ringsWaiting).isSome = true →
    let o : Op := { ring := q, seq := (s.ring q).nextSeq, desc := d }
    ∃ t, exec (.fetchDescriptors q [d]) s = .next t ∧
      t.host.ops = s.host.ops ++ [match s.fetchCheck o with
        | none => o
        | some r => { o with stage := .done, refusedAtFetch := true, status := r.1, detail := r.2 }] ∧
      (t.ring q).nextSeq = (s.ring q).nextSeq + 1 ∧
      t.rd RING_STATUS_SQ_HEAD q.toNat = (s.rd RING_STATUS_SQ_HEAD q.toNat + 1) % s.sqSize q % 2 ^ 16 ∧
      t.count ctrFetched q.toNat = satAdd (s.count ctrFetched q.toNat) 1 ∧
      (∃ tag, Output.memRead (s.halfOf q) tag
        (BitVec.ofNat 64 (s.rd RING_SQ_BASE_ADDR q.toNat * 4096 + 64 * s.rd RING_STATUS_SQ_HEAD q.toNat)) 64 ∈ t.out) ∧
      t.mem = s.mem ∧ t.ctx = s.ctx ∧ t.rot = s.rot ∧ t.plots = s.plots ∧ t.pending = s.pending) ∧
  (
  ∀ (s : State) (q : RingNo) (n : Seq) (o : Op), OpReady s q n o 0x00 →
    ∃ t, exec (.nop q n) s = .next t ∧ t.op? q n = some (o.ended stOk 0 0) ∧
      (∀ q' n', ¬(q' = q ∧ n' = n) → t.op? q' n' = s.op? q' n') ∧
      t = { s with host := { s.host with ops := t.host.ops } })

/-- For an operation that has ended and whose every write has been acknowledged, COMPLETION_RECORD answers a next state in which the 32 bytes of its record have gone to the completion ring at CQ_TAIL, CQ_TAIL has advanced modulo the ring, PHASE has alternated at the wrap and only there, COMPLETED counts one, and the operation is gone while every other stands; before that it changes nothing. When a record of a ring is acknowledged, its event goes to the host in modes 1 and 3 and for a record whose EVENT bit is set; in mode 0 no other record sends one; in mode 2 the event goes once EVCOUNT records stand unsignalled, and until then they are counted. EVENT_DELAY_EXPIRY in mode 2 sends the event of the records that stand unsignalled. Sending clears the count, and the event names the ring and its VECTOR. (R42, R516, R518, R519.) -/
def Obligations.RecordsAndEvents : Prop :=
  (
  ∀ (s : State) (q : RingNo) (n : Seq) (o : Op), s.runs = true → s.op? q n = some o →
    (o.completed = false → exec (.completionRecord q n) s = .next s) ∧
    (o.completed = true →
      ∃ t tag, exec (.completionRecord q n) s = .next t ∧
        (Output.memWrite (s.halfOf q) tag (BitVec.ofNat 64 (s.rd RING_CQ_BASE_ADDR q.toNat * 4096 + 32 * s.rd RING_STATUS_CQ_TAIL q.toNat))
          (s.recordBytes o)) ∈ t.out ∧
        t.rd RING_STATUS_CQ_TAIL q.toNat = (s.rd RING_STATUS_CQ_TAIL q.toNat + 1) % s.cqSize q % 2 ^ 16 ∧
        (t.ring q).phase = (if s.rd RING_STATUS_CQ_TAIL q.toNat + 1 = s.cqSize q then !(s.ring q).phase else (s.ring q).phase) ∧
        t.count ctrCompleted q.toNat = satAdd (s.count ctrCompleted q.toNat) 1 ∧
        t.op? q n = none ∧ (∀ q' n', ¬(q' = q ∧ n' = n) → t.op? q' n' = s.op? q' n') ∧
        t.mem = s.mem ∧ t.ctx = s.ctx ∧ t.plots = s.plots)) ∧
  (
  ∀ (s : State) (q : RingNo) (e : Bool), s.runs = true →
    let mode := s.rd RING_CTL_EVMODE q.toNat
    let event := Output.event q (BitVec.ofNat 11 (s.rd RING_CTL_VECTOR q.toNat))
    (∀ h tag r, s.tagRec h tag = some r → r.use = .record e → r.ring = q →
      ∃ t, exec (.wrAck h tag) s = .next t ∧ t.host.ops = s.host.ops ∧ t.mem = s.mem ∧ t.ctx = s.ctx ∧ t.plots = s.plots ∧
        ((e = true ∨ mode = 1 ∨ mode = 3) → event ∈ t.out ∧ (t.ring q).unsignalled = 0 ∧ (t.ring q).delayRunning = false) ∧
        (e = false → mode = 0 → t.out = s.out ∧ t.ring q = s.ring q) ∧
        (e = false → mode = 2 → max 1 (s.rd RING_CTL_EVCOUNT q.toNat) ≤ (s.ring q).unsignalled + 1 →
          event ∈ t.out ∧ (t.ring q).unsignalled = 0) ∧
        (e = false → mode = 2 → (s.ring q).unsignalled + 1 < max 1 (s.rd RING_CTL_EVCOUNT q.toNat) →
          t.out = s.out ∧ (t.ring q).unsignalled = (s.ring q).unsignalled + 1 ∧ (t.ring q).delayRunning = true)) ∧
    (mode = 2 → (s.ring q).delayRunning = true → 0 < (s.ring q).unsignalled →
      ∃ t, exec (.eventDelayExpiry q) s = .next t ∧ event ∈ t.out ∧ (t.ring q).unsignalled = 0 ∧ (t.ring q).delayRunning = false ∧
        t.host.ops = s.host.ops ∧ t.mem = s.mem ∧ t.ctx = s.ctx ∧ t.plots = s.plots))

/-- In a running module: a WR_ACK whose tag belongs to a data write takes one from the writes its operation waits for; an RD_DATA whose tag belongs to a read appends its bytes to the data of its operation where no seep acts, and where one does the running operation ends with HOST_ACCESS; each retires the tag, and every other operation stands. MARK_EXPIRY leaves no mark of its operation, and every other mark stands. Nothing of the stores, streams or plots changes. HOST_ACCESS_FAIL of a fetch or a record write stops the fetch of the ring, sets its ERR, sends an event on its VECTOR, and leaves every operation as it stands. Of another access of a running operation, it ends the operation with SECURITY_DENIED, detail HOST_ACCESS and result 0. (R42, R522, R525, R529, R530, R537.) -/
def Obligations.HostAnswersAndFailures : Prop :=
  (
  ∀ (s : State), s.runs = true →
    (∀ h tag r o, s.tagRec h tag = some r → r.use = .data → s.op? r.ring r.seq = some o →
      ∃ t, exec (.wrAck h tag) s = .next t ∧ t.op? r.ring r.seq = some { o with unacked := o.unacked - 1 } ∧
        t.tagRec h tag = none ∧ (∀ q n, ¬(q = r.ring ∧ n = r.seq) → t.op? q n = s.op? q n) ∧
        t = { s with host := { s.host with ops := t.host.ops }, lnk := { s.lnk with tags := t.lnk.tags } }) ∧
    (∀ h tag data r o, s.tagRec h tag = some r → r.use = .read → s.op? r.ring r.seq = some o →
      s.seepQuiet .dex 0 = true →
      ∃ t, exec (.rdData h tag data) s = .next t ∧ t.op? r.ring r.seq = some { o with data := o.data ++ data } ∧
        t.tagRec h tag = none ∧ (∀ q n, ¬(q = r.ring ∧ n = r.seq) → t.op? q n = s.op? q n) ∧
        t = { s with host := { s.host with ops := t.host.ops }, lnk := { s.lnk with tags := t.lnk.tags } }) ∧
    (∀ h tag data r o, s.tagRec h tag = some r → r.use = .read → s.op? r.ring r.seq = some o → o.stage = .running →
      (∃ x ∈ s.inject, x.kind = .dex ∧ x.inst = 0 ∧ seepTarget .dex x.word = 3 ∧ getBits x.word 4 1 = h.toNat) →
      ∃ t o', exec (.rdData h tag data) s = .next t ∧ t.op? r.ring r.seq = some o' ∧ o'.stage = .done ∧ o'.status = stDenied ∧
        o'.detail = dtHostAccess ∧ t.tagRec h tag = none ∧ t.mem = s.mem ∧ t.plots = s.plots) ∧
    (∀ q n, ∃ t, exec (.markExpiry q n) s = .next t ∧
      (∀ m, m ∈ t.host.marks ↔ m ∈ s.host.marks ∧ ¬(m.ring = q ∧ m.seq = n)) ∧
      t.host.ops = s.host.ops ∧ t.mem = s.mem ∧ t.ctx = s.ctx ∧ t.plots = s.plots)) ∧
  (
  ∀ (s : State) (q : RingNo) (n : Seq), s.runs = true →
    (∀ k, k = .fetch ∨ k = .record →
      ∃ t, exec (.hostAccessFail k q n) s = .next t ∧ t.fetchable q = false ∧ t.rd RING_STATUS_ERR q.toNat = 1 ∧
        Output.event q (BitVec.ofNat 11 (s.rd RING_CTL_VECTOR q.toNat)) ∈ t.out ∧
        t.host.ops = s.host.ops ∧ t.mem = s.mem ∧ t.ctx = s.ctx ∧ t.plots = s.plots) ∧
    (∀ o, s.op? q n = some o → o.stage = .running →
      ∃ t o', exec (.hostAccessFail .other q n) s = .next t ∧ t.op? q n = some o' ∧ o'.stage = .done ∧
        o'.status = stDenied ∧ o'.detail = dtHostAccess ∧ o'.result = 0 ∧ t.mem = s.mem ∧ t.plots = s.plots))

/-- If a check of the fetcher no longer holds when STREAM_OPEN, STREAM_OBSERVE, FORK, ROLLOUT, PRUNE or STREAM_CLOSE may start, the operation ends with that status and detail and result 0, and nothing else in the machine changes. (R54, R55.) -/
def Obligations.RefusedOperationsChangeNothing : Prop :=
  ∀ (s : State) (q : RingNo) (n : Seq) (o : Op) (c : Instr) (opc : Nat) (r : BitVec 12 × BitVec 16),
    (c, opc) ∈ [(.streamOpen q n, 0x01), (.streamObserve q n, 0x02), (.fork q n, 0x03), (.rollout q n, 0x04), (.prune q n, 0x05),
      (.streamClose q n, 0x06)] →
    OpReady s q n o opc → s.recheck o = some r → exec c s = .next (s.setOp (o.ended r.1 r.2 0))

/-- A STREAM_OPEN that may start, that no check refuses and whose slot's channels serve ends OK. Its context is OPEN with the home ring, tenant, model, policy, partition, capacity and region of the descriptor; its trunk is LIVE at frame 0 with an empty version, committed to slot A, which is SEALED and holds zeros; every future is FREE. Every other stream, operation and part of the state stands, and Cistern changes nowhere but in the slot and its parity. A FORK that may start and that nothing refuses ends OK once the SHARE edits of its children are acknowledged: each child is LIVE at its parent's frame, committed to the slot its parent is committed to, with its parent's latest latent; one SHARE edit per child, naming the parent's version, joins the queue. Owners that are not children, other streams, the stores and the plots stand. (R42, R47, R49, R51, R56, R57, R58, R297, R420, R429.) -/
def Obligations.StreamsOpenAndFork : Prop :=
  (
  ∀ (s : State) (q : RingNo) (n : Seq) (o : Op), OpReady s q n o 0x01 → s.recheck o = none →
    ∀ m, s.model? (o.fld 24 0 64) = some m → s.cisOpen (o.fld 40 0 48 + futureTableEnd (o.fld 22 0 12 + 1)) m.stateBytes = true →
    ∃ t, exec (.streamOpen q n) s = .next t ∧ t.op? q n = some (o.ended stOk 0 0) ∧
      (let r := t.stream o.streamNo
       r.st = .open_ ∧ r.home = some q ∧ r.tenant = s.ringTenant q ∧ r.model.toNat = o.fld 24 0 64 ∧ r.policy.toNat = o.fld 32 0 64 ∧
       r.part.toNat = o.fld 20 0 6 ∧ r.cap = o.fld 22 0 12 + 1 ∧ r.region = o.fld 40 0 48 ∧ r.trunk.live = true ∧
       r.trunk.frame = 0 ∧ r.trunk.block = 0 ∧ r.trunk.committed = .ownA ∧ r.trunk.sealA = .sealed ∧ ∀ f, f ≠ trunkOwner → r.owner f = {}) ∧
      t.cisBytes (t.slotAddr o.streamNo trunkOwner false) (t.stateBytes o.streamNo) = List.replicate (t.stateBytes o.streamNo) 0 ∧
      (∀ a, s.cisSpares (t.slotAddr o.streamNo trunkOwner false) (t.stateBytes o.streamNo) a → t.cisBytes a 1 = s.cisBytes a 1) ∧
      (∀ k, k ≠ o.streamNo → t.stream k = s.stream k) ∧
      (∀ q' n', ¬(q' = q ∧ n' = n) → t.op? q' n' = s.op? q' n') ∧ Traffic s t ∧
      t = { s.withTraffic t with host := { s.host with ops := t.host.ops }, ctx := { s.ctx with streams := t.ctx.streams } }) ∧
  (
  ∀ (s : State) (q : RingNo) (n : Seq) (o : Op), OpReady s q n o 0x03 → s.recheck o = none →
    s.readsRefused o.streamNo o.readOwners = none →
    let k := o.streamNo
    let parent := o.readOwners.headD trunkOwner
    ∃ t, exec (.fork q n) s = .next t ∧
      t.op? q n = some { o.ended stOk 0 0 with unacked := o.unacked + o.children.length } ∧
      (∀ c ∈ o.children, (t.owner k c).live = true ∧ (t.owner k c).frame = (s.owner k parent).frame ∧
        (t.owner k c).committed = .shared ((s.owner k parent).committed.place parent).1 ((s.owner k parent).committed.place parent).2 ∧
        (t.owner k c).latent = (s.owner k parent).latent ∧ (t.owner k c).block = (s.owner k c).block) ∧
      t.edits = s.edits ++ o.children.map (fun c =>
        { kind := .share, part := (s.stream k).part.toNat, stream := k, owner := c, arg := (s.owner k parent).block, cause := some (q, n) }) ∧
      (∀ c, c ∉ o.children → t.owner k c = s.owner k c) ∧ (∀ k', k' ≠ k → t.stream k' = s.stream k') ∧
      t = { s with host := { s.host with ops := t.host.ops }, ctx := { s.ctx with streams := t.ctx.streams }, edits := t.edits })

/-- A PRUNE that may start, that nothing refuses and whose copies for the futures that go on sharing are complete ends OK, after its CLEAR edits, with every LIVE future it names FREE and its slots EMPTY, and those futures committed to slots A of their own, which are SEALED; a copy that fails twice ends it with MEM_UNCORRECTABLE, detail 1. A STREAM_CLOSE that may start and that nothing refuses runs on: its stream is CLOSING, its trunk and every LIVE future are FREE, and their CLEAR edits join the queue. Other streams and the plots stand. (R47, R51, R60, R62.) -/
def Obligations.PruneAndCloseRelease : Prop :=
  ∀ (s : State) (q : RingNo) (n : Seq) (o : Op) (k : Nat), o.streamNo = k → s.recheck o = none →
    (OpReady s q n o 0x05 → (s.stream k).lost = false →
      let r := s.copyReleased (s.partSluice (s.stream k).part.toNat) k (s.prunes o) ((s.prunes o).flatMap fun f => [(f, false), (f, true)])
      (r.status ≠ stOk → ∃ t o', exec (.prune q n) s = .next t ∧ t.op? q n = some o' ∧ o'.stage = .done ∧
        o'.status = stMemUncorrectable ∧ o'.detail = 1 ∧ t.edits = s.edits ∧ t.pools = s.pools) ∧
      (r.status = stOk → r.done = true →
      ∃ t o', exec (.prune q n) s = .next t ∧ t.op? q n = some o' ∧ o'.stage = .done ∧ o'.status = stOk ∧ o'.result = 0 ∧
        (∀ f ∈ s.prunes o, (t.owner k f).live = false ∧ (t.owner k f).sealA = .empty ∧ (t.owner k f).sealB = .empty) ∧
        (∀ f ∈ s.prunes o, ∀ b, ∀ g ∈ (s.stream k).sharers f b, g ∉ s.prunes o →
          (t.owner k g).committed = .ownA ∧ (t.owner k g).sealA = .sealed) ∧
        t.edits = s.edits ++ (s.prunes o).map (fun f =>
          { kind := .clear, part := (s.stream k).part.toNat, stream := k, owner := f, arg := 0, cause := some (q, n) }) ∧
        (∀ k', k' ≠ k → t.stream k' = s.stream k') ∧ t.plots = s.plots ∧ t.rot = s.rot ∧ t.pools = s.pools)) ∧
    (OpReady s q n o 0x06 →
      ∃ t o', exec (.streamClose q n) s = .next t ∧ t.op? q n = some o' ∧ o'.stage = .running ∧ (t.stream k).st = .closing ∧
        (∀ f, (t.owner k f).live = false) ∧
        t.edits = s.edits ++ (trunkOwner :: (s.stream k).liveFutures).map (fun f =>
          { kind := .clear, part := (s.stream k).part.toNat, stream := k, owner := f, arg := 0, cause := some (q, n) }) ∧
        (∀ k', k' ≠ k → t.stream k' = s.stream k') ∧ t.plots = s.plots ∧ t.rot = s.rot ∧ t.pools = s.pools ∧ t.mem = s.mem)

/-- A STREAM_OBSERVE or ROLLOUT that may start and that nothing refuses runs: it names its owners, holds an anchor on the version each of them has, and its refills and first chunks stand at the end of its partition's queue. A ROLLOUT has moreover read its action input block, once; a TRAIN one whose update number does not follow the applied one ends SECURITY_DENIED. No owner, slot or plot changes. (R53, R68, R74, R310, R484, R485.) -/
def Obligations.StepsStart : Prop :=
  ∀ (s : State) (q : RingNo) (n : Seq) (o : Op) (k p : Nat), o.streamNo = k → (s.stream k).part.toNat = p →
    s.recheck o = none → s.readsRefused k o.readOwners = none → s.stepsRefused o = none → s.startHandle o = none →
    let started : Op := { o with stage := .running, owners := o.readOwners, pool := p,
                                 anchors := o.readOwners.map fun x => (x, (s.owner k x).block),
                                 runs := o.readOwners.map fun x => { owner := x } }
    (OpReady s q n o 0x02 →
      ∃ t, exec (.streamObserve q n) s = .next t ∧
        t.op? q n = some started ∧
        (t.part p).chunks = (s.part p).chunks ++ s.firstChunks o o.readOwners ∧
        (∀ p', p' ≠ p → t.part p' = s.part p' ∧ t.pool p' = s.pool p') ∧
        t = { s with host := { s.host with ops := t.host.ops }, rot := { s.rot with parts := t.rot.parts }, pools := t.pools, vid := t.vid }) ∧
    (OpReady s q n o 0x04 → s.updateTurn o = .refused → exec (.rollout q n) s = .next (s.setOp (o.ended stDenied 0 0))) ∧
    (OpReady s q n o 0x04 → s.updateTurn o ≠ .refused → ∀ s1 b, s.readAin o = .bytes s1 b →
      ∃ t, exec (.rollout q n) s = .next t ∧
        t.op? q n = some { started with ain := b } ∧
        (t.part p).chunks = (s.part p).chunks ++ s1.firstChunks o o.readOwners ∧
        (∀ p', p' ≠ p → t.part p' = s.part p' ∧ t.pool p' = s.pool p') ∧ t.ctx = s.ctx ∧ t.plots = s.plots ∧ t.mem = s1.mem ∧
        Traffic s t ∧ t = { s.withTraffic t with host := { s.host with ops := t.host.ops }, rot := { s.rot with parts := t.rot.parts },
                                                 pools := t.pools, vid := t.vid })

/-- When the chunks, swap-outs and APPEND edits of a running STREAM_OBSERVE or ROLLOUT are done, ROLLOUT_COMMIT ends it OK, or WIDENED where it widened, with the number of its records as the result. Each of its owners is committed to the slot the operation last sealed for it, its frame counter advanced by the operation's frames, and its latest latent that of its last frame; where no waiting TRAIN descriptor is refused with it, other owners and streams stand. A held update number is free again. Record i goes to the output address plus 64 i. (R56, R64, R65, R72, R74, R286.) -/
def Obligations.RolloutCommits : Prop :=
  ∀ (s : State) (q : RingNo) (n : Seq) (o : Op), s.runs = true → s.op? q n = some o →
    s.mayCommit o = true → o.owners.Nodup →
    let recs := if o.opcode = 2 then [] else s.records o
    ∃ t o', exec (.rolloutCommit q n) s = .next t ∧ t.op? q n = some o' ∧ o'.stage = .done ∧
      o'.status = (if o.status = stWidened then stWidened else stOk) ∧ o'.detail = 0 ∧ o'.result = BitVec.ofNat 32 recs.length ∧
      o'.unacked = o.unacked + recs.length ∧
      (∀ f ∈ o.owners, (t.owner o.streamNo f).committed = (s.owner o.streamNo f).reads ∧ (t.owner o.streamNo f).current = none ∧
        (t.owner o.streamNo f).frame = (s.owner o.streamNo f).frame + o.frames ∧
        (t.owner o.streamNo f).latent = (o.run f).latent) ∧
      (o.holdsUpdate = true → ∀ x, t.policy? (s.stream o.streamNo).policy.toNat = some x → x.held = none) ∧
      (o.train = false → (∀ f, f ∉ o.owners → t.owner o.streamNo f = s.owner o.streamNo f) ∧
        (∀ k, k ≠ o.streamNo → t.stream k = s.stream k) ∧ t.rot = s.rot ∧ t.pools = s.pools) ∧
      (∀ i (h : i < recs.length), ∃ tag, Output.memWrite (s.halfOf q) tag (BitVec.ofNat 64 (o.fld 56 0 64 + 64 * i)) recs[i] ∈ t.out) ∧
      t.mem = s.mem ∧ t.plots = s.plots

/-- CHUNK_READY of a queued chunk that is not ready and whose condition holds makes that chunk ready, and at the same moment every other chunk of its operation whose condition holds; every other chunk, partition and part of the state stands. In a running OPTIM slot, with an update number not yet applied, no running descriptor that pins an older version and the channels of the policy's region serving, OPTIMISER_STEP gives the policy a weight pair and two moments for each parameter, its applied number becomes the descriptor's, its region holds what it now is, and the rest of the policy, other policies, streams and plots stand. (R75, R107, R108, R484, R485.) -/
def Obligations.ChunksAndOptimiser : Prop :=
  (
  ∀ (s : State) (p : PartNo) (i : Nat) (c : Chunk), s.runs = true → (s.part p.toNat).chunks[i]? = some c → c.ready = none →
    s.chunkCond p.toNat c = true →
    ∃ t, exec (.chunkReady p i) s = .next t ∧
      (t.part p.toNat).chunks[i]? = some { c with ready := some (s.rot.readyClock + 1) } ∧
      (∀ (j : Nat) (d : Chunk), (s.part p.toNat).chunks[j]? = some d → ∃ d', (t.part p.toNat).chunks[j]? = some d' ∧
        ((d.ring = c.ring ∧ d.seq = c.seq ∧ d.ready = none ∧ s.chunkCond p.toNat d = true → d'.ready = some (s.rot.readyClock + 1)) ∧
         (¬(d.ring = c.ring ∧ d.seq = c.seq ∧ d.ready = none ∧ s.chunkCond p.toNat d = true) → d' = d))) ∧
      t.part p.toNat = { s.part p.toNat with chunks := (t.part p.toNat).chunks, skips := 0 } ∧
      (∀ p', p' ≠ p.toNat → t.part p' = s.part p') ∧
      t = { s with rot := { s.rot with parts := t.rot.parts, readyClock := s.rot.readyClock + 1 } }) ∧
  (
  ∀ (s : State) (part : PartNo) (c : Chunk) (o : Op) (p : PolicyRec), s.runs = true →
    (s.part part.toNat).slot.chunk = some c → c.kind = .optim → s.op? c.ring c.seq = some o →
    (s.part part.toNat).slot.phase = .running →
    let h := (s.stream o.streamNo).policy.toNat
    let u := BitVec.ofNat 32 (o.fld 44 0 32)
    s.policy? h = some p → p.applied ≠ u → s.olderPinned o h u = false → s.cisOpen p.region (policyBytes p.n) = true →
    ∃ t, exec (.optimiserStep part) s = .next t ∧
      (let x := sget ({} : PolicyRec) t.ctx.policies h
       x.applied = u ∧ x.weights.length = 2 * p.n ∧ x.hyper = p.hyper ∧ x.n = p.n ∧ x.held = p.held ∧ x.model = p.model ∧
       x.tenant = p.tenant ∧ x.region = p.region ∧
       t.cisBytes p.region (policyBytes p.n) = (List.range (policyBytes p.n)).map (Config.policyByte x.weights x.moments x.hyper)) ∧
      (∀ h', h' ≠ h → sget ({} : PolicyRec) t.ctx.policies h' = sget ({} : PolicyRec) s.ctx.policies h') ∧
      (∀ a, s.cisSpares p.region (policyBytes p.n) a → t.cisBytes a 1 = s.cisBytes a 1) ∧ Traffic s t ∧
      t = { s.withTraffic t with ctx := { s.ctx with policies := t.ctx.policies } })

/-- A MODEL_REGISTER that may start, with a free non-zero handle, a record and programs in the tenant's granules that read without error on channels that serve, a record R499 accepts and extents of the tenant ends OK with the record registered. A POLICY_CREATE with a free non-zero handle, a model of the tenant, 1 to 2^28 parameters and ranges of the tenant ends OK with the policy at update number 0, the initial weights as its high words, zero low words and moments, and its region holding them. A handle that is 0 or in use, or a full table, is refused with detail 0. Other handles stand. (R499, R501, R641.) -/
def Obligations.ModelsAndPoliciesRegister : Prop :=
  ∀ (s : State) (q : RingNo) (n : Seq) (o : Op), let t0 := s.ringTenant q; let h := o.fld 16 0 64
    (OpReady s q n o 0x10 → h = 0 ∨ (s.model? h).isSome = true ∨ 4096 ≤ s.ctx.models.length →
      exec (.modelRegister q n) s = .next (s.setOp (o.ended stDenied 0 0))) ∧
    (OpReady s q n o 0x12 → h = 0 ∨ (s.policy? h).isSome = true ∨ 16384 ≤ s.ctx.policies.length →
      exec (.policyCreate q n) s = .next (s.setOp (o.ended stDenied 0 0))) ∧
    (OpReady s q n o 0x10 → h ≠ 0 → s.model? h = none → s.ctx.models.length < 4096 →
      let read := s.cisRead none (o.fld 24 0 48) 256
      let s1 := read.2
      let r := s1.cisBytes (o.fld 24 0 48) 256
      let progs := [(recIn r, s1.progLen (recIn r)), (recOut r, s1.progLen (recOut r))]
      let s2 := (s1.cisReadAll none progs).2
      s.rangeDetail t0 (o.fld 24 0 48) 256 = none → s.cisOpen (o.fld 24 0 48) 256 = true → read.1 = stOk →
      s1.progRange t0 (recIn r) = none → s1.progRange t0 (recOut r) = none → s1.cisOpenAll progs = true →
      (s1.cisReadAll none progs).1 = stOk → s2.modelBad r = false → s2.extentsOwned t0 (recExtents r) = true →
      ∃ t, exec (.modelRegister q n) s = .next t ∧ t.op? q n = some (o.ended stOk 0 0) ∧
        sget ({} : ModelRec) t.ctx.models h =
          { tenant := t0, geom := recGeom r, stateBytes := recState r, actBytes := recAct r, inProg := recIn r, outProg := recOut r,
            extents := recExtents r } ∧
        (∀ h', h' ≠ h → sget ({} : ModelRec) t.ctx.models h' = sget ({} : ModelRec) s.ctx.models h') ∧
        Traffic s t ∧ t.mem = s2.mem ∧
        t = { s.withTraffic t with host := { s.host with ops := t.host.ops }, ctx := { s.ctx with models := t.ctx.models } }) ∧
    (OpReady s q n o 0x12 → h ≠ 0 → s.policy? h = none → s.ctx.policies.length < 16384 →
      ∀ m, s.model? (o.fld 24 0 64) = some m → m.tenant = t0 → let np := o.fld 32 0 29; 1 ≤ np → np ≤ 2 ^ 28 → o.fld 40 0 48 % 4096 = 0 →
      s.rangeDetail t0 (o.fld 40 0 48) (policyBytes np) = none → s.rangeDetail t0 (o.fld 48 0 48) (16 + 2 * np) = none →
      s.cisOpenAll [(o.fld 48 0 48, 16 + 2 * np), (o.fld 40 0 48, policyBytes np)] = true →
      (s.cisRead none (o.fld 48 0 48) (16 + 2 * np)).1 = stOk → let s1 := (s.cisRead none (o.fld 48 0 48) (16 + 2 * np)).2
      ∃ t, exec (.policyCreate q n) s = .next t ∧ t.op? q n = some (o.ended stOk 0 0) ∧
        (let x := sget ({} : PolicyRec) t.ctx.policies h
         x.tenant = t0 ∧ x.model.toNat = o.fld 24 0 64 ∧ x.n = np ∧ x.region = o.fld 40 0 48 ∧ x.applied = 0 ∧ x.held = none ∧
         x.weights.length = 2 * np ∧ x.moments = List.replicate (2 * np) 0 ∧
         t.cisBytes x.region (policyBytes np) = (List.range (policyBytes np)).map (Config.policyByte x.weights x.moments x.hyper) ∧
         (∀ k, k < np → x.weights[2 * k]? = some (BitVec.ofNat 32 (leNat (s1.cisBytes (o.fld 48 0 48 + 16 + 2 * k) 2))) ∧
           x.weights[2 * k + 1]? = some 0) ∧
         ∀ k, k < 4 → x.hyper[k]? = some (BitVec.ofNat 32 (leNat (s1.cisBytes (o.fld 48 0 48 + 4 * k) 4)))) ∧
        (∀ h', h' ≠ h → sget ({} : PolicyRec) t.ctx.policies h' = sget ({} : PolicyRec) s.ctx.policies h') ∧
        (∀ a, s.cisSpares (o.fld 40 0 48) (policyBytes np) a → t.cisBytes a 1 = s1.cisBytes a 1) ∧ Traffic s t ∧
        t = { s.withTraffic t with host := { s.host with ops := t.host.ops }, ctx := { s.ctx with policies := t.ctx.policies } })

/-- MODEL_RETIRE frees a handle of its tenant that no stream, policy or image names, and clears the sticky lines of the weight cache charged to it; POLICY_DESTROY frees a policy of its tenant that no stream names; IMAGE_RELEASE frees an index of its tenant that no VALID entry names, and its collective list. Each ends OK. A handle or index that is not registered, or that is named, ends SECURITY_DENIED with detail 0, one of another tenant with detail TENANT, and nothing else changes. (R458, R500, R501, R502, R514.) -/
def Obligations.NamesAreRetired : Prop :=
  ∀ (s : State) (q : RingNo) (n : Seq) (o : Op), let t0 := s.ringTenant q; let h := o.fld 16 0 64; let k := o.fld 16 0 12
    (OpReady s q n o 0x11 →
      (∀ m, s.model? h = some m → m.tenant = t0 → s.modelNamed h = false →
        ∃ t, exec (.modelRetire q n) s = .next t ∧ t.op? q n = some (o.ended stOk 0 0) ∧ sget ({} : ModelRec) t.ctx.models h = {} ∧
          (∀ h', h' ≠ h → sget ({} : ModelRec) t.ctx.models h' = sget ({} : ModelRec) s.ctx.models h') ∧
          (∀ x ∈ t.aqf.wc, x.2.sticky ≠ some (BitVec.ofNat 64 h)) ∧
          t = { s with host := { s.host with ops := t.host.ops }, ctx := { s.ctx with models := t.ctx.models },
                       aqf := { s.aqf with wc := t.aqf.wc } }) ∧
      (s.model? h = none → exec (.modelRetire q n) s = .next (s.setOp (o.ended stDenied 0 0))) ∧
      (∀ m, s.model? h = some m → m.tenant ≠ t0 → exec (.modelRetire q n) s = .next (s.setOp (o.ended stDenied dtTenant 0))) ∧
      (∀ m, s.model? h = some m → m.tenant = t0 → s.modelNamed h = true →
        exec (.modelRetire q n) s = .next (s.setOp (o.ended stDenied 0 0)))) ∧
    (OpReady s q n o 0x13 →
      (∀ p, s.policy? h = some p → p.tenant = t0 → s.ctx.streams.any (fun x => x.2.st ≠ .free && x.2.policy.toNat = h) = false →
        ∃ t, exec (.policyDestroy q n) s = .next t ∧ t.op? q n = some (o.ended stOk 0 0) ∧ sget ({} : PolicyRec) t.ctx.policies h = {} ∧
          (∀ h', h' ≠ h → sget ({} : PolicyRec) t.ctx.policies h' = sget ({} : PolicyRec) s.ctx.policies h') ∧
          t = { s with host := { s.host with ops := t.host.ops }, ctx := { s.ctx with policies := t.ctx.policies } }) ∧
      (s.policy? h = none → exec (.policyDestroy q n) s = .next (s.setOp (o.ended stDenied 0 0))) ∧
      (∀ p, s.policy? h = some p → p.tenant ≠ t0 → exec (.policyDestroy q n) s = .next (s.setOp (o.ended stDenied dtTenant 0))) ∧
      (∀ p, s.policy? h = some p → p.tenant = t0 → s.ctx.streams.any (fun x => x.2.st ≠ .free && x.2.policy.toNat = h) = true →
        exec (.policyDestroy q n) s = .next (s.setOp (o.ended stDenied 0 0)))) ∧
    (OpReady s q n o 0x15 →
      (s.ctx.images.any (fun x => x.1 = k) = true → (s.image k).tenant = t0 → s.imageNamed k = false →
        ∃ t, exec (.imageRelease q n) s = .next t ∧ t.op? q n = some (o.ended stOk 0 0) ∧ t.image k = {} ∧
          sget [] t.cf.lists k = [] ∧ (∀ k', k' ≠ k → t.image k' = s.image k') ∧
          t = { s with host := { s.host with ops := t.host.ops }, ctx := { s.ctx with images := t.ctx.images },
                       cf := { s.cf with lists := t.cf.lists } }) ∧
      (s.ctx.images.any (fun x => x.1 = k) = false → exec (.imageRelease q n) s = .next (s.setOp (o.ended stDenied 0 0))) ∧
      (s.ctx.images.any (fun x => x.1 = k) = true → (s.image k).tenant ≠ t0 →
        exec (.imageRelease q n) s = .next (s.setOp (o.ended stDenied dtTenant 0))) ∧
      (s.ctx.images.any (fun x => x.1 = k) = true → (s.image k).tenant = t0 → s.imageNamed k = true →
        exec (.imageRelease q n) s = .next (s.setOp (o.ended stDenied 0 0))))

/-- An IMAGE_REGISTER that may start, whose range is the tenant's and reads without error, on channels that serve, for which the pool has a free index and run of units, and which the checks pass, ends OK with the lowest free index as its result. The image stands, byte for byte, in the pool at the lowest free run, with its address, length, identity and model; other indices and Cistern outside the copy and its parity stand. An image that a check refuses ends SECURITY_DENIED with that check as the detail; where the pool has no index or run, the detail says so. (R149, R150, R502, R641.) -/
def Obligations.ImageRegisters : Prop :=
  ∀ (s : State) (q : RingNo) (n : Seq) (o : Op) (k u : Nat), OpReady s q n o 0x14 →
    let a := o.fld 16 0 48
    let len := o.fld 24 0 32
    let addr := s.poolBase + 65536 * u
    let s1 := (s.cisRead none a len).2
    let img := s1.cisBytes a len
    s.rangeDetail (s.ringTenant q) a len = none →
    ((s.poolIndex = none ∨ s.poolRun ((len + 65535) / 65536) = none) →
      exec (.imageRegister q n) s = .next (s.setOp (o.ended stDenied dtPool 0))) ∧
    (s.poolIndex = some k → s.poolRun ((len + 65535) / 65536) = some u → s.cisOpenAll [(a, len), (addr, len)] = true →
     (s.cisRead none a len).1 = stOk →
    (∀ bad, s1.imageCheck (s.ringTenant q) img len = bad → bad ≠ 0 →
      exec (.imageRegister q n) s = .next (s1.setOp (o.ended stDenied (BitVec.ofNat 16 bad) 0))) ∧
    (s1.imageCheck (s.ringTenant q) img len = 0 →
    (∀ j, j < k → s.ctx.images.any (fun x => x.1 = j) = true) ∧ (∀ v, v < u → s.runFree v ((len + 65535) / 65536) = false) ∧
    ∃ t, exec (.imageRegister q n) s = .next t ∧ t.op? q n = some (o.ended stOk 0 (BitVec.ofNat 32 k)) ∧
      t.image k = { tenant := s.ringTenant q, addr := addr, len := len, imageId := imgId img, model := BitVec.ofNat 64 (imgModel img) } ∧
      t.cisBytes addr len = img ∧ (∀ k', k' ≠ k → t.image k' = s.image k') ∧
      (∀ b, s.cisSpares addr len b → t.cisBytes b 1 = s1.cisBytes b 1) ∧ Traffic s t ∧
      t = { s.withTraffic t with host := { s.host with ops := t.host.ops }, ctx := { s.ctx with images := t.ctx.images } }))

/-- A VDEC_OPEN or VENC_OPEN that may start and that nothing refuses ends OK on a pipe that LEVEE_ENG does not fence: its session is open for its tenant and home ring with the descriptor's parameters, a decode session at picture number 1 with no picture, an encode session with the ring base and size read from its control block. On a fenced pipe it ends FENCED_RESOURCE and changes nothing else. Other sessions, the stores, streams and plots stand. (R349, R359, R368, R373, R584.) -/
def Obligations.VideoSessionsOpen : Prop :=
  ∀ (s : State) (q : RingNo) (n : Seq) (o : Op),
    (OpReady s q n o 0x20 → s.vdecRefused o = none →
      let pipe := if o.fld 18 7 1 = 1 then s.defaultPipe (o.fld 20 0 17) else o.fld 18 0 4
      ((s.rd LEVEE_ENG_CODEC).testBit pipe = false →
        ∃ t, exec (.vdecOpen q n) s = .next t ∧ t.op? q n = some (o.ended stOk 0 0) ∧
          (let x := t.decSession (o.fld 16 0 8)
           x.isOpen = true ∧ x.closing = false ∧ x.tenant = s.ringTenant q ∧ x.home = q ∧ x.desc = o.desc ∧ x.pipe = pipe ∧
           x.nextPic = 1 ∧ x.pics = [] ∧ x.queue = [] ∧ x.active = none ∧ x.bufs = []) ∧
          (∀ k, k ≠ o.fld 16 0 8 → t.decSession k = s.decSession k) ∧
          t = { s with host := { s.host with ops := t.host.ops }, vid := { s.vid with dec := t.vid.dec } }) ∧
      ((s.rd LEVEE_ENG_CODEC).testBit pipe = true → exec (.vdecOpen q n) s = .next (s.setOp (o.ended stFenced 0 0)))) ∧
    (OpReady s q n o 0x23 → ∀ (base : DWord) (size : Nat), s.vencRefused o size = none →
      ((s.rd LEVEE_ENG_CODEC).testBit (o.fld 18 0 3) = false →
        ∃ t tag, exec (.vencOpen q n base size) s = .next t ∧ t.op? q n = some (o.ended stOk 0 0) ∧
          Output.memRead (s.halfOf q) tag (BitVec.ofNat 64 (o.fld 56 0 64)) 64 ∈ t.out ∧
          (let x := t.encSession (o.fld 16 0 6)
           x.isOpen = true ∧ x.closing = false ∧ x.tenant = s.ringTenant q ∧ x.home = q ∧ x.desc = o.desc ∧ x.base = base.toNat ∧
           x.size = size ∧ x.qp = o.fld 30 0 8 ∧ x.writeOff = 0 ∧ x.jobs = [] ∧ x.units = [] ∧ x.forceKey = true) ∧
          (∀ k, k ≠ o.fld 16 0 6 → t.encSession k = s.encSession k) ∧ t.vid.dec = s.vid.dec ∧
          t.mem = s.mem ∧ t.ctx = s.ctx ∧ t.plots = s.plots) ∧
      ((s.rd LEVEE_ENG_CODEC).testBit (o.fld 18 0 3) = true →
        exec (.vencOpen q n base size) s = .next (s.setOp (o.ended stFenced 0 0))))

/-- A DECODE of a session its ring may use, whose range is the tenant's, which names the session's next number on a pipe not fenced, runs: the picture is pending under that number, behind those that wait for the pipe, and the number advances modulo 2^24; any other number ends it SECURITY_DENIED, detail PIC_NUMBER. VIDEO_RELEASE ends OK and clears OBS of every picture it names that no read holds, and marks the others for release. VSESSION_CLOSE of an idle session ends OK with the session closed; of one with work it waits, and the session is closing. (R349, R359, R360, R367.) -/
def Obligations.DecodeTakesNumber : Prop :=
  ∀ (s : State) (q : RingNo) (n : Seq) (o : Op) (k : Nat) (x : DecSession), o.fld 16 0 8 = k → s.decSession k = x →
    (OpReady s q n o 0x21 → s.sessionRefused o x.isOpen x.closing x.tenant x.home k 0 = none →
      s.videoRange (s.ringTenant q) (o.fld 24 0 48) (max 1 (o.fld 32 0 26)) = none → o.fld 32 0 26 ≠ 0 →
      (o.fld 20 0 24 = x.nextPic → (s.rd LEVEE_ENG_CODEC).testBit x.pipe = false →
        ∃ t, exec (.decode q n) s = .next t ∧ t.op? q n = some o.started ∧
          (t.decSession k).nextPic = (x.nextPic + 1) % 2 ^ 24 ∧ (t.decSession k).queue = x.queue ++ [x.nextPic] ∧
          (t.decSession k).pics = (x.pics.filter fun y => y.num ≠ x.nextPic) ++ [{ num := x.nextPic, ring := q, seq := n, autorel := o.fld 36 0 1 = 1 }] ∧
          (t.decSession k).bufs = x.bufs ∧ (∀ k', k' ≠ k → t.decSession k' = s.decSession k') ∧
          t.vid.enc = s.vid.enc ∧ t.mem = s.mem ∧ t.ctx = s.ctx ∧ t.plots = s.plots) ∧
      (o.fld 20 0 24 ≠ x.nextPic → exec (.decode q n) s = .next (s.setOp (o.ended stDenied dtPicNumber 0)))) ∧
    (OpReady s q n o 0x22 → s.sessionRefused o x.isOpen x.closing x.tenant x.home k 0 = none →
      ∃ t, exec (.videoRelease q n) s = .next t ∧ t.op? q n = some (o.ended stOk 0 0) ∧
        (∀ j, j ≤ o.fld 24 0 8 → ∀ p, x.pic? ((o.fld 20 0 24 + j) % 2 ^ 24) = some p →
          (t.decSession k).pic? p.num =
            some (if p.holds = [] then { p with obs := false, release := false } else { p with release := true })) ∧
        (∀ k', k' ≠ k → t.decSession k' = s.decSession k') ∧ t.vid.enc = s.vid.enc ∧
        t.mem = s.mem ∧ t.ctx = s.ctx ∧ t.plots = s.plots) ∧
    (OpReady s q n o 0x24 → o.fld 17 0 1 = 0 → s.sessionRefused o x.isOpen false x.tenant x.home k 0 = none →
      (x.queue = [] → x.active = none → (∀ p ∈ x.pics, p.holds = []) →
        ∃ t, exec (.vsessionClose q n) s = .next t ∧ t.op? q n = some (o.ended stOk 0 0) ∧ t.decSession k = {} ∧
          (∀ k', k' ≠ k → t.decSession k' = s.decSession k') ∧ t.mem = s.mem ∧ t.ctx = s.ctx ∧ t.plots = s.plots) ∧
      (x.active ≠ none →
        ∃ t, exec (.vsessionClose q n) s = .next t ∧ t.op? q n = some o ∧ t.decSession k = { x with closing := true } ∧
          t.mem = s.mem ∧ t.ctx = s.ctx ∧ t.plots = s.plots)) ∧
    (∀ (y : EncSession), OpReady s q n o 0x24 → o.fld 17 0 1 = 1 → s.encSession k = y →
      s.sessionRefused o y.isOpen false y.tenant y.home k 1 = none → y.jobs = [] → y.units = [] → y.flights = [] → y.active = none →
      ∃ t, exec (.vsessionClose q n) s = .next t ∧ t.op? q n = some (o.ended stOk 0 0) ∧ t.encSession k = {} ∧
        (∀ k', k' ≠ k → t.encSession k' = s.encSession k') ∧ t.mem = s.mem ∧ t.ctx = s.ctx ∧ t.plots = s.plots)

/-- PIPE_PICTURE_GRANT of a pipe that serves no picture gives it, where no other session has waited too long, the first picture that waits in an open decode session of the pipe, in the lowest-numbered buffer without a mark, or the first job of an encode session of the pipe. ROW_TOKEN of rows beyond those that are final writes them and makes them final, and an attached session that is not DIRECT tells the headworks engine. DECODE_DONE of a picture that fits the session, with an access unit that reads without error, ends its DECODE OK with the picture's number as the result, the picture DONE and the pipe free; where the access unit gave no picture, OK_EMPTY and no picture. (R34, R350, R357, R361, R362, R364.) -/
def Obligations.PipesServePictures : Prop :=
  (∀ (s : State) (sess : BitVec 8) (x : DecSession) (num : Nat) (p : Pic), s.runs = true → s.decSession sess.toNat = x →
    x.pic? num = some p → x.pipe < 16 →
    (∀ (pipe : BitVec 4) (rest : List Nat) (b : Nat), s.pipeBusy pipe.toNat = false → x.queue = num :: rest → x.isOpen = true →
      x.pipe = pipe.toNat → x.active = none → freeBuf x.bufs x.nfb = some b →
      (s.arbGrant (arbPipe pipe.toNat) (s.pipeBound pipe.toNat) sess.toNat (s.pipeWaiting pipe.toNat)).isSome = true →
      ∃ t, exec (.pipePictureGrant pipe sess false) s = .next t ∧
        (let y := t.decSession sess.toNat
         y.active = some num ∧ y.queue = rest ∧
         y.pic? num = some { p with st := .decoding, buf := b, obs := true,
                                    use := Config.codecRun x.hist (s.bufBytes (s.picBits p).1 (s.picBits p).2) } ∧
         (sget ({} : FrameBuf) y.bufs b).dec = true ∧ (sget ({} : FrameBuf) y.bufs b).obs = true ∧
         ∀ c, c ≠ b → sget ({} : FrameBuf) y.bufs c = sget ({} : FrameBuf) x.bufs c) ∧
        (∀ k, k ≠ sess.toNat → t.decSession k = s.decSession k) ∧
        t = { s with vid := { s.vid with dec := t.vid.dec }, arb := t.arb }) ∧
    (x.active = some num → ∀ (rows : Nat) (g : PicGeom), x.geomOk g = true → (p.geom = none ∨ p.geom = some g) → p.rows < rows →
      rows ≤ g.h → s.picOpen x p g = true →
      ∃ t, exec (.rowToken sess rows g) s = .next t ∧
        (t.decSession sess.toNat).pic? num = some { p with rows := rows, geom := some g } ∧
        (x.attach = true → x.direct = false →
          Output.rowToken (s.defaultPipe (descFld x.desc 20 0 17)) (num * 256 + sess.toNat) rows ∈ t.out) ∧
        t.mem = (s.decodeRows x p g rows).mem ∧ t.host = s.host ∧ t.ctx = s.ctx ∧ t.rot = s.rot ∧ t.vid.enc = s.vid.enc) ∧
    (∀ (i : DecodeInfo) (o : Op), x.active = some num → s.op? p.ring p.seq = some o →
      (hideFrames (refMarks x.bufs i.dropRefs) x.nfb i.hidden).isSome = true →
      s.bufOpen (s.picBits p).1 (s.picBits p).2 = true → s.picOpen x p i.geom = true →
      (i.outcome = .picture → i.geom.codedW ≤ x.maxW → i.geom.codedH ≤ x.maxH → x.geomOk i.geom = true →
        (p.geom = none ∨ p.geom = some i.geom) → (s.bufRead (s.decPart x) (s.picBits p).1 (s.picBits p).2).1 = stOk →
        x.seenKey = true ∨ i.key = true → s.seepQuiet .codec x.pipe = true →
        ∃ t o' p', exec (.decodeDone sess i) s = .next t ∧ t.op? p.ring p.seq = some o' ∧ o'.stage = .done ∧ o'.status = stOk ∧
          o'.detail = 0 ∧ o'.result = BitVec.ofNat 32 p.num ∧ (t.decSession sess.toNat).active = none ∧
          (t.decSession sess.toNat).pic? num = some p' ∧ p'.st = .done ∧ p'.geom = some i.geom ∧ p'.rows = i.geom.h ∧
          t.count ctrPicsDecoded x.pipe = satAdd (s.count ctrPicsDecoded x.pipe) 1 ∧ t.ctx = s.ctx ∧ t.rot = s.rot) ∧
      (i.outcome = .noPicture →
        ∃ t o' p', exec (.decodeDone sess i) s = .next t ∧ t.op? p.ring p.seq = some o' ∧ o'.stage = .done ∧
          o'.status = stOkEmpty ∧ o'.result = BitVec.ofNat 32 p.num ∧ (t.decSession sess.toNat).active = none ∧
          (t.decSession sess.toNat).pic? num = some p' ∧ p'.st = .noPicture ∧ t.mem = s.mem))) ∧
  (∀ (s : State) (sess : BitVec 8) (pipe : BitVec 4) (e : BitVec 6) (j : EncJob) (js : List EncJob), s.runs = true →
      sess.toNat = e.toNat → s.pipeBusy pipe.toNat = false →
      (s.encSession e.toNat).jobs = j :: js → (s.encSession e.toNat).isOpen = true →
      descFld (s.encSession e.toNat).desc 18 0 3 = pipe.toNat → (s.encSession e.toNat).active = none →
      (s.encSession e.toNat).units = [] →
      (s.arbGrant (arbPipe pipe.toNat) (s.pipeBound pipe.toNat) (256 + e.toNat) (s.pipeWaiting pipe.toNat)).isSome = true →
      ∃ t, exec (.pipePictureGrant pipe sess true) s = .next t ∧
        t.encSession e.toNat = { s.encSession e.toNat with active := some j.num } ∧
        (∀ k, k ≠ e.toNat → t.encSession k = s.encSession k) ∧
        t = { s with vid := { s.vid with enc := t.vid.enc }, arb := t.arb })

/-- Of an encode session granted the pipe for its first, packed job, whose samples read without error and whose checks hold with no seep armed, ENCODE_PICTURE takes the job, frees the pipe and appends one access unit of that frame and number; the first attempt, where it fits the receiver buffer or the session is CQP, gives its size with the filler of CBR, and where no attempt fits the unit is DROPPED. ENCODE_RING_WRITE, where no pacing holds it back, writes the first waiting unit behind its header at the write offset, or, where the ring's tail is too short, at its start behind a padding header; without room the unit waits. The WR_ACK of the last of the first waiting unit's writes sends the control block the write offset past that unit; any earlier one sends nothing. (R370, R371, R373, R374, R525.) -/
def Obligations.EncodesAndRingWrites : Prop :=
  ∀ (s : State) (e : BitVec 6) (x : EncSession), s.runs = true → s.encSession e.toNat = x →
    (∀ (j : EncJob) (js : List EncJob) (a : EncodeAttempt) (as : List EncodeAttempt), x.active = some j.num → x.jobs = j :: js →
      j.packed = true → (s.encReads x j).all (fun y => s.bufOpen y.1 y.2) = true →
      (s.bufReadAll (s.encPart x) (s.encReads x j)).1 = stOk →
      let tries := (a :: as).take (x.f 26 2 2 + 1)
      let fits := x.tryAttempts (x.fullness j.num) 0 0 tries
      (fits.isSome = true ∨ tries.length = x.f 26 2 2 + 1) → (∀ b ∈ tries, b.failed = none) → s.seepQuiet .codec (x.f 18 0 3) = true →
      ∃ t u, exec (.encodePicture e (a :: as) true) s = .next t ∧
        (t.encSession e.toNat).jobs = js ∧ (t.encSession e.toNat).active = none ∧ (t.encSession e.toNat).units = x.units ++ [u] ∧
        u.num = j.num ∧ u.frame = j.frame ∧ u.ring = j.ring ∧ u.seq = j.seq ∧ u.trem = x.removal j.num ∧
        (x.f 26 0 2 = 0 ∨ a.bits ≤ x.fullness j.num →
          u.bytes = (a.bits + 7) / 8 + x.filler j.num a.bits ∧ u.dropped = false ∧ u.reenc = false) ∧
        (fits = none → u.dropped = true) ∧
        t.count ctrPicsEncoded (x.f 18 0 3) = satAdd (s.count ctrPicsEncoded (x.f 18 0 3)) 1 ∧
        t.host = s.host ∧ t.ctx = s.ctx ∧ t.plots = s.plots ∧ t.vid.dec = s.vid.dec) ∧
    (∀ (u : EncUnit) (us : List EncUnit) (readOff : Nat), x.units = u :: us → (x.f 26 5 1 = 0 ∨ x.firstWrite = none) → 0 < x.size →
      let pad : Bool := decide (x.size < x.writeOff + 32 + u.bytes)
      let w := if pad then 0 else x.writeOff
      let need := 32 + u.bytes + (if pad then x.size - x.writeOff else 0)
      (ringFree x.size x.writeOff readOff < need →
        exec (.encodeRingWrite e readOff) s = .next (s.setEnc e.toNat { x with ringWait := true })) ∧
      (need ≤ ringFree x.size x.writeOff readOff →
        ∃ t body, exec (.encodeRingWrite e readOff) s = .next t ∧ body.length = u.bytes ∧
          (pad = true → ∃ tag', Output.memWrite (s.halfOf u.ring) tag' (BitVec.ofNat 64 (x.base + x.writeOff))
            (unitHeader u (x.size - x.writeOff - 32) true) ∈ t.out) ∧
          (∀ y ∈ packetsOf (32 + u.bytes), ∃ tag', Output.memWrite (s.halfOf u.ring) tag' (BitVec.ofNat 64 (x.base + w + y.1))
            (((unitHeader u u.bytes false ++ body).drop y.1).take y.2) ∈ t.out) ∧
          (t.encSession e.toNat).flights = x.flights ++ [(u.num, (w + 32 + u.bytes) % x.size)] ∧
          (t.encSession e.toNat).units = us ∧ (t.encSession e.toNat).writeOff = (w + 32 + u.bytes) % x.size ∧
          (t.encSession e.toNat).ringWait = false ∧ (∀ k, k ≠ e.toNat → t.encSession k = s.encSession k) ∧
          t.vid.dec = s.vid.dec ∧ t.mem = s.mem ∧ t.ctx = s.ctx ∧ t.plots = s.plots)) ∧
    (∀ (h : BitVec 1) (tag : BitVec 16) (r : TagRec) (num off : Nat) (fs : List (Nat × Nat)), s.tagRec h tag = some r →
      r.use = .unit e.toNat num → x.flights = (num, off) :: fs →
      let rest := s.lnk.tags.filter fun y => !(y.half = h && y.tag = tag)
      ((∃ y ∈ rest, y.use = .unit e.toNat num) →
        ∃ t, exec (.wrAck h tag) s = .next t ∧ t.out = s.out ∧ t.lnk.tags = rest ∧ t.vid = s.vid ∧ t.mem = s.mem) ∧
      ((∀ y ∈ rest, y.use ≠ .unit e.toNat num) → (fs = [] ∨ ∃ f gs, fs = f :: gs ∧ ∃ y ∈ rest, y.use = .unit e.toNat f.1) →
        ∃ t tag', exec (.wrAck h tag) s = .next t ∧ (t.encSession e.toNat).flights = fs ∧
          Output.memWrite (s.halfOf r.ring) tag' (BitVec.ofNat 64 (x.f 56 0 64 + 16)) (leBytes 4 off) ∈ t.out ∧
          (∀ k, k ≠ e.toNat → t.encSession k = s.encSession k) ∧ t.vid.dec = s.vid.dec ∧
          t.mem = s.mem ∧ t.ctx = s.ctx ∧ t.plots = s.plots))

/-- With the dilated filter height KH' = (KH - 1) DH + 1 and the padded height H' = H + PT + PB, a CONV emits floor((H' - KH') / SH) + 1 rows when H' is at least KH', else 0, and as many columns by the same rule with KW, DW, PL, PR and SW; a program has an empty output just when one of its operations emits planes of no row or no column. (R332.) -/
def Obligations.ConvOutputSize : Prop :=
  (∀ (bs r : List Byte) (x : HwShape), recOp r = 1 →
    let c := convRec r
    let kh := (c.kh - 1) * c.dh + 1
    let kw := (c.kw - 1) * c.dw + 1
    (hwShape bs x r).h = (if kh ≤ x.h + c.pt + c.pb then (x.h + c.pt + c.pb - kh) / c.sh + 1 else 0) ∧
    (hwShape bs x r).w = (if kw ≤ x.w + c.pl + c.pr then (x.w + c.pl + c.pr - kw) / c.sw + 1 else 0)) ∧
  (∀ bs : List Byte, progEmpty bs = true ↔ ∃ k, k < hwOps bs ∧ ∃ x, (hwShapes bs (hwStart bs) (hwRecs bs))[k + 1]? = some x ∧
    (x.w = 0 ∨ x.h = 0))

/-- A HEADWORKS_RUN whose program R331 accepts and whose ranges are its tenant's runs, with its job last in the engine's queue; one whose program R331 refuses ends SECURITY_DENIED with detail 0. INPUT_JOB of a running operation that holds a picture of a session that is not DIRECT queues its job and marks the buffer as read. OUTPUT_JOB takes the lowest free buffer of the encode session as SRC for a new job. DIRECT_COPY of a picture whose rows all stand and read without error makes the operation's input matrix ready. (R326, R331, R341, R342, R343, R358, R366, R369.) -/
def Obligations.HeadworksJobsStart : Prop :=
  (∀ (s : State) (q : RingNo) (n : Seq) (o : Op), OpReady s q n o 0x25 →
    let t0 := s.ringTenant q
    let prog := o.fld 16 0 48
    let bs := s.hwProg prog
    s.rangeDetail t0 prog 32 = none → s.rangeDetail t0 prog (32 + 32 * min 8 (hwOps bs)) = none →
    (progBad bs = true → exec (.headworksRun q n) s = .next (s.setOp (o.ended stDenied 0 0))) ∧
    (progBad bs = false → (∀ x ∈ hwRanges bs (o.fld 24 0 48) (o.fld 32 0 48), s.rangeDetail t0 x.1 x.2 = none) →
      ∃ t, exec (.headworksRun q n) s = .next t ∧ t.op? q n = some o.started ∧
        t.hwQueue (s.engineFor (o.fld 40 0 4)) = s.hwQueue (s.engineFor (o.fld 40 0 4)) ++
          [{ what := .run q n, prog := prog, src := o.fld 24 0 48, dst := o.fld 32 0 48 }] ∧
        (∀ e, e ≠ s.engineFor (o.fld 40 0 4) → t.hwQueue e = s.hwQueue e) ∧ t.vid.dec = s.vid.dec ∧ t.vid.enc = s.vid.enc ∧
        t.mem = s.mem ∧ t.ctx = s.ctx ∧ t.plots = s.plots)) ∧
  (∀ (s : State) (q : RingNo) (n : Seq) (o : Op) (k : Nat) (p : Pic), s.runs = true → s.op? q n = some o → s.heldPic q n = some (k, p) →
    o.stage = .running → o.inputReady = false →
    let x := s.decSession k
    (x.direct = false → s.hasInputJob q n = false →
      let e := s.engineFor (s.defaultPipe o.streamNo)
      ∃ t, exec (.inputJob q n) s = .next t ∧
        t.hwQueue e = s.hwQueue e ++
          [{ what := .input q n k p.num, prog := ((s.model? (s.stream o.streamNo).model.toNat).map (·.inProg)).getD 0 }] ∧
        (sget ({} : FrameBuf) (t.decSession k).bufs p.buf).reads = (sget ({} : FrameBuf) x.bufs p.buf).reads + 1 ∧
        (∀ e', e' ≠ e → t.hwQueue e' = s.hwQueue e') ∧ t.host = s.host ∧ t.mem = s.mem ∧ t.ctx = s.ctx ∧ t.plots = s.plots) ∧
    (x.direct = true → p.st = .done ∨ p.st = .decoding → ∀ g, p.geom = some g → p.rows = g.h →
      let rows := copyRows x.pixfmt (windowPlanes x.pixfmt (x.bufAddr p.buf) g)
      (∀ a ∈ rows, s.engReady a.2.1 a.2.2 = true) → (s.engReadAll (s.decPart x) (rows.map fun (a : Nat × Nat × Nat) => a.2)).1 = stOk →
      ∃ t, exec (.directCopy q n) s = .next t ∧ t.op? q n = some { o with inputReady := true } ∧
        t.ctx = s.ctx ∧ t.pools = s.pools)) ∧
  (∀ (s : State) (part : PartNo) (e : BitVec 6) (i : Nat) (w : OutPend) (b : Nat), s.runs = true →
    (s.part part.toNat).outJobs[i]? = some w → w.session = e.toNat → (s.encSession e.toNat).isOpen = true →
    freeBuf (s.encSession e.toNat).bufs ((s.encSession e.toNat).f 19 0 6) = some b →
    ∃ t, exec (.outputJob part e i) s = .next t ∧
      (t.encSession e.toNat).jobs = (s.encSession e.toNat).jobs ++
        [{ ring := w.ring, seq := w.seq, frame := w.frame, num := (s.encSession e.toNat).nextPic, buf := b }] ∧
      (t.encSession e.toNat).nextPic = (s.encSession e.toNat).nextPic + 1 ∧
      (sget ({} : FrameBuf) (t.encSession e.toNat).bufs b).src = true ∧
      (t.part part.toNat).outJobs = (s.part part.toNat).outJobs.eraseIdx i ∧
      (∃ eng job, job ∈ t.hwQueue eng ∧ job.what = .output e.toNat (s.encSession e.toNat).nextPic w.pplot part.toNat) ∧
      t.host = s.host ∧ t.mem = s.mem ∧ t.plots = s.plots)

/-- With no seep that acts, at the operation at which its head job stands, whose sources stand and read without error: UNPACK, CONV and UNPATCHIFY of a stripe leave the job past that operation with the rows it gives, CONV one plane for each output channel, of the width R332 gives; the jobs behind it wait. PATCHIFY and PACK of a stripe that is not the last leave the job at the next stripe. PATCHIFY of an input job's last stripe ends the job and makes the operation's input matrix ready; PATCHIFY and PACK of a HEADWORKS_RUN's last stripe end it OK; PACK of an output job shows the encoder its rows, and with the last stripe ends the job with its picture packed. A HEADWORKS_RUN with an empty output ends OK_EMPTY in its turn, writing nothing. Streams and page pools stand. (R326, R330, R331, R332, R336, R338, R341, R342, R343, R369.) -/
def Obligations.HeadworksEngineSteps : Prop :=
  ∀ (s : State) (e : ReachNo) (j : HwJob) (js : List HwJob), s.runs = true → s.hwQueue e.toNat = j :: js →
    s.seepQuiet .headworks e.toNat = true → s.jobOver j = false →
    let bs := s.hwProg j.prog
    let r := hwRec bs j.opIdx
    let y0 := (j.emits bs).1
    let y1 := (j.emits bs).2
    let x := hwShapeAt bs j.opIdx
    j.opIdx < hwOps bs →
    (progEmpty bs = true → ∀ q n o, s.op? q n = some o → j.what = .run q n →
      ∀ c op, (c, op) ∈ [(Instr.unpack e, 0), (.conv e, 1), (.patchify e, 2), (.unpatchify e, 3), (.pack e, 4)] → recOp r = op →
      ∃ t, exec c s = .next t ∧ t.hwQueue e.toNat = js ∧ t.op? q n = some (o.ended stOkEmpty 0 0) ∧
        t.count ctrHwEmptyJobs e.toNat = satAdd (s.count ctrHwEmptyJobs e.toNat) 1 ∧
        t.count ctrHwJobs e.toNat = satAdd (s.count ctrHwJobs e.toNat) 1 ∧ t.mem = s.mem ∧ t.ctx = s.ctx ∧ t.plots = s.plots) ∧
    (progEmpty bs = false →
      (recOp r = 0 → ∀ planes, s.hwSource j bs = some planes →
        let reads := unpackReads bs r planes y0 y1
        (∀ a ∈ reads, s.engReady a.1 a.2 = true) → (s.engReadAll (s.jobPart j) reads).1 = stOk →
        ∃ t, exec (.unpack e) s = .next t ∧
          t.hwQueue e.toNat = j.past bs y1 ((s.engReadAll (s.jobPart j) reads).2.unpackRows bs r planes y0 y1) :: js ∧
          (∀ f, f ≠ e.toNat → t.hwQueue f = s.hwQueue f) ∧ t.host = s.host ∧ t.ctx = s.ctx ∧ t.pools = s.pools ∧ t.plots = s.plots) ∧
      (recOp r = 1 →
        let param := (pfld bs 8 0 48 + (convRec r).woff, (convRec r).paramLen)
        s.engReady param.1 param.2 = true → (s.engReadAll (s.jobPart j) [param]).1 = stOk →
        ∃ t ps, exec (.conv e) s = .next t ∧ t.hwQueue e.toNat = j.past bs y1 ps :: js ∧ ps.length = (convRec r).cout ∧
          (∀ p ∈ ps, p.w = convExtent x.w (convRec r).pl (convRec r).pr (convRec r).kw (convRec r).dw (convRec r).sw ∧
            p.h = y1 - y0 ∧ p.data.length = p.w * p.h) ∧
          (∀ f, f ≠ e.toNat → t.hwQueue f = s.hwQueue f) ∧ t.host = s.host ∧ t.ctx = s.ctx ∧ t.pools = s.pools ∧ t.plots = s.plots) ∧
      (recOp r = 3 →
        let m := s.unpatchMat j bs r
        let reads := (m.reads (y0 / patchOf r) (y1 / patchOf r)).map fun a => (s.matrixBase j r + a.1, a.2)
        (∀ a ∈ reads, s.engReady a.1 a.2 = true) → (s.engReadAll (s.jobPart j) reads).1 = stOk →
        ∃ t ps, exec (.unpatchify e) s = .next t ∧ t.hwQueue e.toNat = j.past bs y1 ps :: js ∧ ps.length = (hwShapeAt bs 0).c ∧
          (∀ f, f ≠ e.toNat → t.hwQueue f = s.hwQueue f) ∧ t.host = s.host ∧ t.ctx = s.ctx ∧ t.pools = s.pools ∧ t.plots = s.plots) ∧
      (recOp r = 2 → (∀ q n, j.what = .run q n → s.runsOpen (matrixWrites r x (j.input bs) j.dst y0 y1) = true) →
        ∀ q n o, s.op? q n = some o →
        (((∃ k num, j.what = .input q n k num) ∨ j.what = .run q n) → j.lastStripe bs = false →
          ∃ t, exec (.patchify e) s = .next t ∧ t.hwQueue e.toNat = j.past bs y1 [] :: js ∧ t.host = s.host ∧ t.ctx = s.ctx ∧
            t.pools = s.pools) ∧
        ((∃ k num, j.what = .input q n k num) → j.lastStripe bs = true →
          ∃ t, exec (.patchify e) s = .next t ∧ t.hwQueue e.toNat = js ∧ t.op? q n = some { o with inputReady := true } ∧
            t.ctx = s.ctx ∧ t.pools = s.pools) ∧
        (j.what = .run q n → j.lastStripe bs = true →
          ∃ t, exec (.patchify e) s = .next t ∧ t.hwQueue e.toNat = js ∧ t.op? q n = some (o.ended stOk 0 0) ∧
            t.ctx = s.ctx ∧ t.pools = s.pools)) ∧
      (recOp r = 4 → s.runsOpen (packWrites bs r x (j.input bs) j.dst y0 y1) = true →
        (∀ q n o, s.op? q n = some o → j.what = .run q n →
          (j.lastStripe bs = false → ∃ t, exec (.pack e) s = .next t ∧ t.hwQueue e.toNat = j.past bs y1 [] :: js ∧ t.host = s.host ∧
            t.ctx = s.ctx ∧ t.pools = s.pools) ∧
          (j.lastStripe bs = true → ∃ t, exec (.pack e) s = .next t ∧ t.hwQueue e.toNat = js ∧ t.op? q n = some (o.ended stOk 0 0) ∧
            t.ctx = s.ctx ∧ t.pools = s.pools)) ∧
        (∀ k num p part, j.what = .output k num p part →
          ∃ t, exec (.pack e) s = .next t ∧
            t.hwQueue e.toNat = (if j.lastStripe bs then js else j.past bs y1 [] :: js) ∧
            (t.encSession k).jobs = (s.encSession k).jobs.map (fun (y : EncJob) =>
              if y.num = num then { y with rows := y1, packed := j.lastStripe bs } else y) ∧
            Output.encodeRows ((s.encSession k).f 18 0 3) k y1 ∈ t.out ∧ t.host = s.host ∧ t.ctx = s.ctx ∧ t.pools = s.pools)))

/-- A CF_GROUP_OPEN of a group that is closed, whose members are at least two, include this module and are all reachable, with a time limit, and for list use a partition of the tenant, ends OK with the group open at sequence number 1; with a member no port reaches it ends FENCED_RESOURCE and opens nothing. CF_GROUP_CLOSE of an idle open group of the tenant ends OK with the group closed; with collectives in it, it runs and the group is to close. Other groups and the stores stand. (R451, R452, R453.) -/
def Obligations.GroupsOpenAndClose : Prop :=
  ∀ (s : State) (q : RingNo) (n : Seq) (o : Op) (g : Nat), o.fld 16 0 6 = g →
    (∀ x : Group, x = { isOpen := true, mask := BitVec.ofNat 8 (o.fld 17 0 8), part := o.fld 18 0 7, hostUse := o.fld 18 7 1 = 1,
                        replays := o.fld 19 0 2, nameMode := o.fld 19 2 1 = 1, tlimit := o.fld 20 0 32, tenant := s.ringTenant q } →
      OpReady s q n o 0x30 → (s.group g).isOpen = false → x.mask.getLsbD s.moduleId = true → 2 ≤ x.size → x.tlimit ≠ 0 →
      (x.hostUse = true ∨ (x.part < 64 ∧ s.partTenant x.part = s.ringTenant q)) →
      ((∀ m ∈ x.members, m ≠ s.moduleId → s.bundle m ≠ []) →
        ∃ t, exec (.cfGroupOpen q n) s = .next t ∧ t.op? q n = some (o.ended stOk 0 0) ∧ t.group g = x ∧ x.nextSeq = 1 ∧
          (∀ k, k ≠ g → t.group k = s.group k) ∧
          t = { s with host := { s.host with ops := t.host.ops }, cf := { s.cf with groups := t.cf.groups } }) ∧
      ((∃ m ∈ x.members, m ≠ s.moduleId ∧ s.bundle m = []) →
        exec (.cfGroupOpen q n) s = .next (s.setOp (o.ended stFenced 0 0)))) ∧
    (OpReady s q n o 0x31 → (s.group g).isOpen = true → (s.group g).closing = none → (s.group g).tenant = s.ringTenant q →
      ((s.group g).colls = [] →
        ∃ t o', exec (.cfGroupClose q n) s = .next t ∧ t.op? q n = some o' ∧ o'.stage = .done ∧ o'.status = stOk ∧ t.group g = {} ∧
          (∀ k, k ≠ g → t.group k = s.group k) ∧
          t = { s with host := { s.host with ops := t.host.ops }, cf := { s.cf with groups := t.cf.groups } }) ∧
      ((s.group g).colls ≠ [] →
        ∃ t, exec (.cfGroupClose q n) s = .next t ∧ t.op? q n = some o.started ∧
          t.group g = { s.group g with closing := some (q, n) } ∧ (∀ k, k ≠ g → t.group k = s.group k) ∧
          t = { s with host := { s.host with ops := t.host.ops }, cf := { s.cf with groups := t.cf.groups } }))

/-- A COLLECTIVE of an open group for host use, and LIST_ENTRY_START of the next entry of a running slot's list whose gate has opened, that R457 allows, while no member has left the group, no packet of the number has come before, and every running collective has its landing slots and none is to vote, start: the number advances, a HEADER of R460 with the count, type, operation, reduction and HASH goes to every other member, and the collective stands in the group in its header phase. A COLLECTIVE that R457 refuses sends its HEADER and ends SECURITY_DENIED with the detail of the check. The stores, contexts and plots stand. (R452, R454, R457, R459, R460, R461.) -/
def Obligations.CollectivesStart : Prop :=
  ∀ (s : State) (g : Nat) (x : Group), s.runs = true → s.group g = x → x.isOpen = true → x.broken = false →
    x.aborted.all (fun a => a.1 ≠ x.nextSeq) = true → s.coll? g x.nextSeq = none →
    (∀ y ∈ s.cf.groups, ∀ d ∈ y.2.colls,
      d.reserved = true ∧ (d.voted = true ∨ d.stopped = true ∨ d.complete (s.collGeom y.1 d) = false)) → 2 ≤ x.size →
    s.cf.early.all (fun e => !(e.1 = g && e.2.2.1 = x.nextSeq)) = true →
    (∀ (q : RingNo) (n : Seq) (o : Op) (c : Coll), OpReady s q n o 0x32 → o.fld 16 0 6 = g → x.hostUse = true → x.closing = none →
      x.tenant = s.ringTenant q → c = { cseq := 0, body := leBytes 40 (o.fld 16 0 320), host := some (q, n) } →
      (s.collDenied g c = none →
        ∃ t, exec (.collective q n) s = .next t ∧ t.op? q n = some o.started ∧ (t.group g).nextSeq = x.nextSeq + 1 ∧
          (t.group g).colls = x.colls ++ [{ c with cseq := x.nextSeq }] ∧
          (∀ r ∈ s.peersOf x, Output.cfPacket (BitVec.ofNat 3 r) (BitVec.ofNat 6 g) x.nextSeq pkHeader
            (cfHeader pkHeader g (s.myRank x) x.nextSeq {} ++ headerBytes (s.ownHeader g c)) ∈ t.out) ∧
          (∀ k, k ≠ g → t.group k = s.group k) ∧ t.mem = s.mem ∧ t.ctx = s.ctx ∧ t.plots = s.plots) ∧
      (∀ d, s.collDenied g c = some d →
        ∃ t, exec (.collective q n) s = .next t ∧ t.op? q n = some (o.ended stDenied d 0) ∧ (t.group g).nextSeq = x.nextSeq + 1 ∧
          (∀ r ∈ s.peersOf x, Output.cfPacket (BitVec.ofNat 3 r) (BitVec.ofNat 6 g) x.nextSeq pkHeader
            (cfHeader pkHeader g (s.myRank x) x.nextSeq {} ++ headerBytes (s.ownHeader g { c with refused := true })) ∈ t.out) ∧
          t.mem = s.mem ∧ t.ctx = s.ctx ∧ t.plots = s.plots)) ∧
    (∀ (p : PartNo) (l : List Byte) (c : Coll), s.listOf p.toNat (s.part p.toNat).slot.image = some (g, l) →
      (s.part p.toNat).slot.phase = .running →
      let e := s.entriesStarted g p.toNat
      let b := (l.drop (64 * e)).take 64
      e < l.length / 64 →
      (recFld b 0 40 0 6 = 0 ∨ ∀ k ∈ s.partPlots p.toNat,
        reached ((s.plot (s.physOf k)).counter (recFld b 0 40 0 6)) (BitVec.ofNat 32 (recFld b 0 44 0 32)) = true) →
      c = { cseq := 0, body := b.take 40, part := p.toNat, entry := e } → s.collDenied g c = none →
      ∃ t, exec (.listEntryStart p) s = .next t ∧ (t.group g).nextSeq = x.nextSeq + 1 ∧
        (t.group g).colls = x.colls ++ [{ c with cseq := x.nextSeq }] ∧
        (∀ r ∈ s.peersOf x, Output.cfPacket (BitVec.ofNat 3 r) (BitVec.ofNat 6 g) x.nextSeq pkHeader
          (cfHeader pkHeader g (s.myRank x) x.nextSeq {} ++ headerBytes (s.ownHeader g c)) ∈ t.out) ∧
        t.host = s.host ∧ t.mem = s.mem ∧ t.ctx = s.ctx ∧ t.plots = s.plots)

/-- A CF_LIST_REGISTER naming an image of its tenant, an open group of the tenant, 1 to 256 entries in the tenant's granules that read without error and an entry check that passes ends OK: the image names the group and holds the entries as they were read. Other images, lists and the stores stand. No such image: SECURITY_DENIED, with detail TENANT where another tenant has one. (R457, R458.) -/
def Obligations.CollectiveListRegisters : Prop :=
  ∀ (s : State) (q : RingNo) (n : Seq) (o : Op), OpReady s q n o 0x33 →
    let g := o.fld 20 0 6
    let ents := o.fld 32 0 9
    let a := o.fld 24 0 48
    let l := s.cisBytes a (64 * ents)
    (∀ k im, s.ctx.images.find? (fun i => i.2.imageId = BitVec.ofNat 32 (o.fld 16 0 32) && i.2.tenant = s.ringTenant q) = some (k, im) →
      (s.group g).isOpen = true → (s.group g).tenant = s.ringTenant q → 1 ≤ ents → ents ≤ 256 →
      s.rangeDetail (s.ringTenant q) a (64 * ents) = none → s.cisStatus a (64 * ents) = stOk →
      (∀ e, e < ents → ∀ c : Coll, c = { cseq := 0, body := (l.drop (64 * e)).take 40 } →
        c.bodyOk = true ∧ c.fld 0 0 6 = g ∧ (c.spread = true ∨ (s.masRow c.src ≠ 2 ∧ s.masRow c.dst ≠ 2 ∧
          (c.accum = false ∨ s.masRow c.dst = 0)))) →
      ∃ t, exec (.cfListRegister q n) s = .next t ∧ t.op? q n = some (o.ended stOk 0 0) ∧
        t.image k = { im with listGroup := some (BitVec.ofNat 6 g) } ∧ sget [] t.cf.lists k = l ∧
        (∀ k', k' ≠ k → t.image k' = s.image k' ∧ sget [] t.cf.lists k' = sget [] s.cf.lists k') ∧
        t = { s with host := { s.host with ops := t.host.ops }, ctx := { s.ctx with images := t.ctx.images },
                     cf := { s.cf with lists := t.cf.lists } }) ∧
    (s.ctx.images.find? (fun i => i.2.imageId = BitVec.ofNat 32 (o.fld 16 0 32) && i.2.tenant = s.ringTenant q) = none →
      exec (.cfListRegister q n) s = .next (s.setOp (o.ended stDenied
        (if s.ctx.images.any (fun i => i.2.imageId = BitVec.ofNat 32 (o.fld 16 0 32)) then dtTenant else 0) 0)))

/-- While one collective runs on the module and a peer's vote of its attempt is missing: a CHUNK of its attempt from a peer, of an index its stream has and that has not come, is recorded and counted once the collective has its landing slots and the channels it needs serve; one of a later attempt is kept, one of an earlier changes nothing. A GRANT raises the window of its peer, never lowers it. While a HEADER of another peer is still missing, a HEADER is recorded and the collective stays in its header phase; for an open group a HEADER of a number not reached is held, for a group not open while fewer than 64 of the peer are. In each case the collective goes on, and the operations, contexts and slots stand. (R453, R461, R462, R463, R464.) -/
def Obligations.PacketsReachCollectives : Prop :=
  ∀ (s : State) (g : BitVec 6) (rank : BitVec 3) (n : Seq), s.runs = true →
    (∀ x ∈ s.cf.groups, ∀ d ∈ x.2.colls, x.1 = g.toNat ∧ d.cseq = n) →
    (∀ c, s.coll? g.toNat n = some c →
      let x := s.collGeom g.toNat c
      (∃ r, r < x.n ∧ r ≠ x.me ∧ sget none c.votes (8 * c.attempt + r) = none) →
      (∀ p : ChunkPkt, c.stopped = false → p.attempt.toNat = c.attempt → c.reserved = true → p.rank.toNat ≠ x.me →
        p.index.toNat < c.contribs x p.rank.toNat x.me + c.results_ x p.rank.toNat →
        c.chunks.any (fun d => d.1 = p.rank.toNat && d.2.1 = p.index.toNat) = false →
        s.landOpen c x p.rank.toNat p.index.toNat = true →
        ∃ t c', exec (.chunk g n p) s = .next t ∧ t.coll? g.toNat n = some c' ∧
          (p.rank.toNat, p.index.toNat, p.data) ∈ c'.chunks ∧ (∀ d ∈ c.chunks, d ∈ c'.chunks) ∧
          t.count ctrChunksRx = satAdd (s.count ctrChunksRx) 1 ∧ t.host = s.host ∧ t.ctx = s.ctx ∧ t.rot = s.rot) ∧
      (∀ p : ChunkPkt, (c.stopped = false → c.attempt < p.attempt.toNat →
          exec (.chunk g n p) s = .next (s.setColl g.toNat { c with early := c.early ++ [p] })) ∧
        (p.attempt.toNat < c.attempt → exec (.chunk g n p) s = .next s)) ∧
      (∀ upto, ∃ t c', exec (.grant g rank n upto) s = .next t ∧ t.coll? g.toNat n = some c' ∧
        sget 64 c'.window rank.toNat = max (sget 64 c.window rank.toNat) upto ∧ c'.chunks = c.chunks ∧
        t.host = s.host ∧ t.ctx = s.ctx ∧ t.rot = s.rot) ∧
      (∀ h r, c.phase = 1 → c.reserved = false → r ∈ s.peersOf (s.group g.toNat) → r ≠ rank.toNat → sget none c.headers r = none →
        ∃ t c', exec (.header g rank n h) s = .next t ∧ t.coll? g.toNat n = some c' ∧
          sget none c'.headers rank.toNat = some h ∧ c'.phase = 1 ∧ t.host = s.host ∧ t.ctx = s.ctx ∧ t.rot = s.rot ∧ t.mem = s.mem)) ∧
    (s.coll? g.toNat n = none → (s.group g.toNat).isOpen = true → (n = (s.group g.toNat).nextSeq ∨ follows n (s.group g.toNat).nextSeq = true) →
      ∀ h, exec (.header g rank n h) s = .next { s with cf := { s.cf with early := s.cf.early ++ [(g.toNat, rank.toNat, n, h)] } }) ∧
    (s.coll? g.toNat n = none → (s.group g.toNat).isOpen = false →
      ∀ h, exec (.header g rank n h) s = .next
        (if (s.cf.early.filter fun e => !(s.group e.1).isOpen && e.2.1 = rank.toNat).length < 64
          then { s with cf := { s.cf with early := s.cf.early ++ [(g.toNat, rank.toNat, n, h)] } } else s))

/-- For the one collective that runs on the module, of a host operation not yet ended, in a group that is not closing: a VOTE with which every member has voted OK commits it, the operation ends OK and COMMITTED counts one; an ABORT with COLL_MISMATCH, COLL_TIMEOUT or COLL_ABORT_PEER ends the operation with that status and detail 0; COLL_TIME_LIMIT before its vote, in a group that does not name slow members, ends it COLL_TIMEOUT and sends ABORT to every other member; and SNAPSHOT_TIMEOUT of a stopped collective ends it COLL_TIMEOUT. The collective is then gone from its group, and the contexts and plots stand, and the stores but for the adds of an ACCUM, whose channels must serve. (R465, R469, R470, R471, R474.) -/
def Obligations.CollectivesEnd : Prop :=
  ∀ (s : State) (g : BitVec 6) (n : Seq) (c : Coll) (q : RingNo) (m : Seq) (o : Op), s.runs = true →
    (∀ x ∈ s.cf.groups, ∀ d ∈ x.2.colls, x.1 = g.toNat ∧ d.cseq = n) → s.coll? g.toNat n = some c → c.host = some (q, m) →
    s.op? q m = some o → o.stage ≠ .done → (s.group g.toNat).closing = none →
    (∀ (rank : BitVec 3) (att : BitVec 2) (ok : Bool), c.stopped = false → att.toNat = c.attempt →
      (c.accum = false ∨ s.collOpen c c.dst 0 (c.dstLen (s.collGeom g.toNat c)) = true) →
      (∀ r, r < (s.group g.toNat).size →
        sget none (sput none c.votes (8 * c.attempt + rank.toNat) (some ok)) (8 * c.attempt + r) = some true) →
      ∃ t, exec (.vote g rank n att ok) s = .next t ∧ t.op? q m = some (o.ended stOk 0 0) ∧ t.coll? g.toNat n = none ∧
        t.count ctrCommitted = satAdd (s.count ctrCommitted) 1 ∧ (c.accum = false → t.mem = s.mem) ∧ t.ctx = s.ctx ∧ t.plots = s.plots) ∧
    (∀ (rank : BitVec 3) (st : BitVec 12), st = stCollMismatch ∨ st = stCollTimeout ∨ st = stCollAbortPeer →
      ∃ t, exec (.abort g rank n st) s = .next t ∧ t.op? q m = some (o.ended st 0 0) ∧ t.coll? g.toNat n = none ∧
        t.mem = s.mem ∧ t.ctx = s.ctx ∧ t.plots = s.plots) ∧
    (c.voted = false → c.stopped = false → (s.group g.toNat).nameMode = false →
      ∃ t, exec (.collTimeLimit g n) s = .next t ∧ t.op? q m = some (o.ended stCollTimeout 0 0) ∧ t.coll? g.toNat n = none ∧
        (∀ r ∈ s.peersOf (s.group g.toNat),
          Output.cfPacket (BitVec.ofNat 3 r) g n pkAbort
            (cfHeader pkAbort g.toNat (s.myRank (s.group g.toNat)) n { attempt := c.attempt } ++ leBytes 2 stCollTimeout.toNat) ∈ t.out) ∧
        t.mem = s.mem ∧ t.ctx = s.ctx ∧ t.plots = s.plots) ∧
    (c.stopped = true →
      ∃ t, exec (.snapshotTimeout g n) s = .next t ∧ t.op? q m = some (o.ended stCollTimeout 0 0) ∧ t.coll? g.toNat n = none ∧
        t.mem = s.mem ∧ t.ctx = s.ctx ∧ t.plots = s.plots)

/-- For the one collective that runs on the module, not stopped: STOP, and COLL_TIME_LIMIT before its vote in a group that names slow members, stop it and send its SNAPSHOT to every other member, while another member's SNAPSHOT is missing. A SNAPSHOT with which those of all members are held ends a stopped collective of a host operation COLL_SLOW_MEMBER, with the rank and the module of the slowest as its detail: the one of the lowest phase, then of the fewest chunks, then of the lowest rank; with one still missing it is recorded. STOP of a number not reached answers a SNAPSHOT of phase 0 to every other member. (R471.) -/
def Obligations.SlowMembersAreNamed : Prop :=
  ∀ (s : State) (g : BitVec 6) (rank : BitVec 3) (n : Seq), s.runs = true →
    (∀ x ∈ s.cf.groups, ∀ d ∈ x.2.colls, x.1 = g.toNat ∧ d.cseq = n) →
    let x := s.group g.toNat
    (∀ c r0, s.coll? g.toNat n = some c → r0 < x.size → r0 ≠ s.myRank x → sget none c.snaps r0 = none → c.stopped = false →
      ∀ cmd, cmd = .stop g rank n ∨ (cmd = .collTimeLimit g n ∧ x.nameMode = true ∧ c.voted = false) →
      ∃ t c', exec cmd s = .next t ∧ t.coll? g.toNat n = some c' ∧ c'.stopped = true ∧
        (∀ r ∈ s.peersOf x, Output.cfPacket (BitVec.ofNat 3 r) g n pkSnapshot
          (cfHeader pkSnapshot g.toNat (s.myRank x) n { attempt := c.attempt } ++ (leBytes 1 c.phase ++ leBytes 4 c.progress)) ∈ t.out) ∧
        t.host = s.host ∧ t.mem = s.mem ∧ t.ctx = s.ctx ∧ t.rot = s.rot) ∧
    (∀ c (ph : BitVec 2) (k : Nat) q m o, s.coll? g.toNat n = some c → c.stopped = true → c.host = some (q, m) → s.op? q m = some o →
      o.stage ≠ .done → x.closing = none → rank.toNat < x.size →
      let sn := sput none c.snaps rank.toNat (some (ph.toNat, k))
      (∀ r, r < x.size → sget none sn r ≠ none) →
      ∃ t d, exec (.snapshot g rank n ph k) s = .next t ∧ t.op? q m = some (o.ended stCollSlowMember d 0) ∧ t.coll? g.toNat n = none ∧
        (∃ r v, r < x.size ∧ sget none sn r = some v ∧ d = slowDetail x r ∧ ∀ r' v', r' < x.size → sget none sn r' = some v' →
          v.1 < v'.1 ∨ (v.1 = v'.1 ∧ (v.2 < v'.2 ∨ (v.2 = v'.2 ∧ r ≤ r')))) ∧ t.mem = s.mem ∧ t.ctx = s.ctx ∧ t.plots = s.plots) ∧
    (∀ c (ph : BitVec 2) (k : Nat) r0, s.coll? g.toNat n = some c → c.stopped = true → r0 < x.size → r0 ≠ rank.toNat →
      sget none c.snaps r0 = none →
      ∃ t c', exec (.snapshot g rank n ph k) s = .next t ∧ t.coll? g.toNat n = some c' ∧
        sget none c'.snaps rank.toNat = some (ph.toNat, k) ∧ t.host = s.host ∧ t.mem = s.mem ∧ t.ctx = s.ctx ∧ t.rot = s.rot) ∧
    (s.coll? g.toNat n = none → x.isOpen = true → n = x.nextSeq ∨ follows n x.nextSeq = true → x.aborted.any (fun a => a.1 = n) = false →
      ∃ t, exec (.stop g rank n) s = .next t ∧ (t.group g.toNat).aborted = x.aborted ++ [(n, stCollSlowMember)] ∧
        (∀ r ∈ s.peersOf x, Output.cfPacket (BitVec.ofNat 3 r) g n pkSnapshot
          (cfHeader pkSnapshot g.toNat (s.myRank x) n {} ++ (leBytes 1 0 ++ leBytes 4 0)) ∈ t.out) ∧
        t.host = s.host ∧ t.mem = s.mem)

/-- AQ_LOAD_BEGIN of an EMPTY extent with room and a free aligned range, or a VALID extent of the tenant and size that it replaces, ends OK with the extent LOADING. AQ_LOAD_DATA in order of offset, with the staging area free or its own and its channels serving, ends OK with its units programmed, those of the area where it holds them already; while programs are suspended it runs and keeps the area. AQ_LOAD_COMMIT of a whole load whose digest matches ends OK with the extent VALID, a replaced one RETIRING, its range of the window holding the data, and no cache unit of the range; when the digest differs the extent is EMPTY and the operation ends SECURITY_DENIED. AQ_FREE makes a VALID extent RETIRING; commits that replace and frees wait while a lift reads the range. EXTENT_ERASE_DONE makes a RETIRING extent EMPTY, and its units that lie in no VALID extent read zero. Other extents stand. (R381, R392, R393, R394, R395, R399, R631.) -/
def Obligations.AquiferLoads : Prop :=
  ∀ (s : State) (q : RingNo) (n : Seq) (o : Op) (e : Nat) (x : Extent), o.fld 16 0 8 = e → s.extent e = x →
    let others := fun (t : State) => ∀ k, k ≠ e → t.extent k = s.extent k
    (OpReady s q n o 0x40 → x.st = .empty → ∀ units addr, units = o.fld 20 0 32 → addr = o.fld 24 0 48 → 1 ≤ units → units ≤ aqUnits →
      o.fld 33 0 1 = 0 → addr % 65536 = 0 → aqBase ≤ addr → addr + units * 65536 ≤ aqBase + aqUnits * 65536 →
      s.extentOverlap ((addr - aqBase) / 65536) units = false → units ≤ s.freeUnits →
      ∃ t, exec (.aqLoadBegin q n) s = .next t ∧ t.op? q n = some (o.ended stOk 0 0) ∧
        t.extent e = { st := .loading, base := (addr - aqBase) / 65536, units := units,
                       owner := (s.tenant (s.ringTenant q).toNat).owner, loads := x.loads + 1 } ∧
        t.aqf.gen = s.aqf.gen + 1 ∧ others t ∧ t.mem = s.mem ∧ t.ctx = s.ctx) ∧
    (OpReady s q n o 0x40 → x.st = .empty → ∀ units r y, units = o.fld 20 0 32 → o.fld 33 0 1 = 1 → r = o.fld 32 0 8 → s.extent r = y →
      y.st = .valid → s.extentTenant y = some (s.ringTenant q).toNat → y.units = units → 1 ≤ units → units ≤ aqUnits → units ≤ s.freeUnits →
      ∃ t, exec (.aqLoadBegin q n) s = .next t ∧ t.op? q n = some (o.ended stOk 0 0) ∧
        t.extent e = { st := .loading, base := y.base, units := units, owner := (s.tenant (s.ringTenant q).toNat).owner,
                       loads := x.loads + 1, replace := some r } ∧
        t.aqf.gen = s.aqf.gen + 1 ∧ others t ∧ t.mem = s.mem ∧ t.ctx = s.ctx) ∧
    (OpGoes s q n o 0x41 → x.st = .loading → ∀ (data : List Byte) count, count = o.fld 24 0 10 + 1 → o.fld 20 0 32 = x.written →
      x.written + count ≤ x.units → s.extentTenant x = some (s.ringTenant q).toNat →
      (s.aqf.staging = none ∨ s.aqf.staging = some (q, n)) → s.cisOpen 0x4000000 (count * 65536) = true →
      (s.programsSuspended = false →
        ∃ t, exec (.aqLoadData q n data) s = .next t ∧ t.op? q n = some (o.ended stOk 0 0) ∧
          t.extent e = { x with written := x.written + count, data := x.data ++ (if s.aqf.staging = none then data.take (count * 65536)
            else s.cisBytes 0x4000000 (count * 65536)) } ∧ t.aqf.staging = none ∧
          others t ∧ t.mem.aqua = s.mem.aqua ∧ t.ctx = s.ctx) ∧
      (s.programsSuspended = true →
        ∃ t, exec (.aqLoadData q n data) s = .next t ∧ t.op? q n = some o.started ∧ t.aqf.staging = some (q, n) ∧
          t.extent e = x ∧ others t ∧ t.mem.aqua = s.mem.aqua ∧ t.ctx = s.ctx)) ∧
    (OpGoes s q n o 0x42 → x.st = .loading → x.written = x.units → s.extentTenant x = some (s.ringTenant q).toNat → (∀ r, x.replace = some r → r ≠ e) →
      ∀ digest,
      (sha384 x.data = digest → (x.replace = none ∨ s.rangeRead x.base x.units = false) →
        ∃ t, exec (.aqLoadCommit q n digest) s = .next t ∧ t.op? q n = some (o.ended stOk 0 0) ∧
          t.extent e = { x with st := .valid, data := [], replace := none } ∧
          (∀ r, x.replace = some r → t.extent r = { s.extent r with st := .retiring }) ∧ t.aqf.gen = s.aqf.gen + 1 ∧
          readBytes t.mem.aqua (aqBase + x.base * 65536) x.data.length = x.data ∧
          (∀ y ∈ t.aqf.wc, ¬(x.base ≤ y.2.aq ∧ y.2.aq < x.base + x.units)) ∧
          (∀ k, k ≠ e → x.replace ≠ some k → t.extent k = s.extent k) ∧ t.mem.cis = s.mem.cis ∧ t.ctx = s.ctx) ∧
      (sha384 x.data = digest → x.replace.isSome = true → s.rangeRead x.base x.units = true →
        exec (.aqLoadCommit q n digest) s = .next (s.setOp o.started)) ∧
      (sha384 x.data ≠ digest →
        ∃ t, exec (.aqLoadCommit q n digest) s = .next t ∧ t.op? q n = some (o.ended stDenied 0 0) ∧
          (t.extent e).st = .empty ∧ others t ∧ t.mem = s.mem ∧ t.ctx = s.ctx)) ∧
    (OpGoes s q n o 0x43 → x.st = .valid → s.extentTenant x = some (s.ringTenant q).toNat →
      (s.rangeRead x.base x.units = true → exec (.aqFree q n) s = .next (s.setOp o.started)) ∧
      (s.rangeRead x.base x.units = false → ∃ t, exec (.aqFree q n) s = .next t ∧ t.op? q n = some (o.ended stOk 0 0) ∧ t.extent e = { x with st := .retiring } ∧
        (∀ y ∈ t.aqf.wc, ¬(x.base ≤ y.2.aq ∧ y.2.aq < x.base + x.units)) ∧ others t ∧ t.mem = s.mem ∧ t.ctx = s.ctx)) ∧
    (∀ b : BitVec 8, b.toNat = e → s.runs = true → x.st = .retiring →
      ∃ t, exec (.extentEraseDone b) s = .next t ∧ t.extent e = { loads := x.loads } ∧ others t ∧
        (∀ a, let mine := aqBase + x.base * 65536 ≤ a ∧ a < aqBase + (x.base + x.units) * 65536 ∧ s.unitValid ((a - aqBase) / 65536) = false
          (mine → readBytes t.mem.aqua a 1 = [0]) ∧ (¬mine → readBytes t.mem.aqua a 1 = readBytes s.mem.aqua a 1)) ∧
        t.mem.cis = s.mem.cis ∧ t.mem.resv = s.mem.resv ∧ t.host = s.host)

/-- WC_FILL_DONE of a FILLING unit whose four pages have been read makes it READY with the bytes of its Aquifer unit, once the channels it is written to serve. WC_FLUSH clears every sticky mark and no other part of a unit. DIE_RETIRE sets the die's bit of AQ_CH_CTL and keeps those set. BLOCK_REFRESH zeroes the block's read count and counts a refresh; no content changes. A NAND package above 85 degrees stops the module with cause 2 and its number; otherwise programs are suspended just while some package is above 70. (R389, R390, R398, R410, R589, R619, R631.) -/
def Obligations.CacheAndDies : Prop :=
  ∀ (s : State), s.runs = true →
    (∀ u, (s.wcUnit u).st = .filling → (s.wcUnit u).pages = 15 → s.cisOpen (s.wcAddr u) 65536 = true →
      ∃ t, exec (.wcFillDone u) s = .next t ∧ t.wcUnit u = { s.wcUnit u with st := .ready } ∧
        t.cisBytes (s.wcAddr u) 65536 = readBytes s.mem.aqua (aqBase + (s.wcUnit u).aq * 65536) 65536 ∧
        (∀ a, s.cisSpares (s.wcAddr u) 65536 a → t.cisBytes a 1 = s.cisBytes a 1) ∧
        (∀ v, v ≠ u → t.wcUnit v = s.wcUnit v) ∧ t.mem.aqua = s.mem.aqua ∧ Traffic s t ∧
        t = { s.withTraffic t with aqf := { s.aqf with wc := t.aqf.wc } }) ∧
    (∃ t, exec .wcFlush s = .next t ∧ t.aqf.wc = s.aqf.wc.map (fun x => (x.1, { x.2 with sticky := none })) ∧
      t = { s with aqf := { s.aqf with wc := t.aqf.wc } }) ∧
    (∀ (ch : BitVec 5) (die : BitVec 3), ∃ t, exec (.dieRetire ch die) s = .next t ∧
      (∀ k, k < 8 → (t.rd AQ_CH_CTL_DIE_RETIRED ch.toNat).testBit k =
        ((s.rd AQ_CH_CTL_DIE_RETIRED ch.toNat).testBit k || decide (k = die.toNat))) ∧
      (∀ c, c ≠ ch.toNat → t.rd AQ_CH_CTL_DIE_RETIRED c = s.rd AQ_CH_CTL_DIE_RETIRED c) ∧ t = { s with regs := t.regs }) ∧
    (∀ (ch : BitVec 5) (block : Nat), ∃ t, exec (.blockRefresh ch block) s = .next t ∧
      sget 0 t.aqf.blockReads (ch.toNat * 2 ^ 32 + block) = 0 ∧
      t.count ctrAqRefreshes = satAdd (s.count ctrAqRefreshes) 1 ∧ t.mem = s.mem ∧ t.host = s.host ∧ t.aqf.extents = s.aqf.extents) ∧
    (∀ (pkg : BitVec 5) (c : Nat),
      (c ≤ 85 → ∃ t, exec (.nandCaseTemperature pkg c) s = .next t ∧ (pkg.toNat ∈ t.aqf.nandHot ↔ 70 < c) ∧
        (∀ k, k ≠ pkg.toNat → (k ∈ t.aqf.nandHot ↔ k ∈ s.aqf.nandHot)) ∧
        t = { s with aqf := { s.aqf with nandHot := t.aqf.nandHot } }) ∧
      (85 < c → ∃ t, exec (.nandCaseTemperature pkg c) s = .next t ∧ t.boot.stopped = true ∧ t.rd RST_CAUSE_STOP_CAUSE = 2 ∧
        t.rd RST_CAUSE_DETAIL = pkg.toNat ∧ t.mem = s.mem ∧ t.host = s.host))

/-- In its turn, WM_ATTEST advances the report's sequence number, counts it, writes the 256 bytes of the report and its 96 signature bytes at the output address and ends OK once the write is acknowledged; on a module that came up EXHAUSTED it ends ATTEST_EXHAUSTED. WM_IDENTITY writes the bundle, in packets of at most 4,096 bytes, and ends OK where SIZE suffices; where it does not, it is refused with SPACE, which is counted for the tenant. The report's signature and the bundle's items are free values (log entry 1). (R554, R559, R560, R576.) -/
def Obligations.WatermasterReports : Prop :=
  ∀ (s : State) (q : RingNo) (n : Seq) (o : Op),
    (WmReady s q n o 0x50 →
      (s.flag WM_STATUS_EXHAUSTED = false →
        ∃ t tag, exec (.wmAttest q n) s = .next t ∧ t.op? q n = some { o.ended stOk 0 0 with unacked := o.unacked + 1 } ∧
          t.wm.rseq = s.wm.rseq + 1 ∧ (s.reportBytes o (s.wm.rseq + 1)).length = 256 ∧
          Output.memWrite (s.halfOf q) tag (BitVec.ofNat 64 (o.fld 16 0 64))
            (s.reportBytes o (s.wm.rseq + 1) ++ signatureBytes (s.wm.rseq + 1).toNat) ∈ t.out ∧
          t.count ctrAttests = satAdd (s.count ctrAttests) 1 ∧ t.mem = s.mem ∧ t.ctx = s.ctx ∧ t.wm = { s.wm with rseq := t.wm.rseq }) ∧
      (s.flag WM_STATUS_EXHAUSTED = true → exec (.wmAttest q n) s = .next (s.setOp (o.ended stAttestExhausted 0 0)))) ∧
    (WmReady s q n o 0x51 →
      (s.bundleSize ≤ o.fld 24 0 32 →
        let k := (s.bundleSize + 4095) / 4096
        ∃ t, exec (.wmIdentity q n) s = .next t ∧ t.op? q n = some { o.ended stOk 0 0 with unacked := o.unacked + k } ∧
          (∀ i, i < k → ∃ tag, Output.memWrite (s.halfOf q) tag (BitVec.ofNat 64 (o.fld 16 0 64 + 4096 * i))
            ((s.bundleBytes.drop (4096 * i)).take 4096) ∈ t.out) ∧
          t.mem = s.mem ∧ t.ctx = s.ctx ∧ t.wm = s.wm) ∧
      (o.fld 24 0 32 < s.bundleSize →
        ∃ t, exec (.wmIdentity q n) s = .next t ∧ t.op? q n = some (o.ended stDenied dtSpace 0) ∧
          t.count ctrRefused (s.ringTenant q).toNat = satAdd (s.count ctrRefused (s.ringTenant q).toNat) 1 ∧
          t.mem = s.mem ∧ t.ctx = s.ctx ∧ t.wm = s.wm))

/-- In its turn, WM_TENANT_CREATE of a FREE tenant under a valid claim of a new owner makes it ACTIVE with its EPOCH one higher; WM_GRANT to an ACTIVE tenant of idle indices that tenant 0 holds gives it them (rings, partitions and granules each name it); both end OK. WM_TENANT_REVOKE of an ACTIVE tenant of which nothing remains once its work has been ended ends OK: the tenant is FREE, and no ring, partition, granule, session, model, policy, image or group is its own. Otherwise it is REVOKING, and the operation runs on. (R563, R564, R566, R567.) -/
def Obligations.TenantsComeAndGo : Prop :=
  ∀ (s : State) (q : RingNo) (n : Seq) (o : Op) (k : TenantNo), o.fld 16 0 6 = k.toNat → k ≠ 0 →
    (WmReady s q n o 0x52 → s.rd WM_TENANT_STATE k.toNat = 0 → ∀ fp, s.ownerTaken fp = false →
      ∃ t, exec (.wmTenantCreate q n fp true) s = .next t ∧ t.op? q n = some (o.ended stOk 0 0) ∧
        t.rd WM_TENANT_STATE k.toNat = 1 ∧
        t.rd WM_TENANT_EPOCH k.toNat = (s.rd WM_TENANT_EPOCH k.toNat + 1) % 2 ^ 32 ∧ t.tenant k.toNat = { owner := fp } ∧
        (∀ j, j ≠ k.toNat → t.tenant j = s.tenant j) ∧ t.mem = s.mem ∧ t.ctx = s.ctx) ∧
    (WmReady s q n o 0x54 → s.rd WM_TENANT_STATE k.toNat = 1 → ∀ kind first count, kind = o.fld 17 0 2 → first = o.fld 20 0 32 →
      count = o.fld 24 0 32 → 1 ≤ count → first + count - 1 ≤ grantLast kind → s.grantIdle kind first count = true →
      ∃ t, exec (.wmGrant q n) s = .next t ∧ t.op? q n = some (o.ended stOk 0 0) ∧
        (∀ i, first ≤ i → i < first + count →
          (kind = 0 → t.rd RING_CTL_TENANT i = k.toNat) ∧ (kind = 2 → t.partTenant i = k) ∧ (kind = 3 → t.granTenant i = k)) ∧
        (∀ i, i < first ∨ first + count ≤ i →
          t.rd RING_CTL_TENANT i = s.rd RING_CTL_TENANT i ∧ t.partTenant i = s.partTenant i ∧ t.granTenant i = s.granTenant i) ∧
        (kind = 1 → (s.tenant k.toNat).streamCount = 0 →
          (t.tenant k.toNat).streamFirst = first ∧ (t.tenant k.toNat).streamCount = count) ∧
        t.ctx = s.ctx ∧ t.plots = s.plots) ∧
    (WmReady s q n o 0x53 → s.rd WM_TENANT_STATE k.toNat = 1 →
      let s1 := (s.begin_ o).revokeBegin k (o.fld 17 0 1 = 1)
      ∀ p, s1.op? q n = some p →
        (s1.revokeDrained k = true →
          ∃ t, exec (.wmTenantRevoke q n) s = .next t ∧ t.op? q n = some (p.ended stOk 0 0) ∧ t.rd WM_TENANT_STATE k.toNat = 0 ∧
            (∀ i, i < 64 → t.partTenant i ≠ k) ∧ (∀ i, i < 4096 → t.rd RING_CTL_TENANT i ≠ k.toNat) ∧ (∀ y ∈ t.wm.granOwner, y.2 ≠ k) ∧
            (∀ x ∈ t.ctx.models, x.2.tenant ≠ k) ∧ (∀ x ∈ t.ctx.policies, x.2.tenant ≠ k) ∧ (∀ x ∈ t.ctx.images, x.2.tenant ≠ k) ∧
            (∀ x ∈ t.vid.dec, x.2.tenant ≠ k) ∧ (∀ x ∈ t.vid.enc, x.2.tenant ≠ k) ∧ (∀ x ∈ t.cf.groups, x.2.tenant ≠ k)) ∧
        (s1.revokeDrained k = false → exec (.wmTenantRevoke q n) s = .next s1))

/-- In its turn, WM_RING_MAINT ends OK with MAINT of the ring it names as it asks, in RING_CTL and in the tenant table, and every other field and ring as before; when the ring's tenant is REVOKING it is refused with detail TENANT_STATE, and the mark stands. (R565.) -/
def Obligations.RingMaintenanceMark : Prop :=
  ∀ (s : State) (q : RingNo) (n : Seq) (o : Op), WmReady s q n o 0x55 →
    let r := o.fld 16 0 12
    (s.tenantState (s.rd RING_CTL_TENANT r) ≠ 2 →
      ∃ t, exec (.wmRingMaint q n) s = .next t ∧ t.op? q n = some (o.ended stOk 0 0) ∧ t.rd RING_CTL_MAINT r = o.fld 18 0 1 ∧
        sget (0 : BitVec 7) t.wm.ringTab r = BitVec.ofNat 7 (s.rd RING_CTL_TENANT r + 64 * o.fld 18 0 1) ∧
        (∀ g m, Fld.apart RING_CTL_MAINT r g m → t.rd g m = s.rd g m) ∧
        t = { s with regs := t.regs, host := { s.host with ops := t.host.ops }, wm := { s.wm with ringTab := t.wm.ringTab } }) ∧
    (s.tenantState (s.rd RING_CTL_TENANT r) = 2 →
      ∃ t, exec (.wmRingMaint q n) s = .next t ∧ t.op? q n = some (o.ended stDenied dtTenantState 0) ∧
        t.rd RING_CTL_MAINT r = s.rd RING_CTL_MAINT r ∧ t.wm = s.wm ∧ t.mem = s.mem ∧ t.ctx = s.ctx)

/-- In its turn, a WM_COMPONENT in the tenant's granules that reads without error on channels that serve and that R552 accepts, of a security version not below SVN_MIN, ends OK: a boot kind stands in the bank that did not boot, which boots next where the operation asks; an SFU image is copied to a place of the component area, whose address below 2^26 is the result. A component R552 does not accept is refused with SIGNATURE, an older one with ROLLBACK, and no bank or copy changes. WM_SVN_COMMIT of a kind whose running version is at most 64 raises SVN_MIN to it, and above 64 is refused with SVN_FUSES. (R549, R552, R558, R381.) -/
def Obligations.ComponentsAndVersions : Prop :=
  ∀ (s : State) (q : RingNo) (n : Seq) (o : Op),
    (WmReady s q n o 0x56 → ∀ (sigOk : Bool) (a len : Nat), a = o.fld 16 0 48 → len = o.fld 24 0 32 →
      s.rangeDetail (s.ringTenant q) a len = none → s.cisOpen a len = true →
      let read := s.cisRead none a len
      read.1 = stOk →
      let kind := s.manifest a 4 1
      let svn := s.manifest a 8 4
      let ok := s.componentOk (read.2.seepOne .wm 0 1).hit.isSome a len sigOk
      let frame := fun t => Traffic s t ∧ t = { s.withTraffic t with host := { s.host with ops := t.host.ops }, wm := t.wm }
      (ok = true → sget 0 s.wm.svnMin kind ≤ svn → kind ≠ 4 →
        ∃ t, exec (.wmComponent q n sigOk) s = .next t ∧ t.op? q n = some (o.ended stOk 0 0) ∧
          (∃ c ∈ (if s.flag WM_STATUS_BANK then t.wm.bankA else t.wm.bankB), c.kind = kind ∧ c.svn = svn ∧ c.measure = sha384 (s.cisBytes a 64)) ∧
          (if s.flag WM_STATUS_BANK then t.wm.bankB = s.wm.bankB else t.wm.bankA = s.wm.bankA) ∧
          (o.fld 28 0 1 = 1 → t.wm.nextBank = some (!s.flag WM_STATUS_BANK)) ∧
          t.wm = { s.wm with bankA := t.wm.bankA, bankB := t.wm.bankB, nextBank := t.wm.nextBank } ∧ t.mem = read.2.mem ∧ frame t) ∧
      (ok = true → sget 0 s.wm.svnMin kind ≤ svn → kind = 4 → ∀ d, s.copyPlace = some d → s.cisOpen d len = true →
        ∃ t, exec (.wmComponent q n sigOk) s = .next t ∧ t.op? q n = some (o.ended stOk 0 (BitVec.ofNat 32 d)) ∧
          (∃ c ∈ t.wm.sfuCopies, c.addr = d ∧ c.kind = 4 ∧ c.svn = svn ∧ c.measure = sha384 (s.cisBytes a 64)) ∧ t.cisBytes d len = s.cisBytes a len ∧
          (∀ b, s.cisSpares d len b → t.cisBytes b 1 = read.2.cisBytes b 1) ∧ t.wm = { s.wm with sfuCopies := t.wm.sfuCopies } ∧ frame t) ∧
      (ok = false →
        ∃ t, exec (.wmComponent q n sigOk) s = .next t ∧ t.op? q n = some (o.ended stDenied dtSignature 0) ∧ t.wm = s.wm ∧
          t.mem = read.2.mem ∧ frame t) ∧
      (ok = true → svn < sget 0 s.wm.svnMin kind →
        ∃ t, exec (.wmComponent q n sigOk) s = .next t ∧ t.op? q n = some (o.ended stDenied dtRollback 0) ∧ t.wm = s.wm ∧
          t.mem = read.2.mem ∧ frame t)) ∧
    (WmReady s q n o 0x57 → o.fld 16 0 8 ≤ 4 → let k := o.fld 16 0 8
      (s.runningSvn k ≤ 64 →
        ∃ t, exec (.wmSvnCommit q n) s = .next t ∧ t.op? q n = some (o.ended stOk 0 0) ∧
          sget 0 t.wm.svnMin k = max (sget 0 s.wm.svnMin k) (s.runningSvn k) ∧
          (∀ j, j ≠ k → sget 0 t.wm.svnMin j = sget 0 s.wm.svnMin j) ∧
          t = { s with host := { s.host with ops := t.host.ops }, wm := { s.wm with svnMin := t.wm.svnMin } }) ∧
      (64 < s.runningSvn k →
        ∃ t, exec (.wmSvnCommit q n) s = .next t ∧ t.op? q n = some (o.ended stDenied dtSvnFuses 0) ∧ t.wm = s.wm ∧ t.mem = s.mem))

/-- ACCESS_VIOLATION counts one for its tenant, raises WM_VIOLATION when VIOL_EN is 1 and, while WM_LOG is clear, logs the access; BAD_ACCESS counts one; neither changes another field of a register, a store, a stream or the queue. A JTAG instruction is accepted when it is mandatory or the module has DEBUG burned, and refused otherwise. (R571, R574, R604.) -/
def Obligations.RefusedAccesses : Prop :=
  ∀ (s : State),
    (s.runs = true → ∀ (k : TenantNo) (off : BitVec 32) (w : Bool),
      ∃ t, exec (.accessViolation k off w) s = .next t ∧
        t.count ctrViolations k.toNat = satAdd (s.count ctrViolations k.toNat) 1 ∧
        (s.flag WM_LOG_VALID = false → t.rd WM_LOG_VALID = 1 ∧ t.rd WM_LOG_KIND = 0 ∧ t.rd WM_LOG_TENANT = k.toNat) ∧
        (s.flag WM_CTL_VIOL_EN = true → (t.rd EVT_STATUS_EVENTS).testBit evWmViolation = true) ∧
        (∀ g m, regOff g.reg m ≠ regOff .wmLog 0 → regOff g.reg m ≠ regOff .evtStatus 0 → t.rd g m = s.rd g m) ∧
        t.mem = s.mem ∧ t.host = s.host ∧ t.ctx = s.ctx ∧ t.pending = s.pending) ∧
    (s.runs = true → ∀ w, ∃ t, exec (.badAccess w) s = .next t ∧ t.count ctrBadAccess = satAdd (s.count ctrBadAccess) 1 ∧
      (∀ g m, regOff g.reg m ≠ regOff .evtStatus 0 → t.rd g m = s.rd g m) ∧ t.mem = s.mem ∧ t.host = s.host ∧ t.ctx = s.ctx) ∧
    (∀ (code : BitVec 8) (m : Bool), ∃ t, exec (.jtagInstruction code m) s = .next t ∧
      ((m = true ∨ s.flag WM_STATUS_DEBUG = true) → t.boot.jtagCode = some code ∧ t.out = s.out ++ [.jtag code true]) ∧
      (m = false → s.flag WM_STATUS_DEBUG = false → t.boot = s.boot ∧ t.out = s.out ++ [.jtag code false]) ∧
      t = { s with boot := t.boot, out := t.out })

/-- On a link that is UP whose lane seep does not act: a good flit whose number follows the last one taken, and which where it ends a packet of data has a good tag and a sense the protocol has, is taken; where it carries data its buffer is freed, its credit count is noted, and where it is a NAK every flit kept from ACK + 1 on is sent again. A good flit out of sequence takes nothing. A flit that fails its CRC while no replay runs starts one and sends a NAK with the last good number, and the 16th failure in succession retrains the link; a packet whose tag fails for the first time is asked for again from its first flit. The stores, operations and streams stand. LANE_FAIL of a port that is UP and has its spare moves the lane to it, and the port stays UP with the lane in SPARED; with the spare in use the port is FAILED with reason 5 (said where no link was agreed or another port of its bundle is UP, so that no peer is lost). LANE_FAIL of a Dexlink half that is UP retrains it. REKEY of a link that is UP agrees one more key and counts it. The stores and operations stand. (R442, R443, R445, R446, R448, R526, R527.) -/
def Obligations.FlitsLanesAndKeys : Prop :=
  (
  ∀ (s : State) (l : Link) (f : FlitIn), s.runs = true → s.linkState l = lkUp →
    let x := s.link (linkIdx l)
    (s.laneSeep l).hit = none →
    (f.crcOk = true → f.fseq = x.lastGood + 1 → f.vc = 3 ∨ f.eop = false ∨ (f.tagOk = true ∧ f.protoOk = true) →
      ∃ t, exec (.flit l f) s = .next t ∧ (t.link (linkIdx l)).lastGood = f.fseq ∧ (t.link (linkIdx l)).replaying = false ∧
        (t.link (linkIdx l)).fails = 0 ∧ sget (0 : BitVec 12) (t.link (linkIdx l)).freed f.cvc.toNat = f.credit ∧
        (f.vc ≠ 3 → sget (0 : BitVec 12) (t.link (linkIdx l)).rxFreed f.vc.toNat = sget (0 : BitVec 12) x.rxFreed f.vc.toNat + 1) ∧
        (f.nak = true → ∀ y ∈ x.retry.drop (x.retry.length - (x.txNext - (f.ack + 1)).toNat), ∃ g,
          Output.flit (linkOf (linkIdx l)) g ∈ t.out ∧ { g with crcOk := y.1.crcOk, tagOk := y.1.tagOk } = y.1) ∧
        (∀ k, k ≠ linkIdx l → t.link k = s.link k) ∧ t.mem = s.mem ∧ t.host = s.host ∧ t.ctx = s.ctx ∧ t.boot = s.boot) ∧
    (f.crcOk = true → f.fseq ≠ x.lastGood + 1 →
      ∃ t, exec (.flit l f) s = .next t ∧ t.lnk = s.lnk ∧ t.out = s.out ∧ t.mem = s.mem ∧ t.host = s.host ∧ t.ctx = s.ctx) ∧
    (f.crcOk = false → x.replaying = false →
      (x.fails + 1 < 16 → ∃ t, exec (.flit l f) s = .next t ∧
        t.link (linkIdx l) = { x with replaying := true, fails := x.fails + 1 } ∧ Output.flitNak l x.lastGood ∈ t.out ∧
        t.linkState l = lkUp ∧ t.mem = s.mem ∧ t.host = s.host ∧ t.ctx = s.ctx) ∧
      (16 ≤ x.fails + 1 → ∃ t, exec (.flit l f) s = .next t ∧ t.linkState l = lkTraining ∧ Output.flitNak l x.lastGood ∈ t.out ∧
        t.mem = s.mem ∧ t.host = s.host ∧ t.ctx = s.ctx)) ∧
    (f.crcOk = true → f.fseq = x.lastGood + 1 → f.vc ≠ 3 → f.eop = true → f.tagOk = false → x.tagFailed = false →
      let first := if f.sop then x.lastGood else x.sopPrev
      ∃ t, exec (.flit l f) s = .next t ∧ (t.link (linkIdx l)).lastGood = first ∧ (t.link (linkIdx l)).replaying = true ∧
        (t.link (linkIdx l)).tagFailed = true ∧ Output.flitNak l first ∈ t.out ∧ t.linkState l = lkUp ∧
        t.mem = s.mem ∧ t.host = s.host ∧ t.ctx = s.ctx)) ∧
  (
  ∀ (s : State), s.runs = true →
    (∀ (p : BitVec 3) (lane : BitVec 4), s.rd CF_PORT_STATE p.toNat = lkUp → lane.toNat ≤ 8 →
      (lane.toNat < 8 → s.rd CF_PORT_SPARED p.toNat = 15 →
        ∃ t, exec (.laneFail (.cf p) lane) s = .next t ∧ t.rd CF_PORT_SPARED p.toNat = lane.toNat ∧ t.rd CF_PORT_STATE p.toNat = lkUp ∧
          t.count ctrLaneSwaps p.toNat = satAdd (s.count ctrLaneSwaps p.toNat) 1 ∧ t.mem = s.mem ∧ t.host = s.host ∧ t.lnk = s.lnk) ∧
      (s.rd CF_PORT_SPARED p.toNat ≠ 15 → s.rd CF_PORT_SPARED p.toNat ≠ lane.toNat →
        ((s.link p.toNat).keys = 0 ∨ ∃ r < 8, r ≠ p.toNat ∧ s.rd CF_PORT_PEER r = s.rd CF_PORT_PEER p.toNat ∧ s.rd CF_PORT_STATE r = lkUp) →
        ∃ t, exec (.laneFail (.cf p) lane) s = .next t ∧ t.rd CF_PORT_STATE p.toNat = lkFailed ∧ t.rd CF_PORT_REASON p.toNat = 5 ∧
          t.mem = s.mem ∧ t.host = s.host)) ∧
    (∀ (h : BitVec 1) (lane : BitVec 4), s.rd DEX_HALF_STATE h.toNat = lkUp →
      ∃ t, exec (.laneFail (.dex h) lane) s = .next t ∧ t.rd DEX_HALF_STATE h.toNat = lkTraining ∧ t.mem = s.mem ∧ t.host = s.host) ∧
    (∀ (l : Link), s.linkState l = lkUp →
      ∃ t, exec (.rekey l) s = .next t ∧ (t.link (linkIdx l)).keys = (s.link (linkIdx l)).keys + 1 ∧
        t.count ctrLinkAgreements = satAdd (s.count ctrLinkAgreements) 1 ∧ (∀ k, k ≠ linkIdx l → t.link k = s.link k) ∧
        t.mem = s.mem ∧ t.host = s.host ∧ t.ctx = s.ctx))

/-- ENABLE of a DISABLED port or half starts its training; RETRAIN of one that is UP takes it back to TRAINING and counts. CF_PORT_TRAIN of a TRAINING port whose steps all pass makes it UP with no reason, its peer, loop time and spared lane in its register and one more key, and raises CF_PORT; one of which a step fails goes FAILED with that step's reason (said where no peer is lost). DEX_HALF_TRAIN of a TRAINING half makes it UP under SPLIT 1, or both under SPLIT 0 once both have passed; a half that fails has its reason, stops the module with cause 6 and raises DEX_DOWN. No link-agreement seep acts in the cases of training. (R444, R526, R527, R530, R562.) -/
def Obligations.LinksTrain : Prop :=
  ∀ (s : State), s.runs = true →
    (∀ (p : BitVec 3),
      (s.rd CF_PORT_STATE p.toNat = lkDisabled → ∃ t, exec (.cfPortEnable p) s = .next t ∧ t.rd CF_PORT_ENABLE p.toNat = 1 ∧
        t.rd CF_PORT_STATE p.toNat = lkTraining ∧ t = { s with regs := t.regs }) ∧
      (s.rd CF_PORT_STATE p.toNat = lkUp → ∃ t, exec (.cfPortRetrain p) s = .next t ∧ t.rd CF_PORT_STATE p.toNat = lkTraining ∧
        t.count ctrPortRetrains p.toNat = satAdd (s.count ctrPortRetrains p.toNat) 1 ∧ t.mem = s.mem ∧ t.host = s.host ∧ t.lnk = s.lnk)) ∧
    (∀ (h : BitVec 1),
      (s.rd DEX_HALF_STATE h.toNat = lkDisabled → ∃ t, exec (.dexHalfEnable h) s = .next t ∧
        t.rd (if h = 0 then DEX_CTL_EN_A else DEX_CTL_EN_B) = 1 ∧ t.rd DEX_HALF_STATE h.toNat = lkTraining ∧ t = { s with regs := t.regs }) ∧
      (s.rd DEX_HALF_STATE h.toNat = lkUp → ∃ t, exec (.dexRetrain h) s = .next t ∧ t.rd DEX_HALF_STATE h.toNat = lkTraining ∧
        (t.link (8 + h.toNat)).trained = false ∧ t.count ctrHalfRetrains h.toNat = satAdd (s.count ctrHalfRetrains h.toNat) 1 ∧
        t.mem = s.mem ∧ t.host = s.host)) ∧
    (∀ (p : BitVec 3) (e : TrainEnv), s.rd CF_PORT_STATE p.toNat = lkTraining → (s.seepOne .wm 0 2).hit = none →
      (portReason e = 0 → ∃ t, exec (.cfPortTrain p e) s = .next t ∧ t.rd CF_PORT_STATE p.toNat = lkUp ∧ t.rd CF_PORT_REASON p.toNat = 0 ∧
        t.rd CF_PORT_PEER p.toNat = e.peer.toNat ∧ t.rd CF_PORT_LOOP p.toNat = e.loopNs ∧
        t.rd CF_PORT_SPARED p.toNat = e.failedLanes.headD 15 % 16 ∧
        (t.link p.toNat).keys = (s.link p.toNat).keys + 1 ∧ (t.rd EVT_STATUS_EVENTS).testBit evCfPort = true ∧ t.boot.portUp = true ∧
        t.mem = s.mem ∧ t.host = s.host ∧ t.ctx = s.ctx) ∧
      (portReason e ≠ 0 →
        ((s.link p.toNat).keys = 0 ∨ ∃ r < 8, r ≠ p.toNat ∧ s.rd CF_PORT_PEER r = s.rd CF_PORT_PEER p.toNat ∧ s.rd CF_PORT_STATE r = lkUp) →
        ∃ t, exec (.cfPortTrain p e) s = .next t ∧ t.rd CF_PORT_STATE p.toNat = lkFailed ∧ t.rd CF_PORT_REASON p.toNat = portReason e ∧
          t.mem = s.mem ∧ t.host = s.host ∧ t.ctx = s.ctx)) ∧
    (∀ (h : BitVec 1) (e : TrainEnv), s.rd DEX_HALF_STATE h.toNat = lkTraining → (s.seepOne .wm 0 2).hit = none →
      (halfReason e = 0 →
        ∃ t, exec (.dexHalfTrain h e) s = .next t ∧ (t.link (8 + h.toNat)).trained = true ∧
          (s.flag DEX_CTL_SPLIT = true → t.rd DEX_HALF_STATE h.toNat = lkUp) ∧
          (s.flag DEX_CTL_SPLIT = false → (s.link (8 + (1 - h.toNat))).trained = true →
            t.rd DEX_HALF_STATE 0 = lkUp ∧ t.rd DEX_HALF_STATE 1 = lkUp) ∧
          (s.flag DEX_CTL_SPLIT = false → (s.link (8 + (1 - h.toNat))).trained = false → t.rd DEX_HALF_STATE h.toNat = lkTraining) ∧
          t.mem = s.mem ∧ t.host = s.host ∧ t.ctx = s.ctx) ∧
      (halfReason e ≠ 0 →
        ∃ t, exec (.dexHalfTrain h e) s = .next t ∧ t.boot.stopped = true ∧ t.rd RST_CAUSE_STOP_CAUSE = 6 ∧
          t.rd DEX_HALF_REASON h.toNat = halfReason e ∧
          t.rd RST_CAUSE_DETAIL = h.toNat ∧ (t.rd EVT_STATUS_EVENTS).testBit evDexDown = true ∧ t.mem = s.mem ∧ t.host = s.host))

/-- PEER_LEAVE of another module fails every port that was UP to it, with reason 5, and every open group it belongs to that runs no collective is BROKEN from then on; groups it does not belong to stand as they were. While no collective runs on the module, no operation, store, stream or plot changes; the one collective that runs, of a host operation not yet ended, in a group it belongs to that is not closing, ends COLL_ABORT_PEER. (R445, R453, R473.) -/
def Obligations.PeersLeave : Prop :=
  ∀ (s : State) (m : BitVec 3), s.runs = true → m.toNat ≠ s.moduleId →
    ((∀ x ∈ s.cf.groups, x.2.colls = [] ∧ x.2.closing = none) →
    ∃ t, exec (.peerLeave m) s = .next t ∧
      (∀ p, p < 8 → s.rd CF_PORT_PEER p = m.toNat → s.rd CF_PORT_STATE p = lkUp →
        t.rd CF_PORT_STATE p = lkFailed ∧ t.rd CF_PORT_REASON p = 5) ∧
      (∀ p, p < 8 → s.rd CF_PORT_PEER p ≠ m.toNat → t.rd CF_PORT_STATE p = s.rd CF_PORT_STATE p) ∧
      (∀ g, (s.group g).isOpen = true → (s.group g).mask.getLsbD m.toNat = true → t.group g = { s.group g with broken := true }) ∧
      (∀ g, (s.group g).mask.getLsbD m.toNat = false → t.group g = s.group g) ∧
      t = { s with regs := t.regs, cf := { s.cf with groups := t.cf.groups } }) ∧
    (∀ g n c q k o, (∀ x ∈ s.cf.groups, ∀ d ∈ x.2.colls, x.1 = g ∧ d.cseq = n) → s.coll? g n = some c → c.host = some (q, k) →
      s.op? q k = some o → o.stage ≠ .done → (s.group g).closing = none → (s.group g).isOpen = true →
      (s.group g).mask.getLsbD m.toNat = true →
      ∃ t, exec (.peerLeave m) s = .next t ∧ t.op? q k = some (o.ended stCollAbortPeer 0 0) ∧ t.coll? g n = none ∧
        (t.group g).broken = true ∧ t.mem = s.mem ∧ t.ctx = s.ctx ∧ t.plots = s.plots)

/-- A ROT_COMMIT whose shadow bank fails a check records the first that fails, with the entry or the partition that does, and changes nothing else; one that passes makes the active bank a copy of the shadow bank, and a partition between slots takes its new fields at once. HOLD and DIAG_HOLD are set and cleared, nothing else. A level change of the cadence pin begins a qualification; a qualified edge of the selected sense advances the count of every partition and fires each CDIV-th at a partition that waits for it, unless it came too fast: then FAST is set. PERIOD_TRIGGER fires the waiting PERIOD entry. (R480, R481, R482, R483, R489, R490.) -/
def Obligations.RotationTableAndTriggers : Prop :=
  ∀ (s : State), s.runs = true →
    (∀ v e p, s.admission = some (v, e, p) → v < 13 →
      ∃ t, exec .rotCommit s = .next t ∧ t.rd ROT_CTL_REFUSED = 1 ∧ t.rd ROT_CTL_CHECK = v ∧
        t.rd ROT_CTL_ENTRY = e.getD 0 % 1024 ∧ t.rd ROT_CTL_PART = p.getD 0 % 64 ∧ t.rot = s.rot ∧ t = { s with regs := t.regs }) ∧
    (s.admission = none →
      ∃ t, exec .rotCommit s = .next t ∧ t.rd ROT_CTL_REFUSED = 0 ∧ t.rot.bank = s.copyBank ∧
        (∀ p, p < 64 → (s.part p).slot.phase = .idle → (t.part p).act = s.reg .rotPart p) ∧
        (∀ p, p < 64 → (s.part p).slot.phase = .running → (t.part p).act = (s.part p).act ∧ (t.part p).toTake = some (s.reg .rotPart p)) ∧
        t.mem = s.mem ∧ t.plots = s.plots) ∧
    (∀ (p : PartNo) (on : Bool),
      exec (.partHold p) s = .next (s.wr ROT_PART_HOLD p.toNat 1) ∧ exec (.partHoldClear p) s = .next (s.wr ROT_PART_HOLD p.toNat 0) ∧
      exec (.diagHold p on) s = .next (s.wr ROT_PART_DIAG_HOLD p.toNat (if on then 1 else 0))) ∧
    (∀ level, level ≠ s.rot.pinLevel → ∃ t, exec (.cadenceEdge level) s = .next t ∧ t.rot.pinLevel = level ∧
      t.rot.edgePending = some level ∧ t.rot.parts = s.rot.parts ∧ t = { s with rot := t.rot }) ∧
    (∀ level us, s.rot.edgePending = some level → s.flag CADENCE_CTL_ENABLE = true → level ≠ s.flag CADENCE_CTL_EDGE →
      (s.rot.edgeSeen = true → us < s.rd CADENCE_CTL_MIN_US →
        ∃ t, exec (.cadenceQualify us) s = .next t ∧ t.rd CADENCE_CTL_FAST = 1 ∧ t.rot.edgePending = none ∧
          t.rot.parts = s.rot.parts ∧ t.count ctrFastEdges = satAdd (s.count ctrFastEdges) 1 ∧ t.mem = s.mem ∧ t.host = s.host) ∧
      ((s.rot.edgeSeen = false ∨ s.rd CADENCE_CTL_MIN_US ≤ us) →
        ∃ t, exec (.cadenceQualify us) s = .next t ∧ t.rot.edgePending = none ∧ t.rot.edgeSeen = true ∧
          (∀ p, p < 64 → (t.part p).cadence = (s.part p).cadence + 1 ∧
            (((s.part p).cadence + 1) % (partBits ROT_PART_CDIV_M1 (s.part p).act + 1) = 0 → s.partEnabled p = true → s.held_ p = false →
              s.entryTrig p = some 1 → s.skippedAll p = false → (s.part p).slotRuns = false → (s.part p).pendTrig = false →
              (t.part p).fired = true)) ∧ t.mem = s.mem ∧ t.host = s.host ∧ t.plots = s.plots)) ∧
    (∀ (p : PartNo), s.partEnabled p.toNat = true → s.entryTrig p.toNat = some 2 → (s.part p.toNat).lastLoad.isSome = true →
      (s.part p.toNat).slotRuns = false → (s.part p.toNat).pendTrig = false →
      ∃ t, exec (.periodTrigger p) s = .next t ∧ t.part p.toNat = { s.part p.toNat with fired := true } ∧
        (∀ p', p' ≠ p.toNat → t.part p' = s.part p') ∧ t = { s with rot := t.rot })

/-- SLOT_LOAD of a partition that may load, at the entry of its walk whose trigger has fired, takes the chunk that became ready first among those the entry serves; once the channels of its image serve and when nothing fails the load, the slot takes the next number and every plot of the footprint is loaded under it, with both streams at word 0; a TRAIN descriptor holds its update number from then on, and one whose number no longer follows the applied counter ends SECURITY_DENIED instead. With no chunk to serve, the entry is skipped and its trigger consumed. SLOT_START of a loading slot whose frame sets can be allocated, where its kind needs them, makes the slot run, with every plot of the footprint running. No fence waits, and no seep of a plot acts. (R74, R152, R312, R480, R484, R485, R486.) -/
def Obligations.SlotsLoadAndStart : Prop :=
  ∀ (s : State) (part : PartNo) (p : Nat), part.toNat = p → s.runs = true → s.lev.pend = [] → (∀ r, s.seepQuiet .plot r = true) →
    (∀ pos e, s.walkPos p = some pos → s.walkEntry p = some e → s.mayLoad p = true → s.skippedAll p = false → s.triggered p e = true →
      (∀ c o, s.pickChunk p e = some c → s.op? c.ring c.seq = some o →
        let k := partBits ROT_ENTRY_IMAGE (s.entry e)
        let im := s.image k
        let cold := (s.part p).forceCold || decide ((s.part p).warmId ≠ some im.imageId)
        let read := s.cisRead none im.addr im.len
        (s.updateTurn o = .refused → ∃ t o', exec (.slotLoad part) s = .next t ∧ t.op? c.ring c.seq = some o' ∧ o'.stage = .done ∧
          o'.status = stDenied ∧ (t.part p).slot = (s.part p).slot ∧ t.plots = s.plots ∧ t.mem = s.mem) ∧
        (s.updateTurn o = .go → s.cisOpen im.addr im.len = true → s.loadFails p k (s.cisBytes im.addr im.len) cold read.1 = none →
          ((s.part p).warmImage = some k → (s.part p).warmFail = none) →
        ∃ t, exec (.slotLoad part) s = .next t ∧ (t.part p).slot.phase = .loading ∧ (t.part p).slot.chunk = some c ∧
          (t.part p).slot.entry = e ∧ (t.part p).slot.seq = (s.part p).slotSeq + 1 ∧ (t.part p).slotSeq = (s.part p).slotSeq + 1 ∧
          (t.part p).chunks = (s.part p).chunks.erase c ∧ (t.part p).fired = false ∧
          (∀ d ∈ (s.part p).chunks, s.chunkServed e d = true → d.before c = false) ∧
          (∀ l ∈ s.partPlots p, (t.plot (s.physOf l)).loaded = true ∧ (t.plot (s.physOf l)).running = false ∧
            (t.plot (s.physOf l)).part = p ∧ (t.plot (s.physOf l)).seq = (s.part p).slotSeq + 1 ∧
            (t.plot (s.physOf l)).flume = {} ∧ (t.plot (s.physOf l)).furrow = {}) ∧
          (∀ r, (∀ l ∈ s.partPlots p, s.physOf l ≠ r) → t.plot r = s.plot r) ∧
          (∀ p', p' ≠ p → t.part p' = s.part p') ∧
          t.op? c.ring c.seq = some { o with holdsUpdate := o.holdsUpdate || o.train } ∧ t.mem.cis = read.2.mem.cis)) ∧
      (s.pickChunk p e = none →
        ∃ t, exec (.slotLoad part) s = .next t ∧ (t.part p).skips = (s.part p).skips + 1 ∧ (t.part p).fired = false ∧
          (t.part p).walk = (pos + 1) % (s.cycle p).length ∧ (t.part p).chunks = (s.part p).chunks ∧
          t.count ctrSkipped p = satAdd (s.count ctrSkipped p) 1 ∧ t.plots = s.plots ∧ t.mem = s.mem ∧ t.host = s.host)) ∧
    (∀ c, (s.part p).slot.chunk = some c → (s.part p).slot.phase = .loading →
      (s.flag SLOT_WDOG_SEEP_ARM = false ∨ s.rd SLOT_WDOG_SEEP_PART ≠ p) →
      (c.kind = .frame ∨ c.kind = .observe → s.flag PG_POOL_CTL_ENABLE p = true ∧
        s.allocSets p c.stream (((s.model? (s.stream c.stream.toNat).model.toNat).map (·.geom)).getD 0) c.owners ≠ none) →
      ∃ t, exec (.slotStart part) s = .next t ∧ (t.part p).slot.phase = .running ∧ (t.part p).slot.chunk = some c ∧
        (∀ l ∈ s.partPlots p, (t.plot (s.physOf l)).running = true) ∧
        t.count ctrSlots p = satAdd (s.count ctrSlots p) 1 ∧ t.mem.cis = s.mem.cis ∧ t.mem.aqua = s.mem.aqua)

/-- SLOT_END of a slot that may end releases its chunk, stops its plots and leaves it idle or swapping; a FRAME chunk below its horizon, where the plots' state reads without error, queues the next frame. Unless it trains, Cistern stands. SLOT_ABORT with a status of R13 that ends a slot, and SLOT_WATCHDOG_EXPIRY with the watchdog enabled, of a slot that runs and carries no collective list release the chunk, stop the plots, count the abort and end the operation with that status and detail; the watchdog's are SECURITY_DENIED and HUNG, and it names the partition and raises SLOT_HUNG. No commit and no fence waits for the partition. (R13, R64, R181, R484, R497, R602.) -/
def Obligations.SlotsEndAndAbort : Prop :=
  ∀ (s : State) (part : PartNo) (p : Nat) (c : Chunk) (o : Op), part.toNat = p → s.runs = true → s.lev.pend = [] →
    (s.part p).toTake = none → (s.part p).slot.chunk = some c → s.op? c.ring c.seq = some o →
    (s.mayEnd p c o = true →
      ∃ t, exec (.slotEnd part) s = .next t ∧ (t.part p).slot.chunk = none ∧
        ((t.part p).slot.phase = .idle ∨ (t.part p).slot.phase = .swapping) ∧
        (∀ l ∈ s.partPlots p, (t.plot (s.physOf l)).running = false ∧ (t.plot (s.physOf l)).loaded = false) ∧
        (c.kind = .frame → c.ordinal + 1 < o.horizon → s.mem.resvBad = [] →
          (t.part p).chunks = (s.part p).chunks ++ [{ c with ordinal := c.ordinal + 1, ready := none }]) ∧
        (c.kind = .refill ∨ c.kind = .optim → (t.part p).chunks = (s.part p).chunks) ∧ (o.train = false → t.mem.cis = s.mem.cis)) ∧
    (o.stage ≠ .done → s.listOf p (s.part p).slot.image = none →
      (∀ st dt, abortStatuses.contains st = true → (s.part p).slot.phase = .loading ∨ (s.part p).slot.phase = .running →
        ∃ t o', exec (.slotAbort part st dt) s = .next t ∧ t.op? c.ring c.seq = some o' ∧ o'.stage = .done ∧ o'.status = st ∧ o'.detail = dt ∧
          (t.part p).slot.chunk = none ∧ (t.part p).slot.status = st ∧
          ((t.part p).slot.phase = .idle ∨ (t.part p).slot.phase = .swapping) ∧
          (∀ l ∈ s.partPlots p, (t.plot (s.physOf l)).running = false ∧ (t.plot (s.physOf l)).loaded = false) ∧
          t.count ctrAborted p = satAdd (s.count ctrAborted p) 1 ∧ t.mem = s.mem) ∧
      (s.rd SLOT_WDOG_MULT ≠ 0 → (s.part p).slot.phase = .running →
        ∃ t o', exec (.slotWatchdogExpiry part) s = .next t ∧ t.op? c.ring c.seq = some o' ∧ o'.stage = .done ∧ o'.status = stDenied ∧
          o'.detail = dtHung ∧ (t.part p).slot.chunk = none ∧ t.rd SLOT_WDOG_LAST_PART = p ∧
          (t.rd EVT_STATUS_EVENTS).testBit evSlotHung = true ∧ t.mem = s.mem))

/-- Where no seep of the sluice acts and the channels serve: SWAP_OUT of the one state that a partition has in transit, read, in its turn and for a slot no future shares, writes it to the slot that is not committed, seals it with its CRC, and the partition swaps no longer. SWAP_IN of the lowest owner slot a plot waits for, from a SEALED slot that reads and checks and is not in transit, gives that owner slot its owner, version and state; in a REFILL slot it gives the owner slot its set. SLOT_COPY of a slot about to be written or pruned, which reads and checks, opens slot A of every sharer whose slot is not yet OPEN, and where all are, seals the copies under the CRC that was checked. FINAL_SWAP_OUT of a CLOSING stream with nothing in flight frees it and ends its STREAM_CLOSE OK. REFILL_RUN with free pages makes its DROPPED sets REFILLING. (R52, R60, R285, R312, R316, R494, R496, R497, R498.) -/
def Obligations.StateSwaps : Prop :=
  (∀ (s : State) (part : PartNo) (p : Nat) (r : Transit), part.toNat = p → s.runs = true → s.lev.pend = [] →
    (s.part p).transit = [r] → r.read = true → s.outTurn r = true → let n := r.stream.toNat; let d := s.outPlace r
    (s.stream n).sharers d.1 d.2 = [] → s.slotOpen n d.1 d.2 = true → (s.seepOne .sluice (sluiceOf r.lplot) 0).hit = none → r.slot < 8 →
    ∃ t, exec (.swapOut part r.pos (BitVec.ofNat 3 r.slot)) s = .next t ∧ (t.part p).transit = [] ∧
      ((s.part p).slot.phase = .swapping → (t.part p).slot.phase = .idle) ∧
      (t.owner n r.owner).seal d.2 = .sealed ∧ (t.owner n r.owner).crc d.2 = crc32c r.bytes ∧
      (t.owner n r.owner).committed = (s.owner n r.owner).committed ∧
      t.cisBytes (s.slotAddr n d.1 d.2) r.bytes.length = r.bytes ∧
      (∀ a, s.cisSpares (s.slotAddr n d.1 d.2) r.bytes.length a → t.cisBytes a 1 = s.cisBytes a 1) ∧
      (∀ k, k ≠ n → t.stream k = s.stream k) ∧ t.host = s.host) ∧
  (∀ (s : State) (part : PartNo) (p pos : Nat) (i : BitVec 3) (c : Chunk) (o : Nat), part.toNat = p → s.runs = true →
    (s.part p).slot.chunk = some c → (s.part p).slot.phase = .running →
    c.owners[pos + (s.partPlots p).length * i.toNat]? = some o → (pos, i.toNat) ∈ (s.part p).slot.insLeft →
    (∀ y ∈ (s.part p).slot.insLeft, y.1 = pos → i.toNat ≤ y.2) →
    let n := c.stream.toNat; let l := (s.partPlots p).getD pos 0; let w := s.owner n o; let d := w.reads.place o
    let taken := fun (t : State) => (pos, i.toNat) ∉ (t.part p).slot.insLeft ∧
      sget 0 (t.plot (s.physOf l)).owners i.toNat = o + 1 ∧ sget 0 (t.plot (s.physOf l)).versions i.toNat = w.block ∧
      ((∀ y ∈ (s.part p).slot.insLeft, y.1 = pos → y = (pos, i.toNat)) → (t.plot (s.physOf l)).fence = false) ∧
      t.ctx = s.ctx ∧ t.host = s.host
    (c.kind ≠ .refill → (∀ r ∈ (s.part p).transit, ¬(r.stream.toNat = n ∧ r.owner = o)) → s.slotOpen n d.1 d.2 = true →
      (s.owner n d.1).seal d.2 = .sealed →
      let r := s.readSlot (sluiceOf l) n d o w.current.isNone
      r.status = stOk →
      ∃ t, exec (.swapIn part pos i) s = .next t ∧ taken t ∧ t.mem.cis = r.st.mem.cis ∧
        (∀ off, ownerPlace (s.plot (s.physOf l)).stateMap (s.part p).slot.stateOff r.bytes.length i.toNat = some off →
          t.resvBytes (s.physOf l) off r.bytes.length = r.bytes)) ∧
    (c.kind = .refill → let k := c.sets.getD (pos + (s.partPlots p).length * i.toNat) 0
      ((s.pool p).set_ k).st = .refilling →
      ∃ t, exec (.swapIn part pos i) s = .next t ∧ taken t ∧ sget 0 (t.plot (s.physOf l)).openSets i.toNat = k + 1 ∧ t.mem.cis = s.mem.cis)) ∧
  (∀ (s : State) (k : StreamNo) (tr b : Bool) (f : BitVec 12) (ch : Nat) (fs : List Nat), s.runs = true →
    let place := ((if tr then trunkOwner else f.toNat), b); let sh := (s.stream k.toNat).sharers place.1 place.2
    ((∃ p r, s.outDue k.toNat place = some (p, r) ∧ ch = sluiceOf r.lplot ∧ fs = sh) ∨
      (∃ o, s.outDue k.toNat place = none ∧ s.pruneDue k.toNat place = some o ∧ ch = s.partSluice (s.stream k.toNat).part.toNat ∧
        fs = sh.filter fun x => !(s.prunes o).contains x)) →
    fs ≠ [] → s.copyReady k.toNat place fs = true → (s.copySlot ch k.toNat place fs).status = stOk →
    ∃ t, exec (.slotCopy k tr f b) s = .next t ∧
      ((∃ x ∈ fs, (s.owner k.toNat x).sealA ≠ .open_) → ∀ x ∈ fs, (t.owner k.toNat x).sealA = .open_) ∧
      ((∀ x ∈ fs, (s.owner k.toNat x).sealA = .open_) → ∀ x ∈ fs, (t.owner k.toNat x).committed = .ownA ∧
        (t.owner k.toNat x).sealA = .sealed ∧ (t.owner k.toNat x).crcA = (s.owner k.toNat place.1).crc place.2) ∧
      (∀ j, j ≠ k.toNat → t.stream j = s.stream j) ∧ t.host = s.host ∧ t.plots = s.plots) ∧
  (∀ (s : State) (k : StreamNo) (o : Op), s.runs = true → (s.stream k.toNat).st = .closing →
    (∀ x ∈ s.rot.parts, ∀ r ∈ x.2.transit, r.stream ≠ k) → (∀ e ∈ s.edits, e.kind ≠ .drop → e.kind ≠ .refill → e.stream ≠ k.toNat) →
    (∀ c ∈ (s.part (s.stream k.toNat).part.toNat).chunks, c.stream ≠ k) → s.closeOp k.toNat = some o →
    ∃ t, exec (.finalSwapOut k) s = .next t ∧ t.op? o.ring o.seq = some (o.ended stOk 0 0) ∧ (t.stream k.toNat).st = .free ∧
      (t.stream k.toNat).home = (s.stream k.toNat).home ∧ (∀ j, j ≠ k.toNat → t.stream j = s.stream j) ∧
      t = { s with host := { s.host with ops := t.host.ops }, ctx := { s.ctx with streams := t.ctx.streams } }) ∧
  (∀ (s : State) (part : PartNo) (p : Nat) (c : Chunk), part.toNat = p → s.runs = true → (s.part p).slot.chunk = some c →
    c.kind = .refill → (s.part p).slot.phase = .running → s.flag PG_POOL_CTL_ENABLE p = true →
    let sets := c.sets.filter fun n => ((s.pool p).set_ n).st = .dropped
    sets ≠ [] →
    sets.length * geomLayers (((s.model? (s.stream c.stream.toNat).model.toNat).map (·.geom)).getD 0) ≤
      s.rd PG_STATUS_FREE p + s.rd PG_STATUS_EMERG_FREE p →
    ∃ t, exec (.refillRun part) s = .next t ∧ (∀ n ∈ sets, ((t.pool p).set_ n).st = .refilling) ∧
      t.mem = s.mem ∧ t.host = s.host ∧ t.ctx = s.ctx ∧ t.plots = s.plots)

/-- An edit that is first for its owner, or queued for its set, is applied, counted, and acknowledged to its operation. APPEND gives the owner a new version: its sets, without the oldest at CAP, and the step's set, which is LIVE; SHARE and REVERT the version they name; CLEAR the empty version. DROP makes the set DROPPED with no layer page, and a set pinned since is kept; REFILL makes it LIVE. Other owners, streams and partitions, the stores and the plots stand. (R295, R297, R305, R306, R311, R315.) -/
def Obligations.PageTableEdits : Prop :=
  ∀ (s : State) (e : Edit), s.runs = true →
    (∀ (k : StreamNo) (o : Nat) (c : Instr), e.stream = k.toNat → e.owner = o → s.ownerEdit e.kind k.toNat o = some e →
      c = (match e.kind with | .append => .append k o | .share => .share k o | .clear => .clear k o | _ => .revert k o) →
      ∃ t, exec c s = .next t ∧ t.edits = s.edits.erase e ∧ t.count ctrEdits e.part = satAdd (s.count ctrEdits e.part) 1 ∧
        (e.kind = .append → (t.owner k.toNat o).openSet = none ∧ (t.owner k.toNat o).block = (s.pool e.part).nextBlock ∧
          ((t.pool e.part).block (s.pool e.part).nextBlock).sets =
            (let old := ((s.pool e.part).block (s.owner k.toNat o).block).sets
             (if (s.owner k.toNat o).block = 0 then [] else if old.length = s.capOf k.toNat then old.drop 1 else old) ++ [e.arg]) ∧
          ((t.pool e.part).set_ e.arg).st = .live) ∧
        (e.kind = .share ∨ e.kind = .revert → (t.owner k.toNat o).block = e.arg) ∧
        (e.kind = .clear → (t.owner k.toNat o).block = 0) ∧
        (∀ q n x, e.cause = some (q, n) → s.op? q n = some x → ∃ y, t.op? q n = some y ∧ y.unacked = x.unacked - 1) ∧
        (∀ o', o' ≠ o → t.owner k.toNat o' = s.owner k.toNat o') ∧ (∀ k', k' ≠ k.toNat → t.stream k' = s.stream k') ∧
        (∀ p, p ≠ e.part → t.pool p = s.pool p) ∧ t.mem = s.mem ∧ t.plots = s.plots ∧ t.rot = s.rot) ∧
    (∀ (part : PartNo) (c : Instr), e.part = part.toNat → (e.kind = .drop ∨ e.kind = .refill) →
      s.queued.find? (fun x => x.kind = e.kind && x.part = part.toNat && x.arg = e.arg) = some e →
      c = (match e.kind with | .drop => .drop part e.arg | _ => .refill part e.arg) →
      (e.kind = .drop → s.setPinned e.part e.arg = true → ∃ t, exec c s = .next t ∧ t.pools = s.pools ∧ t.ctx = s.ctx ∧ t.mem = s.mem ∧
        (∃ l, t.edits = s.edits.erase e ++ l) ∧ t.host = s.host) ∧
      (e.kind = .refill ∨ s.setPinned e.part e.arg = false →
      ∃ t, exec c s = .next t ∧ t.edits = s.edits.erase e ∧ t.count ctrEdits e.part = satAdd (s.count ctrEdits e.part) 1 ∧
        (e.kind = .drop → ((t.pool e.part).set_ e.arg).st = .dropped ∧ ((t.pool e.part).set_ e.arg).pages = []) ∧
        (e.kind = .refill → ((t.pool e.part).set_ e.arg).st = .live) ∧
        (∀ p, p ≠ e.part → t.pool p = s.pool p) ∧ t.ctx = s.ctx ∧ t.mem = s.mem ∧ t.plots = s.plots ∧ t.rot = s.rot))

/-- GRACE_RELEASE of an item whose walks have retired frees its block, or its set with its pages, or returns its pages, none lost. PG_RECLAIM_START sets BUSY and is ignored while it is set. A BUSY reclaim that no DROP and no grace item holds up, at its start or after GRACE_RELEASE, ends when the main free pages reach TARGET or no unpinned LIVE set remains, and else submits the DROP of the unpinned LIVE set walked longest ago, the lowest of several. PG_QUIESCE sets QUIESCE, and QUIESCED when the stream is idle; PG_QUIESCE_RELEASE clears both. PG_DIRECT_WRITE by firmware, or by the operator for a stream of tenant 0, writes a quiesced stream's root word, frame record or table block; what is another's, or not quiesced, changes nothing and is refused SECURITY_DENIED. A tenant's, and the operator's for another tenant's stream, is a violation that writes nothing. (R307, R308, R310, R313, R315, R322, R571, R572.) -/
def Obligations.ReclaimAndDirectAccess : Prop :=
  ∀ (s : State) (part : PartNo) (p : Nat), part.toNat = p → s.runs = true →
    let goesOn := fun (s t : State) =>
      ((s.rd PG_RECLAIM_TARGET p ≤ s.rd PG_STATUS_FREE p ∨ s.reclaimNext p = none) → t.flag PG_RECLAIM_BUSY p = false ∧ t.edits = s.edits) ∧
      (∀ n, s.rd PG_STATUS_FREE p < s.rd PG_RECLAIM_TARGET p → s.reclaimNext p = some n →
        t.flag PG_RECLAIM_BUSY p = true ∧ t.edits = s.edits ++ [dropEdit p n] ∧
        ((s.pool p).set_ n).st = .live ∧ s.setPinned p n = false ∧ ∀ m ∈ (s.pool p).sets.map (·.1), ((s.pool p).set_ m).st = .live →
          s.setPinned p m = false → let x := ((s.pool p).set_ n).lastWalk; let y := ((s.pool p).set_ m).lastWalk
          x < y ∨ (x = y ∧ n ≤ m))
    let free := fun (s : State) => s.edits.all (fun e => !(e.kind = .drop && e.part = p)) && (s.pool p).grace.isEmpty
    (∀ g, (s.pool p).grace.find? (graceReady (s.pool p).walkIds) = some g →
      let total := fun (t : State) => t.rd PG_STATUS_FREE p + t.rd PG_STATUS_EMERG_FREE p
      let room := fun n => s.rd PG_STATUS_FREE p + n < 2 ^ 24 ∧ s.rd PG_STATUS_EMERG_FREE p ≤ s.rd PG_POOL_CTL_EMERG p
      ∃ t, exec (.graceRelease part) s = .next t ∧
        (∀ ps w, g = .pages ps w → (t.pool p).grace = (s.pool p).grace.erase g ∧ (room ps.length → total t = total s + ps.length)) ∧
        (∀ n w, g = .set n w → (t.pool p).set_ n = {} ∧ (t.pool p).grace = (s.pool p).grace.erase g ∧
          let k := ((s.pool p).set_ n).pages.length + ((s.pool p).set_ n).recipe.length
          (room k → total t = total s + k)) ∧
        (∀ b w, g = .block b w → (t.pool p).block b = {}) ∧
        (let u := s.releaseItem p g
         (s.flag PG_RECLAIM_BUSY p = true → free u = true → goesOn u t) ∧
         (s.flag PG_RECLAIM_BUSY p = false ∨ free u = false → t = u)) ∧
        (∀ p', p' ≠ p → t.pool p' = s.pool p') ∧ t.ctx = s.ctx ∧ t.mem = s.mem ∧ t.plots = s.plots ∧ t.host = s.host) ∧
    (s.flag PG_RECLAIM_BUSY p = true → exec (.pgReclaimStart part) s = .next s) ∧
    (s.flag PG_RECLAIM_BUSY p = false →
      ∃ t, exec (.pgReclaimStart part) s = .next t ∧ (free s = true → goesOn s t) ∧
        (free s = false → t.flag PG_RECLAIM_BUSY p = true ∧ t.edits = s.edits) ∧ t = { s with regs := t.regs, edits := t.edits }) ∧
    (∃ t, exec .pgQuiesce s = .next t ∧ t.rd PG_DIRECT_QUIESCE = 1 ∧
      (s.streamIdle (s.rd PG_DIRECT_STREAM) = true → t.rd PG_DIRECT_QUIESCED = 1) ∧
      (s.streamIdle (s.rd PG_DIRECT_STREAM) = false → t.rd PG_DIRECT_QUIESCED = s.rd PG_DIRECT_QUIESCED) ∧ t = { s with regs := t.regs }) ∧
    (∃ t, exec .pgQuiesceRelease s = .next t ∧ t.rd PG_DIRECT_QUIESCE = 0 ∧ t.rd PG_DIRECT_QUIESCED = 0 ∧ t = { s with regs := t.regs }) ∧
    (∀ (k : StreamNo) (src : AccessSource) (w : PageMeta), let n := k.toNat; let pp := (s.stream n).part.toNat
      (src = .firmware ∨ (src = .operator ∧ s.foreignStream n = false) →
        (s.quiesced n = true → ∀ o b, w = .root o b → ∃ t, exec (.pgDirectWrite src k w) s = .next t ∧
          t.owner n o = { s.owner n o with block := b } ∧ (∀ o', o' ≠ o → t.owner n o' = s.owner n o') ∧
          (∀ k', k' ≠ n → t.stream k' = s.stream k') ∧ t = { s with ctx := { s.ctx with streams := t.ctx.streams } }) ∧
        (∀ m st refs, w = .frameRecord m st refs → let own := ((s.pool pp).set_ m).stream.toNat = n ∧ (s.pool pp).sets.any (fun x => x.1 = m) = true
          (s.quiesced n = true → own → ∃ t, exec (.pgDirectWrite src k w) s = .next t ∧
            (t.pool pp).set_ m = { (s.pool pp).set_ m with st := setStateOf st, refs := refs } ∧
            (∀ m', m' ≠ m → (t.pool pp).set_ m' = (s.pool pp).set_ m') ∧ (∀ q, q ≠ pp → t.pool q = s.pool q) ∧ t = { s with pools := t.pools }) ∧
          (¬own → exec (.pgDirectWrite src k w) s = .next (s.emit (.refusal stDenied)))) ∧
        (∀ b sets refs, w = .table b sets refs → let own := (s.stream n).trunk.block = b ∨ (s.stream n).futs.any (fun x => x.2.block = b) = true
          (s.quiesced n = true → own → ∃ t, exec (.pgDirectWrite src k w) s = .next t ∧
            (t.pool pp).block b = { sets := sets, refs := refs } ∧
            (∀ b', b' ≠ b → (t.pool pp).block b' = (s.pool pp).block b') ∧ (∀ q, q ≠ pp → t.pool q = s.pool q) ∧ t = { s with pools := t.pools }) ∧
          (¬own → exec (.pgDirectWrite src k w) s = .next (s.emit (.refusal stDenied)))) ∧
        (s.quiesced n = false → exec (.pgDirectWrite src k w) s = .next (s.emit (.refusal stDenied)))) ∧
      (∀ tn, src = .tenant tn ∨ (src = .operator ∧ s.foreignStream n = true ∧ tn = 0) → ∃ t, exec (.pgDirectWrite src k w) s = .next t ∧
        t.count ctrViolations tn.toNat = satAdd (s.count ctrViolations tn.toNat) 1 ∧ t.ctx = s.ctx ∧ t.pools = s.pools ∧ t.mem = s.mem))

/-- A word at the head of an open stream of a running plot: NOP_WORD passes; WAIT passes once its counter has reached VALUE, and stays before; SIGNAL, once every earlier word has retired, adds INC to the counter of its plot, counter 0 apart, or puts a token of its plot on the canal, while no seep of a canal link acts; a furrow LAYER begin clears the saturation count; a LAYER end stops the stream there; RETURN resumes behind it; END ends the stream; RELEASE, once every earlier word has retired, frees exactly the tiles and slots it names, and a freed tile keeps its contents. A stream past its head word goes on with the next one; where that ends a NEST, its walks end with it, in the flume with the last pass in the array. LAYER_DECIDE sends both streams on, to the wide variant exactly when the count is above a threshold that may widen, and counts. TOKEN_ARRIVAL takes the first token of its source that reads so: it counts one of the slot, keeps one of the next two, leaves a later one, and drops and counts a stale one. (R29, R103, R104, R153, R160, R164, R167, R168, R169, R170, R171, R181.) -/
def Obligations.ControlWordsIssue : Prop :=
  (∀ c v : Word, reached c v = true ↔ v = 0 ∨ (c - v).toNat < 2 ^ 31) ∧
  (∀ (x : Plot) (c n d : Nat), (x.addCounter c n).counter d = x.counter d + (if d = c ∧ c ≠ 0 then BitVec.ofNat 32 n else 0)) ∧
  (∀ (s : State) (p : PPlot) (sel : StreamSel), let x := s.plot p.toNat; let q := x.stream sel
    (q.exp = [] → s.advance p.toNat sel = s.setPlot p.toNat (x.setStream sel { q with pc := q.pc + 1 })) ∧
    (∀ i rest, q.exp = i :: rest → (∀ ws, rest.head? ≠ some (.retire ws)) →
      s.advance p.toNat sel = s.setPlot p.toNat (x.setStream sel { q with exp := rest })) ∧
    (∀ i ws rest, q.exp = i :: .retire ws :: rest →
      let y := x.setStream sel { q with exp := rest }
      ∃ ps, (sel = .flume → x.passes ≠ [] → ∃ l r, x.passes = l ++ [r] ∧ ps = l ++ [{ r with ends := r.ends ++ ws }]) ∧
        (sel = .furrow ∨ x.passes = [] → ps = x.passes ∧ s.advance p.toNat sel = (s.setPlot p.toNat y).endWalks x.part ws) ∧
        (s.advance p.toNat sel).plot p.toNat = { y with passes := ps })) ∧
  (∀ (s : State) (p : PPlot) (sel : StreamSel) (it : ExpItem), let x := s.plot p.toNat; let q := x.stream sel
    (AtHead s p sel .nop it → exec (.nopWord p sel) s = .next (s.advance p.toNat sel)) ∧
    (∀ w, AtHead s p sel (.wait w) it →
      exec (.wait p sel w) s = .next (if reached (x.counter w.ctr.toNat) w.value then s.advance p.toNat sel else s)) ∧
    (∀ w, AtHead s p sel (.signal w) it → x.retired sel = true →
      let d := if w.remote then s.physOf w.lplot.toNat else p.toNat
      (d = p.toNat → exec (.signal p sel w) s = .next ((s.setPlot d (x.addCounter w.ctr.toNat w.inc.toNat)).advance p.toNat sel)) ∧
      (d ≠ p.toNat → s.linkSeeps = false → exec (.signal p sel w) s
        = .next (({ s with canal := s.canal ++ [⟨.plot p.toNat, d, w.ctr.toNat, w.inc.toNat, x.seq⟩] } : State).advance p.toNat sel))) ∧
    (∀ w, AtHead s p sel (.layer w) it →
      (w.isEnd = true → x.retired sel = true →
        exec (.layer p sel w) s = .next (s.setPlot p.toNat (x.setStream sel { q with atLayer := some w.layer.toNat }))) ∧
      (w.isEnd = false → sel = .furrow → exec (.layer p sel w) s = .next ((s.setPlot p.toNat { x with satCount := 0 }).advance p.toNat sel)) ∧
      (w.isEnd = false → sel = .flume → exec (.layer p sel w) s = .next (s.advance p.toNat sel))) ∧
    (∀ r, AtHead s p sel .ret it → q.ret = some r → x.retired sel = true →
      exec (.ret p sel) s = .next (s.setPlot p.toNat (x.setStream sel { q with pc := r, ret := none }))) ∧
    (AtHead s p sel .end_ it → x.retired sel = true →
      exec (.endWord p sel) s = .next (s.setPlot p.toNat (x.setStream sel { q with ended := true }))) ∧
    (∀ w, AtHead s p sel (.release w) it → x.retired sel = true →
      (∀ k < 8, w.rmask.getLsbD k = true → x.slotRead false k = false) → (∀ k < 16, w.bmask.getLsbD k = true → x.slotRead true k = false) →
      (∀ k < 16, w.amask.getLsbD k = true → (x.tile k).st ≠ .pending ∧ (x.tile k).held = 0 ∧ (x.fence = true → x.isState k = false)) →
      ∃ t, exec (.release p sel w) s = .next t ∧
        (∀ k < 16, (t.plot p.toNat).tile k = if w.amask.getLsbD k then { data := (x.tile k).data } else x.tile k) ∧
        (∀ k < 8, (t.plot p.toNat).stage false k = { x.stage false k with full := (x.stage false k).full && !w.rmask.getLsbD k }) ∧
        (∀ k < 16, (t.plot p.toNat).stage true k = { x.stage true k with full := (x.stage true k).full && !w.bmask.getLsbD k }) ∧
        t.mem = s.mem ∧ t.host = s.host ∧ t.canal = s.canal)) ∧
  (∀ (s : State) (p : PPlot) (a : Nat), let x := s.plot p.toNat; let img := s.imgOf x
    s.runs = true → x.running = true → x.flume.atLayer = some a → x.furrow.atLayer = some a →
    let above := layerThresh img a < x.satCount
    let wide := above ∧ layerWide img a = true ∧ layerThresh img a ≠ 0xFFFFFF
    ∃ t, exec (.layerDecide p) s = .next t ∧
      t.plot p.toNat = { x with
        flume := (if wide then { x.flume with atLayer := none, pc := layerFlume img a, ret := some (x.flume.pc + 1) }
          else { x.flume with atLayer := none, pc := x.flume.pc + 1 }),
        furrow := (if wide then { x.furrow with atLayer := none, pc := layerFurrow img a, ret := some (x.furrow.pc + 1) }
          else { x.furrow with atLayer := none, pc := x.furrow.pc + 1 }) } ∧
      (wide → t.part x.part = { s.part x.part with slot := { (s.part x.part).slot with widened := true } }) ∧ (¬wide → t.rot = s.rot) ∧
      t.count ctrLayersDecided p.toNat = satAdd (s.count ctrLayersDecided p.toNat) 1 ∧
      t.count ctrLayersWidened p.toNat = satAdd (s.count ctrLayersWidened p.toNat) (if wide then 1 else 0) ∧
      t.count ctrOverNoWide p.toNat = satAdd (s.count ctrOverNoWide p.toNat) (if above ∧ ¬wide then 1 else 0) ∧
      t.count ctrSatPegged p.toNat = satAdd (s.count ctrSatPegged p.toNat) (if x.satCount = 0xFFFFFF then 1 else 0) ∧
      t.mem = s.mem ∧ t.host = s.host ∧ t.canal = s.canal) ∧
  (∀ (s : State) (p : PPlot) (c : BitVec 6) (inc : BitVec 8) (n : Seq), let x := s.plot p.toNat
    (nextToken p.toNat c.toNat inc.toNat n [] s.canal = none → exec (.tokenArrival p c inc n) s = .next s) ∧
    (∀ u, nextToken p.toNat c.toNat inc.toNat n [] s.canal = some u →
      u = ⟨u.src, p.toNat, c.toNat, inc.toNat, n⟩ ∧
      (∃ pre post, s.canal = pre ++ u :: post ∧ ∀ v ∈ pre, ¬(v.src = u.src ∧ v.pplot = p.toNat)) ∧
      (s.runs = true → s.changing p.toNat = false → let s1 := { s with canal := s.canal.erase u }
        (n = x.seq → exec (.tokenArrival p c inc n) s = .next (s1.setPlot p.toNat (x.addCounter c.toNat inc.toNat))) ∧
        ((n - x.seq = 1 ∨ n - x.seq = 2) → s.seepQuiet .plot p.toNat = true →
          exec (.tokenArrival p c inc n) s = .next (s1.setPlot p.toNat { x with early := addEarly x.early n c.toNat inc.toNat })) ∧
        (n - x.seq ≠ 1 → n - x.seq ≠ 2 → follows n x.seq = true → exec (.tokenArrival p c inc n) s = .next s) ∧
        (n ≠ x.seq → follows n x.seq = false → exec (.tokenArrival p c inc n) s = .next (s1.bump ctrStaleToken p.toNat)))))

/-- At the head of its stream: a PASS whose slots are FULL and whose tile may take it enters the array, counts the steps of its class, and its tile is PENDING. PASS_DRAIN of a pass whose checks hold leaves in each element of DST the exact sum of its products rounded once, empties the slots given up that no later pass in the array reads, sends its token and counts the pass. A FILL with room is queued. FILL_COMPLETE of a request whose slots are EMPTY and whose source can be read puts the stored tile there, FULL, and counts its FILLC. A NEST that may issue takes its place in the stream's order once, with its expansions counted, and its words stand in its place. (R113, R116, R119, R123, R127, R128, R129, R163, R164, R187, R189, R190.) -/
def Obligations.DataWordsIssue : Prop :=
  (∀ (s : State) (p : PPlot) (it : ExpItem) (w : PassWord), let x := s.plot p.toNat
    AtHead s p .flume (.pass w) it → (∀ b, it = .pass w b → b.ovf = none) →
    (∀ i < x.tileSlots false w.aslot.toNat, (x.stage false (w.aslot.toNat + i)).full = true) →
    (∀ i < x.tileSlots true w.bslot.toNat, (x.stage true (w.bslot.toNat + i)).full = true) →
    x.tileGate w (match it with | .pass _ b => some b | _ => none) = .go → x.passes.length < 2 →
    let ends := match x.flume.exp with | _ :: .retire ws :: _ => ws | _ => []
    let d := w.dst.toNat
    ∃ t, exec (.pass p w) s = .next t ∧ (t.plot p.toNat).passes = x.passes ++ [⟨w, (s.seepEvents .flume p.toNat 1).hit.map (·.2), [], ends⟩] ∧
      ((t.plot p.toNat).tile d).st = .pending ∧ ((t.plot p.toNat).tile d).data = (x.tile d).data ∧
      (∀ k, k ≠ d → (t.plot p.toNat).tile k = x.tile k) ∧
      (∀ b, it = .pass w b → b.first = true → (t.plot p.toNat).tile d = { x.tile d with
        st := .pending, rows := b.rows, cols := b.cols, negInf := b.negInf, bound := some (b.serial, b.m, b.n) }) ∧
      (∀ b, it = .pass w b → b.first = false → (t.plot p.toNat).tile d = { x.tile d with st := .pending }) ∧
      (it = .word (.pass w) → (t.plot p.toNat).tile d
        = if w.overwrite then { x.tile d with st := .pending, rows := 64, cols := 64, negInf := false } else { x.tile d with st := .pending }) ∧
      t.count ctrFlumeSteps p.toNat = satAdd (s.count ctrFlumeSteps p.toNat)
        (classSteps (passClass (x.stage false w.aslot.toNat).fmt (x.stage true w.bslot.toNat).fmt)) ∧
      t.mem = s.mem ∧ t.host = s.host ∧ t.canal = s.canal) ∧
  (∀ (x : Plot) (w : PassWord) (m n : Nat), m < 64 → n < 64 → (x.attempt w none).1 = x.cells w ∧
    cellAt (x.cells w) m n = sumNum ((List.range 64).map fun k => (x.opA w m k).mul (x.opB w k n))) ∧
  (∀ (s : State) (p : PPlot) (r : PassRec) (rest : List PassRec), let x := s.plot p.toNat; let d := r.w.dst.toNat
    let att := x.attempt r.w r.fault
    let mine := r.rel ++ (if r.w.relA then x.operandSlots r.w false else []) ++ (if r.w.relB then x.operandSlots r.w true else [])
    s.runs = true → x.passes = r :: rest → att.2.fails = false → s.seepQuiet .plot p.toNat = true → x.pendFail = none →
    ∃ t, exec (.passDrain p) s = .next t ∧
      (t.plot p.toNat).passes = rest.map (fun q => { q with rel := q.rel ++ mine.filter fun b => (x.operandSlots q.w b.1).contains b }) ∧
      (∀ m n, m < 64 → n < 64 → ((t.plot p.toNat).tile d).elem m n
        = drained (if r.w.overwrite then 0 else (x.tile d).elem m n) (cellAt att.1 m n)) ∧
      ((t.plot p.toNat).tile d).st = (if rest.any fun q => q.w.dst = r.w.dst then .pending else .live) ∧
      (∀ k, k ≠ d → (t.plot p.toNat).tile k = x.tile k) ∧
      (∀ b n, (t.plot p.toNat).stage b n = { x.stage b n with full := (x.stage b n).full
        && !(mine.contains (b, n) && !(rest.any fun q => (x.operandSlots q.w b).contains (b, n))) }) ∧
      (∀ c, (t.plot p.toNat).counter c = x.counter c + (if r.w.sig = true ∧ c = r.w.sigc.toNat ∧ c ≠ 0 then 1 else 0)) ∧
      t.count ctrPasses p.toNat = satAdd (s.count ctrPasses p.toNat) 1 ∧ t.mem = s.mem ∧ t.host = s.host ∧ t.canal = s.canal) ∧
  (∀ (s : State) (p : PPlot) (it : ExpItem) (w : FillWord), let x := s.plot p.toNat
    let tile := match it with | .fill _ u _ _ _ _ _ => u | _ => s.wordTile x w.desc.toNat w.usep w.preg.toNat
    let d := imgDesc (s.imgOf x) tile.desc
    AtHead s p .flume (.fill w) it → x.fills.length < 8 → (x.fence = true → d.state = false) →
    (d.src = 3 → it = .word (.fill w) → s.pageDenied x d = false) →
    s.tileAccess p.toNat d tile false ≠ .fail stReservoirOverflow →
    ∃ t, exec (.fill p w) s = .next t ∧ (t.plot p.toNat).fills = x.fills ++ [⟨w.bank, w.slot.toNat, tile, w.fillc.toNat⟩] ∧
      (∀ k, (t.plot p.toNat).tile k = x.tile k) ∧ t.mem = s.mem ∧ t.host = s.host ∧ t.canal = s.canal) ∧
  (∀ (s : State) (p : PPlot) (q : FillReq) (rest : List FillReq), let x := s.plot p.toNat; let d := imgDesc (s.imgOf x) q.tile.desc
    let reached := s.reachTile p.toNat d q.tile false
    let entered := reached.1.enterStores p.toNat ((List.range (if d.fmt = 0 then 2 else 1)).map fun k => (1, (if q.bank then 8 else 0) + q.slot + k))
    let y := entered.1.plot p.toNat; let g := entered.1.stageTile p.toNat d q.tile
    s.runs = true → x.fills = q :: rest → y.pendFail = none → (x.stage q.bank q.slot).full = false →
    (d.fmt = 0 → (x.stage q.bank (q.slot + 1)).full = false) → s.tileAccess p.toNat d q.tile false = .ok →
    reached.2 = true → entered.2 = true →
    ∃ t, exec (.fillComplete p) s = .next t ∧ (t.plot p.toNat).fills = rest ∧
      (d.fmt ≠ 0 → (t.plot p.toNat).stage q.bank q.slot = g) ∧
      (d.fmt = 0 → (t.plot p.toNat).stage q.bank q.slot = { g with data := g.data.take 8192 } ∧
        (t.plot p.toNat).stage q.bank (q.slot + 1) = { g with data := g.data.drop 8192 }) ∧
      (∀ b n, ¬(b = q.bank ∧ (n = q.slot ∨ (d.fmt = 0 ∧ n = q.slot + 1))) → (t.plot p.toNat).stage b n = y.stage b n) ∧
      (∀ c, (t.plot p.toNat).counter c = y.counter c + (if q.fillc ≠ 0 ∧ c = q.fillc then 1 else 0)) ∧
      (∀ k, (t.plot p.toNat).tile k = y.tile k) ∧ g.full = true ∧ t = { entered.1 with plots := t.plots } ∧
      (d.src = 0 → s.seepQuiet .plot p.toNat = true → s.seepQuiet .memt (reachOf x.lplot) = true →
        s.resvOk p.toNat (s.rowAddr x d q.tile 0).1 8 = true → entered.1 = s)) ∧
  (∀ (s : State) (p : PPlot) (sel : StreamSel) (it : ExpItem) (w : NestWord), let x := s.plot p.toNat; let q := x.stream sel
    let img := s.imgOf x; let n := w.nest.toNat; let pair := imgPair img n; let isPair := imgNestKind img n = 1
    let rows := fun (k : Nat) => let d := imgDesc img k
      if d.src = 3 then some (2 ^ geomTokLog (s.plotGeom x) * (s.pageSets x d).length) else none
    let d1 := (imgNest img (if isPair then pair.p1 else n)).clip rows true
    let d2 := (imgNest img pair.p2).clip rows false
    let e := sget 0 q.counts n
    AtHead s p sel (.nest w) it → (x.fence = true → ∀ k ∈ nestDescs img n, (imgDesc img k).state = false) → imgNestKind img n < 2 →
    (¬isPair → d1.denied = false) → (isPair → pairDenied img pair d1 d2 = false) →
    (∀ k ∈ nestDescs img n, (imgDesc img k).src = 3 → s.pageDenied x (imgDesc img k) = false) →
    (sel = .flume → isPair → pair.res = false → pair.lag ≤ d2.acount / (if pair.ifmt = 0 then 2 else 1)) →
    let env : ExpEnv :=
      { img := img, sm := x.stateMap, off := if w.usep then (x.param_ w.preg.toNat).toNat else 0,
        sets := fun k => let d := imgDesc img k; if d.src = 3 then s.pageSets x d else [], serial := 2 * x.serial, nest := n, e := e }
    let items := match sel with
      | .flume => if isPair then (if pair.res then env.flumeRes pair d1 d2 else env.flumeStage pair d1 d2) else env.flumeProduct d1
      | .furrow => if isPair then env.furrowPair pair d1 d2 else env.furrowProduct d1
    let walks := if sel = .flume then (s.nestWalks p.toNat x img (nestDescs img n) [] []).2 else []
    ∃ t, exec (.nest p sel w) s = .next t ∧ ((t.plot p.toNat).stream sel).pc = q.pc + 1 ∧
      sget 0 ((t.plot p.toNat).stream sel).counts n = e + 1 ∧ (t.plot p.toNat).serial = x.serial + 1 ∧
      (items = [] → ((t.plot p.toNat).stream sel).exp = []) ∧
      (items ≠ [] → (∀ ws, items.head? ≠ some (.retire ws)) → ((t.plot p.toNat).stream sel).exp = items ++ [.retire walks]) ∧
      (∀ k, (t.plot p.toNat).tile k = x.tile k) ∧ t.mem = s.mem ∧ t.host = s.host ∧ t.canal = s.canal)

/-- A ready furrow word of the ELEM class, carried-state operations included, or of the ROW class without a special function, answers a next state in which every lane of DST inside SRC1's extent holds the listed operation of SRC1, SRC2, DST and the vector as they stood before; a compensated word writes both tiles of its pair; RSTAT words combine each row's statistics into the bank; BANK_READ gives the bank's words; ZERO gives +0 everywhere. DST takes its producer's extent, and nothing else changes but the word's token and the tile it releases. (R166, R216, R217, R218, R219, R223, R270, R271.) -/
def Obligations.ElementWordsCompute : Prop :=
  ∀ (s : State) (p : PPlot) (w : FurrowWord) (it : ExpItem),
    let x := s.plot p.toNat; let a := w.src1.toNat; let d := w.dst.toNat; let T := s.fuTile x w it
    let src := x.tile a; let y := x.tile w.src2.toNat; let dst := x.tile d; let e := x.tile (d + 4)
    let bank := fun (r : Nat) => if T.2 then ({} : BankRow) else x.bankRow w.src2.toNat r
    src.rows ≤ 64 → src.cols ≤ 64 →
    (∀ row ∈ ([(.copy, 9, 0x00, fun x _ _ _ => x), (.add, 9, 0x01, fun x y _ _ => fadd x y), (.sub, 9, 0x02, fun x y _ _ => fsub x y),
        (.mul, 9, 0x03, fun x y _ _ => fmul x y), (.max, 9, 0x04, fun x y _ _ => fmax x y), (.min, 9, 0x05, fun x y _ _ => fmin x y),
        (.fma, 9, 0x06, fun x y d _ => ffma x y d), (.scale2, 9, 0x07, fun x _ _ _ => fscale x w.x.toInt),
        (.addVec, 9, 0x08, fun x _ _ v => fadd x v), (.mulVec, 9, 0x09, fun x _ _ v => fmul x v), (.abs, 9, 0x0B, fun x _ _ _ => fabs x),
        (.neg, 9, 0x0C, fun x _ _ _ => fneg x), (.linV, 9, 0x20, fun x _ d v => ffma v d x), (.linT, 9, 0x21, fun x y d _ => ffma y d x),
        (.mixT, 9, 0x22, fun x y d _ => ffma y (fsub d x) x), (.actRelu, 8, 0x18, fun x _ _ _ => fmax x 0),
        (.actIdent, 8, 0x1D, fun x _ _ _ => x)] :
        List ((PPlot → FurrowWord → Instr) × Nat × Nat × (Word → Word → Word → Word → Word))),
      FurrowReady s p row.2.1 row.2.2.1 w it →
      ∃ t, exec (row.1 p w) s = .next t ∧ FurrowRetired s t p w [d] ∧
        (∀ r l, r < src.rows → l < src.cols → ((t.plot p.toNat).tile d).elem r l
          = row.2.2.2 (src.elem r l) (y.read r l) (dst.read r l) ((s.vecRow p.toNat T.1 0).getD l 0)) ∧
        (w.rel1 = true ∧ d = a ∨ ((t.plot p.toNat).tile d).rows = src.rows ∧ ((t.plot p.toNat).tile d).cols = src.cols)) ∧
    (FurrowReady s p 8 0x0C w it → ∃ t, exec (.rowscaleFactor p w) s = .next t ∧ FurrowRetired s t p w [d] ∧
      ∀ r l, r < src.rows → l < src.cols → ((t.plot p.toNat).tile d).elem r l
        = if (bank r).factor = fone then src.elem r l else fmul (src.elem r l) (bank r).factor) ∧
    (FurrowReady s p 9 0x10 w it → ∃ t, exec (.zero p w) s = .next t ∧ FurrowRetired s t p w [d] ∧
      (∀ r l, r < 64 → l < 64 → ((t.plot p.toNat).tile d).elem r l = 0) ∧
      ((t.plot p.toNat).tile d).rows = 64 ∧ ((t.plot p.toNat).tile d).cols = 64) ∧
    (FurrowReady s p 9 0x2A w it → ∃ t, exec (.pairFold p w) s = .next t ∧ FurrowRetired s t p w [d] ∧
      ∀ r l, r < src.rows → l < src.cols → ((t.plot p.toNat).tile d).elem r l = fadd (src.elem r l) ((x.tile (a + 4)).read r l)) ∧
    (∀ row ∈ ([(.clinV, 0x24, fun x _ d e v => compUpdate d e v x), (.clinT, 0x25, fun x y d e _ => compUpdate d e y x),
        (.cmixT, 0x26, fun x y d e _ => compUpdate d e y (fmul (fsub fone y) x)), (.pairSplit, 0x29, fun x _ _ _ _ => (x, fzero))] :
        List ((PPlot → FurrowWord → Instr) × Nat × (Word → Word → Word → Word → Word → Word × Word))),
      FurrowReady s p 9 row.2.1 w it →
      ∃ t, exec (row.1 p w) s = .next t ∧ FurrowRetired s t p w [d, d + 4] ∧
        ∀ r l, r < src.rows → l < src.cols →
          (((t.plot p.toNat).tile d).elem r l, ((t.plot p.toNat).tile (d + 4)).elem r l)
            = row.2.2 (src.elem r l) (y.read r l) (dst.read r l) (e.read r l) ((s.vecRow p.toNat T.1 0).getD l 0)) ∧
    (FurrowReady s p 9 0x28 w it → dst.rows ≤ 64 → dst.cols ≤ 64 →
      ∃ t, exec (.pairFix p w) s = .next t ∧ FurrowRetired s t p w [d, d + 4] ∧
        ∀ r l, r < dst.rows → l < dst.cols →
          (((t.plot p.toNat).tile d).elem r l, ((t.plot p.toNat).tile (d + 4)).elem r l)
            = pairFixLane w.x.toInt (dst.elem r l) (e.read r l)) ∧
    (FurrowReady s p 8 0x0D w it → ∃ t, exec (.bankRead p w) s = .next t ∧ FurrowRetired s t p w [d] ∧
      ∀ r l, r < 64 → l < 64 → ((t.plot p.toNat).tile d).elem r l = (bank r).words.getD l 0) ∧
    (∀ row ∈ ([(.rstatInit, 0x00, fun _ => {}), (.rstatAcc, 0x01, bank)] : List ((PPlot → FurrowWord → Instr) × Nat × (Nat → BankRow))),
      FurrowReady s p 8 row.2.1 w it →
      (∀ r < src.rows, ((row.2.2 r).combine (tileStat ((src.row r).take src.cols))).isSome = true) →
      ∃ t, exec (row.1 p w) s = .next t ∧ FurrowRetired s t p w [] ∧
        (∀ r < src.rows, some ((t.plot p.toNat).bankRow w.src2.toNat r)
          = (row.2.2 r).combine (tileStat ((src.row r).take src.cols))) ∧
        ∀ b r, b ≠ w.src2.toNat → r < 64 → (t.plot p.toNat).bankRow b r = x.bankRow b r)

/-- A ready furrow word that needs special functions takes the furrow: its DST is LIVE with its data as it stood, its tiles are HELD, and it waits at row 0. SFU_GRANT for the furrow, no seep acting, commits the row at which a word without micro-programs waits: DST and the bank row take what the word lists for it, in each valid lane the activation or special function of SRC1, and the word goes on to its next row, or retires after its last. For a word whose code is a micro-program the grant begins that program on each lane in service for the next request of the row, its argument in r0. The grant is counted; the stores and the host stand. (R213, R214, R218, R219, R225, R226, R227, R248, R250, R256.) -/
def Obligations.GrantedWordsEnterRows : Prop :=
  (∀ (s : State) (p : PPlot) (w : FurrowWord) (it : ExpItem) (code : BitVec 4), let x := s.plot p.toNat
    ∀ row ∈ ([(.softmax, 8, 0x08), (.softmaxBlock, 8, 0x09), (.expSub, 8, 0x0A), (.rowscaleRecip, 8, 0x0B), (.lnorm, 8, 0x10),
        (.rmsnorm, 8, 0x11), (.actSilu, 8, 0x19), (.actGeluTanh, 8, 0x1A), (.actSigmoid, 8, 0x1B), (.actTanh, 8, 0x1C),
        (fun p w => .specialFunction p code w, 9, 0x30 + code.toNat)] : List ((PPlot → FurrowWord → Instr) × Nat × Nat)),
      FurrowReady s p row.2.1 row.2.2 w it →
      ∃ t, exec (row.1 p w) s = .next t ∧
        (t.plot p.toNat).fuRun = some ⟨BitVec.ofNat 4 row.2.1, BitVec.ofNat 6 row.2.2, w, (s.fuTile x w it).1, (s.fuTile x w it).2,
          x.fuIndex, 0⟩ ∧
        ((t.plot p.toNat).tile w.dst.toNat).st = .live ∧ 0 < ((t.plot p.toNat).tile w.dst.toNat).held ∧
        0 < ((t.plot p.toNat).tile w.src1.toNat).held ∧
        (∀ k, ((t.plot p.toNat).tile k).data = (x.tile k).data) ∧
        t.mem = s.mem ∧ t.host = s.host ∧ t.canal = s.canal) ∧
  (∀ (s : State) (p : PPlot) (f : FuRun), let x := s.plot p.toNat
    let o := s.fuRow p.toNat f.op.toNat f.fop.toNat f.w f.tile f.reset f.row
    let d := f.w.dst.toNat; let src := x.tile f.w.src1.toNat; let F := s.sfuEval p.toNat
    let row := fun (l : Nat) => src.elem f.row l
    s.runs = true → x.running = true → x.microBusy = false → x.fuRun = some f → (x.sfuQ = [] ∨ x.sfuTurn = false) →
    s.seepQuiet .sfu p.toNat = true → s.seepQuiet .furrow p.toNat = true → x.pendFail = none → f.row < 64 → src.cols ≤ 64 →
    ((f.op = 9 → f.fop.toNat < 0x3A) → ∃ t, exec (.sfuGrant p) s = .next t ∧
      (∀ lanes, o.dst = some lanes → lanes.length ≤ 64 → ∀ l < lanes.length,
        ((t.plot p.toNat).tile d).elem f.row l = lanes.getD l 0) ∧
      (∀ b, o.bank = some b → (t.plot p.toNat).bankRow f.w.src2.toNat f.row = b) ∧
      (∀ y ∈ ([(8, 0x19, fun x => fmul x (F 4 x)), (8, 0x1A, geluTanh F), (8, 0x1B, F 4), (8, 0x1C, F 5)] ++
          (List.range 10).map (fun c => (9, 0x30 + c, F c)) : List (Nat × Nat × (Word → Word))),
        f.op.toNat = y.1 → f.fop.toNat = y.2.1 → f.row < src.rows → ∀ l < src.cols,
          ((t.plot p.toNat).tile d).elem f.row l = y.2.2 (row l)) ∧
      (∀ r l, r ≠ f.row → r < 64 → l < 64 → ((t.plot p.toNat).tile d).elem r l = (x.tile d).elem r l) ∧
      (t.plot p.toNat).fuRun
        = (if f.row + 1 < x.fuRows f.op.toNat f.fop.toNat f.w then some { f with row := f.row + 1 } else none) ∧
      t.count ctrGrantsFurrow p.toNat = satAdd (s.count ctrGrantsFurrow p.toNat) 1 ∧
      t.count ctrRows p.toNat = satAdd (s.count ctrRows p.toNat) 1 ∧ t.mem = s.mem ∧ t.host = s.host ∧ t.canal = s.canal) ∧
    (f.op = 9 → 0x3A ≤ f.fop.toNat → f.row < src.rows → 0 < src.cols → let lanes := (s.sfuLaneList p.toNat).take src.cols
      ∃ t, exec (.sfuGrant p) s = .next t ∧ (t.plot p.toNat).fuRun = some f ∧ (t.plot p.toNat).mpNext = lanes.length ∧
      (t.plot p.toNat).mpOut = [] ∧ (∀ k, (t.plot p.toNat).tile k = x.tile k) ∧
      (∀ j < lanes.length, sget ({} : MicroLane) (t.plot p.toNat).micro (lanes.getD j 0)
        = ⟨microSet [] 0 (row j), f.fop.toNat - 0x3A, 0, some (.row j)⟩) ∧
      t.count ctrGrantsFurrow p.toNat = satAdd (s.count ctrGrantsFurrow p.toNat) 1 ∧ t.mem = s.mem ∧ t.host = s.host ∧ t.canal = s.canal))

/-- A word at the head of the furrow stream whose source tile may be read, with no seep of its plot acting: CONV_STAGE and CONV_BANK into an EMPTY slot leave it FULL with the converted rows of SRC1 in the word's format; CONV_RES and STORE write exactly the converted rows at the stored tile's addresses, in a PAGE its open set's, and nothing else of memory; LOAD makes DST LIVE with the stored tile's values, its valid extent and its fill. Stochastic conversions advance their ordinal, calibrated ones count their saturations. No other tile changes but one the word releases, and the word's token is counted. (R96, R166, R204, R215, R216, R220, R231, R232.) -/
def Obligations.ConversionsLoadAndStore : Prop :=
  (∀ (s : State) (p : PPlot) (w : FurrowWord) (it : ExpItem), let x := s.plot p.toNat
    ∀ row ∈ ([(.convStage, 0x01, false), (.convBank, 0x02, true)] : List ((PPlot → FurrowWord → Instr) × Nat × Bool)),
      let bank := row.2.2; let n := w.dst.toNat; let f := w.fmt.toNat
      AtHead s p .furrow (.compute 0xA (BitVec.ofNat 6 row.2.1) w) it → x.srcGate w.src1.toNat = .ok → convDenied w = false →
      (bank = false → n < 8) → (x.stage bank n).full = false → (f = 0 → (x.stage bank (n + 1)).full = false) →
      s.seepQuiet .furrow p.toNat = true → s.seepQuiet .plot p.toNat = true → x.pendFail = none → (x.tile w.src1.toNat).rows ≤ 64 →
      x.satCount ≤ 0xFFFFFF →
      ∃ t, exec (row.1 p w) s = .next t ∧ FurrowRetired s t p w [] ∧
        ((t.plot p.toNat).stage bank n).full = true ∧ ((t.plot p.toNat).stage bank n).fmt = f ∧
        (f ≠ 0 → ((t.plot p.toNat).stage bank n).data = (List.range 64).flatMap fun r => packRow (fmtBits f) (s.convTileRow x w r).1) ∧
        (f = 0 → ((t.plot p.toNat).stage bank n).data ++ ((t.plot p.toNat).stage bank (n + 1)).data
          = (List.range 64).flatMap fun r => packRow (fmtBits f) (s.convTileRow x w r).1) ∧
        ((t.plot p.toNat).stage bank n).scales = (if fmtTensor f then [BitVec.ofNat 8 w.x.toNat]
          else (List.range 64).flatMap fun r => (s.convTileRow x w r).2.1.map (BitVec.ofNat 8)) ∧
        (t.plot p.toNat).satCount = min 0xFFFFFF (x.satCount + if w.calib then ((List.range (x.tile w.src1.toNat).rows).map fun r =>
          (((s.convTileRow x w r).2.2.take 64).filter id).length).sum else 0) ∧
        (t.plot p.toNat).stoch = x.stoch + (if w.sr then 1 else 0)) ∧
  (∀ (s : State) (p : PPlot) (w : FurrowWord) (it : ExpItem), let x := s.plot p.toNat; let T0 := (s.fuTile x w it).1
    let d0 := imgDesc (s.imgOf x) T0.desc; let d := { d0 with fmt := w.fmt.toNat }
    let T : TileRef := if d0.src = 3 then { T0 with walk := s.pageTarget x d0 } else T0
    let rows := (validExtent (s.refRows x d T) d.cols T.r T.c).1; let sent := s.reachTile p.toNat d T true
    ∀ row ∈ ([(.convRes, 0xA, fun d => convDenied w || (fmtTensor w.fmt.toNat && decide (w.x.toNat ≠ d.tshift))),
        (.store, 0xC, fun d => decide (2 < w.fmt.toNat) || decide (w.fmt.toNat ≠ d.fmt))] :
        List ((PPlot → FurrowWord → Instr) × BitVec 4 × (TileDesc → Bool))),
      AtHead s p .furrow (.compute row.2.1 0 w) it → x.srcGate w.src1.toNat = .ok → row.2.2 d0 = false →
      (d0.src = 3 → s.pageDenied x d0 = false ∧ T.walk ≠ []) → s.tileAccess p.toNat d T true = .ok → sent.2 = true →
      s.seepQuiet .furrow p.toNat = true → s.seepQuiet .plot p.toNat = true → x.pendFail = none →
      ∃ t, exec (row.1 p w) s = .next t ∧
        t.mem = ((List.range rows).foldl (fun u i => (State.convStoreRow p.toNat x w d T u i).1) sent.1).mem ∧
        (t.plot p.toNat).stoch = x.stoch + (if w.sr then 1 else 0) ∧
        (∀ k, ¬(w.rel1 = true ∧ k = w.src1.toNat) → (t.plot p.toNat).tile k = x.tile k) ∧
        (w.rel1 = true → ((t.plot p.toNat).tile w.src1.toNat).st = .free) ∧
        (∀ c, (t.plot p.toNat).counter c = x.counter c + (if w.sig = true ∧ c = w.sigc.toNat ∧ c ≠ 0 then 1 else 0)) ∧
        t.count ctrWords p.toNat = satAdd (s.count ctrWords p.toNat) 1 ∧ t.host = s.host ∧ t.canal = s.canal) ∧
  (∀ (s : State) (p : PPlot) (w : FurrowWord) (it : ExpItem), let x := s.plot p.toNat; let T := (s.fuTile x w it).1
    let d := imgDesc (s.imgOf x) T.desc; let v := validExtent (s.refRows x d T) d.cols T.r T.c; let a := w.dst.toNat
    let reached := s.reachTile p.toNat d T false; let entered := reached.1.enterStores p.toNat [(0, a)]; let y := entered.1
    let z := if d.src = 3 then y.touchWalk p.toNat x.part T.walk else y
    AtHead s p .furrow (.compute 0xB 0 w) it → x.fuRun = none → (x.fence = true → x.isState a = false ∧ d.state = false) → (x.tile a).st ≠ .pending → (x.tile a).held = 0 →
    (d.src = 3 → s.pageDenied x d = false) → s.tileAccess p.toNat d T false = .ok → reached.2 = true → entered.2 = true →
    y.seepQuiet .furrow p.toNat = true → (y.plot p.toNat).pendFail = none →
    ∃ t, exec (.load p w) s = .next t ∧ FurrowRetired y t p w [a] ∧
      (d.src = 0 → s.seepQuiet .plot p.toNat = true → s.seepQuiet .memt (reachOf x.lplot) = true →
        s.resvOk p.toNat (s.rowAddr x d T 0).1 8 = true → y = s) ∧
      (w.rel1 = true ∧ a = w.src1.toNat ∨ ((t.plot p.toNat).tile a).rows = v.1 ∧ ((t.plot p.toNat).tile a).cols = v.2 ∧
        ((t.plot p.toNat).tile a).negInf = d.negInf) ∧
      ∀ r l, r < v.1 → l < v.2 → ((t.plot p.toNat).tile a).elem r l
        = ((z.rowValues p.toNat d T v.2 r).map enc32).getD l 0)

/-- A runnel that stands at one of the arithmetic instructions writes rd with the listed function of its sources and goes on behind the instruction; register x0 stays 0. At SFU its request waits in the cluster's queue. An SFU_GRANT for it alone, no seep acting, writes rd with the value of a hardware function and lets the runnel go on, or begins its micro-program on the first lane in service, the argument in r0. Where a lane's program stands at a micro-operation, that sets register D to the listed function of A, B and C and no other, MP_SELLT only where A is less than B, and the program goes on to its next word. MP_END gives r0 to the request: a runnel gets it in rd and goes on; a lane of a furrow row takes the row's next request, or falls idle, and when every request has its result the row commits with them. (R175, R177, R213, R248, R250, R255, R256.) -/
def Obligations.RunnelAndMicroArithmetic : Prop :=
  (∀ (v : Runnel) (i j : Nat) (w : Word), (v.setReg i w).reg j = if j = i ∧ i ≠ 0 then w else v.reg j) ∧
  (∀ (s : State) (p : PPlot) (r : BitVec 7) (rd rs1 rs2 : BitVec 5), let x := s.plot p.toNat; let v := x.runnel r.toNat
    (∀ row ∈ ([(.fadd, 0, 0, fun a b _ => fadd a b), (.fsub, 0, 1, fun a b _ => fsub a b), (.fmul, 0, 2, fun a b _ => fmul a b),
        (.fdiv, 0, 3, fun a b _ => fdiv a b), (.fmin, 0, 4, fun a b _ => fmin a b), (.fmax, 0, 5, fun a b _ => fmax a b),
        (.flt, 0, 6, fun a b _ => if (dec32 a).lt (dec32 b) then 1 else 0), (.feq, 0, 7, fun a b _ => if (dec32 a).eqv (dec32 b) then 1 else 0),
        (.runnelFma, 1, 0, ffma)] : List ((PPlot → BitVec 7 → BitVec 5 → BitVec 5 → BitVec 5 → Instr) × Nat × Nat × (Word → Word → Word → Word))),
      AtCustom s p r (rForm 0x2B row.2.1 row.2.2.1 rd.toNat rs1.toNat rs2.toNat) →
      exec (row.1 p r rd rs1 rs2) s = .next (s.setPlot p.toNat (x.setRunnel r.toNat
        { v.setReg rd.toNat (row.2.2.2 (v.reg rs1.toNat) (v.reg rs2.toNat) (v.reg rd.toNat)) with pc := v.pc + 4 }))) ∧
    (∀ row ∈ ([(.fcvtSW, 8, fun a => ofInt32 a.toInt), (.fcvtWS, 9, toInt32), (.fbf16, 10, fun a => BitVec.ofNat 32 (bf16 a))] :
        List ((PPlot → BitVec 7 → BitVec 5 → BitVec 5 → Instr) × Nat × (Word → Word))),
      AtCustom s p r (rForm 0x2B 0 row.2.1 rd.toNat rs1.toNat rs2.toNat) →
      exec (row.1 p r rd rs1) s = .next (s.setPlot p.toNat (x.setRunnel r.toNat
        { v.setReg rd.toNat (row.2.2 (v.reg rs1.toNat)) with pc := v.pc + 4 }))) ∧
    (∀ code : BitVec 7, AtCustom s p r (rForm 0x2B 2 code.toNat rd.toNat rs1.toNat rs2.toNat) → s.sfuInvalid p.toNat code.toNat = false →
      exec (.sfu p r code rd rs1) s = .next (s.setPlot p.toNat { x with sfuQ :=
        x.sfuQ ++ [⟨r.toNat, BitVec.ofNat 4 code.toNat, rd, v.reg rs1.toNat⟩] }))) ∧
  (∀ (s : State) (p : PPlot) (q : SfuReq), let x := s.plot p.toNat; let v := x.runnel q.runnel
    s.runs = true → x.microBusy = false → (x.fuRun = none ∨ x.sfuTurn = true) → x.sfuQ = [q] → q.runnel < 80 →
    0 < s.sfuLanes p.toNat → s.seepQuiet .sfu p.toNat = true →
    ∃ t, exec (.sfuGrant p) s = .next t ∧
      (q.code.toNat < 10 → (t.plot p.toNat).sfuQ = [] ∧
        (t.plot p.toNat).runnel q.runnel = { v.setReg q.rd.toNat (s.sfuEval p.toNat q.code.toNat q.arg) with pc := v.pc + 4 }) ∧
      (10 ≤ q.code.toNat → (t.plot p.toNat).sfuQ = [q] ∧ (t.plot p.toNat).runnel q.runnel = v ∧
        sget ({} : MicroLane) (t.plot p.toNat).micro ((s.sfuLaneList p.toNat).getD 0 0)
          = ⟨microSet [] 0 q.arg, q.code.toNat - 10, 0, some (.runnel q.runnel q.rd)⟩) ∧
      (∀ k, k ≠ q.runnel → (t.plot p.toNat).runnel k = x.runnel k) ∧
      t.count ctrGrantsRunnel p.toNat = satAdd (s.count ctrGrantsRunnel p.toNat) 1 ∧ t.mem = s.mem ∧ t.host = s.host) ∧
  (∀ (s : State) (p : PPlot) (lane : BitVec 4) (d a b c : BitVec 3) (imm : BitVec 15), let n := p.toNat
    let micro := fun (s : State) => sget ({} : MicroLane) (s.plot n).micro lane.toNat; let l := micro s
    let env := s.microEnv n; let x := microReg l.regs a; let y := microReg l.regs b; let z := microReg l.regs c
    let w := s.microWordAt n l
    (∀ row ∈ ([(.mpFadd p lane d a b, spellsDAB w 0x00 d a b, fadd x y),
        (.mpFsub p lane d a b, spellsDAB w 0x01 d a b, fsub x y),
        (.mpFmul p lane d a b, spellsDAB w 0x02 d a b, fmul x y),
        (.mpFma p lane d a b c, spellsDABC w 0x03 d a b c, ffma x y z),
        (.mpFmin p lane d a b, spellsDAB w 0x04 d a b, fmin x y),
        (.mpFmax p lane d a b, spellsDAB w 0x05 d a b, fmax x y),
        (.mpFabs p lane d a, spellsDA w 0x06 d a, fabs x),
        (.mpCpsgn p lane d a b, spellsDAB w 0x07 d a b, copySign x y),
        (.mpConst p lane d imm, w / 2 ^ 27 = 0x08 && microField w 24 = d && w % 64 = imm.toNat % 64, Config.microConst env.image (imm.toNat % 64)),
        (.mpLdexp p lane d a imm, spellsDA w 0x09 d a && w % 512 = imm.toNat % 512, fscale x (signedOf 9 (imm.toNat % 512))),
        (.mpGetexp p lane d a, spellsDA w 0x0A d a, getExp x),
        (.mpGetmant p lane d a, spellsDA w 0x0B d a, getMant x),
        (.mpFloor p lane d a, spellsDA w 0x0C d a, floor32 x),
        (.mpSellt p lane d a b c, spellsDABC w 0x0D d a b c, if (dec32 x).lt (dec32 y) then z else microReg l.regs d),
        (.mpHw p lane d a imm, spellsDA w 0x0E d a && w % 16 = imm.toNat % 16, env.hw (imm.toNat % 16) x)] :
        List (Instr × Bool × Word)),
      s.runs = true → l.user.isSome = true → row.2.1 = true →
      ∃ t, exec row.1 s = .next t ∧
        (∀ k, microReg (micro t).regs k = if k = d then row.2.2 else microReg l.regs k) ∧
        micro t = { l with regs := (micro t).regs, word := l.word + 1 } ∧ t.mem = s.mem ∧ t.host = s.host ∧
        (w / 2 ^ 27 ≠ 0x0E → t = { s with plots := t.plots }) ∧
        (w / 2 ^ 27 = 0x0E → t.count ctrFallbackEvals n
          = satAdd (s.count ctrFallbackEvals n) (if s.sfuPath n (imm.toNat % 16) = 2 then 1 else 0)) ∧
        (∀ k, k ≠ n → t.plot k = s.plot k)) ∧
    (s.runs = true → w / 2 ^ 27 = 0x1F → let p0 := s.plot n; let v := microReg l.regs 0
      (∀ r rd, l.user = some (.runnel r rd) → let u := p0.runnel r
        ∃ t, exec (.mpEnd p lane) s = .next t ∧ micro t = {} ∧ (t.plot n).sfuQ = p0.sfuQ.filter (fun q => q.runnel ≠ r) ∧
          (t.plot n).runnel r = { u.setReg rd.toNat v with pc := u.pc + 4 } ∧ (∀ k, k ≠ r → (t.plot n).runnel k = p0.runnel k) ∧
          t.count ctrEvals n = satAdd (s.count ctrEvals n) 1 ∧ t.mem = s.mem ∧ t.host = s.host) ∧
      (∀ k f, l.user = some (.row k) → p0.fuRun = some f → let op := f.op.toNat; let fop := f.fop.toNat
        let out := sput (0 : Word) p0.mpOut k v
        let asks := rowAsk op fop (s.rowIn n op fop f.w f.tile f.reset f.row)
        let idle : Plot := { p0 with micro := sput ({} : MicroLane) p0.micro lane.toNat {} }
        (∀ arg, asks[p0.mpNext]? = some arg → ∃ t, exec (.mpEnd p lane) s = .next t ∧ (t.plot n).mpOut = out ∧
          (t.plot n).mpNext = p0.mpNext + 1 ∧ micro t = ⟨microSet [] 0 arg, fop - 0x3A, 0, some (.row p0.mpNext)⟩ ∧
          (t.plot n).fuRun = some f ∧ (∀ a, (t.plot n).tile a = p0.tile a) ∧ t.mem = s.mem ∧ t.host = s.host) ∧
        (asks[p0.mpNext]? = none → idle.microBusy = true → ∃ t, exec (.mpEnd p lane) s = .next t ∧ t.plot n = { idle with mpOut := out } ∧
          t.mem = s.mem ∧ t.host = s.host) ∧
        (asks[p0.mpNext]? = none → idle.microBusy = false → p0.running = true → s.seepQuiet .furrow n = true → p0.pendFail = none →
          f.row < 64 → p0.mpNext ≤ 64 → ∃ t, exec (.mpEnd p lane) s = .next t ∧
          (∀ i < p0.mpNext, ((t.plot n).tile f.w.dst.toNat).elem f.row i = sget (0 : Word) out i) ∧
          (∀ r i, r ≠ f.row → r < 64 → i < 64 → ((t.plot n).tile f.w.dst.toNat).elem r i = (p0.tile f.w.dst.toNat).elem r i) ∧
          (t.plot n).fuRun = (if f.row + 1 < p0.fuRows op fop f.w then some { f with row := f.row + 1 } else none) ∧
          t.mem = s.mem ∧ t.host = s.host))))

/-- At its instruction a runnel, no seep acting: with no move of its own in flight sends the token that PC.TSIG names; passes PC.TWAIT with the counter in rd once it has reached the value, and stands before; reads a listed plot-control entry into rd and writes a parameter register, and traps with cause 5 at any other; queues the move that PC.MOVE's descriptor spells, whose tile is HELD, with its number in rd; passes PC.MWAIT when no move of its own is in flight; stops at PC.END. MOVE_COMPLETE moves the bytes of the runnel's oldest move and takes it away; a tile read or write whose store cannot be corrected ends the slot. (R169, R171, R175, R176, R178, R179.) -/
def Obligations.RunnelControlInstructions : Prop :=
  (∀ (s : State) (p : PPlot) (r : BitVec 7) (rd rs1 rs2 : BitVec 5) (imm : BitVec 12),
    let n := p.toNat; let x := s.plot n; let v := x.runnel r.toNat
    let past := fun (x : Plot) (v' : Runnel) => s.setPlot n (x.setRunnel r.toNat { v' with pc := v.pc + 4 })
    let i := (v.reg rs1.toNat + imm.signExtend 32).toNat
    (AtCustom s p r (rForm 0x0B 0 0 0 rs1.toNat 0) → (∀ m ∈ x.moves, m.runnel ≠ r.toNat) →
      let w := (v.reg rs1.toNat).toNat; let d := if wflag w 16 then s.physOf (wbits w 6 10) else n
      (d = n → exec (.pcTsig p r rs1) s = .next (past (x.addCounter (wbits w 0 6) (wbits w 24 8)) v)) ∧
      (d ≠ n → s.linkSeeps = false → exec (.pcTsig p r rs1) s
        = .next { past x v with canal := s.canal ++ [⟨.plot n, d, wbits w 0 6, wbits w 24 8, x.seq⟩] })) ∧
    (AtCustom s p r (rForm 0x0B 1 0 rd.toNat rs1.toNat rs2.toNat) →
      let c := x.counter ((v.reg rs1.toNat).toNat % 64)
      exec (.pcTwait p r rd rs1 rs2) s = .next (if reached c (v.reg rs2.toNat) then past x (v.setReg rd.toNat c) else s)) ∧
    (AtCustom s p r (0x0B + rd.toNat * 2 ^ 7 + 2 * 2 ^ 12 + rs1.toNat * 2 ^ 15 + imm.toNat * 2 ^ 20) →
      exec (.pcRds p r rd rs1 imm) s = .next (match x.control r.toNat i with
        | some w => past x (v.setReg rd.toNat w)
        | none => s.trap n r.toNat 5)) ∧
    (AtCustom s p r (0x0B + imm.toNat % 32 * 2 ^ 7 + 3 * 2 ^ 12 + rs1.toNat * 2 ^ 15 + rs2.toNat * 2 ^ 20 + imm.toNat / 32 * 2 ^ 25) →
      exec (.pcWrs p r rs1 rs2 imm) s = .next (if 0x010 ≤ i ∧ i ≤ 0x01F then
          past { x with param := sput (0 : Word) x.param (i - 0x010) (v.reg rs2.toNat) } v
        else s.trap n r.toNat 5)) ∧
    (∀ m, AtCustom s p r (rForm 0x0B 4 0 rd.toNat rs1.toNat 0) → let a := (v.reg rs1.toNat).toNat
      (x.moves.filter fun y => y.runnel = r.toNat).length < 4 → a % 16 = 0 → a + 16 ≤ 4096 →
      parseMove r.toNat (x.scratchBytes r.toNat a 16) = some m →
      let v' : Runnel := { v.setReg rd.toNat (BitVec.ofNat 32 v.moves) with moves := v.moves + 1 }
      (m.tile = true → (x.tile (m.addr % 16)).st = .live → (x.tile (m.addr % 16)).held = 0 →
        (x.fence = true → x.isState (m.addr % 16) = false) →
        exec (.pcMove p r rd rs1) s = .next (past { (x.setTile (m.addr % 16)
          { x.tile (m.addr % 16) with held := (x.tile (m.addr % 16)).held + 1 }) with moves := x.moves ++ [m] } v')) ∧
      (m.tile = false → s.masAccess x m.toRemote m.addr m.len ≠ .fail stDenied →
        exec (.pcMove p r rd rs1) s = .next (past { x with moves := x.moves ++ [m] } v'))) ∧
    (AtCustom s p r (rForm 0x0B 5 0 0 0 0) →
      exec (.pcMwait p r) s = .next (if x.moves.any fun m => m.runnel = r.toNat then s else past x v)) ∧
    (AtCustom s p r (rForm 0x0B 6 0 0 0 0) → exec (.pcEnd p r) s = .next (past x { v with done := true }))) ∧
  (∀ (s : State) (p : PPlot) (r : BitVec 7) (m : Move) (ecc : EccOutcome), let n := p.toNat; let x := s.plot n
    let t := m.addr % 16; let i := m.addr / 16 % 4096
    let sent := s.cross (.plot n) (s.masStation m.addr); let got := sent.1.moveRead n m ecc
    s.runs = true → x.running = true → s.seepQuiet .plot n = true → (x.moves.find? fun y => y.runnel = r.toNat) = some m →
    (m.tile = true → ecc = .uncorrectable → exec (.moveComplete p r ecc) s = .next (s.failPlot n stMemUncorrectable)) ∧
    (m.tile = true → ecc ≠ .uncorrectable →
      ∃ u, exec (.moveComplete p r ecc) s = .next u ∧ (u.plot n).moves = x.moves.erase m ∧
        ((u.plot n).tile t).held = (x.tile t).held - 1 ∧ (ecc = .clean → u = { s with plots := u.plots }) ∧
        u.count ctrPlotCorrected n = satAdd (s.count ctrPlotCorrected n) (if ecc = .corrected then 1 else 0) ∧
        u.mem = s.mem ∧ u.host = s.host ∧
        (m.toRemote = true → ((u.plot n).tile t).data
          = setElems (x.tile t).data i (wordsOf (x.scratchBytes r.toNat m.off m.len) (m.len / 4))) ∧
        (m.toRemote = false → ((u.plot n).tile t).data = (x.tile t).data ∧
          (u.plot n).scratchBytes r.toNat m.off (4 * (m.len / 4))
            = ((List.range (m.len / 4)).map fun k => leBytes 4 ((x.tile t).data.getD (i + k) 0).toNat).flatten)) ∧
    (m.tile = false → s.masAccess x m.toRemote m.addr m.len = .ok → s.changingAt (s.masStation m.addr) = false → sent.2 = true → got.2 = true →
      ∃ u, exec (.moveComplete p r ecc) s = .next u ∧ (u.plot n).moves = x.moves.erase m ∧ u.host = s.host ∧
        (∀ k, (u.plot n).tile k = x.tile k) ∧
        (m.toRemote = true → u.mem = (got.1.masWrite (some x.part) m.addr (x.scratchBytes r.toNat m.off m.len)).mem) ∧
        (m.toRemote = false → u.mem = got.1.mem ∧ (u.plot n).scratchBytes r.toNat m.off m.len = got.1.masBytes m.addr m.len)))

/-- With the engine free, the partition's next entry in segment order starts under STAGE or STAGE_IX, according to its kind, when its gate is open: one with a Cistern source that reads and fits its budget writes its bytes to each plot of its MASK and to nothing else, sends its tokens while no seep of a canal link acts, and is done. WARM of an entry in flight whose units are READY is done and writes nothing. LIFT_LATE, where a plot of the reach has a lift wait, adds to the slot's total, and aborts the slot only past LATE_TOL; elsewhere it changes nothing. AQUIFER_READ of a page of a FILLING unit, no seep acting and no die of its stripe retired, marks the page and counts what it came to; a page that no stage delivers, or of no VALID extent, leaves the unit absent and fails the entry that asked. (R389, R400, R401, R402, R404, R406, R407, R408.) -/
def Obligations.LiftsAndPageReads : Prop :=
  (∀ (s : State) (part : PartNo) (reach : ReachNo) (k a : Nat), let p := part.toNat; let x := s.part p; let img := x.slot.img
    let r : LiftRun := { entry := k, reach := reach.toNat, bytes := (img.drop (liftEntry img k)).take 64, src := 0, seq := x.slot.seq }
    let r' : LiftRun := { r with src := a }
    let s1 := (s.setPart p { x with slot := { x.slot with liftStarted := x.slot.liftStarted ++ [k] } }).setLifts p fun l => l ++ [r']
    let read := s1.cisRead (some p) a r.len
    s.runs = true → (∀ y ∈ x.lifts, y.reach ≠ reach.toNat) → x.slotRuns = true → s.inFlight reach.toNat < 16 →
    nextLift img reach.toNat x.slot.liftStarted = some k → s.gateOpen p r = true → s.liftHeld p r = false →
    s.liftSource reach.toNat r = (true, a, s) → s.rangeHeld a r.len = false → s.masRow a = 0 → r.keep = false →
    r.doff + r.len ≤ imgBudget img * 65536 → s1.masRights img (s1.slotRegion p) false false a r.len = .ok → s.cisOpen a r.len = true →
    read.1 = stOk → (r.f 3 0 6 = 0 ∨ s.linkSeeps = false) →
    ∀ row ∈ ([(.stage part reach, 0), (.stageIx part reach, 1)] : List (Instr × Nat)), liftKind img k = row.2 → r.f 0 0 2 = row.2 →
      ∃ t, exec row.1 s = .next t ∧ t.part p = { x with slot := { x.slot with liftStarted := x.slot.liftStarted ++ [k] } } ∧
        t.mem = (read.2.liftWrite r' (read.2.cisBytes a r.len) (s.maskPlots p r)).mem ∧
        t.count ctrLifts reach.toNat = satAdd (s.count ctrLifts reach.toNat) 1 ∧
        t.count ctrLiftBytes reach.toNat = satAdd (s.count ctrLiftBytes reach.toNat) (r.len * (s.maskPlots p r).length) ∧
        (r.f 3 0 6 = 0 → t.canal = s.canal) ∧
        (r.f 3 0 6 ≠ 0 →
          t.canal = s.canal ++ (s.maskPlots p r).map fun l => ⟨.hub reach.toNat, s.physOf l, r.f 3 0 6, r.f 14 0 8, x.slot.seq⟩) ∧
        t.host = s.host ∧ t.ctx = s.ctx) ∧
  (∀ (s : State) (part : PartNo) (reach : ReachNo) (r : LiftRun), let p := part.toNat; let x := s.part p; let us := aqUnitsOf r.src r.len
    s.runs = true → x.lifts = [r] → r.reach = reach.toNat → r.f 0 0 2 = 2 → r.f 3 0 6 = 0 → s.liftHeld p r = false → s.masRow r.src = 2 →
    s.absentUnits us = [] → s.unitsReady us = true →
    ∃ t, exec (.warm part reach) s = .next t ∧ (t.part p).lifts = [] ∧
      t.count ctrLifts reach.toNat = satAdd (s.count ctrLifts reach.toNat) 1 ∧ t.mem = s.mem ∧ t.host = s.host ∧ t.plots = s.plots) ∧
  (∀ (s : State) (part : PartNo) (reach : ReachNo) (n : Nat), let p := part.toNat; let r := reach.toNat; let x := s.part p
    let total := sget 0 x.slot.latePeriods r + n
    let late := ((s.setPart p { x with slot := { x.slot with latePeriods := sput 0 x.slot.latePeriods r total } }).bump ctrLateWaits r).bump
      ctrLatePeriods r n
    let waits := (s.partPlots p).any fun l => reachOf l = r && s.liftWaits (s.physOf l)
    s.runs = true → (x.slot.phase ≠ .running ∨ waits = false → exec (.liftLate part reach n) s = .next s) ∧
    (x.slot.phase = .running → waits = true → exec (.liftLate part reach n) s = .next (if liftTol x.slot.img = 0xFFFFFFFF ∨ total ≤ liftTol x.slot.img then late
      else (late.bump ctrLateAborts r).abortSlot p stLiftLate))) ∧
  (∀ (s : State) (addr : BitVec 48) (part : PartNo) (reach : ReachNo) (o : AqOutcome) (k : Nat), let a := addr.toNat; let p := part.toNat
    let u := (a - aqBase) / 65536
    s.runs = true → s.masRow a = 2 → s.wcFind u = some k → (s.wcUnit k).st = .filling →
    s.seepQuiet .memt reach.toNat = true → s.retiredIn a = [] →
    let n := (s.noteBlockRead a).setWcUnit k
      { s.wcUnit k with pages := (s.wcUnit k).pages ||| BitVec.ofNat 4 (2 ^ ((a - aqBase) / 16384 % 4)) }
    let run := (s.part p).lifts.find? fun r => r.reach = reach.toNat && (aqUnitsOf r.src r.len).contains u
    let lost := (n.setWcUnit k {}).bump ctrAqFails
    exec (.aquiferRead addr part reach o) s = .next (match if s.unitValid u then o else .failed with
      | .hard => n
      | .retry => n.bump ctrAqRetries
      | .soft => n.bump ctrAqSoft
      | .reconstructed => (n.setLifts p fun l => l.map fun r => if some r = run then { r with degraded := true } else r).bump ctrAqReconstruct
      | .failed => match run with | some r => lost.failLift p r stAquiferReadFail (aqChannel a) | none => lost))

/-- A request whose channel serves: CISTERN_READ whose blocks can be read returns the bytes, and else its slot ends with what the block was; CISTERN_WRITE leaves exactly its bytes; where the block of the target can be read, ADD_I32, ADD_I64 and ADD_F32 replace their target by the sum and return the old value where asked; ACC_X adds exactly to its cell; ACC_X_READ returns the cell rounded once and may clear it. Every byte outside the target and its parity reads as before, and bytes and adds are counted. While the channel does not serve, the request waits in its queue. PATROL_SCRUB of an ONLINE channel, no seep acting, counts what it finds, and changes no memory. (R415, R416, R417, R422, R423, R425, R429.) -/
def Obligations.AddersAndCistern : Prop :=
  (∀ (s : State) (q : RingNo) (n : Seq) (addr : BitVec 48) (v : Word) (d : DWord) (ret clr : Bool),
    let a := addr.toNat; let ch := (s.chanBlock a).1
    let c := (s.bump ctrAdds ch).cacheBlock ch (a / 64); let r := if c.1 then (stOk, c.2) else (c.2.bump ctrAddMisses ch).readBlock a .clean
    let u := r.2; let old := fun (k : Nat) => leNat (u.cisBytes a k)
    s.runs = true → a < s.cisEnd → inSystemArea a = false → s.inParity a 1 = false →
    ∀ row ∈ ([(.addI32 q n addr v ret, 4, some ((old 4 + v.toNat) % 2 ^ 32), if ret then some (BitVec.ofNat 64 (old 4)) else none),
        (.addI64 q n addr d ret, 8, some ((old 8 + d.toNat) % 2 ^ 64), if ret then some (BitVec.ofNat 64 (old 8)) else none),
        (.addF32 q n addr v ret, 4, some (fadd (BitVec.ofNat 32 (old 4)) v).toNat, if ret then some (BitVec.ofNat 64 (old 4)) else none),
        (.accX q n addr v, 64, some (accAdd (old 64) v), none),
        (.accXRead q n addr clr, 64, if clr then some 0 else none, some ((accRead (old 64)).zeroExtend 64))] :
        List (Instr × Nat × Option Nat × Option DWord)),
      (s.chanServes (s.chanHome a) = false → exec row.1 s = .next (s.enqueue (s.chanHome a) row.1)) ∧
      (s.chanServes (s.chanHome a) = true → a % row.2.1 = 0 → r.1 = stOk →
        ∃ t, exec row.1 s = .next t ∧ Traffic s t ∧ t = s.withTraffic t ∧
          t.cisBytes a row.2.1 = (match row.2.2.1 with | some w => leBytes row.2.1 w | none => u.cisBytes a row.2.1) ∧
          (∀ b, u.cisSpares a row.2.1 b → t.cisBytes b 1 = u.cisBytes b 1) ∧
          (∀ w, row.2.2.2 = some w → t.out = u.out ++ [.adder a w]) ∧ (row.2.2.2 = none → t.out = u.out) ∧
          t.count ctrAdds ch = satAdd (s.count ctrAdds ch) 1)) ∧
  (∀ (s : State) (part : PartNo) (addr : BitVec 48) (ecc : EccOutcome), let a := addr.toNat; let home := s.chanHome a
    let g := s.grant_ (s.chanBlock a).1 part.toNat
    s.runs = true → a < s.cisEnd → inSystemArea a = false → s.inParity a 1 = false →
    (∀ len : BitVec 9, a % 256 + len.toNat ≤ 256 → let i : Instr := .cisternRead part addr len ecc
      (s.chanServes home = false → exec i s = .next (s.enqueue home i)) ∧
      (s.chanServes home = true → let r := g.readBlocks a ecc (blocksOf a len.toNat)
        (r.1 = stOk → exec i s = .next ((r.2.bump ctrReadBytes (g.chanBlock a).1 len.toNat).emit
          (.cisData part a (r.2.cisBytes a len.toNat)))) ∧
        (r.1 ≠ stOk → exec i s = .next (r.2.abortSlot part.toNat r.1)))) ∧
    (∀ data : List Byte, a % 256 + data.length ≤ 256 → let i : Instr := .cisternWrite part addr data ecc
      (s.chanServes home = false → exec i s = .next (s.enqueue home i)) ∧
      (s.chanServes home = true → let w := if data.length % 64 = 0 ∧ a % 64 = 0 then g else g.partWrite a ecc
        ∃ t, exec i s = .next t ∧ Traffic s t ∧ t = s.withTraffic t ∧ t.cisBytes a data.length = data ∧
          (∀ b, w.cisSpares a data.length b → t.cisBytes b 1 = w.cisBytes b 1) ∧
          t.count ctrWriteBytes (g.chanBlock a).1 = satAdd (s.count ctrWriteBytes (g.chanBlock a).1) data.length))) ∧
  (∀ (s : State) (ch : BitVec 6) (b : Nat), s.runs = true →
    (∀ e, s.chanState ch.toNat ≠ chOnline → exec (.patrolScrub ch b e) s = .next s) ∧
    (s.chanState ch.toNat = chOnline → s.seepQuiet .cistern ch.toNat = true →
      exec (.patrolScrub ch b .clean) s = .next s ∧
      exec (.patrolScrub ch b .corrected) s = .next (s.bump ctrEccCorrected ch.toNat) ∧
      exec (.patrolScrub ch b .uncorrectable) s = .next (s.bump ctrEccUncorrectable ch.toNat)))

/-- Quick retrainings are counted on an ONLINE channel; drift, an error burst or RETRAIN starts a full one, or waits while the channel's group retrains. RETRAIN_DONE returns the channel ONLINE, or counts a failure, and the third in a row leaves it in REPAIR. A channel enters and leaves REPAIR; one in REPAIR is retired unless another is. CIS_PROT enables only areas that keep R420, whose parity is then held. An SFU load goes on each plot into the banks of its units that the plot does not select, and a switch flips the plots that no enabled partition holds and marks every partition pending. (R252, R265, R412, R420, R428, R429, R431, R435, R557, R631.) -/
def Obligations.ChannelsTrainAndTablesLoad : Prop :=
  (∀ (s : State) (c : BitVec 6), let ch := c.toNat
    s.runs = true → s.chanState ch = chOnline → ch ∉ s.cis.retrainWait →
    exec (.dqsOscRead c false) s = .next (s.bump ctrRetrainQuick ch) ∧
    (∀ i ∈ ([.correctedErrorBurst c, .channelRetrain c, .dqsOscRead c true] : List Instr), ∃ t, exec i s = .next t ∧
      (s.groupBusy ch = false → t.chanState ch = chRetraining ∧ t.cis = s.cis ∧
        t.count ctrRetrainFull ch = satAdd (s.count ctrRetrainFull ch) 1) ∧
      (s.groupBusy ch = true → t.chanState ch = chOnline ∧ t.cis.retrainWait = s.cis.retrainWait ++ [ch]) ∧
      (∀ k < 64, k ≠ ch → t.chanState k = s.chanState k) ∧ t.mem = s.mem ∧ t.host = s.host) ∧
    (∃ t, exec (.channelRepairEnter c) s = .next t ∧ t.chanState ch = chRepair ∧ t.flag CIS_CH_CTL_REPAIR ch = true ∧
      (∀ k < 64, k ≠ ch → t.chanState k = s.chanState k) ∧ t.mem = s.mem ∧ t.host = s.host)) ∧
  (∀ (s : State) (k : BitVec 5), s.runs = true → s.chanState (2 * k.toNat) = chOnline → s.chanState (2 * k.toNat + 1) = chOnline →
    exec (.zqCalibration k false false) s = .next ((s.bump ctrRetrainQuick (2 * k.toNat)).bump ctrRetrainQuick (2 * k.toNat + 1))) ∧
  (∀ (s : State) (c : BitVec 6) (m : BitVec 3) (temp : Nat), s.runs = true → ∃ t, exec (.mr4Poll c m temp) s = .next t ∧
    sget 0 t.cis.mr4 c.toNat = m ∧ t.mem = s.mem ∧ t.ctx = s.ctx ∧ (105 < temp → t.boot.stopped = true) ∧
    (temp ≤ 105 → t = { s with cis := t.cis })) ∧
  (∀ (s : State) (c : BitVec 6), let ch := c.toNat
    s.runs = true → s.chanState ch = chRetraining → (∀ x ∈ s.inject, x.kind = .cistern → x.inst ≠ 64 + ch ∧ ¬(x.inst = ch ∧ seepTarget .cistern x.word = 2)) → s.queue ch = [] →
    (∀ k ∈ s.cis.retrainWait, k / 8 ≠ ch / 8) →
    (∃ t, exec (.retrainDone c true) s = .next t ∧ t.chanState ch = chOnline ∧ t.rd CIS_CH_CTL_FAILS ch = 0 ∧
      (∀ k < 64, k ≠ ch → t.chanState k = s.chanState k) ∧ t.mem = s.mem ∧ t.host = s.host) ∧
    (∃ t, exec (.retrainDone c false) s = .next t ∧ t.rd CIS_CH_CTL_FAILS ch = min 3 (s.rd CIS_CH_CTL_FAILS ch + 1) ∧
      (s.rd CIS_CH_CTL_FAILS ch < 2 → t.chanState ch = chRetraining ∧ t.boot = s.boot ∧
        t.count ctrRetrainFull ch = satAdd (s.count ctrRetrainFull ch) 1) ∧
      (2 ≤ s.rd CIS_CH_CTL_FAILS ch → t.chanState ch = chRepair ∧ t.flag CIS_CH_CTL_REPAIR ch = true ∧
        (s.otherOut ch = true → t.boot.stopped = true)) ∧ t.mem = s.mem)) ∧
  (∀ (s : State) (c : BitVec 6), let ch := c.toNat
    s.runs = true → s.chanState ch = chRepair →
    (ch ∉ s.cis.retrainWait → s.groupBusy ch = false → ∃ t, exec (.channelRepairLeave c) s = .next t ∧ t.chanState ch = chRetraining ∧
      t.flag CIS_CH_CTL_REPAIR ch = false ∧ t.rd CIS_CH_CTL_FAILS ch = 0 ∧ t.mem = s.mem ∧ t.host = s.host) ∧
    (s.flag CIS_MAP_RETIRED = true → exec (.channelRetire c) s = .next (s.wr CIS_MAP_REFUSED 0 1)) ∧
    (s.flag CIS_MAP_RETIRED = false → exec (.channelRetire c) s = .next (s.retireChannel ch)) ∧
    (s.queue ch = [] → (s.retireChannel ch).flag CIS_MAP_RETIRED = true ∧ (s.retireChannel ch).rd CIS_MAP_CHANNEL = ch ∧
      (s.retireChannel ch).rd CIS_MAP_EPOCH = (s.rd CIS_MAP_EPOCH + 1) % 2 ^ 32 ∧ (s.retireChannel ch).chanState ch = chRetired ∧
      (s.retireChannel ch).rd CIS_MAP_PHASE = 2 ∧ (s.retireChannel ch).aqf.wc = [] ∧ (s.retireChannel ch).mem = s.mem)) ∧
  (∀ (s : State), s.runs = true →
    (s.flag CIS_PROT_ENABLE = true → exec .cisProtEnable s = .next s) ∧
    (s.flag CIS_PROT_ENABLE = false →
      exec .cisProtEnable s = .next (if protOk s.protBase s.protSize s.parBase s.parSize (s.rd WC_CTL_BASE_1G * 2 ^ 30)
          (s.rd WC_CTL_SIZE_1G * 2 ^ 30) then (({ s with mem := { s.mem with cis := s.freshParity } } : State).wr CIS_PROT_ENABLE 0 1).wr CIS_PROT_READY 0 1 else s.wr CIS_PROT_REFUSED 0 1))) ∧
  (∀ (s : State) (u : BitVec 11), s.runs = true → ∃ t, exec (.sfuTableLoad u) s = .next t ∧ t.mem = s.mem ∧ t.host = s.host ∧
    (∀ c, s.tblCopy = some c → s.rd SFU_SWITCH_PENDING_PEND = 0 → s.sfu.loading = none →
      (u.getLsbD 10 = true → microImageOk c.measure = true) →
      t.sfu = { s.sfu with loading := some (u, c) } ∧ t.rd SFU_TBL_CTL_LOAD_DONE = 0) ∧
    ((s.tblCopy = none ∨ s.rd SFU_SWITCH_PENDING_PEND ≠ 0 ∨ s.sfu.loading ≠ none ∨
      (u.getLsbD 10 = true ∧ ∃ c, s.tblCopy = some c ∧ microImageOk c.measure = false)) → t.sfu = s.sfu ∧ t.rd SFU_TBL_CTL_LOAD_REFUSED = 1)) ∧
  (∀ (s : State) (u : BitVec 11) (c : Component), s.runs = true → s.sfu.loading = some (u, c) → ∃ t, exec .sfuLoadDone s = .next t ∧
    t.sfu.loading = none ∧ t.sfu.loaded = some c ∧ t.sfu.loadedUnits = u ∧ t.rd SFU_TBL_CTL_LOAD_DONE = 1 ∧
    (∀ q < 1056, ∀ k < 11, let hot := (s.rd SFU_PLOT_CTL_BANK q).testBit k
      t.sfuBank q k (!hot) = (if u.getLsbD k then c.measure else s.sfuBank q k (!hot)) ∧ t.sfuBank q k hot = s.sfuBank q k hot) ∧
    t.mem = s.mem ∧ t.host = s.host ∧ t.plots = s.plots) ∧
  (∀ (s : State), s.runs = true →
    (s.flag SFU_TBL_CTL_LOAD_DONE = false ∨ s.rd SFU_SWITCH_PENDING_PEND ≠ 0 → exec .sfuTableSwitch s = .next s) ∧
    (s.flag SFU_TBL_CTL_LOAD_DONE = true → s.rd SFU_SWITCH_PENDING_PEND = 0 →
    let owed := (((List.range 64).filter s.partEnabled).flatMap s.partPlots).map s.physOf
    ∃ t, exec .sfuTableSwitch s = .next t ∧ t.wm.sfuActive = s.sfu.loaded ∧ t.sfu = { s.sfu with owed := owed } ∧
      t.rd SFU_TBL_CTL_EPOCH = (s.rd SFU_TBL_CTL_EPOCH + 1) % 2 ^ 32 ∧ (∀ p < 64, (t.rd SFU_SWITCH_PENDING_PEND).testBit p = true) ∧
      (∀ q < 1056, t.rd SFU_PLOT_CTL_BANK q = if q ∈ owed then s.rd SFU_PLOT_CTL_BANK q
        else s.rd SFU_PLOT_CTL_BANK q ^^^ s.sfu.loadedUnits.toNat) ∧ t.mem = s.mem ∧ t.host = s.host))

/-- METER_ENTER sets METER and the 0.72 V target; METER_ACTIVE is set once VCORE is there and neither VCORE nor VRES is throttled; METER_EXIT clears both. A headgate sample within the rating gives the mean over the window and moves the level by at most one, never on an unpaced rail; one above the rating, or a mean above the limit for a window at full throttle, stops the module. A thermal sample sets HOT, SENSOR and CAPPING; a third in a row above 107 degrees stops the module. An idle module enters the deepest depth that qualifies, Drained and Dry once the save is done; a wake event ends a depth, or abandons an entry, and nothing wakes an awake module. (R532, R533, R534, R538, R540, R541, R542, R543, R544, R545.) -/
def Obligations.PowerThermalAndDepths : Prop :=
  (∀ (s : State), s.runs = true →
    (s.flag PWR_CTL_METER = true → exec .meterEnter s = .next s) ∧
    (s.flag PWR_CTL_METER = false → ∃ t, exec .meterEnter s = .next t ∧ t.flag PWR_CTL_METER = true ∧ t.rd PWR_CTL_VNOW_MV = 120 ∧
      t.mem = s.mem ∧ t.host = s.host ∧ t.boot = s.boot) ∧
    exec .meterActiveReached s = .next (if s.flag PWR_CTL_METER = false then s
      else if s.rd HG_STATUS_LEVEL 0 = 0 ∧ s.rd HG_STATUS_LEVEL 1 = 0 then s.wr PWR_CTL_METER_ACTIVE 0 1
      else { s with pwr := { s.pwr with calm := some 0 } }) ∧
    (∃ t, exec .meterExit s = .next t ∧ t.flag PWR_CTL_METER = false ∧ t.flag PWR_CTL_METER_ACTIVE = false ∧ t.pwr.calm = none ∧
      t.mem = s.mem ∧ t.host = s.host ∧ t.boot = s.boot)) ∧
  (∀ (s : State) (rail : Fin 9) (c : Nat), let r := rail.val
    s.runs = true → s.seepQuiet .pwr 0 = true →
    let n := s.hgWindow r; let limit := s.hgLimit r; let g := sget ({} : Headgate) s.pwr.gates r
    let xs := (c :: g.samples).take n; let sum := xs.foldl (· + ·) 0
    let above := limit * xs.length < sum; let low := 16 * sum ≤ 15 * limit * xs.length; let k := s.rd HG_STATUS_LEVEL r
    (ratedCurrent r < c → ∃ t, exec (.headgateSample rail c) s = .next t ∧ t.boot.stopped = true ∧ t.mem = s.mem) ∧
    (c ≤ ratedCurrent r → above → unpaced r = true ∨ k = 12 → n ≤ g.overFor + 1 →
      ∃ t, exec (.headgateSample rail c) s = .next t ∧ t.boot.stopped = true ∧ t.mem = s.mem) ∧
    (c ≤ ratedCurrent r → (above → unpaced r = false ∧ k < 12) → ∃ t, exec (.headgateSample rail c) s = .next t ∧
      t.rd HG_STATUS_MEAN r = sum / xs.length % 2 ^ 13 ∧
      (unpaced r = true → t.rd HG_STATUS_LEVEL r = 0) ∧
      (unpaced r = false → above → t.rd HG_STATUS_LEVEL r = k + 1) ∧
      (unpaced r = false → ¬ above → t.rd HG_STATUS_LEVEL r = if low ∧ n ≤ g.lowFor + 1 then k - 1 else k) ∧
      (k = 0 → unpaced r = false → above → t.flag HG_STATUS_LIMITED r = true) ∧
      t.boot = s.boot ∧ t.mem = s.mem ∧ t.host = s.host)) ∧
  (∀ (s : State) (hot : Nat) (sensor : BitVec 7), s.runs = true → s.seepQuiet .pwr 0 = true →
    ∃ t, exec (.thermalSample hot sensor) s = .next t ∧ t.mem = s.mem ∧ t.host = s.host ∧
      (107 < hot ∧ 2 ≤ s.pwr.hotRun → t.boot.stopped = true) ∧
      (¬(107 < hot ∧ 2 ≤ s.pwr.hotRun) → t.boot = s.boot ∧ t.rd THERM_STATUS_HOT = min 255 hot ∧ t.rd THERM_STATUS_SENSOR = sensor.toNat ∧
        t.flag THERM_STATUS_WARN = (s.flag THERM_STATUS_WARN || decide (s.rd THERM_CTL_T_WARN < hot)) ∧
        t.flag THERM_STATUS_CAPPING = (decide (min 103 (s.rd THERM_CTL_T_CAP) < hot) && !s.flag PWR_CTL_METER))) ∧
  (∀ (s : State), s.runs = true → s.boot.ready = true → s.pwr.depth = .awake → s.deviceIdle = true → ∃ t, exec .idleTimerExpiry s = .next t ∧
    (s.nextDepth = .still → t.pwr.depth = .still ∧ t.pwr.entering = none ∧ t.plots = s.plots) ∧
    (s.nextDepth = .pooled → t.pwr.depth = .pooled ∧ t.rd PWR_IDLE_DEPTH = 1 ∧ ∀ x ∈ t.rot.parts, x.2.forceCold = true) ∧
    (∀ d, d = .drained ∨ d = .dry → s.nextDepth = d → t = { s with pwr := { s.pwr with depth := .still, entering := some d } }) ∧
    t.mem = s.mem ∧ t.host = s.host) ∧
  (∀ (s : State), s.runs = true →
    (s.pwr.entering = some .drained → ∃ t, exec .drainedSaveDone s = .next t ∧ t.pwr.depth = .drained ∧ t.pwr.entering = none ∧
      t.rd PWR_IDLE_DEPTH = 2 ∧ t.boot.selfRefresh = true ∧ t.mem = { s.saveReservoir.mem with resv := [] } ∧
      (∀ p < 8, t.rd CF_PORT_STATE p = 0) ∧ t.host = s.host) ∧
    (s.pwr.entering = some .dry → ∃ t, exec .drainedSaveDone s = .next t ∧ t.pwr.depth = .dry ∧ t.rd PWR_IDLE_DEPTH = 3 ∧
      t.boot.railsUp = false ∧ (∀ h < 2, t.rd DEX_HALF_STATE h = 0) ∧ t.host = s.host)) ∧
  (∀ (s : State) (ev : WakeEvent) (e : BootEnv), s.runs = true →
    (wakes ev s.pwr.depth = false → exec (.wake ev e) s = .next s) ∧
    (∀ d, wakes ev s.pwr.depth = true → s.boot.held = [] → s.pwr.entering = some d →
      exec (.wake ev e) s = .next { s.bump (ctrAbandoned d.num) with pwr := { s.pwr with depth := .awake, entering := none } }) ∧
    (wakes ev s.pwr.depth = true → s.boot.held = [] → s.pwr.entering = none →
      (s.pwr.depth = .still ∨ s.pwr.depth = .pooled → exec (.wake ev e) s = .next { s with pwr := { s.pwr with depth := .awake } }) ∧
      (s.pwr.depth = .drained → ∃ t, exec (.wake ev e) s = .next t ∧ t.pwr.depth = .awake ∧ t.mem = s.restoreReservoir.mem ∧
        t.boot.selfRefresh = false ∧ (∀ p < 8, s.flag CF_PORT_ENABLE p = true → t.rd CF_PORT_STATE p = lkTraining) ∧ t.host = s.host) ∧
      (s.pwr.depth = .dry → exec (.wake ev e) s = .next (s.startUp rkDryWake e)))) ∧
  (∀ ev, wakes ev .awake = false)

/-- LEVEE_WRITE of a fence register takes effect and is recorded: LEVEE_PLOT takes FLUME and PLOT, which a fuse under MANUF keeps set. MAP_ENTRY_WRITE gives a logical plot its place, the tokens on their way to the old place go to the new one, and the column is carried across where it reads. PLOT_TEST START begins only where TEST is set and no test runs; its end leaves the verdict, clears BUSY and the plot's own state, and leaves every other plot and column as it was. (R155, R157, R583, R585, R590, R591, R592, R608.) -/
def Obligations.FenceRegistersAndPlotTests : Prop :=
  (∀ (s : State) (off : BitVec 32) (v : DWord) (k : RegKind) (n : Nat), s.runs = true → regAt off.toNat = some (k, n) → leveeKind k = true →
    exec (.leveeWrite off v) s = .next ((({ s with lev := { s.lev with heldWrites := s.lev.heldWrites.erase (off.toNat, v) } } : State).leveeApply k n v).recordReg k n) ∧
    (k = .leveePlot → s.plotPart n = none → ∃ t, exec (.leveeWrite off v) s = .next t ∧
      t.flag LEVEE_PLOT_FLUME n = (v.getLsbD 0 || (s.flag LEVEE_PLOT_MANUF n && s.flag LEVEE_PLOT_FLUME n)) ∧
      t.flag LEVEE_PLOT_PLOT n = (v.getLsbD 1 || (s.flag LEVEE_PLOT_MANUF n && s.flag LEVEE_PLOT_PLOT n)) ∧
      t.flag LEVEE_PLOT_TEST n = v.getLsbD 2 ∧ t.flag LEVEE_PLOT_MANUF n = s.flag LEVEE_PLOT_MANUF n ∧
      sget 0 t.lev.list (regOff k n) = t.reg k n ∧ t.mem = s.mem ∧ t.host = s.host ∧ t.plots = s.plots)) ∧
  (∀ (s : State) (l : LPlot) (v : DWord), s.runs = true → s.partOf l.toNat = none →
    ∃ t, exec (.mapEntryWrite l v) s = .next t ∧ t.rd MAP_ENTRY_PY l.toNat = getBits v 0 5 ∧ t.rd MAP_ENTRY_PX l.toNat = getBits v 5 6 ∧
      t.rd MAP_ENTRY_CHANGING l.toNat = getBits v 11 1 ∧ sget 0 t.lev.list (regOff .mapEntry l.toNat) = t.reg .mapEntry l.toNat ∧
      t.canal = (s.canal.map fun (x : Token) => if x.pplot = s.physOf l.toNat then { x with pplot := 32 * getBits v 5 6 + getBits v 0 5 } else x) ∧
      (∀ j : LPlot, j ≠ l → t.physOf j.toNat = s.physOf j.toNat) ∧ t.host = s.host ∧ t.mem.cis = s.mem.cis ∧ t.mem.aqua = s.mem.aqua ∧
      (let p := s.physOf l.toNat; let q := 32 * getBits v 5 6 + getBits v 0 5
       (p = q → t.mem = s.mem ∧ t.plots = s.plots) ∧
       (p ≠ q → (∀ k, k ≠ p → k ≠ q → t.plot k = s.plot k ∧ ∀ off n, off + n ≤ 2 ^ 24 → t.resvBytes k off n = s.resvBytes k off n) ∧
         (s.columnReads p = true → s.mem.wf = true → (t.plot q).resident = (s.plot p).resident ∧
           ∀ off n, off + n ≤ 2 ^ 24 → t.resvBytes q off n = s.resvBytes p off n) ∧
         (s.columnReads p = false → (t.plot q).resident = [] ∧ t.mem = s.mem)))) ∧
  (∀ (s : State), s.runs = true →
    (s.flag PLOT_TEST_BUSY = true ∨ s.flag LEVEE_PLOT_TEST (s.rd PLOT_TEST_PPLOT) = false → exec .plotTestStart s = .next s) ∧
    (s.flag PLOT_TEST_BUSY = false → s.flag LEVEE_PLOT_TEST (s.rd PLOT_TEST_PPLOT) = true →
      exec .plotTestStart s = .next { s.wrs 0 [(PLOT_TEST_BUSY, 1), (PLOT_TEST_RESULT, 0), (PLOT_TEST_UNIT, 0)] with
        lev := { s.lev with testPlot := s.rd PLOT_TEST_PPLOT } })) ∧
  (∀ (s : State) (res : TestResult), s.runs = true → s.flag PLOT_TEST_BUSY = true → let q := s.lev.testPlot
    ∃ t, exec (.plotTestDone res) s = .next t ∧ t.flag PLOT_TEST_BUSY = false ∧
      t.rd PLOT_TEST_RESULT = (match res with | .pass => 1 | .fail _ => 2 | .abandoned => 3) ∧
      (∀ u, res = .fail u → t.rd PLOT_TEST_UNIT = u.toNat) ∧ (res = .abandoned → t.flag LEVEE_PLOT_TEST q = false) ∧ t.flag (⟨.evtStatus, evTestDone, 1⟩ : Fld) = true ∧
      (t.plot q).running = false ∧ (t.plot q).ctr = [] ∧ (∀ p, p ≠ q → t.plot p = s.plot p) ∧
      (∀ p off n, p ≠ q → off + n ≤ 2 ^ 24 → t.resvBytes p off n = s.resvBytes p off n) ∧
      t.mem.cis = s.mem.cis ∧ t.mem.aqua = s.mem.aqua ∧ t.host = s.host ∧ t.ctx = s.ctx)

/-- RING_ENABLE of an inactive ring with sizes in range enables it with its four indices 0, PHASE 1 and next number 1, and keeps its tenant; RING_DISABLE clears ENABLE. COUNTER_CLEAR clears exactly the counters and overflow bits its mask names; GAUGE_CLEAR the gauges; a saturated gauge stops at all-ones. A REGISTER_WRITE in service takes effect, a misaligned one is counted, and one that must wait is held in order. DIAG_WRITE writes the stores of a plot that no partition holds. An armed seep that has let its DELAY events through leaves its fault for its unit when it fires, is FIRED, and is disarmed, but for a persistent PWR_SEEP. (R141, R507, R530, R545, R597, R598, R604, R606, R612, R613, R614, R615.) -/
def Obligations.RegisterCommands : Prop :=
  (∀ (s : State) (q : RingNo) (v : DWord), let r := q.toNat
    s.runs = true →
    (s.flag RING_CTL_ENABLE r = false → s.flag RING_STATUS_ACTIVE r = true → exec (.ringEnable q v) s = .next s) ∧
    (s.flag RING_CTL_ENABLE r = false → s.flag RING_STATUS_ACTIVE r = false → ringLogsBad v = true →
      exec (.ringEnable q v) s = .next (s.wr RING_STATUS_BAD r 1)) ∧
    (s.flag RING_CTL_ENABLE r = false → s.flag RING_STATUS_ACTIVE r = false → ringLogsBad v = false →
      ∃ t, exec (.ringEnable q v) s = .next t ∧ t.flag RING_CTL_ENABLE r = true ∧
        t.rd RING_CTL_SQ_LOG r = getBits v 0 5 ∧ t.rd RING_CTL_CQ_LOG r = getBits v 5 5 ∧ t.rd RING_CTL_VECTOR r = getBits v 21 11 ∧
        t.rd RING_CTL_TENANT r = s.rd RING_CTL_TENANT r ∧ t.rd RING_CTL_MAINT r = s.rd RING_CTL_MAINT r ∧
        t.rd RING_STATUS_SQ_HEAD r = 0 ∧ t.rd RING_STATUS_SQ_TAIL r = 0 ∧ t.rd RING_STATUS_CQ_TAIL r = 0 ∧ t.ring q = {} ∧
        (∀ k, k ≠ q → t.ring k = s.ring k ∧ t.reg .ringCtl k.toNat = s.reg .ringCtl k.toNat) ∧
        t = { s with regs := t.regs, host := { s.host with rings := t.host.rings } }) ∧
    (∃ t, exec (.ringDisable q v) s = .next t ∧ t.flag RING_CTL_ENABLE r = false ∧ t.rd RING_CTL_TENANT r = s.rd RING_CTL_TENANT r ∧
      (s.flag RING_CTL_ENABLE r = true → t.rd RING_CTL_SQ_LOG r = s.rd RING_CTL_SQ_LOG r ∧ t.rd RING_CTL_CQ_LOG r = s.rd RING_CTL_CQ_LOG r) ∧
      t.reg .ringStatus r = s.reg .ringStatus r ∧ t = { s with regs := t.regs })) ∧
  (∀ (s : State) (b : BitVec 32) (m : DWord) (f : CtrFamily), s.runs = true → ctrBlockAt b.toNat = some (f, b.toNat) →
    ∃ t, exec (.counterClear b m) s = .next t ∧ t = { s with ctrs := t.ctrs, ovf := t.ovf } ∧
      (∀ i < 60, sget (0 : BitVec 48) t.ctrs (b.toNat + 8 * i)
        = if (m &&& f.mask).getLsbD i then 0 else sget (0 : BitVec 48) s.ctrs (b.toNat + 8 * i)) ∧
      sget (0 : DWord) t.ovf b.toNat = sget (0 : DWord) s.ovf b.toNat &&& ~~~(m &&& f.mask) ∧
      (∀ o, o ≠ b.toNat → sget (0 : DWord) t.ovf o = sget (0 : DWord) s.ovf o)) ∧
  (∀ (s : State) (v : DWord), s.runs = true → ∃ t, exec (.gaugeClear v) s = .next t ∧
    t.rd REF_GAUGE_VALUE = (if v.getLsbD 0 then 0 else s.rd REF_GAUGE_VALUE) ∧
    t.rd CODEC_GAUGE_VALUE = (if v.getLsbD 1 then 0 else s.rd CODEC_GAUGE_VALUE) ∧ t = { s with regs := t.regs, codecPhase := t.codecPhase }) ∧
  (∀ (s : State) (o : BitVec 32), s.runs = true →
    (∀ g ∈ [REF_GAUGE_VALUE, CODEC_GAUGE_VALUE], o.toNat = regOff g.reg 0 → s.rd g ≠ ctrMax →
      ∃ t, exec (.gaugeSaturated o) s = .next t ∧ t.rd g = ctrMax ∧ (t.rd EVT_STATUS_EVENTS).testBit evCounterOvf = true ∧ t.mem = s.mem ∧
        t.host = s.host) ∧
    (∀ f b, ctrBlockAt o.toNat = some (f, b) → o.toNat % 8 = 0 → f.domain ((o.toNat - b) / 8) ≠ 15 → (o.toNat - b) / 8 < 60 →
      o.toNat ≠ regOff .refGauge 0 → o.toNat ≠ regOff .codecGauge 0 →
      ∃ t, exec (.gaugeSaturated o) s = .next t ∧ (sget (0 : BitVec 48) t.ctrs o.toNat).toNat = ctrMax ∧ t.mem = s.mem ∧ t.host = s.host)) ∧
  (∀ (s : State) (src : AccessSource) (o : BitVec 32) (v : DWord), s.runs = true →
    (o.toNat % 8 ≠ 0 → exec (.registerWrite src o v) s = .next (s.bump ctrBadAccess)) ∧
    (o.toNat % 8 = 0 → s.accessNow src o.toNat = false →
      exec (.registerWrite src o v) s = .next { s with boot := { s.boot with held := s.boot.held ++ [.registerWrite src o v] } }) ∧
    (o.toNat % 8 = 0 → s.accessNow src o.toNat = true →
      exec (.registerWrite src o v) s = .next (s.accessWrite src o.toNat v) ∧
      (∀ k ∈ [RegKind.thermCtl, .hgCtl, .pwrIdle], ∀ n, src = .operator → regAt o.toNat = some (k, n) → o.toNat < diagBase →
        exec (.registerWrite src o v) s = .next (s.setReg k n (writeFields k n (s.reg k n) v))))) ∧
  (∀ (s : State) (o : BitVec 32) (v : DWord) (p d : Nat), s.runs = true → o.toNat % 8 = 0 → diagOf o.toNat = some (p, d) → s.plotPart p = none →
    exec (.diagWrite .operator o v) s = .next (s.setPlot p ((s.plot p).diagWrite (diagPlace d) v)) ∧
    (d < 0x40000 → let x := (s.plot p).diagWrite (diagPlace d) v
      (x.tile (d / 0x4000)).elem 0 (d % 0x4000 / 4) = v.setWidth 32 ∧ (x.tile (d / 0x4000)).elem 0 (d % 0x4000 / 4 + 1) = (v >>> 32).setWidth 32 ∧
      ∀ k, k ≠ d / 0x4000 → x.tile k = (s.plot p).tile k)) ∧
  (∀ (s : State) (k : SeepKind) (n : Nat), let w := s.armedWord k n
    s.runs = true →
    (k = .watchdog ∨ s.seepArmed k n = false ∨ s.seepSeen k n < seepDelay w → exec (.seepFire k n) s = .next s) ∧
    (k ≠ .watchdog → s.seepArmed k n = true → seepDelay w ≤ s.seepSeen k n → ∃ t, exec (.seepFire k n) s = .next t ∧
      t.inject = s.inject ++ [{ kind := k, inst := n, word := w }] ∧ (t.reg (seepReg k) n).getLsbD 48 = true ∧
      (k ≠ .pwr ∨ seepPersists w = false → (t.reg (seepReg k) n).getLsbD 0 = false ∧ t.armedWord k n = 0 ∧ t.seepSeen k n = 0) ∧
      (k = .pwr → seepPersists w = true → t.armedWord k n = w) ∧
      t = { s with inject := t.inject, regs := t.regs, armed := t.armed, seen := t.seen }))

/-- I3C_ENTDAA takes the address; REG_READ replies with the register's word, in a wake depth after the wake; STATUS, BOARD_CONFIG, WAKE and SENSE of their form reply and do what they name, and every other form sets ERR and nothing else. RESET with its key, the watchdog and RESET_N rising begin a reset of their kind, POWER_ON where a stop has removed the rails and DRY_WAKE in Dry. RESET_N low for 10 µs holds the units; below 1 µs it is ignored. A reset loses the Reservoir, and Cistern with power; Aquifer stays; a register it does not keep holds its reset value; RST_CAUSE takes the kind and counts the boots. (R12, R593, R596, R626, R633, R634, R635, R637, R639, R640.) -/
def Obligations.ManagementCommands : Prop :=
  (∀ (s : State) (addr : BitVec 7), exec (.i3cEntdaa addr) s = .next { s with boot := { s.boot with i3cAddr := some addr } }) ∧
  (∀ (s : State) (bs : List Byte) (e : BootEnv) (mv ma a b f : Nat),
    let bad : State := { s with boot := { s.boot with i3cErr := true } }
    (bs.length ≠ 4 → exec (.regRead bs) s = .next bad ∧ exec (.boardConfig bs) s = .next bad) ∧
    (bs ≠ [] → exec (.status bs) s = .next bad ∧ exec (.i3cWake bs e) s = .next bad ∧ exec (.sense bs mv ma a b f) s = .next bad) ∧
    (bs ≠ [0x5A, 0xA5] ∨ s.boot.resetLow = true → exec (.i3cReset bs e) s = .next bad) ∧
    (bs.length = 4 → leNat bs % 8 ≠ 0 → exec (.regRead bs) s = .next bad) ∧
    (bs.length = 4 → leNat bs % 8 = 0 → s.readWaits (leNat bs) = true →
      exec (.regRead bs) s = .next { s with boot := { s.boot with held := s.boot.held ++ [.regRead bs] } }) ∧
    (bs.length = 4 → leNat bs % 8 = 0 → s.readWaits (leNat bs) = false → exec (.regRead bs) s = .next (s.readReply (leNat bs))) ∧
    (∀ k n, bs.length = 4 → leNat bs % 8 = 0 → leNat bs < diagBase → regAt (leNat bs) = some (k, n) → s.readWaits (leNat bs) = false →
      exec (.regRead bs) s = .next { s with out := s.out ++ [.i3cReply (leBytes 8 (s.reg k n).toNat)] }) ∧
    (bs.length = 4 → s.boot.portUp = false → s.boot.step ≠ 13 → ∃ t, exec (.boardConfig bs) s = .next t ∧
      t.boot = { s.boot with config := some (BitVec.ofNat 32 (leNat bs % 2 ^ 30)), i3cErr := false } ∧ t = { s with boot := t.boot, out := t.out }) ∧
    exec (.status []) s = .next { s with out := s.out ++ [.i3cReply s.statusBytes], boot := { s.boot with i3cErr := false } } ∧
    exec (.sense [] mv ma a b f) s
      = .next { s with out := s.out ++ [.i3cReply (leBytes 4 mv ++ leBytes 4 ma ++ leBytes 2 a ++ leBytes 2 b ++ leBytes 4 f)] } ∧
    (s.runs = false → exec (.i3cWake [] e) s = .next s.replyStatus) ∧
    (s.runs = true → exec (.i3cWake [] e) s = .next (s.wakeBy .i3c e).replyStatus) ∧
    (s.boot.resetLow = false → exec (.i3cReset [0x5A, 0xA5] e) s = .next (s.reset_ rkMgmt e)) ∧
    exec (.watchdogReset e) s = .next (s.reset_ rkWatchdog e) ∧
    exec (.powerOn e) s = .next (s.startUp rkPowerOn e)) ∧
  (∀ (s : State) (kind : Nat) (e : BootEnv),
    (s.boot.stopped = true → s.boot.railsUp = false → s.reset_ kind e = s.startUp rkPowerOn e) ∧
    (s.boot.stopped = false → s.pwr.depth = .dry → s.reset_ kind e = s.startUp rkDryWake e) ∧
    (s.boot.railsUp = true → s.pwr.depth ≠ .dry → s.reset_ kind e = s.startUp kind e) ∧
    ((s.lose kind).mem.resv = [] ∧ (s.lose kind).mem.aqua = s.mem.aqua ∧ (s.lose kind).pending = s.pending ∧ (s.lose kind).out = s.out ∧
      (coldKind kind = true → (s.lose kind).mem.cis = [] ∧ (s.lose kind).ctx = {}) ∧
      (coldKind kind = false → (s.lose kind).mem.cis = s.mem.cis ∧ (s.lose kind).ctx = s.ctx) ∧
      (∀ k n, regAt (regOff k n) = some (k, n) → keepsReg kind k = false → (s.lose kind).reg k n = regReset k n)) ∧
    (kind ≠ rkPowerOn → kind < 8 → (s.noteReset kind s.boot.stopped).rd RST_CAUSE_KIND = kind ∧
      (s.noteReset kind s.boot.stopped).flag RST_CAUSE_STOPPED = s.boot.stopped ∧
      (s.noteReset kind s.boot.stopped).rd RST_CAUSE_BOOTS = (s.rd RST_CAUSE_BOOTS + 1) % 2 ^ 32)) ∧
  (∀ (s : State) (e : BootEnv), e.inputOk = false → ∃ t, exec (.powerOn e) s = .next t ∧ t.boot.stopped = true ∧ t.boot.step = 3 ∧
    t.boot.railsUp = false ∧ t.mem = { aqua := s.mem.aqua }) ∧
  (∀ (s : State) (us : Nat), (us < 1 ∨ s.boot.resetLow = true → exec (.resetPinAssert us) s = .next s) ∧
    (1 ≤ us → s.boot.resetLow = false → ∃ t, exec (.resetPinAssert us) s = .next t ∧ t = { s with boot := t.boot, freeIdx := t.freeIdx } ∧
      (10 ≤ us → t.boot.resetLow = true ∧ t.boot.stopped = s.boot.stopped ∧ (s.boot.railsUp = true → t.boot.ready = false ∧ t.boot.step = 7)) ∧
      (us < 10 → t.boot = s.boot ∨ t.boot.resetLow = true))) ∧
  (∀ (s : State) (e : BootEnv), (s.boot.resetLow = false → exec (.resetPinRelease e) s = .next s) ∧
    (s.boot.resetLow = true → exec (.resetPinRelease e) s = .next (s.releaseReset e)) ∧
    (s.boot.resetLow = true → s.boot.railsUp = false → s.boot.stopped = false → s.pwr.depth ≠ .dry →
      exec (.resetPinRelease e) s = .next { s with boot := { s.boot with resetLow := false } }) ∧
    (s.boot.resetLow = true → s.boot.railsUp = true → s.boot.kind ≠ 1 → s.boot.stopped = false →
      exec (.resetPinRelease e) s = .next (({ s with boot := { s.boot with resetLow := false } } : State).resumeStartUp e)) ∧
    (s.boot.resetLow = true → s.boot.railsUp = true → s.boot.kind = 1 → s.pwr.depth ≠ .dry →
      exec (.resetPinRelease e) s = .next (({ s with boot := { s.boot with resetLow := false } } : State).startUp rkPin e)))
end

