-- ==== Sys2Proof/Laws/Sparse.lean ====
section
/-! SUPPORT. Laws of sparse maps and of the byte stores over them: a read after a write, and the canonical form. -/

namespace Sys2Proof.Machine

variable {α : Type}

@[simp] theorem sget_nil (d : α) (i : Nat) : sget d ([] : Sparse α) i = d := rfl

@[simp] theorem sget_sdel_same (d : α) (m : Sparse α) (i : Nat) : sget d (sdel m i) i = d := by
  induction m with
  | nil => rfl
  | cons x m ih => by_cases h : i = x.1 <;> simp [sdel, sget, h] <;> simpa [h] using ih

theorem sget_sdel_other (d : α) (m : Sparse α) {i j : Nat} (h : j ≠ i) : sget d (sdel m i) j = sget d m j := by
  induction m with
  | nil => rfl
  | cons x m ih =>
    by_cases h1 : i = x.1
    · have : j ≠ x.1 := by omega
      simp only [sdel, h1, if_true, sget, this, if_false]
      simpa [h1] using ih
    · simp [sdel, sget, h1, ih]

@[simp] theorem sget_sins_same (d : α) (m : Sparse α) (i : Nat) (v : α) (h : ∀ w, (i, w) ∉ m) : sget d (sins m i v) i = v := by
  induction m with
  | nil => simp [sins, sget]
  | cons x m ih =>
    have hx : i ≠ x.1 := fun e => h x.2 (by rw [e]; exact List.mem_cons_self)
    by_cases h1 : i < x.1
    · simp [sins, sget, h1]
    · simp [sins, sget, h1, hx, ih (fun w hw => h w (List.mem_cons_of_mem _ hw))]

theorem sget_sins_other (d : α) (m : Sparse α) {i j : Nat} (v : α) (h : j ≠ i) : sget d (sins m i v) j = sget d m j := by
  induction m with
  | nil => simp [sins, sget, h]
  | cons x m ih => by_cases h1 : i < x.1 <;> simp [sins, sget, h1, h, ih]

theorem not_mem_sdel (m : Sparse α) (i : Nat) (w : α) : (i, w) ∉ sdel m i := by
  induction m with
  | nil => simp [sdel]
  | cons x m ih =>
    by_cases h1 : i = x.1
    · simpa [sdel, h1] using (h1 ▸ ih)
    · have : (i, w) ≠ x := fun e => h1 (by rw [← e])
      simp [sdel, h1, this, ih]

/-- A read of the key that was set. -/
@[simp] theorem sget_sput_same [DecidableEq α] (d : α) (m : Sparse α) (i : Nat) (v : α) : sget d (sput d m i v) i = v := by
  by_cases h : v = d
  · simp [sput, h]
  · simp [sput, h, not_mem_sdel]

/-- A read of another key. -/
theorem sget_sput_other [DecidableEq α] (d e : α) (m : Sparse α) {i j : Nat} (v : α) (h : j ≠ i) :
    sget d (sput e m i v) j = sget d m j := by
  by_cases hv : v = e
  · simp [sput, hv, sget_sdel_other, h]
  · simp [sput, hv, sget_sins_other, sget_sdel_other, h]

/-! ### The canonical form -/

theorem sparseFrom_mono [DecidableEq α] (d : α) (m : Sparse α) {lo lo' : Nat} (h : sparseFrom d lo m = true) (hl : lo' ≤ lo) :
    sparseFrom d lo' m = true := by
  cases m with
  | nil => rfl
  | cons x m =>
    simp only [sparseFrom, Bool.and_eq_true, decide_eq_true_eq] at h ⊢
    exact ⟨⟨by omega, h.1.2⟩, h.2⟩

theorem sdel_from [DecidableEq α] (d : α) (m : Sparse α) (i : Nat) {lo : Nat} (h : sparseFrom d lo m = true) :
    sparseFrom d lo (sdel m i) = true := by
  induction m generalizing lo with
  | nil => rfl
  | cons x m ih =>
    simp only [sparseFrom, Bool.and_eq_true, decide_eq_true_eq] at h
    by_cases h1 : i = x.1
    · simpa [sdel, h1] using ih (sparseFrom_mono d m h.2 (by omega))
    · simp only [sdel, h1, if_false, sparseFrom, Bool.and_eq_true, decide_eq_true_eq]
      exact ⟨h.1, ih h.2⟩

theorem sins_from [DecidableEq α] (d : α) (m : Sparse α) (i : Nat) (v : α) (hv : v ≠ d) (hm : ∀ w, (i, w) ∉ m) {lo : Nat}
    (h : sparseFrom d lo m = true) (hi : lo ≤ i) : sparseFrom d lo (sins m i v) = true := by
  induction m generalizing lo with
  | nil => simp [sins, sparseFrom, hi, hv]
  | cons x m ih =>
    have hx : i ≠ x.1 := fun e => hm x.2 (by rw [e]; exact List.mem_cons_self)
    simp only [sparseFrom, Bool.and_eq_true, decide_eq_true_eq] at h
    by_cases h1 : i < x.1
    · simp only [sins, h1, if_true, sparseFrom, Bool.and_eq_true, decide_eq_true_eq]
      exact ⟨⟨hi, by simpa using hv⟩, ⟨by omega, h.1.2⟩, h.2⟩
    · simp only [sins, h1, if_false, sparseFrom, Bool.and_eq_true, decide_eq_true_eq]
      exact ⟨h.1, ih (fun w hw => hm w (List.mem_cons_of_mem _ hw)) h.2 (by omega)⟩

/-- Setting a key keeps the canonical form. -/
theorem sput_wf [DecidableEq α] (d : α) (m : Sparse α) (i : Nat) (v : α) (h : sparseWf d m = true) :
    sparseWf d (sput d m i v) = true := by
  by_cases hv : v = d
  · simpa [sput, hv, sparseWf] using sdel_from d m i h
  · simpa [sput, hv, sparseWf] using
      sins_from d (sdel m i) i v hv (not_mem_sdel m i) (sdel_from d m i h) (Nat.zero_le i)

/-! ### Byte stores -/

/-- A byte store keeps its form under a write. -/
theorem writeBytes_wf (m : List Host.Cell) (a : Nat) (bs : List Byte) (h : sparseWf (0 : Byte) m = true) :
    sparseWf (0 : Byte) (writeBytes m a bs) = true := by
  induction bs generalizing m a with
  | nil => exact h
  | cons b bs ih => exact ih _ _ (sput_wf (0 : Byte) m a b h)

/-- A byte outside a write stays. -/
theorem writeBytes_other (m : List Host.Cell) (a : Nat) (bs : List Byte) (j : Nat) (hj : j < a ∨ a + bs.length ≤ j) :
    sget (0 : Byte) (writeBytes m a bs) j = sget (0 : Byte) m j := by
  induction bs generalizing m a with
  | nil => rfl
  | cons b bs ih =>
    simp only [List.length_cons] at hj
    rw [writeBytes, ih _ _ (by omega)]
    exact sget_sput_other _ _ m b (by omega)

/-- A byte inside a write is the byte written. -/
theorem writeBytes_inside (m : List Host.Cell) (a : Nat) (bs : List Byte) (j : Nat) (hj : j < bs.length) :
    sget (0 : Byte) (writeBytes m a bs) (a + j) = bs[j] := by
  induction bs generalizing m a j with
  | nil => simp at hj
  | cons b bs ih =>
    cases j with
    | zero => rw [writeBytes, writeBytes_other _ _ _ _ (by omega)]; simp
    | succ j =>
      have := ih (sput (0 : Byte) m a b) (a + 1) j (by simpa using hj)
      simpa [writeBytes, Nat.add_assoc, Nat.add_comm 1 j] using this

/-- What a read after a write of the same extent gives. -/
theorem readBytes_writeBytes (m : List Host.Cell) (a : Nat) (bs : List Byte) :
    readBytes (writeBytes m a bs) a bs.length = bs := by
  induction bs generalizing m a with
  | nil => rfl
  | cons b bs ih =>
    simp only [List.length_cons, readBytes, writeBytes]
    rw [ih, writeBytes_other _ _ _ _ (by omega)]; simp

end Sys2Proof.Machine
end

