-- ==== Sys2Proof/Laws/Regs.lean ====
section
/-! SUPPORT. Laws of register fields: what a field reads after one was written. -/

namespace Sys2Proof.Machine

/-- A word split around a field. -/
theorem split_field (x lo w : Nat) :
    x = 2 ^ lo * (2 ^ w * (x >>> lo / 2 ^ w)) + (x >>> lo % 2 ^ w) * 2 ^ lo + x % 2 ^ lo := by
  have h1 := Nat.div_add_mod (x >>> lo) (2 ^ w)
  have h2 := Nat.div_add_mod x (2 ^ lo)
  rw [← Nat.shiftRight_eq_div_pow] at h2
  calc x = 2 ^ lo * (x >>> lo) + x % 2 ^ lo := h2.symm
    _ = 2 ^ lo * (2 ^ w * (x >>> lo / 2 ^ w) + x >>> lo % 2 ^ w) + x % 2 ^ lo := by rw [h1]
    _ = _ := by ring

/-- A word with a field replaced. -/
theorem setBits_toNat (x : DWord) (lo w v : Nat) (h : lo + w ≤ 64) :
    (setBits x lo w v).toNat = 2 ^ lo * (2 ^ w * (x.toNat >>> lo / 2 ^ w) + v % 2 ^ w) + x.toNat % 2 ^ lo := by
  have hs := split_field x.toNat lo w
  have hv : v % 2 ^ w < 2 ^ w := Nat.mod_lt _ (Nat.two_pow_pos w)
  have ha : x.toNat % 2 ^ lo < 2 ^ lo := Nat.mod_lt _ (Nat.two_pow_pos lo)
  have hc : x.toNat >>> lo / 2 ^ w < 2 ^ (64 - (lo + w)) := by
    rw [Nat.shiftRight_eq_div_pow, Nat.div_div_eq_div_mul, ← Nat.pow_add]
    refine Nat.div_lt_of_lt_mul ?_
    rw [← Nat.pow_add, Nat.add_sub_of_le h]
    exact x.isLt
  have hlt : 2 ^ lo * (2 ^ w * (x.toNat >>> lo / 2 ^ w) + v % 2 ^ w) + x.toNat % 2 ^ lo < 2 ^ 64 := by
    have h1 : 2 ^ w * (x.toNat >>> lo / 2 ^ w) + v % 2 ^ w + 1 ≤ 2 ^ w * 2 ^ (64 - (lo + w)) :=
      calc _ ≤ 2 ^ w * (x.toNat >>> lo / 2 ^ w) + 2 ^ w := by omega
        _ = 2 ^ w * (x.toNat >>> lo / 2 ^ w + 1) := by ring
        _ ≤ _ := Nat.mul_le_mul_left _ hc
    have h2 : 2 ^ lo * (2 ^ w * 2 ^ (64 - (lo + w))) = 2 ^ 64 := by
      rw [← Nat.pow_add, ← Nat.pow_add]; congr 1; omega
    calc _ < 2 ^ lo * (2 ^ w * (x.toNat >>> lo / 2 ^ w) + v % 2 ^ w) + 2 ^ lo := by omega
      _ = 2 ^ lo * (2 ^ w * (x.toNat >>> lo / 2 ^ w) + v % 2 ^ w + 1) := by ring
      _ ≤ 2 ^ lo * (2 ^ w * 2 ^ (64 - (lo + w))) := Nat.mul_le_mul_left _ h1
      _ = _ := h2
  have he : x.toNat - (x.toNat >>> lo % 2 ^ w) <<< lo + (v % 2 ^ w) <<< lo =
      2 ^ lo * (2 ^ w * (x.toNat >>> lo / 2 ^ w) + v % 2 ^ w) + x.toNat % 2 ^ lo := by
    rw [Nat.shiftLeft_eq, Nat.shiftLeft_eq, Nat.mul_add, Nat.mul_comm (2 ^ lo) (v % 2 ^ w)]
    omega
  unfold setBits
  rw [BitVec.toNat_ofNat, he, Nat.mod_eq_of_lt hlt]

/-- A field reads what was written to it. -/
theorem getBits_setBits_same (x : DWord) (lo w v : Nat) (h : lo + w ≤ 64) : getBits (setBits x lo w v) lo w = v % 2 ^ w := by
  have ha : x.toNat % 2 ^ lo < 2 ^ lo := Nat.mod_lt _ (Nat.two_pow_pos lo)
  unfold getBits
  rw [setBits_toNat x lo w v h, Nat.shiftRight_eq_div_pow, Nat.mul_add_div (Nat.two_pow_pos lo), Nat.div_eq_of_lt ha,
    Nat.add_zero, Nat.mul_add_mod, Nat.mod_mod]

/-- A field apart from the one written reads as before. -/
theorem getBits_setBits_other (x : DWord) {lo w v lo' w' : Nat} (h : lo + w ≤ 64) (hd : lo' + w' ≤ lo ∨ lo + w ≤ lo') :
    getBits (setBits x lo w v) lo' w' = getBits x lo' w' := by
  have ha : x.toNat % 2 ^ lo < 2 ^ lo := Nat.mod_lt _ (Nat.two_pow_pos lo)
  have hv : v % 2 ^ w < 2 ^ w := Nat.mod_lt _ (Nat.two_pow_pos w)
  have hf : x.toNat >>> lo % 2 ^ w < 2 ^ w := Nat.mod_lt _ (Nat.two_pow_pos w)
  unfold getBits
  rw [setBits_toNat x lo w v h]
  apply Nat.eq_of_testBit_eq
  intro i
  have hx : x.toNat = 2 ^ lo * (2 ^ w * (x.toNat >>> lo / 2 ^ w) + x.toNat >>> lo % 2 ^ w) + x.toNat % 2 ^ lo := by
    conv_lhs => rw [split_field x.toNat lo w]
    ring
  simp only [Nat.testBit_mod_two_pow, Nat.testBit_shiftRight]
  by_cases hi : i < w'
  · conv_rhs => rw [hx]
    rw [Nat.testBit_two_pow_mul_add _ ha, Nat.testBit_two_pow_mul_add _ ha]
    rcases hd with hd | hd
    · have : lo' + i < lo := by omega
      simp [this]
    · have : ¬ lo' + i < lo := by omega
      rw [Nat.testBit_two_pow_mul_add _ hv, Nat.testBit_two_pow_mul_add _ hf]
      have h2 : ¬ lo' + i - lo < w := by omega
      rw [if_neg this, if_neg this, if_neg h2, if_neg h2]
  · simp [hi]

@[simp] theorem reg_setReg_same (s : State) (k : RegKind) (n : Nat) (v : DWord) : (s.setReg k n v).reg k n = v := by
  simp [State.setReg, State.reg]

theorem reg_setReg_other (s : State) {k k' : RegKind} {n n' : Nat} (v : DWord) (h : regOff k' n' ≠ regOff k n) :
    (s.setReg k n v).reg k' n' = s.reg k' n' := by
  simp [State.setReg, State.reg, sget_sput_other, h]

/-- The device reads what it wrote. -/
theorem rd_wr_same (s : State) (f : Fld) (n v : Nat) (h : f.lo + f.w ≤ 64) : (s.wr f n v).rd f n = v % 2 ^ f.w := by
  simp [State.wr, State.rd, getBits_setBits_same _ _ _ _ h]

/-- Every other field reads as before. -/
theorem rd_wr_other (s : State) {f g : Fld} {n m : Nat} (v : Nat) (h : f.lo + f.w ≤ 64) (ha : f.apart n g m) :
    (s.wr f n v).rd g m = s.rd g m := by
  rcases ha with ha | ⟨hk, hn, hb⟩
  · simp [State.wr, State.rd, reg_setReg_other _ _ ha]
  · obtain ⟨k, lo, w⟩ := f
    obtain ⟨k', lo', w'⟩ := g
    subst hk hn
    simp only [State.wr, State.rd, reg_setReg_same]
    exact getBits_setBits_other _ h hb

end Sys2Proof.Machine
end

