-- ==== Sys2Proof/Laws/State.lean ====
section
/-! SUPPORT. What each update of the state leaves unchanged: one law for each field it does not set. -/

namespace Sys2Proof.Machine

section setReg
variable (s : State) (k : RegKind) (n : Nat) (v : DWord)
@[simp] theorem State.setReg_ctrs : (s.setReg k n v).ctrs = s.ctrs := rfl
@[simp] theorem State.setReg_ovf : (s.setReg k n v).ovf = s.ovf := rfl
@[simp] theorem State.setReg_mem : (s.setReg k n v).mem = s.mem := rfl
@[simp] theorem State.setReg_host : (s.setReg k n v).host = s.host := rfl
@[simp] theorem State.setReg_ctx : (s.setReg k n v).ctx = s.ctx := rfl
@[simp] theorem State.setReg_rot : (s.setReg k n v).rot = s.rot := rfl
@[simp] theorem State.setReg_pools : (s.setReg k n v).pools = s.pools := rfl
@[simp] theorem State.setReg_edits : (s.setReg k n v).edits = s.edits := rfl
@[simp] theorem State.setReg_plots : (s.setReg k n v).plots = s.plots := rfl
@[simp] theorem State.setReg_canal : (s.setReg k n v).canal = s.canal := rfl
@[simp] theorem State.setReg_sfu : (s.setReg k n v).sfu = s.sfu := rfl
@[simp] theorem State.setReg_aqf : (s.setReg k n v).aqf = s.aqf := rfl
@[simp] theorem State.setReg_wm : (s.setReg k n v).wm = s.wm := rfl
@[simp] theorem State.setReg_vid : (s.setReg k n v).vid = s.vid := rfl
@[simp] theorem State.setReg_lnk : (s.setReg k n v).lnk = s.lnk := rfl
@[simp] theorem State.setReg_cf : (s.setReg k n v).cf = s.cf := rfl
@[simp] theorem State.setReg_cis : (s.setReg k n v).cis = s.cis := rfl
@[simp] theorem State.setReg_boot : (s.setReg k n v).boot = s.boot := rfl
@[simp] theorem State.setReg_pwr : (s.setReg k n v).pwr = s.pwr := rfl
@[simp] theorem State.setReg_lev : (s.setReg k n v).lev = s.lev := rfl
@[simp] theorem State.setReg_armed : (s.setReg k n v).armed = s.armed := rfl
@[simp] theorem State.setReg_seen : (s.setReg k n v).seen = s.seen := rfl
@[simp] theorem State.setReg_inject : (s.setReg k n v).inject = s.inject := rfl
@[simp] theorem State.setReg_out : (s.setReg k n v).out = s.out := rfl
@[simp] theorem State.setReg_arb : (s.setReg k n v).arb = s.arb := rfl
@[simp] theorem State.setReg_codecPhase : (s.setReg k n v).codecPhase = s.codecPhase := rfl
@[simp] theorem State.setReg_freeIdx : (s.setReg k n v).freeIdx = s.freeIdx := rfl
@[simp] theorem State.setReg_pending : (s.setReg k n v).pending = s.pending := rfl
end setReg

section wr
variable (s : State) (f : Fld) (n v : Nat)
@[simp] theorem State.wr_ctrs : (s.wr f n v).ctrs = s.ctrs := rfl
@[simp] theorem State.wr_ovf : (s.wr f n v).ovf = s.ovf := rfl
@[simp] theorem State.wr_mem : (s.wr f n v).mem = s.mem := rfl
@[simp] theorem State.wr_host : (s.wr f n v).host = s.host := rfl
@[simp] theorem State.wr_ctx : (s.wr f n v).ctx = s.ctx := rfl
@[simp] theorem State.wr_rot : (s.wr f n v).rot = s.rot := rfl
@[simp] theorem State.wr_pools : (s.wr f n v).pools = s.pools := rfl
@[simp] theorem State.wr_edits : (s.wr f n v).edits = s.edits := rfl
@[simp] theorem State.wr_plots : (s.wr f n v).plots = s.plots := rfl
@[simp] theorem State.wr_canal : (s.wr f n v).canal = s.canal := rfl
@[simp] theorem State.wr_sfu : (s.wr f n v).sfu = s.sfu := rfl
@[simp] theorem State.wr_aqf : (s.wr f n v).aqf = s.aqf := rfl
@[simp] theorem State.wr_wm : (s.wr f n v).wm = s.wm := rfl
@[simp] theorem State.wr_vid : (s.wr f n v).vid = s.vid := rfl
@[simp] theorem State.wr_lnk : (s.wr f n v).lnk = s.lnk := rfl
@[simp] theorem State.wr_cf : (s.wr f n v).cf = s.cf := rfl
@[simp] theorem State.wr_cis : (s.wr f n v).cis = s.cis := rfl
@[simp] theorem State.wr_boot : (s.wr f n v).boot = s.boot := rfl
@[simp] theorem State.wr_pwr : (s.wr f n v).pwr = s.pwr := rfl
@[simp] theorem State.wr_lev : (s.wr f n v).lev = s.lev := rfl
@[simp] theorem State.wr_armed : (s.wr f n v).armed = s.armed := rfl
@[simp] theorem State.wr_seen : (s.wr f n v).seen = s.seen := rfl
@[simp] theorem State.wr_inject : (s.wr f n v).inject = s.inject := rfl
@[simp] theorem State.wr_out : (s.wr f n v).out = s.out := rfl
@[simp] theorem State.wr_arb : (s.wr f n v).arb = s.arb := rfl
@[simp] theorem State.wr_codecPhase : (s.wr f n v).codecPhase = s.codecPhase := rfl
@[simp] theorem State.wr_freeIdx : (s.wr f n v).freeIdx = s.freeIdx := rfl
@[simp] theorem State.wr_pending : (s.wr f n v).pending = s.pending := rfl
end wr

section emit
variable (s : State) (o : Output)
@[simp] theorem State.emit_regs : (s.emit o).regs = s.regs := rfl
@[simp] theorem State.emit_ctrs : (s.emit o).ctrs = s.ctrs := rfl
@[simp] theorem State.emit_ovf : (s.emit o).ovf = s.ovf := rfl
@[simp] theorem State.emit_mem : (s.emit o).mem = s.mem := rfl
@[simp] theorem State.emit_host : (s.emit o).host = s.host := rfl
@[simp] theorem State.emit_ctx : (s.emit o).ctx = s.ctx := rfl
@[simp] theorem State.emit_rot : (s.emit o).rot = s.rot := rfl
@[simp] theorem State.emit_pools : (s.emit o).pools = s.pools := rfl
@[simp] theorem State.emit_edits : (s.emit o).edits = s.edits := rfl
@[simp] theorem State.emit_plots : (s.emit o).plots = s.plots := rfl
@[simp] theorem State.emit_canal : (s.emit o).canal = s.canal := rfl
@[simp] theorem State.emit_sfu : (s.emit o).sfu = s.sfu := rfl
@[simp] theorem State.emit_aqf : (s.emit o).aqf = s.aqf := rfl
@[simp] theorem State.emit_wm : (s.emit o).wm = s.wm := rfl
@[simp] theorem State.emit_vid : (s.emit o).vid = s.vid := rfl
@[simp] theorem State.emit_lnk : (s.emit o).lnk = s.lnk := rfl
@[simp] theorem State.emit_cf : (s.emit o).cf = s.cf := rfl
@[simp] theorem State.emit_cis : (s.emit o).cis = s.cis := rfl
@[simp] theorem State.emit_boot : (s.emit o).boot = s.boot := rfl
@[simp] theorem State.emit_pwr : (s.emit o).pwr = s.pwr := rfl
@[simp] theorem State.emit_lev : (s.emit o).lev = s.lev := rfl
@[simp] theorem State.emit_armed : (s.emit o).armed = s.armed := rfl
@[simp] theorem State.emit_seen : (s.emit o).seen = s.seen := rfl
@[simp] theorem State.emit_inject : (s.emit o).inject = s.inject := rfl
@[simp] theorem State.emit_arb : (s.emit o).arb = s.arb := rfl
@[simp] theorem State.emit_codecPhase : (s.emit o).codecPhase = s.codecPhase := rfl
@[simp] theorem State.emit_freeIdx : (s.emit o).freeIdx = s.freeIdx := rfl
@[simp] theorem State.emit_pending : (s.emit o).pending = s.pending := rfl
end emit

section setRing
variable (s : State) (q : RingNo) (r : Ring)
@[simp] theorem State.setRing_regs : (s.setRing q r).regs = s.regs := rfl
@[simp] theorem State.setRing_ctrs : (s.setRing q r).ctrs = s.ctrs := rfl
@[simp] theorem State.setRing_ovf : (s.setRing q r).ovf = s.ovf := rfl
@[simp] theorem State.setRing_mem : (s.setRing q r).mem = s.mem := rfl
@[simp] theorem State.setRing_ctx : (s.setRing q r).ctx = s.ctx := rfl
@[simp] theorem State.setRing_rot : (s.setRing q r).rot = s.rot := rfl
@[simp] theorem State.setRing_pools : (s.setRing q r).pools = s.pools := rfl
@[simp] theorem State.setRing_edits : (s.setRing q r).edits = s.edits := rfl
@[simp] theorem State.setRing_plots : (s.setRing q r).plots = s.plots := rfl
@[simp] theorem State.setRing_canal : (s.setRing q r).canal = s.canal := rfl
@[simp] theorem State.setRing_sfu : (s.setRing q r).sfu = s.sfu := rfl
@[simp] theorem State.setRing_aqf : (s.setRing q r).aqf = s.aqf := rfl
@[simp] theorem State.setRing_wm : (s.setRing q r).wm = s.wm := rfl
@[simp] theorem State.setRing_vid : (s.setRing q r).vid = s.vid := rfl
@[simp] theorem State.setRing_lnk : (s.setRing q r).lnk = s.lnk := rfl
@[simp] theorem State.setRing_cf : (s.setRing q r).cf = s.cf := rfl
@[simp] theorem State.setRing_cis : (s.setRing q r).cis = s.cis := rfl
@[simp] theorem State.setRing_boot : (s.setRing q r).boot = s.boot := rfl
@[simp] theorem State.setRing_pwr : (s.setRing q r).pwr = s.pwr := rfl
@[simp] theorem State.setRing_lev : (s.setRing q r).lev = s.lev := rfl
@[simp] theorem State.setRing_armed : (s.setRing q r).armed = s.armed := rfl
@[simp] theorem State.setRing_seen : (s.setRing q r).seen = s.seen := rfl
@[simp] theorem State.setRing_inject : (s.setRing q r).inject = s.inject := rfl
@[simp] theorem State.setRing_out : (s.setRing q r).out = s.out := rfl
@[simp] theorem State.setRing_arb : (s.setRing q r).arb = s.arb := rfl
@[simp] theorem State.setRing_codecPhase : (s.setRing q r).codecPhase = s.codecPhase := rfl
@[simp] theorem State.setRing_freeIdx : (s.setRing q r).freeIdx = s.freeIdx := rfl
@[simp] theorem State.setRing_pending : (s.setRing q r).pending = s.pending := rfl
end setRing

section setOp
variable (s : State) (o : Op)
@[simp] theorem State.setOp_regs : (s.setOp o).regs = s.regs := rfl
@[simp] theorem State.setOp_ctrs : (s.setOp o).ctrs = s.ctrs := rfl
@[simp] theorem State.setOp_ovf : (s.setOp o).ovf = s.ovf := rfl
@[simp] theorem State.setOp_mem : (s.setOp o).mem = s.mem := rfl
@[simp] theorem State.setOp_ctx : (s.setOp o).ctx = s.ctx := rfl
@[simp] theorem State.setOp_rot : (s.setOp o).rot = s.rot := rfl
@[simp] theorem State.setOp_pools : (s.setOp o).pools = s.pools := rfl
@[simp] theorem State.setOp_edits : (s.setOp o).edits = s.edits := rfl
@[simp] theorem State.setOp_plots : (s.setOp o).plots = s.plots := rfl
@[simp] theorem State.setOp_canal : (s.setOp o).canal = s.canal := rfl
@[simp] theorem State.setOp_sfu : (s.setOp o).sfu = s.sfu := rfl
@[simp] theorem State.setOp_aqf : (s.setOp o).aqf = s.aqf := rfl
@[simp] theorem State.setOp_wm : (s.setOp o).wm = s.wm := rfl
@[simp] theorem State.setOp_vid : (s.setOp o).vid = s.vid := rfl
@[simp] theorem State.setOp_lnk : (s.setOp o).lnk = s.lnk := rfl
@[simp] theorem State.setOp_cf : (s.setOp o).cf = s.cf := rfl
@[simp] theorem State.setOp_cis : (s.setOp o).cis = s.cis := rfl
@[simp] theorem State.setOp_boot : (s.setOp o).boot = s.boot := rfl
@[simp] theorem State.setOp_pwr : (s.setOp o).pwr = s.pwr := rfl
@[simp] theorem State.setOp_lev : (s.setOp o).lev = s.lev := rfl
@[simp] theorem State.setOp_armed : (s.setOp o).armed = s.armed := rfl
@[simp] theorem State.setOp_seen : (s.setOp o).seen = s.seen := rfl
@[simp] theorem State.setOp_inject : (s.setOp o).inject = s.inject := rfl
@[simp] theorem State.setOp_out : (s.setOp o).out = s.out := rfl
@[simp] theorem State.setOp_arb : (s.setOp o).arb = s.arb := rfl
@[simp] theorem State.setOp_codecPhase : (s.setOp o).codecPhase = s.codecPhase := rfl
@[simp] theorem State.setOp_freeIdx : (s.setOp o).freeIdx = s.freeIdx := rfl
@[simp] theorem State.setOp_pending : (s.setOp o).pending = s.pending := rfl
end setOp

section finish
variable (s : State) (o : Op) (st : BitVec 12) (dt : BitVec 16) (res : Word)
@[simp] theorem State.finish_regs : (s.finish o st dt res).regs = s.regs := rfl
@[simp] theorem State.finish_ctrs : (s.finish o st dt res).ctrs = s.ctrs := rfl
@[simp] theorem State.finish_ovf : (s.finish o st dt res).ovf = s.ovf := rfl
@[simp] theorem State.finish_mem : (s.finish o st dt res).mem = s.mem := rfl
@[simp] theorem State.finish_ctx : (s.finish o st dt res).ctx = s.ctx := rfl
@[simp] theorem State.finish_rot : (s.finish o st dt res).rot = s.rot := rfl
@[simp] theorem State.finish_pools : (s.finish o st dt res).pools = s.pools := rfl
@[simp] theorem State.finish_edits : (s.finish o st dt res).edits = s.edits := rfl
@[simp] theorem State.finish_plots : (s.finish o st dt res).plots = s.plots := rfl
@[simp] theorem State.finish_canal : (s.finish o st dt res).canal = s.canal := rfl
@[simp] theorem State.finish_sfu : (s.finish o st dt res).sfu = s.sfu := rfl
@[simp] theorem State.finish_aqf : (s.finish o st dt res).aqf = s.aqf := rfl
@[simp] theorem State.finish_wm : (s.finish o st dt res).wm = s.wm := rfl
@[simp] theorem State.finish_vid : (s.finish o st dt res).vid = s.vid := rfl
@[simp] theorem State.finish_lnk : (s.finish o st dt res).lnk = s.lnk := rfl
@[simp] theorem State.finish_cf : (s.finish o st dt res).cf = s.cf := rfl
@[simp] theorem State.finish_cis : (s.finish o st dt res).cis = s.cis := rfl
@[simp] theorem State.finish_boot : (s.finish o st dt res).boot = s.boot := rfl
@[simp] theorem State.finish_pwr : (s.finish o st dt res).pwr = s.pwr := rfl
@[simp] theorem State.finish_lev : (s.finish o st dt res).lev = s.lev := rfl
@[simp] theorem State.finish_armed : (s.finish o st dt res).armed = s.armed := rfl
@[simp] theorem State.finish_seen : (s.finish o st dt res).seen = s.seen := rfl
@[simp] theorem State.finish_inject : (s.finish o st dt res).inject = s.inject := rfl
@[simp] theorem State.finish_out : (s.finish o st dt res).out = s.out := rfl
@[simp] theorem State.finish_arb : (s.finish o st dt res).arb = s.arb := rfl
@[simp] theorem State.finish_codecPhase : (s.finish o st dt res).codecPhase = s.codecPhase := rfl
@[simp] theorem State.finish_freeIdx : (s.finish o st dt res).freeIdx = s.freeIdx := rfl
@[simp] theorem State.finish_pending : (s.finish o st dt res).pending = s.pending := rfl
end finish

section begin_
variable (s : State) (o : Op)
@[simp] theorem State.begin_regs : (s.begin_ o).regs = s.regs := rfl
@[simp] theorem State.begin_ctrs : (s.begin_ o).ctrs = s.ctrs := rfl
@[simp] theorem State.begin_ovf : (s.begin_ o).ovf = s.ovf := rfl
@[simp] theorem State.begin_mem : (s.begin_ o).mem = s.mem := rfl
@[simp] theorem State.begin_ctx : (s.begin_ o).ctx = s.ctx := rfl
@[simp] theorem State.begin_rot : (s.begin_ o).rot = s.rot := rfl
@[simp] theorem State.begin_pools : (s.begin_ o).pools = s.pools := rfl
@[simp] theorem State.begin_edits : (s.begin_ o).edits = s.edits := rfl
@[simp] theorem State.begin_plots : (s.begin_ o).plots = s.plots := rfl
@[simp] theorem State.begin_canal : (s.begin_ o).canal = s.canal := rfl
@[simp] theorem State.begin_sfu : (s.begin_ o).sfu = s.sfu := rfl
@[simp] theorem State.begin_aqf : (s.begin_ o).aqf = s.aqf := rfl
@[simp] theorem State.begin_wm : (s.begin_ o).wm = s.wm := rfl
@[simp] theorem State.begin_vid : (s.begin_ o).vid = s.vid := rfl
@[simp] theorem State.begin_lnk : (s.begin_ o).lnk = s.lnk := rfl
@[simp] theorem State.begin_cf : (s.begin_ o).cf = s.cf := rfl
@[simp] theorem State.begin_cis : (s.begin_ o).cis = s.cis := rfl
@[simp] theorem State.begin_boot : (s.begin_ o).boot = s.boot := rfl
@[simp] theorem State.begin_pwr : (s.begin_ o).pwr = s.pwr := rfl
@[simp] theorem State.begin_lev : (s.begin_ o).lev = s.lev := rfl
@[simp] theorem State.begin_armed : (s.begin_ o).armed = s.armed := rfl
@[simp] theorem State.begin_seen : (s.begin_ o).seen = s.seen := rfl
@[simp] theorem State.begin_inject : (s.begin_ o).inject = s.inject := rfl
@[simp] theorem State.begin_out : (s.begin_ o).out = s.out := rfl
@[simp] theorem State.begin_arb : (s.begin_ o).arb = s.arb := rfl
@[simp] theorem State.begin_codecPhase : (s.begin_ o).codecPhase = s.codecPhase := rfl
@[simp] theorem State.begin_freeIdx : (s.begin_ o).freeIdx = s.freeIdx := rfl
@[simp] theorem State.begin_pending : (s.begin_ o).pending = s.pending := rfl
end begin_

section setPart
variable (s : State) (p : Nat) (x : Part)
@[simp] theorem State.setPart_regs : (s.setPart p x).regs = s.regs := rfl
@[simp] theorem State.setPart_ctrs : (s.setPart p x).ctrs = s.ctrs := rfl
@[simp] theorem State.setPart_ovf : (s.setPart p x).ovf = s.ovf := rfl
@[simp] theorem State.setPart_mem : (s.setPart p x).mem = s.mem := rfl
@[simp] theorem State.setPart_host : (s.setPart p x).host = s.host := rfl
@[simp] theorem State.setPart_ctx : (s.setPart p x).ctx = s.ctx := rfl
@[simp] theorem State.setPart_pools : (s.setPart p x).pools = s.pools := rfl
@[simp] theorem State.setPart_edits : (s.setPart p x).edits = s.edits := rfl
@[simp] theorem State.setPart_plots : (s.setPart p x).plots = s.plots := rfl
@[simp] theorem State.setPart_canal : (s.setPart p x).canal = s.canal := rfl
@[simp] theorem State.setPart_sfu : (s.setPart p x).sfu = s.sfu := rfl
@[simp] theorem State.setPart_aqf : (s.setPart p x).aqf = s.aqf := rfl
@[simp] theorem State.setPart_wm : (s.setPart p x).wm = s.wm := rfl
@[simp] theorem State.setPart_vid : (s.setPart p x).vid = s.vid := rfl
@[simp] theorem State.setPart_lnk : (s.setPart p x).lnk = s.lnk := rfl
@[simp] theorem State.setPart_cf : (s.setPart p x).cf = s.cf := rfl
@[simp] theorem State.setPart_cis : (s.setPart p x).cis = s.cis := rfl
@[simp] theorem State.setPart_boot : (s.setPart p x).boot = s.boot := rfl
@[simp] theorem State.setPart_pwr : (s.setPart p x).pwr = s.pwr := rfl
@[simp] theorem State.setPart_lev : (s.setPart p x).lev = s.lev := rfl
@[simp] theorem State.setPart_armed : (s.setPart p x).armed = s.armed := rfl
@[simp] theorem State.setPart_seen : (s.setPart p x).seen = s.seen := rfl
@[simp] theorem State.setPart_inject : (s.setPart p x).inject = s.inject := rfl
@[simp] theorem State.setPart_out : (s.setPart p x).out = s.out := rfl
@[simp] theorem State.setPart_arb : (s.setPart p x).arb = s.arb := rfl
@[simp] theorem State.setPart_codecPhase : (s.setPart p x).codecPhase = s.codecPhase := rfl
@[simp] theorem State.setPart_freeIdx : (s.setPart p x).freeIdx = s.freeIdx := rfl
@[simp] theorem State.setPart_pending : (s.setPart p x).pending = s.pending := rfl
end setPart

section setStream
variable (s : State) (k : Nat) (r : StreamRec)
@[simp] theorem State.setStream_regs : (s.setStream k r).regs = s.regs := rfl
@[simp] theorem State.setStream_ctrs : (s.setStream k r).ctrs = s.ctrs := rfl
@[simp] theorem State.setStream_ovf : (s.setStream k r).ovf = s.ovf := rfl
@[simp] theorem State.setStream_mem : (s.setStream k r).mem = s.mem := rfl
@[simp] theorem State.setStream_host : (s.setStream k r).host = s.host := rfl
@[simp] theorem State.setStream_rot : (s.setStream k r).rot = s.rot := rfl
@[simp] theorem State.setStream_pools : (s.setStream k r).pools = s.pools := rfl
@[simp] theorem State.setStream_edits : (s.setStream k r).edits = s.edits := rfl
@[simp] theorem State.setStream_plots : (s.setStream k r).plots = s.plots := rfl
@[simp] theorem State.setStream_canal : (s.setStream k r).canal = s.canal := rfl
@[simp] theorem State.setStream_sfu : (s.setStream k r).sfu = s.sfu := rfl
@[simp] theorem State.setStream_aqf : (s.setStream k r).aqf = s.aqf := rfl
@[simp] theorem State.setStream_wm : (s.setStream k r).wm = s.wm := rfl
@[simp] theorem State.setStream_vid : (s.setStream k r).vid = s.vid := rfl
@[simp] theorem State.setStream_lnk : (s.setStream k r).lnk = s.lnk := rfl
@[simp] theorem State.setStream_cf : (s.setStream k r).cf = s.cf := rfl
@[simp] theorem State.setStream_cis : (s.setStream k r).cis = s.cis := rfl
@[simp] theorem State.setStream_boot : (s.setStream k r).boot = s.boot := rfl
@[simp] theorem State.setStream_pwr : (s.setStream k r).pwr = s.pwr := rfl
@[simp] theorem State.setStream_lev : (s.setStream k r).lev = s.lev := rfl
@[simp] theorem State.setStream_armed : (s.setStream k r).armed = s.armed := rfl
@[simp] theorem State.setStream_seen : (s.setStream k r).seen = s.seen := rfl
@[simp] theorem State.setStream_inject : (s.setStream k r).inject = s.inject := rfl
@[simp] theorem State.setStream_out : (s.setStream k r).out = s.out := rfl
@[simp] theorem State.setStream_arb : (s.setStream k r).arb = s.arb := rfl
@[simp] theorem State.setStream_codecPhase : (s.setStream k r).codecPhase = s.codecPhase := rfl
@[simp] theorem State.setStream_freeIdx : (s.setStream k r).freeIdx = s.freeIdx := rfl
@[simp] theorem State.setStream_pending : (s.setStream k r).pending = s.pending := rfl
end setStream

section setOwner
variable (s : State) (k o : Nat) (x : OwnerRec)
@[simp] theorem State.setOwner_regs : (s.setOwner k o x).regs = s.regs := rfl
@[simp] theorem State.setOwner_ctrs : (s.setOwner k o x).ctrs = s.ctrs := rfl
@[simp] theorem State.setOwner_ovf : (s.setOwner k o x).ovf = s.ovf := rfl
@[simp] theorem State.setOwner_mem : (s.setOwner k o x).mem = s.mem := rfl
@[simp] theorem State.setOwner_host : (s.setOwner k o x).host = s.host := rfl
@[simp] theorem State.setOwner_rot : (s.setOwner k o x).rot = s.rot := rfl
@[simp] theorem State.setOwner_pools : (s.setOwner k o x).pools = s.pools := rfl
@[simp] theorem State.setOwner_edits : (s.setOwner k o x).edits = s.edits := rfl
@[simp] theorem State.setOwner_plots : (s.setOwner k o x).plots = s.plots := rfl
@[simp] theorem State.setOwner_canal : (s.setOwner k o x).canal = s.canal := rfl
@[simp] theorem State.setOwner_sfu : (s.setOwner k o x).sfu = s.sfu := rfl
@[simp] theorem State.setOwner_aqf : (s.setOwner k o x).aqf = s.aqf := rfl
@[simp] theorem State.setOwner_wm : (s.setOwner k o x).wm = s.wm := rfl
@[simp] theorem State.setOwner_vid : (s.setOwner k o x).vid = s.vid := rfl
@[simp] theorem State.setOwner_lnk : (s.setOwner k o x).lnk = s.lnk := rfl
@[simp] theorem State.setOwner_cf : (s.setOwner k o x).cf = s.cf := rfl
@[simp] theorem State.setOwner_cis : (s.setOwner k o x).cis = s.cis := rfl
@[simp] theorem State.setOwner_boot : (s.setOwner k o x).boot = s.boot := rfl
@[simp] theorem State.setOwner_pwr : (s.setOwner k o x).pwr = s.pwr := rfl
@[simp] theorem State.setOwner_lev : (s.setOwner k o x).lev = s.lev := rfl
@[simp] theorem State.setOwner_armed : (s.setOwner k o x).armed = s.armed := rfl
@[simp] theorem State.setOwner_seen : (s.setOwner k o x).seen = s.seen := rfl
@[simp] theorem State.setOwner_inject : (s.setOwner k o x).inject = s.inject := rfl
@[simp] theorem State.setOwner_out : (s.setOwner k o x).out = s.out := rfl
@[simp] theorem State.setOwner_arb : (s.setOwner k o x).arb = s.arb := rfl
@[simp] theorem State.setOwner_codecPhase : (s.setOwner k o x).codecPhase = s.codecPhase := rfl
@[simp] theorem State.setOwner_freeIdx : (s.setOwner k o x).freeIdx = s.freeIdx := rfl
@[simp] theorem State.setOwner_pending : (s.setOwner k o x).pending = s.pending := rfl
end setOwner

section setModel
variable (s : State) (h : Nat) (m : ModelRec)
@[simp] theorem State.setModel_regs : (s.setModel h m).regs = s.regs := rfl
@[simp] theorem State.setModel_ctrs : (s.setModel h m).ctrs = s.ctrs := rfl
@[simp] theorem State.setModel_ovf : (s.setModel h m).ovf = s.ovf := rfl
@[simp] theorem State.setModel_mem : (s.setModel h m).mem = s.mem := rfl
@[simp] theorem State.setModel_host : (s.setModel h m).host = s.host := rfl
@[simp] theorem State.setModel_rot : (s.setModel h m).rot = s.rot := rfl
@[simp] theorem State.setModel_pools : (s.setModel h m).pools = s.pools := rfl
@[simp] theorem State.setModel_edits : (s.setModel h m).edits = s.edits := rfl
@[simp] theorem State.setModel_plots : (s.setModel h m).plots = s.plots := rfl
@[simp] theorem State.setModel_canal : (s.setModel h m).canal = s.canal := rfl
@[simp] theorem State.setModel_sfu : (s.setModel h m).sfu = s.sfu := rfl
@[simp] theorem State.setModel_aqf : (s.setModel h m).aqf = s.aqf := rfl
@[simp] theorem State.setModel_wm : (s.setModel h m).wm = s.wm := rfl
@[simp] theorem State.setModel_vid : (s.setModel h m).vid = s.vid := rfl
@[simp] theorem State.setModel_lnk : (s.setModel h m).lnk = s.lnk := rfl
@[simp] theorem State.setModel_cf : (s.setModel h m).cf = s.cf := rfl
@[simp] theorem State.setModel_cis : (s.setModel h m).cis = s.cis := rfl
@[simp] theorem State.setModel_boot : (s.setModel h m).boot = s.boot := rfl
@[simp] theorem State.setModel_pwr : (s.setModel h m).pwr = s.pwr := rfl
@[simp] theorem State.setModel_lev : (s.setModel h m).lev = s.lev := rfl
@[simp] theorem State.setModel_armed : (s.setModel h m).armed = s.armed := rfl
@[simp] theorem State.setModel_seen : (s.setModel h m).seen = s.seen := rfl
@[simp] theorem State.setModel_inject : (s.setModel h m).inject = s.inject := rfl
@[simp] theorem State.setModel_out : (s.setModel h m).out = s.out := rfl
@[simp] theorem State.setModel_arb : (s.setModel h m).arb = s.arb := rfl
@[simp] theorem State.setModel_codecPhase : (s.setModel h m).codecPhase = s.codecPhase := rfl
@[simp] theorem State.setModel_freeIdx : (s.setModel h m).freeIdx = s.freeIdx := rfl
@[simp] theorem State.setModel_pending : (s.setModel h m).pending = s.pending := rfl
end setModel

section setPolicy
variable (s : State) (h : Nat) (p : PolicyRec)
@[simp] theorem State.setPolicy_regs : (s.setPolicy h p).regs = s.regs := rfl
@[simp] theorem State.setPolicy_ctrs : (s.setPolicy h p).ctrs = s.ctrs := rfl
@[simp] theorem State.setPolicy_ovf : (s.setPolicy h p).ovf = s.ovf := rfl
@[simp] theorem State.setPolicy_mem : (s.setPolicy h p).mem = s.mem := rfl
@[simp] theorem State.setPolicy_host : (s.setPolicy h p).host = s.host := rfl
@[simp] theorem State.setPolicy_rot : (s.setPolicy h p).rot = s.rot := rfl
@[simp] theorem State.setPolicy_pools : (s.setPolicy h p).pools = s.pools := rfl
@[simp] theorem State.setPolicy_edits : (s.setPolicy h p).edits = s.edits := rfl
@[simp] theorem State.setPolicy_plots : (s.setPolicy h p).plots = s.plots := rfl
@[simp] theorem State.setPolicy_canal : (s.setPolicy h p).canal = s.canal := rfl
@[simp] theorem State.setPolicy_sfu : (s.setPolicy h p).sfu = s.sfu := rfl
@[simp] theorem State.setPolicy_aqf : (s.setPolicy h p).aqf = s.aqf := rfl
@[simp] theorem State.setPolicy_wm : (s.setPolicy h p).wm = s.wm := rfl
@[simp] theorem State.setPolicy_vid : (s.setPolicy h p).vid = s.vid := rfl
@[simp] theorem State.setPolicy_lnk : (s.setPolicy h p).lnk = s.lnk := rfl
@[simp] theorem State.setPolicy_cf : (s.setPolicy h p).cf = s.cf := rfl
@[simp] theorem State.setPolicy_cis : (s.setPolicy h p).cis = s.cis := rfl
@[simp] theorem State.setPolicy_boot : (s.setPolicy h p).boot = s.boot := rfl
@[simp] theorem State.setPolicy_pwr : (s.setPolicy h p).pwr = s.pwr := rfl
@[simp] theorem State.setPolicy_lev : (s.setPolicy h p).lev = s.lev := rfl
@[simp] theorem State.setPolicy_armed : (s.setPolicy h p).armed = s.armed := rfl
@[simp] theorem State.setPolicy_seen : (s.setPolicy h p).seen = s.seen := rfl
@[simp] theorem State.setPolicy_inject : (s.setPolicy h p).inject = s.inject := rfl
@[simp] theorem State.setPolicy_out : (s.setPolicy h p).out = s.out := rfl
@[simp] theorem State.setPolicy_arb : (s.setPolicy h p).arb = s.arb := rfl
@[simp] theorem State.setPolicy_codecPhase : (s.setPolicy h p).codecPhase = s.codecPhase := rfl
@[simp] theorem State.setPolicy_freeIdx : (s.setPolicy h p).freeIdx = s.freeIdx := rfl
@[simp] theorem State.setPolicy_pending : (s.setPolicy h p).pending = s.pending := rfl
end setPolicy

section setImage
variable (s : State) (k : Nat) (x : ImageRec)
@[simp] theorem State.setImage_regs : (s.setImage k x).regs = s.regs := rfl
@[simp] theorem State.setImage_ctrs : (s.setImage k x).ctrs = s.ctrs := rfl
@[simp] theorem State.setImage_ovf : (s.setImage k x).ovf = s.ovf := rfl
@[simp] theorem State.setImage_mem : (s.setImage k x).mem = s.mem := rfl
@[simp] theorem State.setImage_host : (s.setImage k x).host = s.host := rfl
@[simp] theorem State.setImage_rot : (s.setImage k x).rot = s.rot := rfl
@[simp] theorem State.setImage_pools : (s.setImage k x).pools = s.pools := rfl
@[simp] theorem State.setImage_edits : (s.setImage k x).edits = s.edits := rfl
@[simp] theorem State.setImage_plots : (s.setImage k x).plots = s.plots := rfl
@[simp] theorem State.setImage_canal : (s.setImage k x).canal = s.canal := rfl
@[simp] theorem State.setImage_sfu : (s.setImage k x).sfu = s.sfu := rfl
@[simp] theorem State.setImage_aqf : (s.setImage k x).aqf = s.aqf := rfl
@[simp] theorem State.setImage_wm : (s.setImage k x).wm = s.wm := rfl
@[simp] theorem State.setImage_vid : (s.setImage k x).vid = s.vid := rfl
@[simp] theorem State.setImage_lnk : (s.setImage k x).lnk = s.lnk := rfl
@[simp] theorem State.setImage_cf : (s.setImage k x).cf = s.cf := rfl
@[simp] theorem State.setImage_cis : (s.setImage k x).cis = s.cis := rfl
@[simp] theorem State.setImage_boot : (s.setImage k x).boot = s.boot := rfl
@[simp] theorem State.setImage_pwr : (s.setImage k x).pwr = s.pwr := rfl
@[simp] theorem State.setImage_lev : (s.setImage k x).lev = s.lev := rfl
@[simp] theorem State.setImage_armed : (s.setImage k x).armed = s.armed := rfl
@[simp] theorem State.setImage_seen : (s.setImage k x).seen = s.seen := rfl
@[simp] theorem State.setImage_inject : (s.setImage k x).inject = s.inject := rfl
@[simp] theorem State.setImage_out : (s.setImage k x).out = s.out := rfl
@[simp] theorem State.setImage_arb : (s.setImage k x).arb = s.arb := rfl
@[simp] theorem State.setImage_codecPhase : (s.setImage k x).codecPhase = s.codecPhase := rfl
@[simp] theorem State.setImage_freeIdx : (s.setImage k x).freeIdx = s.freeIdx := rfl
@[simp] theorem State.setImage_pending : (s.setImage k x).pending = s.pending := rfl
end setImage

section setPool
variable (s : State) (p : Nat) (x : Pool)
@[simp] theorem State.setPool_regs : (s.setPool p x).regs = s.regs := rfl
@[simp] theorem State.setPool_ctrs : (s.setPool p x).ctrs = s.ctrs := rfl
@[simp] theorem State.setPool_ovf : (s.setPool p x).ovf = s.ovf := rfl
@[simp] theorem State.setPool_mem : (s.setPool p x).mem = s.mem := rfl
@[simp] theorem State.setPool_host : (s.setPool p x).host = s.host := rfl
@[simp] theorem State.setPool_ctx : (s.setPool p x).ctx = s.ctx := rfl
@[simp] theorem State.setPool_rot : (s.setPool p x).rot = s.rot := rfl
@[simp] theorem State.setPool_edits : (s.setPool p x).edits = s.edits := rfl
@[simp] theorem State.setPool_plots : (s.setPool p x).plots = s.plots := rfl
@[simp] theorem State.setPool_canal : (s.setPool p x).canal = s.canal := rfl
@[simp] theorem State.setPool_sfu : (s.setPool p x).sfu = s.sfu := rfl
@[simp] theorem State.setPool_aqf : (s.setPool p x).aqf = s.aqf := rfl
@[simp] theorem State.setPool_wm : (s.setPool p x).wm = s.wm := rfl
@[simp] theorem State.setPool_vid : (s.setPool p x).vid = s.vid := rfl
@[simp] theorem State.setPool_lnk : (s.setPool p x).lnk = s.lnk := rfl
@[simp] theorem State.setPool_cf : (s.setPool p x).cf = s.cf := rfl
@[simp] theorem State.setPool_cis : (s.setPool p x).cis = s.cis := rfl
@[simp] theorem State.setPool_boot : (s.setPool p x).boot = s.boot := rfl
@[simp] theorem State.setPool_pwr : (s.setPool p x).pwr = s.pwr := rfl
@[simp] theorem State.setPool_lev : (s.setPool p x).lev = s.lev := rfl
@[simp] theorem State.setPool_armed : (s.setPool p x).armed = s.armed := rfl
@[simp] theorem State.setPool_seen : (s.setPool p x).seen = s.seen := rfl
@[simp] theorem State.setPool_inject : (s.setPool p x).inject = s.inject := rfl
@[simp] theorem State.setPool_out : (s.setPool p x).out = s.out := rfl
@[simp] theorem State.setPool_arb : (s.setPool p x).arb = s.arb := rfl
@[simp] theorem State.setPool_codecPhase : (s.setPool p x).codecPhase = s.codecPhase := rfl
@[simp] theorem State.setPool_freeIdx : (s.setPool p x).freeIdx = s.freeIdx := rfl
@[simp] theorem State.setPool_pending : (s.setPool p x).pending = s.pending := rfl
end setPool

section setPlot
variable (s : State) (p : Nat) (x : Plot)
@[simp] theorem State.setPlot_regs : (s.setPlot p x).regs = s.regs := rfl
@[simp] theorem State.setPlot_ctrs : (s.setPlot p x).ctrs = s.ctrs := rfl
@[simp] theorem State.setPlot_ovf : (s.setPlot p x).ovf = s.ovf := rfl
@[simp] theorem State.setPlot_mem : (s.setPlot p x).mem = s.mem := rfl
@[simp] theorem State.setPlot_host : (s.setPlot p x).host = s.host := rfl
@[simp] theorem State.setPlot_ctx : (s.setPlot p x).ctx = s.ctx := rfl
@[simp] theorem State.setPlot_rot : (s.setPlot p x).rot = s.rot := rfl
@[simp] theorem State.setPlot_pools : (s.setPlot p x).pools = s.pools := rfl
@[simp] theorem State.setPlot_edits : (s.setPlot p x).edits = s.edits := rfl
@[simp] theorem State.setPlot_canal : (s.setPlot p x).canal = s.canal := rfl
@[simp] theorem State.setPlot_sfu : (s.setPlot p x).sfu = s.sfu := rfl
@[simp] theorem State.setPlot_aqf : (s.setPlot p x).aqf = s.aqf := rfl
@[simp] theorem State.setPlot_wm : (s.setPlot p x).wm = s.wm := rfl
@[simp] theorem State.setPlot_vid : (s.setPlot p x).vid = s.vid := rfl
@[simp] theorem State.setPlot_lnk : (s.setPlot p x).lnk = s.lnk := rfl
@[simp] theorem State.setPlot_cf : (s.setPlot p x).cf = s.cf := rfl
@[simp] theorem State.setPlot_cis : (s.setPlot p x).cis = s.cis := rfl
@[simp] theorem State.setPlot_boot : (s.setPlot p x).boot = s.boot := rfl
@[simp] theorem State.setPlot_pwr : (s.setPlot p x).pwr = s.pwr := rfl
@[simp] theorem State.setPlot_lev : (s.setPlot p x).lev = s.lev := rfl
@[simp] theorem State.setPlot_armed : (s.setPlot p x).armed = s.armed := rfl
@[simp] theorem State.setPlot_seen : (s.setPlot p x).seen = s.seen := rfl
@[simp] theorem State.setPlot_inject : (s.setPlot p x).inject = s.inject := rfl
@[simp] theorem State.setPlot_out : (s.setPlot p x).out = s.out := rfl
@[simp] theorem State.setPlot_arb : (s.setPlot p x).arb = s.arb := rfl
@[simp] theorem State.setPlot_codecPhase : (s.setPlot p x).codecPhase = s.codecPhase := rfl
@[simp] theorem State.setPlot_freeIdx : (s.setPlot p x).freeIdx = s.freeIdx := rfl
@[simp] theorem State.setPlot_pending : (s.setPlot p x).pending = s.pending := rfl
end setPlot

section setLink
variable (s : State) (l : Nat) (x : LinkRec)
@[simp] theorem State.setLink_regs : (s.setLink l x).regs = s.regs := rfl
@[simp] theorem State.setLink_ctrs : (s.setLink l x).ctrs = s.ctrs := rfl
@[simp] theorem State.setLink_ovf : (s.setLink l x).ovf = s.ovf := rfl
@[simp] theorem State.setLink_mem : (s.setLink l x).mem = s.mem := rfl
@[simp] theorem State.setLink_host : (s.setLink l x).host = s.host := rfl
@[simp] theorem State.setLink_ctx : (s.setLink l x).ctx = s.ctx := rfl
@[simp] theorem State.setLink_rot : (s.setLink l x).rot = s.rot := rfl
@[simp] theorem State.setLink_pools : (s.setLink l x).pools = s.pools := rfl
@[simp] theorem State.setLink_edits : (s.setLink l x).edits = s.edits := rfl
@[simp] theorem State.setLink_plots : (s.setLink l x).plots = s.plots := rfl
@[simp] theorem State.setLink_canal : (s.setLink l x).canal = s.canal := rfl
@[simp] theorem State.setLink_sfu : (s.setLink l x).sfu = s.sfu := rfl
@[simp] theorem State.setLink_aqf : (s.setLink l x).aqf = s.aqf := rfl
@[simp] theorem State.setLink_wm : (s.setLink l x).wm = s.wm := rfl
@[simp] theorem State.setLink_vid : (s.setLink l x).vid = s.vid := rfl
@[simp] theorem State.setLink_cf : (s.setLink l x).cf = s.cf := rfl
@[simp] theorem State.setLink_cis : (s.setLink l x).cis = s.cis := rfl
@[simp] theorem State.setLink_boot : (s.setLink l x).boot = s.boot := rfl
@[simp] theorem State.setLink_pwr : (s.setLink l x).pwr = s.pwr := rfl
@[simp] theorem State.setLink_lev : (s.setLink l x).lev = s.lev := rfl
@[simp] theorem State.setLink_armed : (s.setLink l x).armed = s.armed := rfl
@[simp] theorem State.setLink_seen : (s.setLink l x).seen = s.seen := rfl
@[simp] theorem State.setLink_inject : (s.setLink l x).inject = s.inject := rfl
@[simp] theorem State.setLink_out : (s.setLink l x).out = s.out := rfl
@[simp] theorem State.setLink_arb : (s.setLink l x).arb = s.arb := rfl
@[simp] theorem State.setLink_codecPhase : (s.setLink l x).codecPhase = s.codecPhase := rfl
@[simp] theorem State.setLink_freeIdx : (s.setLink l x).freeIdx = s.freeIdx := rfl
@[simp] theorem State.setLink_pending : (s.setLink l x).pending = s.pending := rfl
end setLink

section setGroup
variable (s : State) (g : Nat) (x : Group)
@[simp] theorem State.setGroup_regs : (s.setGroup g x).regs = s.regs := rfl
@[simp] theorem State.setGroup_ctrs : (s.setGroup g x).ctrs = s.ctrs := rfl
@[simp] theorem State.setGroup_ovf : (s.setGroup g x).ovf = s.ovf := rfl
@[simp] theorem State.setGroup_mem : (s.setGroup g x).mem = s.mem := rfl
@[simp] theorem State.setGroup_host : (s.setGroup g x).host = s.host := rfl
@[simp] theorem State.setGroup_ctx : (s.setGroup g x).ctx = s.ctx := rfl
@[simp] theorem State.setGroup_rot : (s.setGroup g x).rot = s.rot := rfl
@[simp] theorem State.setGroup_pools : (s.setGroup g x).pools = s.pools := rfl
@[simp] theorem State.setGroup_edits : (s.setGroup g x).edits = s.edits := rfl
@[simp] theorem State.setGroup_plots : (s.setGroup g x).plots = s.plots := rfl
@[simp] theorem State.setGroup_canal : (s.setGroup g x).canal = s.canal := rfl
@[simp] theorem State.setGroup_sfu : (s.setGroup g x).sfu = s.sfu := rfl
@[simp] theorem State.setGroup_aqf : (s.setGroup g x).aqf = s.aqf := rfl
@[simp] theorem State.setGroup_wm : (s.setGroup g x).wm = s.wm := rfl
@[simp] theorem State.setGroup_vid : (s.setGroup g x).vid = s.vid := rfl
@[simp] theorem State.setGroup_lnk : (s.setGroup g x).lnk = s.lnk := rfl
@[simp] theorem State.setGroup_cis : (s.setGroup g x).cis = s.cis := rfl
@[simp] theorem State.setGroup_boot : (s.setGroup g x).boot = s.boot := rfl
@[simp] theorem State.setGroup_pwr : (s.setGroup g x).pwr = s.pwr := rfl
@[simp] theorem State.setGroup_lev : (s.setGroup g x).lev = s.lev := rfl
@[simp] theorem State.setGroup_armed : (s.setGroup g x).armed = s.armed := rfl
@[simp] theorem State.setGroup_seen : (s.setGroup g x).seen = s.seen := rfl
@[simp] theorem State.setGroup_inject : (s.setGroup g x).inject = s.inject := rfl
@[simp] theorem State.setGroup_out : (s.setGroup g x).out = s.out := rfl
@[simp] theorem State.setGroup_arb : (s.setGroup g x).arb = s.arb := rfl
@[simp] theorem State.setGroup_codecPhase : (s.setGroup g x).codecPhase = s.codecPhase := rfl
@[simp] theorem State.setGroup_freeIdx : (s.setGroup g x).freeIdx = s.freeIdx := rfl
@[simp] theorem State.setGroup_pending : (s.setGroup g x).pending = s.pending := rfl
end setGroup

section setColl
variable (s : State) (g : Nat) (c : Coll)
@[simp] theorem State.setColl_regs : (s.setColl g c).regs = s.regs := rfl
@[simp] theorem State.setColl_ctrs : (s.setColl g c).ctrs = s.ctrs := rfl
@[simp] theorem State.setColl_ovf : (s.setColl g c).ovf = s.ovf := rfl
@[simp] theorem State.setColl_mem : (s.setColl g c).mem = s.mem := rfl
@[simp] theorem State.setColl_host : (s.setColl g c).host = s.host := rfl
@[simp] theorem State.setColl_ctx : (s.setColl g c).ctx = s.ctx := rfl
@[simp] theorem State.setColl_rot : (s.setColl g c).rot = s.rot := rfl
@[simp] theorem State.setColl_pools : (s.setColl g c).pools = s.pools := rfl
@[simp] theorem State.setColl_edits : (s.setColl g c).edits = s.edits := rfl
@[simp] theorem State.setColl_plots : (s.setColl g c).plots = s.plots := rfl
@[simp] theorem State.setColl_canal : (s.setColl g c).canal = s.canal := rfl
@[simp] theorem State.setColl_sfu : (s.setColl g c).sfu = s.sfu := rfl
@[simp] theorem State.setColl_aqf : (s.setColl g c).aqf = s.aqf := rfl
@[simp] theorem State.setColl_wm : (s.setColl g c).wm = s.wm := rfl
@[simp] theorem State.setColl_vid : (s.setColl g c).vid = s.vid := rfl
@[simp] theorem State.setColl_lnk : (s.setColl g c).lnk = s.lnk := rfl
@[simp] theorem State.setColl_cis : (s.setColl g c).cis = s.cis := rfl
@[simp] theorem State.setColl_boot : (s.setColl g c).boot = s.boot := rfl
@[simp] theorem State.setColl_pwr : (s.setColl g c).pwr = s.pwr := rfl
@[simp] theorem State.setColl_lev : (s.setColl g c).lev = s.lev := rfl
@[simp] theorem State.setColl_armed : (s.setColl g c).armed = s.armed := rfl
@[simp] theorem State.setColl_seen : (s.setColl g c).seen = s.seen := rfl
@[simp] theorem State.setColl_inject : (s.setColl g c).inject = s.inject := rfl
@[simp] theorem State.setColl_out : (s.setColl g c).out = s.out := rfl
@[simp] theorem State.setColl_arb : (s.setColl g c).arb = s.arb := rfl
@[simp] theorem State.setColl_codecPhase : (s.setColl g c).codecPhase = s.codecPhase := rfl
@[simp] theorem State.setColl_freeIdx : (s.setColl g c).freeIdx = s.freeIdx := rfl
@[simp] theorem State.setColl_pending : (s.setColl g c).pending = s.pending := rfl
end setColl

section setTenant
variable (s : State) (t : Nat) (x : Tenant)
@[simp] theorem State.setTenant_regs : (s.setTenant t x).regs = s.regs := rfl
@[simp] theorem State.setTenant_ctrs : (s.setTenant t x).ctrs = s.ctrs := rfl
@[simp] theorem State.setTenant_ovf : (s.setTenant t x).ovf = s.ovf := rfl
@[simp] theorem State.setTenant_mem : (s.setTenant t x).mem = s.mem := rfl
@[simp] theorem State.setTenant_host : (s.setTenant t x).host = s.host := rfl
@[simp] theorem State.setTenant_ctx : (s.setTenant t x).ctx = s.ctx := rfl
@[simp] theorem State.setTenant_rot : (s.setTenant t x).rot = s.rot := rfl
@[simp] theorem State.setTenant_pools : (s.setTenant t x).pools = s.pools := rfl
@[simp] theorem State.setTenant_edits : (s.setTenant t x).edits = s.edits := rfl
@[simp] theorem State.setTenant_plots : (s.setTenant t x).plots = s.plots := rfl
@[simp] theorem State.setTenant_canal : (s.setTenant t x).canal = s.canal := rfl
@[simp] theorem State.setTenant_sfu : (s.setTenant t x).sfu = s.sfu := rfl
@[simp] theorem State.setTenant_aqf : (s.setTenant t x).aqf = s.aqf := rfl
@[simp] theorem State.setTenant_vid : (s.setTenant t x).vid = s.vid := rfl
@[simp] theorem State.setTenant_lnk : (s.setTenant t x).lnk = s.lnk := rfl
@[simp] theorem State.setTenant_cf : (s.setTenant t x).cf = s.cf := rfl
@[simp] theorem State.setTenant_cis : (s.setTenant t x).cis = s.cis := rfl
@[simp] theorem State.setTenant_boot : (s.setTenant t x).boot = s.boot := rfl
@[simp] theorem State.setTenant_pwr : (s.setTenant t x).pwr = s.pwr := rfl
@[simp] theorem State.setTenant_lev : (s.setTenant t x).lev = s.lev := rfl
@[simp] theorem State.setTenant_armed : (s.setTenant t x).armed = s.armed := rfl
@[simp] theorem State.setTenant_seen : (s.setTenant t x).seen = s.seen := rfl
@[simp] theorem State.setTenant_inject : (s.setTenant t x).inject = s.inject := rfl
@[simp] theorem State.setTenant_out : (s.setTenant t x).out = s.out := rfl
@[simp] theorem State.setTenant_arb : (s.setTenant t x).arb = s.arb := rfl
@[simp] theorem State.setTenant_codecPhase : (s.setTenant t x).codecPhase = s.codecPhase := rfl
@[simp] theorem State.setTenant_freeIdx : (s.setTenant t x).freeIdx = s.freeIdx := rfl
@[simp] theorem State.setTenant_pending : (s.setTenant t x).pending = s.pending := rfl
end setTenant

section setExtent
variable (s : State) (e : Nat) (x : Extent)
@[simp] theorem State.setExtent_regs : (s.setExtent e x).regs = s.regs := rfl
@[simp] theorem State.setExtent_ctrs : (s.setExtent e x).ctrs = s.ctrs := rfl
@[simp] theorem State.setExtent_ovf : (s.setExtent e x).ovf = s.ovf := rfl
@[simp] theorem State.setExtent_mem : (s.setExtent e x).mem = s.mem := rfl
@[simp] theorem State.setExtent_host : (s.setExtent e x).host = s.host := rfl
@[simp] theorem State.setExtent_ctx : (s.setExtent e x).ctx = s.ctx := rfl
@[simp] theorem State.setExtent_rot : (s.setExtent e x).rot = s.rot := rfl
@[simp] theorem State.setExtent_pools : (s.setExtent e x).pools = s.pools := rfl
@[simp] theorem State.setExtent_edits : (s.setExtent e x).edits = s.edits := rfl
@[simp] theorem State.setExtent_plots : (s.setExtent e x).plots = s.plots := rfl
@[simp] theorem State.setExtent_canal : (s.setExtent e x).canal = s.canal := rfl
@[simp] theorem State.setExtent_sfu : (s.setExtent e x).sfu = s.sfu := rfl
@[simp] theorem State.setExtent_wm : (s.setExtent e x).wm = s.wm := rfl
@[simp] theorem State.setExtent_vid : (s.setExtent e x).vid = s.vid := rfl
@[simp] theorem State.setExtent_lnk : (s.setExtent e x).lnk = s.lnk := rfl
@[simp] theorem State.setExtent_cf : (s.setExtent e x).cf = s.cf := rfl
@[simp] theorem State.setExtent_cis : (s.setExtent e x).cis = s.cis := rfl
@[simp] theorem State.setExtent_boot : (s.setExtent e x).boot = s.boot := rfl
@[simp] theorem State.setExtent_pwr : (s.setExtent e x).pwr = s.pwr := rfl
@[simp] theorem State.setExtent_lev : (s.setExtent e x).lev = s.lev := rfl
@[simp] theorem State.setExtent_armed : (s.setExtent e x).armed = s.armed := rfl
@[simp] theorem State.setExtent_seen : (s.setExtent e x).seen = s.seen := rfl
@[simp] theorem State.setExtent_inject : (s.setExtent e x).inject = s.inject := rfl
@[simp] theorem State.setExtent_out : (s.setExtent e x).out = s.out := rfl
@[simp] theorem State.setExtent_arb : (s.setExtent e x).arb = s.arb := rfl
@[simp] theorem State.setExtent_codecPhase : (s.setExtent e x).codecPhase = s.codecPhase := rfl
@[simp] theorem State.setExtent_freeIdx : (s.setExtent e x).freeIdx = s.freeIdx := rfl
@[simp] theorem State.setExtent_pending : (s.setExtent e x).pending = s.pending := rfl
end setExtent

section setWcUnit
variable (s : State) (u : Nat) (x : WcUnit)
@[simp] theorem State.setWcUnit_regs : (s.setWcUnit u x).regs = s.regs := rfl
@[simp] theorem State.setWcUnit_ctrs : (s.setWcUnit u x).ctrs = s.ctrs := rfl
@[simp] theorem State.setWcUnit_ovf : (s.setWcUnit u x).ovf = s.ovf := rfl
@[simp] theorem State.setWcUnit_mem : (s.setWcUnit u x).mem = s.mem := rfl
@[simp] theorem State.setWcUnit_host : (s.setWcUnit u x).host = s.host := rfl
@[simp] theorem State.setWcUnit_ctx : (s.setWcUnit u x).ctx = s.ctx := rfl
@[simp] theorem State.setWcUnit_rot : (s.setWcUnit u x).rot = s.rot := rfl
@[simp] theorem State.setWcUnit_pools : (s.setWcUnit u x).pools = s.pools := rfl
@[simp] theorem State.setWcUnit_edits : (s.setWcUnit u x).edits = s.edits := rfl
@[simp] theorem State.setWcUnit_plots : (s.setWcUnit u x).plots = s.plots := rfl
@[simp] theorem State.setWcUnit_canal : (s.setWcUnit u x).canal = s.canal := rfl
@[simp] theorem State.setWcUnit_sfu : (s.setWcUnit u x).sfu = s.sfu := rfl
@[simp] theorem State.setWcUnit_wm : (s.setWcUnit u x).wm = s.wm := rfl
@[simp] theorem State.setWcUnit_vid : (s.setWcUnit u x).vid = s.vid := rfl
@[simp] theorem State.setWcUnit_lnk : (s.setWcUnit u x).lnk = s.lnk := rfl
@[simp] theorem State.setWcUnit_cf : (s.setWcUnit u x).cf = s.cf := rfl
@[simp] theorem State.setWcUnit_cis : (s.setWcUnit u x).cis = s.cis := rfl
@[simp] theorem State.setWcUnit_boot : (s.setWcUnit u x).boot = s.boot := rfl
@[simp] theorem State.setWcUnit_pwr : (s.setWcUnit u x).pwr = s.pwr := rfl
@[simp] theorem State.setWcUnit_lev : (s.setWcUnit u x).lev = s.lev := rfl
@[simp] theorem State.setWcUnit_armed : (s.setWcUnit u x).armed = s.armed := rfl
@[simp] theorem State.setWcUnit_seen : (s.setWcUnit u x).seen = s.seen := rfl
@[simp] theorem State.setWcUnit_inject : (s.setWcUnit u x).inject = s.inject := rfl
@[simp] theorem State.setWcUnit_out : (s.setWcUnit u x).out = s.out := rfl
@[simp] theorem State.setWcUnit_arb : (s.setWcUnit u x).arb = s.arb := rfl
@[simp] theorem State.setWcUnit_codecPhase : (s.setWcUnit u x).codecPhase = s.codecPhase := rfl
@[simp] theorem State.setWcUnit_freeIdx : (s.setWcUnit u x).freeIdx = s.freeIdx := rfl
@[simp] theorem State.setWcUnit_pending : (s.setWcUnit u x).pending = s.pending := rfl
end setWcUnit

/-! ### What an update is read back as -/

@[simp] theorem State.plot_setPlot (s : State) (p : Nat) (x : Plot) : (s.setPlot p x).plot p = x := by
  simp [State.plot, State.setPlot]

theorem State.plot_setPlot_other (s : State) {p q : Nat} (x : Plot) (h : q ≠ p) : (s.setPlot p x).plot q = s.plot q := by
  simp [State.plot, State.setPlot, sget_sput_other, h]

@[simp] theorem State.part_setPart (s : State) (p : Nat) (x : Part) : (s.setPart p x).part p = x := by
  simp [State.part, State.setPart]

theorem State.part_setPart_other (s : State) {p q : Nat} (x : Part) (h : q ≠ p) : (s.setPart p x).part q = s.part q := by
  simp [State.part, State.setPart, sget_sput_other, h]

@[simp] theorem State.stream_setStream (s : State) (k : Nat) (r : StreamRec) : (s.setStream k r).stream k = r := by
  simp [State.stream, State.setStream]

theorem State.stream_setStream_other (s : State) {k l : Nat} (r : StreamRec) (h : l ≠ k) :
    (s.setStream k r).stream l = s.stream l := by
  simp [State.stream, State.setStream, sget_sput_other, h]

@[simp] theorem State.pool_setPool (s : State) (p : Nat) (x : Pool) : (s.setPool p x).pool p = x := by
  simp [State.pool, State.setPool]

@[simp] theorem State.link_setLink (s : State) (l : Nat) (x : LinkRec) : (s.setLink l x).link l = x := by
  simp [State.link, State.setLink]

@[simp] theorem State.group_setGroup (s : State) (g : Nat) (x : Group) : (s.setGroup g x).group g = x := by
  simp [State.group, State.setGroup]

@[simp] theorem State.tenant_setTenant (s : State) (t : Nat) (x : Tenant) : (s.setTenant t x).tenant t = x := by
  simp [State.tenant, State.setTenant]

@[simp] theorem State.extent_setExtent (s : State) (e : Nat) (x : Extent) : (s.setExtent e x).extent e = x := by
  simp [State.extent, State.setExtent]

@[simp] theorem State.ring_setRing (s : State) (q : RingNo) (r : Ring) : (s.setRing q r).ring q = r := by
  simp [State.ring, State.setRing]

end Sys2Proof.Machine
end

