-- ==== Sys2Proof/Laws/Ops.lean ====
section
/-! SUPPORT. What the shared operations do: counting, events, the module stop, the life of an operation, and the gate that a
running module puts before a command. -/

namespace Sys2Proof.Machine

/-! ### The gate -/

/-- A running module gives the command its effect. -/
@[simp] theorem State.issue_runs (s : State) (f : State → State) (h : s.runs = true) : s.issue f = .next (f s) := by
  simp only [State.runs, Bool.and_eq_true, Bool.not_eq_true'] at h
  simp [State.issue, h.1, h.2]

/-- A module that has stopped, or that RESET_N holds, changes nothing (R589, R640). -/
theorem State.issue_held (s : State) (f : State → State) (h : s.runs = false) : s.issue f = .next s := by
  simp only [State.runs, Bool.and_eq_false_iff, Bool.not_eq_false'] at h
  rcases h with h | h <;> simp [State.issue, h]

/-! ### Counters and events -/

section
variable (s : State) (e : Nat)
@[simp] theorem State.announce_mem : s.announceEvents.mem = s.mem := by
  unfold State.announceEvents; dsimp only; split_ifs <;> rfl
@[simp] theorem State.raise_mem : (s.raise e).mem = s.mem := by simp [State.raise]
@[simp] theorem State.announce_host : s.announceEvents.host = s.host := by
  unfold State.announceEvents; dsimp only; split_ifs <;> rfl
@[simp] theorem State.raise_host : (s.raise e).host = s.host := by simp [State.raise]
@[simp] theorem State.announce_ctx : s.announceEvents.ctx = s.ctx := by
  unfold State.announceEvents; dsimp only; split_ifs <;> rfl
@[simp] theorem State.raise_ctx : (s.raise e).ctx = s.ctx := by simp [State.raise]
@[simp] theorem State.announce_rot : s.announceEvents.rot = s.rot := by
  unfold State.announceEvents; dsimp only; split_ifs <;> rfl
@[simp] theorem State.raise_rot : (s.raise e).rot = s.rot := by simp [State.raise]
@[simp] theorem State.announce_pools : s.announceEvents.pools = s.pools := by
  unfold State.announceEvents; dsimp only; split_ifs <;> rfl
@[simp] theorem State.raise_pools : (s.raise e).pools = s.pools := by simp [State.raise]
@[simp] theorem State.announce_edits : s.announceEvents.edits = s.edits := by
  unfold State.announceEvents; dsimp only; split_ifs <;> rfl
@[simp] theorem State.raise_edits : (s.raise e).edits = s.edits := by simp [State.raise]
@[simp] theorem State.announce_plots : s.announceEvents.plots = s.plots := by
  unfold State.announceEvents; dsimp only; split_ifs <;> rfl
@[simp] theorem State.raise_plots : (s.raise e).plots = s.plots := by simp [State.raise]
@[simp] theorem State.announce_canal : s.announceEvents.canal = s.canal := by
  unfold State.announceEvents; dsimp only; split_ifs <;> rfl
@[simp] theorem State.raise_canal : (s.raise e).canal = s.canal := by simp [State.raise]
@[simp] theorem State.announce_sfu : s.announceEvents.sfu = s.sfu := by
  unfold State.announceEvents; dsimp only; split_ifs <;> rfl
@[simp] theorem State.raise_sfu : (s.raise e).sfu = s.sfu := by simp [State.raise]
@[simp] theorem State.announce_aqf : s.announceEvents.aqf = s.aqf := by
  unfold State.announceEvents; dsimp only; split_ifs <;> rfl
@[simp] theorem State.raise_aqf : (s.raise e).aqf = s.aqf := by simp [State.raise]
@[simp] theorem State.announce_wm : s.announceEvents.wm = s.wm := by
  unfold State.announceEvents; dsimp only; split_ifs <;> rfl
@[simp] theorem State.raise_wm : (s.raise e).wm = s.wm := by simp [State.raise]
@[simp] theorem State.announce_vid : s.announceEvents.vid = s.vid := by
  unfold State.announceEvents; dsimp only; split_ifs <;> rfl
@[simp] theorem State.raise_vid : (s.raise e).vid = s.vid := by simp [State.raise]
@[simp] theorem State.announce_lnk : s.announceEvents.lnk = s.lnk := by
  unfold State.announceEvents; dsimp only; split_ifs <;> rfl
@[simp] theorem State.raise_lnk : (s.raise e).lnk = s.lnk := by simp [State.raise]
@[simp] theorem State.announce_cf : s.announceEvents.cf = s.cf := by
  unfold State.announceEvents; dsimp only; split_ifs <;> rfl
@[simp] theorem State.raise_cf : (s.raise e).cf = s.cf := by simp [State.raise]
@[simp] theorem State.announce_cis : s.announceEvents.cis = s.cis := by
  unfold State.announceEvents; dsimp only; split_ifs <;> rfl
@[simp] theorem State.raise_cis : (s.raise e).cis = s.cis := by simp [State.raise]
@[simp] theorem State.announce_boot : s.announceEvents.boot = s.boot := by
  unfold State.announceEvents; dsimp only; split_ifs <;> rfl
@[simp] theorem State.raise_boot : (s.raise e).boot = s.boot := by simp [State.raise]
@[simp] theorem State.announce_pwr : s.announceEvents.pwr = s.pwr := by
  unfold State.announceEvents; dsimp only; split_ifs <;> rfl
@[simp] theorem State.raise_pwr : (s.raise e).pwr = s.pwr := by simp [State.raise]
@[simp] theorem State.announce_lev : s.announceEvents.lev = s.lev := by
  unfold State.announceEvents; dsimp only; split_ifs <;> rfl
@[simp] theorem State.raise_lev : (s.raise e).lev = s.lev := by simp [State.raise]
@[simp] theorem State.announce_armed : s.announceEvents.armed = s.armed := by
  unfold State.announceEvents; dsimp only; split_ifs <;> rfl
@[simp] theorem State.raise_armed : (s.raise e).armed = s.armed := by simp [State.raise]
@[simp] theorem State.announce_inject : s.announceEvents.inject = s.inject := by
  unfold State.announceEvents; dsimp only; split_ifs <;> rfl
@[simp] theorem State.raise_inject : (s.raise e).inject = s.inject := by simp [State.raise]
@[simp] theorem State.announce_codecPhase : s.announceEvents.codecPhase = s.codecPhase := by
  unfold State.announceEvents; dsimp only; split_ifs <;> rfl
@[simp] theorem State.raise_codecPhase : (s.raise e).codecPhase = s.codecPhase := by simp [State.raise]
@[simp] theorem State.announce_freeIdx : s.announceEvents.freeIdx = s.freeIdx := by
  unfold State.announceEvents; dsimp only; split_ifs <;> rfl
@[simp] theorem State.raise_freeIdx : (s.raise e).freeIdx = s.freeIdx := by simp [State.raise]
@[simp] theorem State.announce_seen : s.announceEvents.seen = s.seen := by
  unfold State.announceEvents; dsimp only; split_ifs <;> rfl
@[simp] theorem State.raise_seen : (s.raise e).seen = s.seen := by simp [State.raise]
@[simp] theorem State.announce_arb : s.announceEvents.arb = s.arb := by
  unfold State.announceEvents; dsimp only; split_ifs <;> rfl
@[simp] theorem State.raise_arb : (s.raise e).arb = s.arb := by simp [State.raise]
@[simp] theorem State.announce_pending : s.announceEvents.pending = s.pending := by
  unfold State.announceEvents; dsimp only; split_ifs <;> rfl
@[simp] theorem State.raise_pending : (s.raise e).pending = s.pending := by simp [State.raise]
end

section
variable (s : State) (c : Ctr) (n k : Nat)
@[simp] theorem State.bump_mem : (s.bump c n k).mem = s.mem := by
  unfold State.bump; dsimp only; split_ifs <;> simp
@[simp] theorem State.bump_host : (s.bump c n k).host = s.host := by
  unfold State.bump; dsimp only; split_ifs <;> simp
@[simp] theorem State.bump_ctx : (s.bump c n k).ctx = s.ctx := by
  unfold State.bump; dsimp only; split_ifs <;> simp
@[simp] theorem State.bump_rot : (s.bump c n k).rot = s.rot := by
  unfold State.bump; dsimp only; split_ifs <;> simp
@[simp] theorem State.bump_pools : (s.bump c n k).pools = s.pools := by
  unfold State.bump; dsimp only; split_ifs <;> simp
@[simp] theorem State.bump_edits : (s.bump c n k).edits = s.edits := by
  unfold State.bump; dsimp only; split_ifs <;> simp
@[simp] theorem State.bump_plots : (s.bump c n k).plots = s.plots := by
  unfold State.bump; dsimp only; split_ifs <;> simp
@[simp] theorem State.bump_canal : (s.bump c n k).canal = s.canal := by
  unfold State.bump; dsimp only; split_ifs <;> simp
@[simp] theorem State.bump_sfu : (s.bump c n k).sfu = s.sfu := by
  unfold State.bump; dsimp only; split_ifs <;> simp
@[simp] theorem State.bump_aqf : (s.bump c n k).aqf = s.aqf := by
  unfold State.bump; dsimp only; split_ifs <;> simp
@[simp] theorem State.bump_wm : (s.bump c n k).wm = s.wm := by
  unfold State.bump; dsimp only; split_ifs <;> simp
@[simp] theorem State.bump_vid : (s.bump c n k).vid = s.vid := by
  unfold State.bump; dsimp only; split_ifs <;> simp
@[simp] theorem State.bump_lnk : (s.bump c n k).lnk = s.lnk := by
  unfold State.bump; dsimp only; split_ifs <;> simp
@[simp] theorem State.bump_cf : (s.bump c n k).cf = s.cf := by
  unfold State.bump; dsimp only; split_ifs <;> simp
@[simp] theorem State.bump_cis : (s.bump c n k).cis = s.cis := by
  unfold State.bump; dsimp only; split_ifs <;> simp
@[simp] theorem State.bump_boot : (s.bump c n k).boot = s.boot := by
  unfold State.bump; dsimp only; split_ifs <;> simp
@[simp] theorem State.bump_pwr : (s.bump c n k).pwr = s.pwr := by
  unfold State.bump; dsimp only; split_ifs <;> simp
@[simp] theorem State.bump_lev : (s.bump c n k).lev = s.lev := by
  unfold State.bump; dsimp only; split_ifs <;> simp
@[simp] theorem State.bump_armed : (s.bump c n k).armed = s.armed := by
  unfold State.bump; dsimp only; split_ifs <;> simp
@[simp] theorem State.bump_inject : (s.bump c n k).inject = s.inject := by
  unfold State.bump; dsimp only; split_ifs <;> simp
@[simp] theorem State.bump_codecPhase : (s.bump c n k).codecPhase = s.codecPhase := by
  unfold State.bump; dsimp only; split_ifs <;> simp
@[simp] theorem State.bump_freeIdx : (s.bump c n k).freeIdx = s.freeIdx := by
  unfold State.bump; dsimp only; split_ifs <;> simp
@[simp] theorem State.bump_seen : (s.bump c n k).seen = s.seen := by
  unfold State.bump; dsimp only; split_ifs <;> simp
@[simp] theorem State.bump_arb : (s.bump c n k).arb = s.arb := by
  unfold State.bump; dsimp only; split_ifs <;> simp
@[simp] theorem State.bump_pending : (s.bump c n k).pending = s.pending := by
  unfold State.bump; dsimp only; split_ifs <;> simp
end

/-- A counter after an increment (R597): it stops at all-ones. -/
theorem State.count_bump (s : State) (c : Ctr) (n k : Nat) : (s.bump c n k).count c n = satAdd (s.count c n) k := by
  have hm : satAdd (s.count c n) k < 2 ^ 48 := by unfold satAdd ctrMax; split_ifs <;> omega
  have hc : (s.bump c n k).ctrs = sput (0 : BitVec 48) s.ctrs (c.off n) (BitVec.ofNat 48 (satAdd (s.count c n) k)) := by
    unfold State.bump
    dsimp only
    split_ifs
    · unfold State.raise State.announceEvents
      dsimp only
      split_ifs <;> rfl
    · rfl
  rw [State.count, hc, sget_sput_same, BitVec.toNat_ofNat, Nat.mod_eq_of_lt hm]

/-! ### Registers -/

/-- Raising an event writes EVT_STATUS and nothing else of the registers. -/
theorem State.raise_regs (s : State) (e : Nat) : (s.raise e).regs =
    (s.setReg .evtStatus 0 (s.reg .evtStatus 0 ||| BitVec.ofNat 64 (2 ^ e))).regs := by
  unfold State.raise State.announceEvents; dsimp only; split_ifs <;> rfl

/-- Counting writes no register but EVT_STATUS, on reaching all-ones. -/
theorem State.rd_bump (s : State) (c : Ctr) (n k : Nat) (g : Fld) (m : Nat) (h : regOff g.reg m ≠ regOff .evtStatus 0) :
    (s.bump c n k).rd g m = s.rd g m := by
  have hr : ∀ (s : State) (e : Nat), (s.raise e).rd g m = s.rd g m := by
    intro s e
    have : (s.raise e).reg g.reg m = s.reg g.reg m := by
      unfold State.reg; rw [State.raise_regs]; exact reg_setReg_other s _ h
    simp [State.rd, this]
  unfold State.bump
  dsimp only
  split_ifs
  · rw [hr]; rfl
  · rfl

/-- A log entry writes no counter. -/
theorem State.count_wr (s : State) (f : Fld) (i v : Nat) (c : Ctr) (n : Nat) : (s.wr f i v).count c n = s.count c n := rfl

@[simp] theorem State.op_bump (s : State) (c : Ctr) (n k : Nat) (q : RingNo) (i : Seq) : (s.bump c n k).op? q i = s.op? q i := by
  simp [State.op?]
@[simp] theorem State.op_wr (s : State) (f : Fld) (n v : Nat) (q : RingNo) (i : Seq) : (s.wr f n v).op? q i = s.op? q i := rfl

/-! ### Logs -/

/-- Registers other than the log's own read as before. -/
theorem State.rd_wrs_other (s : State) (n : Nat) (fs : List (Fld × Nat)) (g : Fld) (m : Nat)
    (h : ∀ f ∈ fs, regOff g.reg m ≠ regOff f.1.reg n) : (s.wrs n fs).rd g m = s.rd g m := by
  induction fs generalizing s with
  | nil => rfl
  | cons f fs ih =>
    rw [State.wrs, ih _ fun x hx => h x (List.mem_cons_of_mem _ hx)]
    simp [State.rd, State.wr, reg_setReg_other _ _ (h f (List.mem_cons_self ..))]

/-- Writing fields changes registers only. -/
theorem State.wrs_only (s : State) (n : Nat) (fs : List (Fld × Nat)) : s.wrs n fs = { s with regs := (s.wrs n fs).regs } := by
  induction fs generalizing s with
  | nil => rfl
  | cons f fs ih => rw [State.wrs, ih]; rfl

/-- Logging changes registers only. -/
theorem State.logFirst_only (s : State) (v : Fld) (n : Nat) (fs : List (Fld × Nat)) :
    s.logFirst v n fs = { s with regs := (s.logFirst v n fs).regs } := by
  unfold State.logFirst
  split_ifs
  · rfl
  · show (s.wrs n fs).wr v n 1 = _
    rw [s.wrs_only n fs]; rfl

/-- Registers other than the log's own read as before. -/
theorem State.rd_logFirst_other (s : State) (v : Fld) (n : Nat) (fs : List (Fld × Nat)) (g : Fld) (m : Nat)
    (hv : regOff g.reg m ≠ regOff v.reg n) (h : ∀ f ∈ fs, regOff g.reg m ≠ regOff f.1.reg n) :
    (s.logFirst v n fs).rd g m = s.rd g m := by
  unfold State.logFirst
  split_ifs
  · rfl
  · rw [← State.rd_wrs_other s n fs g m h]
    simp [State.rd, State.wr, reg_setReg_other _ _ hv]

/-! ### Operations -/

/-- An operation is found as it was last set. -/
theorem State.op_setOp (s : State) {q : RingNo} {n : Seq} {o : Op} (o' : Op) (h : s.op? q n = some o) (hq : o'.ring = q)
    (hn : o'.seq = n) : (s.setOp o').op? q n = some o' := by
  subst hq hn
  simp only [State.op?, State.setOp] at *
  generalize s.host.ops = l at h
  induction l with
  | nil => simp at h
  | cons p ps ih =>
    by_cases hp : p.ring = o'.ring ∧ p.seq = o'.seq
    · rw [List.map_cons, List.find?_cons_of_pos] <;> simp [hp]
    · rw [List.find?_cons_of_neg] at h
      · rw [List.map_cons, List.find?_cons_of_neg]
        · exact ih h
        · simp [hp]
      · simpa using hp

theorem State.op_ring (s : State) {q : RingNo} {n : Seq} {o : Op} (h : s.op? q n = some o) : o.ring = q ∧ o.seq = n := by
  have := List.find?_some h
  simpa using this

theorem State.op_setOp_other (s : State) {q : RingNo} {n : Seq} (o' : Op) (h : ¬(o'.ring = q ∧ o'.seq = n)) :
    (s.setOp o').op? q n = s.op? q n := by
  simp only [State.op?, State.setOp]
  generalize s.host.ops = l
  induction l with
  | nil => rfl
  | cons p ps ih =>
    rw [List.map_cons]
    by_cases hp : p.ring = o'.ring ∧ p.seq = o'.seq
    · have hq : ¬(p.ring = q ∧ p.seq = n) := fun e => h ⟨hp.1 ▸ e.1, hp.2 ▸ e.2⟩
      rw [List.find?_cons_of_neg (by simpa [hp] using h), List.find?_cons_of_neg (by simpa using hq), ih]
    · have hn : (p.ring = o'.ring && p.seq = o'.seq) = false := by simpa using hp
      rw [hn, if_neg Bool.false_ne_true, List.find?_cons, List.find?_cons, ih]

/-- An operation that has ended waits for its record with the status, detail and result given. -/
theorem State.op_finish (s : State) {q : RingNo} {n : Seq} {o : Op} (st : BitVec 12) (dt : BitVec 16) (res : Word)
    (h : s.op? q n = some o) :
    (s.finish o st dt res).op? q n = some { o with stage := .done, status := st, detail := dt, result := res } := by
  obtain ⟨hq, hn⟩ := s.op_ring h
  exact s.op_setOp _ h hq hn

/-- A row of an operation that is ready gives it its effect. -/
theorem State.opRow_ready {s : State} {q : RingNo} {n : Seq} {o : Op} {opc : Nat} (f : State → Op → State)
    (h : OpReady s q n o opc) : s.opRow q n opc f = .next (f s o) := by
  rw [State.opRow, State.issue_runs _ _ h.runs]
  simp [h.found, h.opcode, h.start]

theorem State.finish_ended (s : State) (o : Op) (st : BitVec 12) (dt : BitVec 16) (res : Word) :
    s.finish o st dt res = s.setOp (o.ended st dt res) := rfl

end Sys2Proof.Machine
end

