-- ==== Sys2Proof/Laws/Memory.lean ====
section
/-! SUPPORT. Laws of the storage tiers: every operation that writes them keeps their canonical form, a read after a write gives what
was written, and every other byte stays. -/

namespace Sys2Proof.Machine

/-! ### The canonical form -/

theorem Mem.wf_iff (m : Mem) : m.wf = true ↔ sparseWf (0 : Byte) m.cis = true ∧ sparseWf (0 : BitVec 2) m.cisTag = true ∧
    sparseWf (0 : Byte) m.resv = true ∧ sparseWf (0 : Nat) m.fog = true ∧ sparseWf (0 : Byte) m.aqua = true ∧
    sparseWf (0 : Nat) m.cisFog = true := by
  simp [Mem.wf, and_assoc]

theorem Mem.setTag_wf (m : Mem) (b t : Nat) (h : m.wf = true) : (m.setTag b t).wf = true := by
  rw [Mem.wf_iff] at h ⊢
  exact ⟨h.1, sput_wf _ _ _ _ h.2.1, h.2.2⟩

theorem Mem.writeTags_wf (m : Mem) (a n b k : Nat) (h : m.wf = true) : (m.writeTags a n b k).wf = true := by
  induction k generalizing m b with
  | zero => exact h
  | succ k ih =>
    unfold Mem.writeTags
    dsimp only
    split_ifs
    · exact ih _ _ (m.setTag_wf b 0 h)
    · exact ih _ _ h

/-- A fold of puts keeps the canonical form. -/
theorem foldl_put_wf {α β : Type} [DecidableEq α] (d : α) (f : Sparse α → β → Sparse α)
    (hf : ∀ m b, sparseWf d m = true → sparseWf d (f m b) = true) (l : List β) (m : Sparse α) (h : sparseWf d m = true) :
    sparseWf d (l.foldl f m) = true := by
  induction l generalizing m with
  | nil => exact h
  | cons b l ih => exact ih _ (hf _ _ h)

/-- The parity that a write brings keeps the canonical form. -/
theorem State.parityCells_wf (s : State) (a : Nat) (bs : List Byte) (h : sparseWf (0 : Byte) s.mem.cis = true) :
    sparseWf (0 : Byte) (s.parityCells a bs) = true := by
  unfold State.parityCells
  split_ifs
  · refine foldl_put_wf _ _ (fun m b hm => ?_) _ _ h
    dsimp only
    split_ifs
    · exact sput_wf _ _ _ _ hm
    · exact hm
  · exact h

/-- Parity brought by a write changes no byte that is the parity of none of the bytes written. -/
theorem State.parityCells_other (s : State) (a : Nat) (bs : List Byte) (b : Nat)
    (hp : s.flag CIS_PROT_READY = true → ∀ i < bs.length, inRange (a + i) s.protBase s.protSize = true → s.parityOf (a + i) ≠ b) :
    sget (0 : Byte) (s.parityCells a bs) b = sget (0 : Byte) s.mem.cis b := by
  unfold State.parityCells
  split_ifs with hr
  · have key : ∀ (l : List (Byte × Nat)) (m : Sparse Byte), (∀ x ∈ l, x.2 < bs.length) →
        sget (0 : Byte) (l.foldl (fun m b =>
          let x := a + b.2
          if inRange x s.protBase s.protSize then
            sput (0 : Byte) m (s.parityOf x) (sget (0 : Byte) m (s.parityOf x) ^^^ sget (0 : Byte) s.mem.cis x ^^^ b.1)
          else m) m) b = sget (0 : Byte) m b := by
      intro l
      induction l with
      | nil => intro m _; rfl
      | cons y l ih =>
        intro m hl
        rw [List.foldl_cons, ih _ fun x hx => hl x (List.mem_cons_of_mem _ hx)]
        dsimp only
        split_ifs with hi
        · exact sget_sput_other _ _ _ _ fun he => hp hr y.2 (hl y List.mem_cons_self) hi he.symm
        · rfl
    exact key _ _ fun x hx => by have := List.snd_lt_of_mem_zipIdx hx; simpa using this
  · rfl

/-- A write to Cistern keeps the canonical form. -/
theorem State.cisWrite_wf (s : State) (a : Nat) (bs : List Byte) (h : s.mem.wf = true) : (s.cisWrite a bs).mem.wf = true := by
  have hm : ({ s.mem with cis := writeBytes (s.parityCells a (s.mem.plain a bs)) a (s.mem.plain a bs) } : Mem).wf = true := by
    rw [Mem.wf_iff] at h ⊢
    exact ⟨writeBytes_wf _ _ _ (s.parityCells_wf a _ h.1), h.2⟩
  unfold State.cisWrite
  dsimp only
  split_ifs
  · exact hm
  · exact Mem.writeTags_wf _ _ _ _ _ hm

/-- A write to a column of the Reservoir keeps the canonical form. -/
theorem State.resvWrite_wf (s : State) (p off : Nat) (bs : List Byte) (h : s.mem.wf = true) :
    (s.resvWrite p off bs).mem.wf = true := by
  rw [Mem.wf_iff] at h
  unfold State.resvWrite
  dsimp only
  split_ifs <;> rw [Mem.wf_iff]
  · exact h
  all_goals exact ⟨h.1, h.2.1, writeBytes_wf _ _ _ h.2.2.1, h.2.2.2⟩

/-- Granules that take another key keep the canonical form. -/
theorem State.rekey_wf (s : State) (gs : List Nat) (h : s.mem.wf = true) : (s.rekey gs).mem.wf = true := by
  induction gs generalizing s with
  | nil => exact h
  | cons g gs ih =>
    refine ih _ ?_
    rw [Mem.wf_iff] at h ⊢
    exact ⟨h.1, h.2.1, h.2.2.1, h.2.2.2.1, h.2.2.2.2.1, sput_wf (0 : Nat) s.mem.cisFog g (s.freeIdx + 1) h.2.2.2.2.2⟩

/-! ### Reads after writes -/

@[simp] theorem Mem.setTag_cis (m : Mem) (b t : Nat) : (m.setTag b t).cis = m.cis := rfl
@[simp] theorem Mem.setTag_cisFog (m : Mem) (b t : Nat) : (m.setTag b t).cisFog = m.cisFog := rfl
@[simp] theorem Mem.setTag_resv (m : Mem) (b t : Nat) : (m.setTag b t).resv = m.resv := rfl
@[simp] theorem Mem.setTag_fog (m : Mem) (b t : Nat) : (m.setTag b t).fog = m.fog := rfl
@[simp] theorem Mem.setTag_aqua (m : Mem) (b t : Nat) : (m.setTag b t).aqua = m.aqua := rfl

theorem Mem.writeTags_stores (m : Mem) (a n b k : Nat) :
    (m.writeTags a n b k).cis = m.cis ∧ (m.writeTags a n b k).cisFog = m.cisFog ∧ (m.writeTags a n b k).resv = m.resv ∧
    (m.writeTags a n b k).fog = m.fog ∧ (m.writeTags a n b k).aqua = m.aqua := by
  induction k generalizing m b with
  | zero => exact ⟨rfl, rfl, rfl, rfl, rfl⟩
  | succ k ih =>
    unfold Mem.writeTags
    dsimp only
    split_ifs
    · simpa using ih (m.setTag b 0) (b + 1)
    · exact ih m (b + 1)

/-- What a Cistern write does to the stores. -/
theorem State.cisWrite_stores (s : State) (a : Nat) (bs : List Byte) :
    (s.cisWrite a bs).mem.cis = writeBytes (s.parityCells a (s.mem.plain a bs)) a (s.mem.plain a bs) ∧ (s.cisWrite a bs).mem.cisFog = s.mem.cisFog ∧
    (s.cisWrite a bs).mem.resv = s.mem.resv ∧ (s.cisWrite a bs).mem.fog = s.mem.fog ∧ (s.cisWrite a bs).mem.aqua = s.mem.aqua := by
  unfold State.cisWrite
  dsimp only
  split_ifs
  · exact ⟨rfl, rfl, rfl, rfl, rfl⟩
  · exact Mem.writeTags_stores _ _ _ _ _

@[simp] theorem Mem.plain_length (m : Mem) (a : Nat) (bs : List Byte) : (m.plain a bs).length = bs.length := by
  unfold Mem.plain
  split_ifs <;> simp

/-- A write to Cistern reads back as it was written, whatever key its granule has. -/
theorem State.cisBytes_cisWrite (s : State) (a : Nat) (bs : List Byte) : (s.cisWrite a bs).cisBytes a bs.length = bs := by
  obtain ⟨hc, hf, -⟩ := s.cisWrite_stores a bs
  have hr := readBytes_writeBytes (s.parityCells a (s.mem.plain a bs)) a (s.mem.plain a bs)
  rw [Mem.plain_length] at hr
  have hp : (s.cisWrite a bs).mem.plain a (s.mem.plain a bs) = bs := by
    unfold Mem.plain
    rw [hf]
    split_ifs
    · rfl
    · apply List.ext_getElem
      · simp
      · intro i h1 h2
        simp only [List.getElem_map, List.getElem_zipIdx, Nat.zero_add]
        cases sget 0 s.mem.cisFog ((a + i) / 2 ^ 26) with
        | zero => rfl
        | succ k => simp
  unfold State.cisBytes
  rw [hc, hr, hp]

/-- A byte of Cistern that a write spares stays. -/
theorem State.cisByte_cisWrite_other (s : State) (a : Nat) (bs : List Byte) (b : Nat) (hb : s.cisSpares a bs.length b) :
    (s.cisWrite a bs).cisBytes b 1 = s.cisBytes b 1 := by
  obtain ⟨hc, hf, -⟩ := s.cisWrite_stores a bs
  have hr : sget (0 : Byte) (writeBytes (s.parityCells a (s.mem.plain a bs)) a (s.mem.plain a bs)) b = sget (0 : Byte) s.mem.cis b := by
    rw [writeBytes_other _ _ _ b (by rw [Mem.plain_length]; exact hb.1)]
    exact s.parityCells_other a _ b (by rw [Mem.plain_length]; exact hb.2)
  simp only [State.cisBytes, readBytes, hc, hr]
  simp only [Mem.plain, hf]

end Sys2Proof.Machine
end

