-- ==== Sys2Proof/Laws/Traffic.lean ====
section
/-! SUPPORT. What seeps and the traffic of Cistern leave unchanged: an armed seep that meets no event, and reads and writes of the channels
as one law each. -/

namespace Sys2Proof.Machine

/-! ### Seeps -/

/-- A quiet seep meets no event. -/
theorem State.seepEvents_quiet (s : State) {k : SeepKind} {i : Nat} (n : Nat) (acts : DWord → Bool) (h : s.seepQuiet k i = true) :
    s.seepEvents k i n acts = { st := s, hit := none } := by
  simp only [State.seepQuiet, Bool.and_eq_true, Bool.not_eq_true', List.all_eq_true] at h
  have hf : s.inject.find? (fun x => x.kind = k && x.inst = i && acts x.word) = none := by
    rw [List.find?_eq_none]
    intro x hx
    have := h.2 x hx
    simp only [Bool.and_eq_false_iff] at this
    simp only [Bool.and_eq_true, not_and]
    intro hk
    rcases this with this | this <;> simp_all
  simp [State.seepEvents, hf, h.1]

/-- The same for one event of a target. -/
theorem State.seepOne_quiet (s : State) {k : SeepKind} {i : Nat} (t : Nat) (h : s.seepQuiet k i = true) :
    s.seepOne k i t = { st := s, hit := none } := s.seepEvents_quiet _ _ h

/-- What counting an event of a seep may change. -/
theorem State.seepEvents_only (s : State) (k : SeepKind) (i n : Nat) (acts : DWord → Bool) :
    (s.seepEvents k i n acts).st = { s with
      regs := (s.seepEvents k i n acts).st.regs, armed := (s.seepEvents k i n acts).st.armed,
      seen := (s.seepEvents k i n acts).st.seen, inject := (s.seepEvents k i n acts).st.inject } := by
  unfold State.seepEvents
  split
  · split_ifs <;> rfl
  · dsimp only
    split_ifs
    · rfl
    · unfold State.disarm; dsimp only; split_ifs <;> rfl
    · rfl

/-! ### Traffic -/

/-- `Traffic`, with its frame, and a quiet XTS seep that stays quiet: what a unit's reads and writes of Cistern do, in a form that chains. -/
structure Carries (s t : State) : Prop where
  frame : t = s.withTraffic t
  traffic : Traffic s t
  quiet : s.seepQuiet .wm 0 = true → t.seepQuiet .wm 0 = true

theorem Carries.refl (s : State) : Carries s s :=
  ⟨rfl, ⟨fun _ _ _ _ => rfl, List.prefix_rfl, fun _ => ⟨rfl, rfl⟩⟩, id⟩

theorem Carries.trans {s t u : State} (h : Carries s t) (g : Carries t u) : Carries s u := by
  refine ⟨?_, ⟨fun k n hn hk => (g.traffic.regs k n hn hk).trans (h.traffic.regs k n hn hk), h.traffic.sent.trans g.traffic.sent,
    fun q => ?_⟩, fun q => g.quiet (h.quiet q)⟩
  · have hf := h.frame
    have gf := g.frame
    rw [hf] at gf
    exact gf
  · have a := h.traffic.calm q
    have b := g.traffic.calm (h.quiet q)
    exact ⟨b.1.trans a.1, b.2.trans a.2⟩

/-- The registers of `trafficRegs` do not overlap others. -/
theorem regOff_apart {k k' : RegKind} {n n' : Nat} (h : regAt (regOff k n) = some (k, n)) (h' : regAt (regOff k' n') = some (k', n'))
    (hk : k' ∉ trafficRegs) (hm : k ∈ trafficRegs) : regOff k' n' ≠ regOff k n := by
  intro e
  rw [e, h] at h'
  simp only [Option.some.injEq, Prod.mk.injEq] at h'
  exact hk (h'.1 ▸ hm)

theorem carries_setReg (s : State) {k : RegKind} {n : Nat} (v : DWord) (hm : k ∈ trafficRegs) (h : regAt (regOff k n) = some (k, n)) :
    Carries s (s.setReg k n v) :=
  ⟨rfl, ⟨fun _ _ h' hk => reg_setReg_other s v (regOff_apart h h' hk hm), List.prefix_rfl, fun _ => ⟨rfl, rfl⟩⟩, id⟩

theorem carries_wr (s : State) {f : Fld} {n : Nat} (v : Nat) (hm : f.reg ∈ trafficRegs) (h : regAt (regOff f.reg n) = some (f.reg, n)) :
    Carries s (s.wr f n v) := carries_setReg s _ hm h

theorem carries_wrs (n : Nat) : ∀ (fs : List (Fld × Nat)) (s : State),
    (∀ x ∈ fs, x.1.reg ∈ trafficRegs ∧ regAt (regOff x.1.reg n) = some (x.1.reg, n)) → Carries s (s.wrs n fs)
  | [], s, _ => Carries.refl s
  | x :: xs, s, h => by
      have hx := h x (by simp)
      have := carries_wrs n xs (s.wr x.1 n x.2) fun y hy => h y (by simp [hy])
      exact (carries_wr s x.2 hx.1 hx.2).trans this

theorem carries_logFirst (s : State) {v : Fld} {n : Nat} (fs : List (Fld × Nat)) (hv : v.reg ∈ trafficRegs)
    (hn : regAt (regOff v.reg n) = some (v.reg, n)) (hf : ∀ x ∈ fs, x.1.reg = v.reg) : Carries s (s.logFirst v n fs) := by
  unfold State.logFirst
  split_ifs
  · exact Carries.refl s
  · refine (carries_wrs n fs s fun x hx => ?_).trans (carries_wr _ 1 hv hn)
    rw [hf x hx]
    exact ⟨hv, hn⟩

theorem carries_emit (s : State) (o : Output) : Carries s (s.emit o) :=
  ⟨rfl, ⟨fun _ _ _ _ => rfl, ⟨[o], rfl⟩, fun _ => ⟨rfl, rfl⟩⟩, id⟩

theorem carries_announce (s : State) : Carries s s.announceEvents := by
  unfold State.announceEvents
  dsimp only
  split_ifs
  · exact carries_emit s _
  · exact (carries_emit s _).trans (carries_emit _ _)
  · exact Carries.refl s

theorem carries_raise (s : State) (e : Nat) : Carries s (s.raise e) :=
  (carries_setReg s _ (by decide) (by decide +kernel)).trans (carries_announce _)

theorem carries_bump (s : State) (c : Ctr) (n k : Nat) : Carries s (s.bump c n k) := by
  have h1 : ∀ (x y), Carries s { s with ctrs := x, ovf := y } := fun x y =>
    ⟨rfl, ⟨fun _ _ _ _ => rfl, List.prefix_rfl, fun _ => ⟨rfl, rfl⟩⟩, id⟩
  unfold State.bump
  dsimp only
  split_ifs
  · exact (h1 _ _).trans (carries_raise _ _)
  · exact h1 _ _

theorem carries_mem (s : State) (m : Mem) : Carries s { s with mem := m } :=
  ⟨rfl, ⟨fun _ _ _ _ => rfl, List.prefix_rfl, fun _ => ⟨rfl, rfl⟩⟩, id⟩

theorem carries_cis (s : State) (c : CisS) : Carries s { s with cis := c } :=
  ⟨rfl, ⟨fun _ _ _ _ => rfl, List.prefix_rfl, fun _ => ⟨rfl, rfl⟩⟩, id⟩

/-- A seep of a channel counts and fires; the XTS seep's arming stands at another offset. -/
theorem carries_arm (s : State) (a : Sparse DWord) (b : Sparse Nat) (j : List Injection)
    (ha : sget (0 : DWord) a (regOff .wmSeep 0) = sget (0 : DWord) s.armed (regOff .wmSeep 0))
    (hj : ∀ x ∈ j, x ∈ s.inject ∨ x.kind ≠ .wm) : Carries s { s with armed := a, seen := b, inject := j } := by
  have hw : ({ s with armed := a, seen := b, inject := j } : State).armedWord .wm 0 = s.armedWord .wm 0 := ha
  have hs : ({ s with armed := a, seen := b, inject := j } : State).seepArmed .wm 0 = s.seepArmed .wm 0 := by
    simp only [State.seepArmed, hw]
  refine ⟨rfl, ⟨fun _ _ _ _ => rfl, List.prefix_rfl, fun _ => ⟨rfl, rfl⟩⟩, ?_⟩
  simp only [State.seepQuiet, hs, Bool.and_eq_true, List.all_eq_true]
  rintro ⟨h1, h2⟩
  refine ⟨h1, fun x hx => ?_⟩
  rcases hj x hx with h | h
  · exact h2 x h
  · simp [h]

theorem regAt_cisSeep : ∀ ch < 64, regAt (regOff .cisSeep ch) = some (.cisSeep, ch) := by decide +kernel
theorem regAt_cisLog : ∀ ch < 64, regAt (regOff .cisLog ch) = some (.cisLog, ch) := by decide +kernel

theorem cisSeep_apart (ch : Nat) : regOff .wmSeep 0 ≠ regOff .cisSeep ch := by
  simp [regOff, RegKind.place]
  omega

theorem carries_cisternSeep (s : State) {ch : Nat} (n : Nat) (acts : DWord → Bool) (h : ch < 64) :
    Carries s (s.seepEvents .cistern ch n acts).st := by
  unfold State.seepEvents
  split
  · rename_i x hx
    split_ifs
    · exact Carries.refl s
    · exact carries_arm s s.armed s.seen _ rfl fun y hy => .inl (List.mem_of_mem_erase hy)
  · dsimp only
    split_ifs
    · exact Carries.refl s
    · have h1 : Carries s (s.setReg .cisSeep ch ((s.reg .cisSeep ch ||| BitVec.ofNat 64 (2 ^ 48)) &&& ~~~1)) :=
        carries_setReg s _ (by decide) (regAt_cisSeep ch h)
      refine h1.trans ?_
      simp only [State.disarm, seepReg]
      exact carries_arm _ _ _ _ (sget_sput_other _ _ _ _ (cisSeep_apart ch)) fun y hy => .inl hy
    · exact carries_arm s s.armed _ s.inject rfl fun y hy => .inl hy

/-! ### Reads -/

theorem chanOf_lt (a : Nat) : chanOf a < 64 := by unfold chanOf; exact Nat.mod_lt _ (by decide)

theorem State.chanBlock_lt (s : State) (a : Nat) : (s.chanBlock a).1 < 64 := by
  unfold State.chanBlock
  dsimp only
  split_ifs
  · show otherChan _ _ < 64
    unfold otherChan
    split_ifs
    · omega
    · omega
  · exact chanOf_lt a

theorem carries_cisLog (s : State) {ch : Nat} (b k : Nat) (st : BitVec 12) (h : ch < 64) : Carries s (s.cisLog ch b k st) :=
  carries_logFirst s _ (by decide) (regAt_cisLog ch h) (by simp; exact ⟨rfl, rfl, rfl⟩)

theorem carries_readFailed (s : State) {ch : Nat} (a m kind : Nat) (persist : Bool) (h : ch < 64) :
    Carries s (s.readFailed a ch m kind persist).2 := by
  have h1 := carries_bump s ctrEccUncorrectable ch 1
  unfold State.readFailed
  dsimp only
  split_ifs
  · exact h1.trans (carries_cisLog _ _ _ _ h)
  · exact (h1.trans (carries_bump _ _ _ _)).trans (carries_mem _ _)
  · exact h1.trans (carries_cisLog _ _ _ _ h)

theorem carries_inject (s : State) (i : Nat) (w : DWord) : Carries s (s.inject_ .cistern i w) :=
  carries_arm s s.armed s.seen _ rfl fun x hx => by
    rcases List.mem_append.1 hx with h | h
    · exact .inl h
    · simp only [List.mem_singleton] at h; subst h; exact .inr (by simp)

theorem carries_spoil (s : State) (a : Nat) : Carries s (s.spoilParity a) := by
  unfold State.spoilParity
  split_ifs
  · exact carries_mem s _
  · exact Carries.refl s

theorem carries_eccFor (s : State) {ch : Nat} (a : Nat) (ecc : EccOutcome) (h : ch < 64) : Carries s (s.eccFor ch a ecc).2.2 := by
  have h1 := carries_cisternSeep s 1 (fun _ => true) h
  unfold State.eccFor
  dsimp only
  split
  · exact h1
  · split
    · exact h1
    · exact h1
    · exact h1.trans (carries_inject _ _ _)
    · exact h1.trans (carries_spoil _ _)

/-- One block read of Cistern. -/
theorem carries_readBlock (s : State) (a : Nat) (ecc : EccOutcome) : Carries s (s.readBlock a ecc).2 := by
  have hc := s.chanBlock_lt a
  have h1 := carries_eccFor s a ecc hc
  unfold State.readBlock
  dsimp only
  split
  · exact h1.trans (carries_cisLog _ _ _ _ hc)
  · exact h1.trans (carries_readFailed _ _ _ _ _ hc)
  · split
    · exact h1
    · exact h1.trans (carries_bump _ _ _ _)
    · exact h1.trans (carries_readFailed _ _ _ _ _ hc)

theorem carries_readBlocks (n : Nat) : ∀ (s : State) (a : Nat) (ecc : EccOutcome), Carries s (s.readBlocks a ecc n).2 := by
  induction n with
  | zero => exact fun s _ _ => Carries.refl s
  | succ n ih =>
    intro s a ecc
    unfold State.readBlocks
    dsimp only
    split_ifs
    · exact (carries_readBlock s a ecc).trans (ih _ _ _)
    · exact carries_readBlock s a ecc

theorem carries_newWindow (s : State) (ch : Nat) : Carries s (s.newWindow ch) := carries_cis s _

theorem carries_useGrant (s : State) (ch : Nat) : Carries s (s.useGrant ch) := by
  unfold State.useGrant
  dsimp only
  split_ifs
  · exact (carries_cis s _).trans (carries_newWindow _ _)
  · exact carries_cis s _

theorem carries_countGrant (s : State) (ch p : Nat) : Carries s (s.countGrant ch p) := by
  have h1 := carries_bump s ctrGrants p 1
  have go : ∀ (x : State) (c : CisS), Carries s x → Carries s (({ x with cis := c } : State).useGrant ch) := fun x c h =>
    (h.trans (carries_cis x c)).trans (carries_useGrant _ _)
  refine go _ _ ?_
  split_ifs
  · exact h1.trans (carries_bump _ _ _ _)
  · exact h1

theorem carries_tagged (s : State) (part : Option Nat) (ch : Nat) : Carries s (s.tagged part ch) := by
  unfold State.tagged
  split
  · unfold State.grant_
    dsimp only
    split_ifs
    · exact ((carries_bump s _ _ _).trans (carries_newWindow _ _)).trans (carries_countGrant _ _ _)
    · exact carries_countGrant s _ _
  · exact carries_useGrant s _

/-- A unit's read of Cistern. -/
theorem carries_cisRead (s : State) (part : Option Nat) (a n : Nat) : Carries s (s.cisRead part a n).2 := by
  have key : ∀ (k : Nat) (s : State) (a n : Nat), Carries s (s.readGranules part a n k).2 := by
    intro k
    induction k with
    | zero => exact fun s _ _ => Carries.refl s
    | succ k ih =>
      intro s a n
      have h1 := (carries_tagged s part (s.chanBlock a).1).trans
        (carries_readBlocks (blocksOf a (min n (256 - a % 256))) (s.tagged part (s.chanBlock a).1) a .clean)
      unfold State.readGranules
      dsimp only
      split_ifs
      · exact h1
      · exact h1.trans (carries_bump _ _ _ _)
      · exact (h1.trans (carries_bump _ _ _ _)).trans (ih _ _ _)
  exact key _ s a n

/-- The reads of a list of ranges. -/
theorem carries_cisReadAll (part : Option Nat) : ∀ (l : List (Nat × Nat)) (s : State), Carries s (s.cisReadAll part l).2
  | [], s => Carries.refl s
  | (a, n) :: l, s => by
      unfold State.cisReadAll
      dsimp only
      split_ifs
      · exact (carries_cisRead s part a n).trans (carries_cisReadAll part l _)
      · exact carries_cisRead s part a n

/-! ### Writes -/

/-- `Carries` without what holds for a quiet XTS seep. -/
structure Loose (s t : State) : Prop where
  frame : t = s.withTraffic t
  regs : ∀ k n, regAt (regOff k n) = some (k, n) → k ∉ trafficRegs → t.reg k n = s.reg k n
  sent : s.out <+: t.out

theorem Carries.loose {s t : State} (h : Carries s t) : Loose s t := ⟨h.frame, h.traffic.regs, h.traffic.sent⟩

theorem Loose.trans {s t u : State} (h : Loose s t) (g : Loose t u) : Loose s u := by
  refine ⟨?_, fun k n hn hk => (g.regs k n hn hk).trans (h.regs k n hn hk), h.sent.trans g.sent⟩
  have hf := h.frame
  have gf := g.frame
  rw [hf] at gf
  exact gf

theorem Loose.carries {s t : State} (h : Loose s t) (hn : s.seepQuiet .wm 0 = false) : Carries s t :=
  ⟨h.frame, ⟨h.regs, h.sent, fun q => by simp [hn] at q⟩, fun q => by simp [hn] at q⟩

theorem loose_seep (s : State) (n : Nat) (acts : DWord → Bool) : Loose s (s.seepEvents .wm 0 n acts).st := by
  have h0 := s.seepEvents_only .wm 0 n acts
  have hr : (s.seepEvents .wm 0 n acts).st.regs = s.regs ∨ ∃ v, (s.seepEvents .wm 0 n acts).st.regs = (s.setReg .wmSeep 0 v).regs := by
    unfold State.seepEvents
    split
    · split_ifs <;> exact .inl rfl
    · dsimp only
      split_ifs
      · exact .inl rfl
      · refine .inr ?_
        unfold State.disarm
        dsimp only
        split_ifs <;> exact ⟨_, rfl⟩
      · exact .inl rfl
  refine ⟨?_, fun k n' hn hk => ?_, ?_⟩
  · rw [h0]; rfl
  · rcases hr with h | ⟨v, h⟩
    · show sget _ _ _ = sget _ _ _
      rw [h]
    · have h2 := (carries_setReg s v (k := .wmSeep) (n := 0) (by decide) (by decide +kernel)).traffic.regs k n' hn hk
      simp only [State.reg] at h2 ⊢
      rw [h]
      exact h2
  · rw [h0]

theorem loose_wrAll (f : Fld) (v : Nat) (hm : f.reg ∈ trafficRegs) : ∀ (n : Nat), (∀ i < n, regAt (regOff f.reg i) = some (f.reg, i)) →
    ∀ s : State, Carries s (wrAll f v n s)
  | 0, _, s => Carries.refl s
  | n + 1, h, s => (carries_wr s v hm (h n (by omega))).trans (loose_wrAll f v hm n (fun i hi => h i (by omega)) _)

theorem carries_stopCause (s : State) (v : Nat) : Carries s (s.wr RST_CAUSE_STOP_CAUSE 0 v) := carries_wr s v (by decide) (by decide +kernel)
theorem carries_stopDetail (s : State) (v : Nat) : Carries s (s.wr RST_CAUSE_DETAIL 0 v) := carries_wr s v (by decide) (by decide +kernel)

/-- A module stop. -/
theorem loose_stop (s : State) (c d : Nat) : Loose s (s.stop c d) := by
  have key : ∀ b : BootS, Loose s ((wrAll CF_PORT_STATE 0 8 (wrAll DEX_HALF_STATE 0 2
      ((({ s with boot := b } : State).wr RST_CAUSE_STOP_CAUSE 0 c).wr RST_CAUSE_DETAIL 0 d))).emit (.ibi (BitVec.ofNat 8 (0x80 + c)))) := fun b => by
    have h0 : Loose s { s with boot := b } := ⟨rfl, fun _ _ _ _ => rfl, List.prefix_rfl⟩
    have h1 := ((carries_stopCause { s with boot := b } c).trans (carries_stopDetail _ d)).trans
      (loose_wrAll DEX_HALF_STATE 0 (by decide) 2 (by decide +kernel) _)
    have h2 := (h1.trans (loose_wrAll CF_PORT_STATE 0 (by decide) 8 (by decide +kernel) _)).trans
      (carries_emit _ (.ibi (BitVec.ofNat 8 (0x80 + c))))
    exact h0.trans h2.loose
  unfold State.stop
  dsimp only
  by_cases h : s.boot.stopped = true
  · rw [if_pos h]; exact (Carries.refl s).loose
  · rw [if_neg h]; exact key _

theorem loose_stopAny (s : State) (c : Nat) : Loose s (s.stopAny c) := by
  unfold State.stopAny
  by_cases h : s.boot.stopped = true
  · rw [if_pos h]; exact (Carries.refl s).loose
  · rw [if_neg h]
    exact Loose.trans (t := { s with freeIdx := s.freeIdx + 1 }) ⟨rfl, fun _ _ _ _ => rfl, List.prefix_rfl⟩ (loose_stop _ _ _)

theorem carries_wmLog (s : State) (k t d u : Nat) : Carries s (s.wmLog k t d u) :=
  carries_logFirst s _ (by decide) (by decide +kernel) (by simp; exact ⟨rfl, rfl, rfl, rfl⟩)

/-- The blocks that a controller's XTS engine encrypts (R569). -/
theorem carries_xtsCheck (s : State) (u n : Nat) : Carries s (s.xtsCheck u n) := by
  by_cases hq : s.seepQuiet .wm 0 = true
  · have : s.xtsCheck u n = s := by simp [State.xtsCheck, s.seepEvents_quiet n _ hq, SeepHit.word]
    rw [this]; exact Carries.refl s
  · refine Loose.carries ?_ (by simpa using hq)
    have h0 := loose_seep s n fun w => seepTarget .wm w = 0 && getBits w 4 7 = u
    unfold State.xtsCheck
    dsimp only
    split
    · split_ifs
      · exact (h0.trans (carries_wmLog _ _ _ _ _).loose).trans (loose_stopAny _ _)
      · exact h0.trans (carries_bump _ _ _ _).loose
    · exact h0

/-- A unit's write of Cistern. -/
theorem carries_cisSend (s : State) (part : Option Nat) (a : Nat) (bs : List Byte) : Carries s (s.cisSend part a bs) := by
  have key : ∀ (k : Nat) (s : State) (a n : Nat), Carries s (s.sendGranules part a n k) := by
    intro k
    induction k with
    | zero => exact fun s _ _ => Carries.refl s
    | succ k ih =>
      intro s a n
      have h1 := ((carries_tagged s part (s.chanBlock a).1).trans
        (carries_bump _ ctrWriteBytes (s.chanBlock a).1 (min n (256 - a % 256)))).trans
        (carries_xtsCheck _ (s.chanBlock a).1 (blocksOf a (min n (256 - a % 256))))
      unfold State.sendGranules
      dsimp only
      split_ifs
      · exact h1
      · exact h1.trans (ih _ _ _)
  exact (key _ s a bs.length).trans (carries_mem _ _)

/-! ### Flits -/

/-- What sending flits may change. -/
structure FlitsOnly (s t : State) : Prop where
  frame : t = { s with regs := t.regs, ctrs := t.ctrs, ovf := t.ovf, lnk := t.lnk, armed := t.armed, seen := t.seen, inject := t.inject, out := t.out }

theorem FlitsOnly.trans {s t u : State} (h : FlitsOnly s t) (g : FlitsOnly t u) : FlitsOnly s u := by
  have hf := h.frame
  have gf := g.frame
  rw [hf] at gf
  exact ⟨gf⟩

theorem State.raise_only (s : State) (e : Nat) : s.raise e = { s with regs := (s.raise e).regs, out := (s.raise e).out } := by
  unfold State.raise State.announceEvents
  dsimp only
  split_ifs <;> rfl

theorem State.bump_only (s : State) (c : Ctr) (n k : Nat) :
    s.bump c n k = { s with ctrs := (s.bump c n k).ctrs, ovf := (s.bump c n k).ovf, regs := (s.bump c n k).regs, out := (s.bump c n k).out } := by
  unfold State.bump
  dsimp only
  split_ifs
  · rw [State.raise_only]
  · rfl

theorem flits_bump (s : State) (c : Ctr) (n k : Nat) : FlitsOnly s (s.bump c n k) := ⟨by rw [State.bump_only]⟩

theorem flits_seep (s : State) (k : SeepKind) (i n : Nat) (acts : DWord → Bool) : FlitsOnly s (s.seepEvents k i n acts).st := ⟨by rw [State.seepEvents_only]⟩

theorem flits_flitSeep (s : State) (l : Nat) (eop : Bool) : FlitsOnly s (s.flitSeep l eop).st := by
  unfold State.flitSeep
  split_ifs
  · exact flits_seep _ _ _ _ _
  · exact flits_seep _ _ _ _ _

theorem flits_setLink (s : State) (l : Nat) (x : LinkRec) : FlitsOnly s (s.setLink l x) := ⟨rfl⟩
theorem flits_putFlit (s : State) (l : Nat) (f : FlitIn) (b : Bool) : FlitsOnly s (s.putFlit l f b) := ⟨rfl⟩

/-- One flit sent. -/
theorem flits_sendFlit (s : State) (l v : Nat) (p : TxPkt) (rest : List TxPkt) : FlitsOnly s (s.sendFlit l v p rest) := by
  unfold State.sendFlit
  dsimp only
  exact (((flits_flitSeep s l _).trans (flits_setLink _ _ _)).trans (flits_putFlit _ _ _ _)).trans (flits_bump _ _ _ _)

theorem flits_drainLink (l : Nat) : ∀ (n : Nat) (s : State), FlitsOnly s (s.drainLink l n)
  | 0, _ => ⟨rfl⟩
  | n + 1, s => by
      unfold State.drainLink
      split_ifs
      · exact ⟨rfl⟩
      · split
        · exact ⟨rfl⟩
        · split
          · exact (flits_sendFlit s l _ _ _).trans (flits_drainLink l n _)
          · exact ⟨rfl⟩

/-- A packet given to a link. -/
theorem flits_sendFlits (s : State) (l vc n : Nat) : FlitsOnly s (s.sendFlits l vc n) :=
  (flits_setLink s l _).trans (flits_drainLink l _ _)

end Sys2Proof.Machine
end

