-- ==== Sys2Proof/WellFormed.lean ====
section
/-! DEFINITION. Well-formed commands: the operand ranges the rules give beyond the operands' widths. -/

namespace Sys2Proof

/-- A physical plot index names a plot (R608). -/
def okPlot (p : PPlot) : Bool := p.toNat < 1056

/-- A logical runnel of an image (R158). -/
def okRunnel (r : BitVec 7) : Bool := r.toNat < 76

/-- An owner of a stream: a future, or 4096 for the trunk (R47, R48). -/
def okOwner (o : Nat) : Bool := o ≤ 4096

/-- A position of a partition's footprint (R154). -/
def okPos (p : Nat) : Bool := p < 1024

/-- A fetch brings at least one entry (R511). -/
def okEntries (e : List (BitVec 512)) : Bool := !e.isEmpty

/-- Bytes of one Dexlink packet (R525). -/
def okPacket (d : List Byte) : Bool := 1 ≤ d.length && d.length ≤ 4096

/-- A Cistern request stays in a granule of 256 bytes and is not empty. -/
def okBlocks (d : List Byte) : Bool := 1 ≤ d.length && d.length ≤ 256

def okLen (n : BitVec 9) : Bool := 1 ≤ n.toNat && n.toNat ≤ 256

/-- Function codes have 4 bits (R239). -/
def okFunction (c : BitVec 7) : Bool := c.toNat < 16

/-- A unit of the weight-cache region, at most the whole Cistern range (R379, R397). -/
def okUnit (u : Nat) : Bool := u < 480 * 16384

/-- Registers lie at aligned 64-bit offsets (R604). -/
def okOffset (o : BitVec 32) : Bool := o.toNat % 8 = 0

/-- A command all of whose operands lie in their ranges. -/
def Instr.wf (i : Instr) : Bool :=
  match i with
  | .doorbell _ _ _ => true
  | .fetchDescriptors _ entries => okEntries entries
  | .markExpiry _ _ => true
  | .completionRecord _ _ => true
  | .eventDelayExpiry _ => true
  | .hostAccessFail _ _ _ => true
  | .nop _ _ => true
  | .streamOpen _ _ => true
  | .streamObserve _ _ => true
  | .fork _ _ => true
  | .rollout _ _ => true
  | .rolloutCommit _ _ => true
  | .prune _ _ => true
  | .streamClose _ _ => true
  | .modelRegister _ _ => true
  | .modelRetire _ _ => true
  | .policyCreate _ _ => true
  | .policyDestroy _ _ => true
  | .imageRegister _ _ => true
  | .imageRelease _ _ => true
  | .vdecOpen _ _ => true
  | .decode _ _ => true
  | .videoRelease _ _ => true
  | .vencOpen _ _ _ _ => true
  | .vsessionClose _ _ => true
  | .headworksRun _ _ => true
  | .cfGroupOpen _ _ => true
  | .cfGroupClose _ _ => true
  | .collective _ _ => true
  | .cfListRegister _ _ => true
  | .aqLoadBegin _ _ => true
  | .aqLoadData _ _ _ => true
  | .aqLoadCommit _ _ _ => true
  | .aqFree _ _ => true
  | .wmAttest _ _ => true
  | .wmIdentity _ _ => true
  | .wmTenantCreate _ _ _ _ => true
  | .wmTenantRevoke _ _ => true
  | .wmGrant _ _ => true
  | .wmRingMaint _ _ => true
  | .wmComponent _ _ _ => true
  | .wmSvnCommit _ _ => true
  | .rdData _ _ data => okPacket data
  | .wrAck _ _ => true
  | .flit _ _ => true
  | .laneFail _ _ => true
  | .rekey _ => true
  | .cfPortTrain _ _ => true
  | .dexHalfTrain _ _ => true
  | .header _ _ _ _ => true
  | .chunk _ _ _ => true
  | .grant _ _ _ _ => true
  | .vote _ _ _ _ _ => true
  | .abort _ _ _ _ => true
  | .stop _ _ _ => true
  | .snapshot _ _ _ _ _ => true
  | .collTimeLimit _ _ => true
  | .snapshotTimeout _ _ => true
  | .peerLeave _ => true
  | .listEntryStart _ => true
  | .slotLoad _ => true
  | .slotStart _ => true
  | .slotEnd _ => true
  | .slotAbort _ _ _ => true
  | .periodTrigger _ => true
  | .cadenceEdge _ => true
  | .cadenceQualify _ => true
  | .slotWatchdogExpiry _ => true
  | .swapIn _ pos _ => okPos pos
  | .swapOut _ pos _ => okPos pos
  | .slotCopy _ _ _ _ => true
  | .finalSwapOut _ => true
  | .chunkReady _ _ => true
  | .optimiserStep _ => true
  | .refillRun _ => true
  | .append _ owner => okOwner owner
  | .share _ owner => okOwner owner
  | .clear _ owner => okOwner owner
  | .revert _ owner => okOwner owner
  | .drop _ _ => true
  | .refill _ _ => true
  | .graceRelease _ => true
  | .pgReclaimStart _ => true
  | .pgQuiesce => true
  | .pgQuiesceRelease => true
  | .pgDirectWrite _ _ (.root owner _) => okOwner owner
  | .pgDirectWrite _ _ (.frameRecord _ _ _) => true
  | .pgDirectWrite _ _ (.table _ sets _) => decide (sets.length ≤ 255)
  | .tokenArrival p _ _ _ => okPlot p
  | .nopWord p _ => okPlot p
  | .pass p _ => okPlot p
  | .passDrain p => okPlot p
  | .release p _ _ => okPlot p
  | .fill p _ => okPlot p
  | .fillComplete p => okPlot p
  | .nest p _ _ => okPlot p
  | .wait p _ _ => okPlot p
  | .signal p _ _ => okPlot p
  | .layer p _ _ => okPlot p
  | .layerDecide p => okPlot p
  | .ret p _ => okPlot p
  | .endWord p _ => okPlot p
  | .rstatInit p _ => okPlot p
  | .rstatAcc p _ => okPlot p
  | .softmax p _ => okPlot p
  | .softmaxBlock p _ => okPlot p
  | .expSub p _ => okPlot p
  | .rowscaleRecip p _ => okPlot p
  | .rowscaleFactor p _ => okPlot p
  | .bankRead p _ => okPlot p
  | .lnorm p _ => okPlot p
  | .rmsnorm p _ => okPlot p
  | .actRelu p _ => okPlot p
  | .actSilu p _ => okPlot p
  | .actGeluTanh p _ => okPlot p
  | .actSigmoid p _ => okPlot p
  | .actTanh p _ => okPlot p
  | .actIdent p _ => okPlot p
  | .copy p _ => okPlot p
  | .add p _ => okPlot p
  | .sub p _ => okPlot p
  | .mul p _ => okPlot p
  | .max p _ => okPlot p
  | .min p _ => okPlot p
  | .fma p _ => okPlot p
  | .scale2 p _ => okPlot p
  | .addVec p _ => okPlot p
  | .mulVec p _ => okPlot p
  | .abs p _ => okPlot p
  | .neg p _ => okPlot p
  | .zero p _ => okPlot p
  | .specialFunction p _ _ => okPlot p
  | .linV p _ => okPlot p
  | .linT p _ => okPlot p
  | .mixT p _ => okPlot p
  | .clinV p _ => okPlot p
  | .clinT p _ => okPlot p
  | .cmixT p _ => okPlot p
  | .pairFix p _ => okPlot p
  | .pairSplit p _ => okPlot p
  | .pairFold p _ => okPlot p
  | .convRes p _ => okPlot p
  | .convStage p _ => okPlot p
  | .convBank p _ => okPlot p
  | .load p _ => okPlot p
  | .store p _ => okPlot p
  | .sfuGrant p => okPlot p
  | .pcTsig p r _ => okPlot p && okRunnel r
  | .pcTwait p r _ _ _ => okPlot p && okRunnel r
  | .pcRds p r _ _ _ => okPlot p && okRunnel r
  | .pcWrs p r _ _ _ => okPlot p && okRunnel r
  | .pcMove p r _ _ => okPlot p && okRunnel r
  | .moveComplete p r _ => okPlot p && okRunnel r
  | .pcMwait p r => okPlot p && okRunnel r
  | .pcEnd p r => okPlot p && okRunnel r
  | .fadd p r _ _ _ => okPlot p && okRunnel r
  | .fsub p r _ _ _ => okPlot p && okRunnel r
  | .fmul p r _ _ _ => okPlot p && okRunnel r
  | .fdiv p r _ _ _ => okPlot p && okRunnel r
  | .fmin p r _ _ _ => okPlot p && okRunnel r
  | .fmax p r _ _ _ => okPlot p && okRunnel r
  | .flt p r _ _ _ => okPlot p && okRunnel r
  | .feq p r _ _ _ => okPlot p && okRunnel r
  | .fcvtSW p r _ _ => okPlot p && okRunnel r
  | .fcvtWS p r _ _ => okPlot p && okRunnel r
  | .fbf16 p r _ _ => okPlot p && okRunnel r
  | .runnelFma p r _ _ _ => okPlot p && okRunnel r
  | .sfu p r code _ _ => okPlot p && okRunnel r && okFunction code
  | .mpFadd p _ _ _ _ => okPlot p
  | .mpFsub p _ _ _ _ => okPlot p
  | .mpFmul p _ _ _ _ => okPlot p
  | .mpFma p _ _ _ _ _ => okPlot p
  | .mpFmin p _ _ _ _ => okPlot p
  | .mpFmax p _ _ _ _ => okPlot p
  | .mpFabs p _ _ _ => okPlot p
  | .mpCpsgn p _ _ _ _ => okPlot p
  | .mpConst p _ _ _ => okPlot p
  | .mpLdexp p _ _ _ _ => okPlot p
  | .mpGetexp p _ _ _ => okPlot p
  | .mpGetmant p _ _ _ => okPlot p
  | .mpFloor p _ _ _ => okPlot p
  | .mpSellt p _ _ _ _ _ => okPlot p
  | .mpHw p _ _ _ _ => okPlot p
  | .mpEnd p _ => okPlot p
  | .stage _ _ => true
  | .stageIx _ _ => true
  | .warm _ _ => true
  | .liftLate _ _ _ => true
  | .aquiferRead _ _ _ _ => true
  | .wcFillDone unit => okUnit unit
  | .blockRefresh _ _ => true
  | .addI32 _ _ _ _ _ => true
  | .addI64 _ _ _ _ _ => true
  | .addF32 _ _ _ _ _ => true
  | .accX _ _ _ _ => true
  | .accXRead _ _ _ _ => true
  | .cisternRead _ _ len _ => okLen len
  | .cisternWrite _ _ data _ => okBlocks data
  | .patrolScrub _ _ _ => true
  | .dqsOscRead _ _ => true
  | .zqCalibration _ _ _ => true
  | .mr4Poll _ _ _ => true
  | .correctedErrorBurst _ => true
  | .channelRetrain _ => true
  | .retrainDone _ _ => true
  | .channelRepairEnter _ => true
  | .channelRepairLeave _ => true
  | .channelRetire _ => true
  | .cisProtEnable => true
  | .rotCommit => true
  | .partHold _ => true
  | .partHoldClear _ => true
  | .diagHold _ _ => true
  | .sfuTableLoad _ => true
  | .sfuLoadDone => true
  | .sfuTableSwitch => true
  | .wcFlush => true
  | .dieRetire _ _ => true
  | .meterEnter => true
  | .meterActiveReached => true
  | .meterExit => true
  | .headgateSample _ _ => true
  | .thermalSample _ _ => true
  | .idleTimerExpiry => true
  | .drainedSaveDone => true
  | .wake _ _ => true
  | .plotTestStart => true
  | .plotTestDone _ => true
  | .leveeWrite offset _ => okOffset offset
  | .mapEntryWrite _ _ => true
  | .ringEnable _ _ => true
  | .ringDisable _ _ => true
  | .dexHalfEnable _ => true
  | .dexRetrain _ => true
  | .cfPortEnable _ => true
  | .cfPortRetrain _ => true
  | .counterClear block _ => okOffset block
  | .gaugeClear _ => true
  | .registerWrite _ offset _ => okOffset offset
  | .diagWrite _ offset _ => okOffset offset
  | .accessViolation _ offset _ => okOffset offset
  | .badAccess _ => true
  | .seepFire _ _ => true
  | .rowToken _ _ _ => true
  | .pipePictureGrant _ _ _ => true
  | .decodeDone _ _ => true
  | .encodePicture _ _ _ => true
  | .encodeRingWrite _ _ => true
  | .inputJob _ _ => true
  | .outputJob _ _ pos => okPos pos
  | .directCopy _ _ => true
  | .unpack _ => true
  | .conv _ => true
  | .patchify _ => true
  | .unpatchify _ => true
  | .pack _ => true
  | .i3cEntdaa _ => true
  | .regRead _ => true
  | .boardConfig _ => true
  | .status _ => true
  | .i3cWake _ _ => true
  | .i3cReset _ _ => true
  | .sense _ _ _ _ _ _ => true
  | .powerOn _ => true
  | .resetPinAssert _ => true
  | .resetPinRelease _ => true
  | .watchdogReset _ => true
  | .supplyFault _ _ => true
  | .railFault _ _ => true
  | .coolantFault _ => true
  | .referenceFault _ _ => true
  | .extentEraseDone _ => true
  | .nandCaseTemperature _ _ => true
  | .jtagInstruction _ _ => true
  | .gaugeSaturated _ => true

end Sys2Proof
end

