-- ==== Sys2Proof/Tests/Slice0.lean ====
section
/-! SUPPORT. Tests: ill-formed commands that the checks refuse, single operations against values of the manual, and for each statement
with hypotheses a state and operands that meet them. -/

namespace Sys2Proof.Machine

-- One theorem at a time: each kernel evaluation runs on a large stack.
set_option Elab.async false

/-! ### Well-formed commands -/

theorem test_wf_plot : Instr.wf (.passDrain 1056) = false ∧ Instr.wf (.passDrain 1055) = true := by decide
theorem test_wf_runnel : Instr.wf (.pcEnd 0 76) = false ∧ Instr.wf (.pcEnd 0 75) = true := by decide
theorem test_wf_owner : Instr.wf (.append 0 4097) = false ∧ Instr.wf (.append 0 4096) = true := by decide
theorem test_wf_pos : Instr.wf (.swapIn 0 1024 0) = false ∧ Instr.wf (.swapIn 0 1023 0) = true := by decide
theorem test_wf_entries : Instr.wf (.fetchDescriptors 0 []) = false ∧ Instr.wf (.fetchDescriptors 0 [0]) = true := by decide
theorem test_wf_packet : Instr.wf (.rdData 0 0 []) = false ∧ Instr.wf (.rdData 0 0 [1]) = true := by decide
theorem test_wf_blocks : Instr.wf (.cisternWrite 0 0 [] .clean) = false ∧ Instr.wf (.cisternWrite 0 0 [1] .clean) = true := by decide
theorem test_wf_len : Instr.wf (.cisternRead 0 0 257 .clean) = false ∧ Instr.wf (.cisternRead 0 0 256 .clean) = true := by decide
theorem test_wf_function : Instr.wf (.sfu 0 0 16 0 0) = false ∧ Instr.wf (.sfu 0 0 15 0 0) = true := by decide
theorem test_wf_unit : Instr.wf (.wcFillDone 7864320) = false ∧ Instr.wf (.wcFillDone 7864319) = true := by decide
theorem test_wf_offset : Instr.wf (.registerWrite .operator 4 0) = false ∧ Instr.wf (.registerWrite .operator 8 0) = true := by decide

/-! ### The table's words: none has bits -/

theorem test_no_word : decodeTableWord 0 0 = none ∧ decodeTableWord 64 0xFFFF = none := ⟨rfl, rfl⟩

/-! ### States for the witnesses -/

/-- A module that serves, with ring 5 enabled (16 entries in either queue). -/
def servingState : State :=
  ((({ boot := { ready := true } } : State).wr RING_CTL_ENABLE 5 1).wr RING_CTL_SQ_LOG 5 4).wr RING_CTL_CQ_LOG 5 4

/-- A running module with one waiting operation, number 1 of ring 5, whose descriptor is given. -/
def opState (d : BitVec 512) : State := { host := { ops := [{ ring := 5, seq := 1, desc := d }] } }

/-- Operation 1 of ring 5 runs, with tag 7 of half A a write of its and tag 8 a read. -/
def taggedState : State :=
  { host := { ops := [{ ring := 5, seq := 1, desc := 0, stage := .running, unacked := 1 }] },
    lnk := { tags := [⟨0, 7, .data, 5, 1⟩, ⟨0, 8, .read, 5, 1⟩] } }

/-- Tag 3 of half A is a record of ring 0, with an event mode, an event count and unsignalled records. -/
def recordState (mode count waiting : Nat) (e : Bool) : State :=
  ({ host := { rings := [(0, { unsignalled := waiting, delayRunning := true })] },
     lnk := { tags := [⟨0, 3, .record e, 0, 9⟩] } } : State).wr RING_CTL_EVMODE 0 mode |>.wr RING_CTL_EVCOUNT 0 count

/-- A descriptor from values at bytes. -/
def descOf (l : List (Nat × Nat)) : BitVec 512 := BitVec.ofNat 512 (l.foldl (fun d x => d + x.2 <<< (8 * x.1)) 0)

/-- Bytes from an address on as a canonical memory. -/
def cellsAt : Nat → List Byte → List Host.Cell
  | _, [] => []
  | a, b :: bs => if b = 0 then cellsAt (a + 1) bs else (a, b) :: cellsAt (a + 1) bs

/-- A word as bytes, the low byte first. -/
def le (n v : Nat) : List Byte := (List.range n).map fun i => BitVec.ofNat 8 (v >>> (8 * i))

/-- Operation 1 of ring 5, that asks for the descriptor to run. -/
def op1 (d : BitVec 512) : Op := { ring := 5, seq := 1, desc := d }

/-- Stream 3 of ring 5, OPEN in partition 0 with four futures of which future 1 is LIVE. -/
def stream3 : StreamRec :=
  { st := .open_, everOpen := true, home := some 5, model := 7, policy := 9, cap := 4, region := 0x10000000,
    trunk := { live := true, sealA := .sealed }, futs := [(1, { live := true, sealA := .sealed })] }

/-- Stream 3, its model 7 and its policy 9. -/
def ctxBase : CtxS :=
  { streams := [(3, stream3)], models := [(7, { stateBytes := 4096 })], policies := [(9, { model := 7, n := 1, region := 0x20000000 })] }

/-- A running module with them, and partition 0 enabled. -/
def streamBase : State := { ctx := ctxBase, rot := { parts := [(0, { act := setBits 0 ROT_PART_ENABLE.lo 1 1 })] } }

/-- The same with operation 1 of ring 5 waiting. -/
def streamState (d : BitVec 512) : State := { streamBase with host := { ops := [op1 d] } }

/-! ### IdleStepCountsPeriod -/

theorem idle_step_witness : State.reset.pending = [] ∧ State.reset.running = [] ∧ State.reset.rd CIS_MAP_PHASE = 0 := by decide

theorem idle_step_full_witness : ∃ s : State, s.pending = [] ∧ s.running = [] ∧ s.rd CIS_MAP_PHASE = 0 ∧ s.rd REF_GAUGE_VALUE = ctrMax ∧
    100 ≤ s.codecPhase + 27 :=
  ⟨{ regs := [(768, 0xFFFFFFFFFFFF)], codecPhase := 80 }, by decide⟩

/-! ### HaltedModuleStays -/

theorem halted_witness : HaltedAs (State.reset.stop causeSupply 3) (State.reset.stop causeSupply 3) :=
  { stopped := by decide, mem := rfl, host := rfl, out := rfl, waiting := by decide }

/-! ### MonitorsStopModule -/

theorem monitors_witness : State.reset.boot.stopped = false := by decide

/-! ### DoorbellUpdatesRing -/

theorem doorbell_witness : servingState.runs = true ∧ servingState.serving = true ∧
    servingState.doorbellBad 5 (BitVec.ofNat 64 (3 + 2 ^ 48)) = false ∧ servingState.doorbellBad 5 (BitVec.ofNat 64 (16 + 2 ^ 48)) = true ∧
    State.reset.serving = false ∧ State.reset.runs = true ∧ servingState.ringTenant 5 ≠ 9 := by decide +kernel

/-! ### FetchNumbersDescriptor -/

theorem fetch_witness : servingState.runs = true ∧
    (servingState.wr RING_STATUS_SQ_TAIL 5 3).fetchable 5 = true ∧ 0 < (servingState.wr RING_STATUS_SQ_TAIL 5 3).fetchRoom 5 ∧
    ((servingState.wr RING_STATUS_SQ_TAIL 5 3).arbGrant arbFetch (servingState.wr RING_STATUS_SQ_TAIL 5 3).ringsOn.length 5
      (servingState.wr RING_STATUS_SQ_TAIL 5 3).ringsWaiting).isSome = true := by decide +kernel

/-! ### NopCompletes -/

theorem nop_witness : OpReady (opState 0) 5 1 { ring := 5, seq := 1, desc := 0 } 0x00 := ⟨by decide, by decide +kernel, by decide +kernel, by decide +kernel⟩

/-! ### HostAnswersReachOperations -/

theorem answers_witness : taggedState.runs = true ∧
    (taggedState.tagRec 0 7).map (fun r => (r.use, (taggedState.op? r.ring r.seq).isSome)) = some (.data, true) ∧
    (taggedState.tagRec 0 8).map (fun r => (r.use, (taggedState.op? r.ring r.seq).isSome)) = some (.read, true) ∧
    taggedState.seepQuiet .dex 0 = true ∧ (taggedState.op? 5 1).map (·.stage) = some .running ∧
    ∃ x ∈ (taggedState.inject_ .dex 0 0xC).inject, x.kind = .dex ∧ x.inst = 0 ∧ seepTarget .dex x.word = 3 ∧ getBits x.word 4 1 = 0 := by
  decide +kernel

/-! ### EventModes -/

theorem eventModes_witness :
    (∀ m ∈ [0, 1, 2, 3], (recordState m 2 0 false).runs = true ∧ (recordState m 2 0 false).rd RING_CTL_EVMODE 0 = m ∧
      (recordState m 2 0 false).tagRec 0 3 = some ⟨0, 3, .record false, 0, 9⟩) ∧
    (recordState 0 2 0 true).tagRec 0 3 = some ⟨0, 3, .record true, 0, 9⟩ ∧
    (recordState 2 2 0 false).rd RING_CTL_EVCOUNT 0 = 2 ∧ (recordState 2 2 1 false).rd RING_CTL_EVCOUNT 0 = 2 ∧
    ((recordState 2 2 1 false).ring 0).unsignalled = 1 ∧ ((recordState 2 2 1 false).ring 0).delayRunning = true := by decide +kernel

/-! ### FailedHostAccess -/

theorem failedAccess_witness : taggedState.runs = true ∧ (taggedState.op? 5 1).map (·.stage) = some .running := by decide +kernel

/-! ### ConvOutputSize -/

theorem conv_witness : recOp [1, 0, 0, 0x22] = 1 ∧ hwOps [] = 0 := by decide +kernel

/-! ### Streams -/

theorem refused_witness : ∀ opc ∈ [1, 2, 3, 4, 5, 6], let s := opState (BitVec.ofNat 512 opc)
    s.runs = true ∧ (s.op? 5 1).any (fun o => o.opcode = opc && s.canStart o && (s.recheck o).isSome) = true := by decide +kernel

/-- STREAM_OPEN of stream 2 with model 7, without a policy. -/
def openDesc : BitVec 512 := descOf [(0, 0x01), (16, 2), (22, 3), (24, 7), (40, 0x10000000)]

theorem open_witness : OpReady (streamState openDesc) 5 1 (op1 openDesc) 0x01 ∧ (streamState openDesc).recheck (op1 openDesc) = none ∧
    ((streamState openDesc).model? 7).map (·.stateBytes) = some 4096 ∧ (op1 openDesc).fld 24 0 64 = 7 ∧
    (streamState openDesc).cisOpen (0x10000000 + futureTableEnd 4) 4096 = true :=
  ⟨⟨by decide +kernel, by decide +kernel, by decide +kernel, by decide +kernel⟩, by decide +kernel, by decide +kernel, by decide +kernel,
   by decide +kernel⟩

/-- FORK of stream 3: futures 2 and 3 from future 1. -/
def forkDesc : BitVec 512 := descOf [(0, 0x03), (16, 3), (20, 1), (22, 2), (24, 1)]

theorem fork_witness : OpReady (streamState forkDesc) 5 1 (op1 forkDesc) 0x03 ∧ (streamState forkDesc).recheck (op1 forkDesc) = none ∧
    (streamState forkDesc).readsRefused 3 (op1 forkDesc).readOwners = none :=
  ⟨⟨by decide +kernel, by decide +kernel, by decide +kernel, by decide +kernel⟩, by decide +kernel, by decide +kernel⟩

/-- PRUNE of futures 1 and 2, and STREAM_CLOSE, of stream 3. -/
def pruneDesc : BitVec 512 := descOf [(0, 0x05), (16, 3), (20, 1), (22, 1)]
def closeDesc : BitVec 512 := descOf [(0, 0x06), (16, 3)]

theorem prune_witness : OpReady (streamState pruneDesc) 5 1 (op1 pruneDesc) 0x05 ∧ (streamState pruneDesc).recheck (op1 pruneDesc) = none ∧
    ((streamState pruneDesc).stream 3).lost = false ∧ (streamState pruneDesc).prunes (op1 pruneDesc) = [1] ∧
    (let r := (streamState pruneDesc).copyReleased ((streamState pruneDesc).partSluice 0) 3 [1] [(1, false), (1, true)]
     r.status = stOk ∧ r.done = true) :=
  ⟨⟨by decide +kernel, by decide +kernel, by decide +kernel, by decide +kernel⟩, by decide +kernel, by decide +kernel, by decide +kernel,
   by decide +kernel⟩

/-- A PRUNE of future 1, whose slot A future 2 shares: once the copy stands OPEN it is sealed, and a slot that is lost fails. -/
def sharedState (bad : Bool) : State :=
  { ctx := { ctxBase with streams := [(3, { stream3 with futs := [(1, { live := true, sealA := .sealed }),
      (3, { live := true, sealA := if bad then .empty else .open_, committed := .shared 1 false })] })] }
    rot := streamBase.rot, host := { ops := [op1 pruneDesc] }
    mem := { cisTag := if bad then [(0x10004000 / 64, 1), (0x10005000 / 64, 1), (0x10006000 / 64, 1)] else [] } }

theorem prune_shared_witness :
    (∀ b, (sharedState b).runs = true ∧ (sharedState b).canStart (op1 pruneDesc) = true ∧ (sharedState b).recheck (op1 pruneDesc) = none ∧
      ((sharedState b).stream 3).sharers 1 false = [3]) ∧
    (let r := (sharedState false).copyReleased ((sharedState false).partSluice 0) 3 [1] [(1, false), (1, true)]
     r.status = stOk ∧ r.done = true) ∧
    ((sharedState true).copyReleased ((sharedState true).partSluice 0) 3 [1] [(1, false), (1, true)]).status ≠ stOk := by decide +kernel

theorem close_witness : OpReady (streamState closeDesc) 5 1 (op1 closeDesc) 0x06 ∧ (streamState closeDesc).recheck (op1 closeDesc) = none :=
  ⟨⟨by decide +kernel, by decide +kernel, by decide +kernel, by decide +kernel⟩, by decide +kernel⟩

/-! ### Steps, models and policies -/

/-- A partition's cycle from entry 0 on. -/
def cycleOf (n : Nat) : DWord := setBits (setBits 0 ROT_PART_ENABLE.lo 1 1) ROT_PART_COUNT_M1.lo 10 (n - 1)

/-- An entry of the active bank that holds an image in a role. -/
def entryOf (image role : Nat) : DWord := setBits (setBits (BitVec.ofNat 64 image) ROT_ENTRY_VALID.lo 1 1) ROT_ENTRY_ROLE.lo 2 role

/-- Images 0 and 1 of model 7; the first is a TRAIN image. -/
def imagesBase : Sparse ImageRec := [(0, { addr := 0x18000000, len := 256, model := 7 }), (1, { addr := 0x18010000, len := 256, model := 7 })]

/-- Picture 1 of decoder session 2, ready for an observation. -/
def picBase : VidS := { dec := [(2, { isOpen := true, pics := [{ num := 1, ring := 5, seq := 0, st := .done, obs := true }] })] }

/-- Stream 3 in a partition that serves it, with a decoded picture, and operation 1 of ring 5 waiting. -/
def stepState (d : BitVec 512) : State :=
  ({ ctx := { ctxBase with images := imagesBase }, host := { ops := [op1 d] }, vid := picBase, mem := { cis := [(0x18000006, 1)] },
     rot := { parts := [(0, { act := cycleOf 4 })], bank := [(0, entryOf 1 0), (1, entryOf 0 0), (2, entryOf 0 1), (3, entryOf 0 2)] } } :
    State).wr PG_POOL_CTL_ENABLE 0 1

/-- STREAM_OBSERVE of stream 3 and of that picture; ROLLOUT of future 1, and the same with TRAIN and update number 1. -/
def observeDesc : BitVec 512 := descOf [(0, 0x02), (16, 3), (20, 0x102)]
def rolloutDesc : BitVec 512 := descOf [(0, 0x04), (16, 3), (20, 1), (48, 0x30000000)]
def trainDesc : BitVec 512 := descOf [(0, 0x04), (16, 3), (20, 1), (27, 1), (44, 1), (48, 0x30000000)]

/-- A TRAIN descriptor whose update number does not follow the one applied. -/
def lateDesc : BitVec 512 := descOf [(0, 0x04), (16, 3), (20, 1), (27, 1), (44, 0), (48, 0x30000000)]

/-- What a start of steps asks of a descriptor. -/
def stepsPremises (d : BitVec 512) (opc : Nat) : Bool :=
  let s := stepState d
  let o := op1 d
  s.runs && s.op? 5 1 = some o && o.opcode = opc && s.canStart o && s.recheck o = none && (s.readsRefused 3 o.readOwners).isNone
  && (s.stepsRefused o).isNone && (s.startHandle o).isNone

theorem steps_witness : stepsPremises observeDesc 2 = true ∧ stepsPremises rolloutDesc 4 = true ∧ stepsPremises trainDesc 4 = true ∧
    stepsPremises lateDesc 4 = true ∧ (stepState rolloutDesc).updateTurn (op1 rolloutDesc) = .go ∧
    (stepState trainDesc).updateTurn (op1 trainDesc) = .go ∧ (stepState lateDesc).updateTurn (op1 lateDesc) = .refused ∧
    (op1 trainDesc).train = true := by decide +kernel

/-- The action input block is read. -/
def AinRead.isBytes : AinRead → Bool
  | .bytes .. => true
  | _ => false

theorem steps_input_witness : ((stepState rolloutDesc).readAin (op1 rolloutDesc)).isBytes = true ∧
    ((stepState trainDesc).readAin (op1 trainDesc)).isBytes = true := by decide +kernel

/-- The rollout of future 1 runs, its state sealed in slot B, and nothing of it is left to do. -/
def commitOp (d : BitVec 512) : Op := { op1 d with stage := .running, owners := [1] }
def commitState (d : BitVec 512) : State := { streamBase with host := { ops := [commitOp d] } }

theorem commit_witness : (commitState rolloutDesc).runs = true ∧ (commitState rolloutDesc).op? 5 1 = some (commitOp rolloutDesc) ∧
    (commitState rolloutDesc).mayCommit (commitOp rolloutDesc) = true ∧
    (commitOp rolloutDesc).owners.Nodup ∧ (commitOp rolloutDesc).train = false ∧ (commitState trainDesc).runs = true ∧
    (commitState trainDesc).mayCommit { commitOp trainDesc with holdsUpdate := true } = true := by
  decide +kernel

theorem commit_observe_witness : (commitState observeDesc).mayCommit (commitOp observeDesc) = true := by decide +kernel

/-- A frame chunk of that rollout waits in partition 0. -/
def waitingChunk : Chunk := { kind := .frame, ring := 5, seq := 1, stream := 3, owners := [1], batch := 0, ordinal := 0 }
def chunkState : State := { commitState rolloutDesc with rot := { parts := [(0, { chunks := [waitingChunk, { waitingChunk with batch := 1 }] })] } }

theorem chunk_witness : chunkState.runs = true ∧ (chunkState.part 0).chunks[0]? = some waitingChunk ∧ waitingChunk.ready = none ∧
    chunkState.chunkCond 0 waitingChunk = true := by decide +kernel

/-- Partition 0 runs the OPTIM slot of the TRAIN descriptor. -/
def optimChunk : Chunk := { waitingChunk with kind := .optim }
def optimState : State :=
  { commitState trainDesc with rot := { parts := [(0, { slot := { phase := .running, chunk := some optimChunk } })] } }

theorem optimiser_witness : optimState.runs = true ∧ (optimState.part 0).slot.chunk = some optimChunk ∧
    optimState.op? 5 1 = some (commitOp trainDesc) ∧ (optimState.part 0).slot.phase = .running ∧
    ((optimState.stream 3).policy.toNat = 9) ∧ ((optimState.policy? 9).map fun p => (p.n, p.applied)) = some (1, 0) ∧
    BitVec.ofNat 32 ((commitOp trainDesc).fld 44 0 32) = 1 ∧ optimState.olderPinned (commitOp trainDesc) 9 1 = false ∧
    optimState.cisOpen 0x20000000 (policyBytes 1) = true := by decide +kernel

/-- An input program from a picture to a tile, an output program from a tile to a picture, and a record of a model that names them. -/
def inProgram : List Byte := le 8 0x040002_00_000F003F ++ le 24 0 ++ le 32 0 ++ le 32 0x1_0002_0102
def outProgram : List Byte := le 8 0x040102_00_000F003F ++ le 24 0 ++ le 32 0x0103 ++ le 32 4
def modelRecord : List Byte := le 32 (0x01_01_01_08 + 0x10000 <<< 64) ++ le 4 4096 ++ le 4 64 ++ le 8 0x10001000 ++ le 8 0x10002000

def modelDesc : BitVec 512 := descOf [(0, 0x10), (16, 8), (24, 0x10000000)]
def modelState : State :=
  { opState modelDesc with mem := { cis := cellsAt 0x10000000 modelRecord ++ cellsAt 0x10001000 inProgram ++ cellsAt 0x10002000 outProgram } }

theorem model_witness : modelState.runs = true ∧ modelState.op? 5 1 = some (op1 modelDesc) ∧ (op1 modelDesc).opcode = 0x10 ∧
    modelState.canStart (op1 modelDesc) = true ∧ modelState.model? 8 = none ∧
    modelState.rangeDetail 0 0x10000000 256 = none ∧ modelState.cisOpen 0x10000000 256 = true ∧
    (modelState.cisRead none 0x10000000 256).1 = stOk ∧
    (let s1 := (modelState.cisRead none 0x10000000 256).2
     let r := s1.cisBytes 0x10000000 256
     let progs := [(recIn r, s1.progLen (recIn r)), (recOut r, s1.progLen (recOut r))]
     s1.progRange 0 (recIn r) = none ∧ s1.progRange 0 (recOut r) = none ∧ s1.cisOpenAll progs = true ∧
     (s1.cisReadAll none progs).1 = stOk ∧ (s1.cisReadAll none progs).2.modelBad r = false ∧
     (s1.cisReadAll none progs).2.extentsOwned 0 (recExtents r) = true) := by decide +kernel

/-- MODEL_REGISTER and POLICY_CREATE of a handle in use. -/
theorem handle_used_witness : ∀ x ∈ [(0x10, 7), (0x12, 9)], let s := streamState (descOf [(0, x.1), (16, x.2)])
    s.runs = true ∧ (s.op? 5 1).any (fun o => o.opcode = x.1 && s.canStart o) = true ∧
    ((s.model? 7).isSome ∧ (s.policy? 9).isSome) := by decide +kernel

/-- POLICY_CREATE of policy 10 of model 7 with one parameter. -/
def policyDesc : BitVec 512 := descOf [(0, 0x12), (16, 10), (24, 7), (32, 1), (40, 0x30000000), (48, 0x20000000)]

theorem policy_witness : let s := streamState policyDesc
    s.runs = true ∧ s.op? 5 1 = some (op1 policyDesc) ∧ (op1 policyDesc).opcode = 0x12 ∧ s.canStart (op1 policyDesc) = true ∧
    s.policy? 10 = none ∧ (s.model? 7).any (fun m => m.tenant = 0) = true ∧ s.rangeDetail 0 0x30000000 (policyBytes 1) = none ∧
    s.rangeDetail 0 0x20000000 18 = none ∧ s.cisOpenAll [(0x20000000, 18), (0x30000000, policyBytes 1)] = true ∧
    (s.cisRead none 0x20000000 18).1 = stOk := by decide +kernel

/-- MODEL_RETIRE, POLICY_DESTROY and IMAGE_RELEASE of what is named or not: model 7, policy 9 and image 1 are. -/
def retireState (opc h : Nat) (named : Bool) : State :=
  { opState (descOf [(0, opc), (16, h)]) with
    ctx := if named then { ctxBase with images := imagesBase }
           else { models := [(7, {}), (8, { tenant := 1 })], policies := [(9, {}), (10, { tenant := 1 })],
                  images := [(1, {}), (2, { tenant := 1 })] }
    rot := { bank := if named then [(0, entryOf 1 0)] else [] } }

theorem retire_witness :
    (∀ x ∈ [(0x11, 7), (0x13, 9), (0x15, 1)], ∀ b, (retireState x.1 x.2 b).runs = true ∧
      ((retireState x.1 x.2 b).op? 5 1).any (fun o => o.opcode = x.1 && (retireState x.1 x.2 b).canStart o) = true) ∧
    (∀ b, (retireState 0x11 7 b).modelNamed 7 = b ∧ (retireState 0x15 1 b).imageNamed 1 = b ∧
      (retireState 0x13 9 b).ctx.streams.any (fun x => x.2.st ≠ .free && x.2.policy.toNat = 9) = b ∧
      ((retireState 0x11 7 b).model? 7).isSome = true ∧ ((retireState 0x13 9 b).policy? 9).isSome = true) ∧
    (retireState 0x11 6 false).model? 6 = none ∧ ((retireState 0x11 8 false).model? 8).map (·.tenant) = some 1 ∧
    (retireState 0x13 6 false).policy? 6 = none ∧ ((retireState 0x13 10 false).policy? 10).map (·.tenant) = some 1 ∧
    (retireState 0x15 6 false).ctx.images.any (fun x => x.1 = 6) = false ∧ ((retireState 0x15 2 false).image 2).tenant = 1 := by
  decide +kernel

/-! ### Images -/

/-- The smallest image: one plot, one section of an END word in either stream, one runnel; its digest field holds `d`. -/
def imageBytes (d : List Byte) : List Byte :=
  le 48 (0x53574931 + 0x0100 <<< 32 + 448 <<< 64 + 1 <<< 96 + 1 <<< 128 + 1 <<< 136 + 1 <<< 152 + 1 <<< 160 + 1 <<< 192 + 1 <<< 288
         + 7 <<< 320)
  ++ d
  ++ le 32 (256 + 264 <<< 32 + 296 <<< 64 + 296 <<< 96 + 296 <<< 128 + 296 <<< 160 + 296 <<< 192 + 320 <<< 224) ++ le 128 0
  ++ le 8 0
  ++ le 32 (384 + 1 <<< 32 + 1 <<< 48 + 392 <<< 64 + 400 <<< 96)
  ++ le 24 0 ++ le 64 0
  ++ le 8 (15 <<< 60) ++ le 8 (15 <<< 60) ++ le 16 2 ++ le 32 0

/-- That image under its SHA-384 digest, computed outside the model. -/
def sampleImage : List Byte :=
  imageBytes (le 48
    0x22d9e4d16b6d2bc2c73ed6d8bce4610892c5e5632c93e69a74e33f636ab52a6d40d1842d599d825cd8b3f74b1dad5ad7)
def imageDesc : BitVec 512 := descOf [(0, 0x14), (16, 0x10000000), (24, 448)]
def imageState : State :=
  ({ opState imageDesc with mem := { cis := cellsAt 0x10000000 sampleImage } } : State).wr ROT_POOL_SIZE_1M 0 1

theorem image_witness : imageState.runs = true ∧ imageState.op? 5 1 = some (op1 imageDesc) ∧ (op1 imageDesc).opcode = 0x14 ∧
    imageState.canStart (op1 imageDesc) = true ∧ imageState.rangeDetail 0 0x10000000 448 = none ∧ imageState.poolIndex = some 0 ∧
    imageState.poolRun 1 = some 0 ∧ imageState.cisOpenAll [(0x10000000, 448), (imageState.poolBase, 448)] = true ∧
    (imageState.cisRead none 0x10000000 448).1 = stOk ∧
    (let s1 := (imageState.cisRead none 0x10000000 448).2
     s1.imageCheck 0 (s1.cisBytes 0x10000000 448) 448 = 0) := by decide +kernel

/-- The same with an empty pool, and of zeros, which no check passes. -/
theorem image_refused_witness : let s := opState imageDesc
    s.runs = true ∧ s.canStart (op1 imageDesc) = true ∧ s.rangeDetail 0 0x10000000 448 = none ∧ s.poolRun 1 = none ∧
    (let z := s.wr ROT_POOL_SIZE_1M 0 1
     (z.cisRead none 0x10000000 448).1 = stOk ∧
     (z.cisRead none 0x10000000 448).2.imageCheck 0 ((z.cisRead none 0x10000000 448).2.cisBytes 0x10000000 448) 448 ≠ 0) := by decide +kernel

/-! ### Video sessions -/

/-- VDEC_OPEN of session 1 with two buffers for pictures of 16 x 16; VENC_OPEN of session 1 for future 1 of stream 3. -/
def vdecDesc (pipe : Nat) : BitVec 512 := descOf [(0, 0x20), (16, 1), (18, pipe), (19, 2), (24, 0x30000000), (32, 15), (34, 15), (40, 0x31000000)]
def vencDesc (pipe : Nat) : BitVec 512 := descOf [(0, 0x23), (16, 1), (18, pipe), (19, 4), (20, 3), (24, 1), (27, 1), (48, 0x30000000), (56, 0x7000)]

/-- Stream 3 with an output program of 64 x 64, pipe 2 fenced, and operation 1 of ring 5 waiting. -/
def videoState (d : BitVec 512) : State :=
  ({ ctx := { ctxBase with models := [(7, { outProg := 0x10002000 })] }, mem := { cis := [(0x10002000, 63), (0x10002002, 63)] },
     host := { ops := [op1 d] } } : State).wr LEVEE_ENG_CODEC 0 4

theorem video_open_witness : ∀ p ∈ [0, 2],
    (let s := videoState (vdecDesc p)
     s.runs = true ∧ s.op? 5 1 = some (op1 (vdecDesc p)) ∧ (op1 (vdecDesc p)).opcode = 0x20 ∧ s.canStart (op1 (vdecDesc p)) = true ∧
     s.vdecRefused (op1 (vdecDesc p)) = none ∧ (s.rd LEVEE_ENG_CODEC).testBit p = decide (p = 2)) ∧
    (let s := videoState (vencDesc p)
     s.runs = true ∧ s.op? 5 1 = some (op1 (vencDesc p)) ∧ (op1 (vencDesc p)).opcode = 0x23 ∧ s.canStart (op1 (vencDesc p)) = true ∧
     s.vencRefused (op1 (vencDesc p)) 12352 = none) := by decide +kernel

/-- Decode session 1 of ring 5, that holds picture 1 where `busy`; encode session 1 of ring 5. -/
def decodeSession (busy : Bool) : DecSession :=
  { isOpen := true, home := 5, desc := vdecDesc 0, nextPic := 2, seenKey := true, pics := [{ num := 1, ring := 5, seq := 1 }],
    active := if busy then some 1 else none }
def sessionState (d : BitVec 512) (busy : Bool) : State :=
  { host := { ops := [op1 d] }, vid := { dec := [(1, decodeSession busy)], enc := [(1, { isOpen := true, home := 5, desc := vencDesc 0 })] } }

/-- DECODE of a picture number, VIDEO_RELEASE of picture 1, VSESSION_CLOSE of either session. -/
def decodeDesc (pic : Nat) : BitVec 512 := descOf [(0, 0x21), (16, 1), (20, pic), (24, 0x30000000), (32, 100)]
def releaseDesc : BitVec 512 := descOf [(0, 0x22), (16, 1), (20, 1)]
def vcloseDesc (enc : Nat) : BitVec 512 := descOf [(0, 0x24), (16, 1), (17, enc)]

theorem video_session_witness :
    (∀ x ∈ [(decodeDesc 2, 0x21), (decodeDesc 3, 0x21), (releaseDesc, 0x22), (vcloseDesc 0, 0x24), (vcloseDesc 1, 0x24)], ∀ busy,
      let s := sessionState x.1 busy
      s.runs = true ∧ s.op? 5 1 = some (op1 x.1) ∧ (op1 x.1).opcode = x.2 ∧ s.canStart (op1 x.1) = true ∧
      s.sessionRefused (op1 x.1) true false 0 5 1 0 = none ∧ s.sessionRefused (op1 x.1) true false 0 5 1 1 = none) ∧
    (sessionState (decodeDesc 2) false).videoRange 0 0x30000000 100 = none ∧
    ((sessionState releaseDesc false).decSession 1).pic? 1 = some { num := 1, ring := 5, seq := 1 } ∧
    ((sessionState releaseDesc true).decSession 1).active ≠ none ∧ (State.rd {} LEVEE_ENG_CODEC).testBit 0 = false := by decide +kernel

def packState (active packed : Bool) : EncSession :=
  { isOpen := true, desc := vencDesc 1, jobs := [{ ring := 5, seq := 1, frame := 0, num := 4, buf := 0, packed := packed }],
    active := if active then some 4 else none, size := 4096 }

/-- Sessions that wait for their pipe: picture 1 of decode session 1 on pipe 0, and a packed job of encode session 1 on it. -/
def pipeState (active : Bool) (packed : Bool) : State :=
  { host := { ops := [{ op1 0 with stage := .running }] },
    vid := { dec := [(1, { decodeSession active with queue := if active then [] else [1] })], enc := [(1, packState active packed)] } }

/-- A picture of 16 x 16 in blocks of 16, and what its decode gives, and one encode attempt. -/
def pic16 : PicGeom := { codedW := 16, codedH := 16, x := 0, y := 0, w := 16, h := 16, blockLog := 4 }
def info16 (o : DecodeOutcome) : DecodeInfo :=
  { outcome := o, geom := pic16, key := true, order := 0, concealed := false, concealedRef := false, hashMismatch := false, grain := false,
    refs := 0, dropRefs := [], hidden := [], existing := none, retried := none }
def attempt (bits : Nat) : EncodeAttempt := { bits := bits, failed := none, retried := none }

theorem pipes_witness : (pipeState false true).runs = true ∧ ((pipeState false true).decSession 1).pic? 1 = some { num := 1, ring := 5, seq := 1 } ∧
    (pipeState false true).pipeBusy 0 = false ∧ (pipeState false true).pipeBusy 1 = false ∧
    freeBuf ((pipeState false true).decSession 1).bufs ((pipeState false true).decSession 1).nfb = some 0 ∧
    ((pipeState false true).arbGrant (arbPipe 0) ((pipeState false true).pipeBound 0) 1 ((pipeState false true).pipeWaiting 0)).isSome = true ∧
    ((pipeState false true).arbGrant (arbPipe 1) ((pipeState false true).pipeBound 1) 257 ((pipeState false true).pipeWaiting 1)).isSome = true ∧
    descFld ((pipeState false true).encSession 1).desc 18 0 3 = 1 ∧ ((pipeState false true).encSession 1).active = none ∧
    ((pipeState false true).encSession 1).units = [] := by decide +kernel

theorem picture_witness : let s := pipeState true true
    let x := s.decSession 1
    x.active = some 1 ∧ (s.op? 5 1).isSome = true ∧ x.geomOk pic16 = true ∧ (x.pic? 1).map (·.geom) = some none ∧
    s.picOpen x { num := 1, ring := 5, seq := 1 } pic16 = true ∧
    (∀ o ∈ [DecodeOutcome.picture, .noPicture], (hideFrames (refMarks x.bufs (info16 o).dropRefs) x.nfb (info16 o).hidden).isSome = true) ∧
    s.bufOpen (s.picBits { num := 1, ring := 5, seq := 1 }).1 (s.picBits { num := 1, ring := 5, seq := 1 }).2 = true ∧
    (s.bufRead (s.decPart x) (s.picBits { num := 1, ring := 5, seq := 1 }).1 (s.picBits { num := 1, ring := 5, seq := 1 }).2).1 = stOk ∧
    pic16.codedW ≤ x.maxW ∧ pic16.codedH ≤ x.maxH ∧ s.seepQuiet .codec x.pipe = true := by decide +kernel

/-- Encode session 1 with a unit of 4032 bytes that fills its ring to the last byte but 32, or of 3000 bytes that wraps behind offset w. -/
def unitState (bytes w : Nat) : State :=
  let x : EncSession := { isOpen := true, desc := vencDesc 1, size := 4096, writeOff := w, units := [⟨5, 1, 0, 4, bytes, 0, true, false, false, 30, 0⟩] }
  { vid := { enc := [(1, x)] } }

theorem encode_witness : let s := pipeState true true
    let x := s.encSession 1
    let j : EncJob := { ring := 5, seq := 1, frame := 0, num := 4, buf := 0, packed := true }
    x.active = some 4 ∧ x.jobs = [j] ∧ (s.encReads x j).all (fun y => s.bufOpen y.1 y.2) = true ∧
    (s.bufReadAll (s.encPart x) (s.encReads x j)).1 = stOk ∧ s.seepQuiet .codec (x.f 18 0 3) = true ∧
    (x.tryAttempts (x.fullness 4) 0 0 [attempt 100]).isSome = true ∧
    (let y : EncSession := { x with desc := x.desc ||| descOf [(26, 1)] }
     y.f 26 0 2 = 1 ∧ y.f 26 2 2 = 0 ∧ y.tryAttempts (y.fullness 4) 0 0 [attempt 100] = none) := by decide +kernel

theorem ring_write_witness : (unitState 4032 0).runs = true ∧ ((unitState 4032 0).encSession 1).f 26 5 1 = 0 ∧
    32 + 4032 ≤ ringFree 4096 0 0 ∧ ringFree 4096 0 4000 < 32 + 4032 ∧ 4096 < 3000 + 32 + 2000 ∧
    32 + 2000 + (4096 - 3000) ≤ ringFree 4096 3000 3000 := by decide +kernel

/-- Encode session 1 with two units in flight: of picture 4 one or two writes are not acknowledged, of picture 5 one. -/
def flightState (more : Bool) : State :=
  let x : EncSession := { isOpen := true, desc := vencDesc 1, size := 4096, flights := [(4, 640), (5, 960)] }
  { vid := { enc := [(1, x)] },
    lnk := { tags := [⟨0, 1, .unit 1 4, 5, 1⟩] ++ (if more then [⟨0, 2, .unit 1 4, 5, 1⟩] else []) ++ [⟨0, 3, .unit 1 5, 5, 1⟩] } }

theorem unit_ack_witness : [true, false].all (fun m => let s := flightState m
    s.runs && (s.tagRec 0 1).map (·.use) = some (.unit 1 4) && (s.encSession 1).flights = [(4, 640), (5, 960)] &&
    ((s.lnk.tags.filter fun y => !(y.half = 0 && y.tag = 1)).any (fun y => y.use = .unit 1 4) == m) &&
    (s.lnk.tags.filter fun y => !(y.half = 0 && y.tag = 1)).any (fun y => y.use = .unit 1 5)) = true := by decide +kernel

/-! ### Headworks -/

/-- A program of a chain UNPACK, CONV, PATCHIFY. -/
def convProgram : List Byte := le 8 0x040003_02_000F003F ++ le 24 0 ++ le 32 0 ++ le 32 1 ++ le 32 0x1_0002_0102
/-- A program whose CONV of a 3 x 3 filter over a 1 x 1 picture emits nothing. -/
def emptyProgram : List Byte := le 8 0x040003_02_00000000 ++ le 24 0x10008000 ++ le 32 0 ++ le 32 0x22000001 ++ le 32 0x1_0002_0102

/-- An input and an output program of two stripes. -/
def tallIn : List Byte := le 8 0x040002_00_001F003F ++ le 24 0 ++ le 32 0 ++ le 32 0x1_0002_0102
def tallOut : List Byte := le 8 0x040102_00_001F003F ++ le 24 0 ++ le 32 0x0103 ++ le 32 4

/-- HEADWORKS_RUN of the program at an address, on engine 4. -/
def hwRunDesc (prog : Nat) : BitVec 512 := descOf [(0, 0x25), (16, prog), (24, 0x20000000), (32, 0x30000000), (40, 4)]

/-- The programs in memory, a decode session whose picture 1 is held by operation 1 of ring 5, stream 3 of model 7, and the job that
the first engine holds. -/
def hwState (d : BitVec 512) (job : HwJob) (direct : Nat) : State :=
  let pic : Pic := { num := 1, ring := 5, seq := 0, st := .done, holds := [(5, 1)] }
  { ctx := { ctxBase with models := [(7, { inProg := 0x10001000, outProg := 0x10002000 })] },
    mem := { cis := cellsAt 0x10001000 inProgram ++ cellsAt 0x10002000 outProgram ++ cellsAt 0x10003000 convProgram ++ cellsAt 0x10004000 emptyProgram
      ++ cellsAt 0x10005000 tallIn ++ cellsAt 0x10006000 tallOut },
    host := { ops := [{ op1 d with stage := if job.prog = 0 then .waiting else .running }] },
    vid := { dec := [(2, { isOpen := true, desc := descOf [(17, direct)], pics := [pic] })],
             enc := [(1, { isOpen := true, desc := vencDesc 1, jobs := [{ ring := 5, seq := 1, frame := 0, num := 4, buf := 0 }] })],
             hw := if job.prog = 0 then [] else [(0, [job])] },
    rot := { parts := [(0, { outJobs := [⟨5, 1, 1, 0, 0⟩] })] } }

theorem headworks_run_witness : ∀ x ∈ [(0x10001000, false), (0x10004000, true)],
    let s := hwState (hwRunDesc x.1) { what := .run 5 1, prog := 0 } 0
    let o := op1 (hwRunDesc x.1)
    s.runs = true ∧ s.op? 5 1 = some o ∧ o.opcode = 0x25 ∧ s.canStart o = true ∧ s.rangeDetail 0 x.1 32 = none ∧
    s.rangeDetail 0 x.1 (32 + 32 * min 8 (hwOps (s.hwProg x.1))) = none ∧ 
    (∀ y ∈ hwRanges (s.hwProg x.1) 0x20000000 0x30000000, s.rangeDetail 0 y.1 y.2 = none) ∧ progBad (s.hwProg x.1) = false ∧
    progEmpty (s.hwProg x.1) = x.2 := by decide +kernel

theorem headworks_bad_witness : let s := hwState (hwRunDesc 0x40000000) { what := .run 5 1, prog := 0 } 0
    s.canStart (op1 (hwRunDesc 0x40000000)) = true ∧ s.rangeDetail 0 0x40000000 32 = none ∧ progBad (s.hwProg 0x40000000) = true := by
  decide +kernel

/-- A running ROLLOUT of stream 3 without a job. -/
def rolloutState (direct : Nat) : State :=
  let s := hwState rolloutDesc { what := .run 5 1, prog := 0x10001000 } direct
  { s with vid := { s.vid with hw := [] } }

theorem headworks_jobs_witness : ∀ direct ∈ [0, 2], (rolloutState direct).runs = true ∧
    ((rolloutState direct).heldPic 5 1).map (fun x => (x.1, x.2.num, x.2.st)) = some (2, 1, .done) ∧
    ((rolloutState direct).op? 5 1).map (fun o => (o.stage, o.inputReady)) = some (.running, false) ∧
    ((rolloutState direct).decSession 2).direct = decide (direct = 2) ∧ (rolloutState direct).hasInputJob 5 1 = false ∧
    ((rolloutState direct).part 0).outJobs = [⟨5, 1, 1, 0, 0⟩] ∧
    freeBuf ((rolloutState direct).encSession 1).bufs (((rolloutState direct).encSession 1).f 19 0 6) = some 0 := by decide +kernel

/-- The copy of a picture of 16 x 16 by a DIRECT session. -/
theorem direct_copy_witness : let s := rolloutState 2
    let x := s.decSession 2
    let rows := copyRows x.pixfmt (windowPlanes x.pixfmt (x.bufAddr 0) pic16)
    (∀ a ∈ rows, s.engReady a.2.1 a.2.2 = true) ∧ (s.engReadAll (s.decPart x) (rows.map fun (a : Nat × Nat × Nat) => a.2)).1 = stOk := by
  decide +kernel

/-- A job of the first engine at an operation and a stripe. -/
def engineState (what : HwFor) (prog op stripe : Nat) : State :=
  hwState rolloutDesc { what := what, prog := prog, opIdx := op, stripe := stripe, done := if op = 0 then [] else [(op - 1, 0)] } 0

/-- Jobs that stand at UNPACK, CONV, PATCHIFY, UNPATCHIFY and PACK, and one with an empty output. -/
theorem headworks_engine_witness : ∀ x ∈ [(HwFor.input 5 1 2 1, 0x10003000, 0, 0), (.input 5 1 2 1, 0x10003000, 1, 1),
      (.input 5 1 2 1, 0x10003000, 2, 2), (.run 5 1, 0x10003000, 2, 2), (.output 1 4 0 0, 0x10002000, 0, 3), (.run 5 1, 0x10002000, 1, 4),
      (.output 1 4 0 0, 0x10002000, 1, 4), (.run 5 1, 0x10004000, 0, 0)],
    let s := engineState x.1 x.2.1 x.2.2.1 0
    (s.runs = true ∧ (s.hwQueue 0).length = 1 ∧ s.seepQuiet .headworks 0 = true) ∧
    (s.hwQueue 0).all (fun j => !s.jobOver j) = true ∧
    x.2.2.1 < hwOps (s.hwProg x.2.1) ∧ recOp (hwRec (s.hwProg x.2.1) x.2.2.1) = x.2.2.2 ∧ (s.op? 5 1).isSome = true ∧
    progEmpty (s.hwProg x.2.1) = decide (x.2.1 = 0x10004000) := by decide +kernel

/-- The reads and writes of those operations, in the first stripe and behind the last. -/
theorem headworks_reads_witness :
    (∀ st ∈ [0, 1], let s := engineState (.output 1 4 0 0) 0x10006000 1 st
      let j : HwJob := { what := .output 1 4 0 0, prog := 0x10006000, opIdx := 1, stripe := st, done := [(0, 0)] }
      let bs := s.hwProg 0x10006000
      s.runsOpen (packWrites bs (hwRec bs 1) (hwShapeAt bs 1) (j.input bs) 0 (j.emits bs).1 (j.emits bs).2) = true ∧
      j.lastStripe bs = decide (st = 1) ∧ recOp (hwRec bs 1) = 4 ∧ progEmpty bs = false) ∧
    (∀ st ∈ [0, 1], let s := engineState (.run 5 1) 0x10005000 1 st
      let j : HwJob := { what := .run 5 1, prog := 0x10005000, opIdx := 1, stripe := st, done := [(0, 0)] }
      let bs := s.hwProg 0x10005000
      s.runsOpen (matrixWrites (hwRec bs 1) (hwShapeAt bs 1) (j.input bs) 0 (j.emits bs).1 (j.emits bs).2) = true ∧
      j.lastStripe bs = decide (st = 1) ∧ recOp (hwRec bs 1) = 2 ∧ progEmpty bs = false) ∧
    (let s := engineState (.run 5 1) 0x10003000 0 0
     let j : HwJob := { what := .run 5 1, prog := 0x10003000 }
     let bs := s.hwProg 0x10003000
     (s.hwSource j bs).isSome = true ∧
     (let reads := (unpackReads bs (hwRec bs 0) (runPlanes bs 0) (j.emits bs).1 (j.emits bs).2).take 2
      (∀ a ∈ reads, s.engReady a.1 a.2 = true) ∧ (s.engReadAll none reads).1 = stOk)) := by decide +kernel

/-! ### Collectives -/

/-- A board of this module, number 0, and module 1, reached over port 0. -/
def boardState (s : State) : State := (s.wr CF_PORT_STATE 0 2).wr CF_PORT_PEER 0 1

/-- CF_GROUP_OPEN of group 3 of the modules of a mask, for the host; CF_GROUP_CLOSE of it. -/
def groupDesc (mask : Nat) : BitVec 512 := descOf [(0, 0x30), (16, 3), (17, mask), (18, 0x80), (20, 1000)]
def groupCloseDesc : BitVec 512 := descOf [(0, 0x31), (16, 3)]

theorem group_open_witness : ∀ mask ∈ [3, 5], let s := boardState (opState (groupDesc mask)); let o := op1 (groupDesc mask)
    let x : Group := { isOpen := true, mask := BitVec.ofNat 8 (o.fld 17 0 8), hostUse := true, tlimit := 1000 }
    s.runs = true ∧ s.op? 5 1 = some o ∧ o.opcode = 0x30 ∧ s.canStart o = true ∧ (s.group 3).isOpen = false ∧
    x.mask.getLsbD s.moduleId = true ∧ 2 ≤ x.size ∧
    (decide (∀ m ∈ x.members, m ≠ s.moduleId → s.bundle m ≠ [])) = decide (mask = 3) := by decide +kernel

/-- Group 3 of modules 0 and 1, with its collectives, and operation 1 of ring 5. -/
def groupState (d : BitVec 512) (st : OpStage) (x : Group) : State :=
  boardState { host := { ops := [{ op1 d with stage := st }] }, cf := { groups := [(3, { x with isOpen := true, mask := 3, hostUse := true })] } }

/-- An ALL_REDUCE of 16 elements, by a descriptor or as a body. -/
def reduceDesc (dst : Nat) : BitVec 512 := descOf [(0, 0x32), (16, 3), (24, 16), (32, 0x20000000), (40, dst)]
def reduceColl : Coll := { cseq := 1, body := (le 64 (reduceDesc 0x30000000).toNat).drop 16 |>.take 40, host := some (5, 1) }

theorem group_close_witness : ∀ busy, let s := groupState groupCloseDesc .waiting { colls := if busy then [reduceColl] else [] }
    let o := op1 groupCloseDesc
    s.runs = true ∧ s.op? 5 1 = some o ∧ o.opcode = 0x31 ∧ s.canStart o = true ∧ (s.group 3).isOpen = true ∧
    (s.group 3).closing = none ∧ (s.group 3).tenant = s.ringTenant 5 ∧ (s.group 3).colls.isEmpty = !busy := by decide +kernel

/-- COLLECTIVE within the tenant's granules, and one whose DST meets its SRC. -/
theorem collective_witness : ∀ x ∈ [(0x30000000, none), (0x20000000, some (0 : BitVec 16))], let s := groupState (reduceDesc x.1) .waiting {}
    let o := op1 (reduceDesc x.1)
    let c : Coll := { cseq := 0, body := leBytes 40 (o.fld 16 0 320), host := some (5, 1) }
    s.runs = true ∧ s.op? 5 1 = some o ∧ o.opcode = 0x32 ∧ s.canStart o = true ∧ (s.group 3).nextSeq = 1 ∧ s.coll? 3 1 = none ∧
    (s.group 3).size = 2 ∧ s.peersOf (s.group 3) = [1] ∧ s.collDenied 3 c = x.2 := by decide +kernel

/-- Image 2 of partition 0, with a list of two barriers attached to group 3, the second of which waits for counter 2 at 7. -/
def barrierList : List Byte := le 64 (3 + 5 <<< 8) ++ le 64 (3 + 5 <<< 8 + 2 <<< 320 + 7 <<< 352)
def listState (done : List Nat) : State :=
  boardState { ctx := { images := [(2, { listGroup := some 3 })] },
               cf := { groups := [(3, { isOpen := true, mask := 3 })], lists := [(2, barrierList)] },
               rot := { parts := [(0, { act := cycleOf 1, slot := { phase := .running, image := 2, listDone := done } })] },
               plots := [(0, { ctr := [(2, 7)] })] }

theorem list_entry_witness : ∀ done ∈ [[], [0]], let s := listState done
    let e := done.length
    let b := (barrierList.drop (64 * e)).take 64
    let c : Coll := { cseq := 0, body := b.take 40, part := 0, entry := e }
    s.runs = true ∧ s.listOf 0 2 = some (3, barrierList) ∧ (s.part 0).slot.phase = .running ∧ s.entriesStarted 3 0 = e ∧
    e < barrierList.length / 64 ∧
    (recFld b 0 40 0 6 = 0 ∨ ∀ k ∈ s.partPlots 0, reached ((s.plot (s.physOf k)).counter (recFld b 0 40 0 6))
      (BitVec.ofNat 32 (recFld b 0 44 0 32)) = true) ∧ s.collDenied 3 c = none := by decide +kernel

/-- CF_LIST_REGISTER of two entries to image 2, whose identity is 9; of an identity that no image has. -/
def listDesc (id : Nat) : BitVec 512 := descOf [(0, 0x33), (16, id), (20, 3), (24, 0x20000000), (32, 2)]
def listRegState (id : Nat) : State :=
  { host := { ops := [op1 (listDesc id)] }, ctx := { images := [(2, { imageId := 9 })] },
    cf := { groups := [(3, { isOpen := true, mask := 3 })] }, mem := { cis := cellsAt 0x20000000 barrierList } }

theorem list_register_witness : let s := listRegState 9
    let o := op1 (listDesc 9)
    let l := s.cisBytes 0x20000000 128
    s.runs = true ∧ s.op? 5 1 = some o ∧ o.opcode = 0x33 ∧ s.canStart o = true ∧ (s.group 3).isOpen = true ∧
    s.rangeDetail 0 0x20000000 128 = none ∧ s.cisStatus 0x20000000 128 = stOk ∧
    (∀ e < 2, let c : Coll := { cseq := 0, body := (l.drop (64 * e)).take 40 }
      c.bodyOk = true ∧ c.fld 0 0 6 = 3 ∧ s.masRow c.src ≠ 2 ∧ s.masRow c.dst ≠ 2 ∧ c.accum = false) ∧
    (listRegState 8).ctx.images.all (fun i => i.2.imageId ≠ 8) = true ∧ (listRegState 8).canStart (op1 (listDesc 8)) = true := by
  decide +kernel

/-- The collective alone on the module, as packets find it. -/
def packetState (c : Coll) : State := groupState 0 .running { nextSeq := 2, colls := [c] }

/-- The collective with its landing slots, all channels of Cistern serving. -/
def landingState (c : Coll) : State := packetState { c with reserved := true, phase := 2 }

theorem packets_witness : let s := packetState reduceColl
    let x := s.collGeom 3 reduceColl
    s.runs = true ∧ s.coll? 3 1 = some reduceColl ∧ x.n = 2 ∧ x.me = 0 ∧ sget none reduceColl.votes 1 = none ∧
    0 < reduceColl.contribs x 1 0 + reduceColl.results_ x 1 ∧ reduceColl.phase = 1 ∧ s.coll? 3 2 = none ∧ (s.group 3).isOpen = true ∧
    (s.group 3).nextSeq = 2 ∧
    (let u := landingState reduceColl
     u.runs = true ∧ (∀ c ∈ (u.group 3).colls, c.stopped = false ∧ c.reserved = true ∧ c.attempt = 0 ∧ c.chunks.isEmpty = true) ∧
     u.landOpen { reduceColl with reserved := true, phase := 2 } (u.collGeom 3 { reduceColl with reserved := true, phase := 2 }) 1 0 = true)
      := by decide +kernel

/-- The same of three modules, that waits for two headers. -/
theorem packets_header_witness :
    let s : State := { cf := { groups := [(3, { isOpen := true, mask := 7, nextSeq := 2, colls := [reduceColl] })] } }
    s.runs = true ∧ s.peersOf (s.group 3) = [1, 2] ∧ (s.coll? 3 1).map (fun c => (c.phase, c.headers)) = some (1, []) := by decide +kernel

theorem collectives_end_witness :
    (let s := packetState { reduceColl with votes := [(0, some true)] }
     s.runs = true ∧ (s.coll? 3 1).isSome = true ∧ (s.op? 5 1).map (·.stage) = some .running ∧ (s.group 3).closing = none ∧
     (∀ r < (s.group 3).size, sget none (sput none [(0, some true)] (8 * 0 + 1) (some true)) (8 * 0 + r) = some true) ∧ reduceColl.accum = false) ∧
    (let s := packetState reduceColl
     reduceColl.voted = false ∧ reduceColl.stopped = false ∧ (s.group 3).nameMode = false ∧ s.peersOf (s.group 3) = [1]) ∧
    (packetState { reduceColl with stopped := true }).coll? 3 1 = some { reduceColl with stopped := true } := by decide +kernel

/-- A group that names slow members; its collective runs, or has stopped with its own SNAPSHOT. -/
def slowState (stopped : Bool) : State :=
  groupState 0 .running { nextSeq := 2, nameMode := true, colls := [{ reduceColl with stopped := stopped, snaps := if stopped then [(0, some (1, 0))] else [] }] }

theorem slow_witness : (∀ b, (slowState b).runs = true ∧ ((slowState b).coll? 3 1).map (fun c => (c.stopped, c.voted)) = some (b, false) ∧
      (slowState b).myRank ((slowState b).group 3) = 0 ∧ ((slowState b).group 3).size = 2 ∧ ((slowState b).group 3).nameMode = true ∧
      ((slowState b).group 3).closing = none ∧ ((slowState b).op? 5 1).map (·.stage) = some .running) ∧
    sget none (([] : Sparse (Option (Nat × Nat)))) 1 = none ∧
    (∀ r < 2, sget none (sput none [(0, some (1, 0))] 1 (some (2, 5))) r ≠ none) ∧
    sget none [(0, some (1, 0))] 1 = none ∧ (slowState false).coll? 3 2 = none ∧ ((slowState false).group 3).aborted = [] := by decide +kernel

/-! ### Aquifer and the Watermaster -/

/-- Extent 3 of four units in a state, owned by tenant 0, and operation 1 of ring 5. -/
def aqState (d : BitVec 512) (st : ExtentState) (written : Nat) (hot : List Nat) : State :=
  { host := { ops := [op1 d] },
    aqf := { extents := if st = .empty then [] else [(3, { st := st, units := 4, written := written, data := [1, 2, 3] })], nandHot := hot } }

/-- AQ_LOAD_BEGIN of the last four units of the window, AQ_LOAD_DATA of the last two units, AQ_LOAD_COMMIT, AQ_FREE. -/
def loadBeginDesc : BitVec 512 := descOf [(0, 0x40), (16, 3), (20, 4), (24, aqBase + (aqUnits - 4) * 65536)]
def loadDataDesc : BitVec 512 := descOf [(0, 0x41), (16, 3), (20, 2), (24, 1)]

theorem aq_load_witness :
    (∀ x ∈ [(loadBeginDesc, 0x40, ExtentState.empty, 0, []), (loadDataDesc, 0x41, .loading, 2, []), (loadDataDesc, 0x41, .loading, 2, [1]),
      (descOf [(0, 0x42), (16, 3)], 0x42, .loading, 4, []), (descOf [(0, 0x43), (16, 3)], 0x43, .valid, 4, []),
      (0, 0, .retiring, 4, [])],
      let s := aqState x.1 x.2.2.1 x.2.2.2.1 x.2.2.2.2
      s.runs = true ∧ s.op? 5 1 = some (op1 x.1) ∧ (op1 x.1).opcode = x.2.1 ∧ s.canStart (op1 x.1) = true ∧ (s.extent 3).st = x.2.2.1 ∧
      (x.2.2.1 = .empty ∨ s.extentTenant (s.extent 3) = some 0) ∧ s.programsSuspended = !x.2.2.2.2.isEmpty) ∧
    (aqState loadBeginDesc .empty 0 []).extentOverlap (aqUnits - 4) 4 = false ∧ 4 ≤ (aqState loadBeginDesc .empty 0 []).freeUnits ∧
    (op1 loadDataDesc).fld 20 0 32 = 2 ∧ (op1 loadDataDesc).fld 24 0 10 + 1 = 2 ∧
    (aqState loadDataDesc .loading 2 []).cisOpen 0x4000000 (2 * 65536) = true := by decide +kernel

/-- AQ_LOAD_BEGIN of extent 3 that replaces extent 5, AQ_LOAD_COMMIT and AQ_FREE of extent 3, with a lift of its range or none. -/
def replaceState (d : BitVec 512) (st : ExtentState) (lift : Bool) : State :=
  { host := { ops := [op1 d] },
    aqf := { extents := (if st = .empty then [] else [(3, { st := st, units := 4, written := 4, replace := some 5 })])
      ++ [(5, { st := .valid, units := 4 })] },
    rot := if lift then { parts := [(0, { lifts := [{ entry := 0, reach := 0, seq := 0, src := aqBase, bytes := le 32 (1 <<< 192) }] })] } else {} }

theorem aq_replace_witness :
    (let d := descOf [(0, 0x40), (16, 3), (20, 4), (32, 5), (33, 1)]; let s := replaceState d .empty false
     s.runs = true ∧ s.op? 5 1 = some (op1 d) ∧ s.canStart (op1 d) = true ∧ (s.extent 3).st = .empty ∧ (op1 d).fld 33 0 1 = 1 ∧
     (s.extent 5).st = .valid ∧ s.extentTenant (s.extent 5) = some 0 ∧ (s.extent 5).units = 4 ∧ 4 ≤ s.freeUnits) ∧
    (∀ b, let d := descOf [(0, 0x42), (16, 3)]; let s := replaceState d .loading b
      s.canStart (op1 d) = true ∧ (s.extent 3).replace = some 5 ∧ s.extentTenant (s.extent 3) = some 0 ∧ s.rangeRead 0 4 = b) ∧
    (∀ b, let d := descOf [(0, 0x43), (16, 3)]; let s := replaceState d .valid b
      s.canStart (op1 d) = true ∧ (s.extent 3).st = .valid ∧ s.rangeRead 0 4 = b) := by decide +kernel

theorem cache_fill_witness : let s : State := { aqf := { wc := [(7, { st := .filling, aq := 1, pages := 15 })] } }
    s.runs = true ∧ (s.wcUnit 7).st = .filling ∧ s.cisOpen (s.wcAddr 7) 65536 = true := by decide +kernel

/-- A Watermaster operation alone in its queue. -/
theorem wm_ready (d : BitVec 512) (x : State) (opc : Nat) (h : x.host.ops = [op1 d]) (r : x.runs = true) (f : x.op? 5 1 = some (op1 d))
    (c : (op1 d).opcode = opc) (b : x.canStart (op1 d) = true) : WmReady x 5 1 (op1 d) opc :=
  ⟨⟨r, f, c, b⟩, by rw [h]; intro p hp; simp [handedBefore, op1] at hp⟩

/-- What the premises of a Watermaster operation ask of an operation alone in its queue. -/
def wmReadyB (s : State) (d : BitVec 512) (opc : Nat) : Bool :=
  s.runs && s.op? 5 1 = some (op1 d) && (op1 d).opcode = opc && s.canStart (op1 d) && (handedBefore (op1 d) s.host.ops).isEmpty

def attestDesc : BitVec 512 := descOf [(0, 0x50), (16, 0x5000)]
def identityDesc (size : Nat) : BitVec 512 := descOf [(0, 0x51), (16, 0x5000), (24, size)]

theorem wm_reports_witness : wmReadyB (opState attestDesc) attestDesc 0x50 = true ∧ (opState attestDesc).flag WM_STATUS_EXHAUSTED = false ∧
    wmReadyB ((opState attestDesc).wr WM_STATUS_EXHAUSTED 0 1) attestDesc 0x50 = true ∧
    ((opState attestDesc).wr WM_STATUS_EXHAUSTED 0 1).flag WM_STATUS_EXHAUSTED = true ∧
    (∀ size ∈ [0, 0xFFFFFFFF], wmReadyB (opState (identityDesc size)) (identityDesc size) 0x51 = true ∧
      (op1 (identityDesc size)).fld 24 0 32 = size) := by decide +kernel

/-- The bundle is longer than no SIZE at all and fits the largest. -/
theorem wm_bundle_witness (s : State) : 0 < s.bundleSize ∧ s.bundleSize ≤ 0xFFFFFFFF := by
  have h0 := (Config.identityLen 0).isLt
  have h1 := (Config.identityLen 1).isLt
  have h2 := (Config.identityLen 2).isLt
  simp only [State.bundleSize, State.bundleLens, List.foldl]
  split <;> omega

/-- Operations on tenant 2: WM_TENANT_CREATE, WM_GRANT of the last index of a kind, WM_TENANT_REVOKE. -/
def grantDesc (kind : Nat) : BitVec 512 := descOf [(0, 0x54), (16, 2), (17, kind), (20, grantLast kind), (24, 1)]
def tenantState (d : BitVec 512) (st : Nat) : State := (opState d).wr WM_TENANT_STATE 2 st
def revokeDesc : BitVec 512 := descOf [(0, 0x53), (16, 2)]
/-- Tenant 2 has an open stream. -/
def tenantStream : State := { tenantState revokeDesc 1 with ctx := { streams := [(3, { stream3 with tenant := 2 })] } }

theorem wm_tenants_witness :
    (let d := descOf [(0, 0x52), (16, 2)]
     wmReadyB (tenantState d 0) d 0x52 = true ∧ (tenantState d 0).rd WM_TENANT_STATE 2 = 0 ∧ (tenantState d 0).ownerTaken 77 = false) ∧
    (∀ kind < 4, wmReadyB (tenantState (grantDesc kind) 1) (grantDesc kind) 0x54 = true ∧
      (tenantState (grantDesc kind) 1).rd WM_TENANT_STATE 2 = 1 ∧ (tenantState (grantDesc kind) 1).grantIdle kind (grantLast kind) 1 = true) ∧
    (∀ x ∈ [(tenantState revokeDesc 1, true), (tenantStream, false)], let s1 := (x.1.begin_ (op1 revokeDesc)).revokeBegin 2 false
      wmReadyB x.1 revokeDesc 0x53 = true ∧ x.1.rd WM_TENANT_STATE 2 = 1 ∧ (s1.op? 5 1).isSome = true ∧ s1.revokeDrained 2 = x.2) := by
  decide +kernel

/-- WM_RING_MAINT of the last ring, whose tenant is tenant 0, or tenant 2 that is REVOKING. -/
def maintDesc : BitVec 512 := descOf [(0, 0x55), (16, 4095), (18, 1)]

theorem wm_maint_witness : ∀ t ∈ [0, 2], let s := (tenantState maintDesc 2).wr RING_CTL_TENANT 4095 t
    wmReadyB s maintDesc 0x55 = true ∧ (s.tenantState (s.rd RING_CTL_TENANT 4095) = 2 ↔ t = 2) := by decide +kernel

/-- A component of a kind and a version without a body, under its digest: the manifest at a Cistern address. -/
def componentDesc : BitVec 512 := descOf [(0, 0x56), (16, 0x20000000), (24, 4096), (28, 1)]
def componentState (kind svn : Nat) : State :=
  { opState componentDesc with
    mem := { cis := cellsAt 0x20000000 (le 4 0x53574D31 ++ le 1 kind ++ le 3 0 ++ le 4 svn ++ le 4 0 ++ beBytes 48
      0x38b060a751ac96384cd9327eb1b1e36a21fdb71114be07434c0cc7bf63f6e1da274edebfe76f65fbd51ad2f14898b95b) }
    wm := { svnMin := [(kind, 2)] } }

theorem wm_component_witness : ∀ kind ∈ [0, 4], (∀ svn ∈ [2, 1], let s := componentState kind svn
      wmReadyB s componentDesc 0x56 = true ∧ s.rangeDetail 0 0x20000000 4096 = none ∧ s.manifest 0x20000000 4 1 = kind ∧
      s.manifest 0x20000000 8 4 = svn ∧ sget 0 s.wm.svnMin kind = 2 ∧ s.cisOpen 0x20000000 4096 = true ∧
      (let read := s.cisRead none 0x20000000 4096
       read.1 = stOk ∧ (∀ b, s.componentOk (read.2.seepOne .wm 0 1).hit.isSome 0x20000000 4096 b = b)) ∧
      s.copyPlace.any (fun d => s.cisOpen d 4096) = true) := by decide +kernel

/-- WM_SVN_COMMIT of the last kind; an SFU image of a version runs. -/
def svnDesc : BitVec 512 := descOf [(0, 0x57), (16, 4)]
theorem wm_svn_witness : ∀ v ∈ [64, 65], let s : State := { opState svnDesc with wm := { sfuActive := some { kind := 4, svn := v } } }
    wmReadyB s svnDesc 0x57 = true ∧ s.runningSvn 4 = v := by decide +kernel

theorem violation_witness : (State.reset).runs = true ∧ State.reset.flag WM_LOG_VALID = false ∧
    (State.reset.wr WM_CTL_VIOL_EN 0 1).flag WM_CTL_VIOL_EN = true ∧ State.reset.flag WM_STATUS_DEBUG = false ∧
    (State.reset.wr WM_STATUS_DEBUG 0 1).flag WM_STATUS_DEBUG = true := by decide +kernel

/-! ### Links -/

/-- Port 2 and half 1 in a link state, with a count of failures and of keys of the port. -/
def linkState_ (st fails keys : Nat) : State :=
  (({ lnk := { links := if fails + keys = 0 then [] else [(2, { fails := fails, keys := keys })] } } : State).wr CF_PORT_STATE 2 st).wr
    DEX_HALF_STATE 1 st

theorem flits_witness : (∀ fails ∈ [0, 14, 15], (linkState_ lkUp fails 0).runs = true ∧ (linkState_ lkUp fails 0).linkState (.cf 2) = lkUp ∧
      ((linkState_ lkUp fails 0).link 2).lastGood + 1 = 0 ∧ ((linkState_ lkUp fails 0).link 2).replaying = false ∧
      ((linkState_ lkUp fails 0).link 2).fails = fails) ∧
    (linkState_ lkUp 0 0).linkState (.dex 1) = lkUp ∧ linkIdx (.dex 1) = 9 ∧
    (∀ l ∈ [Link.cf 2, .dex 1], ((linkState_ lkUp 0 0).laneSeep l).hit.isNone = true) ∧
    ((linkState_ lkUp 0 0).link 2).tagFailed = false := by decide +kernel

theorem lanes_witness : (linkState_ lkUp 0 0).rd CF_PORT_STATE 2 = lkUp ∧ (linkState_ lkUp 0 0).rd CF_PORT_SPARED 2 = 15 ∧
    ((linkState_ lkUp 0 0).wr CF_PORT_SPARED 2 7).rd CF_PORT_SPARED 2 = 7 ∧
    ((linkState_ lkUp 0 0).wr CF_PORT_SPARED 2 7).rd CF_PORT_STATE 2 = lkUp ∧ ((linkState_ lkUp 0 0).link 2).keys = 0 ∧
    (let s := ((((linkState_ lkUp 0 3).wr CF_PORT_SPARED 2 7).wr CF_PORT_STATE 3 lkUp).wr CF_PORT_PEER 3 1).wr CF_PORT_PEER 2 1
     s.rd CF_PORT_STATE 2 = lkUp ∧ 0 < (s.link 2).keys ∧ s.rd CF_PORT_PEER 3 = s.rd CF_PORT_PEER 2 ∧ s.rd CF_PORT_STATE 3 = lkUp) ∧
    (linkState_ lkUp 0 0).rd DEX_HALF_STATE 1 = lkUp := by decide +kernel

/-- What training finds on a good link at the longest loop, and on one without a signal. -/
def trainEnv (good : Bool) : TrainEnv :=
  { signal := good, failedLanes := [3], boardOk := true, versionOk := true, attestOk := true, svnOk := true, loopNs := 2000, peer := 1,
    peerPort := 0 }

/-- The other half has passed its steps. -/
def trainedState (split : Nat) (other : Bool) : State :=
  { linkState_ lkTraining 0 0 with lnk := { links := if other then [(8, { trained := true })] else [] } }.wr DEX_CTL_SPLIT 0 split

theorem training_witness : (∀ st ∈ [lkDisabled, lkTraining, lkUp], (linkState_ st 0 0).runs = true ∧
      (linkState_ st 0 0).rd CF_PORT_STATE 2 = st ∧ (linkState_ st 0 0).rd DEX_HALF_STATE 1 = st ∧
      ((linkState_ st 0 0).seepOne .wm 0 2).hit.isNone = true ∧ ((linkState_ st 0 0).link 2).keys = 0) ∧
    portReason (trainEnv true) = 0 ∧ portReason (trainEnv false) ≠ 0 ∧ halfReason (trainEnv true) = 0 ∧ halfReason (trainEnv false) ≠ 0 ∧
    (∀ split ∈ [0, 1], ∀ other, (trainedState split other).rd DEX_HALF_STATE 1 = lkTraining ∧
      (trainedState split other).flag DEX_CTL_SPLIT = decide (split = 1) ∧ ((trainedState split other).link 8).trained = other) := by
  decide +kernel

/-- Module 1 over port 0, in group 3 and not in group 4, without collectives. -/
def leaveState : State :=
  boardState { cf := { groups := [(3, { isOpen := true, mask := 3 }), (4, { isOpen := true, mask := 5 })] } }

theorem leave_witness : leaveState.runs = true ∧ leaveState.moduleId = 0 ∧ (∀ x ∈ leaveState.cf.groups, x.2.colls = [] ∧ x.2.closing = none) ∧
    leaveState.rd CF_PORT_PEER 0 = 1 ∧ leaveState.rd CF_PORT_STATE 0 = lkUp ∧ (leaveState.group 3).mask.getLsbD 1 = true ∧
    (leaveState.group 4).mask.getLsbD 1 = false := by decide +kernel

theorem leave_ends_witness : let s := packetState reduceColl
    s.runs = true ∧ s.moduleId = 0 ∧ (∀ x ∈ s.cf.groups, ∀ d ∈ x.2.colls, x.1 = 3 ∧ d.cseq = 1) ∧ (s.coll? 3 1).isSome = true ∧
    (s.op? 5 1).map (·.stage) = some .running ∧ (s.group 3).closing = none ∧ (s.group 3).isOpen = true ∧
    (s.group 3).mask.getLsbD 1 = true := by decide +kernel

/-! ### Rotation -/

theorem rotation_witness : State.reset.runs = true ∧ State.reset.admission = none ∧
    (((State.reset.wr ROT_PART_ENABLE 0 1).wr ROT_PART_X0 0 1).wr ROT_PART_W_M1 0 31).admission.any (fun x => decide (x.1 < 13)) = true ∧
    ((State.reset.wr ROT_CTL_PENDING 0 1).admission.map (·.1)) = some 11 ∧
    (State.reset.part 63).slot.phase = .idle ∧ State.reset.rot.pinLevel ≠ true := by decide +kernel

/-- A qualified edge is pending; partition 0 waits for the cadence, or for its period. -/
def cadenceState (trig : Nat) (seen : Bool) : State :=
  (({ rot := { edgePending := some true, edgeSeen := seen, parts := [(0, { act := cycleOf 1, lastLoad := some 0 })],
               bank := [(0, setBits (entryOf 0 0) ROT_ENTRY_TRIG.lo 2 trig)] } } : State).wr CADENCE_CTL_ENABLE 0 1).wr CADENCE_CTL_MIN_US 0 100

theorem cadence_witness : ∀ seen, (cadenceState 1 seen).runs = true ∧ (cadenceState 1 seen).rot.edgePending = some true ∧
    (cadenceState 1 seen).flag CADENCE_CTL_ENABLE = true ∧ (cadenceState 1 seen).flag CADENCE_CTL_EDGE = false ∧
    (cadenceState 1 seen).rd CADENCE_CTL_MIN_US = 100 ∧ (cadenceState 1 seen).rot.edgeSeen = seen ∧ (cadenceState 1 seen).partEnabled 0 = true ∧
    (cadenceState 1 seen).held_ 0 = false ∧ (cadenceState 1 seen).entryTrig 0 = some 1 ∧ (cadenceState 1 seen).skippedAll 0 = false ∧
    ((cadenceState 1 seen).part 0).slotRuns = false ∧ ((cadenceState 1 seen).part 0).pendTrig = false ∧
    partBits ROT_PART_CDIV_M1 ((cadenceState 1 seen).part 0).act = 0 ∧ (cadenceState 2 seen).entryTrig 0 = some 2 ∧
    ((cadenceState 2 seen).part 0).lastLoad.isSome = true := by decide +kernel

/-- Partition 0 of one plot holds the smallest image for stream 3, with a ready frame chunk of the rollout, or without one; or it has
loaded a slot for a chunk of a kind. -/
def slotBase (x : Part) (img : List Byte) (kind : ChunkKind) : State :=
  let o : Op := { commitOp trainDesc with pinned := true }
  let pol : PolicyRec := { model := 7, n := 1, applied := 1 }
  ({ boot := { ready := true }, host := { ops := [o] },
     ctx := { ctxBase with images := [(0, { addr := 0x10000000, len := 448, model := 7 })], policies := [(9, pol)] },
     mem := { cis := cellsAt 0x10000000 img },
     pools := [(0, { sets := [(1, { st := if kind = .refill then .refilling else .live })] })],
     rot := { parts := [(0, { x with act := cycleOf 1 })], bank := [(0, entryOf 0 0)] } } : State).wr PG_POOL_CTL_ENABLE 0 1

/-- The smallest image, as a TRAIN image. -/
def trainImage : List Byte := sampleImage.set 6 1
def readyChunk : Chunk := { waitingChunk with ready := some 1 }

theorem slot_load_witness : (∀ cs ∈ [[], [readyChunk]], let s := slotBase { chunks := cs } trainImage .frame
    s.runs = true ∧ s.lev.pend = [] ∧ s.walkPos 0 = some 0 ∧ s.walkEntry 0 = some 0 ∧ s.mayLoad 0 = true ∧ s.skippedAll 0 = false ∧
    s.triggered 0 0 = true ∧ s.pickChunk 0 0 = cs.head?) ∧
    (let s0 := slotBase { chunks := [readyChunk] } trainImage .frame
     let s := { s0 with ctx := { s0.ctx with policies := [(9, { model := 7, n := 1 })] } }
     s.pickChunk 0 0 = some readyChunk ∧ s.cisBytes (s.image 0).addr (s.image 0).len = trainImage ∧ s.cisOpen (s.image 0).addr (s.image 0).len = true ∧
     (s.cisRead none (s.image 0).addr (s.image 0).len).1 = stOk ∧
     (∀ b, s.loadFails 0 0 trainImage b stOk = none) ∧ (s.part 0).warmImage = none ∧ (s.op? 5 1).map s.updateTurn = some .go) ∧
    (let late := slotBase { chunks := [readyChunk] } trainImage .frame
     late.pickChunk 0 0 = some readyChunk ∧ (late.op? 5 1).map late.updateTurn = some .refused) := by decide +kernel

/-- No seep of a plot is armed or has left a fault where none is armed at all and no fault is left. -/
theorem plots_quiet_witness (s : State) (a : s.armed = []) (b : s.inject = []) (r : Nat) : s.seepQuiet .plot r = true := by
  simp [State.seepQuiet, State.seepArmed, State.armedWord, a, b]

/-- A slot of a phase for a chunk of a kind. -/
def slotState (phase : SlotPhase) (kind : ChunkKind) : State :=
  slotBase { slot := { phase := phase, chunk := some { readyChunk with kind := kind, sets := [1] } } } [] kind

theorem slot_start_witness : ∀ kind ∈ [ChunkKind.frame, .observe, .refill, .back, .optim], let s := slotState .loading kind
    s.runs = true ∧ (s.part 0).slot.chunk.map (·.kind) = some kind ∧ (s.part 0).slot.phase = .loading ∧ s.flag SLOT_WDOG_SEEP_ARM = false ∧
    s.flag PG_POOL_CTL_ENABLE 0 = true ∧ (s.allocSets 0 3 0 [1]).isSome = true := by decide +kernel

/-- Every plot of the slot has finished. -/
def endState (kind : ChunkKind) : State :=
  { slotState .running kind with plots := [(32 * 0, { loaded := true, running := true, flume := { ended := true }, furrow := { ended := true } })] }

theorem slot_end_witness : ∀ kind ∈ [ChunkKind.frame, .observe, .refill, .back, .optim], let s := endState kind
    (s.part 0).toTake = none ∧ (s.op? 5 1).isSome = true ∧ s.mem.resvBad = [] ∧
    ((s.part 0).slot.chunk.bind fun c => (s.op? 5 1).map fun o => s.mayEnd 0 c o) = some true := by decide +kernel

theorem slot_abort_witness : ∀ ph ∈ [SlotPhase.loading, .running], let s := slotState ph .frame
    (s.op? 5 1).map (·.stage) = some .running ∧ s.listOf 0 (s.part 0).slot.image = none ∧ (s.part 0).slot.phase = ph ∧
    s.lev.pend = [] ∧ s.rd SLOT_WDOG_MULT ≠ 0 := by decide +kernel

/-! ### State swaps -/

/-- Partition 0 swaps the state of future 1 of stream 3 out, in transit, while future 2 shares the slot it is due for or none does. -/
def transitState (shared : Bool) (opened : Bool := false) : State :=
  let futs : Sparse OwnerRec := [(1, { live := true, sealA := .sealed, sealB := .sealed, crcB := crc32c (List.replicate 64 0) })] ++
    (if shared then [(2, { live := true, committed := .shared 1 true, sealA := if opened then .open_ else .empty })] else [])
  let r : Transit := { stream := 3, owner := 1, ring := 5, seq := 1, lplot := 0, pos := 0, slot := 7, read := true, bytes := List.replicate 64 1 }
  { ctx := { streams := [(3, { stream3 with futs := futs })], models := [(7, { stateBytes := 64 })] },
    rot := { parts := [(0, { slot := { phase := .swapping }, transit := [r] })] } }

theorem swap_out_witness : let s := transitState false
    s.runs = true ∧ s.lev.pend = [] ∧ (s.part 0).transit.map (fun r => (r.read, s.outPlace r, r.slot)) = [(true, (1, true), 7)] ∧
    (s.stream 3).sharers 1 true = [] ∧ (s.seepOne .sluice (sluiceOf 0) 0).hit.isNone = true ∧ s.slotOpen 3 1 true = true ∧
    ((s.part 0).transit.all s.outTurn) = true := by decide +kernel

theorem slot_copy_witness : ∀ opened, let s := transitState true opened
    (s.stream 3).sharers 1 true = [2] ∧ (s.outDue 3 (1, true)).map (·.1) = some 0 ∧ s.copyReady 3 (1, true) [2] = true ∧
    (s.copySlot (sluiceOf 0) 3 (1, true) [2]).status = stOk ∧ decide ((s.owner 3 2).sealA = .open_) = opened := by
  decide +kernel

theorem prune_copy_witness : let s := sharedState false
    (s.outDue 3 (1, false)).isNone = true ∧ (s.pruneDue 3 (1, false)).map (fun o => s.prunes o) = some [1] ∧
    (s.stream 3).sharers 1 false = [3] ∧ s.copyReady 3 (1, false) [3] = true ∧
    (s.copySlot (s.partSluice (s.stream 3).part.toNat) 3 (1, false) [3]).status = stOk := by decide +kernel

/-- A running slot for futures 1 of stream 3, whose state of 64 zero bytes stands sealed, waits for its swap-in. -/
def swapInState : State :=
  let w : OwnerRec := { live := true, sealA := .sealed, crcA := crc32c (List.replicate 64 0) }
  { ctx := { streams := [(3, { stream3 with futs := [(1, w)] })], models := [(7, { stateBytes := 64 })] },
    rot := { parts := [(0, { slot := { phase := .running, chunk := some waitingChunk, insLeft := [(0, 0)] } })] } }

theorem swap_in_witness : let s := swapInState
    s.runs = true ∧ (s.part 0).slot.chunk = some waitingChunk ∧ (s.part 0).slot.phase = .running ∧ (s.partPlots 0).length = 1 ∧
    waitingChunk.owners[0]? = some 1 ∧ (s.owner 3 1).reads.place 1 = (1, false) ∧ (s.owner 3 1).seal false = .sealed ∧
    s.slotOpen 3 1 false = true ∧ (s.readSlot (sluiceOf 0) 3 (1, false) 1 true).status = stOk ∧
    ownerPlace (s.plot (s.physOf 0)).stateMap (s.part 0).slot.stateOff 64 0 = some 0 := by decide +kernel

/-- A REFILL slot that waits for its one swap-in. -/
def refillInState : State :=
  { ctx := ctxBase, pools := [(0, { sets := [(1, { st := .refilling })] })],
    rot := { parts := [(0, { slot := { phase := .running, chunk := some { waitingChunk with kind := .refill, sets := [1] }, insLeft := [(0, 0)] } })] } }

theorem refill_in_witness : let s := refillInState
    s.runs = true ∧ (s.part 0).slot.phase = .running ∧ (s.partPlots 0).length = 1 ∧ ((s.pool 0).set_ 1).st = .refilling := by decide +kernel

/-- Stream 3 is CLOSING and nothing of it is in flight. -/
def closingState : State :=
  { host := { ops := [{ op1 closeDesc with stage := .running }] }, ctx := { streams := [(3, { stream3 with st := .closing })] } }

theorem final_swap_witness : closingState.runs = true ∧ (closingState.stream 3).st = .closing ∧ closingState.rot.parts = [] ∧
    closingState.edits = [] ∧ (closingState.part 0).chunks = [] ∧ (closingState.closeOp 3).isSome = true := by decide +kernel

/-- A running REFILL slot of a DROPPED set, with no free page to spare. -/
def refillState : State :=
  (({ ctx := { ctxBase with models := [(7, { geom := 0x00010108 })] }, pools := [(0, { sets := [(1, { st := .dropped })] })],
      rot := { parts := [(0, { slot := { phase := .running, chunk := some { waitingChunk with kind := .refill, sets := [1] } } })] } } :
      State).wr PG_POOL_CTL_ENABLE 0 1).wr PG_STATUS_FREE 0 1

theorem refill_witness : let s := refillState
    s.runs = true ∧ (s.part 0).slot.chunk.map (·.kind) = some .refill ∧ (s.part 0).slot.phase = .running ∧ s.flag PG_POOL_CTL_ENABLE 0 = true ∧
    ([1].filter fun n => ((s.pool 0).set_ n).st = .dropped) = [1] ∧
    geomLayers (((s.model? (s.stream 3).model.toNat).map (·.geom)).getD 0) = 1 ∧ s.rd PG_STATUS_FREE 0 = 1 := by decide +kernel

/-! ### Pages -/

/-- An edit of a kind, of stream 3 and future 1 in partition 0, waits with its operation. -/
def editOf (k : EditKind) : Edit := { kind := k, part := 0, stream := 3, owner := 1, arg := 1, cause := some (5, 1) }
def editState (k : EditKind) : State :=
  { host := { ops := [{ op1 0 with stage := .running, unacked := 1 }] }, ctx := ctxBase, edits := [editOf k],
    pools := [(0, { sets := [(1, { st := if k = .refill then .refilling else .live })] })] }

theorem edits_witness : (∀ k ∈ [EditKind.append, .share, .clear, .revert], (editState k).runs = true ∧
      (editState k).ownerEdit k 3 1 = some (editOf k) ∧ ((editState k).op? 5 1).isSome = true) ∧
    (∀ k ∈ [EditKind.drop, .refill], (editState k).queued.find? (fun x => x.kind = k && x.part = 0 && x.arg = 1) = some (editOf k)) ∧
    (∀ b, let s := { editState .drop with pools := [(0, { sets := [(1, { st := .live, pinnable := !b })] })] }
      s.setPinned 0 1 = b) := by
  decide +kernel

/-- A grace item of each kind whose walks have retired, in a pool with free pages. -/
def graceState (g : GraceItem) : State :=
  ({ pools := [(0, { grace := [g], blocks := [(1, {})], sets := [(1, {})] })] } : State).wr PG_STATUS_FREE 0 7

theorem grace_witness : ∀ g ∈ [GraceItem.block 1 [4], .set 1 [4], .pages [8, 9] [4]],
    (graceState g).runs = true ∧ ((graceState g).pool 0).grace.find? (graceReady ((graceState g).pool 0).walkIds) = some g ∧
    (graceState g).rd PG_STATUS_FREE 0 + 2 < 2 ^ 24 ∧ (graceState g).rd PG_STATUS_EMERG_FREE 0 ≤ (graceState g).rd PG_POOL_CTL_EMERG 0 ∧
    (graceState g).flag PG_RECLAIM_BUSY 0 = false := by decide +kernel

/-- A reclaim that is BUSY or not, with TARGET pages wanted, a grace item or none, and sets walked at times. -/
def reclaimState (busy target : Nat) (g : List GraceItem) : State :=
  ((({ pools := [(0, { grace := g, sets := [(1, { st := .live, lastWalk := 5 }), (2, { st := .live, lastWalk := 4 }), (3, { st := .live, lastWalk := 4 })] })] } :
    State).wr PG_STATUS_FREE 0 7).wr PG_RECLAIM_TARGET 0 target).wr PG_RECLAIM_BUSY 0 busy

theorem reclaim_witness : (∀ x ∈ [(7, true), (8, false)], let s := reclaimState 0 x.1 []
      s.flag PG_RECLAIM_BUSY 0 = false ∧ s.edits.isEmpty = true ∧ (s.pool 0).grace.isEmpty = true ∧
      decide (s.rd PG_RECLAIM_TARGET 0 ≤ s.rd PG_STATUS_FREE 0) = x.2 ∧ s.reclaimNext 0 = some 2) ∧
    (∀ l ∈ [[GraceItem.pages [] []], [.pages [] [], .pages [] [4]]], let u := (reclaimState 1 8 l).releaseItem 0 (.pages [] [])
      (reclaimState 1 8 l).flag PG_RECLAIM_BUSY 0 = true ∧ (u.pool 0).grace.length + 1 = l.length ∧ u.reclaimNext 0 = some 2) := by
  decide +kernel

/-- Stream 3 is named for direct access, and quiesced or not. -/
def directState (q : Nat) (tenant : TenantNo := 0) : State :=
  (({ ctx := ctxBase, pools := [(0, { sets := [(1, { stream := 3 })] })], wm := { partOwner := [(0, tenant)] } } : State).wr
    PG_DIRECT_STREAM 0 3).wr PG_DIRECT_QUIESCED 0 q

theorem direct_witness : (directState 1).foreignStream 3 = false ∧ (directState 1 2).foreignStream 3 = true ∧
    ((directState 1).stream 3).part = 0 ∧ (((directState 1).pool 0).set_ 1).stream = 3 ∧ ((directState 1).stream 3).trunk.block = 0 ∧
    ∀ q ∈ [0, 1], (directState q).runs = true ∧ (directState q).quiesced 3 = decide (q = 1) ∧
    (directState q).streamIdle ((directState q).rd PG_DIRECT_STREAM) = true := by decide +kernel

theorem busy_stream_witness : let s := (commitState rolloutDesc).wr PG_DIRECT_STREAM 0 3
    s.runs = true ∧ s.streamIdle (s.rd PG_DIRECT_STREAM) = false := by decide +kernel

/-! ### Control and data words -/

/-- An image with two one-element tile descriptors in the plot's own Reservoir, F32 and BF16, a product nest, a pair over it with an
element function, and two layers with a wide variant: thresholds 0 and, never, 0xFFFFFF. -/
def wordImage : List Byte :=
  le 96 (1 <<< 160) ++ le 32 (448 <<< 64 + 256 <<< 96 + 320 <<< 128) ++ le 128 0
  ++ le 32 (128 + 64 <<< 96) ++ le 32 (1 <<< 60 + 64 <<< 96) ++ le 64 (3 <<< 240) ++ le 64 (1 + 0x18 <<< 48 + 1 <<< 56) ++ le 16 0x01000000 ++ le 16 0x01FFFFFF

/-- A plot of partition 0 that runs with LIVE tiles 0 to 6, FULL slots 0, and one item at the head of a stream. -/
def wordPlot (sel : StreamSel) (it : ExpItem) : Plot :=
  let live : Tile := { st := .live, rows := 2, cols := 2, data := [1, 2] }
  let x : Plot := { running := true, loaded := true, seq := 4, tiles := (List.range 7).map fun t => (t, live),
                    rowStage := [(0, { full := true, fmt := 1 })], bank := [(0, { full := true, fmt := 1 })] }
  x.setStream sel { exp := [it], ret := some 9 }

/-- Partition 0 with that image, and plot 0. -/
def plotState (x : Plot) : State :=
  { plots := [(0, x)], rot := { parts := [(0, { act := cycleOf 1, slot := { phase := .running, img := wordImage } })] } }

/-- What AtHead asks of a word. -/
def atHeadB (s : State) (sel : StreamSel) (w : StreamWord) (it : ExpItem) : Bool :=
  s.runs && (s.plot 0).running && ((s.plot 0).stream sel).open_ && s.headItem 0 sel = some it && it.shown = some w

/-- A word at the head of its stream. -/
def headState (sel : StreamSel) (w : StreamWord) : State := plotState (wordPlot sel (.word w))

theorem control_words_witness : (∀ sel ∈ [StreamSel.flume, .furrow], ∀ w ∈ [StreamWord.nop, .wait ⟨2, 0⟩, .wait ⟨2, 1⟩, .signal ⟨2, 0, false, 1⟩, .signal ⟨2, 5, true, 255⟩, .signal ⟨0, 0, true, 1⟩,
      .layer ⟨true, 0⟩, .layer ⟨false, 0⟩, .ret, .end_, .release ⟨1, 1, 0x0041⟩],
      atHeadB (headState sel w) sel w (.word w) = true ∧ ((headState sel w).plot 0).retired sel = true ∧
      ((headState sel w).plot 0).passes = [] ∧ ((headState sel w).plot 0).fence = false ∧
      (((headState sel w).plot 0).stream sel).ret = some 9 ∧ (headState sel w).linkSeeps = false) ∧
    (let x := wordPlot .flume (.word .nop); x.slotRead false 0 = false ∧ x.slotRead true 0 = false ∧ x.fence = false) ∧
    (headState .flume .nop).physOf 5 ≠ 0 ∧ (headState .flume .nop).physOf 0 = 0 ∧
    reached (((headState .flume .nop).plot 0).counter 2) 0 = true ∧ reached (((headState .flume .nop).plot 0).counter 2) 1 = false ∧
    (∀ k ∈ [0, 6], ((wordPlot .flume (.word .nop)).tile k).st ≠ .pending ∧ ((wordPlot .flume (.word .nop)).tile k).held = 0) := by
  decide +kernel

theorem reached_witness : reached 0 0x80000001 = true ∧ reached 0 0x80000000 = false ∧ reached 0x7FFFFFFF 0 = true := by decide

/-- A stream past the last word of a NEST: the walk ends with the pass in the array, or at once. -/
theorem settle_witness : let r : ExpItem := .retire [3]; let w : ExpItem := .word .nop; let q : PassRec := ⟨⟨0, false, 0, false, 0, true, true, true, true, 2⟩, none, [], []⟩
    ((wordPlot .flume w).setStream .flume { exp := [w, r] }).passes = [] ∧
    ((({ wordPlot .flume w with passes := [q] } : Plot).setStream .flume { exp := [w, r] }).passes = [q] ) := by decide +kernel

/-- Both streams stand at the end of a layer. -/
def layerState (l sat : Nat) : State :=
  plotState { running := true, satCount := sat, flume := { atLayer := some l }, furrow := { atLayer := some l } }

theorem layer_witness : (layerState 0 1).runs = true ∧ ((layerState 0 1).plot 0).flume.atLayer = some 0 ∧
    (∀ x ∈ [(0, 0, false), (0, 1, true), (1, 0xFFFFFF, false)], decide (layerThresh wordImage x.1 < x.2.1 ∧ layerWide wordImage x.1 = true ∧
      layerThresh wordImage x.1 ≠ 0xFFFFFF) = x.2.2) ∧ (layerState 0 1).imgOf ((layerState 0 1).plot 0) = wordImage := by decide +kernel

/-- Tokens for slots before, at and behind the slot of the plot, one for a slot three ahead. -/
def tokenState : State := { plotState (wordPlot .flume (.word .nop)) with canal := [3, 4, 5, 6, 7].map fun n => ⟨.hub n, 0, 2, 1, BitVec.ofNat 32 n⟩ }

theorem token_witness : tokenState.runs = true ∧ (tokenState.plot 0).seq = 4 ∧ tokenState.changing 0 = false ∧ tokenState.seepQuiet .plot 0 = true ∧
    ([3, 4, 5, 6, 7].all fun n => nextToken 0 2 1 (BitVec.ofNat 32 n) [] tokenState.canal = some ⟨.hub n, 0, 2, 1, BitVec.ofNat 32 n⟩) = true ∧
    nextToken 0 2 1 8 [] tokenState.canal = none ∧ nextToken 0 2 1 4 [] [⟨.hub 0, 0, 2, 1, 3⟩, ⟨.hub 0, 0, 2, 1, 4⟩] = none ∧ follows 3 (4 : Word) = false ∧ follows 7 (4 : Word) = true := by decide +kernel

/-- A PASS that overwrites the free tile 9, and one that accumulates into tile 0. -/
def passWord (dst : Nat) (first : Bool) : PassWord := ⟨0, false, 0, false, BitVec.ofNat 4 dst, first, true, true, true, 2⟩

theorem pass_witness : ∀ x ∈ [(9, true), (0, false)], let w := passWord x.1 x.2; let s := headState .flume (.pass w); let y := s.plot 0
    atHeadB s .flume (.pass w) (.word (.pass w)) = true ∧ y.tileSlots false 0 = 1 ∧ y.tileSlots true 0 = 1 ∧ (y.stage false 0).full = true ∧
    (y.stage true 0).full = true ∧ y.tileGate w none = .go ∧ y.passes.length < 2 := by decide +kernel

/-- Two passes in the array: the older one accumulates into tile 0. -/
def drainState : State := plotState { wordPlot .flume (.word .nop) with passes := [{ w := passWord 0 false }, { w := passWord 0 true }] }

theorem drain_witness : drainState.runs = true ∧ (drainState.plot 0).passes = [{ w := passWord 0 false }, { w := passWord 0 true }] ∧
    drainState.seepQuiet .plot 0 = true ∧ (drainState.plot 0).pendFail = none := by decide +kernel

/-- The operands of that pass are one value everywhere. -/
theorem drain_operands : (∀ m < 64, ∀ k < 64, (drainState.plot 0).opA (passWord 0 false) m k = (drainState.plot 0).opA (passWord 0 false) 0 0) ∧
    (∀ k < 64, ∀ n < 64, (drainState.plot 0).opB (passWord 0 false) k n = (drainState.plot 0).opB (passWord 0 false) 0 0) := by decide +kernel

/-- What the feeders deliver to that pass, and its cells, are zeros. -/
theorem drain_cells : (drainState.plot 0).cells (passWord 0 false) = List.replicate 65 (List.replicate 65 (.fin false 0 0)) := by
  have ha : (drainState.plot 0).opA (passWord 0 false) 0 0 = .fin false 0 (-24) := by decide +kernel
  have hb : (drainState.plot 0).opB (passWord 0 false) 0 0 = .fin false 0 (-24) := by decide +kernel
  have fa : ∀ m < 65, (List.range 64).map (fun k => (drainState.plot 0).feedA (passWord 0 false) m k)
      = List.replicate 64 (if m = 64 then .fin false 0 0 else .fin false 0 (-24)) := by
    intro m hm
    rw [List.map_congr_left (g := fun _ => if m = 64 then Num.fin false 0 0 else .fin false 0 (-24))]
    · simp
    · intro k hk
      have hk := List.mem_range.mp hk
      by_cases h : m = 64
      · simp only [Plot.feedA, h, if_true]
        rw [List.map_congr_left (g := fun _ => Num.fin false 0 (-24)) fun i hi => (drain_operands.1 i (List.mem_range.mp hi) k hk).trans ha]
        decide
      · simp only [Plot.feedA, h, if_false]
        exact (drain_operands.1 m (by omega) k hk).trans ha
  have fb : ∀ n < 65, (List.range 64).map (fun k => (drainState.plot 0).feedB (passWord 0 false) k n)
      = List.replicate 64 (if n = 64 then .fin false 0 0 else .fin false 0 (-24)) := by
    intro n hn
    rw [List.map_congr_left (g := fun _ => if n = 64 then Num.fin false 0 0 else .fin false 0 (-24))]
    · simp
    · intro k hk
      have hk := List.mem_range.mp hk
      by_cases h : n = 64
      · simp only [Plot.feedB, h, if_true]
        rw [List.map_congr_left (g := fun _ => Num.fin false 0 (-24)) fun i hi => (drain_operands.2 k hk i (List.mem_range.mp hi)).trans hb]
        decide
      · simp only [Plot.feedB, h, if_false]
        exact (drain_operands.2 k hk n (by omega)).trans hb
  simp only [Plot.cells]
  rw [List.map_congr_left (g := fun _ => List.replicate 65 (Num.fin false 0 0))]
  · simp
  · intro m hm
    rw [List.map_map, List.map_congr_left (g := fun _ => Num.fin false 0 0)]
    · simp
    · intro n hn
      simp only [Function.comp, fa m (List.mem_range.mp hm), fb n (List.mem_range.mp hn)]
      by_cases h1 : m = 64 <;> by_cases h2 : n = 64 <;> simp only [h1, h2, if_true, if_false] <;> decide

/-- The checks of that pass hold. -/
theorem drain_check_witness : ((drainState.plot 0).attempt (passWord 0 false) none).2.fails = false := by
  simp only [Plot.attempt, drain_cells]
  decide +kernel

/-- A FILL of either descriptor into an EMPTY slot, the last of its kind that fits. -/
def fillWord (desc : Nat) : FillWord := ⟨true, 14, BitVec.ofNat 12 desc, false, 0, 3⟩

theorem fill_witness : ∀ k ∈ [0, 1], let w := fillWord k; let s := headState .flume (.fill w); let y := s.plot 0; let u := s.wordTile y k false 0
    atHeadB s .flume (.fill w) (.word (.fill w)) = true ∧ y.fills.length < 8 ∧ y.fence = false ∧ (imgDesc (s.imgOf y) k).src = 0 ∧
    s.tileAccess 0 (imgDesc (s.imgOf y) k) u false = .ok := by decide +kernel

theorem fill_complete_witness : ∀ k ∈ [0, 1], let q : FillReq := ⟨true, 14, { desc := k }, 3⟩
    let s := plotState { wordPlot .flume (.word .nop) with fills := [q] }; let y := s.plot 0; let d := imgDesc (s.imgOf y) k
    let r := s.reachTile 0 d q.tile false; let e := r.1.enterStores 0 ((List.range (if d.fmt = 0 then 2 else 1)).map fun j => (1, 8 + q.slot + j))
    s.runs = true ∧ y.fills = [q] ∧ (e.1.plot 0).pendFail = none ∧ (y.stage true 14).full = false ∧ (y.stage true 15).full = false ∧ d.fmt = k ∧
    s.tileAccess 0 d q.tile false = .ok ∧ r.2 = true ∧ e.2 = true ∧ d.src = 0 ∧ s.seepQuiet .plot 0 = true ∧
    s.seepQuiet .memt (reachOf y.lplot) = true ∧ s.resvOk 0 (s.rowAddr y d q.tile 0).1 8 = true := by
  decide +kernel

theorem nest_witness : ∀ sel ∈ [StreamSel.flume, .furrow], ∀ n ∈ [0, 1], let w : NestWord := ⟨BitVec.ofNat 12 n, false, 0⟩; let s := headState sel (.nest w)
    atHeadB s sel (.nest w) (.word (.nest w)) = true ∧ (s.plot 0).fence = false ∧ imgNestKind wordImage n = n ∧
    (imgNest wordImage 0).denied = false ∧ (imgPair wordImage 1).res = false ∧ (imgPair wordImage 1).lag ≤ (imgNest wordImage 0).acount ∧ (imgPair wordImage 1).ifmt = 1 ∧
    (n = 1 → pairDenied wordImage (imgPair wordImage 1) ((imgNest wordImage 0).clip (fun _ => none) true) ((imgNest wordImage 0).clip (fun _ => none) false) = false) ∧
    (∀ k ∈ nestDescs wordImage n, (imgDesc wordImage k).src = 0) ∧ (imgNest wordImage 0).dctr = 3 := by decide +kernel

/-! ### Furrow words -/

/-- A furrow word with SRC1 0, SRC2 1 and DST 2, whose token names counter 2. -/
def furrowWord_ (fmt : Nat) (rel : Bool) : FurrowWord :=
  { src1 := 0, src2 := 1, dst := 2, fmt := BitVec.ofNat 4 fmt, sr := false, calib := false, x := 0, sig := true, sigc := 2, rel1 := rel, desc := 0,
    usep := false, preg := 0 }

/-- It stands at the head of the furrow stream of a plot whose tiles 0 to 6 are LIVE. -/
def computeState (op fop fmt : Nat) (rel : Bool) : State :=
  headState .furrow (.compute (BitVec.ofNat 4 op) (BitVec.ofNat 6 fop) (furrowWord_ fmt rel))

/-- What FurrowReady asks. -/
def furrowReadyB (op fop : Nat) (rel : Bool) : Bool :=
  let w := furrowWord_ 0 rel
  let s := computeState op fop 0 rel
  let it : ExpItem := .word (.compute (BitVec.ofNat 4 op) (BitVec.ofNat 6 fop) w)
  atHeadB s .furrow (.compute (BitVec.ofNat 4 op) (BitVec.ofNat 6 fop) w) it
  && s.fuGate 0 (s.plot 0) op fop w (s.fuTile (s.plot 0) w it).1 = .ok && s.seepQuiet .furrow 0 && s.seepQuiet .plot 0 && (s.plot 0).pendFail = none

theorem element_words_witness : ∀ rel, ([0x00, 0x01, 0x02, 0x03, 0x04, 0x05, 0x06, 0x07, 0x08, 0x09, 0x0B, 0x0C, 0x10, 0x20, 0x21, 0x22, 0x24,
      0x25, 0x26, 0x28, 0x29, 0x2A].all fun fop => furrowReadyB 9 fop rel) = true ∧
    ([0x00, 0x01, 0x0C, 0x0D, 0x18, 0x1D].all fun fop => furrowReadyB 8 fop rel) = true := by decide +kernel

theorem rstat_witness : let x := (computeState 8 0 0 false).plot 0; let src := x.tile 0
    src.rows = 2 ∧ src.cols = 2 ∧ (∀ r < 2, (({} : BankRow).combine (tileStat ((src.row r).take src.cols))).isSome = true ∧
      ((x.bankRow 1 r).combine (tileStat ((src.row r).take src.cols))).isSome = true) := by decide +kernel

theorem granted_words_witness : ([0x08, 0x09, 0x0A, 0x0B, 0x10, 0x11, 0x19, 0x1A, 0x1B, 0x1C].all fun fop => furrowReadyB 8 fop false) = true ∧
    ((List.range 10).all fun c => furrowReadyB 9 (0x30 + c) false) = true := by decide +kernel

/-- A word waits at its last row, or one of micro-programs at row 0. -/
def grantState (op fop : Nat) : State :=
  plotState { wordPlot .furrow (.word .nop) with fuRun := some ⟨BitVec.ofNat 4 op, BitVec.ofNat 6 fop, furrowWord_ 0 false, { desc := 0 }, false, 0, 1⟩ }

theorem grant_witness : [(8, 0x08), (8, 0x19), (9, 0x30)].all (fun x => let s := grantState x.1 x.2; let y := s.plot 0
    s.runs && y.running && y.fuRun.any (fun f => f.row < 64 && f.row + 1 = y.fuRows x.1 x.2 f.w) && y.sfuQ.isEmpty && y.pendFail = none
    && s.seepQuiet .sfu 0 && s.seepQuiet .furrow 0 && !y.microBusy && (y.tile 0).cols ≤ 64) = true ∧
    (let s := grantState 9 0x3A; let y := s.plot 0
     y.microBusy = false ∧ 1 < (y.tile 0).rows ∧ 0 < (y.tile 0).cols ∧ ((s.sfuLaneList 0).take (y.tile 0).cols).length = 2) := by decide +kernel

theorem conversions_witness :
    ([(0x01, false), (0x02, true)].all fun x => [0, 1].all fun f => let w := { furrowWord_ f true with dst := 6 }
      let it : ExpItem := .word (.compute 0xA (BitVec.ofNat 6 x.1) w); let s := plotState (wordPlot .furrow it); let y := s.plot 0
      atHeadB s .furrow (.compute 0xA (BitVec.ofNat 6 x.1) w) it && y.srcGate 0 = .ok && !convDenied w && !(y.stage x.2 6).full
      && !(y.stage x.2 7).full && s.seepQuiet .furrow 0 && s.seepQuiet .plot 0 && y.pendFail = none && (y.tile 0).rows ≤ 64) = true ∧
    ([((0xA : BitVec 4), 0, false), (0xC, 1, true)].all fun x => let w := { furrowWord_ x.2.1 x.2.2 with desc := BitVec.ofNat 12 x.2.1 }
      let it : ExpItem := .word (.compute x.1 0 w); let s := plotState (wordPlot .furrow it); let y := s.plot 0; let T := (s.fuTile y w it).1
      let d := imgDesc (s.imgOf y) T.desc
      atHeadB s .furrow (.compute x.1 0 w) it && y.srcGate 0 = .ok && !convDenied w && decide (w.fmt.toNat = d.fmt) && d.src = 0
      && s.tileAccess 0 { d with fmt := w.fmt.toNat } T true = .ok && (s.reachTile 0 d T true).2) = true ∧
    (let w := furrowWord_ 0 false; let it : ExpItem := .word (.compute 0xB 0 w); let s := plotState (wordPlot .furrow it); let y := s.plot 0
     let T := (s.fuTile y w it).1
     (atHeadB s .furrow (.compute 0xB 0 w) it && y.fuRun.isNone && !y.fence && (y.tile 2).st ≠ .pending && (y.tile 2).held = 0
      && s.tileAccess 0 (imgDesc (s.imgOf y) T.desc) T false = .ok && (s.reachTile 0 (imgDesc (s.imgOf y) T.desc) T false).2
      && ((s.reachTile 0 (imgDesc (s.imgOf y) T.desc) T false).1.enterStores 0 [(0, 2)]).2
      && s.seepQuiet .memt (reachOf y.lplot) && s.resvOk 0 (s.rowAddr y (imgDesc (s.imgOf y) T.desc) T 0).1 8) = true) := by decide +kernel

/-! ### Runnels -/

/-- Runnel 3 of plot 0 stands at an instruction word at address 0 of its scratch; a0 is 2, a1 is 64, and a2 is 7. -/
def runnelState (w : Nat) (x : Plot) (extra : List Host.Cell) : State :=
  let v : Runnel := { done := false, regs := [(10, 2), (11, 64), (12, 7)] }
  plotState { x with running := true, runnels := [(3, v)], scratch := cellsAt 0 (le 4 w) ++ extra }

/-- What AtCustom asks. -/
def atCustomB (w : Nat) : Bool :=
  let s := runnelState w {} []
  s.runs && (s.plot 0).runnelLive 3 && decide ((s.plot 0).fetch 3 = some (.custom w, 4)) && s.seepQuiet .plot 0

theorem runnel_arithmetic_witness : ((List.range 8).all fun f => [0, 31].all fun rd => atCustomB (rForm 0x2B 0 f rd 10 12)) = true ∧
    atCustomB (rForm 0x2B 1 0 31 10 12) = true ∧ ([8, 9, 10].all fun f => atCustomB (rForm 0x2B 0 f 31 10 0)) = true ∧
    ((List.range 16).all fun c => atCustomB (rForm 0x2B 2 c 31 10 0)) = true ∧
    ((List.range 10).all fun c => !(runnelState 0 {} []).sfuInvalid 0 c) = true := by decide +kernel

theorem runnel_grant_witness : ∀ code ∈ [(0 : Nat), 10], let q : SfuReq := ⟨3, BitVec.ofNat 4 code, 31, 0x3F800000⟩; let s := runnelState 0 { sfuQ := [q] } []
    s.runs = true ∧ (s.plot 0).microBusy = false ∧ (s.plot 0).fuRun = none ∧ (s.plot 0).sfuQ = [q] ∧ q.runnel < 80 ∧ 0 < s.sfuLanes 0 ∧
    s.seepQuiet .sfu 0 = true := by
  decide +kernel

/-- A program that serves a runnel, or a lane of the row at which a furrow word waits, with an argument left or none. -/
def microState (user : MicroUser) (next : Nat) : State :=
  plotState { wordPlot .furrow (.word .nop) with
    micro := [(0, { regs := [(0, 5)], user := some user })], mpNext := next,
    fuRun := some ⟨9, 0x3A, furrowWord_ 0 false, { desc := 0 }, false, 0, 1⟩ }

/-- Whatever micro-op word the table image holds where the lane stands, the row of its OP finds itself spelled by that word's fields. -/
theorem micro_witness : let s := microState (.runnel 3 5) 2; let l := sget ({} : MicroLane) (s.plot 0).micro 0; let w := s.microWordAt 0 l
    let f := microField w; let imm := BitVec.ofNat 15 w
    s.runs = true ∧ l.user.isSome = true ∧ ∀ op, w / 2 ^ 27 = op → spellsDA w op (f 24) (f 21) = true ∧ spellsDAB w op (f 24) (f 21) (f 18) = true ∧
      spellsDABC w op (f 24) (f 21) (f 18) (f 15) = true ∧ w % 64 = imm.toNat % 64 ∧ w % 512 = imm.toNat % 512 ∧ w % 16 = imm.toNat % 16 := by
  refine ⟨by decide +kernel, by decide +kernel, ?_⟩
  rintro op rfl
  refine ⟨by simp [spellsDA], by simp [spellsDAB, spellsDA], by simp [spellsDABC, spellsDAB, spellsDA], ?_, ?_, ?_⟩ <;>
    simp only [BitVec.toNat_ofNat] <;> omega

theorem micro_end_witness : (∀ next ∈ [(1 : Nat), 2], let s := microState (.row 0) next; let x := s.plot 0
    s.runs = true ∧ (sget ({} : MicroLane) x.micro 0).user = some (.row 0) ∧ x.running = true ∧ s.seepQuiet .furrow 0 = true ∧ x.pendFail = none ∧
    x.mpNext = next ∧ ({ x with micro := sput ({} : MicroLane) x.micro 0 {} } : Plot).microBusy = false ∧
    x.fuRun.map (fun f => (rowAsk 9 0x3A (s.rowIn 0 9 0x3A f.w f.tile f.reset f.row)).length) = some 2) ∧
    (let s := microState (.runnel 3 5) 2
     (sget ({} : MicroLane) (s.plot 0).micro 0).user = some (.runnel 3 5)) := by decide +kernel

theorem runnel_control_witness : ([rForm 0x0B 0 0 0 10 0, rForm 0x0B 1 0 31 10 12, 0x0B + 31 * 2 ^ 7 + 2 * 2 ^ 12 + 10 * 2 ^ 15 + 0xFFF * 2 ^ 20,
      0x0B + 31 * 2 ^ 7 + 3 * 2 ^ 12 + 10 * 2 ^ 15 + 12 * 2 ^ 20 + 127 * 2 ^ 25, rForm 0x0B 4 0 31 11 0, rForm 0x0B 5 0 0 0 0,
      rForm 0x0B 6 0 0 0 0].all atCustomB) = true := by decide +kernel

/-- A move descriptor at address 64: 16 bytes from or to element 0 of tile 2, or of Cistern at an address the image's window covers. -/
def moveBytes (tile out : Bool) : List Byte :=
  le 16 ((if tile then 2 + 1 <<< 48 else 0x10000000) + (if out then 1 <<< 50 else 0) + 128 <<< 64 + 16 <<< 80)
def windowImage : List Byte := le 32 0 ++ le 64 1 ++ le 32 (128 <<< 160) ++ le 16 (0x10000000 + 2 <<< 48 + 4096 <<< 64)
def moveState (tile out : Bool) (moves : List Move) : State :=
  let x : Plot := { tiles := [(2, { st := .live, data := [1, 2] })], moves := moves }
  let s := runnelState (rForm 0x0B 4 0 31 11 0) x (cellsAt 64 (moveBytes tile out))
  { s with rot := { parts := [(0, { act := cycleOf 1, slot := { phase := .running, img := windowImage } })] } }

theorem move_witness : [true, false].all (fun tile => [true, false].all fun out => let s := moveState tile out []; let x := s.plot 0
    (x.fetch 3).isSome && (parseMove 3 (x.scratchBytes 3 64 16)).any (fun m => m.tile = tile && m.toRemote = out && m.len = 16
      && (!tile || ((x.tile (m.addr % 16)).st = .live && (x.tile (m.addr % 16)).held = 0 && !x.fence))
      && (tile || s.masAccess x m.toRemote m.addr m.len = .ok))) = true := by decide +kernel

theorem move_complete_witness : [true, false].all (fun tile => [true, false].all fun out =>
    let m : Move := ⟨3, tile, out, if tile then 2 else 0x10000000, 128, 16⟩; let s := moveState tile out [m]; let x := s.plot 0
    s.runs && x.running && s.seepQuiet .plot 0 && (x.moves.find? fun y => y.runnel = 3) = some m
      && (tile || (s.masAccess x out m.addr m.len = .ok && !s.changingAt (s.masStation m.addr) && (s.cross (.plot 0) (s.masStation m.addr)).2
        && [EccOutcome.clean, .corrected].all fun e => ((s.cross (.plot 0) (s.masStation m.addr)).1.moveRead 0 m e).2))) = true := by decide +kernel

/-! ### Lifts, Cistern and tables -/

/-- An image with two lift entries of reach 0 that write 64 bytes to plot 0: STAGE from Cistern, STAGE_IX from an index at offset 128. -/
def liftImage : List Byte :=
  le 20 0 ++ le 12 1 ++ le 64 1 ++ le 32 ((128 <<< 160) + (144 <<< 192)) ++ le 16 (0x10000000 + 1 <<< 48 + 4096 <<< 64) ++ le 16 2
  ++ le 64 (0x10000000 <<< 64 + 1 <<< 112 + 1 <<< 128 + 1 <<< 192)
  ++ le 64 (1 + 2 <<< 16 + 3 <<< 24 + 0x10000000 <<< 64 + 1 <<< 112 + 1 <<< 128 + 1 <<< 192 + 128 <<< 288)

/-- A running slot of that image, with lifts started, in flight, and late periods. -/
def liftState_ (started : List Nat) (runs : List LiftRun) (late : Sparse Nat) : State :=
  let sl : Slot := { phase := .running, img := liftImage, liftStarted := started, latePeriods := late }
  { rot := { parts := [(0, { act := cycleOf 1, slot := sl, lifts := runs })] }, plots := [(0, { ctr := [(2, 0)] })] }

def liftRun (k : Nat) (src : Nat) : LiftRun := { entry := k, reach := 0, bytes := (liftImage.drop (liftEntry liftImage k)).take 64, src := src, seq := 0 }

theorem lift_witness : [(0, ([] : List Nat)), (1, [0])].all (fun x => let s := liftState_ x.2 [] []; let r := liftRun x.1 0
    s.runs && (s.part 0).slotRuns && decide (s.inFlight 0 < 16) && nextLift liftImage 0 x.2 = some x.1 && s.gateOpen 0 r && !s.liftHeld 0 r
    && decide (s.liftSource 0 r = (true, 0x10000000, s)) && s.masRow 0x10000000 = 0 && !r.keep && decide (r.doff + r.len ≤ imgBudget liftImage * 65536)
    && !s.rangeHeld 0x10000000 r.len && s.cisOpen 0x10000000 r.len && !s.linkSeeps
    && (let s1 := (s.setPart 0 { s.part 0 with slot := { (s.part 0).slot with liftStarted := x.2 ++ [x.1] } }).setLifts 0 fun l => l ++ [liftRun x.1 0x10000000]
        s1.masRights liftImage (s1.slotRegion 0) false false 0x10000000 r.len = .ok && (s1.cisRead (some 0) 0x10000000 r.len).1 = stOk)
    && liftKind liftImage x.1 = x.1 && r.f 0 0 2 = x.1 && s.maskPlots 0 r = [0] && decide (0 < r.len)) = true := by decide +kernel

/-- A WARM entry in flight whose one unit is READY. -/
def warmRun : LiftRun := { entry := 0, reach := 0, bytes := le 64 (2 + 1 <<< 192), src := aqBase, seq := 0 }

theorem warm_witness : let s : State := { rot := { parts := [(0, { lifts := [warmRun] })] }, aqf := { wc := [(7, { st := .ready })] } }
    s.runs = true ∧ (s.part 0).lifts = [warmRun] ∧ warmRun.f 0 0 2 = 2 ∧ warmRun.f 3 0 6 = 0 ∧ s.liftHeld 0 warmRun = false ∧
    s.masRow aqBase = 2 ∧ s.absentUnits (aqUnitsOf aqBase warmRun.len) = [] ∧ s.unitsReady (aqUnitsOf aqBase warmRun.len) = true := by decide +kernel

/-- A slot that runs on plot 0, which waits for a token of a lift: LMASK names counter 2, and the image allows 5 late periods. -/
def lateState (waits : Bool) : State :=
  let img := le 20 0 ++ le 12 1 ++ le 32 0 ++ le 32 0 ++ le 32 ((128 <<< 160) + (144 <<< 192)) ++ le 16 0 ++ le 16 (5 <<< 32 + 4 <<< 64)
  let sl : Slot := { phase := .running, img := img, latePeriods := [(0, 4)] }
  { rot := { parts := [(0, { act := cycleOf 1, slot := sl })] },
    plots := [(0, { running := true, flume := { exp := [if waits then .word (.wait ⟨2, 1⟩) else .word .nop] } })] }

theorem late_witness : ∀ w ∈ [true, false], let s := lateState w
    s.runs = true ∧ (s.part 0).slot.phase = .running ∧ sget 0 (s.part 0).slot.latePeriods 0 = 4 ∧ liftTol (s.part 0).slot.img = 5 ∧
    ((s.partPlots 0).any fun l => reachOf l = 0 && s.liftWaits (s.physOf l)) = w := by decide +kernel

/-- A unit that is being filled from a VALID extent, or from none, for the entry of a lift. -/
def fillState (valid : Bool) : State :=
  { rot := { parts := [(0, { lifts := [warmRun] })] },
    aqf := { wc := [(7, { st := .filling })], extents := if valid then [(1, { st := .valid, units := 4 })] else [] } }

theorem aquifer_read_witness : ∀ v ∈ [true, false], let s := fillState v
    s.runs = true ∧ s.masRow aqBase = 2 ∧ s.wcFind 0 = some 7 ∧ (s.wcUnit 7).st = .filling ∧ s.seepQuiet .memt 0 = true ∧
    s.unitValid 0 = v ∧ (s.part 0).lifts.find? (fun r => r.reach = 0 && (aqUnitsOf r.src r.len).contains 0) = some warmRun := by decide +kernel

theorem aquifer_dies_witness (v : Bool) : (fillState v).retiredIn aqBase = [] := by
  have h : ∀ c < 32, State.rd (fillState v) AQ_CH_CTL_DIE_RETIRED c = 0 ∧ State.rd (fillState v) AQ_CH_CTL_RATE c ≠ 3 := by
    cases v <;> decide +kernel
  simp only [State.retiredIn, List.filter_eq_nil_iff, List.mem_range]
  intro c hc
  rw [(h c hc).1, Nat.zero_testBit]
  simpa using (h c hc).2

/-- Channel 0, at which Cistern address 0x20020000 lies, in a state, with failed retrainings; channel 9 in REPAIR where `other`. -/
def channelState (st fails : Nat) (other : Bool) : State :=
  let s := (({} : State).wr CIS_CH_CTL_STATE 0 st).wr CIS_CH_CTL_FAILS 0 fails
  if other then s.wr CIS_CH_CTL_STATE 9 chRepair else s

theorem cistern_witness : [chOnline, chRetraining].all (fun st => let s := channelState st 0 false
    s.runs && decide (0x20020000 < s.cisEnd) && !inSystemArea 0x20020000 && !s.inParity 0x20020000 1 && s.chanHome 0x20020000 = 0
    && s.chanServes 0 = decide (st = chOnline) && s.chanState 0 = st && s.seepQuiet .cistern 0) = true ∧
    (let s := channelState chOnline 0 false
     let c := (s.bump ctrAdds 0).cacheBlock 0 (0x20020000 / 64)
     c.1 = false ∧ ((c.2.bump ctrAddMisses 0).readBlock 0x20020000 .clean).1 = stOk ∧
     [EccOutcome.clean, .corrected].all (fun e => ((s.grant_ 0 0).readBlocks 0x20020000 e 4).1 = stOk) = true ∧
     ((s.grant_ 0 0).readBlocks 0x20020000 .uncorrectable 4).1 ≠ stOk) := by
  decide +kernel

theorem channels_witness :
    (channelState chOnline 0 false).groupBusy 0 = false ∧ ((channelState chOnline 0 false).wr CIS_CH_CTL_STATE 7 chRetraining).groupBusy 0 = true ∧
    (channelState chOnline 0 false).cis.retrainWait = [] ∧ (channelState chOnline 0 false).chanState 1 = chOnline ∧
    ([0, 1, 2].all fun f => [true, false].all fun o => let s := channelState chRetraining f o
      s.runs && s.chanState 0 = chRetraining && s.rd CIS_CH_CTL_FAILS 0 = f && s.inject.isEmpty && s.queue 0 = []
      && s.otherOut 0 = o) = true ∧
    (let s := channelState chRepair 0 false
     s.chanState 0 = chRepair ∧ s.groupBusy 0 = false ∧ s.queue 0 = [] ∧ s.flag CIS_MAP_RETIRED = false ∧
     (s.wr CIS_MAP_RETIRED 0 1).flag CIS_MAP_RETIRED = true ∧ (s.wr CIS_MAP_RETIRED 0 1).chanState 0 = chRepair ∧
     s.flag CIS_PROT_ENABLE = false ∧ (s.wr CIS_PROT_ENABLE 0 1).flag CIS_PROT_ENABLE = true) := by decide +kernel

/-- A table image at the address of SFU_TBL_ADDR. -/
def tableState (loading : Bool) : State :=
  let c : Component := { kind := 4, svn := 1, addr := 0, measure := 77 }
  { wm := { sfuCopies := [c] }, sfu := { loading := if loading then some (0x3FF, c) else none } }

theorem tables_witness : (tableState false).runs = true ∧ (tableState false).tblCopy.isSome = true ∧ (tableState false).sfu.loading = none ∧
    (tableState false).rd SFU_SWITCH_PENDING_PEND = 0 ∧ (0x3FF : BitVec 11).getLsbD 10 = false ∧ State.reset.tblCopy = none ∧
    (tableState true).sfu.loading.isSome = true ∧ (State.reset.wr SFU_TBL_CTL_LOAD_DONE 0 1).flag SFU_TBL_CTL_LOAD_DONE = true := by decide +kernel

/-! ### Power and the levee -/

theorem power_witness : State.reset.runs = true ∧ State.reset.flag PWR_CTL_METER = false ∧
    (State.reset.wr PWR_CTL_METER 0 1).flag PWR_CTL_METER = true ∧ State.reset.rd HG_STATUS_LEVEL 0 = 0 ∧ State.reset.rd HG_STATUS_LEVEL 1 = 0 ∧
    State.reset.seepQuiet .pwr 0 = true := by decide +kernel

/-- A rail whose window holds samples at a level. -/
def gateState (k c : Nat) : State := ({ pwr := { gates := [(0, { samples := [c] })] } } : State).wr HG_STATUS_LEVEL 0 k

theorem headgate_witness : 6001 > ratedCurrent 0 ∧ 6000 ≤ ratedCurrent 0 ∧ unpaced 0 = false ∧ unpaced 2 = true ∧
    ([(0, 5000), (11, 5000), (12, 0)].all fun x => let s := gateState x.1 x.2
      s.runs && s.seepQuiet .pwr 0 && s.rd HG_STATUS_LEVEL 0 = x.1 && (x.1 < 12 || x.2 = 0)) = true := by decide +kernel

/-- A rail at full throttle that has been above its limit for all but one sample of its window. -/
theorem headgate_trip_witness :
    let s : State := State.wrs { pwr := { gates := [(0, { samples := [6000], overFor := 200 })] } } 0 [(HG_STATUS_LEVEL, 12), (HG_CTL_LIMIT, 100)]
    s.runs = true ∧ s.seepQuiet .pwr 0 = true ∧ s.rd HG_STATUS_LEVEL 0 = 12 ∧ s.hgLimit 0 * 2 < 12000 ∧ s.hgWindow 0 ≤ 201 := by decide +kernel

theorem thermal_witness : ([0, 1, 2].all fun n => let s : State := { pwr := { hotRun := n } }
    s.runs && s.seepQuiet .pwr 0 && s.pwr.hotRun = n) = true := by decide +kernel

/-- An idle module, READY, with a tolerance in microseconds. -/
def idleState (tol : Nat) : State := ((({ boot := { ready := true } } : State).wr PWR_IDLE_TOL_US 0 tol).wr PWR_SAVE_ENABLE 0 1).wr PWR_IDLE_DRY_OK 0 1

theorem idle_witness : ([(249, Depth.still), (250, .pooled), (40000, .drained), (5000000, .dry)].all fun x => let s := idleState x.1
    s.runs && s.boot.ready && s.pwr.depth = .awake && s.deviceIdle && s.nextDepth = x.2) = true := by decide +kernel

theorem wake_witness :
    ([Depth.still, .pooled, .drained, .dry].all fun d => let s : State := { pwr := { depth := d } }
      s.runs && [WakeEvent.dexPacket, .cfPacket, .lanes].any (fun e => wakes e s.pwr.depth) && s.boot.held = [] && s.pwr.entering = none) = true ∧
    (let s : State := { pwr := { depth := .still, entering := some .dry } }; s.runs = true ∧ wakes .register s.pwr.depth = true ∧ s.boot.held = []) ∧
    wakes .cfPacket .drained = false ∧
    ([Depth.drained, .dry].all fun d => let s : State := { pwr := { depth := .still, entering := some d } }
      s.runs && s.pwr.entering = some d) = true := by decide +kernel

/-- Entry 5 moved from its plot to spare 513, whose column reads or does not. -/
theorem map_witness : State.reset.physOf 5 = 160 ∧ 32 * getBits 0x201 5 6 + getBits 0x201 0 5 = 513 ∧ State.reset.columnReads 160 = true ∧
    State.reset.mem.wf = true ∧ (State.reset.wr LEVEE_PLOT_PLOT 160 1).columnReads 160 = false ∧ State.reset.partOf 5 = none := by decide +kernel

theorem levee_witness : regAt (regOff .leveePlot 1055) = some (.leveePlot, 1055) ∧ leveeKind .leveePlot = true ∧
    State.reset.plotPart 1055 = none ∧ State.reset.partOf 1023 = none ∧ State.reset.runs = true := by decide +kernel

/-- Plot 40 is named by PLOT_TEST; TEST is set, and a test runs, or not. -/
def testState (test busy : Nat) : State := ((State.reset.wr PLOT_TEST_PPLOT 0 40).wr LEVEE_PLOT_TEST 40 test).wr PLOT_TEST_BUSY 0 busy

theorem plot_test_witness : ([0, 1].all fun t => [0, 1].all fun b => let s := testState t b
    s.runs && s.rd PLOT_TEST_PPLOT = 40 && s.flag LEVEE_PLOT_TEST 40 = decide (t = 1) && s.flag PLOT_TEST_BUSY = decide (b = 1)) = true := by
  decide +kernel

/-! ### Registers and management -/

/-- RING_CTL of an enable with both logs in or out of range. -/
theorem ring_enable_witness : ringLogsBad (6 + 16 <<< 5) = false ∧ ringLogsBad (16 + 16 <<< 5) = false ∧ ringLogsBad (5 + 16 <<< 5) = true ∧
    ringLogsBad (7 + 6 <<< 5) = true ∧ State.reset.runs = true ∧ State.reset.flag RING_CTL_ENABLE 4095 = false ∧
    State.reset.flag RING_STATUS_ACTIVE 4095 = false ∧ (State.reset.wr RING_STATUS_ACTIVE 7 1).flag RING_STATUS_ACTIVE 7 = true ∧
    (State.reset.wr RING_CTL_ENABLE 7 1).flag RING_CTL_ENABLE 7 = true := by decide +kernel

theorem counters_witness : ([0x1000, 0x1200, 0x1A00].all fun b => (ctrBlockAt b).any fun x => x.2 = b) = true ∧
    ((ctrBlockAt 0x1620).any fun x => decide (x.1.domain ((0x1620 - x.2) / 8) ≠ 15 ∧ (0x1620 - x.2) / 8 < 60)) = true ∧
    0x1620 ≠ regOff .refGauge 0 ∧ 0x1620 ≠ regOff .codecGauge 0 := by decide +kernel

theorem gauges_witness : ([REF_GAUGE_VALUE, CODEC_GAUGE_VALUE].all fun g => decide (State.reset.rd g ≠ ctrMax)
    && decide (regOff g.reg 0 < 2 ^ 32)) = true := by decide +kernel

theorem access_witness : (4 : BitVec 32).toNat % 8 ≠ 0 ∧
    (State.reset.accessNow .operator 8 = false ∧ State.reset.accessNow .firmware 8 = true ∧
     servingState.accessNow .operator (regOff .thermCtl 0) = true ∧ regAt (regOff .thermCtl 0) = some (.thermCtl, 0) ∧
     regOff .thermCtl 0 < diagBase ∧ regOff .thermCtl 0 % 8 = 0) := by decide +kernel

theorem diag_witness : diagOf (diagBase + 1055 * 2 ^ 20 + 0x3FFF8) = some (1055, 0x3FFF8) ∧ State.reset.plotPart 1055 = none ∧
    (diagBase + 1055 * 2 ^ 20 + 0x3FFF8) % 8 = 0 ∧ diagBase + 1055 * 2 ^ 20 + 0x3FFF8 < 2 ^ 32 := by decide +kernel

/-- A seep of a kind, armed for a target, that has let some events through. -/
def seepState (k : SeepKind) (w : DWord) (n : Nat) : State := { armed := [(regOff (seepReg k) 3, w)], seen := if n = 0 then [] else [(regOff (seepReg k) 3, n)] }

theorem seep_witness : ([(SeepKind.flume, 3, 0), (.furrow, 5, 2), (.pwr, 1, 0), (.cistern, 3, 65535)].all
    fun x => let w : DWord := BitVec.ofNat 64 (1 + 4 * x.2.1 + 2 ^ 32 * x.2.2)
      let s := seepState x.1 w x.2.2
      s.runs && s.seepArmed x.1 3 && decide (seepDelay (s.armedWord x.1 3) ≤ s.seepSeen x.1 3) && !seepPersists (s.armedWord x.1 3)
        && (x.2.2 = 0 || decide ((seepState x.1 w 0).seepSeen x.1 3 < seepDelay w))) = true ∧
    (seepState .pwr 7 0).seepArmed .pwr 3 = true ∧ seepPersists ((seepState .pwr 7 0).armedWord .pwr 3) = true ∧
    State.reset.seepArmed .flume 3 = false := by decide +kernel

/-- A module that has stopped, one in Dry, one that runs on its rails, and one held by RESET_N. -/
def bootState (stopped rails low : Bool) (d : Depth) : State :=
  { boot := { stopped := stopped, railsUp := rails, resetLow := low, kind := 1 }, pwr := { depth := d } }

theorem management_witness : (bootState true false false .awake).runs = false ∧ (bootState false true true .awake).runs = false ∧
    (bootState false true false .awake).runs = true ∧ (bootState false false false .dry).pwr.depth = .dry ∧
    (bootState false true true .awake).boot.kind = 1 ∧ State.reset.boot.portUp = false ∧ State.reset.boot.step ≠ 13 ∧
    (regAt (regOff .rstCause 0)).isSome = true ∧ regOff .rstCause 0 % 8 = 0 ∧ leNat (leBytes 4 (regOff .rstCause 0)) = regOff .rstCause 0 ∧
    State.reset.readWaits (regOff .rstCause 0) = false ∧ (let s : State := { boot := { ready := true }, pwr := { depth := .drained } }
      s.readWaits (regOff .thermCtl 0) = false ∧ s.readWaits (regOff .rotCtl 0) = true) ∧
    regAt (regOff .rotCtl 0) = some (.rotCtl, 0) ∧ keepsReg rkPin .rotCtl = false := by
  decide +kernel

/-! ### Values -/

/-! ### Values of the manual and of the standards it names -/

/-- R332's border cases on a picture of 30 x 30. -/
theorem test_conv_borders : convExtent 30 2 1 7 1 4 = 7 ∧ convExtent 30 0 0 2 1 4 = 8 ∧ convExtent 30 0 0 15 2 4 = 1 ∧
    convExtent 30 2 1 15 3 4 = 0 := by decide

/-- R292: page size of RWM-08. -/
theorem test_page_bytes : pageBytesOf (0x0007_353F_2008 : BitVec 256) = 270336 := by decide +kernel

/-- R99: steps 32 and 33 of the compensated integrator. -/
theorem test_compensated : compUpdate 0x3F800000 0xB2F80000 0x3F800000 0xB0800000 = (0x3F800000, 0xB3000000) ∧
    compUpdate 0x3F800000 0xB3000000 0x3F800000 0xB0800000 = (0x3F7FFFFF, 0x32F80000) := by decide +kernel

/-- R93: 1.3 as E5M2 under two draws. -/
theorem test_stochastic : (elemEnc 6 (.stochastic 0xD000) (dec32 0x3FA66666)).1 = 0x3E ∧
    (elemEnc 6 (.stochastic 0x1234) (dec32 0x3FA66666)).1 = 0x3D := by decide +kernel

/-- The generator's known answer at counter and key 0. -/
theorem test_philox : philox 0 0 0 0 0 0 = (0x6627E8D5, 0xE169C58D, 0xBC57AC4C, 0x9B00DBD8) := by decide +kernel

/-- CRC-32C of the nine digits, and SHA-384 of "abc". -/
theorem test_crc : crc32c [0x31, 0x32, 0x33, 0x34, 0x35, 0x36, 0x37, 0x38, 0x39] = 0xE3069283 := by decide +kernel
theorem test_sha : sha384 [0x61, 0x62, 0x63] = 0xcb00753f45a35e8bb5a03d699ac65007272c32ab0eded1631a8b605a43ff5bed8086072ba1e7cc2358baeca134c825a7 := by
  decide +kernel

/-- CMIX_T as the manual encodes it, and PC.TWAIT of a0 and a1 into a2. -/
theorem test_words : decodeWord .furrow 0x99A6000000000000 = some (.compute 9 0x26
      { src1 := 9, src2 := 8, dst := 0, fmt := 0, sr := false, calib := false, x := 0, sig := false, sigc := 0, rel1 := false, desc := 0,
        usep := false, preg := 0 }) ∧
    rvDecode 0x00B5160B = .custom 0x00B5160B ∧ rForm 0x0B 1 0 12 10 11 = 0x00B5160B := by decide +kernel

/-- The pass of the faulty-sum example: INT8 rows 0 and 1. -/
def faultyPlot : Plot :=
  { rowStage := [(0, { full := true, fmt := 11, data := [3, 0xFE] ++ List.replicate 62 0 ++ [5, 4] })],
    bank := [(0, { full := true, fmt := 11, data := [7, 1] ++ List.replicate 62 0 ++ [0xFA, 2] })] }

/-- A cell's exact sum from what the feeders deliver. -/
def faultyCell (m n : Nat) : Num := sumNum ((List.range 64).map fun k => (faultyPlot.feedA (passWord 0 true) m k).mul (faultyPlot.feedB (passWord 0 true) k n))

theorem test_pass_sums : ([(0, 0), (0, 1), (1, 0), (1, 1)].map fun x => drained 0 (faultyCell x.1 x.2))
    = [0x42040000, 0xBF800000, 0x41300000, 0x41500000] := by decide +kernel

/-- The checksum cells and the corner of the same pass. -/
theorem test_pass_checksums : ([(0, 64), (1, 64), (64, 0), (64, 1), (64, 64)].map fun x => drained 0 (faultyCell x.1 x.2))
    = [0x42000000, 0x41C00000, 0x42300000, 0x41400000, 0x42600000] := by decide +kernel

/-- The 65 x 65 sums of that pass. -/
def faultySums : List (List Num) :=
  let z : Num := .fin false 0 0
  let row := fun (a b c : Num) => a :: b :: (List.replicate 62 z ++ [c])
  row (.fin false 33 0) (.fin true 1 0) (.fin false 32 0) :: row (.fin false 11 0) (.fin false 13 0) (.fin false 24 0)
    :: (List.replicate 62 (row z z z) ++ [row (.fin false 44 0) (.fin false 12 0) (.fin false 56 0)])

/-- The seep at cell (1, 0), bit 4: row check 1 and column check 0 fail and no other; without it none does. -/
theorem test_pass_check :
    (let c := checkCells (faultCells faultySums 0 (BitVec.ofNat 64 (1 + 16 + 4 * 2 ^ 16))) false; (c.rows, c.cols, c.corner)) = ([1], [0], false) ∧
    (checkCells faultySums false).fails = false := by decide +kernel

/-- The wrap on ring 12: the doorbell of SQ_TAIL 1. -/
theorem test_doorbell :
    let s := (((({ boot := { ready := true } } : State).wr RING_CTL_ENABLE 12 1).wr RING_CTL_SQ_LOG 12 6).wr RING_CTL_CQ_LOG 12 6).wrs 12
      [(RING_STATUS_SQ_HEAD, 62), (RING_STATUS_SQ_TAIL, 62)];
    (match exec (.doorbell 0 12 0x0001000000000001) s with | .next t => t.rd RING_STATUS_SQ_TAIL 12 | _ => 0) = 1 := by decide +kernel

end Sys2Proof.Machine
end

section
/-! SUPPORT for the end of slots and of operations: slot boundaries, the page-table queue, and an operation that fails, each as what it
leaves. -/

namespace Sys2Proof.Machine

/-! ### Slot boundaries and IDLE (R477, R481) -/

/-- At a slot boundary without new fields to take, nothing changes (R481). -/
theorem State.boundary_settled (s : State) {p : Nat} (h : (s.part p).toTake = none) : s.boundary p = s := by
  simp [State.boundary, h]

section
variable (s : State)
@[simp] theorem State.restage_mem : s.restage.mem = s.mem := by
  unfold State.restage; dsimp only; split_ifs
  · rfl
  · exact State.bump_mem _ _ _ _
@[simp] theorem State.restage_host : s.restage.host = s.host := by
  unfold State.restage; dsimp only; split_ifs
  · rfl
  · exact State.bump_host _ _ _ _
@[simp] theorem State.restage_rot : s.restage.rot = s.rot := by
  unfold State.restage; dsimp only; split_ifs
  · rfl
  · exact State.bump_rot _ _ _ _
@[simp] theorem State.restage_plots : s.restage.plots = s.plots := by
  unfold State.restage; dsimp only; split_ifs
  · rfl
  · exact State.bump_plots _ _ _ _
end

/-- IDLE follows the slot; where no fence waits, no fence is made. -/
theorem State.syncIdle_unfenced (s : State) (p : Nat) (h : s.lev.pend = []) :
    s.syncIdle p = (s.wr ROT_PART_IDLE p (if (s.part p).slot.phase = .idle then 1 else 0)).restage := by
  unfold State.syncIdle
  dsimp only
  rw [State.wr_lev, h]
  unfold State.fencePending
  rfl

/-- Counting leaves every other counter. -/
theorem State.count_bump_other (s : State) {c d : Ctr} {n m : Nat} (k : Nat) (h : d.off m ≠ c.off n) :
    (s.bump c n k).count d m = s.count d m := by
  have hr : ∀ (t : State) (e : Nat), (t.raise e).ctrs = t.ctrs := fun t e => by rw [State.raise_only]
  unfold State.bump
  dsimp only
  split_ifs <;> simp [State.count, hr, sget_sput_other, h]

theorem State.count_restage (s : State) {c : Ctr} {n : Nat} (h : c.off n ≠ ctrStageChanges.off 0) :
    s.restage.count c n = s.count c n := by
  unfold State.restage
  dsimp only
  rw [State.count_wr]
  split_ifs
  · rfl
  · rw [State.count_bump_other _ _ h]; rfl

/-! ### Edits handed to the page-table queue (R305) -/

/-- Submitting edits changes the queue and the operations. -/
theorem State.submitEdits_only (s : State) (es : List Edit) :
    ∃ q h, s.submitEdits es = { s with edits := q, host := h } := by
  induction es generalizing s with
  | nil => exact ⟨_, _, rfl⟩
  | cons e es ih =>
    have h1 : ∃ q h, s.submitEdit e = { s with edits := q, host := h } := by
      unfold State.submitEdit
      dsimp only
      split
      · split <;> exact ⟨_, _, rfl⟩
      · exact ⟨_, _, rfl⟩
    obtain ⟨q, h, h1⟩ := h1
    obtain ⟨q', h', h2⟩ := ih (s.submitEdit e)
    exact ⟨q', h', by rw [State.submitEdits, h2, h1]⟩

/-- Of an operation, submitting edits changes the writes it waits for. -/
theorem State.op_submitEdits (s : State) (es : List Edit) {q : RingNo} {n : Seq} {o : Op} (h : s.op? q n = some o) :
    ∃ k, (s.submitEdits es).op? q n = some { o with unacked := k } := by
  induction es generalizing s o with
  | nil => exact ⟨_, h⟩
  | cons e es ih =>
    have h1 : ∃ k, (s.submitEdit e).op? q n = some { o with unacked := k } := by
      unfold State.submitEdit
      dsimp only
      split
      · rename_i q' n' _
        split
        · rename_i o' ho'
          by_cases hqn : q' = q ∧ n' = n
          · obtain ⟨rfl, rfl⟩ := hqn
            have ho : s.op? q' n' = some o' := ho'
            obtain rfl : o = o' := by simpa [h] using ho
            obtain ⟨h2, h3⟩ := s.op_ring h
            exact ⟨_, State.op_setOp _ _ ho' h2 h3⟩
          · obtain ⟨h2, h3⟩ := State.op_ring _ ho'
            refine ⟨o.unacked, ?_⟩
            rw [State.op_setOp_other _ _ (by rwa [h2, h3])]
            exact h
        · exact ⟨_, h⟩
      · exact ⟨_, h⟩
    obtain ⟨k, h1⟩ := h1
    obtain ⟨k', h2⟩ := ih _ h1
    exact ⟨k', h2⟩

/-! ### The end of an operation without effect (R64, R488) -/

theorem State.dropOpenSets_only (s : State) (n p : Nat) (os : List Nat) :
    ∃ c q, s.dropOpenSets n p os = { s with ctx := c, pools := q } := by
  induction os generalizing s with
  | nil => exact ⟨_, _, rfl⟩
  | cons o os ih =>
    unfold State.dropOpenSets
    dsimp only
    split
    · split_ifs
      · obtain ⟨c, q, h⟩ := ih (s.setOwner n o { s.owner n o with current := none })
        exact ⟨c, q, h⟩
      · obtain ⟨c, q, h⟩ := ih ((s.setPool p ((s.pool p).decSet _)).setOwner n o { s.owner n o with openSet := none, current := none })
        exact ⟨c, q, h⟩
    · obtain ⟨c, q, h⟩ := ih (s.setOwner n o { s.owner n o with current := none })
      exact ⟨c, q, h⟩

theorem State.releaseUpdate_only (s : State) (o : Op) : ∃ c, s.releaseUpdate o = { s with ctx := c } := by
  unfold State.releaseUpdate
  dsimp only
  split_ifs
  · split <;> exact ⟨_, rfl⟩
  · exact ⟨_, rfl⟩

/-- Of a partition, an operation that fails changes the queue of chunks. -/
theorem State.part_dropChunks (s : State) (p' : Nat) (q : RingNo) (n : Seq) (p : Nat) :
    ∃ cs, (s.dropChunks p' q n).part p = { s.part p with chunks := cs } := by
  by_cases h : p = p'
  · subst h; exact ⟨_, State.part_setPart _ _ _⟩
  · exact ⟨_, State.part_setPart_other _ _ h⟩

/-- What a failing operation gives up before its record: its chunks and open sets, and its update number. -/
def State.unwind (s : State) (o : Op) : State :=
  let p := (s.stream o.streamNo).part.toNat
  (if o.isStream then (s.dropChunks p o.ring o.seq).dropOpenSets o.streamNo p o.owners else s).releaseUpdate o

/-- The REVERT edits of a failing operation. -/
def State.reverts (s : State) (o : Op) : List Edit :=
  o.anchors.map fun a => { kind := .revert, part := (s.stream o.streamNo).part.toNat, stream := o.streamNo, owner := a.1, arg := a.2,
                           cause := some (o.ring, o.seq) }

theorem State.failOp_eq (s : State) (o : Op) (st : BitVec 12) (dt : BitVec 16) :
    s.failOp o st dt = ((s.unwind o).finish { o with holdsUpdate := false } st dt).submitEdits (s.reverts o) := rfl

/-- Of a partition, what is given up changes the queue of chunks. -/
theorem State.unwind_only (s : State) (o : Op) : ∃ r c q, s.unwind o = { s with rot := r, ctx := c, pools := q } ∧
    ∀ p, ∃ cs, sget ({} : Part) r.parts p = { s.part p with chunks := cs } := by
  unfold State.unwind
  dsimp only
  split_ifs
  · obtain ⟨c, q, h⟩ := (s.dropChunks (s.stream o.streamNo).part.toNat o.ring o.seq).dropOpenSets_only o.streamNo
      (s.stream o.streamNo).part.toNat o.owners
    rw [h]
    obtain ⟨c', h'⟩ := State.releaseUpdate_only { s.dropChunks (s.stream o.streamNo).part.toNat o.ring o.seq with ctx := c, pools := q } o
    exact ⟨_, c', q, h', s.part_dropChunks _ _ _⟩
  · obtain ⟨c, h⟩ := s.releaseUpdate_only o
    exact ⟨s.rot, c, s.pools, h, fun p => ⟨_, rfl⟩⟩

section
variable (s : State) (o : Op) (st : BitVec 12) (dt : BitVec 16)

/-- What an operation that fails leaves: of a partition, it changes the queue of chunks. -/
theorem State.failOp_only : ∃ h r c q e, s.failOp o st dt = { s with host := h, rot := r, ctx := c, pools := q, edits := e } ∧
    ∀ p, ∃ cs, sget ({} : Part) r.parts p = { s.part p with chunks := cs } := by
  obtain ⟨r, c, q, h1, hp⟩ := s.unwind_only o
  obtain ⟨e, h, h2⟩ := ((s.unwind o).finish { o with holdsUpdate := false } st dt).submitEdits_only (s.reverts o)
  exact ⟨h, r, c, q, e, by rw [State.failOp_eq, h2, h1]; rfl, hp⟩

@[simp] theorem State.failOp_mem : (s.failOp o st dt).mem = s.mem := by obtain ⟨_, _, _, _, _, h, -⟩ := s.failOp_only o st dt; rw [h]
@[simp] theorem State.failOp_plots : (s.failOp o st dt).plots = s.plots := by obtain ⟨_, _, _, _, _, h, -⟩ := s.failOp_only o st dt; rw [h]
@[simp] theorem State.failOp_lev : (s.failOp o st dt).lev = s.lev := by obtain ⟨_, _, _, _, _, h, -⟩ := s.failOp_only o st dt; rw [h]
@[simp] theorem State.failOp_ctrs : (s.failOp o st dt).ctrs = s.ctrs := by obtain ⟨_, _, _, _, _, h, -⟩ := s.failOp_only o st dt; rw [h]
theorem State.failOp_part (p : Nat) : ∃ cs, (s.failOp o st dt).part p = { s.part p with chunks := cs } := by
  obtain ⟨_, _, _, _, _, h, hp⟩ := s.failOp_only o st dt
  rw [h]
  exact hp p
end

/-- An operation that fails has ended with the status and detail given. -/
theorem State.op_failOp (s : State) {q : RingNo} {n : Seq} {o : Op} (st : BitVec 12) (dt : BitVec 16) (h : s.op? q n = some o) :
    ∃ o', (s.failOp o st dt).op? q n = some o' ∧ o'.stage = .done ∧ o'.status = st ∧ o'.detail = dt := by
  obtain ⟨r, c, p, h1, -⟩ := s.unwind_only o
  obtain ⟨hq, hn⟩ := s.op_ring h
  have hu : (s.unwind o).op? q n = some o := by rw [h1]; exact h
  have hf : ((s.unwind o).finish { o with holdsUpdate := false } st dt).op? q n
      = some { o with holdsUpdate := false, stage := .done, status := st, detail := dt, result := 0 } := State.op_setOp _ _ hu hq hn
  obtain ⟨k, h3⟩ := State.op_submitEdits _ (s.reverts o) hf
  rw [State.failOp_eq]
  exact ⟨_, h3, rfl, rfl, rfl⟩

end Sys2Proof.Machine
end

section
/-! SUPPORT. The map of plots under the traffic of Cistern. -/

namespace Sys2Proof.Machine

/-! ### The plot map under the traffic of Cistern

A footprint under an arbitrary ROT_PART word can name logical plots beyond the 1,024 of the map, so the law is about offsets and not
about registers of the reference. -/

/-- MAP_ENTRY reads as before, for every logical plot that a footprint can name, and the memories stand. -/
structure MapStands (s t : State) : Prop where
  map : ∀ l < 2048, t.reg .mapEntry l = s.reg .mapEntry l
  mem : t.mem = s.mem

theorem MapStands.refl (s : State) : MapStands s s := ⟨fun _ _ => rfl, rfl⟩

theorem MapStands.trans {s t u : State} (h : MapStands s t) (g : MapStands t u) : MapStands s u :=
  ⟨fun l hl => (g.map l hl).trans (h.map l hl), g.mem.trans h.mem⟩

theorem MapStands.of_eq {s t : State} (hr : t.regs = s.regs) (hm : t.mem = s.mem) : MapStands s t :=
  ⟨fun _ _ => by simp [State.reg, hr], hm⟩

theorem regOff_mapEntry (l : Nat) : regOff .mapEntry l = 0x34000 + 8 * l := by simp [regOff, RegKind.place]

/-- A register outside the window of the map. -/
theorem mapStands_setReg (s : State) {k : RegKind} {n : Nat} (v : DWord) (h : regOff k n < 0x34000 ∨ 0x38000 ≤ regOff k n) :
    MapStands s (s.setReg k n v) :=
  ⟨fun l hl => reg_setReg_other s v (by rw [regOff_mapEntry]; omega), rfl⟩

theorem mapStands_wr (s : State) {f : Fld} {n : Nat} (v : Nat) (h : regOff f.reg n < 0x34000 ∨ 0x38000 ≤ regOff f.reg n) :
    MapStands s (s.wr f n v) := mapStands_setReg s _ h

theorem mapStands_wrs (n : Nat) (fs : List (Fld × Nat)) (s : State)
    (h : ∀ x ∈ fs, regOff x.1.reg n < 0x34000 ∨ 0x38000 ≤ regOff x.1.reg n) : MapStands s (s.wrs n fs) := by
  induction fs generalizing s with
  | nil => exact MapStands.refl s
  | cons x xs ih => exact (mapStands_wr s x.2 (h x (by simp))).trans (ih _ fun y hy => h y (by simp [hy]))

theorem mapStands_wrAll (f : Fld) (v : Nat) (n : Nat) (s : State) (h : ∀ i < n, regOff f.reg i < 0x34000 ∨ 0x38000 ≤ regOff f.reg i) :
    MapStands s (wrAll f v n s) := by
  induction n generalizing s with
  | zero => exact MapStands.refl s
  | succ n ih => exact (mapStands_wr s v (h n (by omega))).trans (ih _ fun i hi => h i (by omega))

theorem mapStands_raise (s : State) (e : Nat) : MapStands s (s.raise e) :=
  (mapStands_setReg s _ (by decide)).trans (.of_eq (s.raise_regs e) (s.raise_mem e))

theorem mapStands_cis (s : State) (c : CisS) : MapStands s { s with cis := c } := .of_eq rfl rfl
theorem mapStands_boot (s : State) (b : BootS) : MapStands s { s with boot := b } := .of_eq rfl rfl
theorem mapStands_free (s : State) (i : Nat) : MapStands s { s with freeIdx := i } := .of_eq rfl rfl
theorem mapStands_emit (s : State) (o : Output) : MapStands s (s.emit o) := .of_eq rfl rfl
theorem mapStands_counters (s : State) (c : Sparse (BitVec 48)) (v : Sparse DWord) : MapStands s { s with ctrs := c, ovf := v } :=
  .of_eq rfl rfl
theorem mapStands_seeps (s : State) (a : Sparse DWord) (b : Sparse Nat) (j : List Injection) :
    MapStands s { s with armed := a, seen := b, inject := j } := .of_eq rfl rfl

theorem mapStands_bump (s : State) (c : Ctr) (n k : Nat) : MapStands s (s.bump c n k) := by
  unfold State.bump
  dsimp only
  split_ifs
  · exact (mapStands_counters s _ _).trans (mapStands_raise _ _)
  · exact mapStands_counters s _ _

theorem mapStands_wmLog (s : State) (k t d u : Nat) : MapStands s (s.wmLog k t d u) := by
  unfold State.wmLog State.logFirst
  split_ifs
  · exact MapStands.refl s
  · exact (mapStands_wrs 0 _ s (by simp [regOff, RegKind.place, WM_LOG_KIND, WM_LOG_TENANT, WM_LOG_DETAIL, WM_LOG_UNIT])).trans
      (mapStands_wr _ 1 (by decide))

theorem mapStands_wmSeep (s : State) (n : Nat) (acts : DWord → Bool) : MapStands s (s.seepEvents .wm 0 n acts).st := by
  unfold State.seepEvents
  split
  · split_ifs
    · exact .refl s
    · exact mapStands_seeps s _ _ _
  · dsimp only
    split_ifs
    · exact .refl s
    · have h1 := mapStands_setReg s (k := .wmSeep) (n := 0) ((s.reg .wmSeep 0 ||| BitVec.ofNat 64 (2 ^ 48)) &&& ~~~1) (by decide)
      simp only [State.disarm, seepReg]
      exact h1.trans (mapStands_seeps _ _ _ _)
    · exact mapStands_seeps s _ _ _

theorem mapStands_stop (s : State) (c d : Nat) : MapStands s (s.stop c d) := by
  have key : ∀ b : BootS, MapStands s ((wrAll CF_PORT_STATE 0 8 (wrAll DEX_HALF_STATE 0 2
      ((({ s with boot := b } : State).wr RST_CAUSE_STOP_CAUSE 0 c).wr RST_CAUSE_DETAIL 0 d))).emit (.ibi (BitVec.ofNat 8 (0x80 + c)))) := fun b =>
    ((((mapStands_boot s b).trans (mapStands_wr _ c (by decide))).trans (mapStands_wr _ d (by decide))).trans
      (mapStands_wrAll DEX_HALF_STATE 0 2 _ (by decide))).trans
      ((mapStands_wrAll CF_PORT_STATE 0 8 _ (by decide)).trans (mapStands_emit _ _))
  unfold State.stop
  dsimp only
  by_cases h : s.boot.stopped = true
  · rw [if_pos h]; exact .refl s
  · rw [if_neg h]; exact key _

theorem mapStands_stopAny (s : State) (c : Nat) : MapStands s (s.stopAny c) := by
  unfold State.stopAny
  by_cases h : s.boot.stopped = true
  · rw [if_pos h]; exact .refl s
  · rw [if_neg h]; exact (mapStands_free s _).trans (mapStands_stop _ _ _)

theorem mapStands_xtsCheck (s : State) (u n : Nat) : MapStands s (s.xtsCheck u n) := by
  have h0 := mapStands_wmSeep s n fun w => seepTarget .wm w = 0 && getBits w 4 7 = u
  unfold State.xtsCheck
  dsimp only
  split
  · split_ifs
    · exact (h0.trans (mapStands_wmLog _ _ _ _ _)).trans (mapStands_stopAny _ _)
    · exact h0.trans (mapStands_bump _ _ _ _)
  · exact h0

theorem mapStands_newWindow (s : State) (ch : Nat) : MapStands s (s.newWindow ch) := mapStands_cis s _

theorem mapStands_useGrant (s : State) (ch : Nat) : MapStands s (s.useGrant ch) := by
  unfold State.useGrant
  dsimp only
  split_ifs
  · exact (mapStands_cis s _).trans (mapStands_newWindow _ _)
  · exact mapStands_cis s _

theorem mapStands_countGrant (s : State) (ch p : Nat) : MapStands s (s.countGrant ch p) := by
  have h1 := mapStands_bump s ctrGrants p 1
  have go : ∀ (x : State) (c : CisS), MapStands s x → MapStands s (({ x with cis := c } : State).useGrant ch) := fun x c h =>
    (h.trans (mapStands_cis x c)).trans (mapStands_useGrant _ _)
  refine go _ _ ?_
  split_ifs
  · exact h1.trans (mapStands_bump _ _ _ _)
  · exact h1

theorem mapStands_tagged (s : State) (part : Option Nat) (ch : Nat) : MapStands s (s.tagged part ch) := by
  unfold State.tagged
  split
  · unfold State.grant_
    dsimp only
    split_ifs
    · exact ((mapStands_bump s _ _ _).trans (mapStands_newWindow _ _)).trans (mapStands_countGrant _ _ _)
    · exact mapStands_countGrant s _ _
  · exact mapStands_useGrant s _

theorem mapStands_sendGranules (part : Option Nat) (k : Nat) (s : State) (a n : Nat) : MapStands s (s.sendGranules part a n k) := by
  induction k generalizing s a n with
  | zero => exact .refl s
  | succ k ih =>
    have h1 := ((mapStands_tagged s part (s.chanBlock a).1).trans
      (mapStands_bump _ ctrWriteBytes (s.chanBlock a).1 (min n (256 - a % 256)))).trans
      (mapStands_xtsCheck _ (s.chanBlock a).1 (blocksOf a (min n (256 - a % 256))))
    unfold State.sendGranules
    dsimp only
    split_ifs
    · exact h1
    · exact h1.trans (ih _ _ _)

theorem State.map_cisSend (s : State) (part : Option Nat) (a : Nat) (bs : List Byte) {l : Nat} (hl : l < 2048) :
    (s.cisSend part a bs).reg .mapEntry l = s.reg .mapEntry l := (mapStands_sendGranules part _ s a bs.length).map l hl

/-- A write of Cistern leaves the bad words of the Reservoir (R383). -/
theorem State.resvBad_cisSend (s : State) (part : Option Nat) (a : Nat) (bs : List Byte) :
    (s.cisSend part a bs).mem.resvBad = s.mem.resvBad := by
  have hw : ∀ (k : Nat) (m : Mem) (a n b : Nat), (m.writeTags a n b k).resvBad = m.resvBad := by
    intro k
    induction k with
    | zero => exact fun _ _ _ _ => rfl
    | succ k ih =>
      intro m a n b
      unfold Mem.writeTags
      dsimp only
      rw [ih]
      split_ifs <;> rfl
  have h := congrArg Mem.resvBad (mapStands_sendGranules part (bs.length / 256 + 2) s a bs.length).mem
  unfold State.cisSend State.cisWrite
  dsimp only
  split_ifs
  · exact h
  · rw [hw]; exact h

end Sys2Proof.Machine
end

section
/-! SUPPORT. What an ended slot notes, and the reading of its swap-outs, each as a relation that chains. -/

namespace Sys2Proof.Machine

/-! ### What an ended slot notes (R65, R69, R73) -/

/-- What `noteSlot` leaves of a state, seen from the operation of the slot: results kept with the operation, and under TRAIN the traffic of
the activations. -/
structure Noted (s t : State) (q : RingNo) (n : Seq) : Prop where
  map : ∀ l < 2048, t.reg .mapEntry l = s.reg .mapEntry l
  rot : t.rot = s.rot
  lev : t.lev = s.lev
  plots : t.plots = s.plots
  resvBad : t.mem.resvBad = s.mem.resvBad
  cis : (∀ o, s.op? q n = some o → o.train = false) → t.mem.cis = s.mem.cis
  op : ∀ o, s.op? q n = some o → ∃ rs, t.op? q n = some { o with runs := rs }

theorem Noted.refl (s : State) (q : RingNo) (n : Seq) : Noted s s q n :=
  ⟨fun _ _ => rfl, rfl, rfl, rfl, rfl, fun _ => rfl, fun _ h => ⟨_, h⟩⟩

theorem Noted.trans {s t u : State} {q : RingNo} {n : Seq} (h : Noted s t q n) (g : Noted t u q n) (hf : (s.op? q n).isSome = true) :
    Noted s u q n := by
  obtain ⟨o, ho⟩ := Option.isSome_iff_exists.1 hf
  obtain ⟨rs, h1⟩ := h.op o ho
  refine ⟨fun l hl => (g.map l hl).trans (h.map l hl), g.rot.trans h.rot, g.lev.trans h.lev, g.plots.trans h.plots,
    g.resvBad.trans h.resvBad, fun ht => (g.cis fun o' ho' => ?_).trans (h.cis ht), fun o' ho' => ?_⟩
  · obtain rfl : { o with runs := rs } = o' := by simpa [h1] using ho'
    exact ht o ho
  · obtain rfl : o = o' := by simpa [ho] using ho'
    obtain ⟨rs', h2⟩ := g.op _ h1
    exact ⟨rs', h2⟩

theorem noted_setRuns (s : State) {q : RingNo} {n : Seq} {o : Op} (h : s.op? q n = some o) (rs : List FutureRun) :
    Noted s (s.setOp { o with runs := rs }) q n := by
  obtain ⟨hq, hn⟩ := s.op_ring h
  refine ⟨fun _ _ => rfl, rfl, rfl, rfl, rfl, fun _ => rfl, fun o' ho' => ⟨rs, ?_⟩⟩
  obtain rfl : o = o' := by simpa [h] using ho'
  exact s.op_setOp _ h hq hn

theorem noted_setRun (s : State) {q : RingNo} {n : Seq} {o : Op} (h : s.op? q n = some o) (r : FutureRun) :
    Noted s (s.setOp (o.setRun r)) q n := noted_setRuns s h _

theorem State.op_setRun (s : State) {q : RingNo} {n : Seq} {o : Op} (h : s.op? q n = some o) (r : FutureRun) :
    (s.setOp (o.setRun r)).op? q n = some (o.setRun r) := s.op_setOp _ h (s.op_ring h).1 (s.op_ring h).2

theorem noted_cisSend (s : State) {q : RingNo} {n : Seq} {o : Op} (h : s.op? q n = some o) (ht : o.train = true) (part : Option Nat)
    (a : Nat) (bs : List Byte) : Noted s (s.cisSend part a bs) q n := by
  have hf := (carries_cisSend s part a bs).frame
  refine ⟨fun l hl => s.map_cisSend part a bs hl, by rw [hf]; rfl, by rw [hf]; rfl, by rw [hf]; rfl, s.resvBad_cisSend part a bs,
    fun hn => ?_, fun o' ho' => ⟨_, by rw [hf]; exact ho'⟩⟩
  exact absurd (hn o h) (by simp [ht])

theorem noted_noteFrame (p : Nat) (c : Chunk) (q : RingNo) (n : Seq) (gs : List (Given × Nat)) (s : State) :
    Noted s (s.noteFrame p c q n gs) q n := by
  induction gs generalizing s with
  | nil => exact .refl s q n
  | cons g gs ih =>
    obtain ⟨g, k⟩ := g
    unfold State.noteFrame
    split
    · exact .refl s q n
    · rename_i o ho
      have hs : (s.op? q n).isSome = true := by simp [ho]
      dsimp only
      split_ifs with ht
      · exact ((noted_setRun s ho _).trans (noted_cisSend _ (s.op_setRun ho _) ht _ _ _) hs).trans (ih _) hs
      · exact (noted_setRun s ho _).trans (ih _) hs

theorem State.noteBack_only (s : State) (p n : Nat) (c : Chunk) (o : Op) (l : List (Nat × Nat)) :
    ∃ rs, s.noteBack p n c o l = { o with runs := rs } := by
  induction l with
  | nil => exact ⟨_, rfl⟩
  | cons x l ih =>
    obtain ⟨f, k⟩ := x
    obtain ⟨rs, h⟩ := ih
    unfold State.noteBack
    dsimp only
    rw [h]
    exact ⟨_, rfl⟩

theorem noted_noteSlot (s : State) (p : Nat) (c : Chunk) {o : Op} (h : s.op? c.ring c.seq = some o) :
    Noted s (s.noteSlot p c o) c.ring c.seq := by
  unfold State.noteSlot
  split
  · exact noted_noteFrame _ _ _ _ _ _
  · exact noted_noteFrame _ _ _ _ _ _
  · obtain ⟨rs, h1⟩ := s.noteBack_only p _ c o c.owners.zipIdx
    rw [h1]
    exact noted_setRuns s h rs
  · exact .refl s _ _

/-! ### Swap-outs read at the end of a slot (R285, R495) -/

/-- What reading swap-outs leaves: the memories, the plots, and of a partition all but its queue and what is in transit; the queue too where
no Reservoir word is bad, since then every read succeeds. -/
structure TransitsOnly (s t : State) : Prop where
  mem : t.mem = s.mem
  plots : t.plots = s.plots
  lev : t.lev = s.lev
  part : ∀ p, ∃ cs tr, t.part p = { s.part p with chunks := cs, transit := tr }
  queue : s.mem.resvBad = [] → ∀ p, (t.part p).chunks = (s.part p).chunks

theorem TransitsOnly.refl (s : State) : TransitsOnly s s := ⟨rfl, rfl, rfl, fun _ => ⟨_, _, rfl⟩, fun _ _ => rfl⟩

theorem TransitsOnly.trans {s t u : State} (h : TransitsOnly s t) (g : TransitsOnly t u) : TransitsOnly s u := by
  refine ⟨g.mem.trans h.mem, g.plots.trans h.plots, g.lev.trans h.lev, fun p => ?_,
    fun hb p => (g.queue (by rw [h.mem, hb]) p).trans (h.queue hb p)⟩
  obtain ⟨_, _, h1⟩ := h.part p
  obtain ⟨cs, tr, h2⟩ := g.part p
  exact ⟨cs, tr, by rw [h2, h1]⟩

theorem transitsOnly_setPart (s : State) (p : Nat) (tr : List Transit) : TransitsOnly s (s.setPart p { s.part p with transit := tr }) := by
  have key : ∀ p', ∃ tr', (s.setPart p { s.part p with transit := tr }).part p' = { s.part p' with transit := tr' } := fun p' => by
    by_cases h : p' = p
    · subst h; exact ⟨tr, State.part_setPart _ _ _⟩
    · exact ⟨_, State.part_setPart_other _ _ h⟩
  refine ⟨rfl, rfl, rfl, fun p' => ?_, fun _ p' => ?_⟩ <;> obtain ⟨tr', h⟩ := key p'
  · exact ⟨_, tr', h⟩
  · rw [h]

theorem transitsOnly_setTransit (s : State) (p : Nat) (t : Transit) : TransitsOnly s (s.setTransit p t) := transitsOnly_setPart s p _

theorem transitsOnly_openOut (s : State) (t : Transit) : TransitsOnly s (s.openOut t) := ⟨rfl, rfl, rfl, fun _ => ⟨_, _, rfl⟩, fun _ _ => rfl⟩

theorem transitsOnly_sluiceLog (s : State) (ch n o kind : Nat) (st : BitVec 12) (retryOk committed : Bool) :
    TransitsOnly s (s.sluiceLog ch n o kind st retryOk committed) := by
  unfold State.sluiceLog
  rw [State.logFirst_only]
  exact ⟨rfl, rfl, rfl, fun _ => ⟨_, _, rfl⟩, fun _ _ => rfl⟩

/-- A swap-out that cannot be read: it goes, and its operation fails. Some word of the Reservoir is bad. -/
theorem transitsOnly_failTransit (s : State) (p : Nat) (t : Transit) (dt : BitVec 16) (hb : s.mem.resvBad ≠ []) :
    TransitsOnly s (s.failTransit p t dt) := by
  have h1 : TransitsOnly s (s.dropTransit p t) := transitsOnly_setPart s p _
  unfold State.failTransit
  dsimp only
  split
  · split_ifs
    · refine h1.trans ⟨State.failOp_mem _ _ _ _, State.failOp_plots _ _ _ _, State.failOp_lev _ _ _ _, fun p' => ?_, fun h => absurd h hb⟩
      obtain ⟨cs, h⟩ := State.failOp_part (s.dropTransit p t) _ stMemUncorrectable dt p'
      exact ⟨cs, _, h⟩
    · exact h1
  · exact h1

theorem State.plotState_readable (s : State) (p sz : Nat) (off : Option Nat) (h : s.mem.resvBad = []) : s.plotState p sz off ≠ none := by
  cases off <;> simp [State.plotState, State.resvOk, h]

theorem transitsOnly_readTransit (s : State) (p : Nat) (t : Transit) : TransitsOnly s (s.readTransit p t) := by
  unfold State.readTransit
  dsimp only
  split_ifs
  · exact .refl s
  · split
    · rename_i hn
      have hb : s.mem.resvBad ≠ [] := fun h => s.plotState_readable _ _ _ h hn
      have h1 := transitsOnly_sluiceLog s (sluiceOf t.lplot) t.stream.toNat t.owner 2 stMemUncorrectable false false
      exact h1.trans (transitsOnly_failTransit _ p t 0 (by rwa [h1.mem]))
    · rename_i bs _
      have h1 := transitsOnly_setTransit s p { t with read := true, bytes := bs }
      split_ifs
      · exact h1.trans (transitsOnly_openOut _ _)
      · exact h1

theorem transitsOnly_readTransits (p : Nat) (ts : List Transit) (s : State) : TransitsOnly s (s.readTransits p ts) := by
  induction ts generalizing s with
  | nil => exact .refl s
  | cons t ts ih => exact (transitsOnly_readTransit s p t).trans (ih _)

end Sys2Proof.Machine
end

section
/-! SUPPORT. The end of a slot, stage by stage. -/

namespace Sys2Proof.Machine

/-! ### Footprints (R155, R477) -/

theorem getBits_lt (x : DWord) (lo w : Nat) : getBits x lo w < 2 ^ w := Nat.mod_lt _ (Nat.two_pow_pos w)

theorem State.partPlots_lt (s : State) {p l : Nat} (h : l ∈ s.partPlots p) : l < 2048 := by
  have b : ∀ f ∈ [ROT_PART_X0, ROT_PART_Y0, ROT_PART_W_M1, ROT_PART_H_M1], partBits f (s.part p).act < 32 := by
    intro f hf
    have h1 := getBits_lt (s.part p).act f.lo f.w
    fin_cases hf <;> exact h1
  simp only [List.forall_mem_cons] at b
  obtain ⟨hx, hy, hw, hh, -⟩ := b
  simp only [State.partPlots, rectPlots, List.mem_flatMap, List.mem_map, List.mem_range] at h
  obtain ⟨j, hj, i, hi, rfl⟩ := h
  omega

theorem State.physOf_of_map {s t : State} {l : Nat} (h : t.reg .mapEntry l = s.reg .mapEntry l) : t.physOf l = s.physOf l := by
  unfold State.physOf State.rd
  rw [show t.reg MAP_ENTRY_PX.reg l = s.reg MAP_ENTRY_PX.reg l from h, show t.reg MAP_ENTRY_PY.reg l = s.reg MAP_ENTRY_PY.reg l from h]

theorem State.physOf_of_regs {s t : State} (h : t.regs = s.regs) (l : Nat) : t.physOf l = s.physOf l :=
  State.physOf_of_map (by simp [State.reg, h])

theorem State.partPlots_of_act {s t : State} {p : Nat} (h : (t.part p).act = (s.part p).act) : t.partPlots p = s.partPlots p := by
  simp only [State.partPlots, h]

/-! ### Stopped plots (R153, R181) -/

/-- A plot that runs no slot and has none loaded. -/
def Plot.stopped (x : Plot) : Prop := x.running = false ∧ x.loaded = false

/-- Of plots that stand stopped or are still to be stopped, the first of a list stopped. -/
theorem State.stopped_setPlot (s : State) (l : Nat) (ls : List Nat) (q : Nat) {x : Plot} (hx : x.stopped)
    (h : (s.plot q).stopped ∨ ∃ k ∈ l :: ls, s.physOf k = q) :
    ((s.setPlot (s.physOf l) x).plot q).stopped ∨ ∃ k ∈ ls, s.physOf k = q := by
  by_cases hq : q = s.physOf l
  · subst hq; exact .inl (by rwa [State.plot_setPlot])
  · rw [State.plot_setPlot_other _ _ hq]
    refine h.imp_right fun ⟨k, hk, hkq⟩ => ?_
    rcases List.mem_cons.1 hk with rfl | hk
    · exact absurd hkq.symm hq
    · exact ⟨k, hk, hkq⟩

theorem State.stopPlots_only (ls : List Nat) (s : State) : ∃ x, s.stopPlots ls = { s with plots := x } := by
  induction ls generalizing s with
  | nil => exact ⟨_, rfl⟩
  | cons l ls ih =>
    obtain ⟨x, h⟩ := ih (s.setPlot (s.physOf l) { s.plot (s.physOf l) with running := false, loaded := false })
    exact ⟨x, h⟩

/-- Stopping plots stops those named, and those that stood stopped stay so. -/
theorem State.stopPlots_stopped (ls : List Nat) (s : State) (q : Nat) (h : (s.plot q).stopped ∨ ∃ l ∈ ls, s.physOf l = q) :
    ((s.stopPlots ls).plot q).stopped := by
  induction ls generalizing s with
  | nil => exact h.resolve_right (by simp)
  | cons l ls ih =>
    exact ih _ (s.stopped_setPlot l ls q ⟨rfl, rfl⟩ h)

theorem State.abortPlots_only (p : Nat) (ls : List Nat) (s : State) : ∃ x y, s.abortPlots p ls = { s with plots := x, pools := y } := by
  induction ls generalizing s with
  | nil => exact ⟨_, _, rfl⟩
  | cons l ls ih =>
    obtain ⟨x, y, h⟩ := ih ((s.setPlot (s.physOf l) (s.plot (s.physOf l)).abort).endPlotWalks p (s.physOf l))
    exact ⟨x, y, h⟩

/-- Aborting plots stops those named, and those that stood stopped stay so. -/
theorem State.abortPlots_stopped (p : Nat) (ls : List Nat) (s : State) (q : Nat) (h : (s.plot q).stopped ∨ ∃ l ∈ ls, s.physOf l = q) :
    ((s.abortPlots p ls).plot q).stopped := by
  induction ls generalizing s with
  | nil => exact h.resolve_right (by simp)
  | cons l ls ih =>
    exact ih _ (s.stopped_setPlot l ls q (x := (s.plot (s.physOf l)).abort) ⟨rfl, rfl⟩ h)

/-! ### The end of a slot (R181, R484) -/

/-- The slot as its partition leaves it when it ends: no chunk, and its swap-outs and output jobs handed on. -/
def State.vacate (s : State) (p : Nat) (c : Chunk) (o : Op) : State :=
  let x := s.part p
  let outs := s.newTransits p c
  let x1 : Part := { x with slot := { x.slot with phase := if outs.isEmpty && x.transit.isEmpty then .idle else .swapping, chunk := none },
                            transit := x.transit ++ outs, outJobs := x.outJobs ++ s.newOutputs p o c }
  ({ s.setPart p x1 with rot := { (s.setPart p x1).rot with outs := (s.setPart p x1).rot.outs + outs.length } } : State).setOp
    (if x.slot.widened then { o with status := stWidened } else o)

/-- What follows in the queues: the edits of the step, and the chunk's successors. -/
def State.requeue (s : State) (p : Nat) (c : Chunk) (o : Op) : State :=
  let s1 := (s.vacate p c o).submitEdits (s.stepEdits p c)
  s1.queueChunks p (s1.successors p o c)

/-- The slot handed over, its plots stopped. -/
def State.handOver (s : State) (p : Nat) (c : Chunk) (o : Op) : State :=
  (s.requeue p c o).stopPlots ((s.requeue p c o).partPlots p)

theorem State.endSlot_eq (s : State) (p : Nat) (c : Chunk) (o : Op) : s.endSlot p c o =
    let s1 := s.noteSlot p c o
    let s2 := (s1.handOver p c ((s1.op? c.ring c.seq).getD o)).readTransits p (s1.newTransits p c)
    (s2.syncIdle p).boundary p := rfl

/-- What handing a slot over leaves of its partition. -/
structure HandedOver (s t : State) (p : Nat) (c : Chunk) (o : Op) : Prop where
  mem : t.mem = s.mem
  lev : t.lev = s.lev
  chunk : (t.part p).slot.chunk = none
  phase : (t.part p).slot.phase = .idle ∨ (t.part p).slot.phase = .swapping
  toTake : (t.part p).toTake = (s.part p).toTake
  plots : ∀ l ∈ s.partPlots p, (t.plot (s.physOf l)).stopped
  next : c.kind = .frame → c.ordinal + 1 < o.horizon →
    (t.part p).chunks = (s.part p).chunks ++ [{ c with ordinal := c.ordinal + 1, ready := none }]
  last : c.kind = .refill ∨ c.kind = .optim → (t.part p).chunks = (s.part p).chunks

theorem State.part_vacate (s : State) (p : Nat) (c : Chunk) (o : Op) : ∃ ph tr oj, (ph = .idle ∨ ph = .swapping) ∧
    (s.vacate p c o).part p =
      { s.part p with slot := { (s.part p).slot with phase := ph, chunk := none }, transit := tr, outJobs := oj } := by
  refine ⟨_, _, _, ?_, State.part_setPart s p _⟩
  split_ifs
  · exact .inl rfl
  · exact .inr rfl

theorem State.requeue_frame (s : State) (p : Nat) (c : Chunk) (o : Op) : (s.requeue p c o).mem = s.mem ∧
    (s.requeue p c o).lev = s.lev ∧ (s.requeue p c o).regs = s.regs ∧ (s.requeue p c o).plots = s.plots := by
  obtain ⟨es, h, he⟩ := (s.vacate p c o).submitEdits_only (s.stepEdits p c)
  unfold State.requeue
  dsimp only
  rw [he]
  exact ⟨rfl, rfl, rfl, rfl⟩

theorem State.part_requeue (s : State) (p : Nat) (c : Chunk) (o : Op) : ∃ ph tr oj s1, (ph = .idle ∨ ph = .swapping) ∧
    (s.requeue p c o).part p = { s.part p with
      slot := { (s.part p).slot with phase := ph, chunk := none }, transit := tr, outJobs := oj,
      chunks := (s.part p).chunks ++ State.successors s1 p o c } := by
  obtain ⟨ph, tr, oj, hph, hv⟩ := s.part_vacate p c o
  obtain ⟨es, h, he⟩ := (s.vacate p c o).submitEdits_only (s.stepEdits p c)
  have hs : ((s.vacate p c o).submitEdits (s.stepEdits p c)).part p = (s.vacate p c o).part p := by rw [he]; rfl
  refine ⟨ph, tr, oj, (s.vacate p c o).submitEdits (s.stepEdits p c), hph, ?_⟩
  unfold State.requeue State.queueChunks
  dsimp only
  rw [State.part_setPart, hs, hv]

/-- A FRAME chunk below its horizon is followed by the next frame's (R64, R484). -/
theorem State.successors_frame (s : State) (p : Nat) {o : Op} {c : Chunk} (hk : c.kind = .frame) (hh : c.ordinal + 1 < o.horizon) :
    s.successors p o c = [{ c with ordinal := c.ordinal + 1, ready := none }] := by
  simp [State.successors, hk, hh]

/-- Refills and optimiser steps have no successor. -/
theorem State.successors_last (s : State) (p : Nat) (o : Op) {c : Chunk} (hk : c.kind = .refill ∨ c.kind = .optim) :
    s.successors p o c = [] := by
  rcases hk with hk | hk <;> simp [State.successors, hk]

theorem handedOver_handOver (s : State) (p : Nat) (c : Chunk) (o : Op) : HandedOver s (s.handOver p c o) p c o := by
  obtain ⟨hmem, hlev, hregs, -⟩ := s.requeue_frame p c o
  obtain ⟨ph, tr, oj, s1, hph, hp⟩ := s.part_requeue p c o
  obtain ⟨x, hx⟩ := (s.requeue p c o).stopPlots_only ((s.requeue p c o).partPlots p)
  have ht : (s.handOver p c o).part p = (s.requeue p c o).part p := by rw [State.handOver, hx]; rfl
  rw [hp] at ht
  refine ⟨?_, ?_, by rw [ht], by rw [ht]; exact hph, by rw [ht], fun l hl => ?_, fun hk hh => ?_, fun hk => ?_⟩
  · rw [State.handOver, hx]; exact hmem
  · rw [State.handOver, hx]; exact hlev
  · refine State.stopPlots_stopped _ _ _ (.inr ⟨l, ?_, State.physOf_of_regs hregs l⟩)
    rw [State.partPlots_of_act (s := s) (by rw [hp])]
    exact hl
  · rw [ht, State.successors_frame s1 p hk hh]
  · rw [ht, State.successors_last s1 p o hk, List.append_nil]

/-- What SLOT_END leaves of a partition that has no new fields to take, where no fence waits. -/
structure SlotEnded (s t : State) (p : Nat) (c : Chunk) (o : Op) : Prop where
  chunk : (t.part p).slot.chunk = none
  phase : (t.part p).slot.phase = .idle ∨ (t.part p).slot.phase = .swapping
  plots : ∀ l ∈ s.partPlots p, (t.plot (s.physOf l)).stopped
  next : c.kind = .frame → c.ordinal + 1 < o.horizon → s.mem.resvBad = [] →
    (t.part p).chunks = (s.part p).chunks ++ [{ c with ordinal := c.ordinal + 1, ready := none }]
  last : c.kind = .refill ∨ c.kind = .optim → (t.part p).chunks = (s.part p).chunks
  cis : o.train = false → t.mem.cis = s.mem.cis

/-- What the boundary of a slot leaves where only IDLE follows. -/
structure Settled (s t : State) : Prop where
  rot : t.rot = s.rot
  plots : t.plots = s.plots
  mem : t.mem = s.mem
  host : t.host = s.host
  count : ∀ c n, c.off n ≠ ctrStageChanges.off 0 → t.count c n = s.count c n

theorem Settled.part {s t : State} (h : Settled s t) (p : Nat) : t.part p = s.part p := by unfold State.part; rw [h.rot]
theorem Settled.plot {s t : State} (h : Settled s t) (q : Nat) : t.plot q = s.plot q := by unfold State.plot; rw [h.plots]

/-- Where no fence waits and no new fields are to be taken, IDLE is all that follows a slot's end. -/
theorem settled_boundary (s : State) {p : Nat} (hl : s.lev.pend = []) (ht : (s.part p).toTake = none) :
    Settled s ((s.syncIdle p).boundary p) := by
  have hs := s.syncIdle_unfenced p hl
  have h : Settled s (s.syncIdle p) := by
    rw [hs]
    exact ⟨by rw [State.restage_rot, State.wr_rot], by rw [State.restage_plots, State.wr_plots],
      by rw [State.restage_mem, State.wr_mem], by rw [State.restage_host, State.wr_host],
      fun c n h => by rw [State.count_restage _ h, State.count_wr]⟩
  rwa [State.boundary_settled _ (by rw [h.part, ht])]

/-- Refills and optimiser steps hand over no state (R495). -/
theorem State.newTransits_last (s : State) (p : Nat) {c : Chunk} (hk : c.kind = .refill ∨ c.kind = .optim) : s.newTransits p c = [] := by
  rcases hk with hk | hk <;> simp [State.newTransits, hk]

/-- The stages of a slot's end, one after the other. -/
theorem slotEnded_of_stages {s u v w t : State} {p : Nat} {c : Chunk} {o o' : Op} (ho : s.op? c.ring c.seq = some o)
    (hd : o'.desc = o.desc) (hn : Noted s u c.ring c.seq) (hh : HandedOver u v p c o') (hr : TransitsOnly v w)
    (hw : c.kind = .refill ∨ c.kind = .optim → w = v) (hs : Settled w t) : SlotEnded s t p c o := by
  have hup : u.part p = s.part p := by unfold State.part; rw [hn.rot]
  obtain ⟨cs, tr, hwp⟩ := hr.part p
  have hcs : t.part p = { v.part p with chunks := cs, transit := tr } := by rw [hs.part, hwp]
  refine ⟨by rw [hcs]; exact hh.chunk, by rw [hcs]; exact hh.phase, fun l hl => ?_, fun hk hlt hb => ?_, fun hk => ?_, fun htr => ?_⟩
  · have hl' : l ∈ u.partPlots p := by rw [State.partPlots_of_act (s := s) (by rw [hup])]; exact hl
    have := hh.plots l hl'
    rw [State.physOf_of_map (hn.map l (s.partPlots_lt hl))] at this
    rw [hs.plot, State.plot, hr.plots]
    exact this
  · have hlt' : c.ordinal + 1 < o'.horizon := by rw [Op.horizon, Op.fld, hd]; exact hlt
    rw [hs.part, hr.queue (by rw [hh.mem, hn.resvBad, hb]), hh.next hk hlt', hup]
  · rw [hs.part, hw hk, hh.last hk, hup]
  · rw [hs.mem, hr.mem, hh.mem]
    exact hn.cis fun o1 h1 => by
      obtain rfl : o = o1 := by simpa [ho] using h1
      exact htr

theorem slotEnded_endSlot (s : State) {p : Nat} {c : Chunk} {o : Op} (hl : s.lev.pend = []) (ht : (s.part p).toTake = none)
    (ho : s.op? c.ring c.seq = some o) : SlotEnded s (s.endSlot p c o) p c o := by
  have hn := noted_noteSlot s p c ho
  obtain ⟨rs, hop⟩ := hn.op o ho
  have hh := handedOver_handOver (s.noteSlot p c o) p c { o with runs := rs }
  have hr := transitsOnly_readTransits p ((s.noteSlot p c o).newTransits p c) ((s.noteSlot p c o).handOver p c { o with runs := rs })
  obtain ⟨cs, tr, hp⟩ := hr.part p
  have he := s.endSlot_eq p c o
  dsimp only at he
  rw [hop, Option.getD_some] at he
  rw [he]
  refine slotEnded_of_stages (o' := { o with runs := rs }) ho rfl hn hh hr
    (fun hk => by rw [State.newTransits_last _ p hk]; rfl) (settled_boundary _ ?_ ?_)
  · rw [hr.lev, hh.lev, hn.lev, hl]
  · rw [hp]
    refine hh.toTake.trans ?_
    unfold State.part
    rw [hn.rot]
    exact ht

end Sys2Proof.Machine
end

section
/-! SUPPORT. The abort of a slot, stage by stage. -/

namespace Sys2Proof.Machine

/-! ### The abort of a slot (R64, R182, R602) -/

/-- An aborted slot as its partition leaves it: its plots aborted, its chunk gone, the abort counted, its tokens dropped. -/
def State.cutSlot (s : State) (p : Nat) (st : BitVec 12) (dt : BitVec 16) : State :=
  let x := s.part p
  let s1 := s.abortPlots p (s.partPlots p)
  let slot := { x.slot with phase := if x.transit.isEmpty then .idle else .swapping, chunk := none, status := st, detail := dt, insLeft := [] }
  let s2 := (s1.setPart p { s1.part p with slot := slot }).bump ctrAborted p (if 0x100 ≤ st.toNat then 1 else 0)
  { s2 with canal := s2.canal.filter fun t => !((s2.plot t.pplot).part = p && t.seq = x.slot.seq) }

theorem State.part_bump (s : State) (c : Ctr) (n k p : Nat) : (s.bump c n k).part p = s.part p := by
  unfold State.part; rw [State.bump_rot]

theorem State.abortPlots_part (s : State) (p : Nat) (ls : List Nat) (p' : Nat) : (s.abortPlots p ls).part p' = s.part p' := by
  obtain ⟨x, y, h⟩ := s.abortPlots_only p ls
  rw [h]; rfl

theorem State.listOf_of_eq {s t : State} (hc : t.ctx = s.ctx) (hf : t.cf = s.cf) (p i : Nat) : t.listOf p i = s.listOf p i := by
  unfold State.listOf State.group
  rw [hc, hf]

/-- The abort of a loading or running slot without a collective list. -/
theorem State.abortSlot_eq (s : State) {p : Nat} {c : Chunk} (st : BitVec 12) (dt : BitVec 16)
    (hph : (s.part p).slot.phase = .loading ∨ (s.part p).slot.phase = .running) (hc : (s.part p).slot.chunk = some c)
    (hl : s.listOf p (s.part p).slot.image = none) :
    s.abortSlot p st dt = (((((s.cutSlot p st dt).dropRefills p c.sets).failChunkOp c st dt).syncIdle p).boundary p) := by
  obtain ⟨x, y, h⟩ := s.abortPlots_only p (s.partPlots p)
  have ha : ∀ u : State, u.ctx = s.ctx → u.cf = s.cf → u.announceAbort p (s.part p).slot = u := fun u h1 h2 => by
    unfold State.announceAbort
    rw [State.listOf_of_eq h1 h2, hl]
  unfold State.abortSlot State.cutSlot
  dsimp only
  rw [if_pos hph, hc]
  dsimp only
  rw [ha _ (by rw [State.bump_ctx, State.setPart_ctx, h]) (by rw [State.bump_cf, State.setPart_cf, h])]

theorem State.part_cutSlot (s : State) (p : Nat) (st : BitVec 12) (dt : BitVec 16) : ∃ ph, (ph = .idle ∨ ph = .swapping) ∧
    (s.cutSlot p st dt).part p = { s.part p with slot :=
      { (s.part p).slot with phase := ph, chunk := none, status := st, detail := dt, insLeft := [] } } := by
  refine ⟨if (s.part p).transit.isEmpty then .idle else .swapping, ?_, ?_⟩
  · split_ifs
    · exact .inl rfl
    · exact .inr rfl
  · unfold State.cutSlot
    show (State.bump _ _ _ _).part p = _
    rw [State.part_bump, State.part_setPart, State.abortPlots_part]

/-- What a cut slot leaves: its partition and plots as an abort leaves them, the abort counted, memories and operations as they stood. -/
structure Cut (s t : State) (p : Nat) (st : BitVec 12) (dt : BitVec 16) : Prop where
  mem : t.mem = s.mem
  host : t.host = s.host
  lev : t.lev = s.lev
  plots : ∀ l ∈ s.partPlots p, (t.plot (s.physOf l)).stopped
  part : ∃ ph, (ph = .idle ∨ ph = .swapping) ∧ t.part p = { s.part p with slot :=
    { (s.part p).slot with phase := ph, chunk := none, status := st, detail := dt, insLeft := [] } }
  counted : 0x100 ≤ st.toNat → t.count ctrAborted p = satAdd (s.count ctrAborted p) 1

/-- A status of an abort counts one (R182). -/
theorem State.count_cutSlot (s : State) (p : Nat) {st : BitVec 12} (dt : BitVec 16) (hst : 0x100 ≤ st.toNat) :
    (s.cutSlot p st dt).count ctrAborted p = satAdd (s.count ctrAborted p) 1 := by
  obtain ⟨x, y, h⟩ := s.abortPlots_only p (s.partPlots p)
  unfold State.cutSlot
  show (State.bump _ _ _ _).count ctrAborted p = _
  rw [State.count_bump, if_pos hst, h]
  rfl

theorem cut_cutSlot (s : State) (p : Nat) (st : BitVec 12) (dt : BitVec 16) : Cut s (s.cutSlot p st dt) p st dt := by
  have hq := fun l hl => s.abortPlots_stopped p (s.partPlots p) (s.physOf l) (.inr ⟨l, hl, rfl⟩)
  obtain ⟨x, y, h⟩ := s.abortPlots_only p (s.partPlots p)
  refine ⟨(State.bump_mem _ _ _ _).trans (by rw [State.setPart_mem, h]), (State.bump_host _ _ _ _).trans (by rw [State.setPart_host, h]),
    (State.bump_lev _ _ _ _).trans (by rw [State.setPart_lev, h]), fun l hl => ?_, s.part_cutSlot p st dt, s.count_cutSlot p dt⟩
  have := hq l hl
  unfold State.plot at this ⊢
  unfold State.cutSlot
  dsimp only
  rwa [State.bump_plots, State.setPart_plots]

theorem State.dropRefills_only (p : Nat) (ns : List Nat) (s : State) : ∃ q, s.dropRefills p ns = { s with pools := q } := by
  induction ns generalizing s with
  | nil => exact ⟨_, rfl⟩
  | cons n ns ih =>
    unfold State.dropRefills
    dsimp only
    split_ifs
    · obtain ⟨q, h⟩ := ih (s.setPool p _)
      exact ⟨q, h⟩
    · exact ih s

theorem Cut.dropRefills {s t : State} {p : Nat} {st : BitVec 12} {dt : BitVec 16} (h : Cut s t p st dt) (ns : List Nat) :
    Cut s (t.dropRefills p ns) p st dt := by
  obtain ⟨q, hd⟩ := t.dropRefills_only p ns
  rw [hd]
  exact ⟨h.mem, h.host, h.lev, h.plots, h.part, h.counted⟩

/-- What the abort of a slot leaves (R182), where only IDLE follows: the operation ended, the slot idle or swapping, its plots stopped. -/
structure SlotAborted (s t : State) (p : Nat) (c : Chunk) (st : BitVec 12) (dt : BitVec 16) : Prop where
  op : ∃ o, t.op? c.ring c.seq = some o ∧ o.stage = .done ∧ o.status = st ∧ o.detail = dt
  chunk : (t.part p).slot.chunk = none
  status : (t.part p).slot.status = st
  phase : (t.part p).slot.phase = .idle ∨ (t.part p).slot.phase = .swapping
  plots : ∀ l ∈ s.partPlots p, (t.plot (s.physOf l)).stopped
  mem : t.mem = s.mem
  counted : 0x100 ≤ st.toNat → t.count ctrAborted p = satAdd (s.count ctrAborted p) 1

theorem slotAborted_abortSlot (s : State) {p : Nat} {c : Chunk} {o : Op} (st : BitVec 12) (dt : BitVec 16)
    (hph : (s.part p).slot.phase = .loading ∨ (s.part p).slot.phase = .running) (hc : (s.part p).slot.chunk = some c)
    (hl : s.listOf p (s.part p).slot.image = none) (ho : s.op? c.ring c.seq = some o) (hs : o.stage ≠ .done)
    (hpend : s.lev.pend = []) (ht : (s.part p).toTake = none) : SlotAborted s (s.abortSlot p st dt) p c st dt := by
  have hcut := (cut_cutSlot s p st dt).dropRefills c.sets
  rw [s.abortSlot_eq st dt hph hc hl]
  generalize (s.cutSlot p st dt).dropRefills p c.sets = u at hcut ⊢
  obtain ⟨ph, hph', hp⟩ := hcut.part
  have hop : u.op? c.ring c.seq = some o := by unfold State.op?; rw [hcut.host]; exact ho
  have hf : u.failChunkOp c st dt = u.failOp o st dt := by simp only [State.failChunkOp, hop, if_neg hs]
  obtain ⟨cs, hpf⟩ := u.failOp_part o st dt p
  rw [hp] at hpf
  obtain ⟨o', h1, h2⟩ := State.op_failOp _ st dt hop
  rw [hf]
  have hset : Settled (u.failOp o st dt) (((u.failOp o st dt).syncIdle p).boundary p) :=
    settled_boundary _ (by rw [State.failOp_lev, hcut.lev, hpend]) (by rw [hpf]; exact ht)
  refine ⟨⟨o', ?_, h2⟩, ?_, ?_, ?_, fun l hl' => ?_, ?_, fun h => ?_⟩
  · unfold State.op?; rw [hset.host]; exact h1
  · rw [hset.part, hpf]
  · rw [hset.part, hpf]
  · rw [hset.part, hpf]; exact hph'
  · rw [hset.plot, State.plot, State.failOp_plots]
    exact hcut.plots l hl'
  · rw [hset.mem, State.failOp_mem, hcut.mem]
  · rw [hset.count _ _ (by simp [Ctr.off, Ctr.block, ctrAborted, ctrStageChanges]; omega), State.count, State.failOp_ctrs]
    exact hcut.counted h

end Sys2Proof.Machine
end

section
/-! The commands that end and abort slots (O43). -/

namespace Sys2Proof.Machine

/-! ### The watchdog (R602) -/

/-- An event that was raised stands in EVT_STATUS (R599). -/
theorem State.raise_event (s : State) {e : Nat} (h : e < 17) : ((s.raise e).rd EVT_STATUS_EVENTS).testBit e = true := by
  have hr : (s.raise e).reg .evtStatus 0 = s.reg .evtStatus 0 ||| BitVec.ofNat 64 (2 ^ e) := by
    unfold State.reg
    rw [State.raise_regs]
    exact reg_setReg_same s .evtStatus 0 _
  have hlt : 2 ^ e < 2 ^ 64 := Nat.pow_lt_pow_right (by decide) (by omega)
  show (getBits ((s.raise e).reg .evtStatus 0) 0 17).testBit e = true
  rw [hr, getBits, Nat.testBit_mod_two_pow, Nat.testBit_shiftRight, BitVec.toNat_or, BitVec.toNat_ofNat, Nat.mod_eq_of_lt hlt, Nat.testBit_or,
    Nat.zero_add, Nat.testBit_two_pow_self]
  simp [h]

/-- Raising an event writes no other register. -/
theorem State.rd_raise (s : State) (e : Nat) {g : Fld} {m : Nat} (h : regOff g.reg m ≠ regOff .evtStatus 0) :
    (s.raise e).rd g m = s.rd g m := by
  have : (s.raise e).reg g.reg m = s.reg g.reg m := by
    unfold State.reg; rw [State.raise_regs]; exact reg_setReg_other s _ h
  unfold State.rd; rw [this]

/-- The watchdog's abort is that of a slot, and it names the partition and raises SLOT_HUNG. -/
theorem State.hang_frame (s : State) (p : Nat) : (s.hang p).host = (s.abortSlot p stDenied dtHung).host ∧
    (s.hang p).rot = (s.abortSlot p stDenied dtHung).rot ∧ (s.hang p).mem = (s.abortSlot p stDenied dtHung).mem := by
  unfold State.hang
  exact ⟨by rw [State.raise_host, State.wr_host], by rw [State.raise_rot, State.wr_rot], by rw [State.raise_mem, State.wr_mem]⟩

theorem State.hang_lastPart (s : State) {p : Nat} (h : p < 64) : (s.hang p).rd SLOT_WDOG_LAST_PART = p := by
  unfold State.hang
  rw [State.rd_raise _ _ (by decide), rd_wr_same _ _ _ _ (by decide)]
  exact Nat.mod_eq_of_lt h

theorem State.hang_event (s : State) (p : Nat) : ((s.hang p).rd EVT_STATUS_EVENTS).testBit evSlotHung = true :=
  State.raise_event _ (by decide)

/-! ### The commands -/

theorem exec_slotEnd (part : PartNo) (s : State) : exec (.slotEnd part) s = execSlotEnd part s := rfl
theorem exec_slotAbort (part : PartNo) (st : BitVec 12) (dt : BitVec 16) (s : State) :
    exec (.slotAbort part st dt) s = execSlotAbort part st dt s := rfl
theorem exec_slotWatchdogExpiry (part : PartNo) (s : State) :
    exec (.slotWatchdogExpiry part) s = execSlotWatchdogExpiry part s := rfl

/-- SLOT_END of a slot that may end. -/
theorem exec_slotEnd_ends (s : State) (part : PartNo) {c : Chunk} {o : Op} (hr : s.runs = true)
    (hc : (s.part part.toNat).slot.chunk = some c) (ho : s.op? c.ring c.seq = some o) (hm : s.mayEnd part.toNat c o = true) :
    exec (.slotEnd part) s = .next (s.endSlot part.toNat c o) := by
  rw [exec_slotEnd, execSlotEnd, State.issue_runs _ _ hr]
  simp only [hc, ho, hm, if_true]

/-- SLOT_ABORT with a status that ends a slot. -/
theorem exec_slotAbort_aborts (s : State) (part : PartNo) {st : BitVec 12} (dt : BitVec 16) (hr : s.runs = true)
    (hst : abortStatuses.contains st = true) : exec (.slotAbort part st dt) s = .next (s.abortSlot part.toNat st dt) := by
  rw [exec_slotAbort, execSlotAbort, State.issue_runs _ _ hr, if_pos hst]

/-- SLOT_WATCHDOG_EXPIRY of a running slot, the watchdog enabled. -/
theorem exec_slotWatchdogExpiry_hangs (s : State) (part : PartNo) (hr : s.runs = true) (hm : s.rd SLOT_WDOG_MULT ≠ 0)
    (hph : (s.part part.toNat).slot.phase = .running) : exec (.slotWatchdogExpiry part) s = .next (s.hang part.toNat) := by
  rw [exec_slotWatchdogExpiry, execSlotWatchdogExpiry, State.issue_runs _ _ hr]
  simp [hm, hph]

/-- Statuses that end a slot count as aborts (R13, R182). -/
theorem abortStatuses_count {st : BitVec 12} (h : abortStatuses.contains st = true) : 0x100 ≤ st.toNat := by
  have hall : (abortStatuses.all fun x => decide (0x100 ≤ x.toNat)) = true := by decide
  simpa using List.all_eq_true.1 hall st (List.contains_iff_mem.1 h)

/-- Settles O43: SLOT_END through the stages of a slot's end (`slotEnded_endSlot`), SLOT_ABORT and the watchdog through the one abort that
both make (`slotAborted_abortSlot`). -/
theorem slotsEndAndAbort : Obligations.SlotsEndAndAbort := by
  unfold Obligations.SlotsEndAndAbort
  rintro s part p c o rfl hr hpend ht hc ho
  refine ⟨fun hm => ?_, fun hs hl => ⟨fun st dt hst hph => ?_, fun hm hph => ?_⟩⟩
  · have h := slotEnded_endSlot s (p := part.toNat) hpend ht ho
    exact ⟨_, exec_slotEnd_ends s part hr hc ho hm, h.chunk, h.phase, h.plots, h.next, h.last, h.cis⟩
  · have h := slotAborted_abortSlot s st dt hph hc hl ho hs hpend ht
    obtain ⟨o', h1, hd, hst', hdt⟩ := h.op
    exact ⟨_, o', exec_slotAbort_aborts s part dt hr hst, h1, hd, hst', hdt, h.chunk, h.status, h.phase, h.plots,
      h.counted (abortStatuses_count hst), h.mem⟩
  · have h := slotAborted_abortSlot s stDenied dtHung (.inr hph) hc hl ho hs hpend ht
    obtain ⟨o', h1, hd, hst, hdt⟩ := h.op
    obtain ⟨hhost, hrot, hmem⟩ := s.hang_frame part.toNat
    refine ⟨_, o', exec_slotWatchdogExpiry_hangs s part hr hm hph, ?_, hd, hst, hdt, ?_, s.hang_lastPart part.isLt,
      s.hang_event _, by rw [hmem, h.mem]⟩
    · unfold State.op?; rw [hhost]; exact h1
    · unfold State.part; rw [hrot]; exact h.chunk

end Sys2Proof.Machine
end

section
/-! SUPPORT. I3C commands, resets, the first steps of a start-up, and the reset pin, each by the branch that a command takes. -/

namespace Sys2Proof.Machine

/-! ### I3C commands (R633 to R635) -/

section
variable (s : State) (bs : List Byte) (e : BootEnv)

/-- REG_READ of a form that it does not take. -/
theorem exec_regRead_bad (h : bs.length ≠ 4 ∨ leNat bs % 8 ≠ 0) : exec (.regRead bs) s = .next s.i3cBad := by
  show execRegRead bs s = _
  simp only [execRegRead, if_pos h]

/-- REG_READ that waits for the wake (R606). -/
theorem exec_regRead_waits (hl : bs.length = 4) (ha : leNat bs % 8 = 0) (hw : s.readWaits (leNat bs) = true) :
    exec (.regRead bs) s = .next { s with boot := { s.boot with held := s.boot.held ++ [.regRead bs] } } := by
  show execRegRead bs s = _
  simp [execRegRead, hl, ha, hw]

/-- REG_READ served. -/
theorem exec_regRead_served (hl : bs.length = 4) (ha : leNat bs % 8 = 0) (hw : s.readWaits (leNat bs) = false) :
    exec (.regRead bs) s = .next (s.readReply (leNat bs)) := by
  show execRegRead bs s = _
  simp [execRegRead, hl, ha, hw]

/-- The reply of a register of the reference is its word. -/
theorem State.readReply_register {off : Nat} {k : RegKind} {n : Nat} (hd : off < diagBase) (h : regAt off = some (k, n)) :
    s.readReply off = { s with out := s.out ++ [.i3cReply (leBytes 8 (s.reg k n).toNat)] } := by
  have hr : s.readReg off = (s.reg k n, s) := by simp only [State.readReg, if_neg (Nat.not_le.2 hd), h]
  simp only [State.readReply, hr]
  rfl

theorem exec_boardConfig_bad (h : bs.length ≠ 4 ∨ s.boot.portUp = true) : exec (.boardConfig bs) s = .next s.i3cBad := by
  show execBoardConfig bs s = _
  simp only [execBoardConfig, if_pos h]

theorem exec_boardConfig_taken (hl : bs.length = 4) (hp : s.boot.portUp = false) :
    exec (.boardConfig bs) s = .next (s.takeConfig (BitVec.ofNat 32 (leNat bs % 2 ^ 30))).replyStatus := by
  show execBoardConfig bs s = _
  simp [execBoardConfig, hl, hp]

/-- A configuration taken where no start-up waits for one (R635). -/
theorem State.takeConfig_held {c : Word} (h : s.boot.step ≠ 13) : s.takeConfig c = { s with boot := { s.boot with config := some c } } := by
  simp [State.takeConfig, h]

theorem exec_status (s : State) : exec (.status []) s = .next s.replyStatus := rfl

theorem exec_status_bad (h : bs ≠ []) : exec (.status bs) s = .next s.i3cBad := by
  show execStatus bs s = _
  simp [execStatus, h]

theorem exec_i3cWake_bad (h : bs ≠ []) : exec (.i3cWake bs e) s = .next s.i3cBad := by
  show execI3cWake bs e s = _
  simp [execI3cWake, h]

theorem exec_i3cWake (s : State) (e : BootEnv) :
    exec (.i3cWake [] e) s = .next (if s.runs then s.wakeBy .i3c e else s).replyStatus := by
  show execI3cWake [] e s = _
  cases h1 : s.boot.stopped <;> cases h2 : s.boot.resetLow <;> simp [execI3cWake, State.runs, h1, h2]

theorem exec_sense_bad (mv ma a b f : Nat) (h : bs ≠ []) : exec (.sense bs mv ma a b f) s = .next s.i3cBad := by
  show execSense bs mv ma a b f s = _
  simp [execSense, h]

theorem exec_i3cReset_bad (h : bs ≠ [0x5A, 0xA5] ∨ s.boot.resetLow = true) : exec (.i3cReset bs e) s = .next s.i3cBad := by
  show execI3cReset bs e s = _
  simp only [execI3cReset, if_pos h]

theorem exec_i3cReset_key (h : s.boot.resetLow = false) : exec (.i3cReset [0x5A, 0xA5] e) s = .next (s.reset_ rkMgmt e) := by
  show execI3cReset _ e s = _
  simp [execI3cReset, h]
end

/-! ### Resets (R593, R596) -/

section
variable (s : State) (kind : Nat) (e : BootEnv)

/-- After a stop that removed the rails a reset is POWER_ON. -/
theorem State.reset_afterStop (hs : s.boot.stopped = true) (hr : s.boot.railsUp = false) : s.reset_ kind e = s.startUp rkPowerOn e := by
  simp [State.reset_, hs, hr]

/-- In Dry a reset is DRY_WAKE. -/
theorem State.reset_dry (hs : s.boot.stopped = false) (hd : s.pwr.depth = .dry) : s.reset_ kind e = s.startUp rkDryWake e := by
  simp [State.reset_, hs, hd]

/-- With the rails up a reset is of its own kind. -/
theorem State.reset_powered (hr : s.boot.railsUp = true) (hd : s.pwr.depth ≠ .dry) : s.reset_ kind e = s.startUp kind e := by
  simp [State.reset_, hr, hd]

/-- Where start-up has not brought the rails up, a reset has nothing to reset. -/
theorem State.reset_unpowered (hs : s.boot.stopped = false) (hr : s.boot.railsUp = false) (hd : s.pwr.depth ≠ .dry) : s.reset_ kind e = s := by
  simp [State.reset_, hs, hr, hd]

/-- A register word that a filter drops reads as its reset value. -/
theorem sget_regWords_dropped (f : RegKind → Bool) (m : Sparse DWord) (d : DWord) {off : Nat} {k : RegKind} {n : Nat}
    (h : regAt off = some (k, n)) (hf : f k = false) : sget d (regWords f m) off = d := by
  induction m with
  | nil => rfl
  | cons x m ih =>
    unfold regWords at ih ⊢
    by_cases hx : off = x.1
    · subst hx
      rwa [List.filter_cons_of_neg (by simp [h, hf])]
    · rw [List.filter_cons]
      split_ifs
      · rwa [sget, if_neg hx]
      · exact ih

/-- A register that a reset does not keep holds its reset value (R12). -/
theorem State.reg_lose {k : RegKind} {n : Nat} (h : regAt (regOff k n) = some (k, n)) (hk : keepsReg kind k = false) :
    (s.lose kind).reg k n = regReset k n := sget_regWords_dropped _ _ _ h hk

theorem State.mem_lose : (s.lose kind).mem = s.mem.afterReset (coldKind kind) := rfl
theorem State.ctx_lose : (s.lose kind).ctx = if coldKind kind then {} else s.ctx := rfl

/-- RST_CAUSE after a reset: its kind, whether a stop came before it, and one boot more (R596). -/
theorem State.rstCause_noteReset (stopped : Bool) (h0 : kind ≠ rkPowerOn) (h8 : kind < 8) :
    (s.noteReset kind stopped).rd RST_CAUSE_KIND = kind ∧ (s.noteReset kind stopped).flag RST_CAUSE_STOPPED = stopped ∧
    (s.noteReset kind stopped).rd RST_CAUSE_BOOTS = (s.rd RST_CAUSE_BOOTS + 1) % 2 ^ 32 := by
  have ka : RST_CAUSE_BOOTS.apart 0 RST_CAUSE_KIND 0 := .inr ⟨rfl, rfl, by decide⟩
  have kb : RST_CAUSE_STOPPED.apart 0 RST_CAUSE_KIND 0 := .inr ⟨rfl, rfl, by decide⟩
  have sa : RST_CAUSE_BOOTS.apart 0 RST_CAUSE_STOPPED 0 := .inr ⟨rfl, rfl, by decide⟩
  simp only [State.noteReset, if_neg h0, State.wrs, State.flag]
  refine ⟨?_, ?_, ?_⟩
  · rw [rd_wr_other _ _ (by decide) ka, rd_wr_other _ _ (by decide) kb, rd_wr_same _ _ _ _ (by decide)]
    exact Nat.mod_eq_of_lt h8
  · rw [rd_wr_other _ _ (by decide) sa, rd_wr_same _ _ _ _ (by decide)]
    cases stopped <;> rfl
  · rw [rd_wr_same _ _ _ _ (by decide)]
    exact Nat.mod_mod _ _
end

/-! ### The first steps of a start-up, and the module stop (R589, R626, R637) -/

@[simp] theorem wrAll_boot (f : Fld) (v n : Nat) (s : State) : (wrAll f v n s).boot = s.boot := by
  induction n generalizing s with
  | zero => rfl
  | succ n ih => exact ih _

@[simp] theorem wrAll_mem (f : Fld) (v n : Nat) (s : State) : (wrAll f v n s).mem = s.mem := by
  induction n generalizing s with
  | zero => rfl
  | succ n ih => exact ih _

/-- The ditch rider's part of a module stop. -/
def BootS.halted (b : BootS) (cause : Nat) : BootS :=
  { b with stopped := true, ready := false, faultN := false, railsUp := if cause ≤ 3 then false else b.railsUp,
           plls := if cause ≤ 3 then { island := b.plls.island && cause ≠ 3 } else b.plls }

section
variable (s : State) (cause detail : Nat) (h : s.boot.stopped = false)
include h

theorem State.stop_boot : (s.stop cause detail).boot = s.boot.halted cause := by
  unfold State.stop
  rw [if_neg (by simp [h])]
  dsimp only
  rw [State.emit_boot, wrAll_boot, wrAll_boot]
  rfl

theorem State.stopAny_boot : (s.stopAny cause).boot = s.boot.halted cause := by
  rw [State.stopAny, if_neg (by simp [h])]
  exact State.stop_boot _ cause _ h

theorem State.stopAny_mem : (s.stopAny cause).mem = s.mem := by
  rw [State.stopAny, if_neg (by simp [h])]
  unfold State.stop
  rw [if_neg (by simp [h])]
  dsimp only
  rw [State.emit_mem, wrAll_mem, wrAll_mem]
  rfl
end

theorem State.andThen_stopped (s : State) (f : State → State) (h : s.boot.stopped = true) : s.andThen f = s := if_pos h

/-- The state in which POWER_ON begins: what a reset loses is lost, and the rails are down. -/
def State.poweredOn (s : State) : State :=
  { s.lose rkPowerOn with boot := { (s.lose rkPowerOn).boot with railsUp := false, step := 1 } }

theorem State.startUp_powerOn (s : State) (e : BootEnv) :
    s.startUp rkPowerOn e = (s.poweredOn.bringUp e).andThen fun x => x.fromStep7 e := by
  have hn : (s.lose rkPowerOn).noteReset rkPowerOn s.boot.stopped = s.lose rkPowerOn := if_pos rfl
  unfold State.startUp
  rw [hn, if_pos (by decide), if_pos rfl]
  rfl

/-- A start-up whose input voltage is out of its window stops at step 3, and the rails stay down (R626, R628). -/
theorem State.startUp_noInput (s : State) {e : BootEnv} (h : e.inputOk = false) :
    s.startUp rkPowerOn e = (s.poweredOn.atStep 3).stopAny causeSupply := by
  have hb : s.poweredOn.bringUp e = (s.poweredOn.atStep 3).stopAny causeSupply := by rw [State.bringUp, if_pos (by simp [h])]
  rw [State.startUp_powerOn, hb]
  exact State.andThen_stopped _ _ (by rw [State.stopAny_boot _ _ rfl]; rfl)

/-! ### The reset pin (R639, R640) -/

section
variable (s : State) (us : Nat)

theorem exec_resetPinAssert_ignored (h : us < 1 ∨ s.boot.resetLow = true) : exec (.resetPinAssert us) s = .next s := by
  show execResetPinAssert us s = _
  rw [execResetPinAssert, if_pos h]

/-- A low of 10 µs holds the units. -/
theorem exec_resetPinAssert_holds (h : 10 ≤ us) (hr : s.boot.resetLow = false) : exec (.resetPinAssert us) s = .next s.holdReset := by
  show execResetPinAssert us s = _
  rw [execResetPinAssert, if_neg (by simp [hr]; omega), if_pos h]

/-- Between 1 and 10 µs a free value decides (log entry 86). -/
theorem exec_resetPinAssert_between (h1 : 1 ≤ us) (h : us < 10) (hr : s.boot.resetLow = false) :
    exec (.resetPinAssert us) s = .next (if Config.freeNat s.freeIdx % 2 = 1 then ({ s with freeIdx := s.freeIdx + 1 } : State).holdReset
      else { s with freeIdx := s.freeIdx + 1 }) := by
  show execResetPinAssert us s = _
  rw [execResetPinAssert, if_neg (by simp [hr]; omega), if_neg (by omega)]

theorem State.holdReset_only : s.holdReset = { s with boot := s.holdReset.boot } := by
  unfold State.holdReset
  dsimp only
  split_ifs <;> rfl

/-- What holding the units leaves of the ditch rider's state. -/
theorem State.holdReset_boot : s.holdReset.boot.resetLow = true ∧ s.holdReset.boot.stopped = s.boot.stopped ∧
    (s.boot.railsUp = true → s.holdReset.boot.ready = false ∧ s.holdReset.boot.step = 7) := by
  unfold State.holdReset
  cases h : s.boot.railsUp <;> simp
end

section
variable (s : State) (e : BootEnv)

theorem exec_resetPinRelease_ignored (h : s.boot.resetLow = false) : exec (.resetPinRelease e) s = .next s := by
  show execResetPinRelease e s = _
  simp [execResetPinRelease, h]

theorem exec_resetPinRelease_rises (h : s.boot.resetLow = true) : exec (.resetPinRelease e) s = .next (s.releaseReset e) := by
  show execResetPinRelease e s = _
  simp [execResetPinRelease, h]

/-- The state with RESET_N high. -/
def State.pinHigh (s : State) : State := { s with boot := { s.boot with resetLow := false } }

/-- RESET_N rises on a start-up that it has held: the start-up goes on at step 7. -/
theorem State.releaseReset_resumes (hr : s.boot.railsUp = true) (hk : s.boot.kind ≠ 1) (hs : s.boot.stopped = false) :
    s.releaseReset e = s.pinHigh.resumeStartUp e := by
  unfold State.releaseReset
  dsimp only
  rw [if_pos (by simp [hr, hs]; exact hk)]
  rfl

/-- RESET_N rises otherwise: a PIN reset. -/
theorem State.releaseReset_resets (h : s.boot.railsUp = false ∨ s.boot.kind = 1) : s.releaseReset e = s.pinHigh.reset_ rkPin e := by
  rcases h with h | h <;> simp [State.releaseReset, State.pinHigh, h]
end

end Sys2Proof.Machine
end

section
/-! The commands of module management (O60). -/

namespace Sys2Proof.Machine

/-- Settles O60: each command by its lemma above, a reset by the cases of `State.reset_`, and the reset pin by the three widths of its pulse. -/
theorem managementCommands : Obligations.ManagementCommands := by
  unfold Obligations.ManagementCommands
  refine ⟨fun s addr => rfl, ?commands, ?resets, ?noInput, ?pinLow, ?pinHigh⟩
  case commands =>
    intro s bs e mv ma a b f
    refine ⟨fun h => ⟨exec_regRead_bad s bs (.inl h), exec_boardConfig_bad s bs (.inl h)⟩,
      fun h => ⟨exec_status_bad s bs h, exec_i3cWake_bad s bs e h, exec_sense_bad s bs mv ma a b f h⟩,
      exec_i3cReset_bad s bs e, fun _ h => exec_regRead_bad s bs (.inr h), exec_regRead_waits s bs, exec_regRead_served s bs,
      fun k n hl ha hd hk hw => ?_, fun hl hp hs => ?_, exec_status s, rfl, fun h => ?_, fun h => ?_, exec_i3cReset_key s e, rfl, rfl⟩
    · rw [exec_regRead_served s bs hl ha hw, s.readReply_register hd hk]
    · exact ⟨_, exec_boardConfig_taken s bs hl hp, by rw [s.takeConfig_held hs]; rfl, by rw [s.takeConfig_held hs]; rfl⟩
    · rw [exec_i3cWake, h, if_neg Bool.false_ne_true]
    · rw [exec_i3cWake, h, if_pos rfl]
  case resets =>
    intro s kind e
    refine ⟨s.reset_afterStop kind e, s.reset_dry kind e, s.reset_powered kind e, ⟨?_, ?_, rfl, rfl, fun h => ?_, fun h => ?_,
      fun k n => s.reg_lose kind⟩, s.rstCause_noteReset kind s.boot.stopped⟩
    · rw [s.mem_lose]; cases coldKind kind <;> rfl
    · rw [s.mem_lose]; cases coldKind kind <;> rfl
    · rw [s.mem_lose, s.ctx_lose, h]; exact ⟨rfl, rfl⟩
    · rw [s.mem_lose, s.ctx_lose, h]; exact ⟨rfl, rfl⟩
  case noInput =>
    intro s e h
    refine ⟨_, rfl, ?_⟩
    rw [s.startUp_noInput h, State.stopAny_boot _ _ rfl, State.stopAny_mem _ _ rfl]
    exact ⟨rfl, rfl, rfl, s.mem_lose rkPowerOn⟩
  case pinLow =>
    intro s us
    refine ⟨exec_resetPinAssert_ignored s us, fun h1 hr => ?_⟩
    rcases Nat.lt_or_ge us 10 with h | h
    · refine ⟨_, exec_resetPinAssert_between s us h1 h hr, ?_, fun h' => absurd h' (by omega), fun _ => ?_⟩
      · split_ifs
        · rw [State.holdReset_only]
        · rfl
      · split_ifs
        · exact .inr (State.holdReset_boot _).1
        · exact .inl rfl
    · exact ⟨_, exec_resetPinAssert_holds s us h hr, by rw [State.holdReset_only], fun _ => s.holdReset_boot, fun h' => absurd h' (by omega)⟩
  case pinHigh =>
    intro s e
    refine ⟨exec_resetPinRelease_ignored s e, exec_resetPinRelease_rises s e, fun hl hr hs hd => ?_, fun hl hr hk hs => ?_,
      fun hl hr hk hd => ?_⟩
    · rw [exec_resetPinRelease_rises s e hl, s.releaseReset_resets e (.inl hr), s.pinHigh.reset_unpowered _ e hs hr hd]; rfl
    · rw [exec_resetPinRelease_rises s e hl, s.releaseReset_resumes e hr hk hs]; rfl
    · rw [exec_resetPinRelease_rises s e hl, s.releaseReset_resets e (.inr hk), s.pinHigh.reset_powered _ e hr hd]; rfl

end Sys2Proof.Machine
end

section
/-! SUPPORT. Owners of a stream changed together, operations that end, edits submitted for one operation, and a unit's write of Cistern. -/

namespace Sys2Proof.Machine

/-! ### Owners (R48, R58) -/

@[simp] theorem State.owner_setOwner (s : State) (n o : Nat) (x : OwnerRec) : (s.setOwner n o x).owner n o = x := by
  unfold State.owner State.setOwner StreamRec.owner StreamRec.setOwner
  rw [State.stream_setStream]
  by_cases h : o = trunkOwner <;> simp [h]

theorem State.owner_setOwner_other (s : State) (n : Nat) {o p : Nat} (x : OwnerRec) (h : p ≠ o) :
    (s.setOwner n o x).owner n p = s.owner n p := by
  unfold State.owner State.setOwner StreamRec.owner StreamRec.setOwner
  rw [State.stream_setStream]
  by_cases ho : o = trunkOwner
  · rw [if_pos ho, if_neg (ho ▸ h), if_neg (ho ▸ h)]
  · rw [if_neg ho, sget_sput_other _ _ _ _ h]

theorem State.mapOwners_only (n : Nat) (f : OwnerRec → OwnerRec) (os : List Nat) (s : State) :
    ∃ x, s.mapOwners n f os = { s with ctx := { s.ctx with streams := x } } := by
  induction os generalizing s with
  | nil => exact ⟨_, rfl⟩
  | cons o os ih =>
    obtain ⟨x, hx⟩ := ih (s.setOwner n o (f (s.owner n o)))
    exact ⟨x, by rw [State.mapOwners, hx]; rfl⟩

theorem State.stream_mapOwners_other {n k : Nat} (f : OwnerRec → OwnerRec) (os : List Nat) (s : State) (h : k ≠ n) :
    (s.mapOwners n f os).stream k = s.stream k := by
  induction os generalizing s with
  | nil => rfl
  | cons o os ih => rw [State.mapOwners, ih]; exact s.stream_setStream_other _ h

theorem State.owner_mapOwners_other (n : Nat) (f : OwnerRec → OwnerRec) {os : List Nat} {c : Nat} (s : State) (h : c ∉ os) :
    (s.mapOwners n f os).owner n c = s.owner n c := by
  induction os generalizing s with
  | nil => rfl
  | cons o os ih =>
    obtain ⟨ho, hos⟩ := not_or.1 (mt List.mem_cons.2 h)
    rw [State.mapOwners, ih _ hos, s.owner_setOwner_other n _ ho]

/-- Each owner named takes the change, once however often it is named. -/
theorem State.owner_mapOwners (n : Nat) {f : OwnerRec → OwnerRec} (hf : ∀ x, f (f x) = f x) {os : List Nat} {c : Nat} (s : State)
    (h : c ∈ os) : (s.mapOwners n f os).owner n c = f (s.owner n c) := by
  induction os generalizing s with
  | nil => exact absurd h List.not_mem_nil
  | cons o os ih =>
    rw [State.mapOwners]
    by_cases hc : c = o
    · subst hc
      by_cases hos : c ∈ os
      · rw [ih _ hos, State.owner_setOwner, hf]
      · rw [State.owner_mapOwners_other n f _ hos, State.owner_setOwner]
    · rw [ih _ ((List.mem_cons.1 h).resolve_left hc), s.owner_setOwner_other n _ hc]

theorem State.mapOwners_host (s : State) (n : Nat) (f : OwnerRec → OwnerRec) (os : List Nat) : (s.mapOwners n f os).host = s.host := by
  obtain ⟨x, hx⟩ := s.mapOwners_only n f os; rw [hx]

/-! ### Operations -/

/-- An operation that has ended leaves the others as they stand. -/
theorem State.op_finish_other (s : State) (o : Op) (st : BitVec 12) (dt : BitVec 16) (res : Word) {q : RingNo} {n : Seq}
    (h : ¬(q = o.ring ∧ n = o.seq)) : (s.finish o st dt res).op? q n = s.op? q n :=
  s.op_setOp_other _ fun e => h ⟨e.1.symm, e.2.symm⟩

theorem State.op_of_host {s t : State} (h : t.host = s.host) (q : RingNo) (n : Seq) : t.op? q n = s.op? q n := by
  unfold State.op?; rw [h]

/-! ### Edits submitted for one operation (R42, R305) -/

/-- An edit submitted for an operation joins the queue, and the operation waits for one write more. -/
theorem State.submitEdit_caused (s : State) {e : Edit} {q : RingNo} {n : Seq} {o : Op} (he : e.cause = some (q, n))
    (ho : s.op? q n = some o) : s.submitEdit e = { s.setOp { o with unacked := o.unacked + 1 } with edits := s.edits ++ [e] } := by
  have h1 : ({ s with edits := s.edits ++ [e] } : State).op? q n = some o := ho
  unfold State.submitEdit
  simp only [he, h1]
  rfl

/-- Edits submitted for an operation join the queue in their order, and the operation waits for as many writes more. -/
theorem State.submitEdits_caused (s : State) {es : List Edit} {q : RingNo} {n : Seq} {o : Op} (he : ∀ e ∈ es, e.cause = some (q, n))
    (ho : s.op? q n = some o) : ∃ l, s.submitEdits es = { s with host := { s.host with ops := l }, edits := s.edits ++ es } ∧
      (s.submitEdits es).op? q n = some { o with unacked := o.unacked + es.length } := by
  induction es generalizing s o with
  | nil => exact ⟨s.host.ops, by rw [List.append_nil]; rfl, ho⟩
  | cons e es ih =>
    obtain ⟨hr, hn⟩ := s.op_ring ho
    have h1 := s.submitEdit_caused (he e List.mem_cons_self) ho
    have h2 : (s.submitEdit e).op? q n = some { o with unacked := o.unacked + 1 } := by
      rw [h1]; exact s.op_setOp _ ho hr hn
    obtain ⟨l, h3, h4⟩ := ih (s.submitEdit e) (fun x hx => he x (List.mem_cons_of_mem _ hx)) h2
    refine ⟨l, ?_, ?_⟩
    · rw [State.submitEdits, h3, h1]
      simp [State.setOp]
    · rw [State.submitEdits, h4, List.length_cons, Nat.add_assoc, Nat.add_comm 1]

/-! ### A unit's write of Cistern (R420) -/

theorem State.cisBytes_cisSend (s : State) (part : Option Nat) (a : Nat) (bs : List Byte) :
    (s.cisSend part a bs).cisBytes a bs.length = bs := State.cisBytes_cisWrite _ a bs

/-- What a write spares depends on the registers of the protected region. -/
theorem State.cisSpares_congr {s t : State} (hr : t.reg .cisProt 0 = s.reg .cisProt 0) {a n b : Nat} (h : s.cisSpares a n b) :
    t.cisSpares a n b := by
  have hrd : ∀ f : Fld, f.reg = .cisProt → t.rd f = s.rd f := fun f hf => by unfold State.rd; rw [hf, hr]
  have hp : ∀ x, t.parityOf x = s.parityOf x := fun x => by
    simp only [State.parityOf, State.stripeOf, State.protBase, State.parBase, hrd CIS_PROT_BASE_1M rfl, hrd CIS_PROT_PAR_BASE_1M rfl]
  unfold State.cisSpares State.flag State.protBase State.protSize at *
  rw [hrd CIS_PROT_READY rfl, hrd CIS_PROT_BASE_1M rfl, hrd CIS_PROT_SIZE_7M rfl]
  simpa only [hp] using h

/-- A byte of Cistern that a unit's write spares stays. -/
theorem State.cisByte_cisSend_other (s : State) (part : Option Nat) (a : Nat) (bs : List Byte) {b : Nat}
    (h : s.cisSpares a bs.length b) : (s.cisSend part a bs).cisBytes b 1 = s.cisBytes b 1 := by
  have hm := (mapStands_sendGranules part (bs.length / 256 + 2) s a bs.length).mem
  have hr : (s.cisSend part a bs).reg .cisProt 0 = s.reg .cisProt 0 :=
    (carries_cisSend s part a bs).traffic.regs .cisProt 0 (by decide +kernel) (by decide)
  have hs : (s.sendGranules part a bs.length (bs.length / 256 + 2)).cisSpares a bs.length b := State.cisSpares_congr hr h
  rw [State.cisSend, State.cisByte_cisWrite_other _ a bs b hs]
  simp only [State.cisBytes, hm]

end Sys2Proof.Machine
end

section
/-! Streams that open and fork (O10). -/

namespace Sys2Proof.Machine

theorem Op.toNat_fld (o : Op) (b lo w : Nat) : (BitVec.ofNat w (o.fld b lo w)).toNat = o.fld b lo w :=
  (BitVec.toNat_ofNat ..).trans (Nat.mod_eq_of_lt (Nat.mod_lt _ (Nat.two_pow_pos w)))

/-! ### STREAM_OPEN (R49, R51, R57) -/

/-- The record of a stream that STREAM_OPEN makes: its trunk LIVE on a sealed slot A of zeros. -/
def Op.openedStream (o : Op) (s : State) (sz : Nat) : StreamRec :=
  { st := .open_, everOpen := true, home := some o.ring, tenant := o.tenant s, model := BitVec.ofNat 64 (o.fld 24 0 64),
    policy := BitVec.ofNat 64 (o.fld 32 0 64), part := BitVec.ofNat 6 (o.fld 20 0 6), cap := o.fld 22 0 12 + 1, region := o.fld 40 0 48,
    trainT := o.fld 48 0 64, trunk := { live := true, sealA := .sealed, crcA := crc32c (List.replicate sz 0) } }

/-- Where STREAM_OPEN puts the trunk's slot A. -/
def Op.openedSlot (o : Op) : Nat := o.fld 40 0 48 + futureTableEnd (o.fld 22 0 12 + 1)

/-- The state with the stream made and its trunk's zero state written. -/
def State.opened (s : State) (o : Op) (sz : Nat) : State :=
  (s.setStream o.streamNo (o.openedStream s sz)).cisSend (some (o.fld 20 0 6)) o.openedSlot (List.replicate sz 0)

section
variable (s : State) (o : Op) (sz : Nat)

theorem carries_opened : Carries (s.setStream o.streamNo (o.openedStream s sz)) (s.opened o sz) := carries_cisSend _ _ _ _

theorem State.opened_ctx : (s.opened o sz).ctx = (s.setStream o.streamNo (o.openedStream s sz)).ctx := by
  rw [(carries_opened s o sz).frame]; rfl

theorem State.opened_host : (s.opened o sz).host = s.host := by
  rw [(carries_opened s o sz).frame]; rfl

theorem State.stream_opened : (s.opened o sz).stream o.streamNo = o.openedStream s sz := by
  unfold State.stream; rw [State.opened_ctx]; exact s.stream_setStream _ _

theorem State.stream_opened_other {k : Nat} (h : k ≠ o.streamNo) : (s.opened o sz).stream k = s.stream k := by
  unfold State.stream; rw [State.opened_ctx]; exact s.stream_setStream_other _ h

theorem State.slotAddr_of_opened {t : State} (h : t.stream o.streamNo = o.openedStream s sz) :
    t.slotAddr o.streamNo trunkOwner false = o.openedSlot := by
  simp [State.slotAddr, h, Op.openedStream, Op.openedSlot]

theorem State.stateBytes_opened {m : ModelRec} (hm : s.model? (o.fld 24 0 64) = some m) :
    (s.opened o sz).stateBytes o.streamNo = m.stateBytes := by
  have hm' : (s.opened o sz).model? (o.fld 24 0 64) = some m := by
    unfold State.model? at hm ⊢; rw [State.opened_ctx]; exact hm
  unfold State.stateBytes
  rw [State.stream_opened, Op.openedStream, Op.toNat_fld, hm']
  rfl

theorem State.cisBytes_opened : (s.opened o sz).cisBytes o.openedSlot sz = List.replicate sz 0 := by
  have h := (s.setStream o.streamNo (o.openedStream s sz)).cisBytes_cisSend (some (o.fld 20 0 6)) o.openedSlot (List.replicate sz 0)
  rwa [List.length_replicate] at h

theorem State.cisByte_opened_other {a : Nat} (h : s.cisSpares o.openedSlot sz a) : (s.opened o sz).cisBytes a 1 = s.cisBytes a 1 :=
  (s.setStream o.streamNo (o.openedStream s sz)).cisByte_cisSend_other _ _ _
    (State.cisSpares_congr rfl (by rwa [List.length_replicate]))

/-- Beside the stream's record, only what the channels' traffic may change. -/
theorem State.opened_only : s.opened o sz =
    { s.withTraffic (s.opened o sz) with ctx := { s.ctx with streams := (s.opened o sz).ctx.streams } } := by
  conv_lhs => rw [(carries_opened s o sz).frame]
  rw [State.opened_ctx]
  rfl

theorem State.opened_finish_only : (s.opened o sz).finish o stOk =
    { s.withTraffic (s.opened o sz) with host := { s.host with ops := ((s.opened o sz).finish o stOk).host.ops },
                                         ctx := { s.ctx with streams := (s.opened o sz).ctx.streams } } := by
  have h : (s.opened o sz).finish o stOk =
      { s.opened o sz with host := { s.host with ops := ((s.opened o sz).finish o stOk).host.ops } } := by
    rw [← s.opened_host o sz]; rfl
  exact h.trans (congrArg (fun x : State => { x with host := { s.host with ops := ((s.opened o sz).finish o stOk).host.ops } })
    (s.opened_only o sz))

theorem traffic_opened : Traffic s ((s.opened o sz).finish o stOk) :=
  have h := (carries_opened s o sz).traffic
  ⟨h.regs, h.sent, h.calm⟩

end

theorem exec_streamOpen_opens {s : State} {q : RingNo} {n : Seq} {o : Op} {m : ModelRec} (h : OpReady s q n o 0x01)
    (hc : s.recheck o = none) (hm : s.model? (o.fld 24 0 64) = some m) (ho : s.cisOpen o.openedSlot m.stateBytes = true) :
    exec (.streamOpen q n) s = .next ((s.opened o m.stateBytes).finish o stOk) := by
  obtain ⟨rfl, rfl⟩ := s.op_ring h.found
  show execStreamOpen o.ring o.seq s = _
  unfold execStreamOpen
  rw [State.opRow_ready _ h]
  simp only [hc, hm, Option.map_some, Option.getD_some]
  have ha : (s.setStream o.streamNo (o.openedStream s m.stateBytes)).slotAddr o.streamNo trunkOwner false = o.openedSlot :=
    State.slotAddr_of_opened s o _ (s.stream_setStream _ _)
  rw [Op.openedStream] at ha
  rw [ha, ho]
  rfl

/-! ### FORK (R56 to R58) -/

/-- The owner that a FORK copies. -/
def Op.forkParent (o : Op) : Nat := o.readOwners.headD trunkOwner

/-- What a FORK makes of a child. -/
def State.forked (s : State) (o : Op) : OwnerRec → OwnerRec :=
  forkChild (s.owner o.streamNo o.forkParent) ((s.owner o.streamNo o.forkParent).committed.place o.forkParent)

/-- The SHARE edits of a FORK. -/
def State.shareEdits (s : State) (o : Op) (q : RingNo) (n : Seq) : List Edit :=
  o.children.map fun c => { kind := .share, part := (s.stream o.streamNo).part.toNat, stream := o.streamNo, owner := c,
                            arg := (s.owner o.streamNo o.forkParent).block, cause := some (q, n) }

theorem exec_fork_forks {s : State} {q : RingNo} {n : Seq} {o : Op} (h : OpReady s q n o 0x03) (hc : s.recheck o = none)
    (hr : s.readsRefused o.streamNo o.readOwners = none) : exec (.fork q n) s =
      .next (((s.mapOwners o.streamNo (s.forked o) o.children).finish o stOk).submitEdits (s.shareEdits o q n)) := by
  show execFork q n s = _
  unfold execFork
  rw [State.opRow_ready _ h]
  simp only [hc, hr]
  rfl

/-- Settles O10: the opened stream by the one write of its slot (`cisBytes_cisSend`, `carries_cisSend`), the fork by its children's one
change (`owner_mapOwners`) and their edits (`submitEdits_caused`). -/
theorem streamsOpenAndFork : Obligations.StreamsOpenAndFork := by
  unfold Obligations.StreamsOpenAndFork
  refine ⟨fun s q n o h hc m hm ho => ?opened, fun s q n o h hc hr => ?forked⟩
  case opened =>
    obtain ⟨rfl, rfl⟩ := s.op_ring h.found
    have hb := s.stateBytes_opened o m.stateBytes hm
    have ha := s.slotAddr_of_opened o _ (s.stream_opened o m.stateBytes)
    have hop := State.op_of_host (s.opened_host o m.stateBytes)
    refine ⟨_, exec_streamOpen_opens h hc hm ho, State.op_finish _ _ _ _ ((hop _ _).trans h.found), ?record, ?zero, fun a hs => ?spared,
      fun k hk => s.stream_opened_other o _ hk, fun q' n' hne => (State.op_finish_other _ _ _ _ _ hne).trans (hop q' n'),
      traffic_opened s o _, s.opened_finish_only o _⟩
    case record =>
      have hr : ((s.opened o m.stateBytes).finish o stOk).stream o.streamNo = o.openedStream s m.stateBytes := s.stream_opened o _
      rw [hr]
      exact ⟨rfl, rfl, rfl, o.toNat_fld _ _ _, o.toNat_fld _ _ _, o.toNat_fld _ _ _, rfl, rfl, rfl, rfl, rfl, rfl, rfl,
        fun f hf => if_neg hf⟩
    case zero =>
      show (s.opened o m.stateBytes).cisBytes ((s.opened o m.stateBytes).slotAddr o.streamNo trunkOwner false)
        ((s.opened o m.stateBytes).stateBytes o.streamNo) = List.replicate ((s.opened o m.stateBytes).stateBytes o.streamNo) 0
      rw [ha, hb, s.cisBytes_opened]
    case spared =>
      replace hs : s.cisSpares ((s.opened o m.stateBytes).slotAddr o.streamNo trunkOwner false)
        ((s.opened o m.stateBytes).stateBytes o.streamNo) a := hs
      rw [ha, hb] at hs
      exact s.cisByte_opened_other o _ hs
  case forked =>
    have h1 : ((s.mapOwners o.streamNo (s.forked o) o.children).finish o stOk).op? q n = some (o.ended stOk 0 0) :=
      State.op_finish _ _ _ _ ((State.op_of_host (s.mapOwners_host _ _ _) q n).trans h.found)
    obtain ⟨l, ht, ho⟩ := State.submitEdits_caused (es := s.shareEdits o q n) _ (by simp [State.shareEdits]) h1
    obtain ⟨x, hx⟩ := s.mapOwners_only o.streamNo (s.forked o) o.children
    have hctx : (((s.mapOwners o.streamNo (s.forked o) o.children).finish o stOk).submitEdits (s.shareEdits o q n)).ctx =
        (s.mapOwners o.streamNo (s.forked o) o.children).ctx := by rw [ht]; rfl
    have hst : ∀ k, (((s.mapOwners o.streamNo (s.forked o) o.children).finish o stOk).submitEdits (s.shareEdits o q n)).stream k =
        (s.mapOwners o.streamNo (s.forked o) o.children).stream k := fun k => by unfold State.stream; rw [hctx]
    refine ⟨_, exec_fork_forks h hc hr, ?op, fun c hm => ?child, ?edits, fun c hm => ?other, fun k hk => ?streams, ?frame⟩
    case op => rw [ho]; simp [State.shareEdits, Op.ended]
    case child =>
      have ho : State.owner _ _ c = _ := s.owner_mapOwners o.streamNo (f := s.forked o) (fun _ => rfl) hm
      simp only [State.owner] at ho ⊢
      rw [hst, ho]
      exact ⟨rfl, rfl, rfl, rfl, rfl⟩
    case edits => rw [ht, hx]; rfl
    case other => unfold State.owner; rw [hst]; exact s.owner_mapOwners_other _ _ hm
    case streams => rw [hst]; exact s.stream_mapOwners_other _ _ hk
    case frame => rw [ht, hx]; rfl

end Sys2Proof.Machine
end

section
/-! SUPPORT. A key of a sparse map set twice, and the streams, tiles and staging slots of a plot, each as what an update leaves. -/

namespace Sys2Proof.Machine

/-! ### A key set twice -/

section
variable {α : Type}

theorem sdel_of_not_mem {m : Sparse α} {i : Nat} (h : ∀ w, (i, w) ∉ m) : sdel m i = m := by
  induction m with
  | nil => rfl
  | cons x m ih =>
    have hx : i ≠ x.1 := fun e => h x.2 (by rw [e]; exact List.mem_cons_self)
    rw [sdel, if_neg hx, ih fun w hw => h w (List.mem_cons_of_mem _ hw)]

theorem sdel_sins {m : Sparse α} {i : Nat} (v : α) (h : ∀ w, (i, w) ∉ m) : sdel (sins m i v) i = m := by
  induction m with
  | nil => simp [sins, sdel]
  | cons x m ih =>
    have hx : i ≠ x.1 := fun e => h x.2 (by rw [e]; exact List.mem_cons_self)
    have hm : ∀ w, (i, w) ∉ m := fun w hw => h w (List.mem_cons_of_mem _ hw)
    by_cases hlt : i < x.1
    · simp [sins, sdel, hlt, hx, sdel_of_not_mem hm]
    · simp [sins, sdel, hlt, hx, ih hm]

@[simp] theorem sput_sput [DecidableEq α] (d : α) (m : Sparse α) (i : Nat) (v w : α) : sput d (sput d m i v) i w = sput d m i w := by
  have h : sdel (sput d m i v) i = sdel m i := by
    unfold sput
    split_ifs
    · exact sdel_of_not_mem (not_mem_sdel m i)
    · exact sdel_sins v (not_mem_sdel m i)
  unfold sput at h ⊢
  rw [h]

end

@[simp] theorem State.setPlot_setPlot (s : State) (p : Nat) (x y : Plot) : (s.setPlot p x).setPlot p y = s.setPlot p y := by
  simp [State.setPlot]

/-! ### Streams of a plot -/

section
variable (x : Plot) (sel : StreamSel) (v w : StreamPos)

@[simp] theorem Plot.stream_setStream : (x.setStream sel v).stream sel = v := by cases sel <;> rfl
@[simp] theorem Plot.setStream_setStream : (x.setStream sel v).setStream sel w = x.setStream sel w := by cases sel <;> rfl
@[simp] theorem Plot.passes_setStream : (x.setStream sel v).passes = x.passes := by cases sel <;> rfl
@[simp] theorem Plot.part_setStream : (x.setStream sel v).part = x.part := by cases sel <;> rfl
@[simp] theorem Plot.tile_setStream (k : Nat) : (x.setStream sel v).tile k = x.tile k := by cases sel <;> rfl
@[simp] theorem Plot.stage_setStream (b : Bool) (k : Nat) : (x.setStream sel v).stage b k = x.stage b k := by cases sel <;> rfl

end

/-! ### Tiles and staging slots -/

section
variable (x : Plot)

@[simp] theorem Plot.tile_setTile (t : Nat) (v : Tile) : (x.setTile t v).tile t = v := by simp [Plot.tile, Plot.setTile]

theorem Plot.tile_setTile_other {t k : Nat} (v : Tile) (h : k ≠ t) : (x.setTile t v).tile k = x.tile k := by
  simp [Plot.tile, Plot.setTile, sget_sput_other, h]

@[simp] theorem Plot.stage_setTile (t : Nat) (v : Tile) (b : Bool) (k : Nat) : (x.setTile t v).stage b k = x.stage b k := rfl

@[simp] theorem Plot.stage_setStage (b : Bool) (k : Nat) (v : StageSlot) : (x.setStage b k v).stage b k = v := by
  cases b <;> simp [Plot.stage, Plot.setStage]

theorem Plot.stage_setStage_other {b c : Bool} {n k : Nat} (v : StageSlot) (h : c ≠ b ∨ k ≠ n) :
    (x.setStage b n v).stage c k = x.stage c k := by
  by_cases hc : c = b
  · subst hc
    have hk := h.resolve_left (not_not_intro rfl)
    cases c <;> simp [Plot.stage, Plot.setStage, sget_sput_other, hk]
  · match b, c, hc with
    | false, true, _ => rfl
    | true, false, _ => rfl
    | false, false, hc => exact absurd rfl hc
    | true, true, hc => exact absurd rfl hc

@[simp] theorem Plot.tile_setStage (b : Bool) (n : Nat) (v : StageSlot) (k : Nat) : (x.setStage b n v).tile k = x.tile k := by
  cases b <;> rfl

end

/-- A tile after those of a mask were freed (R132, R153): its contents stay. -/
theorem Plot.tile_freeTiles (x : Plot) (mask : BitVec 16) {k : Nat} (hk : k < 16) :
    (x.freeTiles mask).tile k = if mask.getLsbD k then { data := (x.tile k).data } else x.tile k := by
  have key : ∀ (l : List Nat) (x : Plot), (l.foldl (fun x t => if mask.getLsbD t then x.freeTile t else x) x).tile k =
      if k ∈ l ∧ mask.getLsbD k = true then { data := (x.tile k).data } else x.tile k := by
    intro l
    induction l with
    | nil => intro x; simp
    | cons t l ih =>
      intro x
      rw [List.foldl_cons, ih]
      by_cases ht : k = t
      · subst ht
        cases hm : mask.getLsbD k <;> simp [Plot.freeTile]
      · cases hm : mask.getLsbD t <;> simp [Plot.freeTile, x.tile_setTile_other _ ht, ht]
  rw [Plot.freeTiles, key]
  simp [hk]

@[simp] theorem Plot.stage_freeTiles (x : Plot) (mask : BitVec 16) (b : Bool) (k : Nat) : (x.freeTiles mask).stage b k = x.stage b k := by
  have key : ∀ (l : List Nat) (x : Plot), (l.foldl (fun x t => if mask.getLsbD t then x.freeTile t else x) x).stage b k = x.stage b k := by
    intro l
    induction l with
    | nil => exact fun _ => rfl
    | cons t l ih => intro x; rw [List.foldl_cons, ih]; split_ifs <;> rfl
  exact key _ x

/-- A staging slot after those of a mask were emptied. -/
theorem Plot.stage_emptySlots (x : Plot) (b : Bool) (mask : Nat) {n k : Nat} (hk : k < n) :
    (x.emptySlots b mask n).stage b k = { x.stage b k with full := (x.stage b k).full && !mask.testBit k } := by
  have key : ∀ (l : List Nat) (x : Plot), (l.foldl (fun x t => if mask.testBit t then x.emptySlot b t else x) x).stage b k =
      if k ∈ l then { x.stage b k with full := (x.stage b k).full && !mask.testBit k } else x.stage b k := by
    intro l
    induction l with
    | nil => intro x; simp
    | cons t l ih =>
      intro x
      rw [List.foldl_cons, ih]
      by_cases ht : k = t
      · subst ht
        cases hm : mask.testBit k <;> simp [Plot.emptySlot]
      · cases hm : mask.testBit t <;> simp [Plot.emptySlot, x.stage_setStage_other _ (.inr ht), ht]
  rw [Plot.emptySlots, key, if_pos (List.mem_range.2 hk)]

/-- Emptying slots of one bank leaves the tiles and the other bank. -/
theorem Plot.emptySlots_other (x : Plot) (b : Bool) (mask n : Nat) : (∀ k, (x.emptySlots b mask n).tile k = x.tile k) ∧
    ∀ c k, c ≠ b → (x.emptySlots b mask n).stage c k = x.stage c k := by
  have key : ∀ (l : List Nat) (x : Plot), let y := l.foldl (fun x t => if mask.testBit t then x.emptySlot b t else x) x
      (∀ k, y.tile k = x.tile k) ∧ ∀ c k, c ≠ b → y.stage c k = x.stage c k := by
    intro l
    induction l with
    | nil => exact fun _ => ⟨fun _ => rfl, fun _ _ _ => rfl⟩
    | cons t l ih =>
      intro x
      obtain ⟨h1, h2⟩ := ih (if mask.testBit t then x.emptySlot b t else x)
      refine ⟨fun k => (h1 k).trans ?_, fun c k hc => (h2 c k hc).trans ?_⟩
      · split_ifs
        · exact x.tile_setStage _ _ _ _
        · rfl
      · split_ifs
        · exact x.stage_setStage_other _ (.inl hc)
        · rfl
  exact key _ x

end Sys2Proof.Machine
end

section
/-! SUPPORT. A stream past its head word, layer decisions, and the first token of a source. -/

namespace Sys2Proof.Machine

/-! ### A word at the head of its stream (R159, R160) -/

/-- A word at the head of its stream has its effect. -/
theorem State.streamRow_head {s : State} {p : PPlot} {sel : StreamSel} {w : StreamWord} {it : ExpItem}
    (f : State → Nat → Plot → ExpItem → State) (h : AtHead s p sel w it) :
    s.streamRow p sel w f = .next (f s p.toNat (s.plot p.toNat) it) := by
  rw [State.streamRow, State.issue_runs _ _ h.runs]
  simp [h.running, h.issues, h.head, h.shown]

section
variable {s : State} {p : PPlot} {sel : StreamSel} {it : ExpItem}

theorem exec_nopWord (h : AtHead s p sel .nop it) : exec (.nopWord p sel) s = .next (s.advance p.toNat sel) := by
  show execNopWord p sel s = _
  rw [execNopWord, State.streamRow_head _ h]

theorem exec_wait {w : WaitWord} (h : AtHead s p sel (.wait w) it) : exec (.wait p sel w) s =
    .next (if reached ((s.plot p.toNat).counter w.ctr.toNat) w.value then s.advance p.toNat sel else s) := by
  show execWait p sel w s = _
  rw [execWait, State.streamRow_head _ h]

theorem exec_signal {w : SignalWord} (h : AtHead s p sel (.signal w) it) (hr : (s.plot p.toNat).retired sel = true) :
    exec (.signal p sel w) s = .next ((s.sendToken p.toNat (if w.remote then s.physOf w.lplot.toNat else p.toNat)
      w.ctr.toNat w.inc.toNat).advance p.toNat sel) := by
  show execSignal p sel w s = _
  rw [execSignal, State.streamRow_head _ h]
  exact congrArg Host.Outcome.next (if_pos hr)

theorem exec_layer_end {w : LayerWord} (h : AtHead s p sel (.layer w) it) (he : w.isEnd = true)
    (hr : (s.plot p.toNat).retired sel = true) : exec (.layer p sel w) s = .next (s.setPlot p.toNat
      ((s.plot p.toNat).setStream sel { (s.plot p.toNat).stream sel with atLayer := some w.layer.toNat })) := by
  show execLayer p sel w s = _
  rw [execLayer, State.streamRow_head _ h]
  exact congrArg Host.Outcome.next ((if_pos he).trans (if_pos hr))

theorem exec_layer_begin {w : LayerWord} (h : AtHead s p sel (.layer w) it) (he : w.isEnd = false) : exec (.layer p sel w) s =
    .next ((if sel = .furrow then s.setPlot p.toNat { s.plot p.toNat with satCount := 0 } else s).advance p.toNat sel) := by
  show execLayer p sel w s = _
  rw [execLayer, State.streamRow_head _ h]
  exact congrArg Host.Outcome.next (if_neg (by rw [he]; exact Bool.false_ne_true))

theorem exec_ret {r : Nat} (h : AtHead s p sel .ret it) (hq : ((s.plot p.toNat).stream sel).ret = some r)
    (hr : (s.plot p.toNat).retired sel = true) : exec (.ret p sel) s = .next (s.setPlot p.toNat
      ((s.plot p.toNat).setStream sel { (s.plot p.toNat).stream sel with pc := r, ret := none })) := by
  show execRet p sel s = _
  rw [execRet, State.streamRow_head _ h]
  simp only [hq, hr, if_true]

theorem exec_endWord (h : AtHead s p sel .end_ it) (hr : (s.plot p.toNat).retired sel = true) : exec (.endWord p sel) s =
    .next (s.setPlot p.toNat ((s.plot p.toNat).setStream sel { (s.plot p.toNat).stream sel with ended := true })) := by
  show execEndWord p sel s = _
  rw [execEndWord, State.streamRow_head _ h]
  exact congrArg Host.Outcome.next (if_pos hr)

end

/-! ### The next word (R160, R187, R302) -/

theorem endWith_append (ws : List Nat) (l : List PassRec) (r : PassRec) : endWith ws (l ++ [r]) = l ++ [{ r with ends := r.ends ++ ws }] := by
  induction l with
  | nil => rfl
  | cons x l ih =>
    cases l with
    | nil => rfl
    | cons y l => exact congrArg (x :: ·) ih

theorem State.endWalks_only (part : Nat) (ws : List Nat) (s : State) : ∃ q, s.endWalks part ws = { s with pools := q } := by
  induction ws generalizing s with
  | nil => exact ⟨_, rfl⟩
  | cons w ws ih =>
    obtain ⟨q, hq⟩ := ih (s.endWalk part w)
    exact ⟨q, by rw [State.endWalks, hq]; rfl⟩

section
variable (s : State) (p : Nat) (sel : StreamSel)

theorem State.settle_word (h : ∀ ws, ((s.plot p).stream sel).exp.head? ≠ some (.retire ws)) : s.settle p sel = s := by
  unfold State.settle
  dsimp only
  split
  · rename_i ws rest he
    exact absurd (by rw [he]; rfl) (h ws)
  · rfl

theorem State.settle_retire {ws : List Nat} {rest : List ExpItem} (h : ((s.plot p).stream sel).exp = .retire ws :: rest) :
    s.settle p sel =
      let y := (s.plot p).setStream sel { (s.plot p).stream sel with exp := rest }
      if sel = .flume ∧ !(s.plot p).passes.isEmpty then s.setPlot p { y with passes := endWith ws (s.plot p).passes }
      else (s.setPlot p y).endWalks (s.plot p).part ws := by
  unfold State.settle
  simp only [h, Plot.passes_setStream]

theorem State.advance_own (h : ((s.plot p).stream sel).exp = []) : s.advance p sel =
    s.setPlot p ((s.plot p).setStream sel { (s.plot p).stream sel with pc := ((s.plot p).stream sel).pc + 1 }) := by
  unfold State.advance
  simp only [h]
  exact State.settle_word _ _ _ (by simp)

theorem State.advance_expanded {i : ExpItem} {rest : List ExpItem} (h : ((s.plot p).stream sel).exp = i :: rest)
    (hr : ∀ ws, rest.head? ≠ some (.retire ws)) :
    s.advance p sel = s.setPlot p ((s.plot p).setStream sel { (s.plot p).stream sel with exp := rest }) := by
  unfold State.advance
  simp only [h]
  exact State.settle_word _ _ _ (by simpa using hr)

theorem State.advance_retire {i : ExpItem} {ws : List Nat} {rest : List ExpItem}
    (h : ((s.plot p).stream sel).exp = i :: .retire ws :: rest) : s.advance p sel =
      let y := (s.plot p).setStream sel { (s.plot p).stream sel with exp := rest }
      if sel = .flume ∧ !(s.plot p).passes.isEmpty then s.setPlot p { y with passes := endWith ws (s.plot p).passes }
      else (s.setPlot p y).endWalks (s.plot p).part ws := by
  unfold State.advance
  simp only [h]
  rw [State.settle_retire (ws := ws) (rest := rest) _ _ _ (by simp)]
  simp

/-- The plot of a stream past its head word. -/
theorem State.advance_plot : ∃ q ps, (s.advance p sel).plot p = { (s.plot p).setStream sel q with passes := ps } := by
  have hn : ∀ q : StreamPos, (s.setPlot p ((s.plot p).setStream sel q)).plot p =
      { (s.plot p).setStream sel q with passes := (s.plot p).passes } := fun q => by
    rw [State.plot_setPlot]; cases sel <;> rfl
  rcases he : ((s.plot p).stream sel).exp with _ | ⟨i, rest⟩
  · rw [s.advance_own p sel he]; exact ⟨_, _, hn _⟩
  · by_cases hr : ∀ ws, rest.head? ≠ some (.retire ws)
    · rw [s.advance_expanded p sel he hr]; exact ⟨_, _, hn _⟩
    · obtain ⟨ws, hws⟩ := not_forall_not.1 hr
      obtain ⟨l, rfl⟩ := List.head?_eq_some_iff.1 hws
      rw [s.advance_retire p sel he]
      dsimp only
      split_ifs
      · exact ⟨_, _, s.plot_setPlot p _⟩
      · obtain ⟨q, hq⟩ := State.endWalks_only (s.plot p).part ws (s.setPlot p ((s.plot p).setStream sel { (s.plot p).stream sel with exp := l }))
        exact ⟨_, _, by rw [hq]; exact hn _⟩

theorem State.advance_only : ∃ x q, s.advance p sel = { s with plots := x, pools := q } := by
  unfold State.advance State.settle
  dsimp only
  split
  · split_ifs
    · exact ⟨_, _, rfl⟩
    · exact ⟨_, _, by rw [(State.endWalks_only _ _ _).choose_spec]; rfl⟩
  · exact ⟨_, _, rfl⟩

end

/-! ### RELEASE (R164, R171) -/

theorem exec_release_frees {s : State} {p : PPlot} {sel : StreamSel} {it : ExpItem} {w : ReleaseWord} (h : AtHead s p sel (.release w) it)
    (hr : (s.plot p.toNat).retired sel = true) (ha : ∀ k < 8, w.rmask.getLsbD k = true → (s.plot p.toNat).slotRead false k = false)
    (hb : ∀ k < 16, w.bmask.getLsbD k = true → (s.plot p.toNat).slotRead true k = false)
    (ht : ∀ k < 16, w.amask.getLsbD k = true → ((s.plot p.toNat).tile k).st ≠ .pending ∧ ((s.plot p.toNat).tile k).held = 0 ∧
      ((s.plot p.toNat).fence = true → (s.plot p.toNat).isState k = false)) :
    exec (.release p sel w) s = .next ((s.setPlot p.toNat ((((s.plot p.toNat).freeTiles w.amask).emptySlots false w.rmask.toNat 8).emptySlots
      true w.bmask.toNat 16)).advance p.toNat sel) := by
  have hA : ((List.range 8).any fun n => w.rmask.getLsbD n && (s.plot p.toNat).slotRead false n) = false := by
    simpa using ha
  have hB : ((List.range 16).any fun n => w.bmask.getLsbD n && (s.plot p.toNat).slotRead true n) = false := by
    simpa using hb
  have hT : ((List.range 16).any fun t => w.amask.getLsbD t && (((s.plot p.toNat).tile t).st = .pending ||
      decide (0 < ((s.plot p.toNat).tile t).held))) = false := by
    simp only [List.any_eq_false, List.mem_range]
    intro k hk
    cases hm : w.amask.getLsbD k
    · simp
    · obtain ⟨h1, h2, -⟩ := ht k hk hm
      simp [h1, h2]
  have hF : ((s.plot p.toNat).fence && (List.range 16).any fun t => w.amask.getLsbD t && (s.plot p.toNat).isState t) = false := by
    cases hf : (s.plot p.toNat).fence
    · rfl
    · simpa using fun k hk hm => (ht k hk hm).2.2 hf
  show execRelease p sel w s = _
  rw [execRelease, State.streamRow_head _ h]
  simp only [hr, hA, hB, hT, hF]
  rfl

/-! ### LAYER_DECIDE (R103, R104, R167) -/

theorem State.count_le (s : State) (c : Ctr) (n : Nat) : s.count c n ≤ ctrMax :=
  Nat.le_sub_one_of_lt (sget (0 : BitVec 48) s.ctrs (c.off n)).isLt

@[simp] theorem satAdd_count_zero (s : State) (c : Ctr) (n : Nat) : satAdd (s.count c n) 0 = s.count c n := by
  have := s.count_le c n
  unfold satAdd
  split_ifs <;> omega

/-- The counters of a layer decision: that it was made, that its count stood at the end of its range, and what came of a count above the
threshold. -/
def State.countDecision (s : State) (n : Nat) (pegged above wide : Bool) : State :=
  let s1 := s.bump ctrLayersDecided n
  let s2 := if pegged then s1.bump ctrSatPegged n else s1
  if wide then s2.bump ctrLayersWidened n else if above then s2.bump ctrOverNoWide n else s2

section
variable (s : State) (n : Nat) (pegged above wide : Bool)

theorem State.countDecision_only : ∃ c v r o, s.countDecision n pegged above wide = { s with ctrs := c, ovf := v, regs := r, out := o } := by
  have h : ∀ (c : Ctr) (x : State), (∃ a v r o, x = { s with ctrs := a, ovf := v, regs := r, out := o }) →
      ∃ a v r o, x.bump c n = { s with ctrs := a, ovf := v, regs := r, out := o } := by
    rintro c x ⟨a, v, r, o, rfl⟩
    exact ⟨_, _, _, _, by rw [State.bump_only]⟩
  have h1 := h ctrLayersDecided s ⟨_, _, _, _, rfl⟩
  unfold State.countDecision
  dsimp only
  split_ifs
  · exact h _ _ (h _ _ h1)
  · exact h _ _ h1
  · exact h _ _ (h _ _ h1)
  · exact h _ _ h1
  · exact h _ _ h1
  · exact h1

theorem State.count_countDecision :
    (s.countDecision n pegged above wide).count ctrLayersDecided n = satAdd (s.count ctrLayersDecided n) 1 ∧
    (s.countDecision n pegged above wide).count ctrLayersWidened n = satAdd (s.count ctrLayersWidened n) (if wide then 1 else 0) ∧
    (s.countDecision n pegged above wide).count ctrOverNoWide n = satAdd (s.count ctrOverNoWide n) (if above && !wide then 1 else 0) ∧
    (s.countDecision n pegged above wide).count ctrSatPegged n = satAdd (s.count ctrSatPegged n) (if pegged then 1 else 0) := by
  have apart : ∀ (x : State) (c d : Ctr), d.base = c.base → d.stride = c.stride → d.idx ≠ c.idx → (x.bump c n).count d n = x.count d n :=
    fun x c d hb hs hi => x.count_bump_other 1 (by unfold Ctr.off Ctr.block; rw [hb, hs]; omega)
  unfold State.countDecision
  cases pegged <;> cases wide <;> cases above <;>
    simp [State.count_bump, apart, ctrLayersDecided, ctrLayersWidened, ctrOverNoWide, ctrSatPegged]

end

/-- A layer decision sends a plot to the wide variant (R103, R167). -/
def Plot.goesWide (x : Plot) (img : List Byte) (a : Nat) : Bool :=
  decide (layerThresh img a < x.satCount) && layerWide img a && layerThresh img a ≠ 0xFFFFFF

/-- A plot past its layer decision. -/
def Plot.decided (x : Plot) (img : List Byte) (a : Nat) : Plot :=
  { x with flume := x.flume.decide_ (if x.goesWide img a then some (layerFlume img a) else none),
           furrow := x.furrow.decide_ (if x.goesWide img a then some (layerFurrow img a) else none) }

/-- The state after a layer decision at a LAYER end. -/
def State.decidedAt (s : State) (n a : Nat) : State :=
  let x := s.plot n
  let img := s.imgOf x
  let t := (s.countDecision n (x.satCount = 0xFFFFFF) (layerThresh img a < x.satCount) (x.goesWide img a)).setPlot n (x.decided img a)
  if x.goesWide img a then t.setPart x.part { t.part x.part with slot := { (t.part x.part).slot with widened := true } } else t

theorem exec_layerDecide_decides {s : State} {p : PPlot} {a : Nat} (h : s.runs = true) (hp : (s.plot p.toNat).running = true)
    (ha : (s.plot p.toNat).flume.atLayer = some a) (hb : (s.plot p.toNat).furrow.atLayer = some a) :
    exec (.layerDecide p) s = .next (s.decidedAt p.toNat a) := by
  show execLayerDecide p s = _
  rw [execLayerDecide, State.issue_runs _ _ h]
  simp only [ha, hb, hp, ne_eq, not_true_eq_false, decide_false, Bool.not_true, Bool.or_self, if_false, State.decidedAt,
    State.countDecision, Plot.decided, Plot.goesWide, decide_eq_true_eq, Bool.false_eq_true]
  rfl

section
variable (s : State) (n a : Nat)

theorem State.decidedAt_plot : (s.decidedAt n a).plot n = (s.plot n).decided (s.imgOf (s.plot n)) a := by
  unfold State.decidedAt
  dsimp only
  split_ifs <;> exact State.plot_setPlot _ _ _

theorem State.decidedAt_frame : (s.decidedAt n a).mem = s.mem ∧ (s.decidedAt n a).host = s.host ∧ (s.decidedAt n a).canal = s.canal ∧
    ((s.plot n).goesWide (s.imgOf (s.plot n)) a = false → (s.decidedAt n a).rot = s.rot) ∧
    ((s.plot n).goesWide (s.imgOf (s.plot n)) a = true → (s.decidedAt n a).part (s.plot n).part =
      { s.part (s.plot n).part with slot := { (s.part (s.plot n).part).slot with widened := true } }) := by
  unfold State.decidedAt
  dsimp only
  obtain ⟨c, v, r, o, h⟩ := s.countDecision_only n ((s.plot n).satCount = 0xFFFFFF)
    (layerThresh (s.imgOf (s.plot n)) a < (s.plot n).satCount) ((s.plot n).goesWide (s.imgOf (s.plot n)) a)
  rw [h]
  cases (s.plot n).goesWide (s.imgOf (s.plot n)) a
  · exact ⟨rfl, rfl, rfl, fun _ => rfl, fun e => absurd e Bool.false_ne_true⟩
  · exact ⟨rfl, rfl, rfl, fun e => absurd e.symm Bool.false_ne_true, fun _ => State.part_setPart _ _ _⟩

theorem State.decidedAt_count (c : Ctr) : (s.decidedAt n a).count c n = (s.countDecision n ((s.plot n).satCount = 0xFFFFFF)
    (layerThresh (s.imgOf (s.plot n)) a < (s.plot n).satCount) ((s.plot n).goesWide (s.imgOf (s.plot n)) a)).count c n := by
  unfold State.decidedAt
  dsimp only
  split_ifs <;> rfl

end

/-! ### Tokens (R29, R168, R170) -/

theorem Plot.counter_addCounter (x : Plot) (c n d : Nat) :
    (x.addCounter c n).counter d = x.counter d + (if d = c ∧ c ≠ 0 then BitVec.ofNat 32 n else 0) := by
  unfold Plot.addCounter
  by_cases hc : c = 0
  · simp [hc]
  · by_cases hd : d = c
    · subst hd; simp [Plot.counter, hc]
    · simp [Plot.counter, hc, hd, sget_sput_other]

theorem reached_iff (c v : Word) : reached c v = true ↔ v = 0 ∨ (c - v).toNat < 2 ^ 31 := by
  have h : c = v ↔ (c - v).toNat = 0 := by
    rw [← BitVec.toNat_zero (w := 32), BitVec.toNat_inj, BitVec.sub_eq_iff_eq_add, BitVec.zero_add]
  unfold reached follows
  by_cases hv : v = 0
  · simp [hv]
  · simp only [Bool.or_eq_true, Bool.and_eq_true, decide_eq_true_eq, h, hv, false_or]
    omega

/-- The token that arrives next reads as asked, and none before it on the canal comes from its source to its plot. -/
theorem nextToken_some {p c inc : Nat} {n : Seq} {before l : List Token} {u : Token} (h : nextToken p c inc n before l = some u) :
    u = ⟨u.src, p, c, inc, n⟩ ∧ (∀ v ∈ before, ¬(v.src = u.src ∧ v.pplot = p)) ∧
    ∃ pre post, l = pre ++ u :: post ∧ ∀ v ∈ pre, ¬(v.src = u.src ∧ v.pplot = p) := by
  induction l generalizing before with
  | nil => simp [nextToken] at h
  | cons t l ih =>
    unfold nextToken at h
    split at h
    · rename_i ht
      obtain ⟨rfl, rfl, rfl, rfl, hb⟩ := ht
      obtain rfl : t = u := by simpa using h
      refine ⟨rfl, fun v hv => ?_, [], l, rfl, by simp⟩
      simp only [Bool.not_eq_true', List.any_eq_false, Bool.and_eq_true, decide_eq_true_eq] at hb
      exact hb v hv
    · obtain ⟨hu, hb, pre, post, rfl, hp⟩ := ih h
      refine ⟨hu, fun v hv => hb v (List.mem_cons_of_mem _ hv), t :: pre, post, rfl, fun v hv => ?_⟩
      rcases List.mem_cons.1 hv with rfl | hv
      · exact hb v List.mem_cons_self
      · exact hp v hv

theorem follows_self (n : Seq) : follows n n = false := by simp [follows]

theorem follows_of_near {n m : Seq} (h : n - m = 1 ∨ n - m = 2) : follows n m = true := by
  rcases h with h | h <;> rw [follows, h] <;> decide

section
variable {s : State} {p : PPlot} {c : BitVec 6} {inc : BitVec 8} {n : Seq} {u : Token}

theorem exec_tokenArrival_none (h : nextToken p.toNat c.toNat inc.toNat n [] s.canal = none) :
    exec (.tokenArrival p c inc n) s = .next s := by
  show execTokenArrival p c inc n s = _
  simp [execTokenArrival, State.issue, h]

/-- What the first token of its source does: by the slot it is for. -/
theorem exec_tokenArrival_some (hr : s.runs = true) (hc : s.changing p.toNat = false)
    (h : nextToken p.toNat c.toNat inc.toNat n [] s.canal = some u) : exec (.tokenArrival p c inc n) s =
      .next (let x := s.plot p.toNat
        let s1 := { s with canal := s.canal.erase u }
        if n = x.seq then s1.setPlot p.toNat (x.addCounter c.toNat inc.toNat)
        else if n - x.seq = 1 ∨ n - x.seq = 2 then
          (s1.setPlot p.toNat { x with early := addEarly x.early n c.toNat inc.toNat }).touch p.toNat 5 0
        else if follows n x.seq then s else s1.bump ctrStaleToken p.toNat) := by
  show execTokenArrival p c inc n s = _
  rw [execTokenArrival, State.issue_runs _ _ hr]
  simp only [h, hc, Bool.false_eq_true, if_false]

end

theorem State.touch_quiet (s : State) {p : Nat} (unit index : Nat) (h : s.seepQuiet .plot p = true) : s.touch p unit index = s := by
  simp [State.touch, s.seepEvents_quiet _ _ h, SeepHit.word]

end Sys2Proof.Machine
end

section
/-! Control words, layer decisions and arriving tokens (O47). -/

namespace Sys2Proof.Machine

/-- Settles O47: the order of a stream by the three cases of `State.advance`, each control word by its row above, a layer decision by
`State.decidedAt`, and a token's arrival by `nextToken_some` and the slot that the token is for. -/
theorem controlWordsIssue : Obligations.ControlWordsIssue := by
  unfold Obligations.ControlWordsIssue
  refine ⟨reached_iff, Plot.counter_addCounter, fun s p sel => ⟨s.advance_own _ sel, fun i rest h => s.advance_expanded _ sel h, ?retire⟩,
    fun s p sel it => ⟨exec_nopWord, fun w => exec_wait, fun w h hr => ?signal, fun w h => ?layer, fun r => exec_ret, exec_endWord,
      fun w h hr ha hb ht => ?release⟩, ?decide, fun s p c inc n => ⟨exec_tokenArrival_none, fun u hu => ?token⟩⟩
  case retire =>
    intro i ws rest h
    have ha := s.advance_retire p.toNat sel h
    dsimp only at ha ⊢
    by_cases hc : sel = .flume ∧ (s.plot p.toNat).passes ≠ []
    · obtain ⟨rfl, hp⟩ := hc
      rw [if_pos ⟨rfl, by simpa using hp⟩] at ha
      obtain ⟨l, r, hl⟩ := (List.eq_nil_or_concat _).resolve_left hp
      rw [List.concat_eq_append] at hl
      have hw : endWith ws (s.plot p.toNat).passes = l ++ [{ r with ends := r.ends ++ ws }] := by rw [hl, endWith_append]
      refine ⟨_, fun _ _ => ⟨l, r, hl, hw⟩, fun hor => ?_, by rw [ha]; exact s.plot_setPlot _ _⟩
      exact absurd (hor.resolve_left (by simp)) hp
    · rw [if_neg (by simpa using hc)] at ha
      refine ⟨(s.plot p.toNat).passes, fun h1 h2 => absurd ⟨h1, h2⟩ hc, fun _ => ⟨rfl, ha⟩, ?_⟩
      obtain ⟨q, hq⟩ := State.endWalks_only (s.plot p.toNat).part ws
        (s.setPlot p.toNat ((s.plot p.toNat).setStream sel { (s.plot p.toNat).stream sel with exp := rest }))
      rw [ha, hq]
      refine (s.plot_setPlot _ _).trans ?_
      cases sel <;> rfl
  case signal =>
    have he := exec_signal h hr
    refine ⟨fun hd => ?_, fun hd hl => ?_⟩
    · rw [he, hd, State.sendToken, if_pos rfl]
    · rw [he, State.sendToken, if_neg (Ne.symm hd), State.engineToken, State.cross, hl]
      rfl
  case layer =>
    refine ⟨exec_layer_end h, fun he hf => ?_, fun he hf => ?_⟩
    · rw [exec_layer_begin h he, if_pos hf]
    · rw [exec_layer_begin h he, if_neg (by simp [hf])]
  case release =>
    have he := exec_release_frees h hr ha hb ht
    generalize hy : (((s.plot p.toNat).freeTiles w.amask).emptySlots false w.rmask.toNat 8).emptySlots true w.bmask.toNat 16 = y at he
    obtain ⟨q, ps, hp⟩ := State.advance_plot (s.setPlot p.toNat y) p.toNat sel
    obtain ⟨x1, q1, ho⟩ := State.advance_only (s.setPlot p.toNat y) p.toNat sel
    rw [State.plot_setPlot] at hp
    have htile : ∀ k, (((s.setPlot p.toNat y).advance p.toNat sel).plot p.toNat).tile k = y.tile k := fun k => by
      rw [hp]; exact y.tile_setStream sel q k
    have hstage : ∀ b k, (((s.setPlot p.toNat y).advance p.toNat sel).plot p.toNat).stage b k = y.stage b k := fun b k => by
      rw [hp]; exact y.stage_setStream sel q b k
    subst hy
    refine ⟨_, he, fun k hk => ?_, fun k hk => ?_, fun k hk => ?_, by rw [ho]; rfl, by rw [ho]; rfl, by rw [ho]; rfl⟩
    · rw [htile, (Plot.emptySlots_other _ true _ 16).1, (Plot.emptySlots_other _ false _ 8).1, Plot.tile_freeTiles _ _ hk]
    · rw [hstage, (Plot.emptySlots_other _ true _ 16).2 _ _ Bool.false_ne_true, Plot.stage_emptySlots _ _ _ hk, Plot.stage_freeTiles]
      rfl
    · rw [hstage, Plot.stage_emptySlots _ _ _ hk, (Plot.emptySlots_other _ false _ 8).2 _ _ Bool.true_eq_false.mp, Plot.stage_freeTiles]
      rfl
  case decide =>
    intro s p a
    dsimp only
    intro h hp ha hb
    obtain ⟨hm, hh, hc, hn, hw⟩ := s.decidedAt_frame p.toNat a
    have hcount := s.count_countDecision p.toNat ((s.plot p.toNat).satCount = 0xFFFFFF)
      (layerThresh (s.imgOf (s.plot p.toNat)) a < (s.plot p.toNat).satCount)
      ((s.plot p.toNat).goesWide (s.imgOf (s.plot p.toNat)) a)
    simp only [← State.decidedAt_count s p.toNat a] at hcount
    obtain ⟨h1, h2, h3, h4⟩ := hcount
    have hwide : (s.plot p.toNat).goesWide (s.imgOf (s.plot p.toNat)) a = true ↔
        layerThresh (s.imgOf (s.plot p.toNat)) a < (s.plot p.toNat).satCount ∧ layerWide (s.imgOf (s.plot p.toNat)) a = true ∧
          layerThresh (s.imgOf (s.plot p.toNat)) a ≠ 0xFFFFFF := by
      simp [Plot.goesWide, and_assoc]
    simp only [← hwide]
    refine ⟨_, exec_layerDecide_decides h hp ha hb, ?_, hw, fun e => hn (by simpa using e), h1, h2, ?_, ?_, hm, hh, hc⟩
    · rw [s.decidedAt_plot, Plot.decided]
      cases (s.plot p.toNat).goesWide (s.imgOf (s.plot p.toNat)) a <;> rfl
    · rw [h3]; simp
    · rw [h4]; simp
  case token =>
    obtain ⟨heq, -, hsplit⟩ := nextToken_some hu
    refine ⟨heq, hsplit, fun hr hc => ?_⟩
    have he := exec_tokenArrival_some hr hc hu
    dsimp only at he ⊢
    refine ⟨fun hn => ?_, fun hn hq => ?_, fun h1 h2 hf => ?_, fun hn hf => ?_⟩
    · rw [he, if_pos hn]
    · have hne : n ≠ (s.plot p.toNat).seq := fun e => by
        have := follows_of_near hn; rw [e, follows_self] at this; exact Bool.false_ne_true this
      rw [he, if_neg hne, if_pos hn]
      exact congrArg Host.Outcome.next (State.touch_quiet _ 5 0 hq)
    · have hne : n ≠ (s.plot p.toNat).seq := fun e => by
        rw [e, follows_self] at hf; exact Bool.false_ne_true hf
      rw [he, if_neg hne, if_neg (not_or.2 ⟨h1, h2⟩), if_pos hf]
    · have hnear : ¬(n - (s.plot p.toNat).seq = 1 ∨ n - (s.plot p.toNat).seq = 2) := fun e => by
        rw [follows_of_near e] at hf; exact Bool.false_ne_true hf.symm
      rw [he, if_neg hn, if_neg hnear, if_neg (by rw [hf]; exact Bool.false_ne_true)]

end Sys2Proof.Machine
end

section
/-! SUPPORT. One reference period, as what counting gauges and waits leaves. -/

namespace Sys2Proof.Machine

/-! ### Counting (R597) -/

/-- What counting may change: counters, their overflow bits, EVT_STATUS, and what is sent. -/
structure Tallies (s t : State) : Prop where
  frame : t = { s with regs := t.regs, ctrs := t.ctrs, ovf := t.ovf, out := t.out }
  rd : ∀ (g : Fld) (m : Nat), regOff g.reg m ≠ regOff .evtStatus 0 → t.rd g m = s.rd g m

theorem Tallies.refl (s : State) : Tallies s s := ⟨rfl, fun _ _ _ => rfl⟩

theorem Tallies.trans {s t u : State} (h : Tallies s t) (g : Tallies t u) : Tallies s u := by
  refine ⟨?_, fun f m hf => (g.rd f m hf).trans (h.rd f m hf)⟩
  have hf := h.frame
  have gf := g.frame
  rw [hf] at gf
  exact gf

theorem Tallies.codecPhase {s t : State} (h : Tallies s t) : t.codecPhase = s.codecPhase := by rw [h.frame]

theorem tallies_bump (s : State) (c : Ctr) (n k : Nat) : Tallies s (s.bump c n k) :=
  ⟨by rw [State.bump_only], fun g m h => s.rd_bump c n k g m h⟩

theorem tallies_bumpIf (s : State) (b : Bool) (c : Ctr) (n : Nat) : Tallies s (if b then s.bump c n else s) := by
  split_ifs
  · exact tallies_bump s c n 1
  · exact .refl s

theorem tallies_countVideoWaits (n : Nat) (s : State) : Tallies s (s.countVideoWaits n) := by
  induction n generalizing s with
  | zero => exact .refl s
  | succ n ih => exact ((tallies_bumpIf s (s.bufferWaits n) _ n).trans (tallies_bumpIf _ _ _ n)).trans (ih _)

theorem tallies_countHeld (qs : List Nat) (s : State) : Tallies s (s.countHeld qs) := by
  induction qs generalizing s with
  | nil => exact .refl s
  | cons q qs ih => exact (tallies_bumpIf s (s.heldByCq (BitVec.ofNat 12 q)) _ q).trans (ih _)

/-! ### Gauges (R43, R597, R616) -/

theorem State.rd_lt (s : State) (f : Fld) (n : Nat) : s.rd f n < 2 ^ f.w := Nat.mod_lt _ (Nat.two_pow_pos f.w)

section
variable (s : State) (f : Fld)

theorem State.countGauge_only : s.countGauge f = { s with regs := (s.countGauge f).regs, out := (s.countGauge f).out } := by
  unfold State.countGauge State.saturate
  dsimp only
  split_ifs
  · rfl
  · rw [State.raise_only]; rfl
  · rfl

@[simp] theorem State.codecPhase_countGauge : (s.countGauge f).codecPhase = s.codecPhase := by rw [State.countGauge_only]

theorem State.rd_countGauge_other {g : Fld} {m : Nat} (hf : regOff g.reg m ≠ regOff f.reg 0) (he : regOff g.reg m ≠ regOff .evtStatus 0) :
    (s.countGauge f).rd g m = s.rd g m := by
  have hw : ∀ v, (s.wr f 0 v).rd g m = s.rd g m := fun v => by simp [State.rd, State.wr, reg_setReg_other _ _ hf]
  unfold State.countGauge State.saturate
  dsimp only
  split_ifs
  · rfl
  · rw [State.rd_raise _ _ he, hw]
  · exact hw _

/-- A gauge counts one period and stops at all-ones. -/
theorem State.rd_countGauge (hl : f.lo = 0) (hw : f.w = 48) (he : regOff f.reg 0 ≠ regOff .evtStatus 0) :
    (s.countGauge f).rd f = min ctrMax (s.rd f + 1) := by
  have hlt := s.rd_lt f 0
  rw [hw] at hlt
  have hr : ∀ v, (s.wr f 0 v).rd f = v % 2 ^ 48 := fun v => by rw [rd_wr_same _ _ _ _ (by omega), hw]
  unfold State.countGauge State.saturate
  dsimp only
  split_ifs with h1 h2
  · rw [h2]; omega
  · rw [State.rd_raise _ _ he, hr]; unfold ctrMax at *; omega
  · rw [hr]; unfold ctrMax at *; omega

end

/-! ### A period (R44) -/

/-- What a period may change where no retirement and no collective is under way. -/
structure Lapse (s t : State) : Prop where
  frame : t = { s with regs := t.regs, ctrs := t.ctrs, ovf := t.ovf, out := t.out, codecPhase := t.codecPhase }

theorem Lapse.trans {s t u : State} (h : Lapse s t) (g : Lapse t u) : Lapse s u := by
  have hf := h.frame
  have gf := g.frame
  rw [hf] at gf
  exact ⟨gf⟩

theorem Tallies.lapse {s t : State} (h : Tallies s t) : Lapse s t := ⟨by rw [h.frame]⟩

theorem lapse_countGauge (s : State) (f : Fld) : Lapse s (s.countGauge f) := ⟨by rw [State.countGauge_only]⟩

theorem lapse_countCodec (s : State) : Lapse s s.countCodec := by
  unfold State.countCodec
  dsimp only
  have hp : ∀ n, Lapse s { s with codecPhase := n } := fun n => ⟨rfl⟩
  split_ifs
  · exact (hp _).trans (lapse_countGauge _ _)
  · exact ((hp _).trans (lapse_countGauge _ _)).trans (tallies_countVideoWaits 16 _).lapse
  · exact hp _

theorem State.codecPhase_countCodec (s : State) :
    s.countCodec.codecPhase = if 100 ≤ s.codecPhase + 27 then s.codecPhase + 27 - 100 else s.codecPhase + 27 := by
  unfold State.countCodec
  dsimp only
  split_ifs
  · exact State.codecPhase_countGauge _ _
  · exact (tallies_countVideoWaits 16 _).codecPhase.trans (State.codecPhase_countGauge _ _)
  · rfl

theorem State.rd_countCodec (s : State) : s.countCodec.rd CODEC_GAUGE_VALUE =
      (if 100 ≤ s.codecPhase + 27 then min ctrMax (s.rd CODEC_GAUGE_VALUE + 1) else s.rd CODEC_GAUGE_VALUE) ∧
    ∀ g : Fld, regOff g.reg 0 ≠ regOff .evtStatus 0 → regOff g.reg 0 ≠ regOff .codecGauge 0 → s.countCodec.rd g = s.rd g := by
  unfold State.countCodec
  dsimp only
  have hg := fun p => State.rd_countGauge ({ s with codecPhase := p } : State) CODEC_GAUGE_VALUE rfl rfl (by decide)
  split_ifs
  · exact ⟨hg _, fun g he hc => State.rd_countGauge_other _ _ hc he⟩
  · refine ⟨?_, fun g he hc => ?_⟩
    · rw [(tallies_countVideoWaits 16 _).rd _ _ (by decide), hg]; rfl
    · rw [(tallies_countVideoWaits 16 _).rd _ _ he, State.rd_countGauge_other _ _ hc he]; rfl
  · exact ⟨rfl, fun _ _ _ => rfl⟩

theorem State.settleQuiesce_only (s : State) : ∃ r, s.settleQuiesce = { s with regs := r } := by
  have hw : ∀ f n v, ∃ r, s.wr f n v = { s with regs := r } := fun f n v => ⟨_, rfl⟩
  unfold State.settleQuiesce
  split_ifs
  · exact hw _ _ _
  · exact ⟨s.regs, rfl⟩

theorem lapse_settleQuiesce (s : State) : Lapse s s.settleQuiesce := by
  obtain ⟨r, hr⟩ := s.settleQuiesce_only
  rw [hr]
  exact ⟨rfl⟩

theorem State.rd_settleQuiesce (s : State) {g : Fld} {m : Nat} (h : regOff g.reg m ≠ regOff .pgDirect 0) :
    s.settleQuiesce.rd g m = s.rd g m := by
  unfold State.settleQuiesce
  split_ifs
  · simp [State.rd, State.wr, reg_setReg_other _ _ (show regOff g.reg m ≠ regOff PG_DIRECT_QUIESCED.reg 0 from h)]
  · rfl

/-- Without a retirement and without a collective, a period counts and lets a stream go quiet. -/
theorem State.tick_idle (s : State) (hr : s.running = []) (hp : s.rd CIS_MAP_PHASE = 0) : s.tick =
    let s1 := (s.countGauge REF_GAUGE_VALUE).countCodec
    if s1.boot.stopped then s1 else (s1.countHeld (s1.host.rings.map (·.1))).settleQuiesce := by
  unfold State.tick
  generalize hs1 : (s.countGauge REF_GAUGE_VALUE).countCodec = s1
  dsimp only
  have hrd : ((s1.countHeld (s1.host.rings.map (·.1))).settleQuiesce).rd CIS_MAP_PHASE = 0 := by
    rw [State.rd_settleQuiesce _ (by decide), (tallies_countHeld _ _).rd _ _ (by decide), ← hs1,
      (State.rd_countCodec _).2 _ (by decide) (by decide), State.rd_countGauge_other _ _ (by decide) (by decide), hp]
  have hcf : ((s1.countHeld (s1.host.rings.map (·.1))).settleQuiesce).cf = s.cf := by
    have hl := (((lapse_countGauge s REF_GAUGE_VALUE).trans (lapse_countCodec _)).trans
      (tallies_countHeld (s1.host.rings.map (·.1)) _).lapse).trans (lapse_settleQuiesce _)
    rw [hs1] at hl
    rw [hl.frame]
  split_ifs with hst
  · rfl
  · have hstep : ∀ x : State, x.rd CIS_MAP_PHASE = 0 → x.retireStep = x := fun x hx => by simp [State.retireStep, hx]
    rw [hstep _ hrd, State.retryIdle, State.running, hcf]
    exact if_pos (by rw [← State.running, hr]; rfl)

/-- What a period leaves beside its counts. -/
theorem lapse_tick_idle (s : State) (hr : s.running = []) (hp : s.rd CIS_MAP_PHASE = 0) : Lapse s s.tick := by
  have h1 := (lapse_countGauge s REF_GAUGE_VALUE).trans (lapse_countCodec _)
  rw [s.tick_idle hr hp]
  dsimp only
  split_ifs
  · exact h1
  · exact (h1.trans (tallies_countHeld _ _).lapse).trans (lapse_settleQuiesce _)

theorem State.codecPhase_tick_idle (s : State) (hr : s.running = []) (hp : s.rd CIS_MAP_PHASE = 0) :
    s.tick.codecPhase = if 100 ≤ s.codecPhase + 27 then s.codecPhase + 27 - 100 else s.codecPhase + 27 := by
  have h1 : ((s.countGauge REF_GAUGE_VALUE).countCodec).codecPhase =
      if 100 ≤ s.codecPhase + 27 then s.codecPhase + 27 - 100 else s.codecPhase + 27 := by
    rw [State.codecPhase_countCodec, State.codecPhase_countGauge]
  have h2 : ∀ x : State, x.settleQuiesce.codecPhase = x.codecPhase := fun x => by
    obtain ⟨r, hr⟩ := x.settleQuiesce_only
    rw [hr]
  rw [s.tick_idle hr hp, ← h1]
  dsimp only
  split_ifs
  · rfl
  · rw [h2, (tallies_countHeld _ _).codecPhase]

theorem State.rd_tick_idle (s : State) (hr : s.running = []) (hp : s.rd CIS_MAP_PHASE = 0) {g : Fld}
    (he : regOff g.reg 0 ≠ regOff .evtStatus 0) (hq : regOff g.reg 0 ≠ regOff .pgDirect 0) :
    s.tick.rd g = ((s.countGauge REF_GAUGE_VALUE).countCodec).rd g := by
  rw [s.tick_idle hr hp]
  dsimp only
  split_ifs
  · rfl
  · rw [State.rd_settleQuiesce _ hq, (tallies_countHeld _ _).rd _ _ he]

end Sys2Proof.Machine
end

section
/-! A step on an empty queue (O1). -/

namespace Sys2Proof.Machine

/-- Settles O1: the command in front by the definition of `step`; an empty queue by what a period counts (`rd_countGauge`,
`rd_countCodec`) and leaves (`lapse_tick_idle`). -/
theorem stepTakesFrontOrIdles : Obligations.StepTakesFrontOrIdles := by
  unfold Obligations.StepTakesFrontOrIdles
  refine ⟨fun c rest s => rfl, fun s hq hr hp => ?_⟩
  have hf := (lapse_tick_idle s hr hp).frame
  have hstep : step s = .next s.tick := by rw [step, hq]
  have href : s.tick.rd REF_GAUGE_VALUE = min ctrMax (s.rd REF_GAUGE_VALUE + 1) := by
    rw [s.rd_tick_idle hr hp (by decide) (by decide), (State.rd_countCodec _).2 _ (by decide) (by decide),
      s.rd_countGauge _ rfl rfl (by decide)]
  have hcodec : s.tick.rd CODEC_GAUGE_VALUE =
      (if 100 ≤ s.codecPhase + 27 then min ctrMax (s.rd CODEC_GAUGE_VALUE + 1) else s.rd CODEC_GAUGE_VALUE) := by
    rw [s.rd_tick_idle hr hp (by decide) (by decide), (State.rd_countCodec _).1, State.codecPhase_countGauge,
      s.rd_countGauge_other _ (by decide) (by decide)]
  refine ⟨s.tick, hstep, href, hcodec, s.codecPhase_tick_idle hr hp, ?_⟩
  rw [hf]
  exact ⟨rfl, rfl, rfl, rfl, rfl, rfl, rfl, rfl, hq⟩

end Sys2Proof.Machine
end

section
/-! SUPPORT. What the host interface does beside the rings and operations it serves: flits and tags, freshet marks, logs and counts, as one
relation that chains. -/

namespace Sys2Proof.Machine

/-- Offsets of the registers that the interface writes beside its rings: EVT_STATUS, WM_LOG, DEX_LOG, DEX_SEEP and PWR_CTL. -/
def asideOffs : List Nat := [0x268, 0x210, 0x108, 0x110, 0x140]

/-- The flits, marks, logs and counts of the host interface: of the registers, those above change; the counts of fetches and of records
stand, and so does what was sent. -/
structure Aside (s t : State) : Prop where
  frame : t = { s with regs := t.regs, ctrs := t.ctrs, ovf := t.ovf, pwr := t.pwr, lnk := t.lnk, armed := t.armed, seen := t.seen,
                       inject := t.inject, out := t.out, host := { s.host with marks := t.host.marks } }
  regs : ∀ k n, regOff k n ∉ asideOffs → t.reg k n = s.reg k n
  count : ∀ c, c = ctrFetched ∨ c = ctrCompleted → ∀ n, t.count c n = s.count c n
  sent : ∀ x ∈ s.out, x ∈ t.out

theorem Aside.refl (s : State) : Aside s s := ⟨rfl, fun _ _ _ => rfl, fun _ _ _ => rfl, fun _ h => h⟩

theorem Aside.trans {s t u : State} (h : Aside s t) (g : Aside t u) : Aside s u := by
  refine ⟨?_, fun k n hk => (g.regs k n hk).trans (h.regs k n hk), fun c hc n => (g.count c hc n).trans (h.count c hc n),
    fun x hx => g.sent x (h.sent x hx)⟩
  have hf := h.frame
  have gf := g.frame
  rw [hf] at gf
  exact gf

section
variable {s t : State} (h : Aside s t)
include h

theorem Aside.ops : t.host.ops = s.host.ops := by rw [h.frame]
theorem Aside.rings : t.host.rings = s.host.rings := by rw [h.frame]
theorem Aside.ring (q : RingNo) : t.ring q = s.ring q := by unfold State.ring; rw [h.rings]
theorem Aside.op (q : RingNo) (n : Seq) : t.op? q n = s.op? q n := by unfold State.op?; rw [h.ops]
theorem Aside.mem : t.mem = s.mem := by rw [h.frame]
theorem Aside.ctx : t.ctx = s.ctx := by rw [h.frame]
theorem Aside.rot : t.rot = s.rot := by rw [h.frame]
theorem Aside.plots : t.plots = s.plots := by rw [h.frame]
theorem Aside.pending : t.pending = s.pending := by rw [h.frame]

theorem Aside.rd {f : Fld} {n : Nat} (hf : regOff f.reg n ∉ asideOffs) : t.rd f n = s.rd f n := by
  unfold State.rd; rw [h.regs _ _ hf]

end

theorem asideOffs_ring {k : RegKind} (hk : k = .ringCtl ∨ k = .ringStatus ∨ k = .ringSqBase ∨ k = .ringCqBase) (n : Nat) :
    regOff k n ∉ asideOffs := by
  rcases hk with rfl | rfl | rfl | rfl <;> simp [asideOffs, regOff, RegKind.place] <;> omega

theorem Aside.half {s t : State} (h : Aside s t) (q : RingNo) : t.halfOf q = s.halfOf q := by
  unfold State.halfOf State.flag
  rw [h.rd (f := DEX_CTL_SPLIT) (by decide), h.rd (f := RING_CTL_HALF) (asideOffs_ring (.inl rfl) _)]

/-! ### Counts, registers and marks -/

/-- Counting anything but fetches and records. -/
theorem aside_bump (s : State) {c : Ctr} {n : Nat} (k : Nat) (h : ∀ m, ctrFetched.off m ≠ c.off n ∧ ctrCompleted.off m ≠ c.off n) :
    Aside s (s.bump c n k) := by
  refine ⟨by rw [State.bump_only], fun r m hr => ?_, fun d hd m => s.count_bump_other k ?_, fun x hx => ?_⟩
  · have he : regOff r m ≠ regOff .evtStatus 0 := fun e => hr (by rw [e]; decide)
    have hreg : ∀ (x : State) (e : Nat), (x.raise e).reg r m = x.reg r m := fun x e => by
      unfold State.reg; rw [State.raise_regs]; exact reg_setReg_other x _ he
    unfold State.bump
    dsimp only
    split_ifs
    · rw [hreg]; rfl
    · rfl
  · rcases hd with rfl | rfl
    · exact (h m).1
    · exact (h m).2
  · obtain ⟨l, hl⟩ := (carries_bump s c n k).traffic.sent
    rw [← hl]
    exact List.mem_append_left _ hx

/-- Counts of the interface's rings, of tenants, of Dexlink's halves and of the power controller. -/
theorem ctr_apart (n : Nat) (m : Nat) : (∀ c ∈ [ctrRefusedAtFetch, ctrEvents], ctrFetched.off m ≠ c.off n ∧ ctrCompleted.off m ≠ c.off n) ∧
    (n < 64 → ∀ c ∈ [ctrRefused, ctrHalfFlitsTx, ctrMarks, ctrStageChanges], ctrFetched.off m ≠ c.off n ∧ ctrCompleted.off m ≠ c.off n) := by
  simp [Ctr.off, Ctr.block, ctrFetched, ctrCompleted, ctrRefusedAtFetch, ctrEvents, ctrRefused, ctrHalfFlitsTx, ctrMarks, ctrStageChanges]
  omega

theorem aside_emit (s : State) (o : Output) : Aside s (s.emit o) :=
  ⟨rfl, fun _ _ _ => rfl, fun _ _ _ => rfl, fun _ h => List.mem_append_left _ h⟩

theorem aside_setReg (s : State) {k : RegKind} {n : Nat} (v : DWord) (h : regOff k n ∈ asideOffs) : Aside s (s.setReg k n v) :=
  ⟨rfl, fun _ _ hr => reg_setReg_other s v fun e => hr (e ▸ h), fun _ _ _ => rfl, fun _ h => h⟩

theorem aside_wrs (n : Nat) (fs : List (Fld × Nat)) (s : State) (h : ∀ x ∈ fs, regOff x.1.reg n ∈ asideOffs) : Aside s (s.wrs n fs) := by
  induction fs generalizing s with
  | nil => exact .refl s
  | cons x xs ih =>
    exact (aside_setReg s _ (h x List.mem_cons_self)).trans (ih _ fun y hy => h y (List.mem_cons_of_mem _ hy))

theorem aside_logFirst (s : State) {v : Fld} (n : Nat) (fs : List (Fld × Nat)) (hv : regOff v.reg n ∈ asideOffs)
    (hf : ∀ x ∈ fs, x.1.reg = v.reg) : Aside s (s.logFirst v n fs) := by
  unfold State.logFirst
  split_ifs
  · exact .refl s
  · exact (aside_wrs n fs s fun x hx => by rw [hf x hx]; exact hv).trans (aside_setReg _ _ hv)

theorem aside_dexLog (s : State) (h k r l : Nat) : Aside s (s.dexLog h k r l) :=
  aside_logFirst s 0 _ (by decide) (by simp; exact ⟨rfl, rfl, rfl, rfl⟩)

theorem aside_wmRefusal (s : State) (t : TenantNo) (d : BitVec 16) : Aside s (s.wmRefusal t d) :=
  (aside_bump s 1 fun m => (ctr_apart t.toNat m).2 t.isLt _ (by simp)).trans
    (aside_logFirst _ 0 _ (by decide) (by simp; exact ⟨rfl, rfl, rfl, rfl⟩))

theorem aside_restage (s : State) : Aside s s.restage := by
  have hp : ∀ p, Aside s { s with pwr := p } := fun p => ⟨rfl, fun _ _ _ => rfl, fun _ _ _ => rfl, fun _ h => h⟩
  have hw : ∀ (x : State) (v : Nat), Aside x (x.wr PWR_CTL_VNOW_MV 0 v) := fun x v => aside_setReg x _ (by decide)
  unfold State.restage
  dsimp only
  split_ifs
  · exact hw _ _
  · exact ((hp _).trans (aside_bump _ 1 fun m => (ctr_apart 0 m).2 (by decide) _ (by simp))).trans (hw _ _)

theorem aside_marks (s : State) (l : List Mark) : Aside s { s with host := { s.host with marks := l } } :=
  ⟨rfl, fun _ _ _ => rfl, fun _ _ _ => rfl, fun _ h => h⟩

theorem aside_dropMark (s : State) (q : RingNo) (n : Seq) : Aside s (s.dropMark q n) := (aside_marks s _).trans (aside_restage _)

theorem aside_forwardMark (s : State) (q : RingNo) (n : Seq) (l : Nat) : Aside s (s.forwardMark q n l) :=
  ((aside_bump s 1 fun m => (ctr_apart 0 m).2 (by decide) _ (by simp)).trans (aside_marks _ _)).trans (aside_restage _)

/-! ### Flits (R442, R525) -/

theorem aside_lnk (s : State) (l : LinkS) : Aside s { s with lnk := l } := ⟨rfl, fun _ _ _ => rfl, fun _ _ _ => rfl, fun _ h => h⟩

theorem aside_dexSeep (s : State) (n : Nat) (acts : DWord → Bool) : Aside s (s.seepEvents .dex 0 n acts).st := by
  have hs : ∀ (x : State) (a : Sparse DWord) (b : Sparse Nat) (j : List Injection), Aside x { x with armed := a, seen := b, inject := j } :=
    fun _ _ _ _ => ⟨rfl, fun _ _ _ => rfl, fun _ _ _ => rfl, fun _ h => h⟩
  unfold State.seepEvents
  split
  · split_ifs
    · exact .refl s
    · exact hs s s.armed s.seen _
  · dsimp only
    split_ifs
    · exact .refl s
    · simp only [State.disarm, seepReg, reduceCtorEq, false_and, if_false]
      exact (aside_setReg s _ (k := .dexSeep) (by decide)).trans (hs _ _ _ _)
    · exact hs s s.armed _ s.inject

theorem aside_sendFlit (s : State) (h : BitVec 1) (v : Nat) (p : TxPkt) (rest : List TxPkt) :
    Aside s (s.sendFlit (8 + h.toNat) v p rest) := by
  have hl : ¬ 8 + h.toNat < 8 := by omega
  have hn : h.toNat < 64 := by omega
  unfold State.sendFlit State.flitSeep
  simp only [hl, if_false, Nat.add_sub_cancel_left]
  exact (((aside_dexSeep s 1 _).trans (aside_lnk _ _)).trans ((aside_lnk _ _).trans (aside_emit _ _))).trans
    (aside_bump _ 1 fun m => (ctr_apart h.toNat m).2 hn _ (by simp))

theorem aside_drainLink (h : BitVec 1) (n : Nat) (s : State) : Aside s (s.drainLink (8 + h.toNat) n) := by
  induction n generalizing s with
  | zero => exact .refl s
  | succ n ih =>
    unfold State.drainLink
    split_ifs
    · exact .refl s
    · split
      · exact .refl s
      · split
        · exact (aside_sendFlit s h _ _ _).trans (ih _)
        · exact .refl s

/-- A packet given to a half of Dexlink. -/
theorem aside_sendFlits (s : State) (h : BitVec 1) (vc n : Nat) : Aside s (s.sendFlits (8 + h.toNat) vc n) :=
  (aside_lnk s _).trans (aside_drainLink h _ _)

theorem aside_memWrite (s : State) (h : BitVec 1) (tag : BitVec 16) (a : Nat) (bs : List Byte) : Aside s (s.memWrite h tag a bs) :=
  (aside_sendFlits s h 0 _).trans (aside_emit _ _)

theorem mem_out_emit (s : State) (o : Output) : o ∈ (s.emit o).out := List.mem_append_right _ List.mem_cons_self

end Sys2Proof.Machine
end

section
/-! SUPPORT. Rings that wait for the fetcher, and one descriptor fetched. -/

namespace Sys2Proof.Machine

/-! ### Rings that wait (R34, R511) -/

theorem exists_mem_of_sget_ne {α : Type} {d : α} {m : Sparse α} {i : Nat} (h : sget d m i ≠ d) : ∃ v, (i, v) ∈ m := by
  induction m with
  | nil => exact absurd rfl h
  | cons x m ih =>
    by_cases hi : i = x.1
    · exact ⟨x.2, by rw [hi]; exact List.mem_cons_self⟩
    · rw [sget, if_neg hi] at h
      obtain ⟨v, hv⟩ := ih h
      exact ⟨v, List.mem_cons_of_mem _ hv⟩

theorem regInstance_ringCtl (q : RingNo) : regInstance .ringCtl (regOff .ringCtl q.toNat) = some q.toNat := by
  have hq := q.isLt
  have h1 : 0x400 * q.toNat % 0x400 = 0 := Nat.mul_mod_right _ _
  have h2 : 0x400 * q.toNat / 0x400 = q.toNat := Nat.mul_div_cancel_left _ (by decide)
  simp [regInstance, regOff, RegKind.place, hq]

/-- After reset a ring is not enabled (R12). -/
theorem regReset_ringCtl (n : Nat) : getBits (regReset .ringCtl n) 18 1 = 0 := by
  show getBits (regReset .ringCtl 0) 18 1 = 0
  decide +kernel

/-- A ring that is enabled is one of the fetcher's requesters. -/
theorem State.mem_ringsOn {s : State} {q : RingNo} (h : s.flag RING_CTL_ENABLE q.toNat = true) : q.toNat ∈ s.ringsOn := by
  have hne : s.reg .ringCtl q.toNat ≠ regReset .ringCtl q.toNat := fun e => by
    rw [State.flag, State.rd, show RING_CTL_ENABLE.reg = .ringCtl from rfl, e] at h
    have h0 := regReset_ringCtl q.toNat
    rw [show getBits (regReset .ringCtl q.toNat) RING_CTL_ENABLE.lo RING_CTL_ENABLE.w = 0 from h0] at h
    exact absurd h (by decide)
  obtain ⟨v, hv⟩ := exists_mem_of_sget_ne hne
  exact List.mem_filter.2 ⟨List.mem_filterMap.2 ⟨_, hv, regInstance_ringCtl q⟩, h⟩

/-- A ring that may be fetched and has room is one of those that wait. -/
theorem State.ringsWaiting_contains {s : State} {q : RingNo} (hf : s.fetchable q = true) (hr : 0 < s.fetchRoom q) :
    s.ringsWaiting.contains q.toNat = true := by
  have he : s.flag RING_CTL_ENABLE q.toNat = true := by
    simp only [State.fetchable, Bool.and_eq_true] at hf
    exact hf.1.1.2
  rw [List.contains_iff_mem]
  refine List.mem_filter.2 ⟨State.mem_ringsOn he, ?_⟩
  rw [BitVec.ofNat_toNat, BitVec.setWidth_eq, hf]
  simpa using hr

/-! ### One descriptor (R510, R512 to R514) -/

/-- A descriptor as the operation that it becomes. -/
def State.nextOp (s : State) (q : RingNo) (d : BitVec 512) : Op := { ring := q, seq := (s.ring q).nextSeq, desc := d }

/-- The operation that a fetch hands on: waiting, or ended as its check says. -/
def State.fetchedOp (s : State) (q : RingNo) (d : BitVec 512) : Op :=
  match s.fetchCheck (s.nextOp q d) with
  | none => s.nextOp q d
  | some r => { s.nextOp q d with stage := .done, refusedAtFetch := true, status := r.1, detail := r.2 }

/-- The ring after one descriptor: its next number taken, SQ_HEAD past the entry, the fetch counted. -/
def State.passEntry (s : State) (q : RingNo) : State :=
  ((s.setRing q { s.ring q with nextSeq := (s.ring q).nextSeq + 1 }).wr RING_STATUS_SQ_HEAD q.toNat
    ((s.rd RING_STATUS_SQ_HEAD q.toNat + 1) % s.sqSize q)).bump ctrFetched q.toNat

/-- An operation handed on by its ring, which is ACTIVE with it (R530). -/
def State.handOn (s : State) (q : RingNo) (o : Op) : State :=
  ({ s with host := { s.host with ops := s.host.ops ++ [o] } } : State).wr RING_STATUS_ACTIVE q.toNat 1

/-- The ring past one descriptor, whose freshet mark has been forwarded (R523). -/
def State.noted (s : State) (q : RingNo) (d : BitVec 512) : State :=
  if (s.nextOp q d).fld 3 0 3 ≠ 0 then (s.passEntry q).forwardMark q ((s.nextOp q d).seq + BitVec.ofNat 32 ((s.nextOp q d).fld 2 0 8))
    ((s.nextOp q d).fld 3 0 3) else s.passEntry q

/-- An operation that the check of the fetch refuses: counted, and its mark expires (R514, R537, R576). -/
def State.noteRefusal (s : State) (q : RingNo) (o : Op) (dt : BitVec 16) : State :=
  (if dt = dtOperator then (s.bump ctrRefusedAtFetch q.toNat).wmRefusal ((s.bump ctrRefusedAtFetch q.toNat).ringTenant q) dt
    else s.bump ctrRefusedAtFetch q.toNat).dropMark q o.seq

theorem State.fetchOne_waiting {s : State} {q : RingNo} {d : BitVec 512} (h : s.fetchCheck (s.nextOp q d) = none) :
    s.fetchOne q d = (s.noted q d).handOn q (s.nextOp q d) := by
  unfold State.fetchOne
  extract_lets r o bad s1 s2 s3 s4
  rw [show bad = none from h]
  rfl

theorem State.fetchOne_refused {s : State} {q : RingNo} {d : BitVec 512} {r : BitVec 12 × BitVec 16}
    (h : s.fetchCheck (s.nextOp q d) = some r) : s.fetchOne q d = ((s.noted q d).handOn q
      { s.nextOp q d with stage := .done, refusedAtFetch := true, status := r.1, detail := r.2 }).noteRefusal q (s.nextOp q d) r.2 := by
  unfold State.fetchOne
  extract_lets ring o bad s1 s2 s3 s4
  rw [show bad = some r from h]
  rfl

theorem aside_noted (s : State) (q : RingNo) (d : BitVec 512) : Aside (s.passEntry q) (s.noted q d) := by
  unfold State.noted
  split_ifs
  · exact aside_forwardMark _ _ _ _
  · exact .refl _

theorem aside_noteRefusal (s : State) (q : RingNo) (o : Op) (dt : BitVec 16) : Aside s (s.noteRefusal q o dt) := by
  have h1 : Aside s (s.bump ctrRefusedAtFetch q.toNat) := aside_bump s 1 fun m => (ctr_apart q.toNat m).1 _ (by simp)
  unfold State.noteRefusal
  split_ifs
  · exact (h1.trans (aside_wmRefusal _ _ _)).trans (aside_dropMark _ _ _)
  · exact h1.trans (aside_dropMark _ _ _)

theorem State.handOn_only (s : State) (q : RingNo) (o : Op) :
    ∃ r, s.handOn q o = { s with regs := r, host := { s.host with ops := s.host.ops ++ [o] } } := by
  have hw : ∀ (x : State) f n v, ∃ r, x.wr f n v = { x with regs := r } := fun _ _ _ _ => ⟨_, rfl⟩
  exact hw _ _ _ _

/-- What one fetch changes: its ring passes the entry, the operation is handed on, and marks, logs and counts go beside. -/
theorem State.fetchOne_stages (s : State) (q : RingNo) (d : BitVec 512) :
    Aside (s.passEntry q) (s.noted q d) ∧ Aside ((s.noted q d).handOn q (s.fetchedOp q d)) (s.fetchOne q d) := by
  refine ⟨aside_noted s q d, ?_⟩
  unfold State.fetchedOp
  split
  · rename_i h
    rw [State.fetchOne_waiting h]; exact .refl _
  · rename_i r h
    rw [State.fetchOne_refused h]; exact aside_noteRefusal _ _ _ _

/-- What one fetch leaves. -/
structure Fetched (s t : State) (q : RingNo) (o : Op) : Prop where
  ops : t.host.ops = s.host.ops ++ [o]
  next : (t.ring q).nextSeq = (s.ring q).nextSeq + 1
  head : t.rd RING_STATUS_SQ_HEAD q.toNat = (s.rd RING_STATUS_SQ_HEAD q.toNat + 1) % s.sqSize q % 2 ^ 16
  count : t.count ctrFetched q.toNat = satAdd (s.count ctrFetched q.toNat) 1
  base : t.rd RING_SQ_BASE_ADDR q.toNat = s.rd RING_SQ_BASE_ADDR q.toNat
  half : t.halfOf q = s.halfOf q
  rest : t.mem = s.mem ∧ t.ctx = s.ctx ∧ t.rot = s.rot ∧ t.plots = s.plots ∧ t.pending = s.pending

theorem Fetched.aside {s t u : State} {q : RingNo} {o : Op} (h : Fetched s t q o) (g : Aside t u) : Fetched s u q o where
  ops := g.ops.trans h.ops
  next := by rw [g.ring]; exact h.next
  head := (g.rd (asideOffs_ring (.inr (.inl rfl)) _)).trans h.head
  count := (g.count _ (.inl rfl) _).trans h.count
  base := (g.rd (asideOffs_ring (.inr (.inr (.inl rfl))) _)).trans h.base
  half := (g.half q).trans h.half
  rest := by rw [g.mem, g.ctx, g.rot, g.plots, g.pending]; exact h.rest

/-- A field of RING_STATUS written leaves the registers that the ring was given. -/
theorem State.rd_wr_ringStatus (s : State) {f g : Fld} (n v m : Nat) (hf : f.reg = .ringStatus)
    (hg : g.reg = .ringSqBase ∨ g.reg = .ringCqBase ∨ g.reg = .ringCtl ∨ g.reg = .dexCtl ∧ m = 0) : (s.wr f n v).rd g m = s.rd g m := by
  have h : regOff g.reg m ≠ regOff f.reg n := by
    rw [hf]
    rcases hg with hg | hg | hg | ⟨hg, rfl⟩ <;> rw [hg] <;> simp only [regOff, RegKind.place, reduceCtorEq, if_false] <;> omega
  simp [State.rd, State.wr, reg_setReg_other _ _ h]

theorem State.halfOf_wr_ringStatus (s : State) {f : Fld} (n v : Nat) (q : RingNo) (hf : f.reg = .ringStatus) :
    (s.wr f n v).halfOf q = s.halfOf q := by
  unfold State.halfOf State.flag
  rw [s.rd_wr_ringStatus n v 0 hf (g := DEX_CTL_SPLIT) (by simp [DEX_CTL_SPLIT]),
    s.rd_wr_ringStatus n v q.toNat hf (g := RING_CTL_HALF) (by simp [RING_CTL_HALF])]

/-- Counting leaves every ring as it stands. -/
theorem State.halfOf_bump (s : State) (c : Ctr) (n k : Nat) (q : RingNo) : (s.bump c n k).halfOf q = s.halfOf q := by
  have hq : regOff RING_CTL_HALF.reg q.toNat ≠ regOff .evtStatus 0 := by
    simp only [RING_CTL_HALF, regOff, RegKind.place, reduceCtorEq, if_false]; omega
  unfold State.halfOf State.flag
  rw [s.rd_bump c n k DEX_CTL_SPLIT 0 (by decide), s.rd_bump c n k RING_CTL_HALF q.toNat hq]

theorem fetched_handOn (s : State) (q : RingNo) (o : Op) {u : State} (h : Aside (s.passEntry q) u) :
    Fetched s (u.handOn q o) q o := by
  obtain ⟨r, hu⟩ := u.handOn_only q o
  have hst : regOff .ringStatus q.toNat ≠ regOff .evtStatus 0 := by
    simp only [regOff, RegKind.place, reduceCtorEq, if_false]; omega
  have hsq : regOff .ringSqBase q.toNat ≠ regOff .evtStatus 0 := by
    simp only [regOff, RegKind.place, reduceCtorEq, if_false]; omega
  refine ⟨?_, ?_, ?_, ?_, ?_, ?_, ?_⟩
  · rw [hu]
    show u.host.ops ++ [o] = _
    rw [h.ops, State.passEntry, State.bump_host]; rfl
  · have hring : (u.handOn q o).ring q = u.ring q := by rw [hu]; rfl
    rw [hring, h.ring, State.passEntry, State.ring, State.bump_host]
    exact congrArg Ring.nextSeq (State.ring_setRing s q _)
  · have ha : (u.handOn q o).rd RING_STATUS_SQ_HEAD q.toNat = u.rd RING_STATUS_SQ_HEAD q.toNat :=
      rd_wr_other _ 1 (by decide) (.inr ⟨rfl, rfl, by decide⟩)
    rw [ha, h.rd (asideOffs_ring (.inr (.inl rfl)) _), State.passEntry, State.rd_bump _ _ _ _ _ _ hst, rd_wr_same _ _ _ _ (by decide),
      show RING_STATUS_SQ_HEAD.w = 16 from rfl]
  · have hcount : (u.handOn q o).count ctrFetched q.toNat = u.count ctrFetched q.toNat := by rw [hu]; rfl
    rw [hcount, h.count _ (.inl rfl), State.passEntry, State.count_bump, State.count_wr]; rfl
  · have ha : (u.handOn q o).rd RING_SQ_BASE_ADDR q.toNat = u.rd RING_SQ_BASE_ADDR q.toNat :=
      State.rd_wr_ringStatus _ _ _ _ rfl (.inl rfl)
    rw [ha, h.rd (asideOffs_ring (.inr (.inr (.inl rfl))) _), State.passEntry, State.rd_bump _ _ _ _ _ _ hsq,
      State.rd_wr_ringStatus _ _ _ _ rfl (.inl rfl)]
    rfl
  · have ha : (u.handOn q o).halfOf q = u.halfOf q := State.halfOf_wr_ringStatus _ _ _ _ rfl
    rw [ha, h.half, State.passEntry, State.halfOf_bump, State.halfOf_wr_ringStatus _ _ _ _ rfl]
    rfl
  · rw [hu]
    show u.mem = _ ∧ u.ctx = _ ∧ u.rot = _ ∧ u.plots = _ ∧ u.pending = _
    rw [h.mem, h.ctx, h.rot, h.plots, h.pending, State.passEntry]
    simp [State.setRing]

theorem fetched_fetchOne (s : State) (q : RingNo) (d : BitVec 512) : Fetched s (s.fetchOne q d) q (s.fetchedOp q d) :=
  (fetched_handOn s q _ (s.fetchOne_stages q d).1).aside (s.fetchOne_stages q d).2

/-- No check of the fetch reads what an arbiter has granted. -/
theorem State.fetchCheck_of_grant (s : State) (a : Sparse (Sparse Nat)) (o : Op) : State.fetchCheck { s with arb := a } o = s.fetchCheck o := by
  have hr : ∀ t x n, State.rangeDetail { s with arb := a } t x n = s.rangeDetail t x n := fun _ _ _ => rfl
  have he : State.cisEnd { s with arb := a } = s.cisEnd := rfl
  have ht : o.tenant { s with arb := a } = o.tenant s := rfl
  have hm : ∀ h, State.model? { s with arb := a } h = s.model? h := fun _ => rfl
  have hp : ∀ h, State.policy? { s with arb := a } h = s.policy? h := fun _ => rfl
  have hw : ∀ p, State.partTenant { s with arb := a } p = s.partTenant p := fun _ => rfl
  have hn : ∀ p, State.partEnabled { s with arb := a } p = s.partEnabled p := fun _ => rfl
  have hopen : ∀ r, State.checkOpen { s with arb := a } o r = s.checkOpen o r := fun r => by
    unfold State.checkOpen
    simp only [hr, he, ht, hm, hp, hw, hn]
  have hother : ∀ r, State.checkOther { s with arb := a } o r = s.checkOther o r := fun _ => rfl
  have hall : ∀ t n, State.allotted { s with arb := a } t n = s.allotted t n := fun _ _ => rfl
  have hflag : ∀ f n, State.flag { s with arb := a } f n = s.flag f n := fun _ _ => rfl
  have hst : ∀ n, State.stream { s with arb := a } n = s.stream n := fun _ => rfl
  unfold State.fetchCheck State.checkStream
  simp only [ht, hopen, hother, hall, hflag, hst]

/-- The arbiter's grant is no part of what a fetch leaves. -/
theorem Fetched.of_grant {s t : State} {a : Sparse (Sparse Nat)} {q : RingNo} {o : Op} (h : Fetched { s with arb := a } t q o) :
    Fetched s t q o := by
  have hrd : ∀ f n, State.rd { s with arb := a } f n = s.rd f n := fun _ _ => rfl
  have hhead := h.head
  have hbase := h.base
  have hhalf := h.half
  simp only [State.halfOf, State.flag, State.sqSize, hrd] at hhead hbase hhalf
  exact ⟨h.ops, h.next, hhead, h.count, hbase, hhalf, h.rest⟩

/-- The read of one entry (R510, R525). -/
theorem State.fetchReads_one (s : State) (q : RingNo) (idx : Nat) : Aside s (s.fetchReads q idx 1) ∧
    ∃ tag, Output.memRead (s.halfOf q) tag (BitVec.ofNat 64 (s.rd RING_SQ_BASE_ADDR q.toNat * 4096 + 64 * idx)) 64 ∈
      (s.fetchReads q idx 1).out :=
  ⟨((aside_lnk s _).trans (aside_sendFlits _ (s.halfOf q) 0 0)).trans (aside_emit _ _), _, mem_out_emit _ _⟩

/-- A grant of one entry to a ring that waits. -/
theorem exec_fetchDescriptors_one {s s1 : State} {q : RingNo} (d : BitVec 512) (h : s.runs = true) (hf : s.fetchable q = true)
    (hr : 0 < s.fetchRoom q) (hg : s.arbGrant arbFetch s.ringsOn.length q.toNat s.ringsWaiting = some s1) :
    exec (.fetchDescriptors q [d]) s = .next ((s1.fetchOne q d).fetchReads q (s.rd RING_STATUS_SQ_HEAD q.toNat) 1) := by
  have ht : [d].take (s.fetchRoom q) = [d] := List.take_of_length_le hr
  show execFetchDescriptors q [d] s = _
  rw [execFetchDescriptors, State.issue_runs _ _ h]
  simp only [State.ringsWaiting_contains hf hr, hg, ht]
  rfl

end Sys2Proof.Machine
end

section
/-! Fetched descriptors and NOP (O6). -/

namespace Sys2Proof.Machine

/-- Settles O6: a grant of one entry by the fetch of that entry (`fetched_fetchOne`) and its read; NOP by the row of an operation. -/
theorem fetchAndNop : Obligations.FetchAndNop := by
  unfold Obligations.FetchAndNop
  refine ⟨fun s q d h hf hr hg => ?fetch, fun s q n o h => ?nop⟩
  case fetch =>
    obtain ⟨s1, hs1⟩ := Option.isSome_iff_exists.1 hg
    have harb : ∃ a, s1 = { s with arb := a } := by
      unfold State.arbGrant at hs1
      dsimp only at hs1
      split_ifs at hs1
      exact ⟨_, (Option.some.inj hs1).symm⟩
    obtain ⟨a, rfl⟩ := harb
    obtain ⟨hr1, hr2⟩ := State.fetchReads_one (State.fetchOne { s with arb := a } q d) q (s.rd RING_STATUS_SQ_HEAD q.toNat)
    have ho : State.fetchedOp { s with arb := a } q d = s.fetchedOp q d := by
      unfold State.fetchedOp; rw [State.fetchCheck_of_grant]; rfl
    have h0 := (fetched_fetchOne { s with arb := a } q d).of_grant
    rw [ho] at h0
    have hF := h0.aside hr1
    rw [h0.half, h0.base] at hr2
    exact ⟨_, exec_fetchDescriptors_one d h hf hr hs1, hF.ops, hF.next, hF.head, hF.count, hr2, hF.rest⟩
  case nop =>
    have he : exec (.nop q n) s = .next (s.finish o stOk) := by
      show execNop q n s = _
      rw [execNop, State.opRow_ready _ h]
    obtain ⟨hq, hn⟩ := s.op_ring h.found
    exact ⟨_, he, s.op_finish _ _ _ h.found, fun q' n' hne => s.op_finish_other _ _ _ _ (by rwa [hq, hn]), rfl⟩

end Sys2Proof.Machine
end

section
/-! SUPPORT. Completion records, events and the adapter's answers. -/

namespace Sys2Proof.Machine

/-! ### Tags and operations -/

@[simp] theorem State.tagRec_dropTag (s : State) (h : BitVec 1) (tag : BitVec 16) : (s.dropTag h tag).tagRec h tag = none := by
  simp only [State.tagRec, State.dropTag, List.find?_eq_none, List.mem_filter]
  rintro x ⟨-, hx⟩
  simpa [not_and_or, Decidable.imp_iff_not_or] using hx

theorem State.op_setOp_eq (s : State) {q : RingNo} {n : Seq} {o o' : Op} (h : s.op? q n = some o) (hq : o'.ring = o.ring)
    (hn : o'.seq = o.seq) : (s.setOp o').op? q n = some o' ∧ ∀ q' n', ¬(q' = q ∧ n' = n) → (s.setOp o').op? q' n' = s.op? q' n' := by
  obtain ⟨h1, h2⟩ := s.op_ring h
  refine ⟨s.op_setOp _ h (hq.trans h1) (hn.trans h2), fun q' n' hne => s.op_setOp_other _ ?_⟩
  rw [hq, hn, h1, h2]
  exact fun e => hne ⟨e.1.symm, e.2.symm⟩

/-! ### Events (R519) -/

/-- The event of a ring gone to the host, and counted (R519). -/
def State.eventSent (s : State) (q : RingNo) : State :=
  ((s.sendFlits (8 + (s.halfOf q).toNat) 1 0).emit (.event q (BitVec.ofNat 11 (s.rd RING_CTL_VECTOR q.toNat)))).bump ctrEvents q.toNat

theorem State.sendEvent_eq (s : State) (q : RingNo) : s.sendEvent q =
    (s.eventSent q).setRing q { (s.eventSent q).ring q with unsignalled := 0, delayRunning := false } := rfl

theorem aside_eventSent (s : State) (q : RingNo) : Aside s (s.eventSent q) :=
  ((aside_sendFlits s _ 1 0).trans (aside_emit _ _)).trans (aside_bump _ 1 fun m => (ctr_apart q.toNat m).1 _ (by simp))

theorem mem_out_eventSent (s : State) (q : RingNo) :
    Output.event q (BitVec.ofNat 11 (s.rd RING_CTL_VECTOR q.toNat)) ∈ (s.eventSent q).out :=
  (aside_bump _ 1 fun m => (ctr_apart q.toNat m).1 ctrEvents (by simp)).sent _ (mem_out_emit _ _)

/-- What an event leaves: it has gone to the host, its ring has nothing to signal, and operations, stores, streams and plots stand. -/
structure Signalled (s t : State) (q : RingNo) : Prop where
  event : Output.event q (BitVec.ofNat 11 (s.rd RING_CTL_VECTOR q.toNat)) ∈ t.out
  ring : t.ring q = { s.ring q with unsignalled := 0, delayRunning := false }
  ops : t.host.ops = s.host.ops
  rest : t.mem = s.mem ∧ t.ctx = s.ctx ∧ t.plots = s.plots

theorem State.setRing_beside (s : State) (q : RingNo) (r : Ring) : (s.setRing q r).out = s.out ∧ (s.setRing q r).host.ops = s.host.ops ∧
    (s.setRing q r).mem = s.mem ∧ (s.setRing q r).ctx = s.ctx ∧ (s.setRing q r).plots = s.plots := ⟨rfl, rfl, rfl, rfl, rfl⟩

theorem signalled_sendEvent (s : State) (q : RingNo) : Signalled s (s.sendEvent q) q := by
  have h := aside_eventSent s q
  rw [State.sendEvent_eq, h.ring]
  obtain ⟨hout, hops, hmem, hctx, hplots⟩ := (s.eventSent q).setRing_beside q { s.ring q with unsignalled := 0, delayRunning := false }
  exact ⟨by rw [hout]; exact mem_out_eventSent s q, State.ring_setRing _ _ _, hops.trans h.ops, hmem.trans h.mem, hctx.trans h.ctx,
    hplots.trans h.plots⟩

/-- A ring that counts one record more for its event. -/
def State.countUnsignalled (s : State) (q : RingNo) : State :=
  s.setRing q { s.ring q with unsignalled := (s.ring q).unsignalled + 1, delayRunning := true }

theorem State.recordAcked_at_once (s : State) {q : RingNo} {e : Bool} (h : e = true ∨ s.rd RING_CTL_EVMODE q.toNat = 1 ∨
    s.rd RING_CTL_EVMODE q.toNat = 3) : s.recordAcked q e = s.sendEvent q := by
  rw [State.recordAcked, if_pos (by simpa [or_assoc] using h)]

theorem State.recordAcked_silent (s : State) {q : RingNo} (h : s.rd RING_CTL_EVMODE q.toNat = 0) : s.recordAcked q false = s := by
  simp [State.recordAcked, h]

theorem State.recordAcked_due (s : State) {q : RingNo} (h : s.rd RING_CTL_EVMODE q.toNat = 2)
    (hc : max 1 (s.rd RING_CTL_EVCOUNT q.toNat) ≤ (s.ring q).unsignalled + 1) :
    s.recordAcked q false = (s.countUnsignalled q).sendEvent q := by
  simp [State.recordAcked, h, State.countUnsignalled, hc]

theorem State.recordAcked_counted (s : State) {q : RingNo} (h : s.rd RING_CTL_EVMODE q.toNat = 2)
    (hc : (s.ring q).unsignalled + 1 < max 1 (s.rd RING_CTL_EVCOUNT q.toNat)) : s.recordAcked q false = s.countUnsignalled q := by
  simp [State.recordAcked, h, State.countUnsignalled, Nat.not_le.2 hc]

/-- An acknowledged record leaves operations, stores, streams and plots as they stand. -/
theorem State.recordAcked_beside (s : State) (q : RingNo) (e : Bool) : (s.recordAcked q e).host.ops = s.host.ops ∧
    (s.recordAcked q e).mem = s.mem ∧ (s.recordAcked q e).ctx = s.ctx ∧ (s.recordAcked q e).plots = s.plots := by
  unfold State.recordAcked
  extract_lets mode ring k s1
  split_ifs
  · exact ⟨(signalled_sendEvent s q).ops, (signalled_sendEvent s q).rest⟩
  · exact ⟨rfl, rfl, rfl, rfl⟩
  · exact ⟨(signalled_sendEvent s1 q).ops, (signalled_sendEvent s1 q).rest⟩
  · exact ⟨rfl, rfl, rfl, rfl⟩

/-- A WR_ACK of a tag in use, by what the tag's write was for. -/
theorem exec_wrAck {s : State} {h : BitVec 1} {tag : BitVec 16} {r : TagRec} (hr : s.runs = true) (ht : s.tagRec h tag = some r) :
    (∀ e, r.use = .record e → exec (.wrAck h tag) s = .next ((s.dropTag h tag).recordAcked r.ring e)) ∧
    (r.use = .data → exec (.wrAck h tag) s = .next ((s.dropTag h tag).ackData r.ring r.seq)) := by
  have he : exec (.wrAck h tag) s = execWrAck h tag s := rfl
  rw [he, execWrAck, State.issue_runs _ _ hr, ht]
  dsimp only
  exact ⟨fun e hu => by rw [hu], fun hu => by rw [hu]⟩

theorem exec_eventDelayExpiry_sends {s : State} {q : RingNo} (hr : s.runs = true) (hm : s.rd RING_CTL_EVMODE q.toNat = 2)
    (hd : (s.ring q).delayRunning = true) (hu : 0 < (s.ring q).unsignalled) : exec (.eventDelayExpiry q) s = .next (s.sendEvent q) := by
  show execEventDelayExpiry q s = _
  rw [execEventDelayExpiry, State.issue_runs _ _ hr]
  simp [hm, hd, hu]

/-! ### Records (R516, R518) -/

theorem Aside.withVid {s t : State} (h : Aside s t) (v : VidS) : Aside { s with vid := v } { t with vid := v } := by
  refine ⟨?_, h.regs, h.count, h.sent⟩
  have hf := h.frame
  rw [hf]

/-- Sessions changed, and what goes beside them. -/
def SessionsOnly (s t : State) : Prop := ∃ v, Aside { s with vid := v } t

theorem SessionsOnly.refl (s : State) : SessionsOnly s s := ⟨s.vid, .refl s⟩

theorem SessionsOnly.trans {s t u : State} (h : SessionsOnly s t) (g : SessionsOnly t u) : SessionsOnly s u := by
  obtain ⟨v, hv⟩ := h
  obtain ⟨w, hw⟩ := g
  exact ⟨w, (hv.withVid w).trans hw⟩

theorem sessionsOnly_setDec (s : State) (k : Nat) (x : DecSession) : SessionsOnly s (s.setDec k x) := ⟨_, aside_restage _⟩

theorem sessionsOnly_unholdPic (s : State) (q : RingNo) (n : Seq) (k num : Nat) : SessionsOnly s (s.unholdPic q n k num) := by
  unfold State.unholdPic
  extract_lets x
  split
  · exact .refl s
  · exact sessionsOnly_setDec s _ _

theorem sessionsOnly_autoRelease (s : State) (h : Nat) : SessionsOnly s (s.autoRelease h) := by
  unfold State.autoRelease
  extract_lets k x
  split
  · split_ifs
    · exact sessionsOnly_setDec s _ _
    · exact .refl s
  · exact .refl s

/-- Leaving the picture that a handle named changes sessions only. -/
theorem sessionsOnly_leavePicture (s : State) (o : Op) : SessionsOnly s (s.leavePicture o) := by
  unfold State.leavePicture
  by_cases h : ((o.opcode = 2 || (o.opcode = 4 && o.fld 26 0 2 = 1)) && !o.owners.isEmpty) = true
  · rw [if_pos h]
    refine SessionsOnly.trans ?_ (sessionsOnly_autoRelease _ _)
    split
    · split_ifs
      · exact .refl s
      · exact sessionsOnly_unholdPic s _ _ _ _
    · exact .refl s
  · rw [if_neg h]
    exact .refl s

theorem State.releaseAnchors_only (p : Nat) (l : List (Nat × Nat)) (s : State) : ∃ x, s.releaseAnchors p l = { s with pools := x } := by
  induction l generalizing s with
  | nil => exact ⟨_, rfl⟩
  | cons a l ih =>
    obtain ⟨x, hx⟩ := ih (s.setPool p ((s.pool p).decBlock a.2))
    exact ⟨x, by rw [State.releaseAnchors, hx]; rfl⟩

/-- The record sent to the completion ring at CQ_TAIL. -/
def State.sendRecord (s : State) (o : Op) : State :=
  ((s.takeTag (s.halfOf o.ring) (.record o.event) o.ring o.seq).2).memWrite (s.halfOf o.ring)
    (s.takeTag (s.halfOf o.ring) (.record o.event) o.ring o.seq).1
    (s.rd RING_CQ_BASE_ADDR o.ring.toNat * 4096 + 32 * s.rd RING_STATUS_CQ_TAIL o.ring.toNat) (s.recordBytes o)

/-- The completion ring's phase turned at the wrap. -/
def State.turnPhase (s : State) (q : RingNo) (wrap : Prop) [Decidable wrap] : State :=
  if wrap then s.setRing q { s.ring q with phase := !(s.ring q).phase } else s

/-- CQ_TAIL of `s` past a record in `u`, the phase with it, and the record counted. -/
def State.passRecord (s u : State) (q : RingNo) : State :=
  ((u.wr RING_STATUS_CQ_TAIL q.toNat ((s.rd RING_STATUS_CQ_TAIL q.toNat + 1) % s.cqSize q)).turnPhase q
    (s.rd RING_STATUS_CQ_TAIL q.toNat + 1 = s.cqSize q)).bump ctrCompleted q.toNat

/-- An operation gone with its record. -/
def State.dropOp (s : State) (q : RingNo) (n : Seq) : State :=
  { s with host := { s.host with ops := s.host.ops.filter fun p => !(p.ring = q && p.seq = n) } }

/-- An operation gone with its record: its anchors released, its ring ACTIVE only with others. -/
def State.retireOp (s : State) (o : Op) : State :=
  ((s.releaseAnchors o.pool (o.anchors ++ o.kept.map (·.2))).dropOp o.ring o.seq).syncActive o.ring

theorem State.writeRecord_eq (s : State) (o : Op) : s.writeRecord o =
    if delivered o.status then (s.passRecord (s.sendRecord o) o.ring).retireOp o
    else ((s.passRecord (s.sendRecord o) o.ring).retireOp o).dropMark o.ring o.seq := rfl

/-- What a record leaves. -/
structure Recorded (s t : State) (o : Op) : Prop where
  write : ∃ tag, Output.memWrite (s.halfOf o.ring) tag (BitVec.ofNat 64 (s.rd RING_CQ_BASE_ADDR o.ring.toNat * 4096 +
    32 * s.rd RING_STATUS_CQ_TAIL o.ring.toNat)) (s.recordBytes o) ∈ t.out
  tail : t.rd RING_STATUS_CQ_TAIL o.ring.toNat = (s.rd RING_STATUS_CQ_TAIL o.ring.toNat + 1) % s.cqSize o.ring % 2 ^ 16
  phase : (t.ring o.ring).phase = if s.rd RING_STATUS_CQ_TAIL o.ring.toNat + 1 = s.cqSize o.ring then !(s.ring o.ring).phase
    else (s.ring o.ring).phase
  count : t.count ctrCompleted o.ring.toNat = satAdd (s.count ctrCompleted o.ring.toNat) 1
  ops : t.host.ops = s.host.ops.filter fun p => !(p.ring = o.ring && p.seq = o.seq)
  rest : t.mem = s.mem ∧ t.ctx = s.ctx ∧ t.plots = s.plots

theorem Recorded.aside {s t u : State} {o : Op} (h : Recorded s t o) (g : Aside t u) : Recorded s u o where
  write := by obtain ⟨tag, ht⟩ := h.write; exact ⟨tag, g.sent _ ht⟩
  tail := (g.rd (asideOffs_ring (.inr (.inl rfl)) _)).trans h.tail
  phase := by rw [g.ring]; exact h.phase
  count := (g.count _ (.inr rfl) _).trans h.count
  ops := g.ops.trans h.ops
  rest := by rw [g.mem, g.ctx, g.plots]; exact h.rest

theorem aside_sendRecord (s : State) (o : Op) : Aside s (s.sendRecord o) := (aside_lnk s _).trans (aside_memWrite _ _ _ _ _)

theorem mem_out_sendRecord (s : State) (o : Op) : ∃ tag, Output.memWrite (s.halfOf o.ring) tag (BitVec.ofNat 64
    (s.rd RING_CQ_BASE_ADDR o.ring.toNat * 4096 + 32 * s.rd RING_STATUS_CQ_TAIL o.ring.toNat)) (s.recordBytes o) ∈ (s.sendRecord o).out :=
  ⟨_, mem_out_emit _ _⟩

theorem State.turnPhase_facts (s : State) (q : RingNo) (w : Prop) [Decidable w] :
    (∃ r, s.turnPhase q w = { s with host := { s.host with rings := r } }) ∧
    ((s.turnPhase q w).ring q).phase = if w then !(s.ring q).phase else (s.ring q).phase := by
  unfold State.turnPhase
  split_ifs
  · exact ⟨⟨_, rfl⟩, by rw [State.ring_setRing]⟩
  · exact ⟨⟨_, rfl⟩, rfl⟩

theorem State.wr_only (s : State) (f : Fld) (n v : Nat) : ∃ r, s.wr f n v = { s with regs := r } := ⟨_, rfl⟩

theorem State.mem_out_bump (s : State) (c : Ctr) (n k : Nat) {x : Output} (h : x ∈ s.out) : x ∈ (s.bump c n k).out := by
  obtain ⟨l, hl⟩ := (carries_bump s c n k).traffic.sent
  rw [← hl]
  exact List.mem_append_left _ h

/-- A record passed: the ring's fields that move, and what stands. -/
theorem State.passRecord_facts (s u : State) (q : RingNo) :
    (s.passRecord u q).rd RING_STATUS_CQ_TAIL q.toNat = (s.rd RING_STATUS_CQ_TAIL q.toNat + 1) % s.cqSize q % 2 ^ 16 ∧
    ((s.passRecord u q).ring q).phase = (if s.rd RING_STATUS_CQ_TAIL q.toNat + 1 = s.cqSize q then !(u.ring q).phase else (u.ring q).phase) ∧
    (s.passRecord u q).count ctrCompleted q.toNat = satAdd (u.count ctrCompleted q.toNat) 1 ∧
    (s.passRecord u q).host.ops = u.host.ops ∧ (∀ x ∈ u.out, x ∈ (s.passRecord u q).out) ∧
    (s.passRecord u q).mem = u.mem ∧ (s.passRecord u q).ctx = u.ctx ∧ (s.passRecord u q).plots = u.plots := by
  have hst : regOff .ringStatus q.toNat ≠ regOff .evtStatus 0 := by
    simp only [regOff, RegKind.place, reduceCtorEq, if_false]; omega
  obtain ⟨r, hr⟩ := u.wr_only RING_STATUS_CQ_TAIL q.toNat ((s.rd RING_STATUS_CQ_TAIL q.toNat + 1) % s.cqSize q)
  have htail := rd_wr_same u RING_STATUS_CQ_TAIL q.toNat ((s.rd RING_STATUS_CQ_TAIL q.toNat + 1) % s.cqSize q) (by decide)
  rw [show RING_STATUS_CQ_TAIL.w = 16 from rfl] at htail
  unfold State.passRecord
  rw [hr] at htail ⊢
  obtain ⟨⟨g, hg⟩, hphase⟩ := State.turnPhase_facts { u with regs := r } q (s.rd RING_STATUS_CQ_TAIL q.toNat + 1 = s.cqSize q)
  generalize State.turnPhase { u with regs := r } q (s.rd RING_STATUS_CQ_TAIL q.toNat + 1 = s.cqSize q) = v at hg hphase
  refine ⟨?_, ?_, ?_, ?_, fun x hx => v.mem_out_bump _ _ _ ?_, ?_⟩
  · rw [State.rd_bump _ _ _ _ _ _ hst, ← htail, hg]; rfl
  · rw [State.ring, State.bump_host]; exact hphase
  · rw [State.count_bump, hg]; rfl
  · rw [State.bump_host, hg]
  · rw [hg]; exact hx
  · rw [State.bump_only, hg]
    exact ⟨rfl, rfl, rfl⟩

theorem State.retireOp_only (s : State) (o : Op) : (∃ r x, s.retireOp o = { s with regs := r, pools := x, host := { s.host with
    ops := s.host.ops.filter fun p => !(p.ring = o.ring && p.seq = o.seq) } }) ∧
    (s.retireOp o).rd RING_STATUS_CQ_TAIL o.ring.toNat = s.rd RING_STATUS_CQ_TAIL o.ring.toNat := by
  obtain ⟨x, hx⟩ := s.releaseAnchors_only o.pool (o.anchors ++ o.kept.map (·.2))
  unfold State.retireOp State.syncActive
  rw [hx]
  refine ⟨?_, rd_wr_other _ _ (by decide) (.inr ⟨rfl, rfl, by decide⟩)⟩
  obtain ⟨r, hr⟩ := (State.dropOp { s with pools := x } o.ring o.seq).wr_only RING_STATUS_ACTIVE o.ring.toNat
    (if (State.opsOf (State.dropOp { s with pools := x } o.ring o.seq) o.ring).isEmpty then 0 else 1)
  exact ⟨r, x, hr⟩

theorem recorded_retireOp (s : State) (o : Op) : Recorded s ((s.passRecord (s.sendRecord o) o.ring).retireOp o) o := by
  have h := aside_sendRecord s o
  obtain ⟨tag, hw⟩ := mem_out_sendRecord s o
  generalize s.sendRecord o = u at h hw
  obtain ⟨htail, hphase, hcount, hops, hout, hmem, hctx, hplots⟩ := s.passRecord_facts u o.ring
  generalize s.passRecord u o.ring = v at *
  obtain ⟨⟨r, x, hr⟩, ht⟩ := v.retireOp_only o
  refine ⟨⟨tag, ?_⟩, ht.trans htail, ?_, ?_, ?_, ?_⟩
  · rw [hr]; exact hout _ hw
  · rw [← h.ring, ← hphase, hr]; rfl
  · rw [← h.count _ (.inr rfl), ← hcount, hr]; rfl
  · rw [hr, ← h.ops, ← hops]
  · rw [hr, ← h.mem, ← h.ctx, ← h.plots]
    exact ⟨hmem, hctx, hplots⟩

theorem recorded_writeRecord (s : State) (o : Op) : Recorded s (s.writeRecord o) o := by
  rw [State.writeRecord_eq]
  split_ifs
  · exact recorded_retireOp s o
  · exact (recorded_retireOp s o).aside (aside_dropMark _ _ _)

/-- Sessions, and what goes beside them, are no part of what a record says. -/
theorem Recorded.of_sessions {s u t : State} {o : Op} (h : Recorded u t o) (g : SessionsOnly s u) : Recorded s t o := by
  obtain ⟨v, g⟩ := g
  have hrd : ∀ f n, State.rd { s with vid := v } f n = s.rd f n := fun _ _ => rfl
  have hst : ∀ f : Fld, f.reg = .ringStatus → ∀ n, u.rd f n = s.rd f n := fun f hf n =>
    g.rd (asideOffs_ring (.inr (.inl hf)) n)
  have hbase : u.rd RING_CQ_BASE_ADDR o.ring.toNat = s.rd RING_CQ_BASE_ADDR o.ring.toNat := g.rd (asideOffs_ring (.inr (.inr (.inr rfl))) _)
  have hgauge : u.rd REF_GAUGE_VALUE = s.rd REF_GAUGE_VALUE := g.rd (by decide)
  have hhalf : u.halfOf o.ring = s.halfOf o.ring := g.half _
  have hsize : u.cqSize o.ring = s.cqSize o.ring := by
    rw [State.cqSize, g.rd (asideOffs_ring (.inl rfl) _)]; rfl
  have hring : u.ring o.ring = s.ring o.ring := g.ring _
  have hbytes : u.recordBytes o = s.recordBytes o := by
    unfold State.recordBytes
    dsimp only
    rw [hring, hgauge, hst RING_STATUS_SQ_HEAD rfl]
  obtain ⟨hwrite, htail, hphase, hcount, hops, hrest⟩ := h
  rw [hhalf, hbase, hst RING_STATUS_CQ_TAIL rfl, hbytes] at hwrite
  rw [hst RING_STATUS_CQ_TAIL rfl, hsize] at htail hphase
  rw [hring] at hphase
  rw [g.count _ (.inr rfl)] at hcount
  rw [g.ops] at hops
  rw [g.mem, g.ctx, g.plots] at hrest
  exact ⟨hwrite, htail, hphase, hcount, hops, hrest⟩

theorem exec_completionRecord {s : State} {q : RingNo} {n : Seq} {o : Op} (hr : s.runs = true) (ho : s.op? q n = some o) :
    exec (.completionRecord q n) s = .next (if o.completed then (s.leavePicture o).writeRecord o else s) := by
  show execCompletionRecord q n s = _
  rw [execCompletionRecord, State.issue_runs _ _ hr]
  simp only [ho]

/-- An operation whose record is written is gone, and every other stands. -/
theorem Recorded.op {s t : State} {o : Op} (h : Recorded s t o) : t.op? o.ring o.seq = none ∧
    ∀ q n, ¬(q = o.ring ∧ n = o.seq) → t.op? q n = s.op? q n := by
  unfold State.op?
  rw [h.ops]
  constructor
  · simp only [List.find?_eq_none, List.mem_filter]
    rintro x ⟨-, hx⟩
    simpa [← not_and_or] using hx
  · intro q n hne
    rw [List.find?_filter]
    congr 1
    funext x
    by_cases hx : x.ring = q ∧ x.seq = n
    · obtain ⟨rfl, rfl⟩ := hx
      simpa [← not_and_or] using hne
    · simpa using fun h1 h2 => absurd ⟨h1, h2⟩ hx

end Sys2Proof.Machine
end

section
/-! Completion records and their events (O7). -/

namespace Sys2Proof.Machine

/-- Settles O7: the record by its stages (`recorded_writeRecord`), an acknowledged one by the ring's mode, and the events by `Signalled`. -/
theorem recordsAndEvents : Obligations.RecordsAndEvents := by
  unfold Obligations.RecordsAndEvents
  refine ⟨fun s q n o hr ho => ⟨fun hc => ?early, fun hc => ?record⟩, fun s q e hr => ⟨fun h tag r ht hu hq => ?acked, fun hm hd hu => ?delay⟩⟩
  case early => rw [exec_completionRecord hr ho, hc]; rfl
  case record =>
    obtain ⟨rfl, rfl⟩ := s.op_ring ho
    have h := (recorded_writeRecord (s.leavePicture o) o).of_sessions (sessionsOnly_leavePicture s o)
    obtain ⟨tag, hw⟩ := h.write
    exact ⟨_, tag, by rw [exec_completionRecord hr ho, hc]; rfl, hw, h.tail, h.phase, h.count, h.op.1, h.op.2, h.rest⟩
  case acked =>
    subst hq
    obtain ⟨hops, hmem, hctx, hplots⟩ := (s.dropTag h tag).recordAcked_beside r.ring e
    refine ⟨_, (exec_wrAck hr ht).1 e hu, hops, hmem, hctx, hplots, fun hm => ?atOnce, fun he hm => ?silent, fun he hm hc => ?due,
      fun he hm hc => ?counted⟩
    case atOnce =>
      have g := signalled_sendEvent (s.dropTag h tag) r.ring
      rw [State.recordAcked_at_once (s.dropTag h tag) hm]
      exact ⟨g.event, by rw [g.ring], by rw [g.ring]⟩
    case silent =>
      rw [he, State.recordAcked_silent (s.dropTag h tag) hm]
      exact ⟨rfl, rfl⟩
    case due =>
      have g := signalled_sendEvent ((s.dropTag h tag).countUnsignalled r.ring) r.ring
      rw [he, State.recordAcked_due (s.dropTag h tag) hm hc]
      exact ⟨g.event, by rw [g.ring]⟩
    case counted =>
      have g := State.ring_setRing (s.dropTag h tag) r.ring
        { s.ring r.ring with unsignalled := (s.ring r.ring).unsignalled + 1, delayRunning := true }
      rw [he, State.recordAcked_counted (s.dropTag h tag) hm hc]
      exact ⟨rfl, congrArg Ring.unsignalled g, congrArg Ring.delayRunning g⟩
  case delay =>
    have h := signalled_sendEvent s q
    exact ⟨_, exec_eventDelayExpiry_sends hr hm hd hu, h.event, by rw [h.ring], by rw [h.ring], h.ops, h.rest⟩

end Sys2Proof.Machine
end

section
/-! SUPPORT. The adapter's answers and its failures. -/

namespace Sys2Proof.Machine

/-- An operation that fails leaves itself, ended with the status and detail given and with result 0. -/
theorem State.op_failOp_ended (s : State) {q : RingNo} {n : Seq} {o : Op} (st : BitVec 12) (dt : BitVec 16) (h : s.op? q n = some o) :
    ∃ k, (s.failOp o st dt).op? q n =
      some { o with holdsUpdate := false, stage := .done, status := st, detail := dt, result := 0, unacked := k } := by
  obtain ⟨r, c, p, h1, -⟩ := s.unwind_only o
  obtain ⟨hq, hn⟩ := s.op_ring h
  have hu : (s.unwind o).op? q n = some o := by rw [h1]; exact h
  have hf : ((s.unwind o).finish { o with holdsUpdate := false } st dt).op? q n
      = some { o with holdsUpdate := false, stage := .done, status := st, detail := dt, result := 0 } := State.op_setOp _ _ hu hq hn
  rw [State.failOp_eq]
  exact State.op_submitEdits _ (s.reverts o) hf

theorem State.lnk_failOp (s : State) (o : Op) (st : BitVec 12) (dt : BitVec 16) : (s.failOp o st dt).lnk = s.lnk := by
  obtain ⟨_, _, _, _, _, h, -⟩ := s.failOp_only o st dt
  rw [h]

theorem State.lnk_dexLog (s : State) (h k r l : Nat) : (s.dexLog h k r l).lnk = s.lnk := by
  unfold State.dexLog
  rw [State.logFirst_only]

/-- The first event of a unit for which a fault has been left meets it (R140). -/
theorem State.seepEvents_left (s : State) {k : SeepKind} {i n : Nat} {acts : DWord → Bool} (hn : n ≠ 0) {x : Injection} (hx : x ∈ s.inject)
    (hk : x.kind = k) (hi : x.inst = i) (ha : acts x.word = true) : ∃ j w, s.seepEvents k i n acts =
      { st := { s with inject := j }, hit := some (0, w) } := by
  have hf : (s.inject.find? fun y => y.kind = k && y.inst = i && acts y.word).isSome = true := by
    rw [List.find?_isSome]
    exact ⟨x, hx, by simp [hk, hi, ha]⟩
  obtain ⟨y, hy⟩ := Option.isSome_iff_exists.1 hf
  unfold State.seepEvents
  rw [hy]
  exact ⟨_, _, if_neg hn⟩

/-- The event of a read answered on a half, as Dexlink's seep counts it. -/
def State.readSeep (s : State) (h : BitVec 1) (tag : BitVec 16) : SeepHit :=
  (s.dropTag h tag).seepEvents .dex 0 1 fun w => seepTarget .dex w = 3 && getBits w 4 1 = h.toNat

/-- An RD_DATA of a read of an operation that the module has, by what its seep does. -/
theorem exec_rdData {s : State} {h : BitVec 1} {tag : BitVec 16} {r : TagRec} {o : Op} (data : List Byte) (hr : s.runs = true)
    (ht : s.tagRec h tag = some r) (hu : r.use = .read) (ho : s.op? r.ring r.seq = some o) : exec (.rdData h tag data) s = .next
      (if (s.readSeep h tag).hit.isSome then
        if o.stage = .running then ((s.readSeep h tag).st.dexLog h.toNat 3 r.ring.toNat 0).failOp o stDenied dtHostAccess
        else (s.readSeep h tag).st.dexLog h.toNat 3 r.ring.toNat 0
      else (s.readSeep h tag).st.setOp { o with data := o.data ++ data }) := by
  have he : exec (.rdData h tag data) s = execRdData h tag data s := rfl
  rw [he, execRdData, State.issue_runs _ _ hr, ht]
  dsimp only
  rw [hu, ho]
  rfl

/-- The ring of a failed access: its fetch stopped and ERR set (R522). -/
def State.haltRing (s : State) (q : RingNo) : State := (s.setRing q { s.ring q with halted := true }).wr RING_STATUS_ERR q.toNat 1

theorem State.rd_setRing (s : State) (q : RingNo) (r : Ring) (f : Fld) (n : Nat) : (s.setRing q r).rd f n = s.rd f n := rfl

theorem State.haltRing_facts (s : State) (q : RingNo) : ((s.haltRing q).host.ops = s.host.ops ∧ (s.haltRing q).mem = s.mem ∧
      (s.haltRing q).ctx = s.ctx ∧ (s.haltRing q).plots = s.plots) ∧
    ((s.haltRing q).ring q).halted = true ∧ (s.haltRing q).rd RING_STATUS_ERR q.toNat = 1 ∧
    (s.haltRing q).rd RING_CTL_VECTOR q.toNat = s.rd RING_CTL_VECTOR q.toNat := by
  have hw : ∀ (x : State) f n v, (x.wr f n v).host.ops = x.host.ops ∧ (x.wr f n v).mem = x.mem ∧ (x.wr f n v).ctx = x.ctx ∧
    (x.wr f n v).plots = x.plots := fun _ _ _ _ => ⟨rfl, rfl, rfl, rfl⟩
  have he : (s.haltRing q).rd RING_STATUS_ERR q.toNat = 1 := by
    unfold State.haltRing
    rw [rd_wr_same _ _ _ _ (by decide), show RING_STATUS_ERR.w = 1 from rfl]
    exact Nat.mod_eq_of_lt (by decide)
  have hv : (s.haltRing q).rd RING_CTL_VECTOR q.toNat = s.rd RING_CTL_VECTOR q.toNat := by
    unfold State.haltRing
    rw [State.rd_wr_ringStatus _ _ _ _ rfl (.inr (.inr (.inl rfl))), State.rd_setRing]
  have hg : ((s.haltRing q).ring q).halted = true := by
    unfold State.haltRing
    rw [State.ring, State.wr_host]
    exact congrArg Ring.halted (s.ring_setRing q { s.ring q with halted := true })
  exact ⟨hw _ _ _ _, hg, he, hv⟩

/-- A HOST_ACCESS_FAIL logged (R530). -/
def State.logAccess (s : State) (q : RingNo) : State := s.dexLog (s.halfOf q).toNat 3 q.toNat 0

theorem exec_hostAccessFail_ring {s : State} {k : HostAccessKind} {q : RingNo} {n : Seq} (hr : s.runs = true) (hk : k = .fetch ∨ k = .record) :
    exec (.hostAccessFail k q n) s = .next (((s.logAccess q).haltRing q).sendEvent q) := by
  have he : exec (.hostAccessFail k q n) s = execHostAccessFail k q n s := rfl
  rw [he, execHostAccessFail, State.issue_runs _ _ hr]
  rcases hk with rfl | rfl
  · rfl
  · rfl

theorem exec_hostAccessFail_other {s : State} {q : RingNo} {n : Seq} {o : Op} (hr : s.runs = true) (ho : (s.logAccess q).op? q n = some o)
    (hs : o.stage = .running) : exec (.hostAccessFail .other q n) s = .next ((s.logAccess q).failOp o stDenied dtHostAccess) := by
  have he : exec (.hostAccessFail .other q n) s = execHostAccessFail .other q n s := rfl
  rw [he, execHostAccessFail, State.issue_runs _ _ hr]
  dsimp only
  rw [show (s.dexLog (s.halfOf q).toNat 3 q.toNat 0).op? q n = some o from ho]
  dsimp only
  rw [if_pos hs]
  rfl

theorem exec_markExpiry {s : State} {q : RingNo} {n : Seq} (hr : s.runs = true) : exec (.markExpiry q n) s = .next (s.dropMark q n) := by
  have he : exec (.markExpiry q n) s = execMarkExpiry q n s := rfl
  rw [he, execMarkExpiry, State.issue_runs _ _ hr]

/-- A ring that has halted is not fetched. -/
theorem State.fetchable_halted {s : State} {q : RingNo} (h : (s.ring q).halted = true) : s.fetchable q = false := by
  simp [State.fetchable, h]

/-- ERR stands while the ring's event is sent. -/
theorem State.rd_sendEvent_ringStatus (s : State) (q : RingNo) {f : Fld} (hf : f.reg = .ringStatus) (n : Nat) :
    (s.sendEvent q).rd f n = s.rd f n := by
  rw [State.sendEvent_eq, State.rd_setRing]
  exact (aside_eventSent s q).rd (asideOffs_ring (.inr (.inl hf)) n)

end Sys2Proof.Machine
end

section
/-! What the adapter answers and what fails at the host (O8). -/

namespace Sys2Proof.Machine

/-- Settles O8: each answer by its equation (`exec_wrAck`, `exec_rdData`, `exec_hostAccessFail_ring`), the log and the event beside it
(`Aside`, `Signalled`), and a failed operation by `State.op_failOp_ended`. -/
theorem hostAnswersAndFailures : Obligations.HostAnswersAndFailures := by
  unfold Obligations.HostAnswersAndFailures
  refine ⟨fun s hr => ⟨fun h tag r o ht hu ho => ?written, fun h tag data r o ht hu ho hq => ?read,
    fun h tag data r o ht hu ho hs hi => ?seep, fun q n => ?mark⟩, fun s q n hr => ⟨fun k hk => ?ring, fun o ho hs => ?other⟩⟩
  case written =>
    have he : (s.dropTag h tag).ackData r.ring r.seq = (s.dropTag h tag).setOp { o with unacked := o.unacked - 1 } := by
      unfold State.ackData
      rw [show (s.dropTag h tag).op? r.ring r.seq = some o from ho]
    obtain ⟨h1, h2⟩ := (s.dropTag h tag).op_setOp_eq (o' := { o with unacked := o.unacked - 1 }) ho rfl rfl
    exact ⟨_, ((exec_wrAck hr ht).2 hu).trans (congrArg Host.Outcome.next he), h1, s.tagRec_dropTag h tag, h2, rfl⟩
  case read =>
    have hw : s.readSeep h tag = { st := s.dropTag h tag, hit := none } := State.seepEvents_quiet _ _ _ hq
    obtain ⟨h1, h2⟩ := (s.dropTag h tag).op_setOp_eq (o' := { o with data := o.data ++ data }) ho rfl rfl
    refine ⟨_, by rw [exec_rdData data hr ht hu ho, hw]; rfl, h1, s.tagRec_dropTag h tag, h2, rfl⟩
  case seep =>
    obtain ⟨x, hx, hk, hi, h3, hb⟩ := hi
    obtain ⟨j, w, hw⟩ := (s.dropTag h tag).seepEvents_left (n := 1) (k := .dex) (i := 0) (by decide)
      (acts := fun w => seepTarget .dex w = 3 && getBits w 4 1 = h.toNat) hx hk hi (by simp [h3, hb])
    have hw' : s.readSeep h tag = { st := { s.dropTag h tag with inject := j }, hit := some (0, w) } := hw
    have ha := aside_dexLog { s.dropTag h tag with inject := j } h.toNat 3 r.ring.toNat 0
    have hlnk := State.lnk_dexLog { s.dropTag h tag with inject := j } h.toNat 3 r.ring.toNat 0
    obtain ⟨k, hf⟩ := State.op_failOp_ended _ stDenied dtHostAccess ((ha.op r.ring r.seq).trans ho)
    refine ⟨_, _, by rw [exec_rdData data hr ht hu ho, hw', if_pos hs]; rfl, hf, rfl, rfl, rfl, ?_, ?_, ?_⟩
    · rw [State.tagRec, State.lnk_failOp, hlnk]
      exact s.tagRec_dropTag h tag
    · rw [State.failOp_mem, ha.mem]; rfl
    · rw [State.failOp_plots, ha.plots]; rfl
  case mark =>
    have ha := aside_dropMark s q n
    refine ⟨_, exec_markExpiry hr, fun m => ?_, ha.ops, ha.mem, ha.ctx, ha.plots⟩
    rw [State.dropMark, State.restage_host]
    simp [← not_and_or]
  case ring =>
    have ha : Aside s (s.logAccess q) := aside_dexLog s _ _ _ _
    obtain ⟨⟨hops, hmem, hctx, hplots⟩, hhalt, herr, hvec⟩ := (s.logAccess q).haltRing_facts q
    rw [ha.rd (asideOffs_ring (.inl rfl) _)] at hvec
    have hs := signalled_sendEvent ((s.logAccess q).haltRing q) q
    obtain ⟨gmem, gctx, gplots⟩ := hs.rest
    have hev := hs.event
    rw [hvec] at hev
    have herr' := (State.rd_sendEvent_ringStatus ((s.logAccess q).haltRing q) q (f := RING_STATUS_ERR) rfl q.toNat).trans herr
    exact ⟨_, exec_hostAccessFail_ring hr hk, State.fetchable_halted (by rw [hs.ring]; exact hhalt),
      herr', hev, hs.ops.trans (hops.trans ha.ops), gmem.trans (hmem.trans ha.mem), gctx.trans (hctx.trans ha.ctx),
      gplots.trans (hplots.trans ha.plots)⟩
  case other =>
    have ha : Aside s (s.logAccess q) := aside_dexLog s _ _ _ _
    have ho' : (s.logAccess q).op? q n = some o := (ha.op q n).trans ho
    obtain ⟨k, hf⟩ := State.op_failOp_ended _ stDenied dtHostAccess ho'
    exact ⟨_, _, exec_hostAccessFail_other hr ho' hs, hf, rfl, rfl, rfl, rfl, by rw [State.failOp_mem, ha.mem],
      by rw [State.failOp_plots, ha.plots]⟩

end Sys2Proof.Machine
end

section
/-! What a grant of a pipe changes beside the session it serves (O20). -/

namespace Sys2Proof.Machine

/-- The encode session that waits for pipe 1, with the phase of video mapped to stage 1, whose setpoint lies 50 mV above that of the
stage that every other phase selects (R535). -/
def stagedPipeState : State := ((pipeState false true).wr PWR_PHASE_STAGES 0 (8 ^ 4)).wr PWR_STAGE_VSET_MV 1 200

theorem stagedPipe_waits : stagedPipeState.runs = true ∧ stagedPipeState.pipeBusy 1 = false ∧
    stagedPipeState.encSession 1 = packState false true ∧ (packState false true).isOpen = true ∧
    descFld (packState false true).desc 18 0 3 = 1 ∧ (packState false true).active = none ∧ (packState false true).units = [] ∧
    (stagedPipeState.arbGrant (arbPipe 1) (stagedPipeState.pipeBound 1) 257 (stagedPipeState.pipeWaiting 1)).isSome = true := by
  decide +kernel

/-- Stage of the power controller in what a command answers. -/
def answeredStage (a : Answer) : Option Nat :=
  match a with
  | .next t => some t.pwr.stage
  | _ => none

/-- With its picture on the pipe the phase of video is present, so the grant selects stage 1 in place of stage 0. -/
theorem stagedPipe_grant : stagedPipeState.pwr.stage = 0 ∧ answeredStage (exec (.pipePictureGrant 1 1 true) stagedPipeState) = some 1 := by
  decide +kernel

/-- Refutes O20: its clauses of PIPE_PICTURE_GRANT have everything but the sessions and the arbiter stand, but a grant makes the phase
of video present, for which the power controller selects a stage anew (R535); in `stagedPipeState` the stage moves from 0 to 1. -/
theorem not_pipesServePictures : ¬ Obligations.PipesServePictures := by
  unfold Obligations.PipesServePictures
  rintro ⟨-, hgrant⟩
  obtain ⟨hr, hb, hx, hopen, hpipe, ha, hu, hg⟩ := stagedPipe_waits
  obtain ⟨h0, h1⟩ := stagedPipe_grant
  rw [← hx] at hopen hpipe ha hu
  obtain ⟨t, he, -, -, hframe⟩ := hgrant stagedPipeState 1 1 1 { ring := 5, seq := 1, frame := 0, num := 4, buf := 0, packed := true } [] hr
    rfl hb (congrArg EncSession.jobs hx) hopen hpipe ha hu hg
  have hstage : t.pwr.stage = stagedPipeState.pwr.stage := by rw [hframe]
  rw [he, answeredStage, hstage, h0] at h1
  exact absurd h1 (by decide)

end Sys2Proof.Machine
end

section
/-! Stream operations whose checks no longer hold (O9). -/

namespace Sys2Proof.Machine

/-- A row whose effect on a ready operation is a refusal ends it with that status and detail. -/
theorem State.opRow_refused {s : State} {q : RingNo} {n : Seq} {o : Op} {opc : Nat} {r : BitVec 12 × BitVec 16} {f : State → Op → State}
    (h : OpReady s q n o opc) (hf : f s o = s.refuseOp o r) : s.opRow q n opc f = .next (s.setOp (o.ended r.1 r.2 0)) := by
  rw [State.opRow_ready f h, hf]
  rfl

/-- Settles O9: each of the six rows begins with the check that is made again (`State.recheck`), and refuses under it. -/
theorem refusedOperationsChangeNothing : Obligations.RefusedOperationsChangeNothing := by
  unfold Obligations.RefusedOperationsChangeNothing
  intro s q n o c opc r hm h hc
  simp only [List.mem_cons, Prod.mk.injEq, List.not_mem_nil, or_false] at hm
  rcases hm with ⟨rfl, rfl⟩ | ⟨rfl, rfl⟩ | ⟨rfl, rfl⟩ | ⟨rfl, rfl⟩ | ⟨rfl, rfl⟩ | ⟨rfl, rfl⟩
  · show execStreamOpen q n s = _
    exact State.opRow_refused h (r := r) (by simp only [hc])
  · show execStreamObserve q n s = _
    exact State.opRow_refused h (r := r) (by simp only [hc])
  · show execFork q n s = _
    exact State.opRow_refused h (r := r) (by simp only [hc])
  · show execRollout q n s = _
    exact State.opRow_refused h (r := r) (by simp only [hc])
  · show execPrune q n s = _
    exact State.opRow_refused h (r := r) (by simp only [hc])
  · show execStreamClose q n s = _
    exact State.opRow_refused h (r := r) (by simp only [hc])

end Sys2Proof.Machine
end

section
/-! What the start of an observation changes beside the session of its picture (O12). -/

namespace Sys2Proof.Machine

/-- The STREAM_OBSERVE that waits for its start while partition 1 runs a slot whose entry a commit of the table has since given the role
of BACK (R481), with the phase of backward slots mapped to stage 1 (R535): the stage stands as it was selected before the commit. -/
def recastState : State :=
  ({ stepState observeDesc with rot := { (stepState observeDesc).rot with
      parts := (stepState observeDesc).rot.parts ++ [(1, { slot := { phase := .running, entry := 2 } })] } } : State).wr PWR_PHASE_STAGES 0 (8 ^ 2)

theorem recast_ready : OpReady recastState 5 1 (op1 observeDesc) 0x02 :=
  ⟨by decide +kernel, by decide +kernel, by decide +kernel, by decide +kernel⟩

theorem recast_accepted : recastState.recheck (op1 observeDesc) = none ∧
    recastState.readsRefused 3 (op1 observeDesc).readOwners = none ∧ recastState.stepsRefused (op1 observeDesc) = none ∧
    recastState.startHandle (op1 observeDesc) = none := by decide +kernel

/-- The observation holds its picture, and with the session's change the power controller selects stage 1 in place of stage 0. -/
theorem recast_starts : recastState.pwr.stage = 0 ∧ answeredStage (exec (.streamObserve 5 1) recastState) = some 1 := by
  decide +kernel

/-- Refutes O12: its clause of STREAM_OBSERVE has everything but operations, queues, pools and sessions stand, but the picture that the
observation holds changes a session, upon which the power controller selects its stage anew (R535); in `recastState` the stage moves
from 0 to 1. -/
theorem not_stepsStart : ¬ Obligations.StepsStart := by
  unfold Obligations.StepsStart
  intro h
  obtain ⟨hc, hreads, hsteps, hhandle⟩ := recast_accepted
  obtain ⟨h0, h1⟩ := recast_starts
  obtain ⟨t, he, -, -, -, hframe⟩ :=
    (h recastState 5 1 (op1 observeDesc) 3 0 (by decide +kernel) (by decide +kernel) hc hreads hsteps hhandle).1 recast_ready
  have hstage : t.pwr.stage = recastState.pwr.stage := by rw [hframe]
  rw [he, answeredStage, hstage, h0] at h1
  exact absurd h1 (by decide)

end Sys2Proof.Machine
end

section
/-! Chunks that become READY, and the optimiser step (O14). -/

namespace Sys2Proof.Machine

/-! ### CHUNK_READY (R484, R485) -/

/-- A chunk becomes READY together with one whose condition holds: it is of the same operation, is not READY and its condition holds. -/
def State.readyWith (s : State) (p : Nat) (c d : Chunk) : Bool :=
  d.ring = c.ring && d.seq = c.seq && d.ready.isNone && s.chunkCond p d

/-- A chunk as it stands once one of its partition's has become READY. -/
def State.readied (s : State) (p : Nat) (c d : Chunk) : Chunk :=
  if s.readyWith p c d then { d with ready := some (s.rot.readyClock + 1) } else d

theorem State.readyWith_iff (s : State) (p : Nat) (c d : Chunk) :
    s.readyWith p c d = true ↔ d.ring = c.ring ∧ d.seq = c.seq ∧ d.ready = none ∧ s.chunkCond p d = true := by
  simp [State.readyWith, and_assoc]

/-- The partition's queue with its chunks READY, and the clock of readiness past them. -/
def State.makeReady (s : State) (p : Nat) (c : Chunk) : State :=
  let s1 := s.setPart p { s.part p with chunks := (s.part p).chunks.map (s.readied p c), skips := 0 }
  { s1 with rot := { s1.rot with readyClock := s.rot.readyClock + 1 } }

theorem State.part_makeReady (s : State) (p : Nat) (c : Chunk) :
    (s.makeReady p c).part p = { s.part p with chunks := (s.part p).chunks.map (s.readied p c), skips := 0 } :=
  s.part_setPart p _

theorem State.part_makeReady_other (s : State) {p p' : Nat} (c : Chunk) (h : p' ≠ p) : (s.makeReady p c).part p' = s.part p' :=
  s.part_setPart_other _ h

theorem exec_chunkReady_makes {s : State} {p : PartNo} {i : Nat} {c : Chunk} (hr : s.runs = true)
    (hc : (s.part p.toNat).chunks[i]? = some c) (hn : c.ready = none) (hk : s.chunkCond p.toNat c = true) :
    exec (.chunkReady p i) s = .next (s.makeReady p.toNat c) := by
  show execChunkReady p i s = _
  rw [execChunkReady, State.issue_runs _ _ hr]
  simp only [hc, hn, hk]
  rfl

/-! ### OPTIMISER_STEP (R107, R108) -/

theorem stepWeight_length (f : Nat → Word → Word) (b1 b2 eta eps u m v hi lo : Word) :
    (stepWeight f b1 b2 eta eps u m v hi lo).length = 2 := rfl

/-- A step leaves a weight pair for each parameter. -/
theorem PolicyRec.optimise_weights (p : PolicyRec) (f : Nat → Word → Word) (seed ord : Nat) (u : Word) (grads : List Word) :
    (p.optimise f seed ord u grads).weights.length = 2 * p.n := by
  simp [PolicyRec.optimise, stepWeight_length, Nat.mul_comm]

/-- The policy of an OPTIM slot's operation after its step. -/
def State.steppedPolicy (s : State) (part : PartNo) (o : Op) (p : PolicyRec) : PolicyRec :=
  p.optimise (s.sfuHwAt (s.scorer part.toNat)) (o.fld 40 0 32) (2 * o.horizon) (BitVec.ofNat 32 (o.fld 44 0 32)) o.gradients

theorem exec_optimiserStep_steps {s : State} {part : PartNo} {c : Chunk} {o : Op} {p : PolicyRec} (hr : s.runs = true)
    (hc : (s.part part.toNat).slot.chunk = some c) (hk : c.kind = .optim) (ho : s.op? c.ring c.seq = some o)
    (hph : (s.part part.toNat).slot.phase = .running) (hp : s.policy? (s.stream o.streamNo).policy.toNat = some p)
    (hu : p.applied ≠ BitVec.ofNat 32 (o.fld 44 0 32))
    (hold : s.olderPinned o (s.stream o.streamNo).policy.toNat (BitVec.ofNat 32 (o.fld 44 0 32)) = false)
    (hopen : s.cisOpen p.region (policyBytes p.n) = true) : exec (.optimiserStep part) s =
      .next (s.storePolicy (some part.toNat) (s.stream o.streamNo).policy.toNat (s.steppedPolicy part o p)) := by
  show execOptimiserStep part s = _
  rw [execOptimiserStep, State.issue_runs _ _ hr]
  simp only [hc, hk, Option.bind_some, if_true, ho, hp]
  rw [if_neg (by simp [hph, hu, hold, hopen])]
  rfl

/-- The bytes of a policy's region. -/
def PolicyRec.bytes (p : PolicyRec) : List Byte := (List.range (policyBytes p.n)).map (Config.policyByte p.weights p.moments p.hyper)

theorem PolicyRec.bytes_length (p : PolicyRec) : p.bytes.length = policyBytes p.n := by simp [PolicyRec.bytes]

section
variable (s : State) (part : Option Nat) (h : Nat) (p : PolicyRec)

theorem carries_storePolicy : Carries (s.setPolicy h p) (s.storePolicy part h p) := carries_cisSend _ _ _ _

theorem State.policies_storePolicy : (s.storePolicy part h p).ctx.policies = sput ({} : PolicyRec) s.ctx.policies h p := by
  rw [(carries_storePolicy s part h p).frame]; rfl

theorem State.cisBytes_storePolicy : (s.storePolicy part h p).cisBytes p.region (policyBytes p.n) = p.bytes := by
  have hb := State.cisBytes_cisSend (s.setPolicy h p) part p.region p.bytes
  rwa [PolicyRec.bytes_length] at hb

theorem State.cisByte_storePolicy_other {a : Nat} (ha : s.cisSpares p.region (policyBytes p.n) a) :
    (s.storePolicy part h p).cisBytes a 1 = s.cisBytes a 1 :=
  State.cisByte_cisSend_other (s.setPolicy h p) part p.region p.bytes
    (State.cisSpares_congr (s := s) rfl (by rwa [PolicyRec.bytes_length]))

theorem traffic_storePolicy : Traffic s (s.storePolicy part h p) :=
  have t := (carries_storePolicy s part h p).traffic
  ⟨t.regs, t.sent, t.calm⟩

/-- Beside the policies, only what the channels' traffic may change. -/
theorem State.storePolicy_only : s.storePolicy part h p =
    { s.withTraffic (s.storePolicy part h p) with ctx := { s.ctx with policies := (s.storePolicy part h p).ctx.policies } } := by
  conv_lhs => rw [(carries_storePolicy s part h p).frame]
  rw [State.policies_storePolicy]
  rfl

end

/-- Settles O14: CHUNK_READY by the one change of a queue's chunks (`State.readied`), the optimiser step by the one write of the policy's
region (`cisBytes_storePolicy`, `carries_storePolicy`). -/
theorem chunksAndOptimiser : Obligations.ChunksAndOptimiser := by
  unfold Obligations.ChunksAndOptimiser
  refine ⟨fun s p i c hr hc hn hk => ?ready, fun s part c o p hr hc hk ho hph => ?step⟩
  case ready =>
    have hp := s.part_makeReady p.toNat c
    have hd : ∀ (j : Nat) (d : Chunk), (s.part p.toNat).chunks[j]? = some d →
        ((s.makeReady p.toNat c).part p.toNat).chunks[j]? = some (s.readied p.toNat c d) := fun j d hj => by
      rw [hp, List.getElem?_map, hj]; rfl
    have hw : s.readyWith p.toNat c c = true := (s.readyWith_iff p.toNat c c).2 ⟨rfl, rfl, hn, hk⟩
    refine ⟨_, exec_chunkReady_makes hr hc hn hk, by rw [hd i c hc, State.readied, if_pos hw],
      fun j d hj => ⟨_, hd j d hj, fun h => ?_, fun h => ?_⟩, by rw [hp], fun p' hp' => s.part_makeReady_other c hp', rfl⟩
    · rw [State.readied, if_pos ((s.readyWith_iff p.toNat c d).2 h)]
    · rw [State.readied, if_neg (mt (s.readyWith_iff p.toNat c d).1 h)]
  case step =>
    intro h u hp hu hold hopen
    have hs : sget ({} : PolicyRec) (s.storePolicy (some part.toNat) h (s.steppedPolicy part o p)).ctx.policies h = s.steppedPolicy part o p := by
      rw [State.policies_storePolicy, sget_sput_same]
    refine ⟨_, exec_optimiserStep_steps hr hc hk ho hph hp hu hold hopen, ?_, fun h' hh => ?_, fun a ha => ?_,
      traffic_storePolicy _ _ _ _, State.storePolicy_only _ _ _ _⟩
    · dsimp only
      rw [hs]
      exact ⟨rfl, p.optimise_weights _ _ _ _ _, rfl, rfl, rfl, rfl, rfl, rfl, s.cisBytes_storePolicy _ h (s.steppedPolicy part o p)⟩
    · rw [State.policies_storePolicy, sget_sput_other _ _ _ _ hh]
    · exact s.cisByte_storePolicy_other _ h (s.steppedPolicy part o p) ha

end Sys2Proof.Machine
end

section
/-! SUPPORT. Reads of Cistern and of state slots, seen from everything but the channels: which registers they may change, and that they
arm no seep of a plot. -/

namespace Sys2Proof.Machine

/-- Offsets of the registers that reads of Cistern and those of sluice channel `ch` may change: EVT_STATUS, the logs and seeps of the
Cistern channels, and those of the sluice channel. -/
def servedOff (ch off : Nat) : Prop :=
  off = 0x268 ∨ (0x60000 ≤ off ∧ off < 0x70000) ∨ off = 0x50000 + 0x400 * ch ∨ off = 0x50008 + 0x400 * ch

/-- What reads that sluice channel `ch` may take part in leave: the frame of `withTraffic`, every other register, and no seep of a plot
armed or left. -/
structure Served (ch : Nat) (s t : State) : Prop where
  frame : t = s.withTraffic t
  regs : ∀ k n, ¬servedOff ch (regOff k n) → t.reg k n = s.reg k n
  armed : ∀ i, sget (0 : DWord) t.armed i = sget (0 : DWord) s.armed i ∨ sget (0 : DWord) t.armed i = 0
  inject : ∀ x ∈ t.inject, x ∈ s.inject ∨ x.kind ≠ .plot

theorem Served.refl (ch : Nat) (s : State) : Served ch s s := ⟨rfl, fun _ _ _ => rfl, fun _ => .inl rfl, fun _ h => .inl h⟩

theorem Served.trans {ch : Nat} {s t u : State} (h : Served ch s t) (g : Served ch t u) : Served ch s u := by
  refine ⟨?_, fun k n hk => (g.regs k n hk).trans (h.regs k n hk), fun i => ?_, fun x hx => ?_⟩
  · have hf := h.frame
    have gf := g.frame
    rw [hf] at gf
    exact gf
  · rcases g.armed i with e | e
    · rw [e]; exact h.armed i
    · exact .inr e
  · rcases g.inject x hx with e | e
    · exact h.inject x e
    · exact .inr e

/-- Field by field, what stands under reads. -/
theorem Served.fields {ch : Nat} {s t : State} (h : Served ch s t) : t.ctx = s.ctx ∧ t.rot = s.rot ∧ t.host = s.host ∧ t.plots = s.plots ∧
    t.pools = s.pools ∧ t.lev = s.lev ∧ t.sfu = s.sfu := by
  rw [h.frame]
  exact ⟨rfl, rfl, rfl, rfl, rfl, rfl, rfl⟩

/-- A field of a register that reads spare. -/
theorem Served.rd {ch : Nat} {s t : State} (h : Served ch s t) {f : Fld} {n : Nat} (hf : ¬servedOff ch (regOff f.reg n)) :
    t.rd f n = s.rd f n := by
  unfold State.rd; rw [h.regs _ _ hf]

/-- A seep of a plot that is quiet stays so. -/
theorem Served.quiet {ch : Nat} {s t : State} (h : Served ch s t) {r : Nat} (hq : s.seepQuiet .plot r = true) :
    t.seepQuiet .plot r = true := by
  have hw : t.armedWord .plot r = s.armedWord .plot r ∨ t.armedWord .plot r = 0 := h.armed _
  simp only [State.seepQuiet, State.seepArmed, Bool.and_eq_true, Bool.not_eq_true', List.all_eq_true] at hq ⊢
  obtain ⟨ha, hi⟩ := hq
  refine ⟨?_, fun x hx => ?_⟩
  · rcases hw with e | e
    · simpa only [e] using ha
    · simp only [e]; rfl
  · rcases h.inject x hx with e | e
    · exact hi x e
    · simp [e]

/-! ### Steps of a read -/

section
variable {ch : Nat} (s : State)

theorem served_setReg {k : RegKind} {n : Nat} (v : DWord) (h : servedOff ch (regOff k n)) : Served ch s (s.setReg k n v) :=
  ⟨rfl, fun _ _ hk => reg_setReg_other s v fun e => hk (e ▸ h), fun _ => .inl rfl, fun _ h => .inl h⟩

theorem served_wrs (n : Nat) (fs : List (Fld × Nat)) (h : ∀ x ∈ fs, servedOff ch (regOff x.1.reg n)) : Served ch s (s.wrs n fs) := by
  induction fs generalizing s with
  | nil => exact .refl ch s
  | cons x xs ih => exact (served_setReg s _ (h x List.mem_cons_self)).trans (ih _ fun y hy => h y (List.mem_cons_of_mem _ hy))

theorem served_logFirst {v : Fld} (n : Nat) (fs : List (Fld × Nat)) (hv : servedOff ch (regOff v.reg n)) (hf : ∀ x ∈ fs, x.1.reg = v.reg) :
    Served ch s (s.logFirst v n fs) := by
  unfold State.logFirst
  split_ifs
  · exact .refl ch s
  · exact (served_wrs s n fs fun x hx => by rw [hf x hx]; exact hv).trans (served_setReg _ _ hv)

theorem served_emit (o : Output) : Served ch s (s.emit o) := ⟨rfl, fun _ _ _ => rfl, fun _ => .inl rfl, fun _ h => .inl h⟩
theorem served_counters (c : Sparse (BitVec 48)) (v : Sparse DWord) : Served ch s { s with ctrs := c, ovf := v } :=
  ⟨rfl, fun _ _ _ => rfl, fun _ => .inl rfl, fun _ h => .inl h⟩
theorem served_mem (m : Mem) : Served ch s { s with mem := m } := ⟨rfl, fun _ _ _ => rfl, fun _ => .inl rfl, fun _ h => .inl h⟩
theorem served_cis (c : CisS) : Served ch s { s with cis := c } := ⟨rfl, fun _ _ _ => rfl, fun _ => .inl rfl, fun _ h => .inl h⟩

theorem served_announceEvents : Served ch s s.announceEvents := by
  unfold State.announceEvents
  dsimp only
  split_ifs
  · exact served_emit _ _
  · exact (served_emit _ _).trans (served_emit _ _)
  · exact .refl ch s

theorem served_raise (e : Nat) : Served ch s (s.raise e) :=
  (served_setReg s (k := .evtStatus) (n := 0) _ (.inl (by decide))).trans (served_announceEvents _)

theorem served_bump (c : Ctr) (n k : Nat) : Served ch s (s.bump c n k) := by
  unfold State.bump
  dsimp only
  split_ifs
  · exact (served_counters s _ _).trans (served_raise _ _)
  · exact served_counters s _ _

theorem regOff_cistern {c : Nat} (hc : c < 64) :
    servedOff ch (regOff .cisLog c) ∧ servedOff ch (regOff .cisSeep c) := by
  simp only [servedOff, regOff, RegKind.place, reduceCtorEq, if_false]
  omega

theorem served_arm {i : Nat} (b : Sparse Nat) : Served ch s { s with armed := sput (0 : DWord) s.armed i 0, seen := b } := by
  refine ⟨rfl, fun _ _ _ => rfl, fun j => ?_, fun _ h => .inl h⟩
  show sget (0 : DWord) (sput (0 : DWord) s.armed i 0) j = _ ∨ sget (0 : DWord) (sput (0 : DWord) s.armed i 0) j = 0
  by_cases hj : j = i
  · subst hj; exact .inr (sget_sput_same _ _ _ _)
  · exact .inl (sget_sput_other _ _ _ _ hj)

/-- Events of a seep other than a plot's whose register reads may change. -/
theorem served_seep {k : SeepKind} {i : Nat} (n : Nat) (acts : DWord → Bool) (h : servedOff ch (regOff (seepReg k) i)) (hk : k ≠ .pwr) :
    Served ch s (s.seepEvents k i n acts).st := by
  have hs : ∀ (x : State) (b : Sparse Nat) (j : List Injection), (∀ y ∈ j, y ∈ x.inject) →
      Served ch x { x with seen := b, inject := j } := fun x b j hj => ⟨rfl, fun _ _ _ => rfl, fun _ => .inl rfl, fun y hy => .inl (hj y hy)⟩
  unfold State.seepEvents
  split
  · split_ifs
    · exact .refl ch s
    · exact hs s s.seen _ fun y hy => List.mem_of_mem_erase hy
  · dsimp only
    split_ifs
    · exact .refl ch s
    · unfold State.disarm
      dsimp only
      rw [if_neg (fun e => hk e.1), if_neg (fun e => hk e.1)]
      exact (served_setReg s _ h).trans (served_arm _ _)
    · exact hs s _ s.inject fun _ h => h

/-! ### A block and its channel -/

theorem served_cisLog {c : Nat} (b k : Nat) (st : BitVec 12) (hc : c < 64) : Served ch s (s.cisLog c b k st) :=
  served_logFirst s c _ (regOff_cistern hc).1 (by simp; exact ⟨rfl, rfl, rfl⟩)

theorem served_readFailed {c : Nat} (a m kind : Nat) (persist : Bool) (hc : c < 64) : Served ch s (s.readFailed a c m kind persist).2 := by
  have h1 : Served ch s (s.bump ctrEccUncorrectable c) := served_bump s _ _ _
  unfold State.readFailed
  dsimp only
  split_ifs
  · exact h1.trans (served_cisLog _ _ _ _ hc)
  · exact (h1.trans (served_bump _ _ _ _)).trans (served_mem _ _)
  · exact h1.trans (served_cisLog _ _ _ _ hc)

theorem served_inject (i : Nat) (w : DWord) : Served ch s (s.inject_ .cistern i w) := by
  refine ⟨rfl, fun _ _ _ => rfl, fun _ => .inl rfl, fun x hx => ?_⟩
  rcases List.mem_append.1 hx with h | h
  · exact .inl h
  · obtain rfl := List.mem_singleton.1 h
    exact .inr (by simp)

theorem served_eccFor {c : Nat} (a : Nat) (ecc : EccOutcome) (hc : c < 64) : Served ch s (s.eccFor c a ecc).2.2 := by
  have h1 : Served ch s (s.seepEvents .cistern c 1 fun _ => true).st := served_seep s 1 _ (regOff_cistern hc).2 (by decide)
  have hsp : ∀ x : State, Served ch x (x.spoilParity a) := fun x => by
    unfold State.spoilParity
    split_ifs
    · exact served_mem x _
    · exact .refl ch x
  unfold State.eccFor
  dsimp only
  split
  · exact h1
  · split
    · exact h1
    · exact h1
    · exact h1.trans (served_inject _ _ _)
    · exact h1.trans (hsp _)

theorem served_readBlock (a : Nat) (ecc : EccOutcome) : Served ch s (s.readBlock a ecc).2 := by
  have hc := s.chanBlock_lt a
  have h1 : Served ch s (s.eccFor (s.chanBlock a).1 a ecc).2.2 := served_eccFor s a ecc hc
  unfold State.readBlock
  dsimp only
  split
  · exact h1.trans (served_cisLog _ _ _ _ hc)
  · exact h1.trans (served_readFailed _ _ _ _ _ hc)
  · split
    · exact h1
    · exact h1.trans (served_bump _ _ _ _)
    · exact h1.trans (served_readFailed _ _ _ _ _ hc)

theorem served_readBlocks (n a : Nat) (ecc : EccOutcome) : Served ch s (s.readBlocks a ecc n).2 := by
  induction n generalizing s a ecc with
  | zero => exact .refl ch s
  | succ n ih =>
    unfold State.readBlocks
    dsimp only
    split_ifs
    · exact (served_readBlock s a ecc).trans (ih _ _ _)
    · exact served_readBlock s a ecc

/-! ### Grants and granules -/

theorem served_useGrant (c : Nat) : Served ch s (s.useGrant c) := by
  unfold State.useGrant
  dsimp only
  split_ifs
  · exact (served_cis s _).trans (served_cis _ _)
  · exact served_cis s _

theorem served_countGrant (c p : Nat) : Served ch s (s.countGrant c p) := by
  have h1 : Served ch s (s.bump ctrGrants p) := served_bump s _ _ _
  have go : ∀ (x : State) (y : CisS), Served ch s x → Served ch s (({ x with cis := y } : State).useGrant c) := fun x y h =>
    (h.trans (served_cis x y)).trans (served_useGrant _ _)
  refine go _ _ ?_
  split_ifs
  · exact h1.trans (served_bump _ _ _ _)
  · exact h1

theorem served_tagged (part : Option Nat) (c : Nat) : Served ch s (s.tagged part c) := by
  unfold State.tagged
  split
  · unfold State.grant_
    dsimp only
    split_ifs
    · exact ((served_bump s _ _ _).trans (served_cis _ _)).trans (served_countGrant _ _ _)
    · exact served_countGrant s _ _
  · exact served_useGrant s _

theorem served_readGranules (part : Option Nat) (k a n : Nat) : Served ch s (s.readGranules part a n k).2 := by
  induction k generalizing s a n with
  | zero => exact .refl ch s
  | succ k ih =>
    have h1 : Served ch s ((s.tagged part (s.chanBlock a).1).readBlocks a .clean (blocksOf a (min n (256 - a % 256)))).2 :=
      (served_tagged s part _).trans (served_readBlocks _ _ _ _)
    unfold State.readGranules
    dsimp only
    split_ifs
    · exact h1
    · exact h1.trans (served_bump _ _ _ _)
    · exact (h1.trans (served_bump _ _ _ _)).trans (ih _ _ _)

/-- A unit's read of Cistern. -/
theorem served_cisRead (part : Option Nat) (a n : Nat) : Served ch s (s.cisRead part a n).2 := served_readGranules s part _ a n

/-! ### Slots (R498) -/

theorem served_sluiceLog (n o kind : Nat) (st : BitVec 12) (retryOk committed : Bool) :
    Served ch s (s.sluiceLog ch n o kind st retryOk committed) := by
  refine served_logFirst s ch _ (.inr (.inr (.inl ?_))) (by simp; exact ⟨rfl, rfl, rfl, rfl, rfl, rfl, rfl⟩)
  show regOff .sluiceLog ch = _
  simp [regOff, RegKind.place]

theorem served_sluiceSeep (target : Nat) : Served ch s (s.seepOne .sluice ch target).st := by
  refine served_seep s 1 _ (.inr (.inr (.inr ?_))) (by decide)
  show regOff .sluiceSeep ch = _
  simp [regOff, RegKind.place]

/-- A slot read by a sluice channel. -/
theorem served_readSlot (n : Nat) (place : Nat × Bool) (who : Nat) (committed : Bool) : Served ch s (s.readSlot ch n place who committed).st := by
  have h1 : Served ch s (s.cisRead (some (s.stream n).part.toNat) (s.slotAddr n place.1 place.2) (s.stateBytes n)).2 :=
    served_cisRead s _ _ _
  unfold State.readSlot
  extract_lets a sz part r bytes differs h again
  have h2 : Served ch s h.st := h1.trans (served_sluiceSeep _ _)
  have h3 : Served ch s again.2 := h2.trans (served_cisRead _ _ _ _)
  split_ifs
  · exact h1.trans (served_sluiceLog _ _ _ _ _ _ _)
  · exact h2
  · exact (h3.trans (served_bump _ _ _ _)).trans (served_sluiceLog _ _ _ _ _ _ _)
  · exact (h3.trans (served_bump _ _ _ _)).trans (served_sluiceLog _ _ _ _ _ _ _)

end

/-- The map of plots stands under the reads of Cistern and of the sluice channels that there are. -/
theorem Served.physOf {ch : Nat} {s t : State} (h : Served ch s t) (hc : ch < 64) {l : Nat} (hl : l < 2048) : t.physOf l = s.physOf l :=
  State.physOf_of_map (h.regs _ _ (by rw [regOff_mapEntry, servedOff]; omega))

end Sys2Proof.Machine
end

section
/-! SUPPORT. Copies of a shared slot (R60): what opening and sealing them leave, and what becomes of the owners. -/

namespace Sys2Proof.Machine

/-! ### What copies leave -/

/-- What reads and writes of stream `k`'s slots and changes of its owners leave. -/
structure Copied (k : Nat) (s t : State) : Prop where
  frame : t = { s.withTraffic t with ctx := { s.ctx with streams := t.ctx.streams } }
  others : ∀ j, j ≠ k → t.stream j = s.stream j
  header : t.stream k = { s.stream k with trunk := (t.stream k).trunk, futs := (t.stream k).futs }

theorem Copied.refl (k : Nat) (s : State) : Copied k s s := ⟨rfl, fun _ _ => rfl, rfl⟩

theorem Copied.trans {k : Nat} {s t u : State} (h : Copied k s t) (g : Copied k t u) : Copied k s u := by
  refine ⟨?_, fun j hj => (g.others j hj).trans (h.others j hj), ?_⟩
  · have hf := h.frame
    have gf := g.frame
    rw [hf] at gf
    exact gf
  · have hh := h.header
    have gh := g.header
    rw [hh] at gh
    exact gh

/-- Field by field, what stands under copies. -/
theorem Copied.fields {k : Nat} {s t : State} (h : Copied k s t) :
    t.host = s.host ∧ t.rot = s.rot ∧ t.pools = s.pools ∧ t.plots = s.plots ∧ t.edits = s.edits := by
  rw [h.frame]
  exact ⟨rfl, rfl, rfl, rfl, rfl⟩

theorem Copied.part {k : Nat} {s t : State} (h : Copied k s t) : (t.stream k).part = (s.stream k).part := by rw [h.header]

/-- Traffic alone leaves every stream. -/
theorem copied_of_traffic {k : Nat} {s t : State} (h : t = s.withTraffic t) : Copied k s t := by
  have hc : t.ctx = s.ctx := by rw [h]; rfl
  have hs : ∀ j, t.stream j = s.stream j := fun j => by unfold State.stream; rw [hc]
  refine ⟨?_, fun j _ => hs j, by rw [hs]⟩
  rw [hc]
  exact h

theorem Served.owner {ch : Nat} {s t : State} (h : Served ch s t) (k o : Nat) : t.owner k o = s.owner k o := by
  obtain ⟨hctx, -⟩ := h.fields
  unfold State.owner State.stream
  rw [hctx]

theorem Carries.owner {s t : State} (h : Carries s t) (k o : Nat) : t.owner k o = s.owner k o := by
  unfold State.owner State.stream; rw [h.frame]; rfl

theorem copied_setOwner (s : State) (k o : Nat) (x : OwnerRec) : Copied k s (s.setOwner k o x) := by
  refine ⟨rfl, fun j hj => s.stream_setStream_other _ hj, ?_⟩
  unfold State.setOwner StreamRec.setOwner
  rw [State.stream_setStream]
  split_ifs <;> rfl

theorem copied_mapOwners (k : Nat) (f : OwnerRec → OwnerRec) (os : List Nat) (s : State) : Copied k s (s.mapOwners k f os) := by
  induction os generalizing s with
  | nil => exact .refl k s
  | cons o os ih => exact (copied_setOwner s k o _).trans (ih _)

/-! ### Sharers -/

theorem mem_sdel_other {α : Type} {m : Sparse α} {i : Nat} {x : Nat × α} (h : x ∈ m) (hi : x.1 ≠ i) : x ∈ sdel m i := by
  induction m with
  | nil => exact h
  | cons y m ih =>
    rw [sdel]
    split_ifs with hy
    · exact ih ((List.mem_cons.1 h).resolve_left fun e => hi (by rw [e, hy]))
    · rcases List.mem_cons.1 h with e | e
      · exact e ▸ List.mem_cons_self
      · exact List.mem_cons_of_mem _ (ih e)

theorem mem_sins {α : Type} {m : Sparse α} (i : Nat) (v : α) {x : Nat × α} (h : x ∈ m) : x ∈ sins m i v := by
  induction m with
  | nil => cases h
  | cons y m ih =>
    rw [sins]
    split_ifs
    · exact List.mem_cons_of_mem _ h
    · rcases List.mem_cons.1 h with e | e
      · exact e ▸ List.mem_cons_self
      · exact List.mem_cons_of_mem _ (ih e)

theorem mem_sput_other {α : Type} [DecidableEq α] (d : α) {m : Sparse α} {i : Nat} (v : α) {x : Nat × α} (h : x ∈ m) (hi : x.1 ≠ i) :
    x ∈ sput d m i v := by
  unfold sput
  split_ifs
  · exact mem_sdel_other h hi
  · exact mem_sins i v (mem_sdel_other h hi)

/-- A future shares on whatever becomes of another owner. -/
theorem StreamRec.sharers_setOwner {r : StreamRec} {o : Nat} (x : OwnerRec) {p : Nat} {b : Bool} {g : Nat} (h : g ∈ r.sharers p b)
    (hg : g ≠ o) : g ∈ (r.setOwner o x).sharers p b := by
  obtain ⟨y, hy, rfl⟩ := List.mem_map.1 h
  obtain ⟨hm, hl⟩ := List.mem_filter.1 hy
  unfold StreamRec.setOwner
  split_ifs
  · exact h
  · exact List.mem_map.2 ⟨y, List.mem_filter.2 ⟨mem_sput_other _ _ hm hg, hl⟩, rfl⟩

/-! ### A copy sealed -/

section
variable (ch k : Nat) (place : Nat × Bool)

/-- A copy is sealed for its future alone, whose record then says so. -/
theorem State.sealCopy_eq (s : State) (f : Nat) (bytes : List Byte) (crc : Word) : ∃ m : State, Carries s m ∧
    Carries (m.setOwner k f { ((m.owner k f).setSeal false .sealed crc) with committed := .ownA }) (s.sealCopy ch k f bytes crc) :=
  ⟨_, carries_cisSend s _ _ _, ((carries_bump _ _ _ _).trans (carries_bump _ _ _ _)).trans (carries_bump _ _ _ _)⟩

theorem copied_sealCopy (s : State) (f : Nat) (bytes : List Byte) (crc : Word) : Copied k s (s.sealCopy ch k f bytes crc) := by
  obtain ⟨m, h1, h2⟩ := s.sealCopy_eq ch k f bytes crc
  exact ((copied_of_traffic h1.frame).trans (copied_setOwner m k f _)).trans (copied_of_traffic h2.frame)

theorem State.owner_sealCopy (s : State) (f : Nat) (bytes : List Byte) (crc : Word) : (s.sealCopy ch k f bytes crc).owner k f =
    { ((s.owner k f).setSeal false .sealed crc) with committed := .ownA } := by
  obtain ⟨m, h1, h2⟩ := s.sealCopy_eq ch k f bytes crc
  rw [h2.owner, State.owner_setOwner, h1.owner]

theorem State.owner_sealCopy_other (s : State) {f g : Nat} (bytes : List Byte) (crc : Word) (hg : g ≠ f) :
    (s.sealCopy ch k f bytes crc).owner k g = s.owner k g := by
  obtain ⟨m, h1, h2⟩ := s.sealCopy_eq ch k f bytes crc
  rw [h2.owner, State.owner_setOwner_other _ _ _ hg, h1.owner]

theorem State.sharers_sealCopy (s : State) {f g : Nat} (bytes : List Byte) (crc : Word) {p : Nat} {b : Bool}
    (h : g ∈ (s.stream k).sharers p b) (hg : g ≠ f) : g ∈ ((s.sealCopy ch k f bytes crc).stream k).sharers p b := by
  obtain ⟨m, h1, h2⟩ := s.sealCopy_eq ch k f bytes crc
  have e1 : m.stream k = s.stream k := by unfold State.stream; rw [h1.frame]; rfl
  have e2 := congrArg (fun x : State => x.stream k) h2.frame
  replace e2 : (s.sealCopy ch k f bytes crc).stream k = (m.setOwner k f _).stream k := e2
  rw [e2, State.setOwner, State.stream_setStream, e1]
  exact StreamRec.sharers_setOwner _ h hg

/-- A future that shares no longer: its slot A is committed and sealed. -/
def OwnerRec.held (x : OwnerRec) : Prop := x.committed = .ownA ∧ x.sealA = .sealed

theorem OwnerRec.held_sealed (x : OwnerRec) (crc : Word) : ({ (x.setSeal false .sealed crc) with committed := .ownA } : OwnerRec).held :=
  ⟨rfl, rfl⟩

/-- What a copy leaves of every owner: it stands, or it is held. -/
theorem State.held_sealCopy {s : State} (f : Nat) (bytes : List Byte) (crc : Word) {g : Nat} (h : g = f ∨ (s.owner k g).held) :
    ((s.sealCopy ch k f bytes crc).owner k g).held := by
  by_cases hg : g = f
  · subst hg
    rw [State.owner_sealCopy]
    exact OwnerRec.held_sealed _ _
  · rw [State.owner_sealCopy_other _ _ _ _ _ hg]
    exact h.resolve_left hg

/-! ### The copies of one slot -/

theorem copied_sealCopies (fs : List Nat) (s : State) : Copied k s (s.sealCopies ch k place fs) := by
  induction fs generalizing s with
  | nil => exact .refl k s
  | cons f fs ih => exact (copied_sealCopy ch k s f _ _).trans (ih _)

theorem State.held_sealCopies (fs : List Nat) {s : State} {g : Nat} (h : g ∈ fs ∨ (s.owner k g).held) :
    ((s.sealCopies ch k place fs).owner k g).held := by
  induction fs generalizing s with
  | nil => exact h.resolve_left List.not_mem_nil
  | cons f fs ih =>
    rw [State.sealCopies]
    apply ih
    by_cases hg : g ∈ fs
    · exact .inl hg
    · refine .inr (State.held_sealCopy ch k f _ _ ?_)
      rcases h with h | h
      · exact .inl ((List.mem_cons.1 h).resolve_right hg)
      · exact .inr h

theorem State.sharers_sealCopies (fs : List Nat) {s : State} {g p : Nat} {b : Bool} (h : g ∈ (s.stream k).sharers p b) (hg : g ∉ fs) :
    g ∈ ((s.sealCopies ch k place fs).stream k).sharers p b := by
  induction fs generalizing s with
  | nil => exact h
  | cons f fs ih =>
    obtain ⟨hf, hfs⟩ := not_or.1 (mt List.mem_cons.2 hg)
    exact ih (State.sharers_sealCopy ch k s _ _ h hf) hfs

theorem copied_openCopies (fs : List Nat) (s : State) : Copied k s (s.openCopies ch k place fs).st := by
  induction fs generalizing s with
  | nil => exact .refl k s
  | cons f fs ih =>
    have h1 : Copied k s (s.readSlot ch k place f true).st := copied_of_traffic (served_readSlot s k place f true).frame
    unfold State.openCopies
    generalize s.readSlot ch k place f true = r at h1 ⊢
    dsimp only
    split_ifs
    · exact h1.trans (copied_mapOwners k _ _ r.st)
    · exact (h1.trans (copied_setOwner r.st k f _)).trans (ih _)

theorem copied_copySlot (fs : List Nat) (s : State) : Copied k s (s.copySlot ch k place fs).st := by
  unfold State.copySlot
  dsimp only
  split_ifs
  · exact copied_sealCopies ch k place fs s
  · exact copied_openCopies ch k place _ s

theorem State.openCopies_not_done (fs : List Nat) (s : State) : (s.openCopies ch k place fs).done = false := by
  induction fs generalizing s with
  | nil => rfl
  | cons f fs ih =>
    unfold State.openCopies
    dsimp only
    split_ifs
    · rfl
    · exact ih _

/-- Copies that are complete are sealed. -/
theorem State.copySlot_done {s : State} {fs : List Nat} (h : (s.copySlot ch k place fs).done = true) :
    (s.copySlot ch k place fs).st = s.sealCopies ch k place fs := by
  unfold State.copySlot at h ⊢
  dsimp only at h ⊢
  split_ifs at h ⊢
  · rfl
  · rw [State.openCopies_not_done] at h; cases h

end

/-! ### The slots that owners release -/

section
variable (ch k : Nat) (gone : List Nat)

theorem copied_copyReleased (ps : List (Nat × Bool)) (s : State) : Copied k s (s.copyReleased ch k gone ps).st := by
  induction ps generalizing s with
  | nil => exact .refl k s
  | cons p ps ih =>
    unfold State.copyReleased
    dsimp only
    split_ifs
    · exact ih s
    · exact .refl k s
    · exact (copied_copySlot ch k p _ s).trans (ih _)
    · exact copied_copySlot ch k p _ s

/-- Where the copies are complete, every future outside `gone` that shared one of the slots is held, and held ones stay so. -/
theorem State.held_copyReleased (ps : List (Nat × Bool)) {s : State} (h : (s.copyReleased ch k gone ps).done = true) {g : Nat}
    (hg : (s.owner k g).held ∨ (g ∉ gone ∧ ∃ p ∈ ps, g ∈ (s.stream k).sharers p.1 p.2)) :
    ((s.copyReleased ch k gone ps).st.owner k g).held := by
  induction ps generalizing s with
  | nil =>
    obtain hg | ⟨-, p, hp, -⟩ := hg
    · exact hg
    · cases hp
  | cons p ps ih =>
    unfold State.copyReleased at h ⊢
    dsimp only at h ⊢
    set fs := ((s.stream k).sharers p.1 p.2).filter fun f => !gone.contains f with hfs
    have hmem : ∀ {x}, x ∉ gone → x ∈ (s.stream k).sharers p.1 p.2 → x ∈ fs := fun hx hm =>
      List.mem_filter.2 ⟨hm, by simpa using hx⟩
    split_ifs at h ⊢ with h1 h2 h3
    · refine ih h (hg.imp_right ?_)
      rintro ⟨hgo, p', hp', hsh⟩
      refine ⟨hgo, p', (List.mem_cons.1 hp').resolve_left ?_, hsh⟩
      rintro rfl
      have := hmem hgo hsh
      rw [List.isEmpty_iff.1 h1] at this
      cases this
    · rw [State.copySlot_done ch k p h3] at h ⊢
      apply ih h
      by_cases hf : g ∈ fs
      · exact .inl (State.held_sealCopies ch k p fs (.inl hf))
      · obtain hg | ⟨hgo, p', hp', hsh⟩ := hg
        · exact .inl (State.held_sealCopies ch k p fs (.inr hg))
        · refine .inr ⟨hgo, p', (List.mem_cons.1 hp').resolve_left ?_, State.sharers_sealCopies ch k p fs hsh hf⟩
          rintro rfl
          exact hf (hmem hgo hsh)
    · exact absurd h h3

end

end Sys2Proof.Machine
end

section
/-! PRUNE and STREAM_CLOSE (R60, R62). -/

namespace Sys2Proof.Machine

/-- The CLEAR edits of owners of a stream. -/
def State.clearing (s : State) (k : Nat) (owners : List Nat) (q : RingNo) (n : Seq) : List Edit :=
  owners.map fun f => { kind := .clear, part := (s.stream k).part.toNat, stream := k, owner := f, arg := 0, cause := some (q, n) }

/-- CLEAR edits submitted for an operation: they join the queue, and only its count of writes moves. -/
theorem State.clearEdits_eq (s : State) (k : Nat) (owners : List Nat) {q : RingNo} {n : Seq} {o : Op} (ho : s.op? q n = some o) :
    ∃ l, s.clearEdits k owners (some (q, n)) =
      { s with host := { s.host with ops := l }, edits := s.edits ++ s.clearing k owners q n } ∧
    (s.clearEdits k owners (some (q, n))).op? q n = some { o with unacked := o.unacked + owners.length } := by
  obtain ⟨l, h1, h2⟩ := s.submitEdits_caused (es := s.clearing k owners q n) (by simp [State.clearing]) ho
  refine ⟨l, h1, h2.trans ?_⟩
  simp [State.clearing]

/-! ### Prunes -/

/-- The copies that a PRUNE makes before it frees its futures. -/
def State.pruneCopies (s : State) (o : Op) : CopyStep :=
  s.copyReleased (s.partSluice (s.stream o.streamNo).part.toNat) o.streamNo (s.prunes o)
    ((s.prunes o).flatMap fun f => [(f, false), (f, true)])

/-- What a PRUNE leaves before its CLEAR edits, once its copies are complete. -/
def State.pruned (s : State) (o : Op) : State :=
  ((s.pruneCopies o).st.mapOwners o.streamNo freedOwner (s.prunes o)).finish o stOk

theorem exec_prune_fails {s : State} {q : RingNo} {n : Seq} {o : Op} (h : OpReady s q n o 0x05) (hc : s.recheck o = none)
    (hl : (s.stream o.streamNo).lost = false) (hr : (s.pruneCopies o).status ≠ stOk) :
    exec (.prune q n) s = .next ((s.pruneCopies o).st.finish o stMemUncorrectable 1) := by
  show execPrune q n s = _
  unfold execPrune
  rw [State.opRow_ready _ h]
  unfold State.pruneCopies at hr ⊢
  simp only [hc, hl, Bool.false_eq_true, if_false, if_pos hr]

theorem exec_prune_completes {s : State} {q : RingNo} {n : Seq} {o : Op} (h : OpReady s q n o 0x05) (hc : s.recheck o = none)
    (hl : (s.stream o.streamNo).lost = false) (hr : (s.pruneCopies o).status = stOk) (hd : (s.pruneCopies o).done = true) :
    exec (.prune q n) s = .next ((s.pruned o).clearEdits o.streamNo (s.prunes o) (some (q, n))) := by
  show execPrune q n s = _
  unfold execPrune
  rw [State.opRow_ready _ h]
  unfold State.pruned
  unfold State.pruneCopies at hr hd ⊢
  simp only [hc, hl, Bool.false_eq_true, if_false, hr, ne_eq, not_true_eq_false, hd, Bool.not_true]

theorem State.copied_pruneCopies (s : State) (o : Op) : Copied o.streamNo s (s.pruneCopies o).st := copied_copyReleased _ _ _ _ s

theorem State.copied_freed (s : State) (o : Op) :
    Copied o.streamNo s ((s.pruneCopies o).st.mapOwners o.streamNo freedOwner (s.prunes o)) :=
  (s.copied_pruneCopies o).trans (copied_mapOwners _ _ _ _)

theorem State.owner_pruned (s : State) (o : Op) {f : Nat} (h : f ∈ s.prunes o) :
    (s.pruned o).owner o.streamNo f = freedOwner ((s.pruneCopies o).st.owner o.streamNo f) :=
  State.owner_mapOwners o.streamNo (f := freedOwner) (fun _ => rfl) _ h

/-- A future outside the PRUNE that shared one of its slots is held. -/
theorem State.held_pruned {s : State} {o : Op} (hd : (s.pruneCopies o).done = true) {f g : Nat} {b : Bool} (hf : f ∈ s.prunes o)
    (hg : g ∈ (s.stream o.streamNo).sharers f b) (hn : g ∉ s.prunes o) : ((s.pruned o).owner o.streamNo g).held := by
  have hp : (f, b) ∈ (s.prunes o).flatMap fun f => [(f, false), (f, true)] :=
    List.mem_flatMap.2 ⟨f, hf, by cases b <;> simp⟩
  have h1 : ((s.pruneCopies o).st.owner o.streamNo g).held :=
    State.held_copyReleased _ _ _ _ hd (.inr ⟨hn, (f, b), hp, hg⟩)
  have h2 : (s.pruned o).owner o.streamNo g = (s.pruneCopies o).st.owner o.streamNo g := State.owner_mapOwners_other _ _ _ hn
  rw [h2]
  exact h1

/-! ### Closes -/

/-- Every owner of a stream that a STREAM_CLOSE releases. -/
def StreamRec.allLive (r : StreamRec) : List Nat := trunkOwner :: r.liveFutures

/-- An owner outside them is not LIVE. -/
theorem StreamRec.not_live {r : StreamRec} {f : Nat} (h : f ∉ r.allLive) : (r.owner f).live = false := by
  obtain ⟨ht, hf⟩ := not_or.1 (mt List.mem_cons.2 h)
  unfold StreamRec.owner
  rw [if_neg ht]
  have key : ∀ m : Sparse OwnerRec, f ∉ (m.filter fun x => x.2.live).map (·.1) → (sget ({} : OwnerRec) m f).live = false := fun m => by
    induction m with
    | nil => exact fun _ => rfl
    | cons x m ih =>
      obtain ⟨i, v⟩ := x
      intro hm
      rw [sget]
      split_ifs with he
      · subst he
        by_contra hl
        exact hm (by simp [hl])
      · exact ih fun hx => hm (by rw [List.filter_cons]; split_ifs <;> simp [hx])
  exact key r.futs hf

/-- What a STREAM_CLOSE leaves before its CLEAR edits. -/
def State.closing (s : State) (o : Op) : State :=
  let t := s.mapOwners o.streamNo freedOwner (s.stream o.streamNo).allLive
  (t.setStream o.streamNo { t.stream o.streamNo with st := .closing }).begin_ o

theorem exec_streamClose_closes {s : State} {q : RingNo} {n : Seq} {o : Op} (h : OpReady s q n o 0x06) (hc : s.recheck o = none) :
    exec (.streamClose q n) s =
      .next ((s.closing o).clearEdits o.streamNo (s.stream o.streamNo).allLive (some (q, n))) := by
  show execStreamClose q n s = _
  unfold execStreamClose
  rw [State.opRow_ready _ h]
  simp only [hc]
  rfl

theorem State.stream_closing (s : State) (o : Op) : (s.closing o).stream o.streamNo =
    { (s.mapOwners o.streamNo freedOwner (s.stream o.streamNo).allLive).stream o.streamNo with st := .closing } :=
  State.stream_setStream _ _ _

theorem State.stream_closing_other (s : State) (o : Op) {j : Nat} (h : j ≠ o.streamNo) : (s.closing o).stream j = s.stream j :=
  (State.stream_setStream_other _ _ h).trans (s.stream_mapOwners_other _ _ h)

theorem State.closing_only (s : State) (o : Op) :
    ∃ x l, s.closing o = { s with ctx := { s.ctx with streams := x }, host := { s.host with ops := l } } := by
  obtain ⟨x, hx⟩ := s.mapOwners_only o.streamNo freedOwner (s.stream o.streamNo).allLive
  unfold State.closing
  rw [hx]
  exact ⟨_, _, rfl⟩

theorem State.owner_closing (s : State) (o : Op) (f : Nat) : ((s.closing o).owner o.streamNo f).live = false := by
  have h1 : (s.closing o).owner o.streamNo f =
      (s.mapOwners o.streamNo freedOwner (s.stream o.streamNo).allLive).owner o.streamNo f := by
    unfold State.owner
    rw [s.stream_closing]
    rfl
  rw [h1]
  by_cases hf : f ∈ (s.stream o.streamNo).allLive
  · rw [State.owner_mapOwners o.streamNo (f := freedOwner) (fun _ => rfl) s hf]; rfl
  · rw [State.owner_mapOwners_other _ _ _ hf]; exact StreamRec.not_live hf

/-- Settles O11: a PRUNE leaves its futures freed (`owner_pruned`) and those that shared with them held (`held_pruned`), a STREAM_CLOSE
leaves no owner LIVE (`owner_closing`); the edits of both join the queue (`clearEdits_eq`). -/
theorem pruneAndCloseRelease : Obligations.PruneAndCloseRelease := by
  unfold Obligations.PruneAndCloseRelease
  rintro s q n o k rfl hc
  refine ⟨fun h hl => ⟨fun hr => ?fails, fun hr hd => ?completes⟩, fun h => ?closes⟩
  case fails =>
    obtain ⟨hh, -, hp, -, he⟩ := (s.copied_pruneCopies o).fields
    have ho : (s.pruneCopies o).st.op? q n = some o := (State.op_of_host hh q n).trans h.found
    exact ⟨_, _, exec_prune_fails h hc hl hr, State.op_finish _ _ _ _ ho, rfl, rfl, rfl, he, hp⟩
  case completes =>
    have hcp := s.copied_freed o
    obtain ⟨hh, hrot, hp, hpl, he⟩ := hcp.fields
    have ho : (s.pruned o).op? q n = some (o.ended stOk 0 0) :=
      State.op_finish _ _ _ _ ((State.op_of_host hh q n).trans h.found)
    obtain ⟨l, ht, hop⟩ := (s.pruned o).clearEdits_eq o.streamNo (s.prunes o) ho
    have hst : ∀ j, ((s.pruned o).clearEdits o.streamNo (s.prunes o) (some (q, n))).stream j = (s.pruned o).stream j := fun j => by
      rw [ht]; rfl
    refine ⟨_, _, exec_prune_completes h hc hl hr hd, hop, rfl, rfl, rfl, fun f hf => ?_, fun f hf b g hg hn => ?_, ?_, fun j hj => ?_, ?_⟩
    · unfold State.owner
      rw [hst]
      change ((s.pruned o).owner _ _).live = _ ∧ ((s.pruned o).owner _ _).sealA = _ ∧ ((s.pruned o).owner _ _).sealB = _
      rw [s.owner_pruned o hf]
      exact ⟨rfl, rfl, rfl⟩
    · unfold State.owner
      rw [hst]
      exact State.held_pruned hd hf hg hn
    · have hpart : ((s.pruned o).stream o.streamNo).part = (s.stream o.streamNo).part := hcp.part
      rw [ht]
      show (s.pruned o).edits ++ (s.pruned o).clearing o.streamNo (s.prunes o) q n = _
      unfold State.clearing
      rw [hpart]
      exact congrArg (· ++ _) he
    · rw [hst]; exact hcp.others j hj
    · rw [ht]; exact ⟨hpl, hrot, hp⟩
  case closes =>
    obtain ⟨hq, hn⟩ := s.op_ring h.found
    have ho : (s.closing o).op? q n = some o.started :=
      State.op_setOp _ _ ((State.op_of_host (s.mapOwners_host _ _ _) q n).trans h.found) hq hn
    obtain ⟨l, ht, hop⟩ := (s.closing o).clearEdits_eq o.streamNo (s.stream o.streamNo).allLive ho
    obtain ⟨x, l', hx⟩ := s.closing_only o
    have hst : ∀ j, ((s.closing o).clearEdits o.streamNo (s.stream o.streamNo).allLive (some (q, n))).stream j =
        (s.closing o).stream j := fun j => by rw [ht]; rfl
    have hpart : ((s.closing o).stream o.streamNo).part = (s.stream o.streamNo).part := by
      rw [s.stream_closing]; exact (copied_mapOwners _ _ _ s).part
    refine ⟨_, _, exec_streamClose_closes h hc, hop, rfl, ?_, fun f => ?_, ?_, fun j hj => ?_, ?_⟩
    · rw [hst, s.stream_closing]
    · unfold State.owner; rw [hst]; exact s.owner_closing o f
    · rw [ht]
      show (s.closing o).edits ++ (s.closing o).clearing o.streamNo _ q n = _
      unfold State.clearing
      rw [hpart, hx]
      rfl
    · rw [hst]; exact s.stream_closing_other o hj
    · rw [ht, hx]; exact ⟨rfl, rfl, rfl, rfl⟩

end Sys2Proof.Machine
end

section
/-! SUPPORT. What the end of a rollout leaves: its owners committed, its update number free, its records sent and waiting descriptors
refused. -/

namespace Sys2Proof.Machine

/-! ### Owners committed (R286) -/

theorem State.commitOwners_only (k : Nat) (o : Op) (h : Nat) (xs : List Nat) (s : State) :
    ∃ x, s.commitOwners k o h xs = { s with ctx := { s.ctx with streams := x } } := by
  induction xs generalizing s with
  | nil => exact ⟨_, rfl⟩
  | cons f xs ih =>
    obtain ⟨x, hx⟩ := ih (s.setOwner k f (commitOwner h (o.run f).latent (s.owner k f)))
    exact ⟨x, by rw [State.commitOwners, hx]; rfl⟩

theorem copied_commitOwners (k : Nat) (o : Op) (h : Nat) (xs : List Nat) (s : State) : Copied k s (s.commitOwners k o h xs) := by
  induction xs generalizing s with
  | nil => exact .refl k s
  | cons f xs ih => exact (copied_setOwner s k f _).trans (ih _)

theorem State.owner_commitOwners_other {k : Nat} {o : Op} {h : Nat} {xs : List Nat} {f : Nat} (s : State) (hf : f ∉ xs) :
    (s.commitOwners k o h xs).owner k f = s.owner k f := by
  induction xs generalizing s with
  | nil => rfl
  | cons x xs ih =>
    obtain ⟨hx, hxs⟩ := not_or.1 (mt List.mem_cons.2 hf)
    rw [State.commitOwners, ih _ hxs, State.owner_setOwner_other _ _ _ hx]

theorem State.owner_commitOwners {k : Nat} {o : Op} {h : Nat} {xs : List Nat} {f : Nat} (s : State) (hd : xs.Nodup) (hf : f ∈ xs) :
    (s.commitOwners k o h xs).owner k f = commitOwner h (o.run f).latent (s.owner k f) := by
  induction xs generalizing s with
  | nil => cases hf
  | cons x xs ih =>
    obtain ⟨hx, hxs⟩ := List.nodup_cons.1 hd
    rw [State.commitOwners]
    rcases List.mem_cons.1 hf with rfl | hf
    · rw [State.owner_commitOwners_other _ hx, State.owner_setOwner]
    · rw [ih _ hxs hf, State.owner_setOwner_other _ _ _ (show f ≠ x from fun e => hx (e ▸ hf))]

/-! ### Update numbers (R74) -/

theorem of_mem_sins {α : Type} {m : Sparse α} {i : Nat} {v : α} {x : Nat × α} (h : x ∈ sins m i v) : x = (i, v) ∨ x ∈ m := by
  induction m with
  | nil => exact .inl (List.mem_singleton.1 h)
  | cons y m ih =>
    rw [sins] at h
    split_ifs at h
    · exact List.mem_cons.1 h
    · rcases List.mem_cons.1 h with e | e
      · exact .inr (e ▸ List.mem_cons_self)
      · exact (ih e).imp_right (List.mem_cons_of_mem _)

/-- The one entry of a key that was set is the value set. -/
theorem eq_of_mem_sput {α : Type} [DecidableEq α] {d : α} {m : Sparse α} {i : Nat} {v w : α} (h : (i, w) ∈ sput d m i v) : w = v := by
  unfold sput at h
  split_ifs at h
  · exact absurd h (not_mem_sdel m i w)
  · rcases of_mem_sins h with e | e
    · exact (Prod.mk.inj e).2
    · exact absurd e (not_mem_sdel m i w)

theorem State.mem_of_policy? {s : State} {h : Nat} {x : PolicyRec} (hx : s.policy? h = some x) : (h, x) ∈ s.ctx.policies := by
  obtain ⟨⟨i, y⟩, hf, rfl⟩ := Option.map_eq_some_iff.1 hx
  have hi := List.find?_some hf
  simp only [decide_eq_true_eq] at hi
  subst hi
  exact List.mem_of_find?_eq_some hf

/-- An update number that an operation gives up is held no longer. -/
theorem State.held_releaseUpdate (s : State) {o : Op} (hu : o.holdsUpdate = true) {x : PolicyRec}
    (hx : (s.releaseUpdate o).policy? (s.stream o.streamNo).policy.toNat = some x) : x.held = none := by
  unfold State.releaseUpdate at hx
  rw [if_pos hu] at hx
  dsimp only at hx
  split at hx
  case h_1 p _ => rw [eq_of_mem_sput (State.mem_of_policy? hx)]
  case h_2 hn => rw [hn] at hx; cases hx

theorem State.releaseUpdate_none (s : State) {o : Op} (hu : o.holdsUpdate = false) : s.releaseUpdate o = s := by
  unfold State.releaseUpdate; rw [hu]; rfl

/-- Of the state, an update number that is given up changes the policies. -/
theorem State.releaseUpdate_policies (s : State) (o : Op) :
    ∃ x, s.releaseUpdate o = { s with ctx := { s.ctx with policies := x } } := by
  unfold State.releaseUpdate
  dsimp only
  split_ifs
  · split <;> exact ⟨_, rfl⟩
  · exact ⟨_, rfl⟩

/-! ### Records sent (R72) -/

/-- What packets to host memory leave, beside the operation they belong to. -/
structure Posted (s t : State) : Prop where
  mem : t.mem = s.mem
  plots : t.plots = s.plots
  ctx : t.ctx = s.ctx
  rot : t.rot = s.rot
  pools : t.pools = s.pools
  half : ∀ q, t.halfOf q = s.halfOf q
  sent : ∀ x ∈ s.out, x ∈ t.out

theorem Posted.refl (s : State) : Posted s s := ⟨rfl, rfl, rfl, rfl, rfl, fun _ => rfl, fun _ h => h⟩

theorem Posted.trans {s t u : State} (h : Posted s t) (g : Posted t u) : Posted s u :=
  ⟨g.mem.trans h.mem, g.plots.trans h.plots, g.ctx.trans h.ctx, g.rot.trans h.rot, g.pools.trans h.pools,
    fun q => (g.half q).trans (h.half q), fun x hx => g.sent x (h.sent x hx)⟩

theorem Posted.stream {s t : State} (h : Posted s t) (k : Nat) : t.stream k = s.stream k := by unfold State.stream; rw [h.ctx]

theorem Posted.owner {s t : State} (h : Posted s t) (k f : Nat) : t.owner k f = s.owner k f := by unfold State.owner; rw [h.stream]

theorem Aside.posted {s t : State} (h : Aside s t) : Posted s t :=
  ⟨h.mem, h.plots, h.ctx, h.rot, by rw [h.frame], h.half, h.sent⟩

theorem posted_setOp (s : State) (o : Op) : Posted s (s.setOp o) := ⟨rfl, rfl, rfl, rfl, rfl, fun _ => rfl, fun _ h => h⟩

/-- A packet of an operation: it is sent with a tag of the ring's half, and the operation waits for one write more. -/
theorem State.hostPacket_posts (s : State) (use : TagUse) {o p : Op} (a : Nat) (bs : List Byte) (ho : s.op? o.ring o.seq = some p) :
    Posted s (s.hostPacket use o a bs) ∧ (s.hostPacket use o a bs).op? o.ring o.seq = some { p with unacked := p.unacked + 1 } ∧
    ∃ tag, Output.memWrite (s.halfOf o.ring) tag (BitVec.ofNat 64 a) bs ∈ (s.hostPacket use o a bs).out := by
  obtain ⟨hr, hn⟩ := s.op_ring ho
  set tag := (s.takeTag (s.halfOf o.ring) use o.ring o.seq).1 with htag
  set s1 := (s.takeTag (s.halfOf o.ring) use o.ring o.seq).2 with hs1
  have h1 : Aside s s1 := aside_lnk s _
  have ho1 : s1.op? o.ring o.seq = some p := (h1.op _ _).trans ho
  have he : s.hostPacket use o a bs = (s1.setOp { p with unacked := p.unacked + 1 }).memWrite (s.halfOf o.ring) tag a bs := by
    unfold State.hostPacket
    simp only [← htag, ← hs1, ho1]
  have h2 := aside_memWrite (s1.setOp { p with unacked := p.unacked + 1 }) (s.halfOf o.ring) tag a bs
  rw [he]
  refine ⟨(h1.posted.trans (posted_setOp _ _)).trans h2.posted, ?_, tag, ?_⟩
  · rw [h2.op]; exact State.op_setOp _ _ ho1 hr hn
  · exact mem_out_emit _ _

/-- 64 bytes go in one packet. -/
theorem State.hostWrite_of_length (s : State) (o : Op) (a : Nat) {bs : List Byte} (h : bs.length = 64) :
    s.hostWrite o a bs = s.hostPacket .data o a bs := by
  unfold State.hostWrite
  rw [h, show packetsOf 64 = [(0, 64)] from by decide]
  simp [List.take_of_length_le, h]

/-- Records sent from an address on, 64 bytes each. -/
theorem State.writeRecords_posts {o : Op} (rs : List (List Byte)) (hl : ∀ r ∈ rs, r.length = 64) {s : State} {p : Op} (a : Nat)
    (ho : s.op? o.ring o.seq = some p) :
    Posted s (s.writeRecords o a rs) ∧ (s.writeRecords o a rs).op? o.ring o.seq = some { p with unacked := p.unacked + rs.length } ∧
    ∀ i (h : i < rs.length), ∃ tag,
      Output.memWrite (s.halfOf o.ring) tag (BitVec.ofNat 64 (a + 64 * i)) rs[i] ∈ (s.writeRecords o a rs).out := by
  induction rs generalizing s p a with
  | nil => exact ⟨.refl s, ho, fun i h => absurd h (Nat.not_lt_zero i)⟩
  | cons r rs ih =>
    obtain ⟨h1, ho1, tag, ht⟩ := s.hostPacket_posts .data a r ho
    obtain ⟨h2, ho2, ht2⟩ := ih (fun x hx => hl x (List.mem_cons_of_mem _ hx)) (a + 64) ho1
    rw [State.writeRecords, State.hostWrite_of_length _ _ _ (hl r List.mem_cons_self)]
    refine ⟨h1.trans h2, ?_, fun i hi => ?_⟩
    · rw [ho2, List.length_cons, Nat.add_assoc, Nat.add_comm 1]
    · cases i with
      | zero => exact ⟨tag, h2.sent _ ht⟩
      | succ i =>
        obtain ⟨tag', h3⟩ := ht2 i (Nat.lt_of_succ_lt_succ hi)
        rw [h1.half] at h3
        refine ⟨tag', ?_⟩
        rwa [show a + 64 * (i + 1) = a + 64 + 64 * i by omega]

/-! ### Descriptors refused (R74) -/

/-- What operations that fail leave of the owners and policies, and of an operation that has ended. -/
structure Failed (q : RingNo) (n : Seq) (s t : State) : Prop where
  op : t.op? q n = s.op? q n
  owner : ∀ k f, ∃ c p, t.owner k f = { s.owner k f with current := c, openSet := p } ∧ (c = (s.owner k f).current ∨ c = none)
  policies : t.ctx.policies = s.ctx.policies
  mem : t.mem = s.mem
  plots : t.plots = s.plots
  out : t.out = s.out

theorem Failed.refl (q : RingNo) (n : Seq) (s : State) : Failed q n s s :=
  ⟨rfl, fun _ _ => ⟨_, _, rfl, .inl rfl⟩, rfl, rfl, rfl, rfl⟩

theorem Failed.trans {q : RingNo} {n : Seq} {s t u : State} (h : Failed q n s t) (g : Failed q n t u) : Failed q n s u := by
  refine ⟨g.op.trans h.op, fun k f => ?_, g.policies.trans h.policies, g.mem.trans h.mem, g.plots.trans h.plots, g.out.trans h.out⟩
  obtain ⟨c, p, h1, h2⟩ := h.owner k f
  obtain ⟨c', p', h3, h4⟩ := g.owner k f
  rw [h1] at h3 h4
  refine ⟨c', p', h3, ?_⟩
  rcases h4 with e | e
  · rw [e]; exact h2
  · exact .inr e

/-- An owner's current slot and open set changed, where nothing but pools has moved. -/
theorem failed_setOwner {q : RingNo} {n : Seq} (s : State) (ps : Sparse Pool) (k f : Nat) (c : Option SlotRef)
    (p : Option Nat) (hc : c = (s.owner k f).current ∨ c = none) :
    Failed q n s (({ s with pools := ps } : State).setOwner k f { s.owner k f with current := c, openSet := p }) := by
  refine ⟨rfl, fun j g => ?_, rfl, rfl, rfl, rfl⟩
  by_cases h : j = k ∧ g = f
  · obtain ⟨rfl, rfl⟩ := h
    exact ⟨c, p, State.owner_setOwner _ _ _ _, hc⟩
  · have he : (({ s with pools := ps } : State).setOwner k f { s.owner k f with current := c, openSet := p }).owner j g = s.owner j g := by
      by_cases hj : j = k
      · subst hj; exact State.owner_setOwner_other _ _ _ fun e => h ⟨rfl, e⟩
      · exact congrArg (fun r : StreamRec => r.owner g) (State.stream_setStream_other _ _ hj)
    exact ⟨_, _, he, .inl rfl⟩

theorem failed_dropOpenSets {q : RingNo} {n : Seq} (k p : Nat) (os : List Nat) (s : State) : Failed q n s (s.dropOpenSets k p os) := by
  induction os generalizing s with
  | nil => exact .refl q n s
  | cons o os ih =>
    unfold State.dropOpenSets
    dsimp only
    split
    · split_ifs
      · exact (failed_setOwner s s.pools k o none _ (.inr rfl)).trans (ih _)
      · exact (failed_setOwner s _ k o none none (.inr rfl)).trans (ih _)
    · exact (failed_setOwner s s.pools k o none _ (.inr rfl)).trans (ih _)

/-- Edits submitted for other operations. -/
theorem State.op_submitEdits_other {q : RingNo} {n : Seq} (es : List Edit) (s : State) (h : ∀ e ∈ es, e.cause ≠ some (q, n)) :
    (s.submitEdits es).op? q n = s.op? q n := by
  induction es generalizing s with
  | nil => rfl
  | cons e es ih =>
    refine (ih _ fun x hx => h x (List.mem_cons_of_mem _ hx)).trans ?_
    unfold State.submitEdit
    dsimp only
    split
    · rename_i q' n' he
      split
      · rename_i o ho
        obtain ⟨rfl, rfl⟩ := State.op_ring _ ho
        refine State.op_setOp_other _ _ fun hqn => h e List.mem_cons_self ?_
        rw [he]
        exact congrArg some (Prod.ext hqn.1 hqn.2)
      · rfl
    · rfl

/-- An operation that holds no update number fails. -/
theorem failed_failOp {q : RingNo} {n : Seq} (s : State) {o : Op} (st : BitVec 12) (dt : BitVec 16) (hu : o.holdsUpdate = false)
    (hn : ¬(o.ring = q ∧ o.seq = n)) : Failed q n s (s.failOp o st dt) := by
  have h1 : Failed q n s (s.unwind o) := by
    unfold State.unwind
    dsimp only
    rw [State.releaseUpdate_none _ hu]
    have hd : Failed q n s (s.dropChunks (s.stream o.streamNo).part.toNat o.ring o.seq) :=
      ⟨rfl, fun _ _ => ⟨_, _, rfl, .inl rfl⟩, rfl, rfl, rfl, rfl⟩
    split_ifs
    · exact hd.trans (failed_dropOpenSets _ _ _ _)
    · exact .refl q n s
  have h2 : Failed q n (s.unwind o) ((s.unwind o).finish { o with holdsUpdate := false } st dt) :=
    ⟨State.op_setOp_other _ _ hn, fun _ _ => ⟨_, _, rfl, .inl rfl⟩, rfl, rfl, rfl, rfl⟩
  have h3 : ∀ x : State, Failed q n x (x.submitEdits (s.reverts o)) := fun x => by
    have ho := State.op_submitEdits_other (q := q) (n := n) (s.reverts o) x fun e he => by
      obtain ⟨a, -, rfl⟩ := List.mem_map.1 he
      exact fun e => hn (by simpa using e)
    obtain ⟨e, l, hx⟩ := x.submitEdits_only (s.reverts o)
    have hown : ∀ k f, (x.submitEdits (s.reverts o)).owner k f = x.owner k f := fun k f => by rw [hx]; rfl
    exact ⟨ho, fun k f => ⟨_, _, hown k f, .inl rfl⟩, by rw [hx], by rw [hx], by rw [hx], by rw [hx]⟩
  rw [State.failOp_eq]
  exact (h1.trans h2).trans (h3 _)

/-- Waiting descriptors are refused; an operation that has ended is none of them. -/
theorem failed_refuseWaiters {q : RingNo} {n : Seq} {o : Op} (h : Nat) (xs : List Op) {s : State} (ho : s.op? q n = some o)
    (hd : o.stage = .done) : Failed q n s (s.refuseWaiters h xs) := by
  induction xs generalizing s with
  | nil => exact .refl q n s
  | cons x xs ih =>
    unfold State.refuseWaiters
    split
    · rename_i w hw
      split_ifs with hc
      · simp only [Bool.and_eq_true, decide_eq_true_eq, Bool.not_eq_true'] at hc
        obtain ⟨⟨⟨hrun, hu⟩, -⟩, -⟩ := hc
        obtain ⟨hr, hs⟩ := s.op_ring hw
        have hne : ¬(w.ring = q ∧ w.seq = n) := by
          rintro ⟨rfl, rfl⟩
          rw [← hr, ← hs, ho] at hw
          obtain rfl := Option.some.inj hw
          rw [hd] at hrun
          cases hrun
        have h1 := failed_failOp s stDenied 0 hu hne
        exact h1.trans (ih (h1.op.trans ho))
      · exact ih ho
    · exact ih ho

end Sys2Proof.Machine
end

section
/-! ROLLOUT_COMMIT (R64, R72, R74, R286). -/

namespace Sys2Proof.Machine

theorem length_leBytes (n v : Nat) : (leBytes n v).length = n := by
  induction n generalizing v with
  | zero => rfl
  | succ n ih => rw [leBytes, List.length_cons, ih]

theorem length_flatMap_leBytes (l : List Nat) (n : Nat) : (l.flatMap (leBytes n)).length = n * l.length := by
  simp [List.length_flatMap, length_leBytes, Nat.mul_comm]

/-- A record is 64 bytes long (R72). -/
theorem Op.record_length (o : Op) (future frame kind : Nat) (noPlan : Bool) (g : Word) {action : List Word} (h : action.length ≤ 20) :
    (o.record_ future frame kind noPlan g action).length = 64 := by
  unfold Op.record_
  dsimp only
  simp only [List.length_append, length_flatMap_leBytes, length_leBytes, List.length_map, List.length_replicate]
  omega

theorem Op.ainN_le (o : Op) : o.ainN ≤ 20 := by
  unfold Op.ainN
  dsimp only
  split_ifs with h
  · exact h.2
  · exact le_rfl

theorem State.records_length (s : State) (o : Op) {r : List Byte} (h : r ∈ s.records o) : r.length = 64 := by
  have hl : ∀ f : Nat → Word, ((List.range o.ainN).map f).length ≤ 20 := fun f => by simpa using o.ainN_le
  unfold State.records at h
  rcases List.mem_append.1 h with h | h <;> split_ifs at h
  · obtain ⟨x, -, rfl⟩ := List.mem_map.1 h
    exact o.record_length _ _ _ _ _ (hl _)
  · cases h
  · obtain ⟨i, -, rfl⟩ := List.mem_map.1 h
    exact o.record_length _ _ _ _ _ (hl _)
  · cases h

/-- The records of an observation or a rollout. -/
def State.commitRecords (s : State) (o : Op) : List (List Byte) := if o.opcode = 2 then [] else s.records o

/-- The status that a commit ends its operation with. -/
def Op.commitStatus (o : Op) : BitVec 12 := if o.status = stWidened then stWidened else stOk

/-- What a commit leaves before its records are sent. -/
def State.committed (s : State) (o : Op) : State :=
  ((s.commitOwners o.streamNo o o.frames o.owners).releaseUpdate o).finish { o with holdsUpdate := false } o.commitStatus 0
    (BitVec.ofNat 32 (s.commitRecords o).length)

/-- What a commit leaves before waiting descriptors are refused. -/
def State.recorded (s : State) (o : Op) : State := (s.committed o).writeRecords o (o.fld 56 0 64) (s.commitRecords o)

theorem exec_rolloutCommit_commits {s : State} {q : RingNo} {n : Seq} {o : Op} (hr : s.runs = true) (ho : s.op? q n = some o)
    (hm : s.mayCommit o = true) : exec (.rolloutCommit q n) s = .next (if o.train then
      (s.recorded o).refuseWaiters (s.stream o.streamNo).policy.toNat ((s.recorded o).host.ops.filter Op.train) else s.recorded o) := by
  show execRolloutCommit q n s = _
  rw [execRolloutCommit, State.issue_runs _ _ hr]
  simp only [ho, hm]
  rfl

section
variable (s : State) (o : Op)

theorem State.commitRecords_length {r : List Byte} (h : r ∈ s.commitRecords o) : r.length = 64 := by
  unfold State.commitRecords at h
  split_ifs at h
  · cases h
  · exact s.records_length o h

/-- Of the state, a commit changes streams, policies and operations. -/
theorem State.committed_only : ∃ x y l, s.committed o =
    { s with ctx := { s.ctx with streams := x, policies := y }, host := { s.host with ops := l } } := by
  obtain ⟨x, hx⟩ := s.commitOwners_only o.streamNo o o.frames o.owners
  obtain ⟨y, hy⟩ := (s.commitOwners o.streamNo o o.frames o.owners).releaseUpdate_policies o
  exact ⟨x, y, (s.committed o).host.ops, by unfold State.committed; rw [hy, hx]; rfl⟩

/-- Streams follow the owners' commit. -/
theorem State.stream_committed (k : Nat) : (s.committed o).stream k = (s.commitOwners o.streamNo o o.frames o.owners).stream k := by
  obtain ⟨y, hy⟩ := (s.commitOwners o.streamNo o o.frames o.owners).releaseUpdate_policies o
  unfold State.committed
  rw [hy]
  rfl

theorem State.owner_committed (k f : Nat) : (s.committed o).owner k f = (s.commitOwners o.streamNo o o.frames o.owners).owner k f := by
  unfold State.owner; rw [s.stream_committed]

/-- An update number that the operation held is free. -/
theorem State.held_committed (hu : o.holdsUpdate = true) {x : PolicyRec}
    (hx : (s.committed o).policy? (s.stream o.streamNo).policy.toNat = some x) : x.held = none := by
  have hp : ((s.commitOwners o.streamNo o o.frames o.owners).stream o.streamNo).policy = (s.stream o.streamNo).policy := by
    rw [(copied_commitOwners o.streamNo o o.frames o.owners s).header]
  rw [← hp] at hx
  exact State.held_releaseUpdate _ hu hx

theorem State.op_committed {q : RingNo} {n : Seq} (h : s.op? q n = some o) : (s.committed o).op? q n =
    some { o with holdsUpdate := false, stage := .done, status := o.commitStatus, detail := 0,
                  result := BitVec.ofNat 32 (s.commitRecords o).length } := by
  obtain ⟨hq, hn⟩ := s.op_ring h
  obtain ⟨x, hx⟩ := s.commitOwners_only o.streamNo o o.frames o.owners
  obtain ⟨y, hy⟩ := (s.commitOwners o.streamNo o o.frames o.owners).releaseUpdate_policies o
  refine State.op_setOp _ _ (o := o) ?_ hq hn
  rw [hy, hx]
  exact h

end

/-- Settles O13: the owners are committed first (`owner_commitOwners`), the held number is given up (`held_releaseUpdate`), the records are
sent one packet each (`writeRecords_posts`), and what the refusal of waiting descriptors does spares all of it (`failed_refuseWaiters`). -/
theorem rolloutCommits : Obligations.RolloutCommits := by
  unfold Obligations.RolloutCommits
  intro s q n o hr ho hm hnd
  obtain ⟨hq, hn⟩ := s.op_ring ho
  have hop := s.op_committed o ho
  have hhalf : (s.committed o).halfOf o.ring = s.halfOf q := by
    obtain ⟨x, y, l, h⟩ := s.committed_only o; rw [h, hq]; rfl
  obtain ⟨hpost, hrec, hsent⟩ := State.writeRecords_posts (s.commitRecords o) (fun r => s.commitRecords_length o) (o.fld 56 0 64)
    (o := o) (by rw [hq, hn]; exact hop)
  rw [hq, hn] at hrec
  replace hpost : Posted (s.committed o) (s.recorded o) := hpost
  have hfail : ∃ t, exec (.rolloutCommit q n) s = .next t ∧ Failed q n (s.recorded o) t ∧ (o.train = false → t = s.recorded o) := by
    refine ⟨_, exec_rolloutCommit_commits hr ho hm, ?_, fun ht => by rw [if_neg (by simp [ht])]⟩
    split_ifs
    · exact failed_refuseWaiters _ _ hrec rfl
    · exact .refl q n _
  obtain ⟨t, hex, hf, htrain⟩ := hfail
  have hcomm : ∀ k f, (s.recorded o).owner k f = (s.commitOwners o.streamNo o o.frames o.owners).owner k f := fun k f => by
    rw [hpost.owner, s.owner_committed]
  refine ⟨t, _, hex, hf.op.trans hrec, rfl, rfl, rfl, rfl, rfl, fun f hf' => ?owners, fun hu x hx => ?update, fun ht => ?others,
    fun i hi => ?records, hf.mem.trans (hpost.mem.trans ?mem), hf.plots.trans (hpost.plots.trans ?plots)⟩
  case owners =>
    obtain ⟨c, p, h1, h2⟩ := hf.owner o.streamNo f
    rw [hcomm, State.owner_commitOwners s hnd hf'] at h1 h2
    rw [h1]
    exact ⟨rfl, h2.elim id id, rfl, rfl⟩
  case update =>
    refine s.held_committed o hu (x := x) ?_
    unfold State.policy? at hx ⊢
    rwa [hf.policies, hpost.ctx] at hx
  case others =>
    obtain rfl := htrain ht
    obtain ⟨x, y, l, h⟩ := s.committed_only o
    refine ⟨fun f hn => ?_, fun k hk => ?_, hpost.rot.trans (by rw [h]), hpost.pools.trans (by rw [h])⟩
    · rw [hcomm, State.owner_commitOwners_other _ hn]
    · rw [← (copied_commitOwners o.streamNo o o.frames o.owners s).others k hk, ← s.stream_committed]
      exact hpost.stream k
  case records =>
    obtain ⟨tag, h⟩ := hsent i hi
    rw [hhalf] at h
    exact ⟨tag, by rw [hf.out]; exact h⟩
  case mem => obtain ⟨x, y, l, h⟩ := s.committed_only o; rw [h]
  case plots => obtain ⟨x, y, l, h⟩ := s.committed_only o; rw [h]

end Sys2Proof.Machine
end

section
/-! SUPPORT. A swap-out sealed and the end of a partition's swapping (R285, R477, R498). -/

namespace Sys2Proof.Machine

/-- Bytes of Cistern depend on the memories alone. -/
theorem State.cisBytes_of_mem {s t : State} (h : t.mem = s.mem) (a n : Nat) : t.cisBytes a n = s.cisBytes a n := by
  unfold State.cisBytes; rw [h]

/-- A seep that meets none of its events counts them at most. -/
theorem State.seepEvents_missed {s : State} {k : SeepKind} {i n : Nat} {acts : DWord → Bool} (h : (s.seepEvents k i n acts).hit = none) :
    ∃ b, (s.seepEvents k i n acts).st = { s with seen := b } := by
  unfold State.seepEvents at h ⊢
  dsimp only at h ⊢
  split
  · rename_i x hx
    rw [hx] at h
    dsimp only at h
    split_ifs at h ⊢
    exact ⟨_, rfl⟩
  · rename_i hx
    rw [hx] at h
    dsimp only at h
    split_ifs at h ⊢
    · exact ⟨_, rfl⟩
    · exact ⟨_, rfl⟩

/-- The state that a swap-out's write leaves, with the counts of its seep. -/
def State.sentOut (s : State) (b : Sparse Nat) (r : Transit) : State :=
  ({ s with seen := b } : State).cisSend (some (s.stream r.stream.toNat).part.toNat)
    (s.slotAddr r.stream.toNat (s.outPlace r).1 (s.outPlace r).2) r.bytes

/-- The owner's record once its swap-out is sealed. -/
def OwnerRec.sealedOut (x : OwnerRec) (slotB : Bool) (r : Transit) (c : Option SlotRef) : OwnerRec :=
  { (x.setSeal slotB .sealed (crc32c r.bytes)) with current := c }

/-- The state with a swap-out sealed and counted. -/
def State.countedOut (s : State) (b : Sparse Nat) (r : Transit) (c : Option SlotRef) : State :=
  (((s.sentOut b r).setOwner r.stream.toNat r.owner
    (((s.sentOut b r).owner r.stream.toNat r.owner).sealedOut (s.outPlace r).2 r c)).bump ctrSwapOuts (sluiceOf r.lplot)).bump ctrSwapBytes
      (sluiceOf r.lplot) r.bytes.length

/-- A swap-out whose channel's seep does not act. -/
theorem State.sealOut_eq {s : State} (p : Nat) {r : Transit} (h : (s.seepOne .sluice (sluiceOf r.lplot) 0).hit = none) :
    ∃ b c, s.sealOut p r = (s.countedOut b r c).dropTransit p r := by
  obtain ⟨b, hb⟩ := State.seepEvents_missed h
  have hw : (s.seepOne .sluice (sluiceOf r.lplot) 0).word = none := by unfold SeepHit.word; rw [h]; rfl
  unfold State.sealOut
  dsimp only
  rw [hw]
  dsimp only
  rw [show (s.seepOne .sluice (sluiceOf r.lplot) 0).st = { s with seen := b } from hb]
  exact ⟨b, _, rfl⟩

section
variable (s : State) (b : Sparse Nat) (r : Transit) (c : Option SlotRef)

theorem copied_sentOut : Copied r.stream.toNat s (s.sentOut b r) :=
  copied_of_traffic (carries_cisSend ({ s with seen := b } : State) _ _ _).frame

theorem copied_countedOut : Copied r.stream.toNat s (s.countedOut b r c) :=
  ((copied_sentOut s b r).trans (copied_setOwner _ _ _ _)).trans
    (copied_of_traffic ((carries_bump _ _ _ _).trans (carries_bump _ _ _ _)).frame)

theorem State.mem_countedOut : (s.countedOut b r c).mem = (s.sentOut b r).mem := by
  unfold State.countedOut
  rw [State.bump_mem, State.bump_mem]
  rfl

theorem State.lev_countedOut : (s.countedOut b r c).lev = s.lev := by rw [(copied_countedOut s b r c).frame]; rfl

theorem State.owner_countedOut : (s.countedOut b r c).owner r.stream.toNat r.owner =
    (s.owner r.stream.toNat r.owner).sealedOut (s.outPlace r).2 r c := by
  have h1 : (s.countedOut b r c).owner r.stream.toNat r.owner = _ :=
    ((carries_bump _ _ _ _).trans (carries_bump _ _ _ _)).owner r.stream.toNat r.owner
  have h2 : (s.sentOut b r).owner r.stream.toNat r.owner = s.owner r.stream.toNat r.owner :=
    (carries_cisSend ({ s with seen := b } : State) _ _ _).owner _ _
  rw [h1, State.owner_setOwner, h2]

end

/-! ### The end of swapping -/

/-- What IDLE following the slot leaves, where no fence waits. -/
theorem State.syncIdle_leaves {s : State} (p : Nat) (h : s.lev.pend = []) : (s.syncIdle p).mem = s.mem ∧ (s.syncIdle p).ctx = s.ctx ∧
    (s.syncIdle p).host = s.host ∧ (s.syncIdle p).rot = s.rot := by
  rw [State.syncIdle_unfenced s p h]
  refine ⟨?_, ?_, ?_, ?_⟩
  · rw [State.restage_mem, State.wr_mem]
  · rw [(aside_restage _).ctx, State.wr_ctx]
  · rw [State.restage_host, State.wr_host]
  · rw [State.restage_rot, State.wr_rot]

/-- A partition whose slot is idle. -/
def State.idled (s : State) (p : Nat) : State := s.setPart p { s.part p with slot := { (s.part p).slot with phase := .idle } }

theorem State.part_idled (s : State) (p : Nat) :
    (s.idled p).part p = { s.part p with slot := { (s.part p).slot with phase := .idle } } := State.part_setPart _ _ _

/-- What the end of a partition's swapping leaves, where no fence waits. -/
theorem State.endSwapping_leaves {s : State} (p : Nat) (h : s.lev.pend = []) :
    (s.endSwapping p).mem = s.mem ∧ (s.endSwapping p).ctx = s.ctx ∧ (s.endSwapping p).host = s.host ∧
    ((s.endSwapping p).part p).transit = (s.part p).transit ∧
    ((s.part p).slot.phase = .swapping → (s.part p).transit = [] → ((s.endSwapping p).part p).slot.phase = .idle) := by
  unfold State.endSwapping
  dsimp only
  split_ifs with hc
  · change ((s.idled p).syncIdle p).mem = _ ∧ ((s.idled p).syncIdle p).ctx = _ ∧ ((s.idled p).syncIdle p).host = _ ∧
      (((s.idled p).syncIdle p).part p).transit = _ ∧ (_ → _ → (((s.idled p).syncIdle p).part p).slot.phase = _)
    obtain ⟨hm, hx, hh, hr⟩ := State.syncIdle_leaves (s := s.idled p) p h
    have hp : ((s.idled p).syncIdle p).part p = (s.idled p).part p := by unfold State.part; rw [hr]
    rw [hm, hx, hh, hp, State.part_idled]
    exact ⟨rfl, rfl, rfl, rfl, fun _ _ => rfl⟩
  · exact ⟨rfl, rfl, rfl, rfl, fun h1 h2 => absurd (by simp [h1, h2]) hc⟩

/-! ### SWAP_OUT of the one state in transit -/

theorem Transit.is_refl (r : Transit) : r.is r = true := by simp [Transit.is]

theorem exec_swapOut_seals {s : State} {part : PartNo} {r : Transit} (hr : s.runs = true) (ht : (s.part part.toNat).transit = [r])
    (hread : r.read = true) (hturn : s.outTurn r = true)
    (hsh : (s.stream r.stream.toNat).sharers (s.outPlace r).1 (s.outPlace r).2 = [])
    (hopen : s.slotOpen r.stream.toNat (s.outPlace r).1 (s.outPlace r).2 = true) (h8 : r.slot < 8) :
    exec (.swapOut part r.pos (BitVec.ofNat 3 r.slot)) s = .next
      (((s.sealOut part.toNat r).readTransits part.toNat ((s.sealOut part.toNat r).part part.toNat).transit).endSwapping part.toNat) := by
  show execSwapOut part r.pos _ s = _
  rw [execSwapOut, State.issue_runs _ _ hr]
  have hf : [r].find? (fun t => t.pos = r.pos && t.slot = (BitVec.ofNat 3 r.slot).toNat) = some r := by
    rw [List.find?_cons_of_pos]
    simp [Nat.mod_eq_of_lt h8]
  simp only [ht, hf, hread, hturn, hsh, hopen, Bool.not_true, Bool.or_self, Bool.false_eq_true, if_false, List.isEmpty_nil, if_true]

theorem State.dropTransit_countedOut (s : State) {p : Nat} {r : Transit} (b : Sparse Nat) (c : Option SlotRef)
    (ht : (s.part p).transit = [r]) : ((s.countedOut b r c).dropTransit p r).mem = (s.sentOut b r).mem ∧
      ((s.countedOut b r c).dropTransit p r).ctx = (s.countedOut b r c).ctx ∧ ((s.countedOut b r c).dropTransit p r).host = s.host ∧
      ((s.countedOut b r c).dropTransit p r).lev = s.lev ∧
      ((s.countedOut b r c).dropTransit p r).part p = { s.part p with transit := [] } := by
  obtain ⟨hhost, hrot, -⟩ := (copied_countedOut s b r c).fields
  have hp : (s.countedOut b r c).part p = s.part p := by unfold State.part; rw [hrot]
  refine ⟨s.mem_countedOut b r c, rfl, hhost, s.lev_countedOut b r c, ?_⟩
  unfold State.dropTransit
  rw [State.part_setPart, hp, ht]
  simp [Transit.is_refl]

/-- What the swap-out of the one state in transit leaves. -/
theorem swapOut_leaves {s : State} {part : PartNo} {r : Transit} (hr : s.runs = true) (hl : s.lev.pend = [])
    (ht : (s.part part.toNat).transit = [r]) (hread : r.read = true) (hturn : s.outTurn r = true)
    (hsh : (s.stream r.stream.toNat).sharers (s.outPlace r).1 (s.outPlace r).2 = [])
    (hopen : s.slotOpen r.stream.toNat (s.outPlace r).1 (s.outPlace r).2 = true)
    (hseep : (s.seepOne .sluice (sluiceOf r.lplot) 0).hit = none) (h8 : r.slot < 8) :
    ∃ t b c, exec (.swapOut part r.pos (BitVec.ofNat 3 r.slot)) s = .next t ∧ t.mem = (s.sentOut b r).mem ∧
      t.ctx = (s.countedOut b r c).ctx ∧ t.host = s.host ∧ (t.part part.toNat).transit = [] ∧
      ((s.part part.toNat).slot.phase = .swapping → (t.part part.toNat).slot.phase = .idle) := by
  obtain ⟨b, c, he⟩ := State.sealOut_eq part.toNat hseep
  obtain ⟨hum, hux, huh, hul, hup⟩ := s.dropTransit_countedOut b c ht
  obtain ⟨hm, hx, hh, htr, hph⟩ := State.endSwapping_leaves (s := (s.countedOut b r c).dropTransit part.toNat r) part.toNat
    (by rw [hul]; exact hl)
  have hex := exec_swapOut_seals hr ht hread hturn hsh hopen h8
  rw [he, hup] at hex
  simp only [State.readTransits] at hex
  rw [hup] at htr hph
  exact ⟨_, b, c, hex, hm.trans hum, hx.trans hux, hh.trans huh, htr, fun hs => hph hs rfl⟩

end Sys2Proof.Machine
end

section
/-! SUPPORT. An owner's state that a swap-in brings to its plot (R496, R498). -/

namespace Sys2Proof.Machine

/-! ### A column of a Reservoir -/

/-- Scrambling a column twice gives it back. -/
theorem Mem.column_column (m : Mem) (p off : Nat) (bs : List Byte) : m.column p off (m.column p off bs) = bs := by
  unfold Mem.column
  cases sget 0 m.fog p with
  | zero => rfl
  | succ k =>
    apply List.ext_getElem
    · simp
    · intro i h1 h2
      simp

theorem Mem.column_length (m : Mem) (p off : Nat) (bs : List Byte) : (m.column p off bs).length = bs.length := by
  unfold Mem.column
  cases sget 0 m.fog p <;> simp

theorem State.resvWrite_frame (s : State) (p off : Nat) (bs : List Byte) : ∃ m x, s.resvWrite p off bs = { s with mem := m, plots := x } ∧
    m.cis = s.mem.cis := by
  unfold State.resvWrite
  dsimp only
  split_ifs
  · exact ⟨_, _, rfl, rfl⟩
  · exact ⟨_, _, rfl, rfl⟩
  · exact ⟨_, _, rfl, rfl⟩

theorem State.resvBytes_of_mem {s t : State} (h : t.mem = s.mem) (p off n : Nat) : t.resvBytes p off n = s.resvBytes p off n := by
  unfold State.resvBytes; rw [h]

/-- What was written into a column is read from it. -/
theorem State.resvBytes_resvWrite (s : State) (p off : Nat) (bs : List Byte) : (s.resvWrite p off bs).resvBytes p off bs.length = bs := by
  have hr := readBytes_writeBytes s.mem.resv (resvKey p off) (s.mem.column p off bs)
  rw [Mem.column_length] at hr
  cases bs with
  | nil => unfold State.resvBytes readBytes Mem.column; split <;> rfl
  | cons b bs =>
    have hm : (s.resvWrite p off (b :: bs)).mem.resv = writeBytes s.mem.resv (resvKey p off) (s.mem.column p off (b :: bs)) ∧
        (s.resvWrite p off (b :: bs)).mem.fog = s.mem.fog := by
      unfold State.resvWrite
      dsimp only
      rw [if_neg (by simp)]
      split_ifs <;> exact ⟨rfl, rfl⟩
    unfold State.resvBytes
    rw [hm.1, hr]
    have hc : ∀ x, (s.resvWrite p off (b :: bs)).mem.column p off x = s.mem.column p off x := fun x => by
      unfold Mem.column; rw [hm.2]
    rw [hc, Mem.column_column]

/-! ### The plot of an owner -/

section
variable (s : State) (k pos i o block : Nat) (openSet : Option Nat) (p : Nat)

/-- What an owner's state written into its place leaves. -/
theorem State.putState_frame (bs : List Byte) (place : Option Nat) :
    ∃ m x, s.putState p bs place = { s with mem := m, plots := x } ∧ m.cis = s.mem.cis := by
  cases place with
  | some off => exact s.resvWrite_frame p off bs
  | none => exact ⟨_, _, rfl, rfl⟩

/-- The plot with an owner in its slot. -/
def Plot.placed (x : Plot) (i owner block : Nat) (openSet : Option Nat) : Plot :=
  { x with owners := sput 0 x.owners i (owner + 1), versions := sput 0 x.versions i block,
           openSets := sput 0 x.openSets i (match openSet with | some n => n + 1 | none => 0) }

theorem State.plot_placeOwner : (s.placeOwner p i o block openSet).plot p = (s.plot p).placed i o block openSet :=
  State.plot_setPlot _ _ _

/-- What a swap-in acknowledged leaves. -/
theorem State.swapInDone_leaves :
    ((s.swapInDone k pos i p).part k).slot.insLeft = (s.part k).slot.insLeft.filter (fun y => y ≠ (pos, i)) ∧
    (∃ f, (s.swapInDone k pos i p).plot p = { s.plot p with fence := f } ∧
      ((∀ y ∈ (s.part k).slot.insLeft, y.1 = pos → y = (pos, i)) → f = false)) ∧
    (s.swapInDone k pos i p).mem = s.mem ∧ (s.swapInDone k pos i p).ctx = s.ctx ∧ (s.swapInDone k pos i p).host = s.host := by
  unfold State.swapInDone
  dsimp only
  split_ifs with hc
  · refine ⟨?_, ⟨_, rfl, fun h => ?_⟩, rfl, rfl, rfl⟩
    · rw [State.part_setPart]
    · obtain ⟨y, hy, hpos⟩ := List.any_eq_true.1 hc
      obtain ⟨hm, hne⟩ := List.mem_filter.1 hy
      simp only [decide_eq_true_eq] at hpos hne
      exact absurd (h y hm hpos) hne
  · refine ⟨?_, ⟨false, ?_, fun _ => rfl⟩, rfl, rfl, rfl⟩
    · show ((s.setPart k _).part k).slot.insLeft = _
      rw [State.part_setPart]
    · rw [State.plot_setPlot]; rfl

/-- What a swap-in leaves once its state is read. -/
structure BroughtIn (k pos i o block : Nat) (openSet : Option Nat) (p : Nat) (s t : State) : Prop where
  left : (t.part k).slot.insLeft = (s.part k).slot.insLeft.filter fun y => y ≠ (pos, i)
  owner : sget 0 (t.plot p).owners i = o + 1
  version : sget 0 (t.plot p).versions i = block
  set : ∀ n, openSet = some n → sget 0 (t.plot p).openSets i = n + 1
  fence : (∀ y ∈ (s.part k).slot.insLeft, y.1 = pos → y = (pos, i)) → (t.plot p).fence = false
  ctx : t.ctx = s.ctx
  host : t.host = s.host

theorem BroughtIn.not_left {k pos i o block : Nat} {openSet : Option Nat} {p : Nat} {s t : State}
    (h : BroughtIn k pos i o block openSet p s t) : (pos, i) ∉ (t.part k).slot.insLeft := by
  rw [h.left]
  simp

/-- What a swap-in is seen from depends on the partition, the streams and the host of the state before. -/
theorem BroughtIn.from {k pos i o block : Nat} {openSet : Option Nat} {p : Nat} {s s' t : State} (h : BroughtIn k pos i o block openSet p s t)
    (hp : s.part k = s'.part k) (hc : s.ctx = s'.ctx) (hh : s.host = s'.host) : BroughtIn k pos i o block openSet p s' t :=
  ⟨hp ▸ h.left, h.owner, h.version, h.set, hp ▸ h.fence, h.ctx.trans hc, h.host.trans hh⟩

/-- The state with an owner's state in its place and its swap-in counted. -/
def State.placedState (l : Nat) (bs : List Byte) : State :=
  (((s.putState (s.physOf l) bs (ownerPlace (s.plot (s.physOf l)).stateMap (s.part k).slot.stateOff bs.length i)).placeOwner
    (s.physOf l) i o block openSet).bump ctrSwapIns (sluiceOf l)).bump ctrSwapBytes (sluiceOf l) bs.length

theorem State.placedState_leaves (l : Nat) (bs : List Byte) :
    (∃ x, (s.placedState k i o block openSet l bs).plot (s.physOf l) = Plot.placed x i o block openSet) ∧
    (s.placedState k i o block openSet l bs).mem =
      (s.putState (s.physOf l) bs (ownerPlace (s.plot (s.physOf l)).stateMap (s.part k).slot.stateOff bs.length i)).mem ∧
    (s.placedState k i o block openSet l bs).ctx = s.ctx ∧ (s.placedState k i o block openSet l bs).host = s.host ∧
    (s.placedState k i o block openSet l bs).part k = s.part k := by
  obtain ⟨m, x, hp, -⟩ := s.putState_frame (s.physOf l) bs
    (ownerPlace (s.plot (s.physOf l)).stateMap (s.part k).slot.stateOff bs.length i)
  unfold State.placedState
  refine ⟨⟨(s.putState (s.physOf l) bs (ownerPlace (s.plot (s.physOf l)).stateMap (s.part k).slot.stateOff bs.length i)).plot
    (s.physOf l), ?_⟩, ?_, ?_, ?_, ?_⟩
  · rw [← State.plot_placeOwner]
    unfold State.plot
    rw [State.bump_plots, State.bump_plots]
  · rw [State.bump_mem, State.bump_mem]; rfl
  · rw [State.bump_ctx, State.bump_ctx, hp]; rfl
  · rw [State.bump_host, State.bump_host, hp]; rfl
  · rw [State.part_bump, State.part_bump, hp]; rfl

theorem State.broughtIn (l : Nat) (bs : List Byte) :
    BroughtIn k pos i o block openSet (s.physOf l) s (s.bringState k pos i o block openSet l bs) ∧
    (s.bringState k pos i o block openSet l bs).mem.cis = s.mem.cis ∧
    ∀ off, ownerPlace (s.plot (s.physOf l)).stateMap (s.part k).slot.stateOff bs.length i = some off →
      (s.bringState k pos i o block openSet l bs).resvBytes (s.physOf l) off bs.length = bs := by
  obtain ⟨⟨x, hx⟩, hm, hc, hh, hp⟩ := s.placedState_leaves k i o block openSet l bs
  obtain ⟨hleft, ⟨f, hf, hfence⟩, hm', hc', hh'⟩ := (s.placedState k i o block openSet l bs).swapInDone_leaves k pos i (s.physOf l)
  rw [hp] at hleft hfence
  rw [hx] at hf
  have he : s.bringState k pos i o block openSet l bs = (s.placedState k i o block openSet l bs).swapInDone k pos i (s.physOf l) := rfl
  rw [he]
  refine ⟨⟨hleft, ?_, ?_, ?_, fun h => ?_, hc'.trans hc, hh'.trans hh⟩, ?_, fun off ho => ?_⟩
  · rw [hf]; exact sget_sput_same 0 x.owners i (o + 1)
  · rw [hf]; exact sget_sput_same 0 x.versions i block
  · rintro n rfl; rw [hf]; exact sget_sput_same 0 x.openSets i (n + 1)
  · rw [hf]; exact hfence h
  · obtain ⟨m, y, hp', hcis⟩ := s.putState_frame (s.physOf l) bs
      (ownerPlace (s.plot (s.physOf l)).stateMap (s.part k).slot.stateOff bs.length i)
    rw [hm', hm, hp']
    exact hcis
  · rw [ho] at hm
    rw [State.resvBytes_of_mem (hm'.trans hm)]
    exact s.resvBytes_resvWrite _ _ _

end

/-! ### SWAP_IN -/

/-- A swap-in that may be served: it is of a chunk that runs, and the lowest that its plot waits for. -/
structure InTurn (s : State) (k pos i : Nat) (c : Chunk) (o : Nat) : Prop where
  chunk : (s.part k).slot.chunk = some c
  running : (s.part k).slot.phase = .running
  owner : c.owners[pos + (s.partPlots k).length * i]? = some o
  waits : (pos, i) ∈ (s.part k).slot.insLeft
  lowest : ∀ y ∈ (s.part k).slot.insLeft, y.1 = pos → i ≤ y.2

theorem InTurn.not_lower {s : State} {k pos i : Nat} {c : Chunk} {o : Nat} (h : InTurn s k pos i c o) :
    (s.part k).slot.insLeft.any (fun y => y.1 = pos && decide (y.2 < i)) = false := by
  rw [List.any_eq_false]
  intro y hy
  simp only [Bool.and_eq_true, decide_eq_true_eq, not_and, not_lt]
  exact h.lowest y hy

/-- A swap-in of a slot that is read and checked. -/
theorem exec_swapIn_brings {s : State} {part : PartNo} {pos o : Nat} {i : BitVec 3} {c : Chunk} (hr : s.runs = true)
    (h : InTurn s part.toNat pos i.toNat c o) (hk : c.kind ≠ .refill)
    (htr : ∀ r ∈ (s.part part.toNat).transit, ¬(r.stream.toNat = c.stream.toNat ∧ r.owner = o))
    (hopen : s.slotOpen c.stream.toNat ((s.owner c.stream.toNat o).reads.place o).1 ((s.owner c.stream.toNat o).reads.place o).2 = true)
    (hseal : (s.owner c.stream.toNat ((s.owner c.stream.toNat o).reads.place o).1).seal ((s.owner c.stream.toNat o).reads.place o).2 =
      .sealed)
    {r : SlotRead} (hrd : s.readSlot (sluiceOf ((s.partPlots part.toNat).getD pos 0)) c.stream.toNat
      ((s.owner c.stream.toNat o).reads.place o) o (s.owner c.stream.toNat o).current.isNone = r) (hst : r.status = stOk) :
    exec (.swapIn part pos i) s = .next ((r.st.keepCarried part.toNat (s.owner c.stream.toNat o).openSet r.bytes).bringState part.toNat pos
      i.toNat o (s.owner c.stream.toNat o).block (s.owner c.stream.toNat o).openSet ((s.partPlots part.toNat).getD pos 0) r.bytes) := by
  have ht : (s.part part.toNat).transit.any (fun t => t.stream.toNat = c.stream.toNat && t.owner = o) = false := by
    rw [List.any_eq_false]
    intro y hy
    simpa using htr y hy
  show execSwapIn part pos i s = _
  rw [execSwapIn, State.issue_runs _ _ hr]
  simp only [h.chunk, Option.bind_some, h.owner, h.running, h.not_lower, ht, hk, hopen, hseal, hrd, hst]
  rw [if_neg (by simpa using h.waits)]
  rfl

/-- The state a refilled set carries, as its swap-in brings it. -/
def State.refillBytes (s : State) (k set n : Nat) : List Byte :=
  ((s.pool k).set_ set).carried.take (s.stateBytes n) ++ List.replicate (s.stateBytes n - ((s.pool k).set_ set).carried.length) 0

/-- A swap-in of a refilled set, which reads no slot. -/
theorem exec_swapIn_refills {s : State} {part : PartNo} {pos o : Nat} {i : BitVec 3} {c : Chunk} (hr : s.runs = true)
    (h : InTurn s part.toNat pos i.toNat c o) (hk : c.kind = .refill) {set : Nat}
    (hs : c.sets.getD (pos + (s.partPlots part.toNat).length * i.toNat) 0 = set)
    (hst : ((s.pool part.toNat).set_ set).st = .refilling) :
    exec (.swapIn part pos i) s = .next (s.bringState part.toNat pos i.toNat o (s.owner c.stream.toNat o).block (some set)
      ((s.partPlots part.toNat).getD pos 0) (s.refillBytes part.toNat set c.stream.toNat)) := by
  show execSwapIn part pos i s = _
  rw [execSwapIn, State.issue_runs _ _ hr]
  simp only [h.chunk, Option.bind_some, h.owner, h.running, h.not_lower, hk, hs, hst]
  rw [if_neg (by simpa using h.waits)]
  unfold State.refillBytes
  rfl

theorem sluiceOf_lt {l : Nat} (h : l < 2048) : sluiceOf l < 64 := by
  have h1 : l / 32 / 8 < 8 := by omega
  have h2 : l % 32 / 8 < 4 := by omega
  unfold sluiceOf reachOf
  omega

/-- A plot of a footprint is within the map, and so is the plot that stands for none. -/
theorem State.partPlots_getD_lt (s : State) (p pos : Nat) : (s.partPlots p).getD pos 0 < 2048 := by
  rw [List.getD_eq_getElem?_getD]
  cases h : (s.partPlots p)[pos]? with
  | none => decide
  | some l => exact s.partPlots_lt (List.mem_of_getElem? h)

/-- A set that keeps its carried state changes a pool alone. -/
theorem State.keepCarried_only (s : State) (p : Nat) (openSet : Option Nat) (bs : List Byte) :
    ∃ x, s.keepCarried p openSet bs = { s with pools := x } := by
  unfold State.keepCarried
  split
  · dsimp only
    split_ifs
    · exact ⟨_, rfl⟩
    · exact ⟨s.pools, rfl⟩
  · exact ⟨s.pools, rfl⟩

/-- A swap-in from a slot that reads and checks brings what was read. -/
theorem swapIn_brings {s : State} {part : PartNo} {pos o : Nat} {i : BitVec 3} {c : Chunk} (hr : s.runs = true)
    (h : InTurn s part.toNat pos i.toNat c o) (hk : c.kind ≠ .refill)
    (htr : ∀ r ∈ (s.part part.toNat).transit, ¬(r.stream.toNat = c.stream.toNat ∧ r.owner = o))
    (hopen : s.slotOpen c.stream.toNat ((s.owner c.stream.toNat o).reads.place o).1 ((s.owner c.stream.toNat o).reads.place o).2 = true)
    (hseal : (s.owner c.stream.toNat ((s.owner c.stream.toNat o).reads.place o).1).seal ((s.owner c.stream.toNat o).reads.place o).2 =
      .sealed) {l : Nat} (hl : (s.partPlots part.toNat).getD pos 0 = l)
    {r : SlotRead} (hrd : s.readSlot (sluiceOf l) c.stream.toNat ((s.owner c.stream.toNat o).reads.place o) o
      (s.owner c.stream.toNat o).current.isNone = r) (hst : r.status = stOk) :
    ∃ t, exec (.swapIn part pos i) s = .next t ∧
      BroughtIn part.toNat pos i.toNat o (s.owner c.stream.toNat o).block (s.owner c.stream.toNat o).openSet (s.physOf l) s t ∧
      t.mem.cis = r.st.mem.cis ∧ ∀ off, ownerPlace (s.plot (s.physOf l)).stateMap (s.part part.toNat).slot.stateOff r.bytes.length i.toNat =
        some off → t.resvBytes (s.physOf l) off r.bytes.length = r.bytes := by
  have hl2 : l < 2048 := hl ▸ s.partPlots_getD_lt _ _
  have hsv : Served (sluiceOf l) s r.st := hrd ▸ served_readSlot s _ _ _ _
  obtain ⟨hctx, hrot, hhost, hplots, -⟩ := hsv.fields
  have hex := exec_swapIn_brings hr h hk htr hopen hseal (by rw [hl]; exact hrd) hst
  obtain ⟨x, hx⟩ := r.st.keepCarried_only part.toNat (s.owner c.stream.toNat o).openSet r.bytes
  rw [hx, hl] at hex
  obtain ⟨hb, hcis, hoff⟩ := ({ r.st with pools := x } : State).broughtIn part.toNat pos i.toNat o (s.owner c.stream.toNat o).block
    (s.owner c.stream.toNat o).openSet l r.bytes
  have hphys : ({ r.st with pools := x } : State).physOf l = s.physOf l := hsv.physOf (sluiceOf_lt hl2) hl2
  have hpart : ({ r.st with pools := x } : State).part part.toNat = s.part part.toNat :=
    congrArg (fun y : RotS => sget ({} : Part) y.parts part.toNat) hrot
  have hplot : ({ r.st with pools := x } : State).plot (s.physOf l) = s.plot (s.physOf l) :=
    congrArg (fun y : Sparse Plot => sget ({} : Plot) y (s.physOf l)) hplots
  rw [hphys] at hb hoff
  rw [hpart, hplot] at hoff
  exact ⟨_, hex, hb.from hpart hctx hhost, hcis, hoff⟩

/-- A swap-in of a REFILLING set. -/
theorem swapIn_refills {s : State} {part : PartNo} {pos o : Nat} {i : BitVec 3} {c : Chunk} (hr : s.runs = true)
    (h : InTurn s part.toNat pos i.toNat c o) (hk : c.kind = .refill) {set : Nat}
    (hs : c.sets.getD (pos + (s.partPlots part.toNat).length * i.toNat) 0 = set)
    (hst : ((s.pool part.toNat).set_ set).st = .refilling) {l : Nat} (hl : (s.partPlots part.toNat).getD pos 0 = l) :
    ∃ t, exec (.swapIn part pos i) s = .next t ∧
      BroughtIn part.toNat pos i.toNat o (s.owner c.stream.toNat o).block (some set) (s.physOf l) s t ∧ t.mem.cis = s.mem.cis := by
  have hex := exec_swapIn_refills hr h hk hs hst
  rw [hl] at hex
  obtain ⟨hb, hcis, -⟩ := s.broughtIn part.toNat pos i.toNat o (s.owner c.stream.toNat o).block (some set) l
    (s.refillBytes part.toNat set c.stream.toNat)
  exact ⟨_, hex, hb, hcis⟩

end Sys2Proof.Machine
end

section
/-! SUPPORT. SLOT_COPY: the slots it opens, the copies it seals, and the swap-out that is due behind it (R60, R285). -/

namespace Sys2Proof.Machine

section
variable (ch k : Nat) (place : Nat × Bool)

/-! ### Copies opened -/

/-- Copies that no read fails leave the slots A of their futures OPEN, beside those that were. -/
theorem State.open_openCopies (fs : List Nat) {s : State} (h : (s.openCopies ch k place fs).status = stOk) {g : Nat}
    (hg : g ∈ fs ∨ (s.owner k g).sealA = .open_) : ((s.openCopies ch k place fs).st.owner k g).sealA = .open_ := by
  induction fs generalizing s with
  | nil => exact hg.resolve_left List.not_mem_nil
  | cons f fs ih =>
    unfold State.openCopies at h ⊢
    dsimp only at h ⊢
    split_ifs at h ⊢ with hs
    · exact absurd h hs
    · apply ih h
      by_cases hf : g = f
      · subst hf; exact .inr (by rw [State.owner_setOwner]; rfl)
      · rw [State.owner_setOwner_other _ _ _ hf, (served_readSlot s k place f true).owner]
        exact hg.imp_left fun hm => (List.mem_cons.1 hm).resolve_left hf

/-! ### Copies sealed -/

/-- The CRC of the slot that is copied stands under its copies. -/
theorem State.crc_sealCopy (s : State) (f : Nat) (bytes : List Byte) :
    ((s.sealCopy ch k f bytes ((s.owner k place.1).crc place.2)).owner k place.1).crc place.2 = (s.owner k place.1).crc place.2 := by
  by_cases h : place.1 = f
  · rw [h, State.owner_sealCopy]
    cases place.2 <;> rfl
  · rw [State.owner_sealCopy_other _ _ _ _ _ h]

/-- Copies are sealed under the CRC of the slot that is copied. -/
theorem State.crcA_sealCopies (fs : List Nat) {s : State} {c : Word} (hc : (s.owner k place.1).crc place.2 = c) {g : Nat}
    (hg : g ∈ fs ∨ (s.owner k g).crcA = c) : ((s.sealCopies ch k place fs).owner k g).crcA = c := by
  induction fs generalizing s with
  | nil => exact hg.resolve_left List.not_mem_nil
  | cons f fs ih =>
    rw [State.sealCopies]
    apply ih (by rw [State.crc_sealCopy, hc])
    by_cases hf : g = f
    · subst hf; exact .inr (by rw [State.owner_sealCopy, hc]; rfl)
    · rw [State.owner_sealCopy_other _ _ _ _ _ hf]
      exact hg.imp_left fun hm => (List.mem_cons.1 hm).resolve_left hf

/-! ### One step of copying -/

/-- Where a slot A is not yet OPEN, the step opens. -/
theorem State.copySlot_opens {s : State} {fs : List Nat} (h : ∃ x ∈ fs, (s.owner k x).sealA ≠ .open_)
    (hst : (s.copySlot ch k place fs).status = stOk) :
    (s.copySlot ch k place fs).done = false ∧ ∀ x ∈ fs, ((s.copySlot ch k place fs).st.owner k x).sealA = .open_ := by
  have hne : ¬(fs.filter fun f => (s.owner k f).sealA ≠ .open_).isEmpty = true := by
    obtain ⟨x, hx, ho⟩ := h
    rw [List.isEmpty_iff]
    exact List.ne_nil_of_mem (List.mem_filter.2 ⟨hx, by simpa using ho⟩)
  unfold State.copySlot at hst ⊢
  dsimp only at hst ⊢
  rw [if_neg hne] at hst ⊢
  refine ⟨State.openCopies_not_done ch k place _ s, fun x hx => State.open_openCopies ch k place _ hst ?_⟩
  by_cases ho : (s.owner k x).sealA = .open_
  · exact .inr ho
  · exact .inl (List.mem_filter.2 ⟨hx, by simpa using ho⟩)

/-- Where all are OPEN, the step writes and seals. -/
theorem State.copySlot_seals {s : State} {fs : List Nat} (h : ∀ x ∈ fs, (s.owner k x).sealA = .open_) :
    (s.copySlot ch k place fs).done = true ∧ ∀ x ∈ fs, ((s.copySlot ch k place fs).st.owner k x).held ∧
      ((s.copySlot ch k place fs).st.owner k x).crcA = (s.owner k place.1).crc place.2 := by
  have he : (fs.filter fun f => (s.owner k f).sealA ≠ .open_).isEmpty = true := by
    rw [List.isEmpty_iff, List.filter_eq_nil_iff]
    intro x hx
    simpa using h x hx
  unfold State.copySlot
  dsimp only
  rw [if_pos he]
  exact ⟨rfl, fun x hx => ⟨State.held_sealCopies ch k place fs (.inl hx), State.crcA_sealCopies ch k place fs rfl (.inl hx)⟩⟩

end

/-! ### The swap-out behind a copy -/

theorem State.outDue_stream {s : State} {n : Nat} {place : Nat × Bool} {p : Nat} {r : Transit} (h : s.outDue n place = some (p, r)) :
    r.stream.toNat = n := by
  obtain ⟨x, -, hx⟩ := List.exists_of_findSome?_eq_some h
  obtain ⟨t, ht, he⟩ := Option.map_eq_some_iff.1 hx
  obtain rfl := (Prod.mk.inj he).2
  have hfound := List.find?_some ht
  simp only [Bool.and_eq_true, decide_eq_true_eq] at hfound
  obtain ⟨⟨-, hstream⟩, -⟩ := hfound
  exact hstream

theorem copied_openOut (s : State) (r : Transit) : Copied r.stream.toNat s (s.openOut r) := copied_setOwner _ _ _ _

/-- The seal opened behind the copies is none of theirs: an owner whose slot A is committed is swapped out to slot B. -/
theorem State.held_openOut {s : State} {r : Transit} {x : Nat} (h : (s.owner r.stream.toNat x).held) :
    ((s.openOut r).owner r.stream.toNat x).held ∧
    ((s.openOut r).owner r.stream.toNat x).crcA = (s.owner r.stream.toNat x).crcA := by
  by_cases hx : x = r.owner
  · subst hx
    have ht : (s.owner r.stream.toNat r.owner).target = true := by simp [OwnerRec.target, h.1]
    unfold State.openOut State.outPlace
    dsimp only
    rw [State.owner_setOwner, ht]
    exact ⟨h, rfl⟩
  · have ho : (s.openOut r).owner r.stream.toNat x = s.owner r.stream.toNat x := State.owner_setOwner_other _ _ _ hx
    rw [ho]
    exact ⟨h, rfl⟩

/-! ### SLOT_COPY -/

/-- The futures that a slot is copied for, and the channel: before a swap-out that is due, or else before a PRUNE that is due. -/
def State.CopyDue (s : State) (k : Nat) (place : Nat × Bool) (ch : Nat) (fs : List Nat) : Prop :=
  (∃ p r, s.outDue k place = some (p, r) ∧ ch = sluiceOf r.lplot ∧ fs = (s.stream k).sharers place.1 place.2) ∨
  (∃ o, s.outDue k place = none ∧ s.pruneDue k place = some o ∧ ch = s.partSluice (s.stream k).part.toNat ∧
    fs = ((s.stream k).sharers place.1 place.2).filter fun x => !(s.prunes o).contains x)

theorem exec_slotCopy_out {s : State} {k : StreamNo} {tr b : Bool} {f : BitVec 12} {p : Nat} {r : Transit} (hr : s.runs = true)
    {place : Nat × Bool} (hp : place = (if tr then trunkOwner else f.toNat, b)) (hd : s.outDue k.toNat place = some (p, r))
    {fs : List Nat} (hfs : fs = (s.stream k.toNat).sharers place.1 place.2) (hne : fs ≠ [])
    (hready : s.copyReady k.toNat place fs = true) (hst : (s.copySlot (sluiceOf r.lplot) k.toNat place fs).status = stOk) :
    exec (.slotCopy k tr f b) s = .next (if (s.copySlot (sluiceOf r.lplot) k.toNat place fs).done then
      (s.copySlot (sluiceOf r.lplot) k.toNat place fs).st.openOut r else (s.copySlot (sluiceOf r.lplot) k.toNat place fs).st) := by
  show execSlotCopy k tr f b s = _
  rw [execSlotCopy, State.issue_runs _ _ hr]
  have he : fs.isEmpty = false := by simpa using hne
  subst hp hfs
  simp only [hd, he, hready, hst]
  rfl

theorem exec_slotCopy_prune {s : State} {k : StreamNo} {tr b : Bool} {f : BitVec 12} {o : Op} (hr : s.runs = true)
    {place : Nat × Bool} (hp : place = (if tr then trunkOwner else f.toNat, b)) (hd : s.outDue k.toNat place = none)
    (hpr : s.pruneDue k.toNat place = some o) {fs : List Nat}
    (hfs : fs = ((s.stream k.toNat).sharers place.1 place.2).filter fun x => !(s.prunes o).contains x) (hne : fs ≠ [])
    (hready : s.copyReady k.toNat place fs = true)
    (hst : (s.copySlot (s.partSluice (s.stream k.toNat).part.toNat) k.toNat place fs).status = stOk) :
    exec (.slotCopy k tr f b) s =
      .next (s.copySlot (s.partSluice (s.stream k.toNat).part.toNat) k.toNat place fs).st := by
  show execSlotCopy k tr f b s = _
  rw [execSlotCopy, State.issue_runs _ _ hr]
  have he : fs.isEmpty = false := by simpa using hne
  subst hp hfs
  simp only [hd, hpr, he, hready, hst]
  rfl

/-- What a SLOT_COPY that is due leaves: the step of copying, behind which the seal of the swap-out's slot may be opened. -/
theorem slotCopy_steps {s : State} {k : StreamNo} {tr b : Bool} {f : BitVec 12} {ch : Nat} {fs : List Nat} (hr : s.runs = true)
    {place : Nat × Bool} (hp : place = (if tr then trunkOwner else f.toNat, b))
    (hd : s.CopyDue k.toNat place ch fs)
    (hne : fs ≠ []) (hready : s.copyReady k.toNat place fs = true) (hst : (s.copySlot ch k.toNat place fs).status = stOk) :
    ∃ t, exec (.slotCopy k tr f b) s = .next t ∧ (t = (s.copySlot ch k.toNat place fs).st ∨
      (s.copySlot ch k.toNat place fs).done = true ∧ ∃ r : Transit, r.stream.toNat = k.toNat ∧
        t = (s.copySlot ch k.toNat place fs).st.openOut r) := by
  rcases hd with ⟨p, r, hd, rfl, hfs⟩ | ⟨o, hd, hpr, rfl, hfs⟩
  · refine ⟨_, exec_slotCopy_out hr hp hd hfs hne hready hst, ?_⟩
    split_ifs with hdone
    · exact .inr ⟨hdone, r, State.outDue_stream hd, rfl⟩
    · exact .inl rfl
  · exact ⟨_, exec_slotCopy_prune hr hp hd hpr hfs hne hready hst, .inl rfl⟩

/-- A SLOT_COPY that is due opens the slots A of the futures, or, where all are OPEN, seals their copies. -/
theorem slotCopy_copies {s : State} {k : StreamNo} {tr b : Bool} {f : BitVec 12} {ch : Nat} {fs : List Nat} (hr : s.runs = true)
    {place : Nat × Bool} (hp : place = (if tr then trunkOwner else f.toNat, b))
    (hd : s.CopyDue k.toNat place ch fs)
    (hne : fs ≠ []) (hready : s.copyReady k.toNat place fs = true) (hst : (s.copySlot ch k.toNat place fs).status = stOk) :
    ∃ t, exec (.slotCopy k tr f b) s = .next t ∧
      ((∃ x ∈ fs, (s.owner k.toNat x).sealA ≠ .open_) → ∀ x ∈ fs, (t.owner k.toNat x).sealA = .open_) ∧
      ((∀ x ∈ fs, (s.owner k.toNat x).sealA = .open_) → ∀ x ∈ fs, (t.owner k.toNat x).committed = .ownA ∧
        (t.owner k.toNat x).sealA = .sealed ∧ (t.owner k.toNat x).crcA = (s.owner k.toNat place.1).crc place.2) ∧
      (∀ j, j ≠ k.toNat → t.stream j = s.stream j) ∧ t.host = s.host ∧ t.plots = s.plots := by
  obtain ⟨t, hex, ht⟩ := slotCopy_steps hr hp hd hne hready hst
  refine ⟨t, hex, fun hs => ?opens, fun hs x hx => ?seals, ?frame⟩
  case opens =>
    obtain ⟨hnd, hop⟩ := State.copySlot_opens ch k.toNat place hs hst
    rcases ht with rfl | ⟨hdone, -⟩
    · exact hop
    · rw [hnd] at hdone; cases hdone
  case seals =>
    obtain ⟨-, hse⟩ := State.copySlot_seals ch k.toNat place hs
    obtain ⟨hheld, hcrc⟩ := hse x hx
    rcases ht with rfl | ⟨-, r, hrk, rfl⟩
    · exact ⟨hheld.1, hheld.2, hcrc⟩
    · rw [← hrk] at hheld hcrc ⊢
      obtain ⟨h1, h2⟩ := State.held_openOut hheld
      exact ⟨h1.1, h1.2, h2.trans hcrc⟩
  case frame =>
    have hcopy := copied_copySlot ch k.toNat place fs s
    have hall : Copied k.toNat s t := by
      rcases ht with rfl | ⟨-, r, hrk, rfl⟩
      · exact hcopy
      · exact hcopy.trans (hrk ▸ copied_openOut _ r)
    obtain ⟨hh, -, -, hp, -⟩ := hall.fields
    exact ⟨hall.others, hh, hp⟩

end Sys2Proof.Machine
end

section
/-! SUPPORT. Pages taken from a pool, the sets that a refill rewrites, and the final swap-out of a stream (R312, R316, R497). -/

namespace Sys2Proof.Machine

/-! ### Pages (R312) -/

/-- What taking pages from pool p leaves: but for events and the pool's status, the registers; but for the pool's, the counts. -/
structure PagesTaken (p : Nat) (s t : State) : Prop where
  frame : t = { s with regs := t.regs, ctrs := t.ctrs, ovf := t.ovf, out := t.out }
  rd : ∀ (f : Fld) n, regOff f.reg n ≠ regOff .pgStatus p → regOff f.reg n ≠ regOff .evtStatus 0 → t.rd f n = s.rd f n
  count : ∀ c n, c.off n ≠ ctrAllocPages.off p → c.off n ≠ ctrEmergPages.off p → t.count c n = s.count c n

theorem PagesTaken.trans {p : Nat} {s t u : State} (h : PagesTaken p s t) (g : PagesTaken p t u) : PagesTaken p s u := by
  refine ⟨?_, fun f n h1 h2 => (g.rd f n h1 h2).trans (h.rd f n h1 h2), fun c n h1 h2 => (g.count c n h1 h2).trans (h.count c n h1 h2)⟩
  have hf := h.frame
  have gf := g.frame
  rw [hf] at gf
  exact gf

theorem pagesTaken_wr (s : State) {f : Fld} {p : Nat} (v : Nat) (h : f.reg = .pgStatus) : PagesTaken p s (s.wr f p v) :=
  ⟨rfl, fun g n hk _ => congrArg (getBits · g.lo g.w) (reg_setReg_other s _ (by rw [h]; exact hk)), fun _ _ _ _ => rfl⟩

theorem pagesTaken_raise (s : State) (p e : Nat) : PagesTaken p s (s.raise e) := by
  have hc : (s.raise e).ctrs = s.ctrs := by rw [s.raise_only e]
  have ho : (s.raise e).ovf = s.ovf := by rw [s.raise_only e]
  refine ⟨?_, fun f n _ hk => s.rd_raise e hk, fun c n _ _ => by unfold State.count; rw [hc]⟩
  rw [hc, ho]
  exact s.raise_only e

theorem pagesTaken_bump (s : State) {c : Ctr} {p : Nat} (k : Nat) (hc : c = ctrAllocPages ∨ c = ctrEmergPages) :
    PagesTaken p s (s.bump c p k) := by
  refine ⟨s.bump_only c p k, fun f n _ hk => s.rd_bump c p k f n hk, fun d n h1 h2 => s.count_bump_other k ?_⟩
  rcases hc with rfl | rfl
  · exact h1
  · exact h2

/-- Pages that a pool gives. -/
theorem State.takePages_taken {s t : State} {p n : Nat} (h : s.takePages p n = some t) : PagesTaken p s t := by
  have h1 : ∀ a b, PagesTaken p s (((s.wr PG_STATUS_FREE p a).wr PG_STATUS_EMERG_FREE p b).bump ctrAllocPages p n) := fun a b =>
    ((pagesTaken_wr s _ rfl).trans (pagesTaken_wr _ _ rfl)).trans (pagesTaken_bump _ _ (.inl rfl))
  unfold State.takePages at h
  dsimp only at h
  split_ifs at h
  · obtain rfl := Option.some.inj h
    exact h1 _ _
  · obtain rfl := Option.some.inj h
    exact (h1 _ _).trans (pagesTaken_bump _ _ (.inr rfl))
  · obtain rfl := Option.some.inj h
    exact (((h1 _ _).trans (pagesTaken_bump _ _ (.inr rfl))).trans (pagesTaken_wr _ _ rfl)).trans (pagesTaken_raise _ _ _)
  · obtain rfl := Option.some.inj h
    exact ((h1 _ _).trans (pagesTaken_bump _ _ (.inr rfl))).trans (pagesTaken_wr _ _ rfl)

/-- A pool with enough free pages gives them. -/
theorem State.takePages_gives {s : State} {p n : Nat} (h : n ≤ s.rd PG_STATUS_FREE p + s.rd PG_STATUS_EMERG_FREE p) :
    ∃ t, s.takePages p n = some t := by
  unfold State.takePages
  dsimp only
  rw [if_neg (Nat.not_lt.2 h)]
  split_ifs <;> exact ⟨_, rfl⟩

/-! ### REFILL_RUN (R316) -/

/-- Sets that a refill rewrites are REFILLING, beside those that were. -/
theorem Pool.beginRefill_refilling (layers : Nat) (ns : List Nat) {pool : Pool} (pages : List Nat) {n : Nat}
    (h : n ∈ ns ∨ (pool.set_ n).st = .refilling) : ((pool.beginRefill layers pages ns).set_ n).st = .refilling := by
  induction ns generalizing pool pages with
  | nil => exact h.resolve_left List.not_mem_nil
  | cons m ms ih =>
    unfold Pool.beginRefill
    dsimp only
    apply ih
    unfold Pool.setSet Pool.set_
    dsimp only
    by_cases hm : n = m
    · subst hm; exact .inr (by rw [sget_sput_same])
    · rw [sget_sput_other _ _ _ _ hm]
      exact h.imp_left fun e => (List.mem_cons.1 e).resolve_left hm

/-- The DROPPED sets that a REFILL chunk names. -/
def State.droppedSets (s : State) (p : Nat) (c : Chunk) : List Nat := c.sets.filter fun n => ((s.pool p).set_ n).st = .dropped

/-- Layer pages of a set of a chunk's model. -/
def State.chunkLayers (s : State) (c : Chunk) : Nat :=
  geomLayers (((s.model? (s.stream c.stream.toNat).model.toNat).map (·.geom)).getD 0)

theorem exec_refillRun_begins {s : State} {part : PartNo} {c : Chunk} (hr : s.runs = true)
    (hc : (s.part part.toNat).slot.chunk = some c) (hk : c.kind = .refill) (hph : (s.part part.toNat).slot.phase = .running)
    (hen : s.flag PG_POOL_CTL_ENABLE part.toNat = true) (hne : s.droppedSets part.toNat c ≠ [])
    {t : State} (ht : s.takePages part.toNat ((s.droppedSets part.toNat c).length * s.chunkLayers c) = some t) : ∃ pages,
    exec (.refillRun part) s = .next
      (t.setPool part.toNat ((t.pool part.toNat).beginRefill (s.chunkLayers c) pages (s.droppedSets part.toNat c))) := by
  refine ⟨lowestFree (t.pool part.toNat).usedPages ((s.droppedSets part.toNat c).length * s.chunkLayers c)
    (t.rd PG_POOL_CTL_PAGES part.toNat + t.rd PG_POOL_CTL_EMERG part.toNat), ?_⟩
  show execRefillRun part s = _
  rw [execRefillRun, State.issue_runs _ _ hr]
  have he : ¬(c.kind ≠ .refill ∨ (s.part part.toNat).slot.phase ≠ .running ∨ (s.droppedSets part.toNat c).isEmpty = true) := by
    simp [hk, hph, hne]
  unfold State.droppedSets State.chunkLayers at ht ⊢
  unfold State.droppedSets at he
  simp only [hc, hen, ht]
  rw [if_neg he]
  rfl

/-! ### FINAL_SWAP_OUT (R497) -/

/-- Chunks of other streams stand. -/
theorem State.closeChunks_other {s : State} {n : Nat} {cs : List Chunk} (h : ∀ c ∈ cs, c.stream.toNat ≠ n) : s.closeChunks n cs = s := by
  induction cs with
  | nil => rfl
  | cons c cs ih =>
    rw [State.closeChunks, if_neg (h c List.mem_cons_self)]
    exact ih fun x hx => h x (List.mem_cons_of_mem _ hx)

theorem exec_finalSwapOut_frees {s : State} {k : StreamNo} {o : Op} (hr : s.runs = true) (hst : (s.stream k.toNat).st = .closing)
    (htr : ∀ x ∈ s.rot.parts, ∀ r ∈ x.2.transit, r.stream ≠ k)
    (hed : ∀ e ∈ s.edits, e.kind ≠ .drop → e.kind ≠ .refill → e.stream ≠ k.toNat)
    (hch : ∀ c ∈ (s.part (s.stream k.toNat).part.toNat).chunks, c.stream ≠ k) (ho : s.closeOp k.toNat = some o) :
    exec (.finalSwapOut k) s = .next ((s.freeStream k.toNat).finish o stOk) := by
  have hb1 : (s.rot.parts.any fun x => x.2.transit.any fun t => t.stream = k) = false := by
    rw [List.any_eq_false]
    intro x hx
    rw [Bool.not_eq_true, List.any_eq_false]
    intro r hr'
    simpa using htr x hx r hr'
  have hb2 : (s.edits.any fun e => e.kind ≠ .drop && e.kind ≠ .refill && e.stream = k.toNat) = false := by
    rw [List.any_eq_false]
    intro e he
    simpa using hed e he
  have hcl := State.closeChunks_other (s := s) (n := k.toNat) fun c hc e => hch c hc (BitVec.eq_of_toNat_eq e)
  have ho' : (s.freeStream k.toNat).closeOp k.toNat = some o := ho
  show execFinalSwapOut k s = _
  rw [execFinalSwapOut, State.issue_runs _ _ hr]
  simp only [hst, hb1, hb2, hcl, ho']
  rfl

/-- The STREAM_CLOSE that runs is an operation of its ring and sequence number. -/
theorem State.op_closeOp {s : State} {n : Nat} {o : Op} (h : s.closeOp n = some o) : ∃ o', s.op? o.ring o.seq = some o' := by
  unfold State.op?
  rw [← Option.isSome_iff_exists, List.find?_isSome]
  exact ⟨o, List.mem_of_find?_eq_some h, by simp⟩

end Sys2Proof.Machine
end

section
/-! The sluice engine's steps (O44). -/

namespace Sys2Proof.Machine

theorem State.stream_freeStream (s : State) (k : Nat) : (s.freeStream k).stream k =
    ({ everOpen := (s.stream k).everOpen, home := (s.stream k).home, tenant := (s.stream k).tenant } : StreamRec) :=
  State.stream_setStream _ _ _

/-- Settles O44: SWAP_OUT by the one write of its slot (`swapOut_leaves`), SWAP_IN by what a state brought to its plot leaves (`broughtIn`),
SLOT_COPY by the two steps of a copy (`copySlot_opens`, `copySlot_seals`), FINAL_SWAP_OUT as nothing of the stream is left to close
(`closeChunks_other`), REFILL_RUN by the pages taken (`takePages_gives`). -/
theorem stateSwaps : Obligations.StateSwaps := by
  unfold Obligations.StateSwaps
  refine ⟨?swapOut, ?swapIn, ?slotCopy, ?finalOut, ?refillRun⟩
  case swapOut =>
    rintro s part _ r rfl hr hl ht hread hturn n d hsh hopen hseep h8
    obtain ⟨t, b, c, hex, hm, hx, hh, htr, hph⟩ := swapOut_leaves hr hl ht hread hturn hsh hopen hseep h8
    have hst : ∀ k, t.stream k = (s.countedOut b r c).stream k := fun k => by unfold State.stream; rw [hx]
    have ho : t.owner r.stream.toNat r.owner = (s.owner r.stream.toNat r.owner).sealedOut (s.outPlace r).2 r c := by
      unfold State.owner; rw [hst]; exact s.owner_countedOut b r c
    refine ⟨t, hex, htr, hph, ?_, ?_, ?_, ?_, fun a ha => ?_, fun k hk => ?_, hh⟩
    · rw [ho]; cases (s.outPlace r).2 <;> rfl
    · rw [ho]; cases (s.outPlace r).2 <;> rfl
    · rw [ho]; cases (s.outPlace r).2 <;> rfl
    · rw [State.cisBytes_of_mem hm]; exact State.cisBytes_cisSend _ _ _ _
    · rw [State.cisBytes_of_mem hm]; exact State.cisByte_cisSend_other _ _ _ _ ha
    · rw [hst]; exact (copied_countedOut s b r c).others k hk
  case swapIn =>
    rintro s part _ pos i c o rfl hr hc hph ho hin hlow n l w d taken
    have hturn : InTurn s part.toNat pos i.toNat c o := ⟨hc, hph, ho, hin, hlow⟩
    refine ⟨fun hk htr hopen hseal => ?read, ?refilled⟩
    case read =>
      intro r hst
      obtain ⟨t, hex, hb, hcis, hoff⟩ := swapIn_brings hr hturn hk htr hopen hseal rfl rfl hst
      exact ⟨t, hex, ⟨hb.not_left, hb.owner, hb.version, hb.fence, hb.ctx, hb.host⟩, hcis, hoff⟩
    case refilled =>
      intro hk set hset
      obtain ⟨t, hex, hb, hcis⟩ := swapIn_refills hr hturn hk rfl hset rfl
      exact ⟨t, hex, ⟨hb.not_left, hb.owner, hb.version, hb.fence, hb.ctx, hb.host⟩, hb.set set rfl, hcis⟩
  case slotCopy =>
    intro s k tr b f ch fs hr place sh hd hne hready hst
    exact slotCopy_copies hr rfl hd hne hready hst
  case finalOut =>
    intro s k o hr hst htr hed hch ho
    obtain ⟨o', ho'⟩ := State.op_closeOp ho
    refine ⟨_, exec_finalSwapOut_frees hr hst htr hed hch ho, State.op_setOp _ _ (o := o') ho' rfl rfl, ?_, ?_, fun j hj => ?_, rfl⟩
    · show ((s.freeStream k.toNat).stream k.toNat).st = _; rw [s.stream_freeStream]
    · show ((s.freeStream k.toNat).stream k.toNat).home = _; rw [s.stream_freeStream]
    · exact State.stream_setStream_other _ _ hj
  case refillRun =>
    rintro s part _ c rfl hr hc hk hph hen sets hne hle
    obtain ⟨t, ht⟩ := State.takePages_gives hle
    have hpt := State.takePages_taken ht
    obtain ⟨pages, hex⟩ := exec_refillRun_begins hr hc hk hph hen hne ht
    refine ⟨_, hex, fun n hn => ?_, ?_⟩
    · have hp : ∀ x : Pool, (t.setPool part.toNat x).pool part.toNat = x := fun x => sget_sput_same _ _ _ _
      rw [hp]
      exact Pool.beginRefill_refilling _ _ _ (.inl hn)
    · rw [hpt.frame]; exact ⟨rfl, rfl, rfl, rfl⟩

end Sys2Proof.Machine
end

section
/-! SUPPORT. The chunk a slot takes, the entry that serves none, and the descriptor that is refused (R74, R480, R485). -/

namespace Sys2Proof.Machine

/-! ### The choice of a chunk (R485) -/

/-- Readiness and batch order chunks totally. -/
theorem Chunk.not_before_trans {a b c : Chunk} (h : c.before b = false) (g : b.before a = false) : c.before a = false := by
  simp only [Chunk.before, Bool.or_eq_false_iff, Bool.and_eq_false_iff, decide_eq_false_iff_not] at h g ⊢
  omega

theorem Chunk.before_asymm {a b : Chunk} (h : a.before b = true) : b.before a = false := by
  simp only [Chunk.before, Bool.or_eq_true, Bool.and_eq_true, decide_eq_true_eq] at h
  simp only [Chunk.before, Bool.or_eq_false_iff, Bool.and_eq_false_iff, decide_eq_false_iff_not]
  omega

/-- One more chunk to choose from. -/
def Chunk.earlier (b : Option Chunk) (c : Chunk) : Option Chunk :=
  match b with
  | none => some c
  | some d => if c.before d then some c else some d

theorem State.pickChunk_eq (s : State) (p e : Nat) :
    s.pickChunk p e = ((s.part p).chunks.filter (s.chunkServed e)).foldl Chunk.earlier none := rfl

/-- The chunk chosen is preceded neither by the one that stood nor by any that came. -/
theorem Chunk.foldl_earlier {l : List Chunk} {b : Option Chunk} {c : Chunk} (h : l.foldl Chunk.earlier b = some c) :
    (∀ x ∈ b, x.before c = false) ∧ ∀ x ∈ l, x.before c = false := by
  induction l generalizing b with
  | nil =>
    simp only [List.foldl_nil] at h
    subst h
    refine ⟨fun x hx => ?_, fun x hx => absurd hx List.not_mem_nil⟩
    obtain rfl := Option.mem_some.1 hx
    simp [Chunk.before]
  | cons d l ih =>
    obtain ⟨hb, hl⟩ := ih h
    have key : d.before c = false ∧ ∀ x ∈ b, x.before c = false := by
      cases b with
      | none => exact ⟨hb d rfl, fun x hx => by cases hx⟩
      | some y =>
        by_cases hd : d.before y = true
        · have h1 : d.before c = false := hb d (by simp [Chunk.earlier, hd])
          refine ⟨h1, fun x hx => ?_⟩
          obtain rfl := Option.mem_some.1 hx
          exact Chunk.not_before_trans (Chunk.before_asymm hd) h1
        · have h1 : y.before c = false := hb y (by simp [Chunk.earlier, hd])
          refine ⟨Chunk.not_before_trans (by simpa using hd) h1, fun x hx => ?_⟩
          obtain rfl := Option.mem_some.1 hx
          exact h1
    refine ⟨key.2, fun x hx => ?_⟩
    rcases List.mem_cons.1 hx with rfl | hx
    · exact key.1
    · exact hl x hx

/-- No chunk that the entry serves comes before the one it takes. -/
theorem State.pickChunk_first {s : State} {p e : Nat} {c : Chunk} (h : s.pickChunk p e = some c) {d : Chunk}
    (hd : d ∈ (s.part p).chunks) (hs : s.chunkServed e d = true) : d.before c = false := by
  rw [s.pickChunk_eq] at h
  exact (Chunk.foldl_earlier h).2 d (List.mem_filter.2 ⟨hd, hs⟩)

/-! ### SLOT_LOAD by what the entry has -/

/-- A partition that may load at an entry whose trigger has fired. -/
structure MayLoad (s : State) (p pos e : Nat) : Prop where
  runs : s.runs = true
  walk : s.walkPos p = some pos
  entry : s.walkEntry p = some e
  may : s.mayLoad p = true
  some_left : s.skippedAll p = false
  fired : s.triggered p e = true

theorem exec_slotLoad_takes {s : State} {part : PartNo} {pos e : Nat} {c : Chunk} (h : MayLoad s part.toNat pos e)
    (hc : s.pickChunk part.toNat e = some c) : exec (.slotLoad part) s = .next (s.takeChunk part.toNat e pos c) := by
  show execSlotLoad part s = _
  rw [execSlotLoad, State.issue_runs _ _ h.runs]
  simp only [h.walk, h.entry, h.may, h.some_left, h.fired, hc]
  rfl

theorem exec_slotLoad_skips {s : State} {part : PartNo} {pos e : Nat} (h : MayLoad s part.toNat pos e)
    (hc : s.pickChunk part.toNat e = none) : exec (.slotLoad part) s = .next (s.skipEntry part.toNat pos) := by
  show execSlotLoad part s = _
  rw [execSlotLoad, State.issue_runs _ _ h.runs]
  simp only [h.walk, h.entry, h.may, h.some_left, h.fired, hc]
  rfl

theorem State.takeChunk_refused {s : State} {p e pos : Nat} {c : Chunk} {o : Op} (ho : s.op? c.ring c.seq = some o)
    (hu : s.updateTurn o = .refused) : s.takeChunk p e pos c = s.failOp o stDenied := by
  unfold State.takeChunk
  simp only [ho, hu, if_true]

theorem State.takeChunk_loads {s : State} {p e pos : Nat} {c : Chunk} {o : Op} (ho : s.op? c.ring c.seq = some o)
    (hu : s.updateTurn o = .go) (hopen : s.cisOpen (s.image (partBits ROT_ENTRY_IMAGE (s.entry e))).addr
      (s.image (partBits ROT_ENTRY_IMAGE (s.entry e))).len = true) : s.takeChunk p e pos c = s.loadSlot p e pos c := by
  unfold State.takeChunk
  simp only [ho, hu, hopen, reduceCtorEq, if_false, if_true]

/-- A skipped entry. -/
theorem State.skipEntry_leaves (s : State) (p pos : Nat) : (s.skipEntry p pos).part p =
    { s.part p with walk := (pos + 1) % (s.cycle p).length, fired := false, pendTrig := false, skips := (s.part p).skips + 1 } ∧
    (s.skipEntry p pos).count ctrSkipped p = satAdd (s.count ctrSkipped p) 1 ∧ (s.skipEntry p pos).plots = s.plots ∧
    (s.skipEntry p pos).mem = s.mem ∧ (s.skipEntry p pos).host = s.host := by
  unfold State.skipEntry
  dsimp only
  refine ⟨?_, ?_, ?_, ?_, ?_⟩
  · rw [State.part_bump, State.part_setPart]
  · rw [State.count_bump]; rfl
  · rw [State.bump_plots]; rfl
  · rw [State.bump_mem]; rfl
  · rw [State.bump_host]; rfl

end Sys2Proof.Machine
end

section
/-! SUPPORT. A slot up to its plots: the read of its image, IDLE and the overrun, and what of it the checks of a load see (R152, R432). -/

namespace Sys2Proof.Machine

/-- Offsets of the registers that the checks of a load read: tiers, the map of Cistern, the map of plots, and those of the plots. -/
def loadReads (off : Nat) : Prop := off = 0x48 ∨ off = 0x68 ∨ (0x34000 ≤ off ∧ off < 0x38000) ∨ 0x1000000 ≤ off

/-- What stands between a slot's load and its plots. -/
structure Preloaded (s t : State) : Prop where
  regs : ∀ k n, loadReads (regOff k n) → t.reg k n = s.reg k n
  ctx : t.ctx = s.ctx
  host : t.host = s.host
  plots : t.plots = s.plots
  quiet : (∀ r, s.seepQuiet .plot r = true) → ∀ r, t.seepQuiet .plot r = true

theorem Preloaded.trans {s t u : State} (h : Preloaded s t) (g : Preloaded t u) : Preloaded s u :=
  ⟨fun k n hk => (g.regs k n hk).trans (h.regs k n hk), g.ctx.trans h.ctx, g.host.trans h.host, g.plots.trans h.plots,
    fun q => g.quiet (h.quiet q)⟩

theorem Served.preloaded {s t : State} (h : Served 0 s t) : Preloaded s t := by
  obtain ⟨hc, -, hh, hp, -⟩ := h.fields
  exact ⟨fun k n hk => h.regs k n (by unfold loadReads at hk; unfold servedOff; omega), hc, hh, hp, fun q r => h.quiet (q r)⟩

theorem preloaded_setPart (s : State) (p : Nat) (x : Part) : Preloaded s (s.setPart p x) :=
  ⟨fun _ _ _ => rfl, rfl, rfl, rfl, fun q => q⟩

theorem preloaded_wr (s : State) (f : Fld) (n v : Nat) (h : ¬loadReads (regOff f.reg n)) : Preloaded s (s.wr f n v) :=
  ⟨fun _ _ hk => reg_setReg_other s _ fun e => h (e ▸ hk), rfl, rfl, rfl, fun q => q⟩

theorem preloaded_restage (s : State) : Preloaded s s.restage := by
  have h1 : ∀ x : State, Preloaded x (x.bump ctrStageChanges 0 1) := fun x => (served_bump (ch := 0) x _ _ _).preloaded
  have h2 : ∀ (x : State) (v : Nat), Preloaded x (x.wr PWR_CTL_VNOW_MV 0 v) := fun x v => preloaded_wr x _ _ _ (by unfold loadReads; decide)
  have h0 : ∀ g, Preloaded s { s with pwr := g } := fun _ => ⟨fun _ _ _ => rfl, rfl, rfl, rfl, fun q => q⟩
  unfold State.restage
  dsimp only
  split_ifs
  · exact h2 _ _
  · exact ((h0 _).trans (h1 _)).trans (h2 _ _)

theorem preloaded_syncIdle (s : State) {p : Nat} (hp : p < 64) (h : s.lev.pend = []) : Preloaded s (s.syncIdle p) := by
  rw [State.syncIdle_unfenced s p h]
  refine (preloaded_wr s _ _ _ ?_).trans (preloaded_restage _)
  show ¬loadReads (regOff .rotPart p)
  simp only [loadReads, regOff, RegKind.place, reduceCtorEq, if_false]
  omega

section
variable {s t : State} (h : Preloaded s t)
include h

theorem Preloaded.rd {f : Fld} {n : Nat} (hf : loadReads (regOff f.reg n)) : t.rd f n = s.rd f n := by
  unfold State.rd; rw [h.regs _ _ hf]

theorem Preloaded.physOf {l : Nat} (hl : l < 2048) : t.physOf l = s.physOf l :=
  State.physOf_of_map (h.regs _ _ (by rw [regOff_mapEntry, loadReads]; omega))

theorem Preloaded.runnelsUnfit (q n : Nat) : t.runnelsUnfit q n = s.runnelsUnfit q n := by
  have hmap : t.runnelOf q = s.runnelOf q := funext fun r => by
    unfold State.runnelOf
    rw [h.regs .runMap _ (by simp only [loadReads, regOff, RegKind.place, if_true]; omega)]
  have hlo : ∀ f : Fld, f.reg = .leveeRunLo ∨ f.reg = .leveeRunHi → t.rd f q = s.rd f q := fun f hf => h.rd <| by
    rcases hf with e | e <;> (rw [e]; simp only [loadReads, regOff, RegKind.place, reduceCtorEq, if_false]; omega)
  have hf : t.runnelFenced q = s.runnelFenced q := funext fun r => by
    unfold State.runnelFenced
    rw [hlo LEVEE_RUN_LO_BITS (.inl rfl), hlo LEVEE_RUN_HI_BITS (.inr rfl)]
  unfold State.runnelsUnfit
  rw [hmap, hf]

/-- The checks of a load see the same. -/
theorem Preloaded.loadFails {p : Nat} (hp : t.partPlots p = s.partPlots p) (k : Nat) (img : List Byte) (cold : Bool) (read : BitVec 12) :
    t.loadFails p k img cold read = s.loadFails p k img cold read := by
  have hi : t.image k = s.image k := by unfold State.image; rw [h.ctx]
  have he : t.cisEnd = s.cisEnd := by
    unfold State.cisEnd State.flag; rw [h.rd (f := CIS_MAP_RETIRED) (.inr (.inl (by decide)))]
  have h7 : t.flag RES_TIER_CTL_SEVEN = s.flag RES_TIER_CTL_SEVEN := by
    unfold State.flag; rw [h.rd (f := RES_TIER_CTL_SEVEN) (.inl (by decide))]
  have hr : ((s.partPlots p).any fun l => t.runnelsUnfit (t.physOf l) (imgRunnels img)) =
      (s.partPlots p).any fun l => s.runnelsUnfit (s.physOf l) (imgRunnels img) := by
    rw [Bool.eq_iff_iff, List.any_eq_true, List.any_eq_true]
    refine exists_congr fun l => and_congr_right fun hl => ?_
    rw [h.physOf (s.partPlots_lt hl), h.runnelsUnfit]
  unfold State.loadFails
  dsimp only
  rw [hi, he, h7, hp, hr]

end

end Sys2Proof.Machine
end

section
/-! SUPPORT. The plots of a footprint loaded (R152 steps 3 and 4, R253, R260, R261). -/

namespace Sys2Proof.Machine

/-- A plot loaded for slot `seq` of partition p, with both streams at word 0. -/
structure Plot.LoadedFor (x : Plot) (p : Nat) (seq : Seq) : Prop where
  loaded : x.loaded = true
  running : x.running = false
  part : x.part = p
  seq : x.seq = seq
  flume : x.flume = {}
  furrow : x.furrow = {}

theorem loadPlot_loadedFor (img : List Byte) (old : Plot) (part l k : Nat) (seq : Seq) (cold fence : Bool) (runMap : Sparse Nat) :
    (loadPlot img old part l k seq cold fence runMap).LoadedFor part seq := ⟨rfl, rfl, rfl, rfl, rfl, rfl⟩

/-- What loading plots leaves, beside the plots and their registers. -/
structure PlotsLoaded (s t : State) : Prop where
  map : ∀ l < 2048, t.reg .mapEntry l = s.reg .mapEntry l
  rot : t.rot = s.rot
  ctx : t.ctx = s.ctx
  host : t.host = s.host
  cis : t.mem.cis = s.mem.cis
  armed : t.armed = s.armed
  inject : t.inject = s.inject

theorem PlotsLoaded.refl (s : State) : PlotsLoaded s s := ⟨fun _ _ => rfl, rfl, rfl, rfl, rfl, rfl, rfl⟩

theorem PlotsLoaded.trans {s t u : State} (h : PlotsLoaded s t) (g : PlotsLoaded t u) : PlotsLoaded s u :=
  ⟨fun l hl => (g.map l hl).trans (h.map l hl), g.rot.trans h.rot, g.ctx.trans h.ctx, g.host.trans h.host, g.cis.trans h.cis,
    g.armed.trans h.armed, g.inject.trans h.inject⟩

theorem PlotsLoaded.physOf {s t : State} (h : PlotsLoaded s t) {l : Nat} (hl : l < 2048) : t.physOf l = s.physOf l :=
  State.physOf_of_map (h.map l hl)

theorem plotsLoaded_setPlot (s : State) (q : Nat) (x : Plot) : PlotsLoaded s (s.setPlot q x) :=
  ⟨fun _ _ => rfl, rfl, rfl, rfl, rfl, rfl, rfl⟩

/-- A register outside the map of plots. -/
theorem plotsLoaded_wr (s : State) (f : Fld) (n v : Nat) (h : regOff f.reg n < 0x34000 ∨ 0x38000 ≤ regOff f.reg n) :
    PlotsLoaded s (s.wr f n v) :=
  ⟨(mapStands_wr s v h).map, rfl, rfl, rfl, rfl, rfl, rfl⟩

/-! ### One plot -/

section
variable (s : State) (q : Nat)

theorem State.resvWrite_plot_other (off : Nat) (bs : List Byte) {r : Nat} (hr : r ≠ q) : (s.resvWrite q off bs).plot r = s.plot r := by
  unfold State.resvWrite
  dsimp only
  split_ifs
  · rfl
  · rfl
  · exact sget_sput_other _ _ _ _ hr

theorem plotsLoaded_resvWrite (off : Nat) (bs : List Byte) : PlotsLoaded s (s.resvWrite q off bs) := by
  obtain ⟨m, x, h, hc⟩ := s.resvWrite_frame q off bs
  rw [h]
  exact ⟨fun _ _ => rfl, rfl, rfl, rfl, hc, rfl, rfl⟩

theorem plotsLoaded_loadStreams (k : Nat) (img : List Byte) : PlotsLoaded s (s.loadStreams q k img) :=
  (plotsLoaded_resvWrite s q _ _).trans (plotsLoaded_resvWrite _ q _ _)

theorem State.loadStreams_plot_other (k : Nat) (img : List Byte) {r : Nat} (hr : r ≠ q) : (s.loadStreams q k img).plot r = s.plot r :=
  (State.resvWrite_plot_other _ q _ _ hr).trans (State.resvWrite_plot_other s q _ _ hr)

theorem regOff_sfuPlotCtl : 0x38000 ≤ regOff .sfuPlotCtl q := by
  simp only [regOff, RegKind.place, reduceCtorEq, if_false]
  omega

theorem plotsLoaded_sfu (u : SfuS) : PlotsLoaded s { s with sfu := u } := ⟨fun _ _ => rfl, rfl, rfl, rfl, rfl, rfl, rfl⟩

theorem plotsLoaded_wr_sfuPlotCtl {f : Fld} (hf : f.reg = .sfuPlotCtl) (v : Nat) : PlotsLoaded s (s.wr f q v) :=
  plotsLoaded_wr s f q v (.inr (by rw [hf]; exact regOff_sfuPlotCtl q))

theorem plotsLoaded_flipOwed : PlotsLoaded s (s.flipOwed q) := by
  unfold State.flipOwed State.flipBanks
  split_ifs
  · exact (plotsLoaded_sfu s _).trans (plotsLoaded_wr_sfuPlotCtl _ q rfl _)
  · exact .refl s

/-- What a load brings into force on a plot leaves the plots. -/
theorem plotsLoaded_loadSfu : PlotsLoaded s (s.loadSfu q) :=
  ((plotsLoaded_flipOwed s q).trans (plotsLoaded_wr_sfuPlotCtl _ q rfl _)).trans (plotsLoaded_sfu _ _)

theorem State.plots_flipOwed : (s.flipOwed q).plots = s.plots := by
  unfold State.flipOwed State.flipBanks
  split_ifs
  · rw [State.wr_plots]
  · rfl

theorem State.plot_loadSfu (r : Nat) : (s.loadSfu q).plot r = s.plot r := by
  have h : (s.loadSfu q).plots = (s.flipOwed q).plots := by
    unfold State.loadSfu
    dsimp only
    rw [State.wr_plots]
  unfold State.plot
  rw [h, s.plots_flipOwed]

/-- The runnel map of a plot that a cold load takes. -/
def State.coldRunnels (img : List Byte) : Sparse Nat :=
  ((List.range (imgRunnels img)).map fun r => (r, s.runnelOf q r)).filter fun y => y.2 ≠ 0

/-- One plot of a footprint loaded. -/
def State.loadOne (p : Nat) (img : List Byte) (c : Chunk) (seq : Seq) (cold : Bool) (l k : Nat) : State :=
  let s1 := if cold then s.loadStreams q k img else s
  (s1.setPlot q (loadPlot img (s1.plot q) p l k seq cold (c.swaps && decide (k < c.owners.length)) (s.coldRunnels q img))).loadSfu q

theorem State.loadOne_leaves (p : Nat) (img : List Byte) (c : Chunk) (seq : Seq) (cold : Bool) (l k : Nat) :
    PlotsLoaded s (s.loadOne q p img c seq cold l k) ∧ ((s.loadOne q p img c seq cold l k).plot q).LoadedFor p seq ∧
    ∀ r, r ≠ q → (s.loadOne q p img c seq cold l k).plot r = s.plot r := by
  unfold State.loadOne
  extract_lets s1
  have h1 : PlotsLoaded s s1 ∧ ∀ r, r ≠ q → s1.plot r = s.plot r := by
    by_cases hc : cold = true
    · have he : s1 = s.loadStreams q k img := if_pos hc
      rw [he]
      exact ⟨plotsLoaded_loadStreams s q k img, fun r hr => s.loadStreams_plot_other q k img hr⟩
    · have he : s1 = s := if_neg hc
      rw [he]
      exact ⟨.refl s, fun _ _ => rfl⟩
  refine ⟨(h1.1.trans (plotsLoaded_setPlot _ _ _)).trans (plotsLoaded_loadSfu _ q), ?_, fun r hr => ?_⟩
  · rw [State.plot_loadSfu, State.plot_setPlot]
    exact loadPlot_loadedFor _ _ _ _ _ _ _ _ _
  · rw [State.plot_loadSfu, State.plot_setPlot_other _ _ hr, h1.2 r hr]

end

/-! ### The plots of a footprint -/

theorem State.loadPlots_cons (s : State) (p : Nat) (img : List Byte) (c : Chunk) (seq : Seq) (cold : Bool) (l k : Nat)
    (rest : List (Nat × Nat)) : s.loadPlots p img c seq cold ((l, k) :: rest) =
      (s.loadOne (s.physOf l) p img c seq cold l k).loadPlots p img c seq cold rest := by
  rw [State.loadPlots]
  unfold State.loadOne State.coldRunnels
  rfl

/-- Every plot of the list is loaded, and the others stand. -/
theorem State.loadPlots_leaves (p : Nat) (img : List Byte) (c : Chunk) (seq : Seq) (cold : Bool) (xs : List (Nat × Nat))
    (hl : ∀ x ∈ xs, x.1 < 2048) (s : State) : PlotsLoaded s (s.loadPlots p img c seq cold xs) ∧
      (∀ q, ((s.plot q).LoadedFor p seq ∨ ∃ x ∈ xs, s.physOf x.1 = q) → ((s.loadPlots p img c seq cold xs).plot q).LoadedFor p seq) ∧
      ∀ q, (∀ x ∈ xs, s.physOf x.1 ≠ q) → (s.loadPlots p img c seq cold xs).plot q = s.plot q := by
  induction xs generalizing s with
  | nil => exact ⟨.refl s, fun q h => h.elim id fun ⟨_, hx, _⟩ => absurd hx List.not_mem_nil, fun _ _ => rfl⟩
  | cons x xs ih =>
    obtain ⟨l, k⟩ := x
    obtain ⟨h1, hq, ho⟩ := s.loadOne_leaves (s.physOf l) p img c seq cold l k
    obtain ⟨h2, hin, hout⟩ := ih (fun y hy => hl y (List.mem_cons_of_mem _ hy)) (s.loadOne (s.physOf l) p img c seq cold l k)
    have hphys : ∀ y ∈ xs, (s.loadOne (s.physOf l) p img c seq cold l k).physOf y.1 = s.physOf y.1 := fun y hy =>
      h1.physOf (hl y (List.mem_cons_of_mem _ hy))
    rw [State.loadPlots_cons]
    refine ⟨h1.trans h2, fun q h => hin q ?_, fun q h => ?_⟩
    · by_cases hql : q = s.physOf l
      · subst hql; exact .inl hq
      · rcases h with h | ⟨y, hy, hyq⟩
        · exact .inl (by rw [ho q hql]; exact h)
        · rcases List.mem_cons.1 hy with rfl | hy
          · exact absurd hyq.symm hql
          · exact .inr ⟨y, hy, (hphys y hy).trans hyq⟩
    · rw [hout q fun y hy => by rw [hphys y hy]; exact h y (List.mem_cons_of_mem _ hy)]
      exact ho q fun e => h (l, k) List.mem_cons_self e.symm

end Sys2Proof.Machine
end

section
/-! SUPPORT. A slot loaded, its update number held and its input tokens sent (R74, R152, R170). -/

namespace Sys2Proof.Machine

/-! ### Input tokens -/

/-- With no seep of a plot, a message crosses the canal. -/
theorem State.cross_quiet {s : State} (h : ∀ r, s.seepQuiet .plot r = true) (a b : Station) : s.cross a b = (s, true) := by
  have hr : ∀ hops : List Hop, s.overRoute a b hops = (s, true) := fun hops => by
    induction hops with
    | nil => rfl
    | cons x xs ih =>
      cases x with
      | segment _ _ => exact ih
      | link p d =>
        rw [State.overRoute, s.seepEvents_quiet _ _ (h p)]
        exact ih
  unfold State.cross
  split_ifs
  · exact hr _
  · rfl

/-- Tokens to the plots of a footprint join the canal. -/
theorem State.inputTokens_quiet (src : Station) (seq : Seq) (ls : List Nat) {s : State} (h : ∀ r, s.seepQuiet .plot r = true) :
    ∃ x, s.inputTokens src seq ls = { s with canal := x } := by
  induction ls generalizing s with
  | nil => exact ⟨_, rfl⟩
  | cons l ls ih =>
    have h1 : s.engineToken src (s.physOf l) 1 1 seq = { s with canal := s.canal ++ [⟨src, s.physOf l, 1, 1, seq⟩] } := by
      unfold State.engineToken
      rw [State.cross_quiet h]
    obtain ⟨x, hx⟩ := ih (s := { s with canal := s.canal ++ [⟨src, s.physOf l, 1, 1, seq⟩] }) h
    exact ⟨x, by rw [State.inputTokens, h1, hx]⟩

/-! ### Update numbers (R74) -/

/-- A TRAIN descriptor whose turn it is holds its number from its first slot's load on; any other stands. -/
theorem State.holdUpdate_leaves {s : State} {o : Op} (hu : s.updateTurn o = .go) (ho : s.op? o.ring o.seq = some o) :
    (s.holdUpdate o).op? o.ring o.seq = some { o with holdsUpdate := o.holdsUpdate || o.train } ∧
    ∃ x h, s.holdUpdate o = { s with ctx := x, host := h } := by
  unfold State.holdUpdate
  dsimp only
  cases ht : o.train with
  | false =>
    have he : ({ o with holdsUpdate := o.holdsUpdate || false } : Op) = o := by rw [Bool.or_false]
    rw [he]
    split
    · simp only [Bool.false_and, Bool.false_eq_true, if_false]
      exact ⟨ho, _, _, rfl⟩
    · exact ⟨ho, _, _, rfl⟩
  | true =>
    cases hh : o.holdsUpdate with
    | true =>
      have he : ({ o with holdsUpdate := true || true } : Op) = o := by rw [Bool.or_true, ← hh]
      rw [he]
      split
      · simp only [Bool.true_and, Bool.not_true, Bool.false_eq_true, if_false]
        exact ⟨ho, _, _, rfl⟩
      · exact ⟨ho, _, _, rfl⟩
    | false =>
      split
      · simp only [Bool.true_and, Bool.not_false, if_true]
        exact ⟨State.op_setOp _ _ (o := o) ho rfl rfl, _, _, rfl⟩
      · rename_i hn
        unfold State.updateTurn at hu
        rw [ht, hn] at hu
        cases hu

/-! ### What a load leaves of its partition -/

/-- A partition whose slot has begun to load a chunk from an entry. -/
structure Part.Taken (x y : Part) (e : Nat) (c : Chunk) : Prop where
  phase : y.slot.phase = .loading
  chunk : y.slot.chunk = some c
  entry : y.slot.entry = e
  seq : y.slot.seq = x.slotSeq + 1
  slotSeq : y.slotSeq = x.slotSeq + 1
  chunks : y.chunks = x.chunks.erase c
  fired : y.fired = false

/-- The plots of a loading slot, and the switches that it brings into force. -/
def State.loadOnto (s : State) (p : Nat) (img : List Byte) (c : Chunk) (seq : Seq) (cold : Bool) (plots : List Nat) : State :=
  let s1 := s.loadPlots p img c seq cold plots.zipIdx
  let s2 := if (s.rd SFU_SWITCH_PENDING_PEND).testBit p then
      s1.wr SFU_SWITCH_PENDING_PEND 0 (s.rd SFU_SWITCH_PENDING_PEND ^^^ 2 ^ p) else s1
  s2.wr SFU_PART_CTL_COMPAT_ACTIVE p (s2.rd SFU_PART_CTL_COMPAT p)

/-- The update number and the input tokens of a slot that has loaded. -/
def State.loadEnd (s : State) (c : Chunk) (seq : Seq) (plots : List Nat) : State :=
  match s.op? c.ring c.seq with
  | some o =>
      if c.frameOne && o.inputReady then (s.holdUpdate o).inputTokens (.hub (reachOf (plots.headD 0))) seq plots else s.holdUpdate o
  | none => s

/-- The image that an entry loads. -/
def State.entryImage (s : State) (e : Nat) : ImageRec := s.image (partBits ROT_ENTRY_IMAGE (s.entry e))

/-- A load from an entry is cold. -/
def State.loadsCold (s : State) (p e : Nat) : Bool :=
  (s.part p).forceCold || decide ((s.part p).warmId ≠ some (s.entryImage e).imageId)

/-- The state in which a slot has begun to load: its partition set, IDLE following it, and an overrun counted. -/
def State.begunLoad (s : State) (p : Nat) (x : Part) (overrun : Bool) : State :=
  let s1 := (s.setPart p x).syncIdle p
  if overrun then (s1.bump ctrOverruns p).raise evRotOverrun else s1

theorem State.begunLoad_leaves {s r : State} (hr : Served 0 s r) {p : Nat} (hp : p < 64) (hl : s.lev.pend = []) (x : Part)
    (overrun : Bool) : Preloaded s (r.begunLoad p x overrun) ∧ (r.begunLoad p x overrun).mem = r.mem ∧
      (r.begunLoad p x overrun).part p = x ∧ ∀ p', p' ≠ p → (r.begunLoad p x overrun).part p' = s.part p' := by
  obtain ⟨-, hrot, -, -, -, hlev, -⟩ := hr.fields
  have hpend : (r.setPart p x).lev.pend = [] := by
    show r.lev.pend = []
    rw [hlev, hl]
  have h1 : Preloaded s ((r.setPart p x).syncIdle p) :=
    hr.preloaded.trans ((preloaded_setPart r p x).trans (preloaded_syncIdle _ hp hpend))
  obtain ⟨hm, -, -, hro⟩ := State.syncIdle_leaves p hpend
  have key : ∀ t : State, t.rot = (r.setPart p x).rot → t.part p = x ∧ ∀ p', p' ≠ p → t.part p' = s.part p' := fun t ht => by
    have hpart : ∀ j, t.part j = (r.setPart p x).part j := fun j => by unfold State.part; rw [ht]
    refine ⟨by rw [hpart, State.part_setPart], fun p' hne => ?_⟩
    rw [hpart, State.part_setPart_other _ _ hne]
    unfold State.part
    rw [hrot]
  unfold State.begunLoad
  dsimp only
  split_ifs
  · refine ⟨(h1.trans (served_bump _ _ _ _).preloaded).trans (served_raise _ _).preloaded, ?_, key _ ?_⟩
    · rw [State.raise_only, State.bump_mem, hm]; rfl
    · rw [State.raise_only, State.bump_rot, hro]
  · exact ⟨h1, hm, key _ hro⟩

/-- A load that nothing fails: its partition takes the chunk, and its plots follow. -/
theorem State.loadSlot_eq {s : State} {p e : Nat} (pos : Nat) (c : Chunk) (hp : p < 64) (hl : s.lev.pend = [])
    (hf : s.loadFails p (partBits ROT_ENTRY_IMAGE (s.entry e)) (s.cisBytes (s.entryImage e).addr (s.entryImage e).len) (s.loadsCold p e)
      (s.cisRead none (s.entryImage e).addr (s.entryImage e).len).1 = none)
    (hw : (s.part p).warmImage = some (partBits ROT_ENTRY_IMAGE (s.entry e)) → (s.part p).warmFail = none) :
    ∃ u, Preloaded s u ∧ u.mem = (s.cisRead none (s.entryImage e).addr (s.entryImage e).len).2.mem ∧
      (s.part p).Taken (u.part p) e c ∧ (∀ p', p' ≠ p → u.part p' = s.part p') ∧
      s.loadSlot p e pos c = (u.loadOnto p (s.cisBytes (s.entryImage e).addr (s.entryImage e).len) c ((s.part p).slotSeq + 1)
        (s.loadsCold p e) (s.partPlots p)).loadEnd c ((s.part p).slotSeq + 1) (s.partPlots p) := by
  unfold State.loadSlot
  extract_lets x w k r img cold seq plots warmed slot x1 read s1 s2
  obtain ⟨h2, hm, hpx, hpo⟩ := State.begunLoad_leaves (served_cisRead s none r.addr r.len : Served 0 s read.2) hp hl x1 x.pendTrig
  have hplots : s2.partPlots p = s.partPlots p := State.partPlots_of_act (by
    show ((read.2.begunLoad p x1 x.pendTrig).part p).act = _
    rw [hpx])
  have hfail : s2.loadFails p k img cold read.1 = none := (h2.loadFails hplots k img cold read.1).trans hf
  have hwarm : (if warmed then x.warmFail else none) = none := ite_eq_right_iff.2 hw
  have hnone : ((s2.loadFails p k img cold read.1).orElse fun _ => if warmed then x.warmFail else none) = none := by
    rw [hfail]; exact hwarm
  rw [hnone]
  exact ⟨s2, h2, hm, by rw [show s2.part p = x1 from hpx]; exact ⟨rfl, rfl, rfl, rfl, rfl, rfl, rfl⟩, hpo, rfl⟩

/-! ### The plots and the end of a load -/

theorem PlotsLoaded.quiet {s t : State} (h : PlotsLoaded s t) (r : Nat) (hq : s.seepQuiet .plot r = true) : t.seepQuiet .plot r = true := by
  have hw : t.armedWord .plot r = s.armedWord .plot r := by unfold State.armedWord; rw [h.armed]
  have ha : t.seepArmed .plot r = s.seepArmed .plot r := by simp only [State.seepArmed, hw]
  unfold State.seepQuiet at hq ⊢
  rw [ha, h.inject]
  exact hq

/-- The plots of a slot loaded, and the others as they stood. -/
theorem State.loadOnto_leaves (s : State) {p : Nat} (hp : p < 64) (img : List Byte) (c : Chunk) (seq : Seq) (cold : Bool) {plots : List Nat}
    (hl : ∀ l ∈ plots, l < 2048) : PlotsLoaded s (s.loadOnto p img c seq cold plots) ∧
      (∀ l ∈ plots, ((s.loadOnto p img c seq cold plots).plot (s.physOf l)).LoadedFor p seq) ∧
      ∀ q, (∀ l ∈ plots, s.physOf l ≠ q) → (s.loadOnto p img c seq cold plots).plot q = s.plot q := by
  have hfst : ∀ x ∈ plots.zipIdx, x.1 ∈ plots := fun x hx => List.fst_mem_of_mem_zipIdx hx
  have hidx : ∀ l ∈ plots, ∃ x ∈ plots.zipIdx, x.1 = l := fun l h => by
    rw [← List.zipIdx_map_fst 0 plots] at h
    obtain ⟨x, hx, he⟩ := List.mem_map.1 h
    exact ⟨x, hx, he⟩
  obtain ⟨h1, hin, hout⟩ := State.loadPlots_leaves p img c seq cold plots.zipIdx (fun x hx => hl _ (hfst x hx)) s
  have hplots : (s.loadOnto p img c seq cold plots).plots = (s.loadPlots p img c seq cold plots.zipIdx).plots := by
    unfold State.loadOnto
    dsimp only
    rw [State.wr_plots]
    split_ifs
    · rw [State.wr_plots]
    · rfl
  have hplot : ∀ q, (s.loadOnto p img c seq cold plots).plot q = (s.loadPlots p img c seq cold plots.zipIdx).plot q := fun q => by
    unfold State.plot; rw [hplots]
  refine ⟨?_, fun l h => ?_, fun q h => ?_⟩
  · have h2 : ∀ (x : State) (v : Nat), PlotsLoaded x (x.wr SFU_SWITCH_PENDING_PEND 0 v) := fun x v =>
      plotsLoaded_wr x _ _ _ (.inl (by decide))
    have h3 : ∀ (x : State) (v : Nat), PlotsLoaded x (x.wr SFU_PART_CTL_COMPAT_ACTIVE p v) := fun x v => plotsLoaded_wr x _ _ _ (.inl (by
      show regOff .sfuPartCtl p < _
      simp only [regOff, RegKind.place, reduceCtorEq, if_false]
      omega))
    unfold State.loadOnto
    dsimp only
    split_ifs
    · exact (h1.trans (h2 _ _)).trans (h3 _ _)
    · exact h1.trans (h3 _ _)
  · rw [hplot]
    obtain ⟨x, hx, he⟩ := hidx l h
    exact hin _ (.inr ⟨x, hx, by rw [he]⟩)
  · rw [hplot]
    exact hout q fun x hx => h _ (hfst x hx)

/-- A turn of an update number depends on the streams and policies. -/
theorem State.updateTurn_of_ctx {s t : State} (h : t.ctx = s.ctx) (o : Op) : t.updateTurn o = s.updateTurn o := by
  unfold State.updateTurn State.policy? State.stream
  rw [h]

/-- The end of a load: the update number is held, and with no seep of a plot the input tokens join the canal. -/
theorem State.loadEnd_leaves {s : State} {c : Chunk} {o : Op} (hq : ∀ r, s.seepQuiet .plot r = true) (ho : s.op? c.ring c.seq = some o)
    (hu : s.updateTurn o = .go) (seq : Seq) (plots : List Nat) :
    (s.loadEnd c seq plots).op? c.ring c.seq = some { o with holdsUpdate := o.holdsUpdate || o.train } ∧
    (s.loadEnd c seq plots).rot = s.rot ∧ (s.loadEnd c seq plots).plots = s.plots ∧ (s.loadEnd c seq plots).mem = s.mem := by
  obtain ⟨hr, hn⟩ := s.op_ring ho
  obtain ⟨hop, x, h, he⟩ := State.holdUpdate_leaves hu (by rw [hr, hn]; exact ho)
  replace hop : (s.holdUpdate o).op? c.ring c.seq = some { o with holdsUpdate := o.holdsUpdate || o.train } := by
    rw [← hr, ← hn]; exact hop
  unfold State.loadEnd
  simp only [ho]
  split_ifs
  · obtain ⟨y, hy⟩ := State.inputTokens_quiet (.hub (reachOf (plots.headD 0))) seq plots (s := s.holdUpdate o) (by rw [he]; exact hq)
    rw [hy]
    exact ⟨hop, by rw [he], by rw [he], by rw [he]⟩
  · exact ⟨hop, by rw [he], by rw [he], by rw [he]⟩

/-- What a load that nothing fails leaves. -/
theorem State.loadSlot_leaves {s : State} {p e : Nat} (pos : Nat) {c : Chunk} {o : Op} (hp : p < 64) (hl : s.lev.pend = [])
    (hq : ∀ r, s.seepQuiet .plot r = true) (ho : s.op? c.ring c.seq = some o) (hu : s.updateTurn o = .go)
    (hf : s.loadFails p (partBits ROT_ENTRY_IMAGE (s.entry e)) (s.cisBytes (s.entryImage e).addr (s.entryImage e).len) (s.loadsCold p e)
      (s.cisRead none (s.entryImage e).addr (s.entryImage e).len).1 = none)
    (hw : (s.part p).warmImage = some (partBits ROT_ENTRY_IMAGE (s.entry e)) → (s.part p).warmFail = none) :
    (s.part p).Taken ((s.loadSlot p e pos c).part p) e c ∧
    (∀ l ∈ s.partPlots p, ((s.loadSlot p e pos c).plot (s.physOf l)).LoadedFor p ((s.part p).slotSeq + 1)) ∧
    (∀ r, (∀ l ∈ s.partPlots p, s.physOf l ≠ r) → (s.loadSlot p e pos c).plot r = s.plot r) ∧
    (∀ p', p' ≠ p → (s.loadSlot p e pos c).part p' = s.part p') ∧
    (s.loadSlot p e pos c).op? c.ring c.seq = some { o with holdsUpdate := o.holdsUpdate || o.train } ∧
    (s.loadSlot p e pos c).mem.cis = (s.cisRead none (s.entryImage e).addr (s.entryImage e).len).2.mem.cis := by
  obtain ⟨u, hpre, hum, htaken, hothers, he⟩ := State.loadSlot_eq pos c hp hl hf hw
  obtain ⟨hon, hin, hout⟩ := u.loadOnto_leaves hp (s.cisBytes (s.entryImage e).addr (s.entryImage e).len) c ((s.part p).slotSeq + 1)
    (s.loadsCold p e) (plots := s.partPlots p) fun l h => s.partPlots_lt h
  generalize u.loadOnto p (s.cisBytes (s.entryImage e).addr (s.entryImage e).len) c ((s.part p).slotSeq + 1) (s.loadsCold p e)
    (s.partPlots p) = v at he hon hin hout
  obtain ⟨hop, hrot, hplots, hmem⟩ := State.loadEnd_leaves (s := v) (c := c) (o := o) (fun r => hon.quiet r (hpre.quiet hq r))
    ((State.op_of_host (hon.host.trans hpre.host) _ _).trans ho) ((State.updateTurn_of_ctx (hon.ctx.trans hpre.ctx) o).trans hu)
    ((s.part p).slotSeq + 1) (s.partPlots p)
  have hpart : ∀ j, (s.loadSlot p e pos c).part j = u.part j := fun j => by unfold State.part; rw [he, hrot, hon.rot]
  have hplot : ∀ q, (s.loadSlot p e pos c).plot q = v.plot q := fun q => by unfold State.plot; rw [he, hplots]
  have hphys : ∀ l ∈ s.partPlots p, u.physOf l = s.physOf l := fun l h => hpre.physOf (s.partPlots_lt h)
  refine ⟨by rw [hpart]; exact htaken, fun l h => ?_, fun r h => ?_, fun j h => by rw [hpart]; exact hothers j h, by rw [he]; exact hop, ?_⟩
  · rw [hplot, ← hphys l h]
    exact hin l h
  · rw [hplot, hout r fun l hm => by rw [hphys l hm]; exact h l hm]
    unfold State.plot
    rw [hpre.plots]
  · rw [he, hmem, hon.cis, hum]

end Sys2Proof.Machine
end

section
/-! SUPPORT. A slot that starts: its frame sets, its plots and what its owners are given (R75, R152 step 5, R312, R602). -/

namespace Sys2Proof.Machine

/-! ### The plots -/

theorem State.startPlots_cons (img : List Byte) (c : Chunk) (o : Option Op) (region : Nat) (seq : Seq) (l : Nat) (ls : List Nat) (s : State) :
    ∃ y : Plot, y.running = true ∧
      s.startPlots img c o region seq (l :: ls) = (s.setPlot (s.physOf l) y).startPlots img c o region seq ls := ⟨_, by rfl, rfl⟩

/-- START on every plot leaves all but the plots, keeps what runs, and makes each run. -/
theorem State.startPlots_leaves (img : List Byte) (c : Chunk) (o : Option Op) (region : Nat) (seq : Seq) (ls : List Nat) (s : State) :
    (∃ x, s.startPlots img c o region seq ls = { s with plots := x }) ∧
    ∀ q, ((s.plot q).running = true ∨ ∃ l ∈ ls, s.physOf l = q) → ((s.startPlots img c o region seq ls).plot q).running = true := by
  induction ls generalizing s with
  | nil => exact ⟨⟨_, rfl⟩, fun q h => h.elim id fun ⟨_, hx, _⟩ => absurd hx List.not_mem_nil⟩
  | cons l ls ih =>
    obtain ⟨y, hy, he⟩ := State.startPlots_cons img c o region seq l ls s
    obtain ⟨⟨x, hx⟩, hrun⟩ := ih (s.setPlot (s.physOf l) y)
    rw [he]
    refine ⟨⟨x, by rw [hx]; rfl⟩, fun r h => hrun r ?_⟩
    by_cases hr : r = s.physOf l
    · subst hr; exact .inl (by rw [State.plot_setPlot]; exact hy)
    · rw [State.plot_setPlot_other _ _ hr]
      rcases h with h | ⟨m, hm, hq⟩
      · exact .inl h
      · rcases List.mem_cons.1 hm with rfl | hm
        · exact absurd hq.symm hr
        · exact .inr ⟨m, hm, hq⟩

/-! ### What owners are given -/

/-- What latents and versions given to owners leave: registers, counts, Cistern and Aquifer, the slot's phase and chunk, and what runs. -/
structure Endowed (p : Nat) (s t : State) : Prop where
  regs : t.regs = s.regs
  ctrs : t.ctrs = s.ctrs
  cis : t.mem.cis = s.mem.cis
  aqua : t.mem.aqua = s.mem.aqua
  phase : (t.part p).slot.phase = (s.part p).slot.phase
  chunk : (t.part p).slot.chunk = (s.part p).slot.chunk
  running : ∀ q, (s.plot q).running = true → (t.plot q).running = true

theorem Endowed.refl (p : Nat) (s : State) : Endowed p s s := ⟨rfl, rfl, rfl, rfl, rfl, rfl, fun _ h => h⟩

theorem Endowed.trans {p : Nat} {s t u : State} (h : Endowed p s t) (g : Endowed p t u) : Endowed p s u :=
  ⟨g.regs.trans h.regs, g.ctrs.trans h.ctrs, g.cis.trans h.cis, g.aqua.trans h.aqua, g.phase.trans h.phase, g.chunk.trans h.chunk,
    fun q hq => g.running q (h.running q hq)⟩

theorem endowed_op (s : State) (p : Nat) (o : Op) : Endowed p s (s.setOp o) := ⟨rfl, rfl, rfl, rfl, rfl, rfl, fun _ h => h⟩

theorem endowed_pool (s : State) (p k : Nat) (x : Pool) : Endowed p s (s.setPool k x) := ⟨rfl, rfl, rfl, rfl, rfl, rfl, fun _ h => h⟩

theorem endowed_plot (s : State) (p q : Nat) {x : Plot} (h : x.running = (s.plot q).running) : Endowed p s (s.setPlot q x) := by
  refine ⟨rfl, rfl, rfl, rfl, rfl, rfl, fun r hr => ?_⟩
  by_cases hq : r = q
  · subst hq; rw [State.plot_setPlot, h]; exact hr
  · rw [State.plot_setPlot_other _ _ hq]; exact hr

theorem endowed_slot (s : State) (p : Nat) {x : Slot} (h : x.phase = (s.part p).slot.phase) (hc : x.chunk = (s.part p).slot.chunk) :
    Endowed p s (s.setPart p { s.part p with slot := x }) := by
  refine ⟨rfl, rfl, rfl, rfl, ?_, ?_, fun _ h => h⟩
  · rw [State.part_setPart]; exact h
  · rw [State.part_setPart]; exact hc

theorem endowed_resvWrite (s : State) (p q off : Nat) (bs : List Byte) : Endowed p s (s.resvWrite q off bs) := by
  have hm : ∀ m : Mem, m.cis = s.mem.cis → m.aqua = s.mem.aqua → Endowed p s { s with mem := m } := fun m h1 h2 =>
    ⟨rfl, rfl, h1, h2, rfl, rfl, fun _ h => h⟩
  have hx : ∀ (m : Mem) (x : Plot), m.cis = s.mem.cis → m.aqua = s.mem.aqua → x.running = (s.plot q).running →
      Endowed p s { s with mem := m, plots := sput ({} : Plot) s.plots q x } := fun m x h1 h2 h3 => (hm m h1 h2).trans (endowed_plot _ p q h3)
  unfold State.resvWrite
  dsimp only
  split_ifs
  · exact .refl p s
  · exact hm _ rfl rfl
  · exact hx _ _ (by rfl) (by rfl) (by rfl)

theorem endowed_placeOwner (s : State) (p q i o b : Nat) (k : Option Nat) : Endowed p s (s.placeOwner q i o b k) := endowed_plot s p q rfl

theorem endowed_placeLatents (p : Nat) (c : Chunk) (o : Op) (gs : List (Given × Nat)) (s : State) :
    Endowed p s (s.placeLatents p c o gs) := by
  induction gs generalizing s with
  | nil => exact .refl p s
  | cons g gs ih =>
    rw [State.placeLatents]
    split_ifs
    · exact ih s
    · exact (endowed_resvWrite s p _ _ _).trans (ih _)

theorem endowed_keepRecipes (p k n : Nat) (gs : List Given) (s : State) : Endowed p s (s.keepRecipes k n gs) := by
  induction gs generalizing s with
  | nil => exact .refl p s
  | cons g gs ih =>
    refine Endowed.trans ?_ (ih _)
    unfold State.keepRecipe
    split
    · dsimp only
      split_ifs
      · exact endowed_pool s p k _
      · exact .refl p s
    · exact .refl p s

theorem endowed_giveSlot (s : State) (p : Nat) (c : Chunk) (o : Op) : Endowed p s (s.giveSlot p c o) := by
  have h1 := endowed_placeLatents p c o (s.givens p c o).zipIdx s
  unfold State.giveSlot
  dsimp only
  split_ifs
  · exact h1.trans (endowed_slot _ p rfl rfl)
  · refine (h1.trans (endowed_slot _ p ?_ ?_)).trans (endowed_keepRecipes p p c.stream.toNat (s.givens p c o) _)
    · rfl
    · rfl

theorem endowed_placeBack (p : Nat) (c : Chunk) (xs : List (Nat × Nat)) (s : State) : Endowed p s (s.placeBack p c xs) := by
  induction xs generalizing s with
  | nil => exact .refl p s
  | cons x xs ih =>
    rw [State.placeBack]
    split_ifs
    · exact (endowed_placeOwner s p _ _ _ _ _).trans (ih _)
    · exact ih s

theorem endowed_pinVersion (s : State) (p : Nat) (o : Op) : Endowed p s (s.pinVersion o) := by
  unfold State.pinVersion
  split_ifs
  · exact .refl p s
  · exact endowed_op s p _

/-! ### The start -/

/-- The state of a slot that runs, before its owners are given theirs. -/
def State.launched (s : State) (p : Nat) (c : Chunk) : State :=
  let s1 := s.startPlots (s.part p).slot.img c (s.op? c.ring c.seq) (s.stream c.stream.toNat).region (s.part p).slot.seq (s.partPlots p)
  (s1.setPart p { s.part p with slot := { (s.part p).slot with phase := .running, startGauge := s1.rd REF_GAUGE_VALUE } }).bump ctrSlots p

/-- What the owners of a slot that runs are given. -/
def State.endowed (s : State) (p : Nat) (c : Chunk) : State :=
  match s.op? c.ring c.seq with
  | some o => ((s.pinVersion o).giveSlot p c o).placeBack p c c.owners.zipIdx
  | none => s

theorem endowed_endowed (s : State) (p : Nat) (c : Chunk) : Endowed p s (s.endowed p c) := by
  unfold State.endowed
  split
  · exact ((endowed_pinVersion s p _).trans (endowed_giveSlot _ p c _)).trans (endowed_placeBack p c _ _)
  · exact .refl p s

theorem State.launched_leaves (s : State) (p : Nat) (c : Chunk) : ((s.launched p c).part p).slot.phase = .running ∧
    ((s.launched p c).part p).slot.chunk = (s.part p).slot.chunk ∧
    (∀ l ∈ s.partPlots p, ((s.launched p c).plot (s.physOf l)).running = true) ∧
    (s.launched p c).count ctrSlots p = satAdd (s.count ctrSlots p) 1 ∧ (s.launched p c).mem = s.mem ∧
    ∀ (f : Fld) (n : Nat), regOff f.reg n ≠ regOff .evtStatus 0 → (s.launched p c).rd f n = s.rd f n := by
  obtain ⟨⟨x, hx⟩, hrun⟩ := State.startPlots_leaves (s.part p).slot.img c (s.op? c.ring c.seq) (s.stream c.stream.toNat).region
    (s.part p).slot.seq (s.partPlots p) s
  unfold State.launched
  dsimp only
  refine ⟨?_, ?_, fun l hl => ?_, ?_, ?_, fun f n hf => ?_⟩
  · rw [State.part_bump, State.part_setPart]
  · rw [State.part_bump, State.part_setPart]
  · have h := hrun (s.physOf l) (.inr ⟨l, hl, rfl⟩)
    unfold State.plot at h ⊢
    rw [State.bump_plots]
    exact h
  · rw [State.count_bump, hx]; rfl
  · rw [State.bump_mem, hx]; rfl
  · rw [State.rd_bump _ _ _ _ _ _ hf, hx]; rfl

theorem State.startSlot_eq {s : State} {p : Nat} {c : Chunk} (hw : ((s.launched p c).endowed p c).flag SLOT_WDOG_SEEP_ARM = false ∨
    ((s.launched p c).endowed p c).rd SLOT_WDOG_SEEP_PART ≠ p) : s.startSlot p c = ((s.launched p c).endowed p c).restage := by
  have hc : ¬(((s.launched p c).endowed p c).flag SLOT_WDOG_SEEP_ARM && ((s.launched p c).endowed p c).rd SLOT_WDOG_SEEP_PART = p) = true := by
    rcases hw with h | h <;> simp [h]
  exact if_neg hc

/-- What the start of a slot whose watchdog's seep does not act leaves. -/
theorem State.startSlot_leaves {s : State} {p : Nat} (hp : p < 64) {c : Chunk} (hc : (s.part p).slot.chunk = some c)
    (hw : s.flag SLOT_WDOG_SEEP_ARM = false ∨ s.rd SLOT_WDOG_SEEP_PART ≠ p) : ((s.startSlot p c).part p).slot.phase = .running ∧
      ((s.startSlot p c).part p).slot.chunk = some c ∧
      (∀ l ∈ s.partPlots p, ((s.startSlot p c).plot (s.physOf l)).running = true) ∧
      (s.startSlot p c).count ctrSlots p = satAdd (s.count ctrSlots p) 1 ∧ (s.startSlot p c).mem.cis = s.mem.cis ∧
      (s.startSlot p c).mem.aqua = s.mem.aqua := by
  obtain ⟨hph, hch, hrun, hcnt, hmem, hrd⟩ := s.launched_leaves p c
  have he := endowed_endowed (s.launched p c) p c
  have hrd2 : ∀ (f : Fld) (n : Nat), regOff f.reg n ≠ regOff .evtStatus 0 → ((s.launched p c).endowed p c).rd f n = s.rd f n :=
    fun f n hf => by
      rw [← hrd f n hf]; unfold State.rd State.reg; rw [he.regs]
  have hw2 : ((s.launched p c).endowed p c).flag SLOT_WDOG_SEEP_ARM = false ∨ ((s.launched p c).endowed p c).rd SLOT_WDOG_SEEP_PART ≠ p := by
    unfold State.flag at hw ⊢
    rw [hrd2 SLOT_WDOG_SEEP_ARM 0 (by decide), hrd2 SLOT_WDOG_SEEP_PART 0 (by decide)]
    exact hw
  rw [State.startSlot_eq hw2]
  have hrot : ∀ x : State, x.restage.part p = x.part p := fun x => by unfold State.part; rw [State.restage_rot]
  have hplot : ∀ (x : State) (q : Nat), x.restage.plot q = x.plot q := fun x q => by unfold State.plot; rw [State.restage_plots]
  rw [hrot, State.restage_mem, State.count_restage _ (by
    simp only [Ctr.off, Ctr.block, ctrSlots, ctrStageChanges]; omega)]
  refine ⟨he.phase.trans hph, he.chunk.trans (hch.trans hc), fun l hl => ?_, ?_, ?_, ?_⟩
  · rw [hplot]; exact he.running _ (hrun l hl)
  · rw [← hcnt]; unfold State.count; rw [he.ctrs]
  · rw [he.cis, hmem]
  · rw [he.aqua, hmem]

end Sys2Proof.Machine
end

section
/-! SLOT_LOAD and SLOT_START (O42). -/

namespace Sys2Proof.Machine

/-! ### Frame sets (R312) -/

theorem State.noteOpen_only (stream : Nat) (os : List (Nat × Nat)) (s : State) :
    ∃ x, s.noteOpen stream os = { s with ctx := { s.ctx with streams := x } } := by
  induction os generalizing s with
  | nil => exact ⟨_, rfl⟩
  | cons o os ih =>
    obtain ⟨x, hx⟩ := ih (s.setOwner stream o.1 { s.owner stream o.1 with openSet := some o.2 })
    exact ⟨x, by rw [State.noteOpen, hx]; rfl⟩

/-- What the allocation of a step's frame sets leaves. -/
theorem State.allocSets_leaves {s t : State} {p : Nat} {stream : StreamNo} {g : BitVec 256} {owners : List Nat}
    (h : s.allocSets p stream g owners = some t) : ∃ u : State, PagesTaken p s u ∧ ∃ x y, t = { u with ctx := y, pools := x } := by
  unfold State.allocSets at h
  dsimp only at h
  split at h
  · cases h
  · rename_i u hu
    obtain rfl := Option.some.inj h
    obtain ⟨y, hy⟩ := State.noteOpen_only stream.toNat
      ((u.pool p).openSets g stream (geomLayers g) (recipePages g (s.pageBytes p))
        (lowestFree (u.pool p).usedPages (owners.length * (geomLayers g + recipePages g (s.pageBytes p)))
          (u.rd PG_POOL_CTL_PAGES p + u.rd PG_POOL_CTL_EMERG p)) owners).2
      (u.setPool p ((u.pool p).openSets g stream (geomLayers g) (recipePages g (s.pageBytes p))
        (lowestFree (u.pool p).usedPages (owners.length * (geomLayers g + recipePages g (s.pageBytes p)))
          (u.rd PG_POOL_CTL_PAGES p + u.rd PG_POOL_CTL_EMERG p)) owners).1)
    exact ⟨u, State.takePages_taken hu, _, _, hy⟩

/-- A slot that may start is as it was before its frame sets. -/
structure SetsReady (p : Nat) (s t : State) : Prop where
  rot : t.rot = s.rot
  plots : t.plots = s.plots
  mem : t.mem = s.mem
  slots : t.count ctrSlots p = s.count ctrSlots p
  map : ∀ l < 2048, t.physOf l = s.physOf l
  arm : t.flag SLOT_WDOG_SEEP_ARM = s.flag SLOT_WDOG_SEEP_ARM
  target : t.rd SLOT_WDOG_SEEP_PART = s.rd SLOT_WDOG_SEEP_PART

theorem SetsReady.refl (p : Nat) (s : State) : SetsReady p s s := ⟨rfl, rfl, rfl, rfl, fun _ _ => rfl, rfl, rfl⟩

theorem regOff_pgStatus (p : Nat) : regOff .pgStatus p = 0x10038 + 0x800 * p := by simp [regOff, RegKind.place]

theorem State.setsReady_of_allocSets {s t : State} {p : Nat} (hp : p < 64) {stream : StreamNo} {g : BitVec 256} {owners : List Nat}
    (h : s.allocSets p stream g owners = some t) : SetsReady p s t := by
  obtain ⟨u, hu, x, y, rfl⟩ := State.allocSets_leaves h
  have hf := hu.frame
  have hrd : ∀ (f : Fld) (n : Nat), regOff f.reg n < 0x10000 ∨ 0x30000 ≤ regOff f.reg n → regOff f.reg n ≠ regOff .evtStatus 0 →
      u.rd f n = s.rd f n := fun f n h1 h2 => hu.rd f n (by rw [regOff_pgStatus]; omega) h2
  obtain ⟨hrot, hplots, hmem⟩ : u.rot = s.rot ∧ u.plots = s.plots ∧ u.mem = s.mem := by rw [hf]; exact ⟨rfl, rfl, rfl⟩
  refine ⟨hrot, hplots, hmem, ?_, fun l hl => ?_, ?_, ?_⟩
  · refine hu.count _ _ ?_ ?_ <;> (simp only [Ctr.off, Ctr.block, ctrSlots, ctrAllocPages, ctrEmergPages]; omega)
  · have he : regOff .evtStatus 0 = 0x268 := by decide
    have hm : ∀ f : Fld, f.reg = .mapEntry → u.rd f l = s.rd f l := fun f hf => hrd f l (by rw [hf, regOff_mapEntry]; omega)
      (by rw [hf, regOff_mapEntry, he]; omega)
    show u.physOf l = _
    unfold State.physOf
    rw [hm MAP_ENTRY_PX rfl, hm MAP_ENTRY_PY rfl]
  · show u.flag SLOT_WDOG_SEEP_ARM = _
    unfold State.flag
    rw [hrd SLOT_WDOG_SEEP_ARM 0 (.inl (by decide)) (by decide)]
  · exact hrd SLOT_WDOG_SEEP_PART 0 (.inl (by decide)) (by decide)

/-! ### SLOT_START -/

/-- A loading slot whose frame sets can be allocated, where its kind needs them, starts. -/
theorem exec_slotStart_starts {s : State} {part : PartNo} {c : Chunk} (hr : s.runs = true) (hc : (s.part part.toNat).slot.chunk = some c)
    (hph : (s.part part.toNat).slot.phase = .loading)
    (hs : c.kind = .frame ∨ c.kind = .observe → s.flag PG_POOL_CTL_ENABLE part.toNat = true ∧
      s.allocSets part.toNat c.stream (((s.model? (s.stream c.stream.toNat).model.toNat).map (·.geom)).getD 0) c.owners ≠ none) :
    ∃ t, SetsReady part.toNat s t ∧ exec (.slotStart part) s = .next (t.startSlot part.toNat c) := by
  by_cases hk : c.kind = .frame ∨ c.kind = .observe
  · obtain ⟨hen, hne⟩ := hs hk
    obtain ⟨t, ht⟩ := Option.ne_none_iff_exists'.1 hne
    refine ⟨t, State.setsReady_of_allocSets part.isLt ht, ?_⟩
    show execSlotStart part s = _
    rw [execSlotStart, State.issue_runs _ _ hr]
    simp only [hc, hph, hk, hen, ht]
    rfl
  · refine ⟨s, .refl _ s, ?_⟩
    show execSlotStart part s = _
    rw [execSlotStart, State.issue_runs _ _ hr]
    simp only [hc, hph, hk]
    rfl

/-- Settles O42: the chunk taken is the first that became ready (`pickChunk_first`), a load is what `loadSlot_leaves` says of it, an entry
that serves none is skipped (`skipEntry_leaves`), and a start is what `startSlot_leaves` says. -/
theorem slotsLoadAndStart : Obligations.SlotsLoadAndStart := by
  unfold Obligations.SlotsLoadAndStart
  rintro s part _ rfl hr hl hq
  refine ⟨fun pos e hpos he hmay hskip htrig => ?load, fun c hc hph hw hs => ?start⟩
  case load =>
    have hml : MayLoad s part.toNat pos e := ⟨hr, hpos, he, hmay, hskip, htrig⟩
    refine ⟨?taken, fun hp => ?skipped⟩
    case taken =>
      intro c o hp ho k im cold read
      refine ⟨fun hu => ?refused, fun hu hopen hf hwarm => ?loaded⟩
      case refused =>
        obtain ⟨o', ho', h1, h2, -⟩ := s.op_failOp stDenied 0 ho
        obtain ⟨cs, hcs⟩ := s.failOp_part o stDenied 0 part.toNat
        refine ⟨_, o', exec_slotLoad_takes hml hp, ?_, h1, h2, ?_⟩
        · rw [State.takeChunk_refused ho hu]; exact ho'
        · rw [State.takeChunk_refused ho hu, hcs]
          exact ⟨rfl, s.failOp_plots o stDenied 0, s.failOp_mem o stDenied 0⟩
      case loaded =>
        obtain ⟨ht, hin, hout, hparts, hop, hcis⟩ := State.loadSlot_leaves pos part.isLt hl hq ho hu hf hwarm
        have hex := exec_slotLoad_takes hml hp
        rw [State.takeChunk_loads ho hu hopen] at hex
        exact ⟨_, hex, ht.phase, ht.chunk, ht.entry, ht.seq, ht.slotSeq, ht.chunks, ht.fired,
          fun d hd hsv => State.pickChunk_first hp hd hsv,
          fun l hm => ⟨(hin l hm).loaded, (hin l hm).running, (hin l hm).part, (hin l hm).seq, (hin l hm).flume, (hin l hm).furrow⟩,
          hout, hparts, hop, hcis⟩
    case skipped =>
      obtain ⟨hpart, hcnt, hpl, hm, hh⟩ := s.skipEntry_leaves part.toNat pos
      refine ⟨_, exec_slotLoad_skips hml hp, ?_, ?_, ?_, ?_, hcnt, hpl, hm, hh⟩
      all_goals rw [hpart]
  case start =>
    obtain ⟨t, ht, hex⟩ := exec_slotStart_starts hr hc hph hs
    have hpart : t.part part.toNat = s.part part.toNat := by unfold State.part; rw [ht.rot]
    have hplots : t.partPlots part.toNat = s.partPlots part.toNat := State.partPlots_of_act (by rw [hpart])
    obtain ⟨h1, h2, h3, h4, h5, h6⟩ := State.startSlot_leaves (s := t) part.isLt (c := c) (by rw [hpart]; exact hc)
      (by rw [ht.arm, ht.target]; exact hw)
    refine ⟨_, hex, h1, h2, fun l hm => ?_, h4.trans (by rw [ht.slots]), h5.trans (by rw [ht.mem]), h6.trans (by rw [ht.mem])⟩
    rw [← ht.map l (s.partPlots_lt hm)]
    exact h3 l (by rw [hplots]; exact hm)

end Sys2Proof.Machine
end

section
/-! SUPPORT. What the accesses and the stores of a furrow word leave of its plot, of the tokens on the canal and of the host: messages over the
canal, requests of Cistern, writes of columns, and counts (R204, R232, R416, R581). -/

namespace Sys2Proof.Machine

/-- What the stores of a word leave: its plot but for the KEEP entries that a write reaches and the saturations counted, the host and the
canal, the words counted; and they arm no seep and leave no fault behind. -/
structure StoreKeeps (p : Nat) (s t : State) : Prop where
  plot : ∃ r n, t.plot p = { s.plot p with resident := r, satCount := n }
  host : t.host = s.host
  canal : t.canal = s.canal
  words : t.count ctrWords p = s.count ctrWords p
  armed : ∀ i, sget (0 : DWord) t.armed i = sget (0 : DWord) s.armed i ∨ sget (0 : DWord) t.armed i = 0
  inject : ∀ x ∈ t.inject, x ∈ s.inject

section
variable {p : Nat} {s t u : State}

theorem StoreKeeps.of_plot (hp : ∃ r n, t.plot p = { s.plot p with resident := r, satCount := n }) (hh : t.host = s.host)
    (hc : t.canal = s.canal) (hn : t.ctrs = s.ctrs) (ha : t.armed = s.armed) (hi : t.inject = s.inject) : StoreKeeps p s t :=
  ⟨hp, hh, hc, by unfold State.count; rw [hn], fun _ => .inl (by rw [ha]), fun _ h => by rwa [hi] at h⟩

theorem StoreKeeps.of_plots (hp : t.plots = s.plots) (hh : t.host = s.host) (hc : t.canal = s.canal) (hn : t.ctrs = s.ctrs)
    (ha : t.armed = s.armed) (hi : t.inject = s.inject) : StoreKeeps p s t :=
  .of_plot ⟨_, _, by unfold State.plot; rw [hp]⟩ hh hc hn ha hi

theorem StoreKeeps.refl (p : Nat) (s : State) : StoreKeeps p s s := .of_plots rfl rfl rfl rfl rfl rfl

theorem StoreKeeps.trans (h : StoreKeeps p s t) (g : StoreKeeps p t u) : StoreKeeps p s u := by
  obtain ⟨r, n, hp⟩ := h.plot
  obtain ⟨r', n', gp⟩ := g.plot
  refine ⟨⟨r', n', by rw [gp, hp]⟩, g.host.trans h.host, g.canal.trans h.canal, g.words.trans h.words, fun i => ?_,
    fun x hx => h.inject x (g.inject x hx)⟩
  rcases g.armed i with e | e
  · rw [e]; exact h.armed i
  · exact .inr e

/-- A quiet seep stays so. -/
theorem StoreKeeps.quiet (h : StoreKeeps p s t) {k : SeepKind} {i : Nat} (hq : s.seepQuiet k i = true) : t.seepQuiet k i = true := by
  have hw : t.armedWord k i = s.armedWord k i ∨ t.armedWord k i = 0 := h.armed _
  simp only [State.seepQuiet, State.seepArmed, Bool.and_eq_true, Bool.not_eq_true', List.all_eq_true] at hq ⊢
  refine ⟨?_, fun x hx => hq.2 x (h.inject x hx)⟩
  rcases hw with e | e
  · simpa only [e] using hq.1
  · simp only [e]; rfl

end

/-! ### Counts, seeps and stops -/

section
variable (p : Nat) (s : State)

theorem storeKeeps_bump {c : Ctr} {n : Nat} (k : Nat) (h : ctrWords.off p ≠ c.off n) : StoreKeeps p s (s.bump c n k) :=
  ⟨⟨_, _, by unfold State.plot; rw [State.bump_plots]⟩, s.bump_host _ _ _, s.bump_canal _ _ _, s.count_bump_other k h,
    fun _ => .inl (by rw [State.bump_armed]), fun _ h => by rwa [State.bump_inject] at h⟩

/-- The words of a plot are counted apart from the grants of partitions and the bytes of channels. -/
theorem ctrWords_apart (n : Nat) : (∀ c ∈ [ctrGrants, ctrReserveGrants, ctrCapWaits, ctrWalks], ctrWords.off p ≠ c.off n) ∧
    (n < 64 → ctrWords.off p ≠ ctrWriteBytes.off n) ∧ ctrWords.off p ≠ ctrXtsRetried.off 0 ∧
    ∀ c ∈ [ctrSatCalib, ctrRows, ctrFurrowSteps], ctrWords.off p ≠ c.off p := by
  simp [Ctr.off, Ctr.block, ctrWords, ctrGrants, ctrReserveGrants, ctrCapWaits, ctrWalks, ctrWriteBytes, ctrXtsRetried, ctrSatCalib, ctrRows,
    ctrFurrowSteps]
  omega

theorem storeKeeps_seep (k : SeepKind) (i n : Nat) (acts : DWord → Bool) : StoreKeeps p s (s.seepEvents k i n acts).st := by
  have keep : ∀ (x : State) (a : Sparse DWord) (r : Sparse DWord) (b : Sparse Nat) (j : List Injection), (∀ y ∈ j, y ∈ x.inject) →
      (∀ m, sget (0 : DWord) a m = sget (0 : DWord) x.armed m ∨ sget (0 : DWord) a m = 0) →
      StoreKeeps p x { x with regs := r, armed := a, seen := b, inject := j } := fun x a r b j hj ha =>
    ⟨⟨_, _, rfl⟩, rfl, rfl, rfl, ha, hj⟩
  unfold State.seepEvents
  split
  · split_ifs
    · exact .refl p s
    · exact keep s s.armed s.regs s.seen _ (fun y hy => List.mem_of_mem_erase hy) fun _ => .inl rfl
  · dsimp only
    split_ifs
    · exact .refl p s
    · unfold State.disarm
      dsimp only
      split_ifs
      · exact keep s s.armed _ s.seen s.inject (fun _ h => h) fun _ => .inl rfl
      · refine keep s _ _ _ s.inject (fun _ h => h) fun m => ?_
        by_cases hm : m = regOff (seepReg k) i
        · subst hm; exact .inr (sget_sput_same _ _ _ _)
        · exact .inl (sget_sput_other _ _ _ _ hm)
    · exact keep s s.armed s.regs _ s.inject (fun _ h => h) fun _ => .inl rfl

theorem storeKeeps_boot (b : BootS) : StoreKeeps p s { s with boot := b } := .of_plots rfl rfl rfl rfl rfl rfl
theorem storeKeeps_wr (f : Fld) (n v : Nat) : StoreKeeps p s (s.wr f n v) := .of_plots rfl rfl rfl rfl rfl rfl
theorem storeKeeps_emit (o : Output) : StoreKeeps p s (s.emit o) := .of_plots rfl rfl rfl rfl rfl rfl

theorem storeKeeps_wrAll (f : Fld) (v n : Nat) : StoreKeeps p s (wrAll f v n s) := by
  induction n generalizing s with
  | zero => exact .refl p s
  | succ n ih => exact (storeKeeps_wr p s f n v).trans (ih _)

theorem storeKeeps_stop (c d : Nat) : StoreKeeps p s (s.stop c d) := by
  have key : ∀ b : BootS, StoreKeeps p s ((wrAll CF_PORT_STATE 0 8 (wrAll DEX_HALF_STATE 0 2
      ((({ s with boot := b } : State).wr RST_CAUSE_STOP_CAUSE 0 c).wr RST_CAUSE_DETAIL 0 d))).emit (.ibi (BitVec.ofNat 8 (0x80 + c)))) := fun b =>
    (((((storeKeeps_boot p s b).trans (storeKeeps_wr p _ _ _ _)).trans (storeKeeps_wr p _ _ _ _)).trans (storeKeeps_wrAll p _ _ _ _)).trans
      (storeKeeps_wrAll p _ _ _ _)).trans (storeKeeps_emit p _ _)
  unfold State.stop
  dsimp only
  by_cases h : s.boot.stopped = true
  · rw [if_pos h]; exact .refl p s
  · rw [if_neg h]; exact key _

theorem storeKeeps_stopAny (c : Nat) : StoreKeeps p s (s.stopAny c) := by
  unfold State.stopAny
  by_cases h : s.boot.stopped = true
  · rw [if_pos h]; exact .refl p s
  · rw [if_neg h]
    exact .trans (t := { s with freeIdx := s.freeIdx + 1 }) (.of_plots rfl rfl rfl rfl rfl rfl) (storeKeeps_stop p _ _ _)

theorem storeKeeps_wmLog (k t d u : Nat) : StoreKeeps p s (s.wmLog k t d u) := by
  rw [State.wmLog, State.logFirst_only]
  exact .of_plots rfl rfl rfl rfl rfl rfl

/-! ### Requests of Cistern (R416, R423, R569) -/

theorem storeKeeps_newWindow (c : Nat) : StoreKeeps p s (s.newWindow c) := .of_plots rfl rfl rfl rfl rfl rfl

theorem storeKeeps_useGrant (c : Nat) : StoreKeeps p s (s.useGrant c) := by
  unfold State.useGrant
  dsimp only
  split_ifs <;> exact .of_plots rfl rfl rfl rfl rfl rfl

theorem storeKeeps_countGrant (c q : Nat) : StoreKeeps p s (s.countGrant c q) := by
  have hb : ∀ (x : State) (d : Ctr), d ∈ [ctrGrants, ctrReserveGrants, ctrCapWaits, ctrWalks] → StoreKeeps p x (x.bump d q) := fun x d hd =>
    storeKeeps_bump p x 1 ((ctrWords_apart p q).1 d hd)
  have go : ∀ (x : State) (y : CisS), StoreKeeps p s x → StoreKeeps p s (({ x with cis := y } : State).useGrant c) := fun x y h =>
    (h.trans (.of_plots (t := { x with cis := y }) rfl rfl rfl rfl rfl rfl)).trans (storeKeeps_useGrant p _ c)
  refine go _ _ ?_
  split_ifs
  · exact (hb s _ (by simp)).trans (hb _ _ (by simp))
  · exact hb s _ (by simp)

theorem storeKeeps_tagged (part : Option Nat) (c : Nat) : StoreKeeps p s (s.tagged part c) := by
  unfold State.tagged
  split
  · unfold State.grant_
    dsimp only
    split_ifs
    · exact ((storeKeeps_bump p s 1 ((ctrWords_apart p _).1 ctrCapWaits (by simp))).trans (storeKeeps_newWindow p _ c)).trans
        (storeKeeps_countGrant p _ _ _)
    · exact storeKeeps_countGrant p s _ _
  · exact storeKeeps_useGrant p s _

theorem storeKeeps_xtsCheck (u n : Nat) : StoreKeeps p s (s.xtsCheck u n) := by
  unfold State.xtsCheck
  dsimp only
  split
  · split_ifs
    · exact ((storeKeeps_seep p s _ _ _ _).trans (storeKeeps_wmLog p _ _ _ _ _)).trans (storeKeeps_stopAny p _ _)
    · exact (storeKeeps_seep p s _ _ _ _).trans (storeKeeps_bump p _ 1 (ctrWords_apart p 0).2.2.1)
  · exact storeKeeps_seep p s _ _ _ _

theorem storeKeeps_sendGranules (part : Option Nat) (k a n : Nat) : StoreKeeps p s (s.sendGranules part a n k) := by
  induction k generalizing s a n with
  | zero => exact .refl p s
  | succ k ih =>
    have h1 := ((storeKeeps_tagged p s part (s.chanBlock a).1).trans (storeKeeps_bump p _ (min n (256 - a % 256))
      ((ctrWords_apart p _).2.1 (s.chanBlock_lt a)))).trans (storeKeeps_xtsCheck p _ (s.chanBlock a).1 (blocksOf a (min n (256 - a % 256))))
    unfold State.sendGranules
    dsimp only
    split_ifs
    · exact h1
    · exact h1.trans (ih _ _ _)

theorem storeKeeps_cisSend (part : Option Nat) (a : Nat) (bs : List Byte) : StoreKeeps p s (s.cisSend part a bs) :=
  (storeKeeps_sendGranules p s part _ a _).trans (.of_plots rfl rfl rfl rfl rfl rfl)

/-! ### Writes of a stored tile (R204) -/

theorem storeKeeps_resvWrite (q off : Nat) (bs : List Byte) : StoreKeeps p s (s.resvWrite q off bs) := by
  unfold State.resvWrite
  dsimp only
  split_ifs
  · exact .refl p s
  · exact .of_plots rfl rfl rfl rfl rfl rfl
  · refine .of_plot ?_ rfl rfl rfl rfl rfl
    by_cases hq : p = q
    · subst hq; exact ⟨_, _, sget_sput_same _ _ _ _⟩
    · exact ⟨_, _, sget_sput_other _ _ _ _ hq⟩

theorem storeKeeps_srcWrite (q : Nat) (d : TileDesc) (a : Nat) (bs : List Byte) : StoreKeeps p s (s.srcWrite q d a bs) := by
  unfold State.srcWrite
  split_ifs
  · exact storeKeeps_resvWrite p s _ _ _
  · unfold State.masWrite State.bufWrite
    split_ifs
    · exact storeKeeps_resvWrite p s _ _ _
    · exact storeKeeps_cisSend p s _ _ _
  · exact storeKeeps_cisSend p s _ _ _

theorem storeKeeps_writeRow (q : Nat) (d : TileDesc) (t : TileRef) (vc i : Nat) (codes scales : List Nat) :
    StoreKeeps p s (s.writeRow q d t vc i codes scales) := by
  unfold State.writeRow
  dsimp only
  split_ifs
  · exact storeKeeps_srcWrite p s _ _ _ _
  · exact (storeKeeps_srcWrite p s _ _ _ _).trans (storeKeeps_srcWrite p _ _ _ _ _)

theorem storeKeeps_convSat (w : FurrowWord) (sat : List Bool) (n : Nat) : StoreKeeps p s (s.convSat p w sat n) := by
  unfold State.convSat
  dsimp only
  refine .trans (t := s.setPlot p _) (.of_plot ⟨_, _, State.plot_setPlot _ _ _⟩ rfl rfl rfl rfl rfl) (storeKeeps_bump p _ _ ?_)
  exact (ctrWords_apart p p).2.2.2 _ (by simp)

/-- A row of SRC1 always commits. -/
theorem State.convStoreRow_commits (x : Plot) (w : FurrowWord) (d : TileDesc) (t : TileRef) (i : Nat) : (State.convStoreRow p x w d t s i).2 = true := by
  unfold State.convStoreRow
  dsimp only
  split_ifs <;> rfl

theorem storeKeeps_convStoreRow (x : Plot) (w : FurrowWord) (d : TileDesc) (t : TileRef) (i : Nat) :
    StoreKeeps p s (State.convStoreRow p x w d t s i).1 := by
  unfold State.convStoreRow
  dsimp only
  split_ifs
  · exact (storeKeeps_writeRow p s _ _ _ _ _ _ _).trans (storeKeeps_convSat p _ _ _ _)
  · exact .refl p s

/-! ### The way to a stored tile (R320, R416, R581) -/

/-- The canal between a plot and the endpoint of a stored tile. -/
def State.wayTo (s : State) (p : Nat) (d : TileDesc) (t : TileRef) (write : Bool) : State × Bool :=
  if s.tileStation p d t = .plot p then (s, true)
  else if write then s.cross (.plot p) (s.tileStation p d t) else s.cross (s.tileStation p d t) (.plot p)

/-- A page tile passes the cache of the reach. -/
def State.passCache (s : State) (p : Nat) (d : TileDesc) (t : TileRef) (write : Bool) : State :=
  if d.src = 3 then s.cacheTouch (reachOf (s.plot p).lplot) (s.pageKey p d t) (pageTileBytes d.fmt) (!write) else s

/-- What an access meets at the stored tile: a column's words, the cache of the reach, or the channels. -/
def State.atTile (s : State) (p : Nat) (d : TileDesc) (t : TileRef) (write : Bool) : State × Bool :=
  let rows := (validExtent (s.refRows (s.plot p) d t) d.cols t.r t.c).1
  let s2 := s.passCache p d t write
  if !write && (d.src = 0 || d.src = 2) then
    match s.resvRead (reachOf (s.plot p).lplot) (s.colPlot p d) (s.rowAddr (s.plot p) d t 0).1 8 with
    | (true, s3) => (s3, true)
    | (false, s3) => (s3.failPlot p stMemUncorrectable, false)
  else if s.pageCached p d t && !write || !s2.tileInCistern p d t then (s2, true)
  else if write then (s2.rowsSent p d t 0 rows, true)
  else
    let r := s2.rowsRead p d t 0 rows
    if r.1 = stOk then (r.2, true) else (r.2.failPlot p r.1, false)

theorem State.reachTile_eq (s : State) (p : Nat) (d : TileDesc) (t : TileRef) (write : Bool) : s.reachTile p d t write =
    match s.wayTo p d t write with
    | (s1, false) => (s1, false)
    | (s1, true) => s1.atTile p d t write := rfl

/-- An access that arrives has crossed the canal. -/
theorem State.reachTile_arrives {s : State} {p : Nat} {d : TileDesc} {t : TileRef} {write : Bool} (h : (s.reachTile p d t write).2 = true) :
    (s.wayTo p d t write).2 = true ∧ s.reachTile p d t write = (s.wayTo p d t write).1.atTile p d t write := by
  rw [State.reachTile_eq] at h ⊢
  generalize s.wayTo p d t write = m at h ⊢
  obtain ⟨s1, _ | _⟩ := m
  · exact absurd h Bool.false_ne_true
  · exact ⟨rfl, rfl⟩

/-- A message that arrives. -/
theorem storeKeeps_overRoute (a b : Station) (hops : List Hop) (h : (s.overRoute a b hops).2 = true) : StoreKeeps p s (s.overRoute a b hops).1 := by
  induction hops generalizing s with
  | nil => exact .refl p s
  | cons x xs ih =>
    cases x with
    | segment _ _ => exact ih s h
    | link q d =>
      have h0 := storeKeeps_seep p s .plot q 1 fun w => seepTarget .plot w = 6 && getBits w 5 7 = d
      rw [State.overRoute] at h ⊢
      generalize s.seepEvents .plot q 1 (fun w => seepTarget .plot w = 6 && getBits w 5 7 = d) = e at h h0 ⊢
      cases hw : e.word with
      | none =>
        simp only [hw] at h ⊢
        exact h0.trans (ih _ h)
      | some w =>
        simp only [hw] at h ⊢
        split_ifs at h ⊢
        exact h0.trans (ih _ h)

theorem storeKeeps_cross (a b : Station) (h : (s.cross a b).2 = true) : StoreKeeps p s (s.cross a b).1 := by
  unfold State.cross at h ⊢
  split_ifs at h ⊢
  · exact storeKeeps_overRoute p s a b _ h
  · exact .refl p s

theorem storeKeeps_rowsSent (q : Nat) (d : TileDesc) (t : TileRef) (n i : Nat) : StoreKeeps p s (s.rowsSent q d t i n) := by
  induction n generalizing s i with
  | zero => exact .refl p s
  | succ n ih => exact (storeKeeps_sendGranules p s _ _ _ _).trans (ih _ _)

theorem storeKeeps_cacheTouch (reach key bytes : Nat) : StoreKeeps p s (s.cacheTouch reach key bytes false) := by
  unfold State.cacheTouch
  simp only [Bool.false_eq_true, if_false]
  exact .of_plots rfl rfl rfl rfl rfl rfl

theorem storeKeeps_wayTo (d : TileDesc) (t : TileRef) (write : Bool) (h : (s.wayTo p d t write).2 = true) :
    StoreKeeps p s (s.wayTo p d t write).1 := by
  unfold State.wayTo at h ⊢
  split_ifs at h ⊢
  · exact .refl p s
  · exact storeKeeps_cross p s _ _ h
  · exact storeKeeps_cross p s _ _ h

theorem storeKeeps_passCache (d : TileDesc) (t : TileRef) : StoreKeeps p s (s.passCache p d t true) := by
  unfold State.passCache
  split_ifs
  · exact storeKeeps_cacheTouch p s _ _ _
  · exact .refl p s

theorem storeKeeps_atTile (d : TileDesc) (t : TileRef) : StoreKeeps p s (s.atTile p d t true).1 := by
  have hc := storeKeeps_passCache p s d t
  unfold State.atTile
  simp only [Bool.not_true, Bool.false_and, Bool.and_false, Bool.false_or, Bool.false_eq_true, if_false, if_true]
  split_ifs
  · exact hc
  · exact hc.trans (storeKeeps_rowsSent p _ _ _ _ _ _)

/-- A write that reaches its stored tile. -/
theorem storeKeeps_reachTile (d : TileDesc) (t : TileRef) (h : (s.reachTile p d t true).2 = true) : StoreKeeps p s (s.reachTile p d t true).1 := by
  obtain ⟨hw, he⟩ := State.reachTile_arrives h
  rw [he]
  exact (storeKeeps_wayTo p s d t true hw).trans (storeKeeps_atTile p _ d t)

end

end Sys2Proof.Machine
end

section
/-! SUPPORT. The rows of a word that writes no ROW or ELEM result, and its retirement (R166, R212, R214, R220). -/

namespace Sys2Proof.Machine

/-! ### Rows (R212) -/

section
variable {p : Nat} {one : State → Nat → State × Bool}

/-- With no seep of the furrow acting, the rows inside the extent commit in order. -/
theorem State.rowsFrom_quiet (op fop index cols : Nat) {rows : Nat} (hone : ∀ u i, (one u i).2 = true)
    (hk : ∀ u i, u.seepQuiet .furrow p = true → (one u i).1.seepQuiet .furrow p = true) (n r : Nat) {s : State}
    (hq : s.seepQuiet .furrow p = true) : s.rowsFrom p op fop index rows cols one r n =
      ((List.range' r (min rows (r + n) - r)).foldl (fun u i => (one u i).1) s, true) := by
  induction n generalizing r s with
  | zero => simp [State.rowsFrom]
  | succ n ih =>
    have henter : s.rowEnter p op fop index r rows cols = (s, true) := by
      unfold State.rowEnter
      rw [s.seepEvents_quiet _ _ hq]
      rfl
    rw [State.rowsFrom, henter]
    by_cases hr : r < rows
    · have hlen : min rows (r + (n + 1)) - r = (min rows (r + 1 + n) - (r + 1)) + 1 := by omega
      have hrow : one s r = ((one s r).1, true) := Prod.ext rfl (hone s r)
      simp only [if_pos hr]
      rw [hrow, hlen, List.range'_succ]
      exact ih (r + 1) (hk s r hq)
    · have h0 : min rows (r + (n + 1)) - r = 0 := by omega
      have h1 : min rows (r + 1 + n) - (r + 1) = 0 := by omega
      simp only [if_neg hr]
      rw [ih (r + 1) hq, h0, h1]
      rfl

end

/-! ### Retirement (R166, R214) -/

/-- A word behind its last row: its rows are counted, its stream goes on, and it retires. -/
def State.fuDone (s : State) (p rows : Nat) (w : FurrowWord) : State := ((s.bump ctrRows p rows).advance p .furrow).fuRetire p w

/-- A word that may issue and whose accesses arrive takes its rows and retires. -/
theorem State.fuFinish_done {s s1 : State} {p op fop rows cols : Nat} {w : FurrowWord} {it : ExpItem} {gate : SrcAccess}
    {enter : State → State × Bool} {one : State → Nat → State × Bool} {last : State → State} (hg : gate = .ok) (he : enter s = (s1, true))
    (hq : s1.seepQuiet .furrow p = true) (hone : ∀ u i, (one u i).2 = true)
    (hk : ∀ u i, u.seepQuiet .furrow p = true → (one u i).1.seepQuiet .furrow p = true) (hr : rows ≤ 64) :
    s.fuFinish p op fop rows cols w it gate enter one last =
      (last ((List.range rows).foldl (fun u i => (one u i).1) s1)).fuDone p rows w := by
  have hrows := State.rowsFrom_quiet op fop (s1.plot p).fuIndex cols (rows := rows) hone hk 64 0 hq
  rw [Nat.zero_add, Nat.min_eq_left hr, Nat.sub_zero, ← List.range_eq_range'] at hrows
  subst hg
  unfold State.fuFinish
  simp only [he, hrows]
  rfl

/-- What a word's retirement leaves of the state behind its rows. -/
structure WordDone (u t : State) (p : Nat) (w : FurrowWord) : Prop where
  tile : ∀ k, ¬(w.rel1 = true ∧ k = w.src1.toNat) → (t.plot p).tile k = (u.plot p).tile k
  freed : w.rel1 = true → (t.plot p).tile w.src1.toNat = { data := ((u.plot p).tile w.src1.toNat).data }
  stage : ∀ b k, (t.plot p).stage b k = (u.plot p).stage b k
  token : ∀ c, (t.plot p).counter c = (u.plot p).counter c + (if w.sig = true ∧ c = w.sigc.toNat ∧ c ≠ 0 then 1 else 0)
  sat : (t.plot p).satCount = (u.plot p).satCount
  stoch : (t.plot p).stoch = (u.plot p).stoch
  counted : t.count ctrWords p = satAdd (u.count ctrWords p) 1
  mem : t.mem = u.mem
  host : t.host = u.host
  canal : t.canal = u.canal

/-- A plot as a word leaves it: its token counted, SRC1 released where the word says so. -/
def Plot.retire (x : Plot) (w : FurrowWord) : Plot :=
  let y := if w.sig then x.addCounter w.sigc.toNat 1 else x
  { (if w.rel1 then y.freeTile w.src1.toNat else y) with fuRun := none }

theorem Plot.pendFail_retire (x : Plot) (w : FurrowWord) : (x.retire w).pendFail = x.pendFail := by
  unfold Plot.retire Plot.addCounter
  dsimp only
  split_ifs <;> rfl

theorem State.fuRetire_running {s : State} {p : Nat} (w : FurrowWord) (hr : (s.plot p).running = true) (hp : (s.plot p).pendFail = none) :
    s.fuRetire p w = ((s.setPlot p ((s.plot p).retire w)).bump ctrWords p).bump ctrFurrowSteps p 64 := by
  have hn : ((((s.setPlot p ((s.plot p).retire w)).bump ctrWords p).bump ctrFurrowSteps p 64).plot p).pendFail = none := by
    have : (((s.setPlot p ((s.plot p).retire w)).bump ctrWords p).bump ctrFurrowSteps p 64).plot p = (s.plot p).retire w := by
      unfold State.plot
      rw [State.bump_plots, State.bump_plots]
      exact State.plot_setPlot _ _ _
    rw [this, Plot.pendFail_retire, hp]
  have he : s.fuRetire p w = (((s.setPlot p ((s.plot p).retire w)).bump ctrWords p).bump ctrFurrowSteps p 64).reportOverflow p := by
    unfold State.fuRetire
    exact if_neg (by simp [hr])
  rw [he]
  unfold State.reportOverflow
  dsimp only
  rw [hn]

/-- What a plot's last change leaves of its stores, by its release and its token. -/
theorem Plot.retire_leaves (x : Plot) (w : FurrowWord) :
    (∀ k, ¬(w.rel1 = true ∧ k = w.src1.toNat) → (x.retire w).tile k = x.tile k) ∧
    (w.rel1 = true → (x.retire w).tile w.src1.toNat = { data := (x.tile w.src1.toNat).data }) ∧
    (∀ b k, (x.retire w).stage b k = x.stage b k) ∧
    (∀ c, (x.retire w).counter c = x.counter c + (if w.sig = true ∧ c = w.sigc.toNat ∧ c ≠ 0 then 1 else 0)) ∧
    (x.retire w).satCount = x.satCount ∧ (x.retire w).stoch = x.stoch := by
  have hcount : ∀ c, (if w.sig then x.addCounter w.sigc.toNat 1 else x).counter c =
      x.counter c + (if w.sig = true ∧ c = w.sigc.toNat ∧ c ≠ 0 then 1 else 0) := fun c => by
    cases w.sig
    · simp
    · rw [if_pos rfl, Plot.counter_addCounter]
      by_cases hc : c = w.sigc.toNat
      · subst hc; simp
      · simp [hc]
  have hsame : ∃ c, (if w.sig then x.addCounter w.sigc.toNat 1 else x) = { x with ctr := c } := by
    unfold Plot.addCounter
    split_ifs <;> exact ⟨_, rfl⟩
  unfold Plot.retire
  dsimp only
  obtain ⟨c, hc⟩ := hsame
  rw [hc] at hcount ⊢
  cases w.rel1
  · exact ⟨fun _ _ => rfl, fun h => absurd h Bool.false_ne_true, fun _ _ => rfl, hcount, rfl, rfl⟩
  · exact ⟨fun k hk => Plot.tile_setTile_other _ _ fun e => hk ⟨rfl, e⟩, fun _ => Plot.tile_setTile _ _ _, fun _ _ => rfl, hcount, rfl, rfl⟩

theorem State.wordDone_fuDone {u : State} {p : Nat} (rows : Nat) (w : FurrowWord) (hr : (u.plot p).running = true)
    (hp : (u.plot p).pendFail = none) : WordDone u (u.fuDone p rows w) p w := by
  obtain ⟨q, ps, hplot⟩ := State.advance_plot (u.bump ctrRows p rows) p .furrow
  obtain ⟨x, pools, honly⟩ := State.advance_only (u.bump ctrRows p rows) p .furrow
  have hb : (u.bump ctrRows p rows).plot p = u.plot p := by unfold State.plot; rw [State.bump_plots]
  rw [hb] at hplot
  generalize hv : (u.bump ctrRows p rows).advance p .furrow = v at hplot honly
  have hdone : u.fuDone p rows w = ((v.setPlot p ((v.plot p).retire w)).bump ctrWords p).bump ctrFurrowSteps p 64 := by
    unfold State.fuDone
    rw [hv]
    exact State.fuRetire_running w (by rw [hplot]; exact hr) (by rw [hplot]; exact hp)
  have hfin : (u.fuDone p rows w).plot p = (v.plot p).retire w := by
    rw [hdone]
    unfold State.plot
    rw [State.bump_plots, State.bump_plots]
    exact State.plot_setPlot _ _ _
  obtain ⟨htile, hfreed, hstage, htoken, hsat, hstoch⟩ := (v.plot p).retire_leaves w
  have happ := (ctrWords_apart p p).2.2.2
  rw [← hfin, hplot] at htile hfreed hstage htoken hsat hstoch
  refine ⟨htile, hfreed, hstage, htoken, hsat, hstoch, ?counted, ?mem, ?host, ?canal⟩
  case counted =>
    have hw : v.count ctrWords p = u.count ctrWords p := by
      rw [honly]
      exact u.count_bump_other rows (happ ctrRows (by simp))
    rw [hdone, State.count_bump_other _ _ (happ ctrFurrowSteps (by simp)), State.count_bump]
    exact congrArg (satAdd · 1) hw
  all_goals rw [hdone, honly]; simp

/-- A word that has changed its destinations alone has retired as R166 has it. -/
theorem WordDone.retired {s u t : State} {p : PPlot} {w : FurrowWord} {dsts : List Nat} (h : WordDone u t p.toNat w)
    (hlive : ∀ d ∈ dsts, ((u.plot p.toNat).tile d).st = .live) (htile : ∀ k, k ∉ dsts → (u.plot p.toNat).tile k = (s.plot p.toNat).tile k)
    (hctr : ∀ c, (u.plot p.toNat).counter c = (s.plot p.toNat).counter c) (hw : u.count ctrWords p.toNat = s.count ctrWords p.toNat)
    (hm : u.mem = s.mem) (hh : u.host = s.host) (hc : u.canal = s.canal) : FurrowRetired s t p w dsts where
  live d hd := by
    by_cases hk : w.rel1 = true ∧ d = w.src1.toNat
    · exact .inl hk
    · exact .inr (by rw [h.tile d hk]; exact hlive d hd)
  released hr := by rw [h.freed hr]
  others k hk hn := (h.tile k hn).trans (htile k hk)
  token c := by rw [h.token c, hctr c]
  counted := by rw [h.counted, hw]
  mem := h.mem.trans hm
  host := h.host.trans hh
  canal := h.canal.trans hc

/-- A released tile keeps its elements. -/
theorem WordDone.data {u t : State} {p : Nat} {w : FurrowWord} (h : WordDone u t p w) (k : Nat) :
    ((t.plot p).tile k).data = ((u.plot p).tile k).data := by
  by_cases hk : w.rel1 = true ∧ k = w.src1.toNat
  · obtain ⟨hr, rfl⟩ := hk; rw [h.freed hr]
  · rw [h.tile k hk]

/-- With no seep of a plot acting, an access to its stores leaves the state. -/
theorem State.enterStores_quiet {s : State} {p : Nat} (l : List (Nat × Nat)) (h : s.seepQuiet .plot p = true) : s.enterStores p l = (s, true) := by
  have hl : ∀ l : List (Nat × Nat), s.touches_ p l = s := fun l => by
    induction l with
    | nil => rfl
    | cons x xs ih => rw [State.touches_, s.touch_quiet _ _ h, ih]
  unfold State.enterStores
  simp [hl]

end Sys2Proof.Machine
end

section
/-! SUPPORT. Conversions of SRC1 into staging slots, and to stored tiles (R96, R204, R220, R231, R232). -/

namespace Sys2Proof.Machine

/-! ### Saturations counted (R232) -/

/-- A conversion reads of the state the slot and its operation alone, beside the plot. -/
theorem State.convTileRow_congr {s u : State} (hr : u.rot = s.rot) (hh : u.host = s.host) (x : Plot) (w : FurrowWord) (r : Nat) :
    u.convTileRow x w r = s.convTileRow x w r := by
  unfold State.convTileRow State.draw State.philoxKey State.part State.op?
  rw [hr, hh]

/-- Nothing but a plot's count of saturations, which stands at n, and counters have changed. -/
structure SatCounted (p : Nat) (s u : State) (n : Nat) : Prop where
  plot : u.plot p = { s.plot p with satCount := n }
  rot : u.rot = s.rot
  mem : u.mem = s.mem
  keeps : StoreKeeps p s u

theorem satCounted_convSat (p : Nat) (s : State) (w : FurrowWord) (sat : List Bool) (n : Nat) :
    SatCounted p s (s.convSat p w sat n) (min 0xFFFFFF ((s.plot p).satCount + if w.calib then ((sat.take n).filter id).length else 0)) := by
  refine ⟨?_, ?_, ?_, storeKeeps_convSat p s w sat n⟩
  · unfold State.convSat State.plot
    rw [State.bump_plots]
    exact State.plot_setPlot _ _ _
  · unfold State.convSat
    rw [State.bump_rot]
    rfl
  · unfold State.convSat
    rw [State.bump_mem]
    rfl

/-- The rows of SRC1 converted one after another count their saturations together. -/
theorem satCounted_rows (p : Nat) (s : State) (x : Plot) (w : FurrowWord) (hs : (s.plot p).satCount ≤ 0xFFFFFF) (l : List Nat) :
    SatCounted p s (l.foldl (fun u i => u.convSat p w (u.convTileRow x w i).2.2 64) s) (min 0xFFFFFF ((s.plot p).satCount +
      if w.calib then (l.map fun r => (((s.convTileRow x w r).2.2.take 64).filter id).length).sum else 0)) := by
  induction l using List.reverseRecOn with
  | nil => exact ⟨by simp [Nat.min_eq_right hs], rfl, rfl, .refl p s⟩
  | append_singleton l i ih =>
    rw [List.foldl_append, List.foldl_cons, List.foldl_nil]
    generalize l.foldl (fun u i => u.convSat p w (u.convTileRow x w i).2.2 64) s = u at ih ⊢
    have h := satCounted_convSat p u w (u.convTileRow x w i).2.2 64
    rw [State.convTileRow_congr ih.rot ih.keeps.host] at h ⊢
    refine ⟨?_, h.rot.trans ih.rot, h.mem.trans ih.mem, ih.keeps.trans h.keeps⟩
    rw [h.plot, ih.plot]
    have hsum : ∀ a b c : Nat, min 0xFFFFFF (min 0xFFFFFF (a + b) + c) = min 0xFFFFFF (a + (b + c)) := fun a b c => by omega
    cases w.calib <;> simp [hsum]

/-! ### CONV_STAGE and CONV_BANK (R220) -/

theorem Plot.setStage_only (x : Plot) (bank : Bool) (n : Nat) (v : StageSlot) :
    ∃ b r, x.setStage bank n v = { x with bank := b, rowStage := r } := by
  cases bank <;> exact ⟨_, _, rfl⟩

theorem Plot.convDone_eq (x : Plot) (w : FurrowWord) : x.convDone w = { x with stoch := x.stoch + (if w.sr then 1 else 0) } := by
  unfold Plot.convDone
  cases w.sr <;> rfl

/-- The operand that SRC1 converted gives (R220). -/
def State.operandOf (s : State) (x : Plot) (w : FurrowWord) : StageSlot :=
  { full := true, fmt := w.fmt.toNat, negInf := false,
    data := (List.range 64).flatMap fun r => packRow (fmtBits w.fmt.toNat) (s.convTileRow x w r).1,
    scales := if fmtTensor w.fmt.toNat then [BitVec.ofNat 8 w.x.toNat]
      else (List.range 64).flatMap fun r => (s.convTileRow x w r).2.1.map (BitVec.ofNat 8) }

/-- An operand put into staging slot n, a binary32 one into two slots. -/
def Plot.putOperand (x : Plot) (bank : Bool) (n : Nat) (g : StageSlot) : Plot :=
  if g.fmt = 0 then (x.setStage bank n { g with data := g.data.take 8192 }).setStage bank (n + 1) { g with data := g.data.drop 8192 }
  else x.setStage bank n g

theorem State.convStage_eq (s : State) (p : Nat) (w : FurrowWord) (bank : Bool) (n : Nat) :
    s.convStage p w bank n = s.setPlot p (((s.plot p).putOperand bank n (s.operandOf (s.plot p) w)).convDone w) := by
  unfold State.convStage Plot.putOperand State.operandOf
  simp only [List.flatMap_map]

theorem Plot.putOperand_only (x : Plot) (bank : Bool) (n : Nat) (g : StageSlot) :
    ∃ b r, x.putOperand bank n g = { x with bank := b, rowStage := r } := by
  unfold Plot.putOperand
  split_ifs
  · obtain ⟨b, r, h⟩ := x.setStage_only bank n { g with data := g.data.take 8192 }
    obtain ⟨b', r', h'⟩ := Plot.setStage_only { x with bank := b, rowStage := r } bank (n + 1) { g with data := g.data.drop 8192 }
    exact ⟨b', r', by rw [h, h']⟩
  · exact x.setStage_only bank n g

theorem Plot.putOperand_satCount (x : Plot) (bank : Bool) (n m : Nat) (g : StageSlot) :
    ({ x with satCount := m } : Plot).putOperand bank n g = { x.putOperand bank n g with satCount := m } := by
  unfold Plot.putOperand
  cases bank <;> split_ifs <;> rfl

/-- Slots of an operand: FULL, in its format and with its scales, its rows in one slot or in two. -/
theorem Plot.stage_putOperand (x : Plot) (bank : Bool) (n : Nat) (g : StageSlot) :
    ((x.putOperand bank n g).stage bank n).full = g.full ∧ ((x.putOperand bank n g).stage bank n).fmt = g.fmt ∧
    (g.fmt ≠ 0 → ((x.putOperand bank n g).stage bank n).data = g.data) ∧
    (g.fmt = 0 → ((x.putOperand bank n g).stage bank n).data ++ ((x.putOperand bank n g).stage bank (n + 1)).data = g.data) ∧
    ((x.putOperand bank n g).stage bank n).scales = g.scales := by
  unfold Plot.putOperand
  by_cases hf : g.fmt = 0
  · rw [if_pos hf, Plot.stage_setStage, Plot.stage_setStage_other _ _ (.inr (by omega)), Plot.stage_setStage]
    exact ⟨rfl, rfl, fun h => absurd hf h, fun _ => List.take_append_drop 8192 _, rfl⟩
  · rw [if_neg hf, Plot.stage_setStage]
    exact ⟨rfl, rfl, fun _ => rfl, fun h => absurd h hf, rfl⟩

theorem State.stageWord_done {s : State} {p : Nat} {w : FurrowWord} {bank : Bool} {n : Nat} (fop : Nat) (it : ExpItem)
    (hg : (s.plot p).srcGate w.src1.toNat = .ok) (hd : convDenied w = false) (hn : bank = false → w.dst.toNat < 8)
    (he : ((s.plot p).stage bank n).full = false) (he2 : w.fmt.toNat = 0 → ((s.plot p).stage bank (n + 1)).full = false)
    (hf : s.seepQuiet .furrow p = true) (hp : s.seepQuiet .plot p = true) (hr : ((s.plot p).tile w.src1.toNat).rows ≤ 64) :
    s.stageWord p (s.plot p) w fop it bank n = (((List.range ((s.plot p).tile w.src1.toNat).rows).foldl
      (fun u i => u.convSat p w (u.convTileRow (s.plot p) w i).2.2 64) s).convStage p w bank n).fuDone p
        ((s.plot p).tile w.src1.toNat).rows w := by
  have hfull : (((s.plot p).stage bank n).full || (w.fmt = 0 && ((s.plot p).stage bank (n + 1)).full)) = false := by
    by_cases h0 : w.fmt = 0
    · simp [he, he2 (by rw [h0]; rfl)]
    · rw [he, decide_eq_false h0]; rfl
  have hok : ¬(convDenied w = true ∨ ((!bank) = true ∧ 8 ≤ w.dst.toNat)) := by
    cases bank
    · have := hn rfl
      simp [hd, this]
    · simp [hd]
  unfold State.stageWord
  extract_lets full src gate
  have hgate : gate = .ok := by
    simp only [gate, hg, if_neg hok]
    exact if_neg (by rw [show full = false from hfull]; exact Bool.false_ne_true)
  have hk : ∀ (u : State) (i : Nat), u.seepQuiet .furrow p = true →
      (u.convSat p w (u.convTileRow (s.plot p) w i).2.2 64).seepQuiet .furrow p = true := fun u i h =>
    (storeKeeps_convSat p u w _ 64).quiet h
  exact State.fuFinish_done hgate (State.enterStores_quiet _ hp) hf (fun _ _ => rfl) hk hr

/-- A conversion into EMPTY slots leaves them FULL with the converted rows of SRC1, and retires. -/
theorem State.stageWord_stages {s : State} {p : PPlot} {w : FurrowWord} {bank : Bool} {n : Nat} (fop : Nat) (it : ExpItem)
    (hg : (s.plot p.toNat).srcGate w.src1.toNat = .ok) (hd : convDenied w = false) (hn : bank = false → w.dst.toNat < 8)
    (he : ((s.plot p.toNat).stage bank n).full = false)
    (he2 : w.fmt.toNat = 0 → ((s.plot p.toNat).stage bank (n + 1)).full = false) (hf : s.seepQuiet .furrow p.toNat = true)
    (hp : s.seepQuiet .plot p.toNat = true) (hrun : (s.plot p.toNat).running = true) (hpend : (s.plot p.toNat).pendFail = none)
    (hr : ((s.plot p.toNat).tile w.src1.toNat).rows ≤ 64) (hsat : (s.plot p.toNat).satCount ≤ 0xFFFFFF) :
    let x := s.plot p.toNat
    let t := s.stageWord p.toNat x w fop it bank n
    FurrowRetired s t p w [] ∧ (∀ k, (t.plot p.toNat).stage bank k = (x.putOperand bank n (s.operandOf x w)).stage bank k) ∧
    (t.plot p.toNat).satCount = min 0xFFFFFF (x.satCount + if w.calib then ((List.range (x.tile w.src1.toNat).rows).map fun r =>
      (((s.convTileRow x w r).2.2.take 64).filter id).length).sum else 0) ∧
    (t.plot p.toNat).stoch = x.stoch + (if w.sr then 1 else 0) := by
  intro x t
  have hc := satCounted_rows p.toNat s x w hsat (List.range (x.tile w.src1.toNat).rows)
  have ht : t = _ := State.stageWord_done fop it hg hd hn he he2 hf hp hr
  rw [State.convStage_eq] at ht
  generalize (List.range (x.tile w.src1.toNat).rows).foldl (fun u i => u.convSat p.toNat w (u.convTileRow x w i).2.2 64) s = u at hc ht
  have hop : u.operandOf (u.plot p.toNat) w = s.operandOf x w := by
    unfold State.operandOf
    rw [hc.plot]
    simp only [State.convTileRow_congr hc.rot hc.keeps.host]
    rfl
  obtain ⟨b, r, hput⟩ := x.putOperand_only bank n (s.operandOf x w)
  rw [hop, hc.plot, Plot.convDone_eq, Plot.putOperand_satCount] at ht
  generalize hy : ({ x.putOperand bank n (s.operandOf x w) with satCount := _, stoch := _ } : Plot) = y at ht
  have hv : (u.setPlot p.toNat y).plot p.toNat = y := State.plot_setPlot _ _ _
  have hdone := State.wordDone_fuDone (u := u.setPlot p.toNat y) (x.tile w.src1.toNat).rows w
    (by rw [hv, ← hy, hput]; exact hrun) (by rw [hv, ← hy, hput]; exact hpend)
  rw [← ht] at hdone
  refine ⟨hdone.retired (by simp) (fun k _ => ?_) (fun c => ?_) hc.keeps.words hc.mem hc.keeps.host hc.keeps.canal, fun k => ?_, ?_, ?_⟩
  · rw [hv, ← hy, hput]; rfl
  · rw [hv, ← hy, hput]; rfl
  · rw [hdone.stage, hv, ← hy]; rfl
  · rw [hdone.sat, hv, ← hy]
  · rw [hdone.stoch, hv, ← hy, hput]

end Sys2Proof.Machine
end

section
/-! SUPPORT. SRC1 written to a stored tile (R204, R231), and a stored tile read into DST (R220, R232). -/

namespace Sys2Proof.Machine

/-! ### CONV_RES and STORE -/

/-- The stored tile that a word writes: of a PAGE descriptor, in the page of its owner's open set (R303). -/
def State.storeRef (s : State) (x : Plot) (w : FurrowWord) (it : ExpItem) : TileRef :=
  let t := (s.fuTile x w it).1
  if (imgDesc (s.imgOf x) t.desc).src = 3 then { t with walk := s.pageTarget x (imgDesc (s.imgOf x) t.desc) } else t

/-- Its descriptor, in the word's format. -/
def State.storeDesc (s : State) (x : Plot) (w : FurrowWord) (it : ExpItem) : TileDesc :=
  { imgDesc (s.imgOf x) (s.fuTile x w it).1.desc with fmt := w.fmt.toNat }

/-- Whether CONV_RES or STORE may issue. -/
def State.storeGate (s : State) (p : Nat) (x : Plot) (w : FurrowWord) (it : ExpItem) (denied : TileDesc → Bool) : SrcAccess :=
  let d0 := imgDesc (s.imgOf x) (s.fuTile x w it).1.desc
  match x.srcGate w.src1.toNat with
  | .ok =>
      if denied d0 || ((s.storeDesc x w it).src = 3 && (s.pageDenied x d0 || (s.storeRef x w it).walk = [])) then .fail stDenied
      else s.tileAccess p (s.storeDesc x w it) (s.storeRef x w it) true
  | g => g

/-- Its tile read, and the way to the stored tile. -/
def State.storeEnter (s : State) (p : Nat) (w : FurrowWord) (d : TileDesc) (t : TileRef) : State × Bool :=
  match s.enterStores p [(0, w.src1.toNat)] with
  | (s1, true) => s1.reachTile p d t true
  | r => r

theorem State.storeWord_eq (s : State) (p : Nat) (x : Plot) (it : ExpItem) (w : FurrowWord) (op fop : Nat) (denied : TileDesc → Bool) :
    s.storeWord p x it w op fop denied = s.fuFinish p op fop
      (validExtent (s.refRows x (s.storeDesc x w it) (s.storeRef x w it)) (s.storeDesc x w it).cols (s.storeRef x w it).r (s.storeRef x w it).c).1
      (x.tile w.src1.toNat).cols w it (s.storeGate p x w it denied) (fun u => u.storeEnter p w (s.storeDesc x w it) (s.storeRef x w it))
      (State.convStoreRow p x w (s.storeDesc x w it) (s.storeRef x w it)) fun u => u.setPlot p ((u.plot p).convDone w) := rfl

/-- The rows of SRC1 written after the state in which the access arrives. -/
def State.stored (s : State) (p : Nat) (x : Plot) (w : FurrowWord) (d : TileDesc) (t : TileRef) (rows : Nat) : State :=
  (List.range rows).foldl (fun u i => (State.convStoreRow p x w d t u i).1) s

theorem storeKeeps_stored (s : State) (p : Nat) (x : Plot) (w : FurrowWord) (d : TileDesc) (t : TileRef) (rows : Nat) :
    StoreKeeps p s (s.stored p x w d t rows) := by
  unfold State.stored
  induction rows with
  | zero => exact .refl p s
  | succ n ih =>
    rw [List.range_succ, List.foldl_append]
    exact ih.trans (storeKeeps_convStoreRow p _ x w d t n)

theorem validExtent_le (rows cols r c : Nat) : (validExtent rows cols r c).1 ≤ 64 ∧ (validExtent rows cols r c).2 ≤ 64 :=
  ⟨Nat.min_le_left _ _, Nat.min_le_left _ _⟩

/-- What a word that writes a stored tile finds: its tile may be read, the write is allowed and arrives, and no seep acts on its rows. -/
structure StoreReady (s : State) (p : Nat) (w : FurrowWord) (it : ExpItem) (denied : TileDesc → Bool) : Prop where
  gate : (s.plot p).srcGate w.src1.toNat = .ok
  allowed : denied (imgDesc (s.imgOf (s.plot p)) (s.fuTile (s.plot p) w it).1.desc) = false
  page : (imgDesc (s.imgOf (s.plot p)) (s.fuTile (s.plot p) w it).1.desc).src = 3 →
    s.pageDenied (s.plot p) (imgDesc (s.imgOf (s.plot p)) (s.fuTile (s.plot p) w it).1.desc) = false ∧ (s.storeRef (s.plot p) w it).walk ≠ []
  access : s.tileAccess p (s.storeDesc (s.plot p) w it) (s.storeRef (s.plot p) w it) true = .ok
  arrives : (s.reachTile p (s.storeDesc (s.plot p) w it) (s.storeRef (s.plot p) w it) true).2 = true
  furrow : s.seepQuiet .furrow p = true
  sound : s.seepQuiet .plot p = true

/-- The state behind the last row that CONV_RES or STORE writes. -/
def State.storedBy (s : State) (p : Nat) (w : FurrowWord) (it : ExpItem) : State :=
  let x := s.plot p
  let d := s.storeDesc x w it
  let t := s.storeRef x w it
  (s.reachTile p d t true).1.stored p x w d t (validExtent (s.refRows x d t) d.cols t.r t.c).1

section
variable {s : State} {p : Nat} {w : FurrowWord} {it : ExpItem} {denied : TileDesc → Bool} (h : StoreReady s p w it denied)
include h

theorem StoreReady.keeps : StoreKeeps p s (s.storedBy p w it) :=
  (storeKeeps_reachTile p s _ _ h.arrives).trans (storeKeeps_stored _ _ _ _ _ _ _)

theorem StoreReady.gate_ok : s.storeGate p (s.plot p) w it denied = .ok := by
  have hno : (denied (imgDesc (s.imgOf (s.plot p)) (s.fuTile (s.plot p) w it).1.desc) || ((s.storeDesc (s.plot p) w it).src = 3 &&
      (s.pageDenied (s.plot p) (imgDesc (s.imgOf (s.plot p)) (s.fuTile (s.plot p) w it).1.desc) ||
        decide ((s.storeRef (s.plot p) w it).walk = [])))) = false := by
    by_cases h3 : (imgDesc (s.imgOf (s.plot p)) (s.fuTile (s.plot p) w it).1.desc).src = 3
    · obtain ⟨hp, hw⟩ := h.page h3
      simp [h.allowed, hp, hw]
    · have h3' : (s.storeDesc (s.plot p) w it).src ≠ 3 := h3
      simp [h.allowed, h3']
  unfold State.storeGate
  rw [h.gate]
  exact (if_neg (by rw [hno]; exact Bool.false_ne_true)).trans h.access

theorem StoreReady.enter_arrives : s.storeEnter p w (s.storeDesc (s.plot p) w it) (s.storeRef (s.plot p) w it) =
    ((s.reachTile p (s.storeDesc (s.plot p) w it) (s.storeRef (s.plot p) w it) true).1, true) := by
  unfold State.storeEnter
  rw [State.enterStores_quiet _ h.sound]
  exact Prod.ext rfl h.arrives

/-- A word that finds all this takes its rows. -/
theorem State.storeWord_done (op fop : Nat) : ∃ rows, s.storeWord p (s.plot p) it w op fop denied =
    ((s.storedBy p w it).setPlot p (((s.storedBy p w it).plot p).convDone w)).fuDone p rows w := by
  have hk : ∀ (u : State) (i : Nat), u.seepQuiet .furrow p = true →
      (State.convStoreRow p (s.plot p) w (s.storeDesc (s.plot p) w it) (s.storeRef (s.plot p) w it) u i).1.seepQuiet .furrow p = true :=
    fun u i hu => (storeKeeps_convStoreRow p u _ _ _ _ i).quiet hu
  have hq := (storeKeeps_reachTile p s _ _ h.arrives).quiet h.furrow
  rw [State.storeWord_eq]
  exact ⟨_, State.fuFinish_done h.gate_ok h.enter_arrives hq (fun u i => u.convStoreRow_commits p _ _ _ _ i) hk (validExtent_le _ _ _ _).1⟩

/-- A word that has written its rows to the stored tile retires behind them. -/
theorem State.storeWord_stores (op fop : Nat) (hrun : (s.plot p).running = true) (hpend : (s.plot p).pendFail = none) :
    WordDone ((s.storedBy p w it).setPlot p (((s.storedBy p w it).plot p).convDone w)) (s.storeWord p (s.plot p) it w op fop denied) p w := by
  obtain ⟨rows, hdone⟩ := State.storeWord_done h op fop
  obtain ⟨r, n, hv⟩ := h.keeps.plot
  rw [hdone]
  refine State.wordDone_fuDone rows w ?_ ?_
  all_goals rw [State.plot_setPlot, Plot.convDone_eq, hv]
  · exact hrun
  · exact hpend

end

/-! ### LOAD -/

/-- Elements that a tile's list leaves out read as zero. -/
theorem getD_filled (data : List Word) (n k : Nat) : (data ++ List.replicate n (0 : Word)).getD k 0 = data.getD k 0 := by
  by_cases hk : k < data.length
  · rw [List.getD_append _ _ _ _ hk]
  · rw [List.getD_append_right _ _ _ _ (by omega), List.getD_eq_default data _ (by omega), List.getD, List.getElem?_replicate]
    split_ifs <;> rfl

/-- A row of a tile replaced from lane 0 on. -/
theorem getD_setRow (data row : List Word) {i r l : Nat} (hi : i < 64) (hrow : row.length ≤ 64) (hl : l < 64) :
    (setRow data i row).getD (64 * r + l) 0 = if r = i ∧ l < row.length then row.getD l 0 else data.getD (64 * r + l) 0 := by
  have hlen : 4096 ≤ (data ++ List.replicate (4096 - data.length) (0 : Word)).length := by simp; omega
  rw [← getD_filled data (4096 - data.length) (64 * r + l)]
  unfold setRow
  dsimp only
  generalize data ++ List.replicate (4096 - data.length) (0 : Word) = full at hlen ⊢
  have htake : (full.take (64 * i)).length = 64 * i := by rw [List.length_take]; omega
  by_cases h1 : 64 * r + l < 64 * i
  · rw [if_neg (by omega), List.append_assoc, List.getD_append _ _ _ _ (by omega)]
    simp only [List.getD, List.getElem?_take, if_pos h1]
  · by_cases h2 : r = i ∧ l < row.length
    · obtain ⟨rfl, hlt⟩ := h2
      rw [if_pos ⟨rfl, hlt⟩, List.append_assoc, List.getD_append_right _ _ _ _ (by omega), htake, Nat.add_sub_cancel_left,
        List.getD_append _ _ _ _ hlt]
    · rw [if_neg h2, List.getD_append_right _ _ _ _ (by rw [List.length_append, htake]; omega), List.length_append, htake]
      simp only [List.getD, List.getElem?_drop]
      rw [Nat.add_sub_cancel' (by omega)]

/-- Rows put into a tile one after another. -/
theorem getD_setRows (data : List Word) (f : Nat → List Word) {n m r l : Nat} (hn : n ≤ 64) (hm : m ≤ 64) (hf : ∀ i, (f i).length = m)
    (hr : r < n) (hl : l < m) : ((List.range n).foldl (fun d i => setRow d i (f i)) data).getD (64 * r + l) 0 = (f r).getD l 0 := by
  induction n with
  | zero => omega
  | succ n ih =>
    rw [List.range_succ, List.foldl_append, List.foldl_cons, List.foldl_nil, getD_setRow _ _ (by omega) (by rw [hf]; exact hm) (by omega)]
    by_cases h : r = n
    · subst h; rw [if_pos ⟨rfl, by rw [hf]; exact hl⟩]
    · rw [if_neg fun e => h e.1]
      exact ih (by omega) (by omega)

theorem State.rowValues_length (s : State) (p : Nat) (d : TileDesc) (t : TileRef) (vc i : Nat) : (s.rowValues p d t vc i).length = vc := by
  simp [State.rowValues, State.rowCodes]

/-- What a walk of one word leaves. -/
theorem State.touchWalk_leaves (s : State) (p q part : Nat) (sets : List Nat) : let t := s.touchWalk q part sets
    t.plots = s.plots ∧ t.mem = s.mem ∧ t.host = s.host ∧ t.canal = s.canal ∧ t.count ctrWords p = s.count ctrWords p := by
  have hcount := s.count_bump_other 1 ((ctrWords_apart p part).1 ctrWalks (by simp))
  unfold State.touchWalk State.beginWalk State.endWalk State.setPool
  exact ⟨s.bump_plots _ _ _, s.bump_mem _ _ _, s.bump_host _ _ _, s.bump_canal _ _ _, hcount⟩

/-- A module stop leaves the plots. -/
theorem State.stop_plots (s : State) (c d : Nat) : (s.stop c d).plots = s.plots := by rw [(loose_stop s c d).frame]; rfl

theorem State.repairRow_plots (s : State) (q off : Nat) : (s.repairRow q off).plots = s.plots := by
  unfold State.repairRow
  dsimp only
  split_ifs
  · rfl
  · rfl
  · rw [State.stop_plots]

theorem State.correctedRow_plots (s : State) (q off : Nat) : (s.correctedRow q off).plots = s.plots := by
  unfold State.correctedRow
  dsimp only
  split_ifs
  · rw [State.repairRow_plots]
  · rfl

theorem State.resvRead_plots (s : State) (reach q off n : Nat) : (s.resvRead reach q off n).2.plots = s.plots := by
  have hs : ∀ acts, (s.seepEvents .memt reach 1 acts).st.plots = s.plots := fun acts => by rw [State.seepEvents_only]
  unfold State.resvRead
  dsimp only
  split_ifs
  · exact State.repairRow_plots _ _ _
  · split
    · split_ifs
      · rw [State.correctedRow_plots, hs]
      · rw [State.repairRow_plots]; exact hs _
      · rw [State.repairRow_plots, hs]
    · exact hs _

theorem State.rowsRead_plots (p : Nat) (d : TileDesc) (t : TileRef) (n i : Nat) (s : State) : (s.rowsRead p d t i n).2.plots = s.plots := by
  induction n generalizing i s with
  | zero => rfl
  | succ n ih =>
    have hc : ∀ part a m, (s.cisRead part a m).2.plots = s.plots := fun part a m => by rw [(carries_cisRead s part a m).frame]; rfl
    unfold State.rowsRead
    dsimp only
    split_ifs
    · rw [ih, hc]
    · exact hc _ _ _

theorem State.passCache_plots (s : State) (p : Nat) (d : TileDesc) (t : TileRef) (write : Bool) : (s.passCache p d t write).plots = s.plots := by
  unfold State.passCache State.cacheTouch
  cases write <;> split_ifs <;> simp

theorem State.atTile_plots {s : State} {p : Nat} {d : TileDesc} {t : TileRef} (h : (s.atTile p d t false).2 = true) :
    (s.atTile p d t false).1.plots = s.plots := by
  have hc := s.passCache_plots p d t false
  have hv := s.resvRead_plots (reachOf (s.plot p).lplot) (s.colPlot p d) (s.rowAddr (s.plot p) d t 0).1 8
  unfold State.atTile at h ⊢
  simp only [Bool.false_eq_true, if_false] at h ⊢
  split_ifs at h ⊢
  · generalize s.resvRead _ _ _ _ = r at h hv ⊢
    obtain ⟨_ | _, s3⟩ := r
    · exact absurd h Bool.false_ne_true
    · exact hv
  · exact hc
  · exact (State.rowsRead_plots _ _ _ _ _ _).trans hc

/-- A read that arrives leaves its plot running. -/
theorem State.reachTile_running (s : State) (p : Nat) (d : TileDesc) (t : TileRef) (h : (s.reachTile p d t false).2 = true) :
    ((s.reachTile p d t false).1.plot p).running = (s.plot p).running := by
  obtain ⟨hw, he⟩ := State.reachTile_arrives h
  obtain ⟨r, n, hp⟩ := (storeKeeps_wayTo p s d t false hw).plot
  rw [he] at h ⊢
  have ht : ((s.wayTo p d t false).1.atTile p d t false).1.plot p = (s.wayTo p d t false).1.plot p := by
    unfold State.plot; rw [State.atTile_plots h]
  rw [ht, hp]

/-! What LOAD is made of, by name, and what it leaves. -/

/-- LOAD waits for a word in the pipeline, a closed fence, or DST. -/
def Plot.loadBusy (x : Plot) (w : FurrowWord) (d : TileDesc) : Bool :=
  x.fuRun.isSome || (x.fence && (x.isState w.dst.toNat || d.state)) || (x.tile w.dst.toNat).st = .pending ||
    decide (0 < (x.tile w.dst.toNat).held)

/-- Whether LOAD may issue. -/
def State.loadGate (s : State) (p : Nat) (x : Plot) (w : FurrowWord) (d : TileDesc) (t : TileRef) : SrcAccess :=
  if x.loadBusy w d then .wait
  else if d.src = 3 && s.pageDenied x d then .fail stDenied else s.tileAccess p d t false

/-- The way from the stored tile, and DST written. -/
def State.loadEnter (s : State) (p : Nat) (w : FurrowWord) (d : TileDesc) (t : TileRef) : State × Bool :=
  match s.reachTile p d t false with
  | (s1, true) => s1.enterStores p [(0, w.dst.toNat)]
  | r => r

/-- DST as LOAD leaves it: rows and columns of the valid extent, their values and the fill (R216, R232). -/
def State.loadedTile (s : State) (p : Nat) (w : FurrowWord) (d : TileDesc) (t : TileRef) (v : Nat × Nat) : Tile :=
  let y := (s.plot p).tile w.dst.toNat
  { y with st := .live, rows := v.1, cols := v.2, negInf := d.negInf,
           data := (List.range v.1).foldl (fun l i => setRow l i ((s.rowValues p d t v.2 i).map enc32)) y.data }

/-- The state in which the rows of a stored tile are read: a PAGE source is walked (R301). -/
def State.walked (s : State) (p part : Nat) (d : TileDesc) (t : TileRef) : State := if d.src = 3 then s.touchWalk p part t.walk else s

/-- DST of a LOAD written, in the state in which its rows are read. -/
def State.loadTile (s : State) (p part : Nat) (w : FurrowWord) (d : TileDesc) (t : TileRef) (v : Nat × Nat) : State :=
  (s.walked p part d t).setPlot p (((s.walked p part d t).plot p).setTile w.dst.toNat ((s.walked p part d t).loadedTile p w d t v))

/-- What a LOAD that waits for its source does first (R399, R405). -/
def State.loadScrub (s : State) (p : Nat) (d : TileDesc) (t : TileRef) (busy : Bool) : SrcAccess → State
  | .wait => if busy then s else s.scrubTile p d t
  | _ => s

theorem exec_load {s : State} {p : PPlot} {w : FurrowWord} {it : ExpItem} (h : AtHead s p .furrow (.compute 0xB 0 w) it) :
    let x := s.plot p.toNat
    let t := (s.fuTile x w it).1
    let d := imgDesc (s.imgOf x) t.desc
    let v := validExtent (s.refRows x d t) d.cols t.r t.c
    let gate := s.loadGate p.toNat x w d t
    exec (.load p w) s = .next ((s.loadScrub p.toNat d t (x.loadBusy w d) gate).fuFinish p.toNat 0xB 0 v.1 v.2 w it gate
      (fun u => u.loadEnter p.toNat w d t) (fun u _ => (u, true)) fun u => u.loadTile p.toNat x.part w d t v) := by
  show execLoad p w s = _
  rw [execLoad, State.streamRow_head _ h]
  rfl

/-- What LOAD finds: DST may be written, the read is allowed and arrives, and no seep acts on its rows. -/
structure LoadReady (s : State) (p : Nat) (w : FurrowWord) (d : TileDesc) (t : TileRef) : Prop where
  running : (s.plot p).running = true
  gate : s.loadGate p (s.plot p) w d t = .ok
  reached : (s.reachTile p d t false).2 = true
  entered : ((s.reachTile p d t false).1.enterStores p [(0, w.dst.toNat)]).2 = true
  furrow : ((s.reachTile p d t false).1.enterStores p [(0, w.dst.toNat)]).1.seepQuiet .furrow p = true
  calm : (((s.reachTile p d t false).1.enterStores p [(0, w.dst.toNat)]).1.plot p).pendFail = none

section
variable {s : State} {p : Nat} {w : FurrowWord} {d : TileDesc} {t : TileRef} (h : LoadReady s p w d t)
include h

theorem LoadReady.enter_arrives : s.loadEnter p w d t = (((s.reachTile p d t false).1.enterStores p [(0, w.dst.toNat)]).1, true) := by
  have hr : s.reachTile p d t false = ((s.reachTile p d t false).1, true) := Prod.ext rfl h.reached
  unfold State.loadEnter
  rw [hr]
  exact Prod.ext rfl h.entered

theorem LoadReady.runs : (((s.reachTile p d t false).1.enterStores p [(0, w.dst.toNat)]).1.plot p).running = true := by
  have he := h.entered
  unfold State.enterStores at he
  exact (of_decide_eq_true he).trans ((s.reachTile_running p d t h.reached).trans h.running)

end

theorem State.walked_leaves (s : State) (p part : Nat) (d : TileDesc) (t : TileRef) : let z := s.walked p part d t
    z.plots = s.plots ∧ z.mem = s.mem ∧ z.host = s.host ∧ z.canal = s.canal ∧ z.count ctrWords p = s.count ctrWords p := by
  unfold State.walked
  split_ifs
  · exact s.touchWalk_leaves p p part t.walk
  · exact ⟨rfl, rfl, rfl, rfl, rfl⟩

/-- A LOAD that finds all this takes its rows, which change nothing before the last. -/
theorem LoadReady.done {s : State} {p : Nat} {w : FurrowWord} {d : TileDesc} {t : TileRef} (h : LoadReady s p w d t) (it : ExpItem)
    (part : Nat) {v : Nat × Nat} (hv : v.1 ≤ 64) (busy : Bool) :
    (s.loadScrub p d t busy (s.loadGate p (s.plot p) w d t)).fuFinish p 0xB 0 v.1 v.2 w it (s.loadGate p (s.plot p) w d t)
      (fun u => u.loadEnter p w d t) (fun u _ => (u, true)) (fun u => u.loadTile p part w d t v) =
    (((s.reachTile p d t false).1.enterStores p [(0, w.dst.toNat)]).1.loadTile p part w d t v).fuDone p v.1 w := by
  have hs : s.loadScrub p d t busy (s.loadGate p (s.plot p) w d t) = s := by rw [h.gate]; rfl
  rw [hs, State.fuFinish_done (one := fun u _ => (u, true)) h.gate h.enter_arrives h.furrow (fun _ _ => rfl) (fun _ _ hq => hq) hv]
  simp only [List.foldl_fixed]

/-- A LOAD that retires has changed DST alone. -/
theorem State.loadTile_done (y : State) {p : PPlot} (part : Nat) (w : FurrowWord) (d : TileDesc) (t : TileRef) (v : Nat × Nat)
    (hr : (y.plot p.toNat).running = true) (hp : (y.plot p.toNat).pendFail = none) :
    let u := (y.loadTile p.toNat part w d t v).fuDone p.toNat v.1 w
    let g := (y.walked p.toNat part d t).loadedTile p.toNat w d t v
    FurrowRetired y u p w [w.dst.toNat] ∧
    (w.rel1 = true ∧ w.dst.toNat = w.src1.toNat ∨ (u.plot p.toNat).tile w.dst.toNat = g) ∧
    ((u.plot p.toNat).tile w.dst.toNat).data = g.data := by
  intro u g
  obtain ⟨hplots, hm, hh, hc, hw⟩ := y.walked_leaves p.toNat part d t
  have hz : (y.walked p.toNat part d t).plot p.toNat = y.plot p.toNat := by unfold State.plot; rw [hplots]
  have hplot : (y.loadTile p.toNat part w d t v).plot p.toNat = (y.plot p.toNat).setTile w.dst.toNat g := by
    unfold State.loadTile
    rw [State.plot_setPlot, hz]
  have hd : WordDone (y.loadTile p.toNat part w d t v) u p.toNat w :=
    State.wordDone_fuDone v.1 w (by rw [hplot]; exact hr) (by rw [hplot]; exact hp)
  have hg : ((y.loadTile p.toNat part w d t v).plot p.toNat).tile w.dst.toNat = g := by rw [hplot, Plot.tile_setTile]
  refine ⟨hd.retired (fun k hk => ?_) (fun k hk => ?_) (fun c => ?_) hw hm hh hc, ?_, by rw [hd.data, hg]⟩
  · rw [List.mem_singleton.1 hk, hg]; rfl
  · rw [hplot, Plot.tile_setTile_other _ _ (by simpa using hk)]
  · rw [hplot]; rfl
  · by_cases hk : w.rel1 = true ∧ w.dst.toNat = w.src1.toNat
    · exact .inl hk
    · exact .inr (by rw [hd.tile _ hk, hg])

/-- An element of DST after LOAD. -/
theorem State.elem_loadedTile (s : State) (p : Nat) (w : FurrowWord) (d : TileDesc) (t : TileRef) {v : Nat × Nat} {r l : Nat}
    (hv : v.1 ≤ 64 ∧ v.2 ≤ 64) (hr : r < v.1) (hl : l < v.2) :
    (s.loadedTile p w d t v).elem r l = ((s.rowValues p d t v.2 r).map enc32).getD l 0 :=
  getD_setRows _ _ hv.1 hv.2 (fun i => by rw [List.length_map, State.rowValues_length]) hr hl

/-- A LOAD from the plot's own column with no seep acting changes nothing on its way. -/
theorem State.loadEnter_own {s : State} {p : Nat} (d : TileDesc) (t : TileRef) (l : List (Nat × Nat)) (h0 : d.src = 0)
    (hq : s.seepQuiet .plot p = true) (hm : s.seepQuiet .memt (reachOf (s.plot p).lplot) = true)
    (hok : s.resvOk p (s.rowAddr (s.plot p) d t 0).1 8 = true) : ((s.reachTile p d t false).1.enterStores p l).1 = s := by
  have hcol : s.colPlot p d = p := by unfold State.colPlot; rw [h0]; rfl
  have hst : s.tileStation p d t = .plot p := by
    unfold State.tileStation
    simp only [h0, true_or, if_true, hcol]
  have hread : s.resvRead (reachOf (s.plot p).lplot) p (s.rowAddr (s.plot p) d t 0).1 8 = (true, s) := by
    unfold State.resvRead
    rw [hok, s.seepEvents_quiet _ _ hm]
    rfl
  have hreach : s.reachTile p d t false = (s, true) := by
    unfold State.reachTile
    simp only [hst, h0, if_true, Bool.not_false, decide_true, Bool.true_or, Bool.true_and, hcol, hread]
  rw [hreach, State.enterStores_quiet _ hq]

end Sys2Proof.Machine
end

section
/-! Conversions, LOAD and STORE (O51). -/

namespace Sys2Proof.Machine

section
variable {s : State} {p : PPlot} {w : FurrowWord} {it : ExpItem}

theorem exec_convStage (h : AtHead s p .furrow (.compute 0xA 0x01 w) it) :
    exec (.convStage p w) s = .next (s.stageWord p.toNat (s.plot p.toNat) w 0x01 it false w.dst.toNat) := by
  show execConvStage p w s = _
  rw [execConvStage, State.streamRow_head _ h]

theorem exec_convBank (h : AtHead s p .furrow (.compute 0xA 0x02 w) it) :
    exec (.convBank p w) s = .next (s.stageWord p.toNat (s.plot p.toNat) w 0x02 it true w.dst.toNat) := by
  show execConvBank p w s = _
  rw [execConvBank, State.streamRow_head _ h]

theorem exec_convRes (h : AtHead s p .furrow (.compute 0xA 0 w) it) : exec (.convRes p w) s =
    .next (s.storeWord p.toNat (s.plot p.toNat) it w 0xA 0 fun d => convDenied w || (fmtTensor w.fmt.toNat && decide (w.x.toNat ≠ d.tshift))) := by
  show execConvRes p w s = _
  rw [execConvRes, State.streamRow_head _ h]

theorem exec_store (h : AtHead s p .furrow (.compute 0xC 0 w) it) : exec (.store p w) s =
    .next (s.storeWord p.toNat (s.plot p.toNat) it w 0xC 0 fun d => decide (2 < w.fmt.toNat) || decide (w.fmt.toNat ≠ d.fmt)) := by
  show execStore p w s = _
  rw [execStore, State.streamRow_head _ h]

/-- What CONV_RES and STORE leave: the rows that they write, and of their plot all but what a conversion counts and a release frees. -/
theorem State.storeWord_leaves {denied : TileDesc → Bool} (h : StoreReady s p.toNat w it denied) (op fop : Nat)
    (hrun : (s.plot p.toNat).running = true) (hpend : (s.plot p.toNat).pendFail = none) :
    let x := s.plot p.toNat
    let t := s.storeWord p.toNat x it w op fop denied
    t.mem = (s.storedBy p.toNat w it).mem ∧ (t.plot p.toNat).stoch = x.stoch + (if w.sr then 1 else 0) ∧
    (∀ k, ¬(w.rel1 = true ∧ k = w.src1.toNat) → (t.plot p.toNat).tile k = x.tile k) ∧
    (w.rel1 = true → ((t.plot p.toNat).tile w.src1.toNat).st = .free) ∧
    (∀ c, (t.plot p.toNat).counter c = x.counter c + (if w.sig = true ∧ c = w.sigc.toNat ∧ c ≠ 0 then 1 else 0)) ∧
    t.count ctrWords p.toNat = satAdd (s.count ctrWords p.toNat) 1 ∧ t.host = s.host ∧ t.canal = s.canal := by
  intro x t
  have hk := h.keeps
  have hd : WordDone _ t p.toNat w := State.storeWord_stores h op fop hrun hpend
  generalize s.storedBy p.toNat w it = v at hk hd ⊢
  obtain ⟨r, n, hv⟩ := hk.plot
  have hplot : (v.setPlot p.toNat ((v.plot p.toNat).convDone w)).plot p.toNat =
      { x with resident := r, satCount := n, stoch := x.stoch + (if w.sr then 1 else 0) } := by
    rw [State.plot_setPlot, Plot.convDone_eq, hv]
  refine ⟨hd.mem, ?_, fun k hn => ?_, fun hr => ?_, fun c => ?_, hd.counted.trans (congrArg (satAdd · 1) hk.words), hd.host.trans hk.host,
    hd.canal.trans hk.canal⟩
  · rw [hd.stoch, hplot]
  · rw [hd.tile k hn, hplot]; rfl
  · rw [hd.freed hr]
  · rw [hd.token, hplot]; rfl

end

/-- Settles O51: a conversion into staging slots by the operand that it puts there (`State.stageWord_stages`), one to a stored tile by its
rows written in order (`State.storeWord_leaves`), and LOAD by DST as its last change leaves it (`State.loadTile_done`). -/
theorem conversionsLoadAndStore : Obligations.ConversionsLoadAndStore := by
  unfold Obligations.ConversionsLoadAndStore
  refine ⟨fun s p w it => ?stage, fun s p w it => ?store, fun s p w it => ?load⟩
  case stage =>
    intro x row hrow bank n f h hg hd hn he he2 hf hq hp hr hsat
    have hex : exec (row.1 p w) s = .next (s.stageWord p.toNat x w row.2.1 it bank n) := by
      rcases List.mem_cons.1 hrow with rfl | hrow
      · exact exec_convStage h
      · obtain rfl := List.mem_singleton.1 hrow
        exact exec_convBank h
    obtain ⟨hret, hstage, hcount, hstoch⟩ := State.stageWord_stages row.2.1 it hg hd hn he he2 hf hq h.running hp hr hsat
    obtain ⟨hfull, hfmt, hone, htwo, hscales⟩ := x.stage_putOperand bank n (s.operandOf x w)
    refine ⟨_, hex, hret, ?_, ?_, fun h0 => ?_, fun h0 => ?_, ?_, hcount, hstoch⟩
    · rw [hstage]; exact hfull
    · rw [hstage]; exact hfmt
    · rw [hstage]; exact hone h0
    · rw [hstage, hstage]; exact htwo h0
    · rw [hstage]; exact hscales
  case store =>
    intro x T0 d0 d T rows sent row hrow h hg hd hpage ha hs hf hq hp
    have hready : StoreReady s p.toNat w it row.2.2 := ⟨hg, hd, hpage, ha, hs, hf, hq⟩
    have hex : exec (row.1 p w) s = .next (s.storeWord p.toNat x it w row.2.1.toNat 0 row.2.2) := by
      rcases List.mem_cons.1 hrow with rfl | hrow
      · exact exec_convRes h
      · obtain rfl := List.mem_singleton.1 hrow
        exact exec_store h
    exact ⟨_, hex, State.storeWord_leaves hready row.2.1.toNat 0 h.running hp⟩
  case load =>
    intro x T d v a reached entered y z h hrun hfence hpend hheld hpage ha hr he hf hp
    have hbusy : x.loadBusy w d = false := by
      have hfree : (x.fence && (x.isState a || d.state)) = false := by
        cases hx : x.fence
        · rfl
        · obtain ⟨h1, h2⟩ := hfence hx
          rw [h1, h2]; rfl
      unfold Plot.loadBusy
      rw [hrun, hfree]
      simp [hpend, hheld, a]
    have hgate : s.loadGate p.toNat x w d T = .ok := by
      have hno : (d.src = 3 && s.pageDenied x d) = false := by
        by_cases h3 : d.src = 3
        · rw [hpage h3, Bool.and_false]
        · simp [h3]
      unfold State.loadGate
      rw [hbusy, hno]
      exact ha
    have hready : LoadReady s p.toNat w d T := ⟨h.running, hgate, hr, he, hf, hp⟩
    have hv := validExtent_le (s.refRows x d T) d.cols T.r T.c
    obtain ⟨hret, htile, hdata⟩ := y.loadTile_done (p := p) x.part w d T v hready.runs hp
    refine ⟨_, (exec_load h).trans (congrArg Host.Outcome.next (hready.done it x.part hv.1 _)), hret,
      fun h0 hq hm hok => State.loadEnter_own d T _ h0 hq hm hok, ?_, fun r l hr hl => ?_⟩
    · rcases htile with hk | hk
      · exact .inl hk
      · exact .inr (by rw [hk]; exact ⟨rfl, rfl, rfl⟩)
    · exact (congrArg (·.getD (64 * r + l) 0) hdata).trans (State.elem_loadedTile _ _ _ _ _ hv hr hl)

end Sys2Proof.Machine
end

section
/-! SUPPORT. Rings enabled and disabled, and the bits of a register word that a write leaves (R507, R530). -/

namespace Sys2Proof.Machine

/-! ### Bits of a field -/

theorem testBit_getBits (x : DWord) (lo w i : Nat) : (getBits x lo w).testBit i = (decide (i < w) && x.getLsbD (lo + i)) := by
  rw [getBits, Nat.testBit_mod_two_pow, Nat.testBit_shiftRight, BitVec.testBit_toNat]

/-- Words that agree on a field's bits agree on the field. -/
theorem getBits_congr {x y : DWord} {lo w : Nat} (h : ∀ i, lo ≤ i → i < lo + w → x.getLsbD i = y.getLsbD i) : getBits x lo w = getBits y lo w := by
  refine Nat.eq_of_testBit_eq fun i => ?_
  rw [testBit_getBits, testBit_getBits]
  by_cases hi : i < w
  · rw [h (lo + i) (by omega) (by omega)]
  · simp [hi]

/-- Words that agree on a field agree on each part of it. -/
theorem getBits_part {x y : DWord} {lo w lo' w' : Nat} (h : getBits x lo w = getBits y lo w) (hl : lo ≤ lo') (hw : lo' + w' ≤ lo + w) :
    getBits x lo' w' = getBits y lo' w' := by
  refine getBits_congr fun i h1 h2 => ?_
  have hi := congrArg (·.testBit (i - lo)) h
  simpa [testBit_getBits, show i - lo < w by omega, show lo + (i - lo) = i by omega] using hi

/-- A field keeps its value when its own value is written to it. -/
theorem getBits_setBits_kept (x y : DWord) {lo w : Nat} (h : lo + w ≤ 64) : getBits (setBits x lo w (getBits y lo w)) lo w = getBits y lo w := by
  rw [getBits_setBits_same _ _ _ _ h, Nat.mod_eq_of_lt (getBits_lt y lo w)]

theorem getBits_one (x : DWord) (i : Nat) : getBits x i 1 = (x.getLsbD i).toNat := by
  rw [getBits, BitVec.getLsbD, Nat.testBit_eq_decide_div_mod_eq, Nat.shiftRight_eq_div_pow]
  rcases Nat.mod_two_eq_zero_or_one (x.toNat / 2 ^ i) with h | h <;> simp [h]

/-- A flag is its bit. -/
theorem State.flag_eq (s : State) (f : Fld) (n : Nat) (h : f.w = 1) : s.flag f n = (s.reg f.reg n).getLsbD f.lo := by
  rw [State.flag, State.rd, h, getBits_one]
  cases (s.reg f.reg n).getLsbD f.lo <;> rfl

/-! ### RING_CTL as a write leaves it (R507) -/

section
variable (old v : DWord)

theorem ringCtlNext_tenant (busy : Bool) : getBits (ringCtlNext old v busy) 10 6 = getBits old 10 6 := by
  cases busy <;> simp only [ringCtlNext, if_true, Bool.false_eq_true, if_false] <;>
    simp (disch := omega) only [getBits_setBits_other, getBits_setBits_kept]

theorem ringCtlNext_maint (busy : Bool) : getBits (ringCtlNext old v busy) 16 1 = getBits old 16 1 := by
  cases busy <;> simp only [ringCtlNext, if_true, Bool.false_eq_true, if_false] <;>
    simp (disch := omega) only [getBits_setBits_other, getBits_setBits_kept]

/-- ENABLE and what stands above it are as written. -/
theorem ringCtlNext_written (busy : Bool) {lo w : Nat} (hl : 18 ≤ lo) (hw : lo + w ≤ 56) :
    getBits (ringCtlNext old v busy) lo w = getBits v lo w := by
  cases busy <;> simp only [ringCtlNext, if_true, Bool.false_eq_true, if_false] <;> simp (disch := omega) only [getBits_setBits_other]

/-- The sizes of an idle ring are as written. -/
theorem ringCtlNext_sizes : getBits (ringCtlNext old v false) 0 10 = getBits v 0 10 := by
  simp only [ringCtlNext, Bool.false_eq_true, if_false]
  simp (disch := omega) only [getBits_setBits_other]

/-- A busy ring keeps its sizes. -/
theorem ringCtlNext_sizes_busy : getBits (ringCtlNext old v true) 0 10 = getBits old 0 10 := by
  simp only [ringCtlNext, if_true]
  simp (disch := omega) only [getBits_setBits_other, getBits_setBits_kept]

end

theorem regOff_ringCtl (n : Nat) : regOff .ringCtl n = 0x400010 + 0x400 * n := by simp [regOff, RegKind.place]
theorem regOff_ringStatus (n : Nat) : regOff .ringStatus n = 0x400018 + 0x400 * n := by simp [regOff, RegKind.place]

/-! ### RING_ENABLE and RING_DISABLE -/

/-- RING_CTL's word of an enable. -/
def ringOn (v : DWord) : DWord := v ||| BitVec.ofNat 64 (2 ^ 18)

/-- RING_CTL's word of a disable. -/
def ringOff (v : DWord) : DWord := v &&& ~~~(BitVec.ofNat 64 (2 ^ 18))

theorem getLsbD_ringOn (v : DWord) (i : Nat) : (ringOn v).getLsbD i = (v.getLsbD i || decide (i = 18)) := by
  rw [ringOn, BitVec.getLsbD_or, BitVec.getLsbD_ofNat, Nat.testBit_two_pow]
  by_cases h : i = 18 <;> simp [h, eq_comm]

theorem getLsbD_ringOff (v : DWord) : (ringOff v).getLsbD 18 = false := by
  rw [ringOff, BitVec.getLsbD_and, BitVec.getLsbD_not, BitVec.getLsbD_ofNat, Nat.testBit_two_pow_self]
  simp

theorem getBits_ringOn (v : DWord) {lo w : Nat} (h : lo + w ≤ 18 ∨ 19 ≤ lo) : getBits (ringOn v) lo w = getBits v lo w :=
  getBits_congr fun i _ _ => by simp [getLsbD_ringOn, show i ≠ 18 by omega]

theorem ringLogsBad_ringOn (v : DWord) : ringLogsBad (ringOn v) = ringLogsBad v := by
  simp [ringLogsBad, getBits_ringOn]

section
variable (s : State) (q : RingNo) (v : DWord)

theorem exec_ringEnable (hr : s.runs = true) : exec (.ringEnable q v) s = .next (s.ringCtlWrite q.toNat (ringOn v)) := by
  show execRingEnable q v s = _
  rw [execRingEnable, State.issue_runs _ _ hr, ringOn]
theorem exec_ringDisable (hr : s.runs = true) : exec (.ringDisable q v) s = .next (s.ringCtlWrite q.toNat (ringOff v)) := by
  show execRingDisable q v s = _
  rw [execRingDisable, State.issue_runs _ _ hr, ringOff]

/-- A ring enabled: RING_CTL as it is written, and the ring from its start. -/
def State.ringEnabled : State := (s.setReg .ringCtl q.toNat (ringCtlNext (s.reg .ringCtl q.toNat) (ringOn v) false)).ringRestart q.toNat

/-- A ring disabled. -/
def State.ringDisabled : State :=
  s.setReg .ringCtl q.toNat (ringCtlNext (s.reg .ringCtl q.toNat) (ringOff v) (s.flag RING_CTL_ENABLE q.toNat || s.flag RING_STATUS_ACTIVE q.toNat))

variable {s q v}

theorem State.ringCtlWrite_active (he : s.flag RING_CTL_ENABLE q.toNat = false) (ha : s.flag RING_STATUS_ACTIVE q.toNat = true) :
    s.ringCtlWrite q.toNat (ringOn v) = s := by
  simp [State.ringCtlWrite, he, ha, getLsbD_ringOn]

theorem State.ringCtlWrite_bad (he : s.flag RING_CTL_ENABLE q.toNat = false) (ha : s.flag RING_STATUS_ACTIVE q.toNat = false)
    (hb : ringLogsBad v = true) : s.ringCtlWrite q.toNat (ringOn v) = s.wr RING_STATUS_BAD q.toNat 1 := by
  simp [State.ringCtlWrite, he, ha, hb, ringLogsBad_ringOn, getLsbD_ringOn]

theorem State.ringCtlWrite_enables (he : s.flag RING_CTL_ENABLE q.toNat = false) (ha : s.flag RING_STATUS_ACTIVE q.toNat = false)
    (hb : ringLogsBad v = false) : s.ringCtlWrite q.toNat (ringOn v) = s.ringEnabled q v := by
  simp [State.ringCtlWrite, State.ringEnabled, he, ha, hb, ringLogsBad_ringOn, getLsbD_ringOn]

theorem State.ringCtlWrite_disables : s.ringCtlWrite q.toNat (ringOff v) = s.ringDisabled q v := by
  simp only [State.ringCtlWrite, State.ringDisabled, getLsbD_ringOff, Bool.false_and, Bool.false_eq_true, if_false]

variable (s q v)

theorem State.reg_setRing (r : Ring) (k : RegKind) (n : Nat) : (s.setRing q r).reg k n = s.reg k n := rfl

/-- A ring restarted keeps every register but its RING_STATUS. -/
theorem State.reg_ringRestart (n : Nat) {k : RegKind} {m : Nat} (h : regOff k m ≠ regOff .ringStatus n) :
    (s.ringRestart n).reg k m = s.reg k m := by
  rw [State.ringRestart, State.reg_setRing]
  simp only [State.wrs]
  have hw : ∀ (s : State) (f : Fld) (v : Nat), f.reg = .ringStatus → (s.wr f n v).reg k m = s.reg k m :=
    fun s f v hf => reg_setReg_other s _ (by rw [hf]; exact h)
  rw [hw _ RING_STATUS_CQ_TAIL _ rfl, hw _ RING_STATUS_SQ_TAIL _ rfl, hw _ RING_STATUS_SQ_HEAD _ rfl]

theorem State.setReg_only (k : RegKind) (n : Nat) (v : DWord) : ∃ r, s.setReg k n v = { s with regs := r } := ⟨_, rfl⟩

theorem State.ringRestart_only (n : Nat) : ∃ r x, s.ringRestart n = { s with regs := r, host := { s.host with rings := x } } := by
  have h := s.wrs_only n [(RING_STATUS_SQ_HEAD, 0), (RING_STATUS_SQ_TAIL, 0), (RING_STATUS_CQ_TAIL, 0)]
  unfold State.ringRestart
  rw [h]
  exact ⟨_, _, rfl⟩

theorem State.ringEnabled_only : ∃ r x, s.ringEnabled q v = { s with regs := r, host := { s.host with rings := x } } := by
  obtain ⟨r0, h0⟩ := s.setReg_only .ringCtl q.toNat (ringCtlNext (s.reg .ringCtl q.toNat) (ringOn v) false)
  obtain ⟨r, x, h⟩ := State.ringRestart_only { s with regs := r0 } q.toNat
  exact ⟨r, x, by rw [State.ringEnabled, h0, h]⟩

theorem State.ringDisabled_only : ∃ r, s.ringDisabled q v = { s with regs := r } := s.setReg_only _ _ _

theorem State.reg_ringEnabled : (s.ringEnabled q v).reg .ringCtl q.toNat = ringCtlNext (s.reg .ringCtl q.toNat) (ringOn v) false := by
  rw [State.ringEnabled, State.reg_ringRestart _ _ (by rw [regOff_ringCtl, regOff_ringStatus]; omega), reg_setReg_same]

/-- The indices of a ring that was restarted are 0. -/
theorem State.ringRestart_indices (n : Nat) : let t := s.ringRestart n
    t.rd RING_STATUS_SQ_HEAD n = 0 ∧ t.rd RING_STATUS_SQ_TAIL n = 0 ∧ t.rd RING_STATUS_CQ_TAIL n = 0 := by
  have hd : ∀ f, (s.ringRestart n).rd f n = (((s.wr RING_STATUS_SQ_HEAD n 0).wr RING_STATUS_SQ_TAIL n 0).wr RING_STATUS_CQ_TAIL n 0).rd f n :=
    fun f => by rw [State.ringRestart, State.rd_setRing]; simp only [State.wrs]
  have ho : ∀ (s : State) (f g : Fld), f.lo + f.w ≤ 64 → f.reg = g.reg → (g.lo + g.w ≤ f.lo ∨ f.lo + f.w ≤ g.lo) → (s.wr f n 0).rd g n = s.rd g n :=
    fun s f g h hr hf => rd_wr_other s 0 h (.inr ⟨hr, rfl, hf⟩)
  have hz : ∀ (s : State) (f : Fld), f.lo + f.w ≤ 64 → (s.wr f n 0).rd f n = 0 := fun s f h => (rd_wr_same s f n 0 h).trans (Nat.zero_mod _)
  refine ⟨?_, ?_, ?_⟩
  · rw [hd, ho _ RING_STATUS_CQ_TAIL RING_STATUS_SQ_HEAD (by decide) rfl (by decide),
      ho _ RING_STATUS_SQ_TAIL RING_STATUS_SQ_HEAD (by decide) rfl (by decide), hz _ _ (by decide)]
  · rw [hd, ho _ RING_STATUS_CQ_TAIL RING_STATUS_SQ_TAIL (by decide) rfl (by decide), hz _ _ (by decide)]
  · rw [hd, hz _ _ (by decide)]

theorem State.ring_setRing_other {k : RingNo} (r : Ring) (h : k ≠ q) : (s.setRing q r).ring k = s.ring k := by
  have hn : k.toNat ≠ q.toNat := fun e => h (BitVec.eq_of_toNat_eq e)
  simp [State.ring, State.setRing, sget_sput_other, hn]

theorem State.ring_setReg (k : RegKind) (n : Nat) (v : DWord) (r : RingNo) : (s.setReg k n v).ring r = s.ring r := rfl
theorem State.ring_wrs (n : Nat) (fs : List (Fld × Nat)) (r : RingNo) : (s.wrs n fs).ring r = s.ring r := by rw [State.wrs_only]; rfl

/-- The rings after one was enabled. -/
theorem State.ring_ringEnabled : (s.ringEnabled q v).ring q = {} ∧ ∀ k, k ≠ q → (s.ringEnabled q v).ring k = s.ring k ∧
    (s.ringEnabled q v).reg .ringCtl k.toNat = s.reg .ringCtl k.toNat := by
  have hq : BitVec.ofNat 12 q.toNat = q := by simp
  refine ⟨?_, fun k hk => ⟨?_, ?_⟩⟩
  · rw [State.ringEnabled, State.ringRestart, hq, State.ring_setRing]
  · rw [State.ringEnabled, State.ringRestart, hq, State.ring_setRing_other _ _ _ hk, State.ring_wrs, State.ring_setReg]
  · have hn : k.toNat ≠ q.toNat := fun e => hk (BitVec.eq_of_toNat_eq e)
    rw [State.ringEnabled, State.reg_ringRestart _ _ (by rw [regOff_ringCtl, regOff_ringStatus]; omega),
      reg_setReg_other _ _ (by rw [regOff_ringCtl, regOff_ringCtl]; omega)]

/-- RING_ENABLE of an idle ring. -/
theorem State.ringEnabled_leaves : let t := s.ringEnabled q v; let r := q.toNat
    t.flag RING_CTL_ENABLE r = true ∧ t.rd RING_CTL_SQ_LOG r = getBits v 0 5 ∧ t.rd RING_CTL_CQ_LOG r = getBits v 5 5 ∧
    t.rd RING_CTL_VECTOR r = getBits v 21 11 ∧ t.rd RING_CTL_TENANT r = s.rd RING_CTL_TENANT r ∧
    t.rd RING_CTL_MAINT r = s.rd RING_CTL_MAINT r := by
  intro t r
  have hrd : ∀ f : Fld, f.reg = .ringCtl → t.rd f r = getBits (ringCtlNext (s.reg .ringCtl r) (ringOn v) false) f.lo f.w := fun f hf => by
    rw [State.rd, hf, s.reg_ringEnabled]
  have hsz := ringCtlNext_sizes (s.reg .ringCtl r) (ringOn v)
  refine ⟨?_, ?_, ?_, ?_, ?_, ?_⟩
  · rw [State.flag, hrd _ rfl]
    show decide (getBits (ringCtlNext _ (ringOn v) false) 18 1 = 1) = true
    rw [ringCtlNext_written _ _ _ (by decide) (by decide), getBits_one, getLsbD_ringOn]
    simp
  · rw [hrd _ rfl]
    exact (getBits_part hsz (by decide) (by decide)).trans (getBits_ringOn v (by decide))
  · rw [hrd _ rfl]
    exact (getBits_part hsz (by decide) (by decide)).trans (getBits_ringOn v (by decide))
  · rw [hrd _ rfl]
    exact (ringCtlNext_written _ _ _ (by decide) (by decide)).trans (getBits_ringOn v (by decide))
  · rw [hrd _ rfl]; exact ringCtlNext_tenant _ _ _
  · rw [hrd _ rfl]; exact ringCtlNext_maint _ _ _

/-- RING_DISABLE. -/
theorem State.ringDisabled_leaves : let t := s.ringDisabled q v; let r := q.toNat
    t.flag RING_CTL_ENABLE r = false ∧ t.rd RING_CTL_TENANT r = s.rd RING_CTL_TENANT r ∧
    (s.flag RING_CTL_ENABLE r = true → t.rd RING_CTL_SQ_LOG r = s.rd RING_CTL_SQ_LOG r ∧ t.rd RING_CTL_CQ_LOG r = s.rd RING_CTL_CQ_LOG r) ∧
    t.reg .ringStatus r = s.reg .ringStatus r := by
  intro t r
  have hreg : t.reg .ringCtl r = ringCtlNext (s.reg .ringCtl r) (ringOff v) (s.flag RING_CTL_ENABLE r || s.flag RING_STATUS_ACTIVE r) :=
    reg_setReg_same _ _ _ _
  have hrd : ∀ f : Fld, f.reg = .ringCtl → t.rd f r = getBits (ringCtlNext (s.reg .ringCtl r) (ringOff v)
      (s.flag RING_CTL_ENABLE r || s.flag RING_STATUS_ACTIVE r)) f.lo f.w := fun f hf => by rw [State.rd, hf, hreg]
  refine ⟨?_, ?_, fun he => ?_, reg_setReg_other _ _ (by rw [regOff_ringCtl, regOff_ringStatus]; omega)⟩
  · rw [State.flag, hrd _ rfl]
    show decide (getBits (ringCtlNext _ (ringOff v) _) 18 1 = 1) = false
    rw [ringCtlNext_written _ _ _ (by decide) (by decide), getBits_one, getLsbD_ringOff]
    rfl
  · rw [hrd _ rfl]; exact ringCtlNext_tenant _ _ _
  · have hsz := ringCtlNext_sizes_busy (s.reg .ringCtl r) (ringOff v)
    rw [hrd _ rfl, hrd _ rfl, he, Bool.true_or]
    exact ⟨getBits_part hsz (by decide) (by decide), getBits_part hsz (by decide) (by decide)⟩

end

end Sys2Proof.Machine
end

section
/-! SUPPORT. Counters cleared, gauges cleared and saturated, accesses to registers and diagnostic windows, and seeps that fire. -/

namespace Sys2Proof.Machine

/-! ### CNT_CLEAR (R598) -/

theorem sget_clearCounters (ctrs : Sparse (BitVec 48)) (block : Nat) (m : DWord) (i k : Nat) :
    sget (0 : BitVec 48) (clearCounters ctrs block m k) (block + 8 * i) =
      if i < k ∧ m.getLsbD i = true then 0 else sget (0 : BitVec 48) ctrs (block + 8 * i) := by
  induction k with
  | zero => simp [clearCounters]
  | succ k ih =>
    rw [clearCounters]
    by_cases hi : i = k
    · subst hi
      by_cases hm : m.getLsbD i = true
      · rw [if_pos hm, if_pos ⟨Nat.lt_succ_self i, hm⟩, sget_sput_same]
      · rw [if_neg hm, if_neg (fun h => hm h.2), ih, if_neg (fun h => hm h.2)]
    · have hlt : i < k + 1 ↔ i < k := by omega
      have ho : block + 8 * i ≠ block + 8 * k := by omega
      simp only [hlt, ← ih]
      split_ifs
      · exact sget_sput_other _ _ _ _ ho
      · rfl

theorem exec_counterClear_block {s : State} {b : BitVec 32} {f : CtrFamily} (m : DWord) (hr : s.runs = true)
    (h : ctrBlockAt b.toNat = some (f, b.toNat)) : exec (.counterClear b m) s = .next (s.clearBlock f b.toNat m) := by
  show execCounterClear b m s = _
  rw [execCounterClear, State.issue_runs _ _ hr]
  simp [h]

/-! ### Gauges (R597, R616) -/

theorem exec_gaugeClear {s : State} (v : DWord) (hr : s.runs = true) : exec (.gaugeClear v) s = .next (s.gaugeClear v) := by
  show execGaugeClear v s = _
  rw [execGaugeClear, State.issue_runs _ _ hr]

theorem State.gaugeClear_leaves (s : State) (v : DWord) : let t := s.gaugeClear v
    t.rd REF_GAUGE_VALUE = (if v.getLsbD 0 then 0 else s.rd REF_GAUGE_VALUE) ∧
    t.rd CODEC_GAUGE_VALUE = (if v.getLsbD 1 then 0 else s.rd CODEC_GAUGE_VALUE) ∧ t = { s with regs := t.regs, codecPhase := t.codecPhase } := by
  have hz : ∀ (s : State) (f : Fld), f.lo + f.w ≤ 64 → (s.wr f 0 0).rd f = 0 := fun s f h => (rd_wr_same s f 0 0 h).trans (Nat.zero_mod _)
  have href : ∀ s : State, (s.wr CODEC_GAUGE_VALUE 0 0).rd REF_GAUGE_VALUE = s.rd REF_GAUGE_VALUE :=
    fun s => rd_wr_other s 0 (by decide) (.inl (by decide))
  have hcodec : ∀ s : State, (s.wr REF_GAUGE_VALUE 0 0).rd CODEC_GAUGE_VALUE = s.rd CODEC_GAUGE_VALUE :=
    fun s => rd_wr_other s 0 (by decide) (.inl (by decide))
  have hphase : ∀ (s : State) (g : Fld), ({ s with codecPhase := 0 } : State).rd g = s.rd g := fun _ _ => rfl
  unfold State.gaugeClear
  cases v.getLsbD 0 <;> cases v.getLsbD 1 <;> simp only [Bool.false_eq_true, if_false, if_true]
  · simp
  · exact ⟨by rw [href, hphase], hz _ _ (by decide), rfl⟩
  · exact ⟨hz _ _ (by decide), hcodec _, rfl⟩
  · exact ⟨by rw [href, hphase, hz _ _ (by decide)], hz _ _ (by decide), rfl⟩

/-- A gauge of the always-on kind that reaches all-ones. -/
theorem State.saturate_leaves (s : State) {g : Fld} (hg : g ∈ [REF_GAUGE_VALUE, CODEC_GAUGE_VALUE]) (h : s.rd g ≠ ctrMax) :
    let t := s.saturate g
    t.rd g = ctrMax ∧ (t.rd EVT_STATUS_EVENTS).testBit evCounterOvf = true ∧ t.mem = s.mem ∧ t.host = s.host := by
  have hfit : g.lo + g.w ≤ 64 ∧ ctrMax % 2 ^ g.w = ctrMax ∧ regOff g.reg 0 ≠ regOff .evtStatus 0 := by
    rcases List.mem_cons.1 hg with rfl | hg
    · decide
    · obtain rfl := List.mem_singleton.1 hg
      decide
  obtain ⟨hw, hm, he⟩ := hfit
  intro t
  have ht : t = (s.wr g 0 ctrMax).raise evCounterOvf := if_neg h
  rw [ht]
  exact ⟨by rw [State.rd_raise _ _ he, rd_wr_same _ _ _ _ hw, hm], State.raise_event _ (by decide), by simp, by simp⟩

theorem exec_gaugeSaturated_island {s : State} {o : BitVec 32} {g : Fld} (hr : s.runs = true) (hg : g ∈ [REF_GAUGE_VALUE, CODEC_GAUGE_VALUE])
    (ho : o.toNat = regOff g.reg 0) : exec (.gaugeSaturated o) s = .next (s.saturate g) := by
  show execGaugeSaturated o s = _
  rw [execGaugeSaturated, State.issue_runs _ _ hr]
  rcases List.mem_cons.1 hg with rfl | hg
  · exact congrArg _ (if_pos ho)
  · obtain rfl := List.mem_singleton.1 hg
    have hne : o.toNat ≠ regOff .refGauge 0 := by rw [ho]; decide
    exact congrArg _ ((if_neg hne).trans (if_pos ho))

/-- Counter blocks lie at multiples of 8. -/
theorem counterBlocks_aligned : ∀ f ∈ deviceBlocks ++ instanceBlocks ++ plotBlocks, f.base % 8 = 0 ∧ f.stride % 8 = 0 ∧ 0 < f.stride := by
  decide

/-- Where an offset of a counter block stands in its family. -/
theorem ctrBlockAt_some {o : Nat} {f : CtrFamily} {b : Nat} (h : ctrBlockAt o = some (f, b)) :
    f ∈ deviceBlocks ++ instanceBlocks ++ plotBlocks ∧ f.base ≤ o ∧ b = f.base + f.stride * ((o - f.base) / f.stride) := by
  obtain ⟨g, hg, he⟩ := Option.map_eq_some_iff.1 h
  obtain ⟨rfl, rfl⟩ := Prod.mk.inj he
  have hh := List.find?_some hg
  simp only [CtrFamily.holds, decide_eq_true_eq] at hh
  exact ⟨List.mem_of_find?_eq_some hg, hh.1, rfl⟩

/-- The counter that an aligned offset of a block names stands at that offset. -/
theorem ctrBlockAt_off {o : Nat} {f : CtrFamily} {b : Nat} (h : ctrBlockAt o = some (f, b)) (h8 : o % 8 = 0) :
    (⟨f.base, f.stride, (o - b) / 8⟩ : Ctr).off ((b - f.base) / f.stride) = o := by
  obtain ⟨hf, hlo, hb⟩ := ctrBlockAt_some h
  obtain ⟨hbase, hstride, hpos⟩ := counterBlocks_aligned f hf
  have hq : (b - f.base) / f.stride = (o - f.base) / f.stride := by
    rw [hb, Nat.add_sub_cancel_left, Nat.mul_div_cancel_left _ hpos]
  have hle : f.stride * ((o - f.base) / f.stride) ≤ o - f.base := Nat.mul_div_le _ _
  have hb8 : b % 8 = 0 := by
    have hm : f.stride * ((o - f.base) / f.stride) % 8 = 0 := by rw [Nat.mul_mod, hstride]; simp
    rw [hb]; omega
  rw [Ctr.off, Ctr.block]
  dsimp only
  rw [hq, ← hb]
  omega

theorem exec_gaugeSaturated_counter {s : State} {o : BitVec 32} {f : CtrFamily} {b : Nat} (hr : s.runs = true)
    (h : ctrBlockAt o.toNat = some (f, b)) (h8 : o.toNat % 8 = 0) (hd : f.domain ((o.toNat - b) / 8) ≠ 15) (hi : (o.toNat - b) / 8 < 60)
    (h1 : o.toNat ≠ regOff .refGauge 0) (h2 : o.toNat ≠ regOff .codecGauge 0) : exec (.gaugeSaturated o) s =
      .next (s.bump ⟨f.base, f.stride, (o.toNat - b) / 8⟩ ((b - f.base) / f.stride) ctrMax) := by
  have hno : ¬(o.toNat % 8 ≠ 0 ∨ f.domain ((o.toNat - b) / 8) = 15 ∨ 60 ≤ (o.toNat - b) / 8) := by
    rintro (h' | h' | h')
    · exact h' h8
    · exact hd h'
    · omega
  show execGaugeSaturated o s = _
  rw [execGaugeSaturated, State.issue_runs _ _ hr]
  simp only [if_neg h1, if_neg h2, h, if_neg hno]

/-- A counter increased by all-ones stands at all-ones. -/
theorem State.bump_ctrMax (s : State) (c : Ctr) (n : Nat) : (sget (0 : BitVec 48) (s.bump c n ctrMax).ctrs (c.off n)).toNat = ctrMax :=
  (s.count_bump c n ctrMax).trans (if_pos (Nat.le_add_left _ _))

/-! ### REGISTER_WRITE (R604 to R606) -/

section
variable {s : State} {src : AccessSource} {o : BitVec 32} {v : DWord}

theorem exec_registerWrite_misaligned (hr : s.runs = true) (h : o.toNat % 8 ≠ 0) :
    exec (.registerWrite src o v) s = .next (s.bump ctrBadAccess) := by
  show execRegisterWrite src o v s = _
  rw [execRegisterWrite, State.issue_runs _ _ hr, if_pos h]

theorem exec_registerWrite_waits (hr : s.runs = true) (h : o.toNat % 8 = 0) (hn : s.accessNow src o.toNat = false) :
    exec (.registerWrite src o v) s = .next { s with boot := { s.boot with held := s.boot.held ++ [.registerWrite src o v] } } := by
  show execRegisterWrite src o v s = _
  rw [execRegisterWrite, State.issue_runs _ _ hr]
  simp [h, hn]

theorem exec_registerWrite_served (hr : s.runs = true) (h : o.toNat % 8 = 0) (hn : s.accessNow src o.toNat = true) :
    exec (.registerWrite src o v) s = .next (s.accessWrite src o.toNat v) := by
  show execRegisterWrite src o v s = _
  rw [execRegisterWrite, State.issue_runs _ _ hr]
  simp [h, hn]

/-- THERM_CTL, HG_CTL and PWR_IDLE take their fields under their access codes (R10). -/
theorem State.accessWrite_plain (s : State) (v : DWord) {off n : Nat} {k : RegKind} (hk : k ∈ [RegKind.thermCtl, .hgCtl, .pwrIdle])
    (h : regAt off = some (k, n)) (hd : off < diagBase) :
    s.accessWrite .operator off v = s.setReg k n (writeFields k n (s.reg k n) v) := by
  have hw : s.accessWrite .operator off v = if leveeKind k then
      { s with lev := { s.lev with heldWrites := s.lev.heldWrites ++ [(off, v)] } } else s.regWrite .operator k n v := by
    show s.privWrite .operator off v = _
    simp only [State.privWrite, if_neg (Nat.not_le.2 hd), h, reduceCtorEq, if_false]
  rw [hw]
  simp only [List.mem_cons, List.not_mem_nil, or_false] at hk
  rcases hk with rfl | rfl | rfl <;> rfl

end

/-! ### DIAG_WRITE (R612, R613) -/

theorem exec_diagWrite_idle {s : State} {o : BitVec 32} (v : DWord) {p d : Nat} (hr : s.runs = true) (h8 : o.toNat % 8 = 0)
    (ho : diagOf o.toNat = some (p, d)) (hp : s.plotPart p = none) :
    exec (.diagWrite .operator o v) s = .next (s.setPlot p ((s.plot p).diagWrite (diagPlace d) v)) := by
  have hf : s.foreignPlot p = false := by unfold State.foreignPlot; rw [hp]
  have hs : s.diagServed p = true := by unfold State.diagServed; rw [hp]
  show execDiagWrite .operator o v s = _
  rw [execDiagWrite, State.issue_runs _ _ hr, if_neg (not_not.2 h8), State.diagPut, ho]
  simp [hf, hs]

/-- The plot windows begin at a multiple of 8. -/
theorem diagOf_aligned {off p d : Nat} (h8 : off % 8 = 0) (h : diagOf off = some (p, d)) : d % 8 = 0 := by
  unfold diagOf at h
  split_ifs at h with hr
  obtain ⟨-, rfl⟩ := Prod.mk.inj (Option.some.inj h)
  unfold diagBase at hr ⊢
  omega

/-- Two elements of an accumulator tile written through the window. -/
theorem Plot.diagWrite_tile (x : Plot) (v : DWord) (t : Nat) {e : Nat} (he : e + 1 < 4096) : let y := x.diagWrite (.tile t e) v
    (y.tile t).elem 0 e = v.setWidth 32 ∧ (y.tile t).elem 0 (e + 1) = (v >>> 32).setWidth 32 ∧ ∀ k, k ≠ t → y.tile k = x.tile k := by
  intro y
  have hy : (y.tile t).data = (((x.tile t).data ++ List.replicate (4096 - (x.tile t).data.length) (0 : Word)).set e (v.setWidth 32)).set (e + 1)
      ((v >>> 32).setWidth 32) := by
    show ((x.setTile t _).tile t).data = _
    rw [Plot.tile_setTile]
  have hl : 4096 ≤ ((x.tile t).data ++ List.replicate (4096 - (x.tile t).data.length) (0 : Word)).length := by simp; omega
  refine ⟨?_, ?_, fun k hk => x.tile_setTile_other _ hk⟩
  · rw [Tile.elem, hy, List.getD_eq_getElem?_getD, List.getElem?_set_ne (by omega), List.getElem?_set, if_pos (by omega), if_pos (by omega)]
    rfl
  · rw [Tile.elem, hy, List.getD_eq_getElem?_getD, List.getElem?_set, if_pos (by omega), if_pos (by rw [List.length_set]; omega)]
    rfl

/-! ### SEEP_FIRE (R141) -/

section
variable {s : State} {k : SeepKind} {n : Nat}

theorem exec_seepFire (hr : s.runs = true) : exec (.seepFire k n) s = .next (s.seepFire k n) := by
  show execSeepFire k n s = _
  rw [execSeepFire, State.issue_runs _ _ hr]

theorem State.seepFire_idle (h : k = .watchdog ∨ s.seepArmed k n = false ∨ s.seepSeen k n < seepDelay (s.armedWord k n)) : s.seepFire k n = s := by
  unfold State.seepFire
  rcases h with h | h | h <;> simp [h]

theorem State.seepFire_fires (hk : k ≠ .watchdog) (ha : s.seepArmed k n = true) (hd : seepDelay (s.armedWord k n) ≤ s.seepSeen k n) :
    s.seepFire k n = (s.disarm k n).inject_ k n (s.armedWord k n) := by
  unfold State.seepFire
  simp [hk, ha, hd]

variable (s k n)

/-- The seep keeps ARM when it fires: a persistent PWR_SEEP (R546). -/
abbrev State.keepsArm : Prop := k = .pwr ∧ seepPersists (s.armedWord k n) = true

/-- A seep that has fired and waits to be armed anew. -/
def State.unarmed : State :=
  { s with armed := sput (0 : DWord) s.armed (regOff (seepReg k) n) 0, seen := sput 0 s.seen (regOff (seepReg k) n) 0 }

theorem State.disarm_kept (h : s.keepsArm k n) :
    s.disarm k n = s.setReg (seepReg k) n (s.reg (seepReg k) n ||| BitVec.ofNat 64 (2 ^ 48)) := by
  simp only [State.disarm, if_pos h]

theorem State.disarm_cleared (h : ¬s.keepsArm k n) :
    s.disarm k n = (s.setReg (seepReg k) n ((s.reg (seepReg k) n ||| BitVec.ofNat 64 (2 ^ 48)) &&& ~~~1)).unarmed k n := by
  simp only [State.disarm, if_neg h, State.unarmed]

theorem State.reg_unarmed : (s.unarmed k n).reg (seepReg k) n = s.reg (seepReg k) n := rfl

theorem State.disarm_only : s.disarm k n = { s with regs := (s.disarm k n).regs, armed := (s.disarm k n).armed, seen := (s.disarm k n).seen } := by
  by_cases h : s.keepsArm k n
  · rw [s.disarm_kept k n h]; rfl
  · rw [s.disarm_cleared k n h]; rfl

/-- A fault left for its unit as the seep is disarmed. -/
theorem State.inject_disarm_only (w : DWord) : let t := (s.disarm k n).inject_ k n w
    t.inject = s.inject ++ [{ kind := k, inst := n, word := w }] ∧
    t = { s with inject := t.inject, regs := t.regs, armed := t.armed, seen := t.seen } := by
  rw [s.disarm_only k n]
  exact ⟨rfl, rfl⟩

/-- FIRED is set. -/
theorem State.disarm_fired : ((s.disarm k n).reg (seepReg k) n).getLsbD 48 = true := by
  by_cases h : s.keepsArm k n
  · rw [s.disarm_kept k n h, reg_setReg_same]
    simp
  · rw [s.disarm_cleared k n h, State.reg_unarmed, reg_setReg_same]
    simp

/-- A seep that does not keep ARM is clear, and counts anew. -/
theorem State.disarm_disarms (h : ¬s.keepsArm k n) : ((s.disarm k n).reg (seepReg k) n).getLsbD 0 = false ∧
    (s.disarm k n).armedWord k n = 0 ∧ (s.disarm k n).seepSeen k n = 0 := by
  rw [s.disarm_cleared k n h]
  refine ⟨?_, by simp [State.armedWord, State.unarmed], by simp [State.seepSeen, State.unarmed]⟩
  rw [State.reg_unarmed, reg_setReg_same]
  simp

/-- A seep that keeps ARM keeps what it was armed with. -/
theorem State.armedWord_disarm_kept (h : s.keepsArm k n) : (s.disarm k n).armedWord k n = s.armedWord k n := by
  rw [s.disarm_kept k n h]
  rfl

end

end Sys2Proof.Machine
end

section
/-! The commands on rings, counters, gauges, registers and seeps (O59). -/

namespace Sys2Proof.Machine

/-- Settles O59: each command by the branch that it takes (`State.ringCtlWrite_enables`, `State.accessWrite_plain`, `State.seepFire_fires`),
and what that branch leaves. -/
theorem registerCommands : Obligations.RegisterCommands := by
  unfold Obligations.RegisterCommands
  refine ⟨fun s q v => ?rings, fun s b m f hr hb => ?counters, fun s v hr => ⟨_, exec_gaugeClear v hr, s.gaugeClear_leaves v⟩,
    fun s o hr => ?saturated, fun s src o v hr => ?registers, fun s o v p d hr h8 ho hp => ?diag, fun s k n => ?seeps⟩
  case rings =>
    intro r hr
    refine ⟨fun he ha => ?_, fun he ha hb => ?_, fun he ha hb => ?_, ?_⟩
    · rw [exec_ringEnable s q v hr, State.ringCtlWrite_active he ha]
    · rw [exec_ringEnable s q v hr, State.ringCtlWrite_bad he ha hb]
    · obtain ⟨hon, hsq, hcq, hvec, hten, hmaint⟩ := s.ringEnabled_leaves q v
      obtain ⟨hhead, htail, hcqt⟩ := State.ringRestart_indices (s.setReg .ringCtl q.toNat (ringCtlNext (s.reg .ringCtl q.toNat) (ringOn v) false)) q.toNat
      obtain ⟨hring, hother⟩ := s.ring_ringEnabled q v
      obtain ⟨rs, xs, honly⟩ := s.ringEnabled_only q v
      exact ⟨_, by rw [exec_ringEnable s q v hr, State.ringCtlWrite_enables he ha hb], hon, hsq, hcq, hvec, hten, hmaint, hhead, htail, hcqt,
        hring, hother, by rw [honly]⟩
    · obtain ⟨hoff, hten, hsz, hst⟩ := s.ringDisabled_leaves q v
      obtain ⟨rs, honly⟩ := s.ringDisabled_only q v
      exact ⟨_, by rw [exec_ringDisable s q v hr, State.ringCtlWrite_disables], hoff, hten, hsz, hst, by rw [honly]⟩
  case counters =>
    refine ⟨_, exec_counterClear_block m hr hb, rfl, fun i hi => ?_, sget_sput_same _ _ _ _, fun o ho => sget_sput_other _ _ _ _ ho⟩
    refine (sget_clearCounters s.ctrs b.toNat (m &&& f.mask) i 60).trans ?_
    simp only [hi, true_and]
  case saturated =>
    refine ⟨fun g hg ho h => ⟨_, exec_gaugeSaturated_island hr hg ho, s.saturate_leaves hg h⟩, fun f b hb h8 hd hi h1 h2 =>
      ⟨_, exec_gaugeSaturated_counter hr hb h8 hd hi h1 h2, ?_, State.bump_mem _ _ _ _, State.bump_host _ _ _ _⟩⟩
    have hm := s.bump_ctrMax ⟨f.base, f.stride, (o.toNat - b) / 8⟩ ((b - f.base) / f.stride)
    rwa [ctrBlockAt_off hb h8] at hm
  case registers =>
    refine ⟨exec_registerWrite_misaligned hr, exec_registerWrite_waits hr, fun h8 hn => ⟨exec_registerWrite_served hr h8 hn, ?_⟩⟩
    rintro k hk n rfl hat hd
    rw [exec_registerWrite_served hr h8 hn, s.accessWrite_plain v hk hat hd]
  case diag =>
    refine ⟨exec_diagWrite_idle v hr h8 ho hp, fun hd => ?_⟩
    have h8' := diagOf_aligned h8 ho
    rw [show diagPlace d = .tile (d / 0x4000) (d % 0x4000 / 4) from if_pos hd]
    exact (s.plot p).diagWrite_tile v _ (by omega)
  case seeps =>
    intro w hr
    refine ⟨fun h => by rw [exec_seepFire hr, State.seepFire_idle h], fun hk ha hd => ?_⟩
    obtain ⟨hinj, honly⟩ := s.inject_disarm_only k n w
    refine ⟨_, by rw [exec_seepFire hr, State.seepFire_fires hk ha hd], hinj, s.disarm_fired k n, fun h => s.disarm_disarms k n ?_,
      fun h1 h2 => s.armedWord_disarm_kept k n ⟨h1, h2⟩, honly⟩
    rintro ⟨h1, h2⟩
    rcases h with h | h
    · exact h h1
    · exact absurd (h2.symm.trans h) (by decide)

end Sys2Proof.Machine
end

section
/-! SUPPORT. PASS and its drain: what issues, and what the array leaves (R113, R116, R119, R123, R127, R128, R187). -/

namespace Sys2Proof.Machine

/-! ### Items that show a pass -/

/-- What a nest says of the pass at a stream's head. -/
def ExpItem.bind : ExpItem → Option PassBind
  | .pass _ b => some b
  | _ => none

/-- A pass shown by its stream is the stream's own, or one of a NEST. -/
theorem ExpItem.shown_pass {it : ExpItem} {w : PassWord} (h : it.shown = some (.pass w)) : it = .word (.pass w) ∨ ∃ b, it = .pass w b := by
  cases it with
  | word v => exact .inl (by rw [Option.some.inj h])
  | pass v b =>
    obtain rfl := StreamWord.pass.inj (Option.some.inj h)
    exact .inr ⟨b, rfl⟩
  | fill v => exact absurd (Option.some.inj h) (by simp)
  | furrow => exact absurd (Option.some.inj h) (by simp)
  | retire ws => exact absurd h (by simp [ExpItem.shown])

/-- Walks of the NEST that retires with the word at a stream's head (R187). -/
def walksBehind : List ExpItem → List Nat
  | _ :: .retire ws :: _ => ws
  | _ => []

theorem walksBehind_cons {i : ExpItem} {rest : List ExpItem} (h : ∀ ws, rest.head? ≠ some (.retire ws)) : walksBehind (i :: rest) = [] := by
  unfold walksBehind
  split
  · rename_i ws l he
    obtain ⟨-, rfl⟩ := List.cons.inj he
    exact absurd rfl (h ws)
  · rfl

/-! ### A stream past a pass -/

/-- The array behind a pass that issues: the walks of the NEST whose last word it is retire with it. -/
theorem State.passes_advance {s : State} {p : Nat} {l : List PassRec} {r : PassRec} (h : (s.plot p).passes = l ++ [r]) :
    ((s.advance p .flume).plot p).passes = l ++ [{ r with ends := r.ends ++ walksBehind (s.plot p).flume.exp }] := by
  have hsame : l ++ [r] = l ++ [{ r with ends := r.ends ++ [] }] := by rw [List.append_nil]
  rcases he : ((s.plot p).stream .flume).exp with _ | ⟨i, rest⟩
  · rw [s.advance_own p .flume he, State.plot_setPlot, Plot.passes_setStream, h, hsame]
    exact congrArg (fun e => l ++ [{ r with ends := r.ends ++ walksBehind e }]) he.symm
  · have hexp : (s.plot p).flume.exp = i :: rest := he
    rw [hexp]
    by_cases hr : ∀ ws, rest.head? ≠ some (.retire ws)
    · rw [s.advance_expanded p .flume he hr, State.plot_setPlot, Plot.passes_setStream, h, walksBehind_cons hr, ← hsame]
    · obtain ⟨ws, hws⟩ := not_forall_not.1 hr
      obtain ⟨tail, rfl⟩ := List.head?_eq_some_iff.1 hws
      have hne : (StreamSel.flume = .flume ∧ (!(s.plot p).passes.isEmpty) = true) := ⟨rfl, by rw [h]; simp⟩
      rw [s.advance_retire p .flume he]
      dsimp only
      rw [if_pos hne, State.plot_setPlot, h]
      exact endWith_append ws l r

theorem State.tile_advance (s : State) (p : Nat) (sel : StreamSel) (k : Nat) : ((s.advance p sel).plot p).tile k = (s.plot p).tile k := by
  obtain ⟨q, ps, h⟩ := s.advance_plot p sel
  rw [h]
  exact Plot.tile_setStream _ _ _ _

theorem State.fills_advance (s : State) (p : Nat) (sel : StreamSel) : ((s.advance p sel).plot p).fills = (s.plot p).fills := by
  obtain ⟨q, ps, h⟩ := s.advance_plot p sel
  rw [h]
  cases sel <;> rfl

/-- Going on in a stream counts nothing and moves no message. -/
theorem State.advance_leaves (s : State) (p : Nat) (sel : StreamSel) : let t := s.advance p sel
    (∀ c n, t.count c n = s.count c n) ∧ t.mem = s.mem ∧ t.host = s.host ∧ t.canal = s.canal := by
  obtain ⟨x, q, h⟩ := s.advance_only p sel
  rw [h]
  exact ⟨fun _ _ => rfl, rfl, rfl, rfl⟩

theorem State.plot_bump (s : State) (c : Ctr) (n k p : Nat) : (s.bump c n k).plot p = s.plot p := by
  unfold State.plot; rw [State.bump_plots]

/-! ### PASS (R127, R128, R131, R196) -/

/-- DST as a pass into it issues. -/
def Plot.passDst (x : Plot) (w : PassWord) (b : Option PassBind) : Tile :=
  let t := x.tile w.dst.toNat
  let t1 : Tile := match b with
    | some b => if b.first then { t with rows := b.rows, cols := b.cols, negInf := b.negInf, bound := some (b.serial, b.m, b.n) } else t
    | none => if w.overwrite then { t with rows := 64, cols := 64, negInf := false } else t
  { t1 with st := .pending }

/-- The slots of an operand are FULL. -/
def Plot.slotsFull (x : Plot) (bank : Bool) (n : Nat) : Prop := ∀ i < x.tileSlots bank n, (x.stage bank (n + i)).full = true

theorem Plot.slotsFull.holds {x : Plot} {bank : Bool} {n : Nat} (h : x.slotsFull bank n) :
    ((x.stage bank n).full && (x.tileSlots bank n = 1 || (x.stage bank (n + 1)).full)) = true := by
  have hpos : 0 < x.tileSlots bank n := by unfold Plot.tileSlots; split_ifs <;> decide
  have h0 : (x.stage bank n).full = true := h 0 hpos
  rw [h0, Bool.true_and]
  by_cases h1 : x.tileSlots bank n = 1
  · simp [h1]
  · rw [h 1 (by omega), Bool.or_true]

/-- A seep that counts its unit's events counts nothing else and moves no message. -/
theorem State.seepEvents_leaves (s : State) (k : SeepKind) (i n : Nat) (acts : DWord → Bool) : let t := (s.seepEvents k i n acts).st
    (∀ c j, t.count c j = s.count c j) ∧ t.mem = s.mem ∧ t.host = s.host ∧ t.canal = s.canal := by
  rw [s.seepEvents_only]
  exact ⟨fun _ _ => rfl, rfl, rfl, rfl⟩

theorem Plot.tile_withPasses (x : Plot) (l : List PassRec) (k : Nat) : ({ x with passes := l } : Plot).tile k = x.tile k := rfl

/-- A pass that enters the array. -/
def State.enterPass (s : State) (p : Nat) (w : PassWord) (b : Option PassBind) : State :=
  let x := s.plot p
  let h := s.seepEvents .flume p 1
  let y := x.setTile w.dst.toNat (x.passDst w b)
  (h.st.setPlot p { y with passes := x.passes ++ [{ w := w, fault := h.hit.map (·.2) }] }).bump ctrFlumeSteps p
    (classSteps (passClass (x.stage false w.aslot.toNat).fmt (x.stage true w.bslot.toNat).fmt))

theorem exec_pass_issues {s : State} {p : PPlot} {w : PassWord} {it : ExpItem} (h : AtHead s p .flume (.pass w) it)
    (ho : ∀ b, it = .pass w b → b.ovf = none) (ha : (s.plot p.toNat).slotsFull false w.aslot.toNat)
    (hb : (s.plot p.toNat).slotsFull true w.bslot.toNat) (hg : (s.plot p.toNat).tileGate w it.bind = .go)
    (hl : (s.plot p.toNat).passes.length < 2) :
    exec (.pass p w) s = .next ((s.enterPass p.toNat w it.bind).advance p.toNat .flume) := by
  show execPass p w s = _
  rw [execPass, State.streamRow_head _ h]
  rcases ExpItem.shown_pass h.shown with rfl | ⟨b, rfl⟩
  · have hg' : (s.plot p.toNat).tileGate w none = .go := hg
    simp only [Option.bind_none, ha.holds, hb.holds, hg', Bool.not_true, Bool.or_self, Bool.false_eq_true, if_false, if_neg (Nat.not_le.2 hl)]
    rfl
  · have hg' : (s.plot p.toNat).tileGate w (some b) = .go := hg
    simp only [Option.bind_some, ho b rfl, ha.holds, hb.holds, hg', Bool.not_true, Bool.or_self, Bool.false_eq_true, if_false,
      if_neg (Nat.not_le.2 hl)]
    rfl

section
variable (s : State) (p : Nat) (w : PassWord) (b : Option PassBind)

theorem State.plot_enterPass : (s.enterPass p w b).plot p = { (s.plot p).setTile w.dst.toNat ((s.plot p).passDst w b) with
    passes := (s.plot p).passes ++ [{ w := w, fault := (s.seepEvents .flume p 1).hit.map (·.2) }] } := by
  unfold State.enterPass
  rw [State.plot_bump, State.plot_setPlot]

theorem State.enterPass_leaves : let t := s.enterPass p w b
    t.count ctrFlumeSteps p = satAdd (s.count ctrFlumeSteps p) (classSteps (passClass ((s.plot p).stage false w.aslot.toNat).fmt
      ((s.plot p).stage true w.bslot.toNat).fmt)) ∧ t.mem = s.mem ∧ t.host = s.host ∧ t.canal = s.canal := by
  obtain ⟨hc, hm, hh, hcan⟩ := s.seepEvents_leaves .flume p 1 fun _ => true
  unfold State.enterPass
  dsimp only
  rw [State.count_bump, State.bump_mem, State.bump_host, State.bump_canal]
  exact ⟨congrArg (satAdd · _) (hc _ _), hm, hh, hcan⟩

/-- A plot whose pass has issued. -/
theorem State.passIssued_plot : let t := (s.enterPass p w b).advance p .flume; let x := s.plot p
    (t.plot p).passes = x.passes ++ [⟨w, (s.seepEvents .flume p 1).hit.map (·.2), [], walksBehind x.flume.exp⟩] ∧
    (t.plot p).tile w.dst.toNat = x.passDst w b ∧ ∀ k, k ≠ w.dst.toNat → (t.plot p).tile k = x.tile k := by
  have hp := s.plot_enterPass p w b
  refine ⟨?_, ?_, fun k hk => ?_⟩
  · rw [State.passes_advance (congrArg Plot.passes hp), hp]
    rfl
  · rw [State.tile_advance, hp]
    exact (Plot.tile_withPasses _ _ _).trans ((s.plot p).tile_setTile _ _)
  · rw [State.tile_advance, hp]
    exact (Plot.tile_withPasses _ _ _).trans ((s.plot p).tile_setTile_other _ hk)

end

theorem Plot.passDst_st (x : Plot) (w : PassWord) (b : Option PassBind) : (x.passDst w b).st = .pending := rfl

theorem Plot.passDst_data (x : Plot) (w : PassWord) (b : Option PassBind) : (x.passDst w b).data = (x.tile w.dst.toNat).data := by
  unfold Plot.passDst
  cases b with
  | none => dsimp only; split_ifs <;> rfl
  | some b => dsimp only; split_ifs <;> rfl

/-! ### The sums of the array (R113, R114, R125, R126) -/

/-- A data cell of the array without a fault: the exact sum of its products. -/
theorem Plot.cellAt_cells (x : Plot) (w : PassWord) {m n : Nat} (hm : m < 64) (hn : n < 64) :
    cellAt (x.cells w) m n = sumNum ((List.range 64).map fun k => (x.opA w m k).mul (x.opB w k n)) := by
  have hrow : (x.cells w).getD m [] = ((List.range 65).map fun j => (List.range 64).map fun k => x.feedB w k j).map fun c =>
      sumNum (((List.range 64).map fun k => x.feedA w m k).zipWith Num.mul c) := by
    unfold Plot.cells
    rw [List.getD_eq_getElem?_getD, List.getElem?_map, List.getElem?_range (by omega)]
    rfl
  rw [cellAt, hrow, List.getD_eq_getElem?_getD, List.getElem?_map, List.getElem?_map, List.getElem?_range (by omega)]
  show sumNum (List.zipWith Num.mul _ _) = _
  rw [List.zipWith_map, List.zipWith_self]
  refine congrArg sumNum (List.map_congr_left fun k _ => ?_)
  rw [Plot.feedA, Plot.feedB, if_neg (by omega), if_neg (by omega)]

end Sys2Proof.Machine
end

section
/-! SUPPORT. A pass that drains (R119, R120, R123, R128, R164, R197): its tile, the slots it gives up, its token and its count. -/

namespace Sys2Proof.Machine

/-! ### Rows of a tile -/

/-- A tile written row by row, each of 64 lanes. -/
theorem getD_rows {n : Nat} (f : Nat → Nat → Word) {m l : Nat} (hm : m < n) (hl : l < 64) :
    ((List.range n).flatMap fun i => (List.range 64).map (f i)).getD (64 * m + l) 0 = f m l := by
  induction n with
  | zero => omega
  | succ n ih =>
    have hlen : ((List.range n).flatMap fun i => (List.range 64).map (f i)).length = 64 * n := by
      simp [List.length_flatMap, Nat.mul_comm]
    rw [List.range_succ (n := n), List.flatMap_append]
    by_cases h : m = n
    · subst h
      rw [List.getD_append_right _ _ _ _ (by omega), hlen, Nat.add_sub_cancel_left]
      simp [List.getD_eq_getElem?_getD, hl]
    · rw [List.getD_append _ _ _ _ (by omega)]
      exact ih (by omega)

/-- An element of DST behind a pass (R89, R90, R119). -/
theorem Plot.elem_passTile (x : Plot) (w : PassWord) (cells : List (List Num)) {t : Tile} (ht : t.data = x.passTile w cells) {m n : Nat}
    (hm : m < 64) (hn : n < 64) :
    t.elem m n = drained (if w.overwrite then 0 else (x.tile w.dst.toNat).elem m n) (cellAt cells m n) := by
  rw [Tile.elem, ht]
  exact getD_rows _ hm hn

/-! ### Slots given up (R123, R128) -/

theorem Plot.emptySlot_only (x : Plot) (b : Bool) (n : Nat) : ∃ k r, x.emptySlot b n = { x with bank := k, rowStage := r } :=
  x.setStage_only b n _

/-- A plot with slots emptied one after the other. -/
def Plot.emptyAll (x : Plot) (l : List (Bool × Nat)) : Plot := l.foldl (fun y b => y.emptySlot b.1 b.2) x

theorem Plot.emptyAll_only (l : List (Bool × Nat)) (x : Plot) : ∃ k r, x.emptyAll l = { x with bank := k, rowStage := r } := by
  induction l generalizing x with
  | nil => exact ⟨_, _, rfl⟩
  | cons b l ih =>
    obtain ⟨k, r, h⟩ := x.emptySlot_only b.1 b.2
    obtain ⟨k', r', h'⟩ := ih { x with bank := k, rowStage := r }
    exact ⟨k', r', by rw [Plot.emptyAll, List.foldl_cons, h]; exact h'⟩

/-- A slot stays FULL that the list does not name. -/
theorem Plot.stage_emptyAll (l : List (Bool × Nat)) (x : Plot) (b : Bool) (n : Nat) :
    (x.emptyAll l).stage b n = { x.stage b n with full := (x.stage b n).full && !l.contains (b, n) } := by
  induction l generalizing x with
  | nil => simp [Plot.emptyAll]
  | cons c l ih =>
    have hc : x.emptyAll (c :: l) = (x.emptySlot c.1 c.2).emptyAll l := rfl
    rw [hc, ih]
    by_cases h : (b, n) = c
    · subst h
      simp [Plot.emptySlot]
    · have hs : (x.emptySlot c.1 c.2).stage b n = x.stage b n := x.stage_setStage_other _ (by
        by_contra hn
        obtain ⟨h1, h2⟩ := not_or.1 hn
        exact h (Prod.ext (not_not.1 h1) (not_not.1 h2)))
      simp [hs, h]

/-- Slots that a pass gives up: its own, and those that earlier passes left to it. -/
def Plot.given (x : Plot) (r : PassRec) : List (Bool × Nat) :=
  r.rel ++ (if r.w.relA then x.operandSlots r.w false else []) ++ (if r.w.relB then x.operandSlots r.w true else [])

/-- A pass still in the array reads a slot. -/
def Plot.reads (x : Plot) (rest : List PassRec) (b : Bool × Nat) : Bool := rest.any fun q => (x.operandSlots q.w b.1).contains b

section
variable (x : Plot) (r : PassRec) (rest : List PassRec)

/-- What remains in the array: a pass takes over those of the slots that it reads itself. -/
def Plot.heirs : List PassRec := rest.map fun q => { q with rel := q.rel ++ (x.given r).filter fun b => (x.operandSlots q.w b.1).contains b }

/-- Slots that no pass behind reads are EMPTY. -/
theorem Plot.giveUp_eq : x.giveUp r rest =
    { x.emptyAll ((x.given r).filter fun b => !x.reads rest b) with passes := x.heirs r rest } := rfl

theorem Plot.giveUp_only : ∃ k t, x.giveUp r rest = { x with bank := k, rowStage := t, passes := x.heirs r rest } := by
  obtain ⟨k, t, h⟩ := x.emptyAll_only ((x.given r).filter fun b => !x.reads rest b)
  exact ⟨k, t, by rw [Plot.giveUp_eq, h]⟩

theorem Plot.stage_giveUp (b : Bool) (n : Nat) : (x.giveUp r rest).stage b n =
    { x.stage b n with full := (x.stage b n).full && !((x.given r).contains (b, n) && !x.reads rest (b, n)) } := by
  have hc : ((x.given r).filter fun b => !x.reads rest b).contains (b, n) = ((x.given r).contains (b, n) && !x.reads rest (b, n)) := by
    rw [Bool.eq_iff_iff]
    simp [List.mem_filter]
  rw [← hc]
  exact Plot.stage_emptyAll _ x b n

end

/-! ### A pass that drains -/

theorem Plot.addCounter_only (x : Plot) (c n : Nat) : ∃ k, x.addCounter c n = { x with ctr := k } := by
  unfold Plot.addCounter
  split_ifs <;> exact ⟨_, rfl⟩

/-- A plot with the tile of its oldest pass written. -/
def Plot.writeDst (x : Plot) (r : PassRec) (rest : List PassRec) (cells : List (List Num)) : Plot :=
  x.setTile r.w.dst.toNat { x.tile r.w.dst.toNat with
    st := if rest.any fun q => q.w.dst = r.w.dst then .pending else .live, data := x.passTile r.w cells }

/-- A plot with a token counted where the pass sends one. -/
def Plot.passToken (x : Plot) (w : PassWord) : Plot := if w.sig then x.addCounter w.sigc.toNat 1 else x

theorem Plot.passToken_only (x : Plot) (w : PassWord) : ∃ k, x.passToken w = { x with ctr := k } := by
  unfold Plot.passToken
  split_ifs
  · exact x.addCounter_only _ _
  · exact ⟨_, rfl⟩

theorem Plot.counter_passToken (x : Plot) (w : PassWord) (c : Nat) :
    (x.passToken w).counter c = x.counter c + (if w.sig = true ∧ c = w.sigc.toNat ∧ c ≠ 0 then 1 else 0) := by
  unfold Plot.passToken
  cases w.sig
  · simp
  · rw [if_pos rfl, Plot.counter_addCounter]
    by_cases hc : c = w.sigc.toNat
    · subst hc; simp
    · simp [hc]

/-- A plot whose oldest pass has drained with the sums given. -/
def Plot.drainPass (x : Plot) (r : PassRec) (rest : List PassRec) (cells : List (List Num)) : Plot :=
  ((x.writeDst r rest cells).giveUp r rest).passToken r.w

/-- What a drained pass leaves of its plot. -/
theorem Plot.drainPass_leaves (x : Plot) (r : PassRec) (rest : List PassRec) (cells : List (List Num)) :
    let y := x.drainPass r rest cells; let d := r.w.dst.toNat
    y.passes = x.heirs r rest ∧ y.pendFail = x.pendFail ∧ (y.tile d).data = x.passTile r.w cells ∧
    (y.tile d).st = (if rest.any fun q => q.w.dst = r.w.dst then .pending else .live) ∧ (∀ k, k ≠ d → y.tile k = x.tile k) ∧
    (∀ b n, y.stage b n = { x.stage b n with full := (x.stage b n).full && !((x.given r).contains (b, n) && !x.reads rest (b, n)) }) ∧
    (∀ c, y.counter c = x.counter c + (if r.w.sig = true ∧ c = r.w.sigc.toNat ∧ c ≠ 0 then 1 else 0)) := by
  intro y d
  have hctr := fun c => ((x.writeDst r rest cells).giveUp r rest).counter_passToken r.w c
  have hstage := fun b n => (x.writeDst r rest cells).stage_giveUp r rest b n
  obtain ⟨k, t, hgive⟩ := (x.writeDst r rest cells).giveUp_only r rest
  obtain ⟨c, htok⟩ := ((x.writeDst r rest cells).giveUp r rest).passToken_only r.w
  have hy : y = { x.writeDst r rest cells with bank := k, rowStage := t, passes := x.heirs r rest, ctr := c } := by
    refine htok.trans ?_
    rw [hgive]
    rfl
  have htile : ∀ k, y.tile k = (x.writeDst r rest cells).tile k := fun k => by rw [hy]; rfl
  refine ⟨by rw [hy], by rw [hy]; rfl, ?_, ?_, fun k hk => ?_, fun b n => ?_, fun c => ?_⟩
  · rw [htile, Plot.writeDst, Plot.tile_setTile]
  · rw [htile, Plot.writeDst, Plot.tile_setTile]
  · rw [htile, Plot.writeDst, Plot.tile_setTile_other _ _ hk]
  · refine Eq.trans ?_ (hstage b n)
    show (((x.writeDst r rest cells).giveUp r rest).passToken r.w).stage b n = _
    rw [htok]
    rfl
  · refine (hctr c).trans ?_
    rw [hgive]
    rfl

theorem State.reportOverflow_calm {s : State} {p : Nat} (h : (s.plot p).pendFail = none) : s.reportOverflow p = s := by
  unfold State.reportOverflow
  simp only [h]

section
variable {s : State} {p : Nat} {r : PassRec} {rest : List PassRec} {a : List (List Num) × PassCheck}

/-- The counts of a pass that drains. -/
def State.countDrain (s : State) (p skipped : Nat) : State := (s.bump ctrPasses p).bump ctrCheckSkipped p skipped

theorem State.drain_calm (h : (s.plot p).pendFail = none) : s.drain p (s.plot p) r rest a =
    ((s.setPlot p ((s.plot p).drainPass r rest a.1)).countDrain p a.2.skipped).endWalks (s.plot p).part r.ends := by
  have hd : s.drain p (s.plot p) r rest a = (((s.setPlot p ((s.plot p).drainPass r rest a.1)).countDrain p a.2.skipped).endWalks
    (s.plot p).part r.ends).reportOverflow p := rfl
  rw [hd]
  refine State.reportOverflow_calm ?_
  obtain ⟨q, hq⟩ := State.endWalks_only (s.plot p).part r.ends ((s.setPlot p ((s.plot p).drainPass r rest a.1)).countDrain p a.2.skipped)
  obtain ⟨-, hp, -⟩ := (s.plot p).drainPass_leaves r rest a.1
  rw [hq]
  show (((((s.setPlot p _).bump ctrPasses p).bump ctrCheckSkipped p _).plot p)).pendFail = none
  rw [State.plot_bump, State.plot_bump, State.plot_setPlot, hp, h]

theorem State.drain_leaves (h : (s.plot p).pendFail = none) : let t := s.drain p (s.plot p) r rest a
    t.plot p = (s.plot p).drainPass r rest a.1 ∧ t.count ctrPasses p = satAdd (s.count ctrPasses p) 1 ∧ t.mem = s.mem ∧ t.host = s.host ∧
    t.canal = s.canal := by
  intro t
  obtain ⟨q, hq⟩ := State.endWalks_only (s.plot p).part r.ends ((s.setPlot p ((s.plot p).drainPass r rest a.1)).countDrain p a.2.skipped)
  have ht : t = { (s.setPlot p ((s.plot p).drainPass r rest a.1)).countDrain p a.2.skipped with pools := q } := (State.drain_calm h).trans hq
  have hother : ctrPasses.off p ≠ ctrCheckSkipped.off p := by simp [Ctr.off, Ctr.block, ctrPasses, ctrCheckSkipped]
  rw [ht]
  refine ⟨?_, ?_, ?_, ?_, ?_⟩
  · show (((s.setPlot p _).bump ctrPasses p).bump ctrCheckSkipped p _).plot p = _
    rw [State.plot_bump, State.plot_bump, State.plot_setPlot]
  · show (((s.setPlot p _).bump ctrPasses p).bump ctrCheckSkipped p _).count ctrPasses p = _
    rw [State.count_bump_other _ _ hother, State.count_bump]
    rfl
  · show (((s.setPlot p _).bump ctrPasses p).bump ctrCheckSkipped p _).mem = _
    rw [State.bump_mem, State.bump_mem, State.setPlot_mem]
  · show (((s.setPlot p _).bump ctrPasses p).bump ctrCheckSkipped p _).host = _
    rw [State.bump_host, State.bump_host, State.setPlot_host]
  · show (((s.setPlot p _).bump ctrPasses p).bump ctrCheckSkipped p _).canal = _
    rw [State.bump_canal, State.bump_canal, State.setPlot_canal]

end

theorem exec_passDrain_drains {s : State} {p : PPlot} {r : PassRec} {rest : List PassRec} (hr : s.runs = true)
    (hp : (s.plot p.toNat).passes = r :: rest) (hf : ((s.plot p.toNat).attempt r.w r.fault).2.fails = false)
    (hq : s.seepQuiet .plot p.toNat = true) :
    exec (.passDrain p) s = .next (s.drain p.toNat (s.plot p.toNat) r rest ((s.plot p.toNat).attempt r.w r.fault)) := by
  have hd : s.drainOldest p.toNat = s.drain p.toNat (s.plot p.toNat) r rest ((s.plot p.toNat).attempt r.w r.fault) := by
    unfold State.drainOldest
    simp only [hp, hf, Bool.not_false, if_true]
  show execPassDrain p s = _
  rw [execPassDrain, State.issue_runs _ _ hr]
  simp only [hp, State.enterStores_quiet _ hq, hd]

end Sys2Proof.Machine
end

section
/-! SUPPORT. Fills queued and completed, and the expansion of a NEST (R123, R163, R187, R190, R206, R301). -/

namespace Sys2Proof.Machine

/-! ### FILL (R163) -/

/-- A fill shown by its stream is the stream's own, or one of a NEST. -/
theorem ExpItem.shown_fill {it : ExpItem} {w : FillWord} (h : it.shown = some (.fill w)) :
    it = .word (.fill w) ∨ ∃ t nest e m n k, it = .fill w t nest e m n k := by
  cases it with
  | word v => exact .inl (by rw [Option.some.inj h])
  | pass v b => exact absurd (Option.some.inj h) (by simp)
  | fill v t nest e m n k =>
    obtain rfl := StreamWord.fill.inj (Option.some.inj h)
    exact .inr ⟨t, nest, e, m, n, k, rfl⟩
  | furrow => exact absurd (Option.some.inj h) (by simp)
  | retire ws => exact absurd h (by simp [ExpItem.shown])

/-- The stored tile that a fill asks for. -/
def State.fillTile (s : State) (x : Plot) (w : FillWord) : ExpItem → TileRef
  | .fill _ u _ _ _ _ _ => u
  | _ => s.wordTile x w.desc.toNat w.usep w.preg.toNat

/-- The state in which a fill is queued: the stream's own word walks its PAGE source (R301). -/
def State.fillWalk (s : State) (p part : Nat) (d : TileDesc) (t : TileRef) : ExpItem → State
  | .fill .. => s
  | _ => s.walked p part d t

/-- A fill queued. -/
def State.queueFill (s : State) (p : Nat) (w : FillWord) (t : TileRef) : State :=
  s.setPlot p { s.plot p with fills := (s.plot p).fills ++ [⟨w.bank, w.slot.toNat, t, w.fillc.toNat⟩] }

/-- What FILL finds: room in the queue, no closed fence, and a source that it may name and that lies in its budget. -/
structure FillReady (s : State) (p : Nat) (w : FillWord) (it : ExpItem) : Prop where
  room : (s.plot p).fills.length < 8
  fence : (s.plot p).fence = true → (imgDesc (s.imgOf (s.plot p)) (s.fillTile (s.plot p) w it).desc).state = false
  page : (imgDesc (s.imgOf (s.plot p)) (s.fillTile (s.plot p) w it).desc).src = 3 → it = .word (.fill w) →
    s.pageDenied (s.plot p) (imgDesc (s.imgOf (s.plot p)) (s.fillTile (s.plot p) w it).desc) = false
  budget : s.tileAccess p (imgDesc (s.imgOf (s.plot p)) (s.fillTile (s.plot p) w it).desc) (s.fillTile (s.plot p) w it) false ≠
    .fail stReservoirOverflow

section
variable {s : State} {p : Nat} {w : FillWord} {it : ExpItem} (h : FillReady s p w it)
include h

theorem FillReady.not_held : ¬(8 ≤ (s.plot p).fills.length ∨
    (s.plot p).fence = true ∧ (imgDesc (s.imgOf (s.plot p)) (s.fillTile (s.plot p) w it).desc).state = true) := by
  rintro (h' | ⟨h1, h2⟩)
  · exact absurd h.room (Nat.not_lt.2 h')
  · rw [h.fence h1] at h2
    exact Bool.false_ne_true h2

/-- A fill of a NEST is not checked again; the stream's own word names pages that it may. -/
theorem FillReady.not_denied {own : Bool} (ho : own = true → it = .word (.fill w)) :
    ¬((imgDesc (s.imgOf (s.plot p)) (s.fillTile (s.plot p) w it).desc).src = 3 ∧ own = true ∧
      s.pageDenied (s.plot p) (imgDesc (s.imgOf (s.plot p)) (s.fillTile (s.plot p) w it).desc) = true) := by
  rintro ⟨h1, h2, h3⟩
  rw [h.page h1 (ho h2)] at h3
  exact Bool.false_ne_true h3

end

theorem exec_fill_queues {s : State} {p : PPlot} {w : FillWord} {it : ExpItem} (h : AtHead s p .flume (.fill w) it)
    (hr : FillReady s p.toNat w it) : let t := s.fillTile (s.plot p.toNat) w it
    exec (.fill p w) s = .next (((s.fillWalk p.toNat (s.plot p.toNat).part (imgDesc (s.imgOf (s.plot p.toNat)) t.desc) t it).queueFill
      p.toNat w t).advance p.toNat .flume) := by
  intro t
  show execFill p w s = _
  rw [execFill, State.streamRow_head _ h]
  refine congrArg Host.Outcome.next ?_
  rcases ExpItem.shown_fill h.shown with rfl | ⟨u, nest, e, m, n, k, rfl⟩
  · refine ((if_neg hr.not_held).trans ((if_neg (hr.not_denied fun _ => rfl)).trans (if_neg hr.budget))).trans ?_
    refine congrArg (fun u : State => (u.queueFill p.toNat w t).advance p.toNat .flume) ?_
    unfold State.fillWalk State.walked
    simp only [and_true]
    rfl
  · refine ((if_neg hr.not_held).trans ((if_neg (hr.not_denied (own := false) nofun)).trans (if_neg hr.budget))).trans ?_
    exact congrArg (fun u : State => (u.queueFill p.toNat w t).advance p.toNat .flume) (if_neg fun h' => Bool.false_ne_true h'.2)

theorem State.fillWalk_leaves (s : State) (p part : Nat) (d : TileDesc) (t : TileRef) (it : ExpItem) : let z := s.fillWalk p part d t it
    z.plots = s.plots ∧ z.mem = s.mem ∧ z.host = s.host ∧ z.canal = s.canal := by
  obtain ⟨hp, hm, hh, hc, -⟩ := s.walked_leaves p part d t
  have hz : s.fillWalk p part d t it = s ∨ s.fillWalk p part d t it = s.walked p part d t := by cases it <;> simp [State.fillWalk]
  intro z
  rcases hz with hz | hz
  · rw [show z = s from hz]; exact ⟨rfl, rfl, rfl, rfl⟩
  · rw [show z = _ from hz]; exact ⟨hp, hm, hh, hc⟩

/-- A fill queued changes the queue and goes on in its stream. -/
theorem State.queueFill_leaves (s : State) (p : Nat) (w : FillWord) (t : TileRef) : let z := (s.queueFill p w t).advance p .flume
    (z.plot p).fills = (s.plot p).fills ++ [⟨w.bank, w.slot.toNat, t, w.fillc.toNat⟩] ∧ (∀ k, (z.plot p).tile k = (s.plot p).tile k) ∧
    z.mem = s.mem ∧ z.host = s.host ∧ z.canal = s.canal := by
  obtain ⟨-, hm, hh, hc⟩ := (s.queueFill p w t).advance_leaves p .flume
  refine ⟨?_, fun k => ?_, hm, hh, hc⟩
  · rw [State.fills_advance, State.queueFill, State.plot_setPlot]
  · rw [State.tile_advance, State.queueFill, State.plot_setPlot]
    rfl

/-! ### FILL_COMPLETE (R123, R148) -/

/-- The slots that a fill writes, as stores of the plot (R580). -/
def fillStores (d : TileDesc) (q : FillReq) : List (Nat × Nat) :=
  (List.range (if d.fmt = 0 then 2 else 1)).map fun k => (1, (if q.bank then 8 else 0) + q.slot + k)

/-- The way from a fill's source to its slots. -/
def State.fillEnter (s : State) (p : Nat) (d : TileDesc) (q : FillReq) : State × Bool :=
  (s.reachTile p d q.tile false).1.enterStores p (fillStores d q)

/-- A plot with a fill's operand in its slots and its token counted. -/
def Plot.takeFill (x : Plot) (q : FillReq) (g : StageSlot) : Plot :=
  let y := x.putOperand q.bank q.slot g
  if q.fillc = 0 then y else y.addCounter q.fillc 1

theorem Plot.takeFill_only (x : Plot) (q : FillReq) (g : StageSlot) :
    ∃ b r c, x.takeFill q g = { x with bank := b, rowStage := r, ctr := c } := by
  obtain ⟨b, r, h⟩ := x.putOperand_only q.bank q.slot g
  unfold Plot.takeFill
  rw [h]
  dsimp only
  split_ifs
  · exact ⟨b, r, x.ctr, rfl⟩
  · obtain ⟨c, hc⟩ := Plot.addCounter_only { x with bank := b, rowStage := r } q.fillc 1
    exact ⟨b, r, c, by rw [hc]⟩

theorem Plot.stage_takeFill (x : Plot) (q : FillReq) (g : StageSlot) (b : Bool) (n : Nat) :
    (x.takeFill q g).stage b n = (x.putOperand q.bank q.slot g).stage b n := by
  unfold Plot.takeFill
  dsimp only
  split_ifs
  · rfl
  · obtain ⟨c, hc⟩ := (x.putOperand q.bank q.slot g).addCounter_only q.fillc 1
    rw [hc]
    rfl

theorem Plot.counter_takeFill (x : Plot) (q : FillReq) (g : StageSlot) (c : Nat) :
    (x.takeFill q g).counter c = x.counter c + (if q.fillc ≠ 0 ∧ c = q.fillc then 1 else 0) := by
  obtain ⟨b, r, h⟩ := x.putOperand_only q.bank q.slot g
  have hy : (x.putOperand q.bank q.slot g).counter c = x.counter c := by rw [h]; rfl
  unfold Plot.takeFill
  dsimp only
  by_cases h0 : q.fillc = 0
  · rw [if_pos h0, hy]
    simp [h0]
  · rw [if_neg h0, Plot.counter_addCounter, hy]
    by_cases hc : c = q.fillc <;> simp [h0, hc]

/-- The slots that an operand takes, and all others. -/
theorem Plot.putOperand_slots (x : Plot) (bank : Bool) (n : Nat) (g : StageSlot) : let y := x.putOperand bank n g
    (g.fmt ≠ 0 → y.stage bank n = g) ∧
    (g.fmt = 0 → y.stage bank n = { g with data := g.data.take 8192 } ∧ y.stage bank (n + 1) = { g with data := g.data.drop 8192 }) ∧
    ∀ b k, ¬(b = bank ∧ (k = n ∨ (g.fmt = 0 ∧ k = n + 1))) → y.stage b k = x.stage b k := by
  unfold Plot.putOperand
  by_cases hf : g.fmt = 0
  · rw [if_pos hf]
    refine ⟨fun h => absurd hf h, fun _ => ⟨?_, Plot.stage_setStage _ _ _ _⟩, fun b k hk => ?_⟩
    · rw [Plot.stage_setStage_other _ _ (.inr (by omega)), Plot.stage_setStage]
    · have h1 : b ≠ bank ∨ k ≠ n + 1 := by tauto
      have h2 : b ≠ bank ∨ k ≠ n := by tauto
      rw [Plot.stage_setStage_other _ _ h1, Plot.stage_setStage_other _ _ h2]
  · rw [if_neg hf]
    refine ⟨fun _ => Plot.stage_setStage _ _ _ _, fun h => absurd h hf, fun b k hk => Plot.stage_setStage_other _ _ ?_⟩
    tauto

/-- What FILL_COMPLETE finds: EMPTY slots, a source that can be read and arrives, and no overflow to report. -/
structure FillArrives (s : State) (p : Nat) (d : TileDesc) (q : FillReq) : Prop where
  one : ((s.plot p).stage q.bank q.slot).full = false
  two : d.fmt = 0 → ((s.plot p).stage q.bank (q.slot + 1)).full = false
  access : s.tileAccess p d q.tile false = .ok
  reached : (s.reachTile p d q.tile false).2 = true
  entered : (s.fillEnter p d q).2 = true
  calm : ((s.fillEnter p d q).1.plot p).pendFail = none

/-- A fill complete, in the state that its way has left. -/
def State.fill (s : State) (p : Nat) (d : TileDesc) (q : FillReq) (rest : List FillReq) : State :=
  s.setPlot p { (s.plot p).takeFill q (s.stageTile p d q.tile) with fills := rest }

theorem exec_fillComplete_fills {s : State} {p : PPlot} {q : FillReq} {rest : List FillReq} (hr : s.runs = true)
    (hx : (s.plot p.toNat).fills = q :: rest) : let d := imgDesc (s.imgOf (s.plot p.toNat)) q.tile.desc
    FillArrives s p.toNat d q → exec (.fillComplete p) s = .next ((s.fillEnter p.toNat d q).1.fill p.toNat d q rest) := by
  intro d h
  have hempty : ¬(((s.plot p.toNat).stage q.bank q.slot).full = true ∨
      d.fmt = 0 ∧ ((s.plot p.toNat).stage q.bank (q.slot + 1)).full = true) := by
    rintro (h1 | ⟨h1, h2⟩)
    · rw [h.one] at h1; exact Bool.false_ne_true h1
    · rw [h.two h1] at h2; exact Bool.false_ne_true h2
  have hreach : s.reachTile p.toNat d q.tile false = ((s.reachTile p.toNat d q.tile false).1, true) := Prod.ext rfl h.reached
  have hcalm : (((s.fillEnter p.toNat d q).1.fill p.toNat d q rest).plot p.toNat).pendFail = none := by
    obtain ⟨b, r, c, hb⟩ := ((s.fillEnter p.toNat d q).1.plot p.toNat).takeFill_only q ((s.fillEnter p.toNat d q).1.stageTile p.toNat d q.tile)
    rw [State.fill, State.plot_setPlot, hb]
    exact h.calm
  show execFillComplete p s = _
  rw [execFillComplete, State.issue_runs _ _ hr]
  refine congrArg Host.Outcome.next ?_
  refine Eq.trans ?_ (State.reportOverflow_calm hcalm)
  dsimp only
  rw [hx]
  dsimp only
  rw [if_neg hempty, h.access]
  dsimp only
  rw [hreach]
  dsimp only
  split
  · rename_i u hu
    exact absurd ((congrArg Prod.snd hu).symm.trans h.entered) Bool.false_ne_true
  · rename_i u hu
    obtain rfl : (s.fillEnter p.toNat d q).1 = u := congrArg Prod.fst hu
    rfl

theorem State.fill_leaves (s : State) (p : Nat) (d : TileDesc) (q : FillReq) (rest : List FillReq) : let t := s.fill p d q rest
    let y := s.plot p; let g := s.stageTile p d q.tile
    (t.plot p).fills = rest ∧ (d.fmt ≠ 0 → (t.plot p).stage q.bank q.slot = g) ∧
    (d.fmt = 0 → (t.plot p).stage q.bank q.slot = { g with data := g.data.take 8192 } ∧
      (t.plot p).stage q.bank (q.slot + 1) = { g with data := g.data.drop 8192 }) ∧
    (∀ b n, ¬(b = q.bank ∧ (n = q.slot ∨ (d.fmt = 0 ∧ n = q.slot + 1))) → (t.plot p).stage b n = y.stage b n) ∧
    (∀ c, (t.plot p).counter c = y.counter c + (if q.fillc ≠ 0 ∧ c = q.fillc then 1 else 0)) ∧ (∀ k, (t.plot p).tile k = y.tile k) := by
  intro t y g
  have hp : t.plot p = { y.takeFill q g with fills := rest } := s.plot_setPlot p _
  have hstage : ∀ b n, (t.plot p).stage b n = (y.putOperand q.bank q.slot g).stage b n := fun b n => by
    rw [hp]
    exact y.stage_takeFill q g b n
  obtain ⟨hone, htwo, hother⟩ := y.putOperand_slots q.bank q.slot g
  refine ⟨by rw [hp], fun h => by rw [hstage]; exact hone h, fun h => by rw [hstage, hstage]; exact htwo h,
    fun b n h => by rw [hstage]; exact hother b n h, fun c => ?_, fun k => ?_⟩
  · rw [hp]
    exact y.counter_takeFill q g c
  · obtain ⟨b, r, c, hb⟩ := y.takeFill_only q g
    rw [hp, hb]
    rfl

/-! ### NEST (R187, R206, R301) -/

theorem State.beginWalk_leaves (s : State) (part p : Nat) (sets : List Nat) : let t := (s.beginWalk part p sets).2
    t.plots = s.plots ∧ t.mem = s.mem ∧ t.host = s.host ∧ t.canal = s.canal := by
  unfold State.beginWalk
  exact ⟨s.bump_plots _ _ _, s.bump_mem _ _ _, s.bump_host _ _ _, s.bump_canal _ _ _⟩

/-- The walks of an expansion change nothing but the pools and their counts. -/
theorem State.nestWalks_leaves (p : Nat) (x : Plot) (img : List Byte) (ns : List Nat) (seen : List (Nat × List Nat)) (ids : List Nat) (s : State) :
    let t := (s.nestWalks p x img ns seen ids).1
    t.plots = s.plots ∧ t.mem = s.mem ∧ t.host = s.host ∧ t.canal = s.canal := by
  induction ns generalizing s seen ids with
  | nil => exact ⟨rfl, rfl, rfl, rfl⟩
  | cons n ns ih =>
    unfold State.nestWalks
    dsimp only
    split_ifs
    · exact ih _ _ _
    · obtain ⟨hp, hm, hh, hc⟩ := ih (((imgDesc img n).base / 128, s.pageSets x (imgDesc img n)) :: seen)
        (ids ++ [(s.beginWalk x.part p (s.pageSets x (imgDesc img n))).1]) (s.beginWalk x.part p (s.pageSets x (imgDesc img n))).2
      obtain ⟨hp', hm', hh', hc'⟩ := s.beginWalk_leaves x.part p (s.pageSets x (imgDesc img n))
      exact ⟨hp.trans hp', hm.trans hm', hh.trans hh', hc.trans hc'⟩

/-- Words that stand at a stream once the walks before them have ended. -/
def settledExp : List ExpItem → List ExpItem
  | .retire _ :: rest => rest
  | l => l

theorem settledExp_word {l : List ExpItem} (h : ∀ ws, l.head? ≠ some (.retire ws)) : settledExp l = l := by
  unfold settledExp
  split
  · exact absurd rfl (h _)
  · rfl

section
variable (s : State) (p : Nat) (sel : StreamSel)

theorem State.settle_plot : ∃ ps, (s.settle p sel).plot p =
    { (s.plot p).setStream sel { (s.plot p).stream sel with exp := settledExp ((s.plot p).stream sel).exp } with passes := ps } := by
  by_cases h : ∀ ws, ((s.plot p).stream sel).exp.head? ≠ some (.retire ws)
  · rw [s.settle_word p sel h, settledExp_word h]
    exact ⟨(s.plot p).passes, by cases sel <;> rfl⟩
  · obtain ⟨ws, hws⟩ := not_forall_not.1 h
    obtain ⟨rest, he⟩ := List.head?_eq_some_iff.1 hws
    rw [s.settle_retire p sel he, he]
    dsimp only
    split_ifs
    · exact ⟨_, s.plot_setPlot p _⟩
    · obtain ⟨q, hq⟩ := State.endWalks_only (s.plot p).part ws (s.setPlot p ((s.plot p).setStream sel { (s.plot p).stream sel with exp := rest }))
      refine ⟨(s.plot p).passes, ?_⟩
      rw [hq]
      refine (s.plot_setPlot p _).trans ?_
      cases sel <;> rfl

theorem State.settle_leaves : let t := s.settle p sel; t.mem = s.mem ∧ t.host = s.host ∧ t.canal = s.canal := by
  unfold State.settle
  dsimp only
  split
  · split_ifs
    · exact ⟨rfl, rfl, rfl⟩
    · obtain ⟨q, hq⟩ := State.endWalks_only (s.plot p).part _ (s.setPlot p _)
      rw [hq]
      exact ⟨rfl, rfl, rfl⟩
  · exact ⟨rfl, rfl, rfl⟩

/-- A plot whose stream goes on where an expansion stands. -/
def State.expandTo (pos : StreamPos) : State :=
  (s.setPlot p { (s.plot p).setStream sel pos with serial := (s.plot p).serial + 1 }).settle p sel

theorem State.expandTo_leaves (pos : StreamPos) : let t := s.expandTo p sel pos
    (t.plot p).stream sel = { pos with exp := settledExp pos.exp } ∧ (t.plot p).serial = (s.plot p).serial + 1 ∧
    (∀ k, (t.plot p).tile k = (s.plot p).tile k) ∧ t.mem = s.mem ∧ t.host = s.host ∧ t.canal = s.canal := by
  intro t
  obtain ⟨ps, hp⟩ := (s.setPlot p { (s.plot p).setStream sel pos with serial := (s.plot p).serial + 1 }).settle_plot p sel
  have hleaves := (s.setPlot p { (s.plot p).setStream sel pos with serial := (s.plot p).serial + 1 }).settle_leaves p sel
  rw [State.plot_setPlot] at hp
  have hplot : t.plot p = { (s.plot p).setStream sel { pos with exp := settledExp pos.exp } with
      serial := (s.plot p).serial + 1, passes := ps } := hp.trans (by cases sel <;> rfl)
  refine ⟨?_, ?_, fun k => ?_, hleaves⟩
  · rw [hplot]
    cases sel <;> rfl
  · rw [hplot]
  · rw [hplot]
    cases sel <;> rfl

end

section
variable (s : State) (x : Plot)

/-- Rows that a descriptor shows to a nest in front of its own: those of the plot's pages (R301). -/
def State.pageRows (k : Nat) : Option Nat :=
  let d := imgDesc (s.imgOf x) k
  if d.src = 3 then some (2 ^ geomTokLog (s.plotGeom x) * (s.pageSets x d).length) else none

/-- The nest of an expansion, or the first one of a pair. -/
def State.nestFirst (n : Nat) : NestDesc :=
  (imgNest (s.imgOf x) (if imgNestKind (s.imgOf x) n = 1 then (imgPair (s.imgOf x) n).p1 else n)).clip (s.pageRows x) true

/-- The second nest of a pair. -/
def State.nestSecond (n : Nat) : NestDesc := (imgNest (s.imgOf x) (imgPair (s.imgOf x) n).p2).clip (s.pageRows x) false

/-- The words that stand in the place of a NEST. -/
def State.nestItems (sel : StreamSel) (w : NestWord) : List ExpItem :=
  let img := s.imgOf x
  let n := w.nest.toNat
  let pair := imgPair img n
  let env : ExpEnv :=
    { img := img, sm := x.stateMap, off := if w.usep then (x.param_ w.preg.toNat).toNat else 0,
      sets := fun k => let d := imgDesc img k; if d.src = 3 then s.pageSets x d else [],
      serial := 2 * x.serial, nest := n, e := sget 0 (x.stream sel).counts n }
  match sel with
  | .flume =>
      if imgNestKind img n = 1 then
        (if pair.res then env.flumeRes pair (s.nestFirst x n) (s.nestSecond x n) else env.flumeStage pair (s.nestFirst x n) (s.nestSecond x n))
      else env.flumeProduct (s.nestFirst x n)
  | .furrow =>
      if imgNestKind img n = 1 then env.furrowPair pair (s.nestFirst x n) (s.nestSecond x n) else env.furrowProduct (s.nestFirst x n)

/-- The walks of an expansion in the flume's stream. -/
def State.nestBegun (p : Nat) (sel : StreamSel) (n : Nat) : State × List Nat :=
  if sel = .flume then s.nestWalks p x (s.imgOf x) (nestDescs (s.imgOf x) n) [] [] else (s, [])

/-- Where a stream stands behind its NEST: one word on, with the expansion's words before it. -/
def State.nestPos (sel : StreamSel) (w : NestWord) (ws : List Nat) : StreamPos :=
  let q := x.stream sel
  { q with pc := q.pc + 1, exp := s.nestItems x sel w ++ [.retire ws], counts := sput 0 q.counts w.nest.toNat (sget 0 q.counts w.nest.toNat + 1) }

/-- What NEST finds: no closed fence, a nest of a kind, no source denied, and a ring of LAG tiles where a STAGE pair needs it. -/
structure NestReady (sel : StreamSel) (n : Nat) : Prop where
  fence : x.fence = true → ∀ k ∈ nestDescs (s.imgOf x) n, (imgDesc (s.imgOf x) k).state = false
  kind : imgNestKind (s.imgOf x) n < 2
  one : imgNestKind (s.imgOf x) n ≠ 1 → (s.nestFirst x n).denied = false
  two : imgNestKind (s.imgOf x) n = 1 → pairDenied (s.imgOf x) (imgPair (s.imgOf x) n) (s.nestFirst x n) (s.nestSecond x n) = false
  pages : ∀ k ∈ nestDescs (s.imgOf x) n, (imgDesc (s.imgOf x) k).src = 3 → s.pageDenied x (imgDesc (s.imgOf x) k) = false
  lag : sel = .flume → imgNestKind (s.imgOf x) n = 1 → (imgPair (s.imgOf x) n).res = false →
    (imgPair (s.imgOf x) n).lag ≤ (s.nestSecond x n).acount / (if (imgPair (s.imgOf x) n).ifmt = 0 then 2 else 1)

end

section
variable {s : State} {x : Plot} {sel : StreamSel} {n : Nat} (h : NestReady s x sel n)
include h

theorem NestReady.not_fenced : ¬(x.fence && (nestDescs (s.imgOf x) n).any fun k => (imgDesc (s.imgOf x) k).state) = true := fun h' => by
  obtain ⟨hf, ha⟩ := Bool.and_eq_true_iff.1 h'
  obtain ⟨k, hk, hd⟩ := List.any_eq_true.1 ha
  rw [h.fence hf k hk] at hd
  exact Bool.false_ne_true hd

theorem NestReady.pages_allowed :
    ((nestDescs (s.imgOf x) n).any fun k => (imgDesc (s.imgOf x) k).src = 3 && s.pageDenied x (imgDesc (s.imgOf x) k)) = false :=
  List.any_eq_false.2 fun k hk h' => by
    obtain ⟨hd, hp⟩ := Bool.and_eq_true_iff.1 h'
    rw [h.pages k hk (of_decide_eq_true hd)] at hp
    exact Bool.false_ne_true hp

theorem NestReady.nests_allowed : (if imgNestKind (s.imgOf x) n = 1 then
    pairDenied (s.imgOf x) (imgPair (s.imgOf x) n) (s.nestFirst x n) (s.nestSecond x n) else (s.nestFirst x n).denied) = false := by
  split_ifs with hp
  · exact h.two hp
  · exact h.one hp

theorem NestReady.not_denied : ¬(decide (imgNestKind (s.imgOf x) n ≥ 2) || (if imgNestKind (s.imgOf x) n = 1 then
    pairDenied (s.imgOf x) (imgPair (s.imgOf x) n) (s.nestFirst x n) (s.nestSecond x n) else (s.nestFirst x n).denied) ||
    (nestDescs (s.imgOf x) n).any fun k => (imgDesc (s.imgOf x) k).src = 3 && s.pageDenied x (imgDesc (s.imgOf x) k)) = true := by
  rw [h.nests_allowed, h.pages_allowed, decide_eq_false (Nat.not_le.2 h.kind)]
  exact Bool.false_ne_true

theorem NestReady.not_late : ¬(sel = .flume ∧ imgNestKind (s.imgOf x) n = 1 ∧ (!(imgPair (s.imgOf x) n).res) = true ∧
    (s.nestSecond x n).acount / (if (imgPair (s.imgOf x) n).ifmt = 0 then 2 else 1) < (imgPair (s.imgOf x) n).lag) := by
  rintro ⟨h1, h2, h3, h4⟩
  exact absurd (h.lag h1 h2 (by simpa using h3)) (Nat.not_le.2 h4)

end

theorem exec_nest_expands {s : State} {p : PPlot} {sel : StreamSel} {it : ExpItem} {w : NestWord} (h : AtHead s p sel (.nest w) it)
    (hr : NestReady s (s.plot p.toNat) sel w.nest.toNat) : let r := s.nestBegun (s.plot p.toNat) p.toNat sel w.nest.toNat
    exec (.nest p sel w) s = .next (r.1.expandTo p.toNat sel (s.nestPos (s.plot p.toNat) sel w r.2)) := by
  show execNest p sel w s = _
  rw [execNest, State.streamRow_head _ h]
  exact congrArg Host.Outcome.next ((if_neg hr.not_fenced).trans ((if_neg hr.not_denied).trans (if_neg hr.not_late)))

/-- What an expansion leaves of its plot. -/
theorem State.nestExpanded_leaves (s : State) (p : Nat) (sel : StreamSel) (w : NestWord) : let x := s.plot p; let r := s.nestBegun x p sel w.nest.toNat
    let t := r.1.expandTo p sel (s.nestPos x sel w r.2)
    (t.plot p).stream sel = { s.nestPos x sel w r.2 with exp := settledExp (s.nestItems x sel w ++ [.retire r.2]) } ∧
    (t.plot p).serial = x.serial + 1 ∧ (∀ k, (t.plot p).tile k = x.tile k) ∧ t.mem = s.mem ∧ t.host = s.host ∧ t.canal = s.canal := by
  intro x r t
  obtain ⟨hplots, hmem, hhost, hcanal⟩ : r.1.plots = s.plots ∧ r.1.mem = s.mem ∧ r.1.host = s.host ∧ r.1.canal = s.canal := by
    show (State.nestBegun s x p sel _).1.plots = _ ∧ (State.nestBegun s x p sel _).1.mem = _ ∧ (State.nestBegun s x p sel _).1.host = _ ∧
      (State.nestBegun s x p sel _).1.canal = _
    unfold State.nestBegun
    split_ifs
    · exact State.nestWalks_leaves _ _ _ _ _ _ s
    · exact ⟨rfl, rfl, rfl, rfl⟩
  have hplot : r.1.plot p = x := congrArg (fun l => sget _ l p) hplots
  obtain ⟨hpos, hserial, htile, hm, hh, hc⟩ := r.1.expandTo_leaves p sel (s.nestPos x sel w r.2)
  rw [hplot] at hserial htile
  exact ⟨hpos, hserial, htile, hm.trans hmem, hh.trans hhost, hc.trans hcanal⟩

end Sys2Proof.Machine
end

section
/-! Passes, fills and nests at the head of their streams (O48). -/

namespace Sys2Proof.Machine

/-- Settles O48: a PASS enters by `exec_pass_issues`, its drain is `Plot.drainPass`, a fill is queued and completes by
`exec_fill_queues` and `exec_fillComplete_fills`, and a NEST stands expanded by `exec_nest_expands`. -/
theorem dataWordsIssue : Obligations.DataWordsIssue := by
  unfold Obligations.DataWordsIssue
  refine ⟨?pass, ?cells, ?drain, ?fill, ?complete, ?nest⟩
  case pass =>
    intro s p it w x h ho ha hb hg hl ends d
    have hgate : x.tileGate w it.bind = .go := by cases it <;> exact hg
    obtain ⟨hpasses, hdst, hother⟩ := s.passIssued_plot p.toNat w it.bind
    obtain ⟨hcount, hmem, hhost, hcanal⟩ := s.enterPass_leaves p.toNat w it.bind
    obtain ⟨hcount', hmem', hhost', hcanal'⟩ := (s.enterPass p.toNat w it.bind).advance_leaves p.toNat .flume
    refine ⟨_, exec_pass_issues h ho ha hb hgate hl, ?_, ?_, ?_, hother, ?_, ?_, ?_, (hcount' _ _).trans hcount, hmem'.trans hmem,
      hhost'.trans hhost, hcanal'.trans hcanal⟩
    · refine hpasses.trans ?_
      unfold walksBehind
      rfl
    · rw [hdst, Plot.passDst_st]
    · rw [hdst, Plot.passDst_data]
    · rintro b rfl hf
      refine hdst.trans ?_
      simp [Plot.passDst, ExpItem.bind, hf, x, d]
    · rintro b rfl hf
      refine hdst.trans ?_
      simp [Plot.passDst, ExpItem.bind, hf, x, d]
    · rintro rfl
      refine hdst.trans ?_
      by_cases hw : w.overwrite = true <;> simp [Plot.passDst, ExpItem.bind, hw, x, d]
  case cells => exact fun x w m n hm hn => ⟨rfl, x.cellAt_cells w hm hn⟩
  case drain =>
    intro s p r rest x d att mine hr hp hf hq hc
    obtain ⟨hplot, hcount, hmem, hhost, hcanal⟩ := State.drain_leaves (s := s) (p := p.toNat) (r := r) (rest := rest) (a := att) hc
    obtain ⟨hpasses, -, hdata, hst, hother, hstage, hctr⟩ := x.drainPass_leaves r rest att.1
    refine ⟨_, exec_passDrain_drains hr hp hf hq, ?_⟩
    rw [hplot]
    exact ⟨hpasses, fun m n hm hn => x.elem_passTile r.w att.1 hdata hm hn, hst, hother, hstage, hctr, hcount, hmem, hhost, hcanal⟩
  case fill =>
    intro s p it w x tile d h hroom hfence hpage hbudget
    have htile : tile = s.fillTile x w it := by cases it <;> rfl
    obtain ⟨hplots, hmem, hhost, hcanal⟩ := s.fillWalk_leaves p.toNat x.part d tile it
    obtain ⟨hfills, htiles, hmem', hhost', hcanal'⟩ := (s.fillWalk p.toNat x.part d tile it).queueFill_leaves p.toNat w tile
    have hplot : (s.fillWalk p.toNat x.part d tile it).plot p.toNat = x := congrArg (fun l => sget _ l p.toNat) hplots
    have hready : FillReady s p.toNat w it := by
      refine ⟨hroom, ?_, ?_, ?_⟩
      · rw [← htile]; exact hfence
      · rw [← htile]; exact hpage
      · rw [← htile]; exact hbudget
    have hexec := exec_fill_queues h hready
    rw [← htile] at hexec
    rw [hplot] at hfills htiles
    exact ⟨_, hexec, hfills, htiles, hmem'.trans hmem, hhost'.trans hhost, hcanal'.trans hcanal⟩
  case complete =>
    intro s p q rest x d reached entered y g hr hx hc h1 h2 ha hreach henter
    obtain ⟨hfills, hone, htwo, hother, hctr, htile⟩ := entered.1.fill_leaves p.toNat d q rest
    exact ⟨_, exec_fillComplete_fills hr hx ⟨h1, h2, ha, hreach, henter, hc⟩, hfills, hone, htwo, hother, hctr, htile, rfl, rfl,
      fun h0 hq hm hok => State.loadEnter_own d q.tile _ h0 hq hm hok⟩
  case nest =>
    intro s p sel it w x q img n pair isPair rows d1 d2 e h hfence hkind hone htwo hpages hlag env items walks
    have hitems : items = s.nestItems x sel w := by cases sel <;> rfl
    have hwalks : walks = (s.nestBegun x p.toNat sel n).2 := by cases sel <;> rfl
    obtain ⟨hpos, hserial, htile, hmem, hhost, hcanal⟩ := s.nestExpanded_leaves p.toNat sel w
    refine ⟨_, exec_nest_expands h ⟨hfence, hkind, hone, htwo, hpages, hlag⟩, ?_⟩
    rw [hpos, hitems, hwalks]
    refine ⟨rfl, sget_sput_same 0 q.counts n (e + 1), hserial, fun h0 => ?_, fun h0 hhead => ?_, htile, hmem, hhost, hcanal⟩
    · rw [h0]
      rfl
    · refine settledExp_word fun ws => ?_
      rw [List.head?_append_of_ne_nil _ h0]
      exact hhead ws

end Sys2Proof.Machine
end

section
/-! Images registered in the pool (O17). -/

namespace Sys2Proof.Machine

/-! ### The pool's lowest index and lowest run (R149, R502) -/

theorem State.poolIndex_lowest {s : State} {k : Nat} (h : s.poolIndex = some k) {j : Nat} (hj : j < k) :
    s.ctx.images.any (fun x => x.1 = j) = true := by
  obtain ⟨-, -, hl⟩ := List.find?_range_eq_some.1 h
  simpa using hl j hj

theorem State.runFree_iff (s : State) (u n : Nat) : s.runFree u n = true ↔
    ∀ x ∈ s.ctx.images, s.poolBase + 65536 * u < x.2.addr + x.2.len → s.poolBase + 65536 * (u + n) ≤ x.2.addr := by
  simp [State.runFree]

/-- Where a run may begin: at the pool's start, or behind an image. -/
def State.poolStarts (s : State) : List Nat :=
  0 :: s.ctx.images.map fun x => (x.2.addr + x.2.len + 65535 - s.poolBase) / 65536

/-- The least of an optional number and another one. -/
def leastOf (b : Option Nat) (u : Nat) : Option Nat := some (b.elim u (min u))

theorem State.poolRun_eq (s : State) (n : Nat) : s.poolRun n =
    (s.poolStarts.filter fun u => decide (u + n ≤ s.poolUnits) && s.runFree u n).foldl leastOf none := by
  unfold State.poolRun State.poolStarts
  exact List.foldl_ext _ _ _ fun b u _ => by cases b <;> rfl

theorem foldl_leastOf_le {l : List Nat} {b : Option Nat} {u : Nat} (h : l.foldl leastOf b = some u) :
    (∀ v ∈ b, u ≤ v) ∧ ∀ v ∈ l, u ≤ v := by
  induction l generalizing b with
  | nil => simp [show b = some u from h]
  | cons w l ih =>
    obtain ⟨hw, hl⟩ := ih h
    have hle : u ≤ b.elim w (min w) := hw _ rfl
    cases b with
    | none => simpa using ⟨hle, hl⟩
    | some v =>
      have hmin : u ≤ min w v := hle
      simp only [Option.mem_def, Option.some.injEq, List.mem_cons]
      exact ⟨fun x hx => by omega, fun x hx => hx.elim (fun e => by omega) (hl x)⟩

theorem foldl_leastOf_mem {l : List Nat} {b : Option Nat} {u : Nat} (h : l.foldl leastOf b = some u) : u ∈ b ∨ u ∈ l := by
  induction l generalizing b with
  | nil => exact .inl h
  | cons w l ih =>
    rcases ih h with hu | hu
    · have hmin : b.elim w (min w) = u := Option.some.inj hu
      cases b with
      | none => exact .inr (by simp [← hmin])
      | some v =>
        replace hmin : min w v = u := hmin
        simp only [Option.mem_def, Option.some.injEq, List.mem_cons]
        omega
    · simp [hu]

/-- No run of the length lies below the one that the pool gives: slid down until it meets the end of an image or the pool's start, it would
begin at one of `State.poolStarts`. -/
theorem State.poolRun_lowest {s : State} {n u v : Nat} (h : s.poolRun n = some u) (hv : v < u) : s.runFree v n = false := by
  by_contra hf
  rw [Bool.not_eq_false, State.runFree_iff] at hf
  rw [State.poolRun_eq] at h
  have hfit : u + n ≤ s.poolUnits := by
    have hu := (foldl_leastOf_mem h).resolve_left (by simp)
    simp only [List.mem_filter, Bool.and_eq_true, decide_eq_true_eq] at hu
    exact hu.2.1
  let w := Nat.findGreatest (· ∈ s.poolStarts) v
  have hw : w ∈ s.poolStarts := Nat.findGreatest_spec (P := (· ∈ s.poolStarts)) (Nat.zero_le v) (by simp [State.poolStarts])
  have hwv : w ≤ v := Nat.findGreatest_le v
  have hwf : s.runFree w n = true := by
    rw [State.runFree_iff]
    intro x hx hend
    by_cases hbelow : s.poolBase + 65536 * v < x.2.addr + x.2.len
    · have := hf x hx hbelow
      omega
    · have hle : (x.2.addr + x.2.len + 65535 - s.poolBase) / 65536 ≤ w :=
        Nat.le_findGreatest (by omega) (by simp only [State.poolStarts, List.mem_cons, List.mem_map]; exact .inr ⟨x, hx, rfl⟩)
      omega
  have := (foldl_leastOf_le h).2 w (List.mem_filter.2 ⟨hw, by simp [hwf]; omega⟩)
  omega

/-! ### IMAGE_REGISTER -/

/-- The record of an image of a tenant, by its bytes and where they are copied. -/
def imageRecord (t : TenantNo) (addr len : Nat) (img : List Byte) : ImageRec :=
  { tenant := t, addr := addr, len := len, imageId := imgId img, model := BitVec.ofNat 64 (imgModel img) }

section
variable {s : State} {q : RingNo} {n : Seq} {o : Op} (h : OpReady s q n o 0x14)
  (hr : s.rangeDetail (s.ringTenant q) (o.fld 16 0 48) (o.fld 24 0 32) = none)
include h hr

theorem exec_imageRegister_full (hp : s.poolIndex = none ∨ s.poolRun ((o.fld 24 0 32 + 65535) / 65536) = none) :
    exec (.imageRegister q n) s = .next (s.setOp (o.ended stDenied dtPool 0)) := by
  obtain ⟨rfl, rfl⟩ := s.op_ring h.found
  show execImageRegister o.ring o.seq s = _
  unfold execImageRegister
  rw [State.opRow_ready _ h]
  simp only [Op.tenant, hr]
  rcases hp with hp | hp
  · simp only [hp]; rfl
  · cases hk : s.poolIndex <;> simp only [hp] <;> rfl

variable {k u : Nat} (hk : s.poolIndex = some k) (hu : s.poolRun ((o.fld 24 0 32 + 65535) / 65536) = some u)
  (ho : s.cisOpenAll [(o.fld 16 0 48, o.fld 24 0 32), (s.poolBase + 65536 * u, o.fld 24 0 32)] = true)
  (hs : (s.cisRead none (o.fld 16 0 48) (o.fld 24 0 32)).1 = stOk)
include hk hu ho hs

/-- An image that is read ends as the checks find it. -/
theorem exec_imageRegister_checked : let s1 := (s.cisRead none (o.fld 16 0 48) (o.fld 24 0 32)).2
    let img := s1.cisBytes (o.fld 16 0 48) (o.fld 24 0 32)
    let bad := s1.imageCheck (s.ringTenant q) img (o.fld 24 0 32)
    let addr := s.poolBase + 65536 * u
    exec (.imageRegister q n) s = .next (if bad ≠ 0 then s1.setOp (o.ended stDenied (BitVec.ofNat 16 bad) 0)
      else ((s1.cisSend none addr img).setImage k (imageRecord (s.ringTenant q) addr (o.fld 24 0 32) img)).finish o stOk 0 (BitVec.ofNat 32 k)) := by
  obtain ⟨rfl, rfl⟩ := s.op_ring h.found
  show execImageRegister o.ring o.seq s = _
  unfold execImageRegister
  rw [State.opRow_ready _ h]
  simp only [Op.tenant, hr, hk, hu, ho, hs]
  rfl

end

theorem readBytes_length (m : List Host.Cell) (a n : Nat) : (readBytes m a n).length = n := by
  induction n generalizing a with
  | zero => rfl
  | succ n ih => simp [readBytes, ih]

@[simp] theorem State.cisBytes_length (s : State) (a n : Nat) : (s.cisBytes a n).length = n := by
  rw [State.cisBytes, Mem.plain_length, readBytes_length]

/-- The copy of an image of the pool, and its record: what it leaves. -/
theorem State.registered_leaves {s s1 : State} {q : RingNo} {n : Seq} {o : Op} (hc : Carries s s1) (hop : s.op? q n = some o)
    (addr k : Nat) (img : List Byte) (x : ImageRec) (res : Word) : let t := ((s1.cisSend none addr img).setImage k x).finish o stOk 0 res
    t.op? q n = some (o.ended stOk 0 res) ∧ t.image k = x ∧ t.cisBytes addr img.length = img ∧
    (∀ k', k' ≠ k → t.image k' = s.image k') ∧ (∀ b, s.cisSpares addr img.length b → t.cisBytes b 1 = s1.cisBytes b 1) ∧ Traffic s t ∧
    t = { s.withTraffic t with host := { s.host with ops := t.host.ops }, ctx := { s.ctx with images := t.ctx.images } } := by
  have hall := hc.trans (carries_cisSend s1 none addr img)
  have hhost : (s1.cisSend none addr img).host = s.host := by rw [hall.frame]; rfl
  have hctx : (s1.cisSend none addr img).ctx = s.ctx := by rw [hall.frame]; rfl
  refine ⟨State.op_finish _ _ _ _ ((State.op_of_host hhost q n).trans hop), sget_sput_same _ _ _ _, s1.cisBytes_cisSend none addr img,
    fun k' hk => ?other, fun b hb => s1.cisByte_cisSend_other none addr img (State.cisSpares_congr ?prot hb),
    ⟨hall.traffic.regs, hall.traffic.sent, hall.traffic.calm⟩, ?frame⟩
  case other => exact (sget_sput_other _ _ _ _ hk).trans (by rw [hctx]; rfl)
  case prot => exact hc.traffic.regs .cisProt 0 (by decide +kernel) (by decide)
  case frame =>
    have hf := hall.frame
    generalize s1.cisSend none addr img = y at hf hhost hctx ⊢
    rw [hf]
    rfl

/-- Settles O17: the lowest index and the lowest run by the pool (`poolIndex_lowest`, `poolRun_lowest`), the operation by the check that
its image meets, and what its copy leaves by the one write of it (`registered_leaves`). -/
theorem imageRegisters : Obligations.ImageRegisters := by
  unfold Obligations.ImageRegisters
  intro s q n o k u h a len addr s1 img hr
  refine ⟨fun hp => exec_imageRegister_full h hr hp, fun hk hu ho hs => ?_⟩
  have hexec := exec_imageRegister_checked h hr hk hu ho hs
  refine ⟨fun bad hbad hne => ?refused, fun hok => ⟨fun j hj => State.poolIndex_lowest hk hj, fun v hv => State.poolRun_lowest hu hv, ?_⟩⟩
  case refused =>
    subst hbad
    exact hexec.trans (congrArg _ (if_pos hne))
  have hleaves := State.registered_leaves (carries_cisRead s none a len) h.found addr k img (imageRecord (s.ringTenant q) addr len img)
    (BitVec.ofNat 32 k)
  rw [show img.length = len from State.cisBytes_length _ _ _] at hleaves
  exact ⟨_, hexec.trans (congrArg _ (if_neg (not_not.2 hok))), hleaves⟩

end Sys2Proof.Machine
end

section
/-! SUPPORT. Writes of fence registers and of map entries, and the column that a map entry carries across (R155 to R157, R382, R583, R585). -/

namespace Sys2Proof.Machine

/-! ### Recorded writes (R585) -/

theorem State.flag_recordReg (s : State) (k : RegKind) (n : Nat) (f : Fld) (m : Nat) : (s.recordReg k n).flag f m = s.flag f m := rfl

/-- A recorded register stands in the levee list as it reads. -/
theorem State.recorded_recordReg (s : State) (k : RegKind) (n : Nat) :
    sget 0 (s.recordReg k n).lev.list (regOff k n) = (s.recordReg k n).reg k n := sget_sput_same _ _ _ _

theorem exec_leveeWrite {s : State} {off : BitVec 32} {v : DWord} {k : RegKind} {n : Nat} (hr : s.runs = true)
    (hreg : regAt off.toNat = some (k, n)) (hk : leveeKind k = true) : exec (.leveeWrite off v) s =
      .next ((({ s with lev := { s.lev with heldWrites := s.lev.heldWrites.erase (off.toNat, v) } } : State).leveeApply k n v).recordReg k n) := by
  show execLeveeWrite off v s = _
  rw [execLeveeWrite, State.issue_runs _ _ hr, State.leveeWrite, hreg]
  exact congrArg _ (if_pos hk)

/-! ### LEVEE_PLOT (R583) -/

theorem regOff_leveePlot (n : Nat) : regOff .leveePlot n = 0x1000058 + 0x1000 * n := by simp [regOff, RegKind.place]

/-- The partition of a physical plot follows from the map and the footprints. -/
theorem State.plotPart_of_map {s t : State} (h : MapStands s t) (hr : t.rot = s.rot) (p : Nat) : t.plotPart p = s.plotPart p := by
  have hpart : ∀ k, t.part k = s.part k := fun k => by unfold State.part; rw [hr]
  have hof : ∀ l, t.partOf l = s.partOf l := fun l => by
    unfold State.partOf State.partEnabled State.partPlots
    simp only [hpart]
  have hlog : t.logOf p = s.logOf p := by
    unfold State.logOf
    refine List.find?_congr fun l hl => ?_
    rw [State.physOf_of_map (h.map l (by have := List.mem_range.1 hl; omega))]
  unfold State.plotPart
  rw [hlog]
  exact congrArg _ (funext hof)

/-- The fences that a write of LEVEE_PLOT asks for: MANUF keeps what is set. -/
def State.leveeFences (s : State) (p : Nat) (v : DWord) : Bool × Bool :=
  (v.getLsbD 0 || (s.flag LEVEE_PLOT_MANUF p && s.flag LEVEE_PLOT_FLUME p), v.getLsbD 1 || (s.flag LEVEE_PLOT_MANUF p && s.flag LEVEE_PLOT_PLOT p))

/-- A write of LEVEE_PLOT to a plot of no partition, which may be put under test. -/
theorem State.writeLeveePlot_spare (s : State) {p : Nat} (v : DWord) (h : s.plotPart p = none) : s.writeLeveePlot p v =
    s.wrs p [(LEVEE_PLOT_FLUME, if (s.leveeFences p v).1 then 1 else 0), (LEVEE_PLOT_PLOT, if (s.leveeFences p v).2 then 1 else 0),
      (LEVEE_PLOT_TEST, if v.getLsbD 2 then 1 else 0)] := by
  have hmay : ∀ b, s.mayTest p b = true := fun b => by simp [State.mayTest, h]
  have hpart : ∀ fs : List (Fld × Nat), (∀ x ∈ fs, x.1.reg = .leveePlot) → (s.wrs p fs).restrand p = s.wrs p fs := fun fs hfs => by
    have hmap : MapStands s (s.wrs p fs) := mapStands_wrs p fs s fun x hx => by rw [hfs x hx, regOff_leveePlot]; omega
    unfold State.restrand
    rw [State.plotPart_of_map hmap (by rw [State.wrs_only]), h]
  unfold State.writeLeveePlot
  simp only [hmay, Bool.or_true, Bool.and_true]
  exact hpart _ (by simp [LEVEE_PLOT_FLUME, LEVEE_PLOT_PLOT, LEVEE_PLOT_TEST])

section
variable (s : State) (n : Nat)

theorem State.flag_wr_same (f : Fld) (d : Bool) (h : f.lo + f.w ≤ 64) (h1 : f.w = 1) : (s.wr f n (if d then 1 else 0)).flag f n = d := by
  rw [State.flag, rd_wr_same _ _ _ _ h, h1]
  cases d <;> rfl

theorem State.flag_wr_other (f g : Fld) (x : Nat) (h : f.lo + f.w ≤ 64) (hr : f.reg = g.reg) (hb : g.lo + g.w ≤ f.lo ∨ f.lo + f.w ≤ g.lo) :
    (s.wr f n x).flag g n = s.flag g n := by
  rw [State.flag, State.flag, rd_wr_other _ _ h (.inr ⟨hr, rfl, hb⟩)]

/-- Flags of LEVEE_PLOT after its three fences have been written. -/
theorem State.flags_wrs_leveePlot (a b c : Bool) :
    let t := s.wrs n [(LEVEE_PLOT_FLUME, if a then 1 else 0), (LEVEE_PLOT_PLOT, if b then 1 else 0), (LEVEE_PLOT_TEST, if c then 1 else 0)]
    t.flag LEVEE_PLOT_FLUME n = a ∧ t.flag LEVEE_PLOT_PLOT n = b ∧ t.flag LEVEE_PLOT_TEST n = c ∧
    t.flag LEVEE_PLOT_MANUF n = s.flag LEVEE_PLOT_MANUF n := by
  simp only [State.wrs]
  refine ⟨?flume, ?plot, State.flag_wr_same _ _ _ _ (by decide) rfl, ?manuf⟩
  case flume =>
    rw [State.flag_wr_other _ _ LEVEE_PLOT_TEST LEVEE_PLOT_FLUME _ (by decide) rfl (by decide),
      State.flag_wr_other _ _ LEVEE_PLOT_PLOT LEVEE_PLOT_FLUME _ (by decide) rfl (by decide), State.flag_wr_same _ _ _ _ (by decide) rfl]
  case plot =>
    rw [State.flag_wr_other _ _ LEVEE_PLOT_TEST LEVEE_PLOT_PLOT _ (by decide) rfl (by decide), State.flag_wr_same _ _ _ _ (by decide) rfl]
  case manuf =>
    rw [State.flag_wr_other _ _ LEVEE_PLOT_TEST LEVEE_PLOT_MANUF _ (by decide) rfl (by decide),
      State.flag_wr_other _ _ LEVEE_PLOT_PLOT LEVEE_PLOT_MANUF _ (by decide) rfl (by decide),
      State.flag_wr_other _ _ LEVEE_PLOT_FLUME LEVEE_PLOT_MANUF _ (by decide) rfl (by decide)]

end

/-! ### A column copied (R156 step 5, R382) -/

section
variable {α : Type}

theorem sget_filter_kept (d : α) (f : Nat × α → Bool) {i : Nat} (m : Sparse α) (h : ∀ v, f (i, v) = true) :
    sget d (m.filter f) i = sget d m i := by
  induction m with
  | nil => rfl
  | cons x m ih =>
    obtain ⟨k, v⟩ := x
    by_cases hi : i = k
    · subst hi
      rw [List.filter_cons_of_pos (h v)]
      simp [sget]
    · by_cases hf : f (k, v) = true
      · simp [List.filter_cons_of_pos hf, sget, hi, ih]
      · simp [List.filter_cons_of_neg hf, sget, hi, ih]

theorem sget_filter_dropped (d : α) (f : Nat × α → Bool) {i : Nat} (m : Sparse α) (h : ∀ v, f (i, v) = false) :
    sget d (m.filter f) i = d := by
  induction m with
  | nil => rfl
  | cons x m ih =>
    obtain ⟨k, v⟩ := x
    by_cases hf : f (k, v) = true
    · have hi : i ≠ k := fun e => by rw [← e, h v] at hf; exact absurd hf Bool.false_ne_true
      simp [List.filter_cons_of_pos hf, sget, hi, ih]
    · simp [List.filter_cons_of_neg hf, ih]

theorem sparseFrom_le [DecidableEq α] (d : α) {m : Sparse α} {lo : Nat} (h : sparseFrom d lo m = true) {x : Nat × α} (hx : x ∈ m) : lo ≤ x.1 := by
  induction m generalizing lo with
  | nil => simp at hx
  | cons y m ih =>
    simp only [sparseFrom, Bool.and_eq_true, decide_eq_true_eq] at h
    rcases List.mem_cons.1 hx with rfl | hx
    · exact h.1.1
    · have := ih h.2 hx; omega

/-- The keys of a canonical map differ. -/
theorem sparseFrom_pairwise [DecidableEq α] (d : α) {m : Sparse α} {lo : Nat} (h : sparseFrom d lo m = true) :
    m.Pairwise fun x y => x.1 ≠ y.1 := by
  induction m generalizing lo with
  | nil => exact .nil
  | cons x m ih =>
    simp only [sparseFrom, Bool.and_eq_true, decide_eq_true_eq] at h
    exact .cons (fun y hy => by have := sparseFrom_le d h.2 hy; omega) (ih h.2)

/-- A key that no entry is put at reads as before. -/
theorem sget_foldl_put_other [DecidableEq α] (d : α) (f : Nat → Nat) (l : Sparse α) {i : Nat} (h : ∀ x ∈ l, f x.1 ≠ i) (r : Sparse α) :
    sget d (l.foldl (fun r x => sput d r (f x.1) x.2) r) i = sget d r i := by
  induction l generalizing r with
  | nil => rfl
  | cons x l ih =>
    rw [List.foldl_cons, ih fun y hy => h y (List.mem_cons_of_mem _ hy)]
    exact sget_sput_other _ _ _ _ (h x List.mem_cons_self).symm

/-- Entries put at keys of their own, over nothing, read as they stood. -/
theorem sget_foldl_put [DecidableEq α] (d : α) (f : Nat → Nat) {l : Sparse α} (hl : l.Pairwise fun x y => x.1 ≠ y.1) {k : Nat}
    (hf : ∀ x ∈ l, f x.1 = f k → x.1 = k) {r : Sparse α} (hr : sget d r (f k) = d) :
    sget d (l.foldl (fun r x => sput d r (f x.1) x.2) r) (f k) = sget d l k := by
  induction l generalizing r with
  | nil => exact hr
  | cons x l ih =>
    obtain ⟨hx, htail⟩ := List.pairwise_cons.1 hl
    obtain ⟨i, v⟩ := x
    rw [List.foldl_cons]
    by_cases hk : k = i
    · subst hk
      rw [sget_foldl_put_other d f l fun y hy e => hx y hy (hf y (List.mem_cons_of_mem _ hy) e).symm]
      simp [sget]
    · have hne : f k ≠ f i := fun e => hk (hf (i, v) List.mem_cons_self e.symm).symm
      rw [ih htail (fun y hy => hf y (List.mem_cons_of_mem _ hy)) ((sget_sput_other _ _ _ _ hne).trans hr)]
      simp [sget, hk]

end

/-- A byte of another column stays. -/
theorem sget_copyColumn_other (m : List Host.Cell) (p q : Nat) {k : Nat} (hk : k / 2 ^ 24 ≠ q) :
    sget (0 : Byte) (copyColumn m p q) k = sget (0 : Byte) m k := by
  unfold copyColumn
  dsimp only
  rw [sget_foldl_put_other (0 : Byte) (fun i => 2 ^ 24 * q + i % 2 ^ 24) _ fun x _ => by omega]
  exact sget_filter_kept _ _ _ fun v => by simp only [Bool.not_eq_true', decide_eq_false_iff_not]; omega

/-- A byte of the column copied to is the one that stands in the column copied. -/
theorem sget_copyColumn_copied {m : List Host.Cell} (hm : sparseWf (0 : Byte) m = true) (p q : Nat) {o : Nat} (ho : o < 2 ^ 24) :
    sget (0 : Byte) (copyColumn m p q) (2 ^ 24 * q + o) = sget (0 : Byte) m (2 ^ 24 * p + o) := by
  have hkey : 2 ^ 24 * q + (2 ^ 24 * p + o) % 2 ^ 24 = 2 ^ 24 * q + o := by omega
  have hin : ∀ v : Byte, decide (2 ^ 24 * p ≤ ((2 ^ 24 * p + o, v) : Host.Cell).1 ∧ ((2 ^ 24 * p + o, v) : Host.Cell).1 < 2 ^ 24 * (p + 1)) = true :=
    fun v => by simp only [decide_eq_true_eq]; omega
  rw [← sget_filter_kept (0 : Byte) (fun x => decide (2 ^ 24 * p ≤ x.1 ∧ x.1 < 2 ^ 24 * (p + 1))) m hin]
  unfold copyColumn
  dsimp only
  rw [← hkey]
  refine sget_foldl_put (0 : Byte) (fun i => 2 ^ 24 * q + i % 2 ^ 24) (.filter _ (sparseFrom_pairwise _ hm)) (fun x hx he => ?_)
    (sget_filter_dropped _ _ _ fun v => by simp only [Bool.not_eq_false', decide_eq_true_eq]; omega)
  have hc := (List.mem_filter.1 hx).2
  simp only [decide_eq_true_eq] at hc
  omega

theorem readBytes_congr {m m' : List Host.Cell} {a b : Nat} (n : Nat) (h : ∀ i < n, sget (0 : Byte) m (a + i) = sget (0 : Byte) m' (b + i)) :
    readBytes m a n = readBytes m' b n := by
  induction n generalizing a b with
  | zero => rfl
  | succ n ih =>
    have h0 : sget (0 : Byte) m a = sget (0 : Byte) m' b := h 0 (by omega)
    have hrest : readBytes m (a + 1) n = readBytes m' (b + 1) n := ih fun i hi => by
      have := h (i + 1) (by omega)
      rwa [show a + 1 + i = a + (i + 1) by omega, show b + 1 + i = b + (i + 1) by omega]
    rw [readBytes, readBytes, h0, hrest]

/-- Two columns with the same bytes and the same free values read alike. -/
theorem State.resvBytes_congr {s t : State} {p q off n : Nat} (hfog : sget 0 t.mem.fog q = sget 0 s.mem.fog p)
    (h : ∀ i < n, sget (0 : Byte) t.mem.resv (2 ^ 24 * q + (off + i)) = sget (0 : Byte) s.mem.resv (2 ^ 24 * p + (off + i))) :
    t.resvBytes q off n = s.resvBytes p off n := by
  have hread : readBytes t.mem.resv (resvKey q off) n = readBytes s.mem.resv (resvKey p off) n := readBytes_congr n fun i hi => by
    simpa only [resvKey, Nat.add_assoc] using h i hi
  unfold State.resvBytes Mem.column
  rw [hread, hfog]

section
variable (s : State) (p q : Nat)

/-- The lifts that the plot moved to holds: those of the plot moved, where its column reads. -/
def State.movedLifts : List (Nat × Nat × Nat) := if s.columnReads p then (s.plot p).resident else []

/-- The plot moved to, with those lifts. -/
def State.movedInto : Plot :=
  if (s.plot q).loaded then { s.plot q with resident := s.movedLifts p } else { resident := s.movedLifts p }

theorem State.movedInto_resident : (s.movedInto p q).resident = s.movedLifts p := by
  unfold State.movedInto
  split_ifs <;> rfl

theorem State.moveColumn_plots : (s.moveColumn p q).plots =
    sput ({} : Plot) (sput ({} : Plot) s.plots p { s.plot p with resident := [], early := [] }) q (s.movedInto p q) := by
  unfold State.moveColumn State.movedInto State.movedLifts
  cases s.columnReads p <;> rfl

theorem State.moveColumn_resident : ((s.moveColumn p q).plot q).resident = s.movedLifts p := by
  rw [State.plot, State.moveColumn_plots, sget_sput_same, State.movedInto_resident]

/-- Plots and columns other than the two of a move stand. -/
theorem State.moveColumn_others {k : Nat} (hp : k ≠ p) (hq : k ≠ q) : (s.moveColumn p q).plot k = s.plot k ∧
    ∀ off n, off + n ≤ 2 ^ 24 → (s.moveColumn p q).resvBytes k off n = s.resvBytes k off n := by
  refine ⟨?_, fun off n hn => ?_⟩
  · rw [State.plot, State.moveColumn_plots, sget_sput_other _ _ _ _ hq, sget_sput_other _ _ _ _ hp]
    rfl
  · by_cases hc : s.columnReads p = true
    · refine State.resvBytes_congr ?_ fun i hi => ?_
      · simp only [State.moveColumn, hc, if_true]
        exact sget_sput_other _ _ _ _ hq
      · simp only [State.moveColumn, hc, if_true]
        exact sget_copyColumn_other _ _ _ (by omega)
    · refine State.resvBytes_of_mem ?_ _ _ _
      simp only [State.moveColumn, hc, Bool.false_eq_true, if_false]

/-- A column that reads is carried across, with the lifts it holds. -/
theorem State.moveColumn_reads (hc : s.columnReads p = true) (hm : s.mem.wf = true) :
    ((s.moveColumn p q).plot q).resident = (s.plot p).resident ∧
    ∀ off n, off + n ≤ 2 ^ 24 → (s.moveColumn p q).resvBytes q off n = s.resvBytes p off n := by
  have hresv : sparseWf (0 : Byte) s.mem.resv = true := ((Mem.wf_iff _).1 hm).2.2.1
  refine ⟨?_, fun off n hn => State.resvBytes_congr ?_ fun i hi => ?_⟩
  · rw [State.moveColumn_resident, State.movedLifts, hc]
    rfl
  all_goals simp only [State.moveColumn, hc, if_true]
  · exact sget_sput_same _ _ _ _
  · exact sget_copyColumn_copied hresv p q (by omega)

/-- A column that does not read leaves its successor without a lift. -/
theorem State.moveColumn_lost (hc : s.columnReads p = false) : ((s.moveColumn p q).plot q).resident = [] ∧ (s.moveColumn p q).mem = s.mem := by
  refine ⟨?_, ?_⟩
  · rw [State.moveColumn_resident, State.movedLifts, hc]
    rfl
  · simp only [State.moveColumn, hc, Bool.false_eq_true, if_false]

theorem State.moveColumn_only : s.moveColumn p q = { s with mem := (s.moveColumn p q).mem, plots := (s.moveColumn p q).plots } ∧
    (s.moveColumn p q).mem.cis = s.mem.cis ∧ (s.moveColumn p q).mem.aqua = s.mem.aqua := by
  unfold State.moveColumn
  dsimp only
  split_ifs <;> exact ⟨rfl, rfl, rfl⟩

end

/-! ### MAP_ENTRY (R155, R157, R608) -/

/-- A map entry's word written. -/
def State.mapped (s : State) (l : Nat) (v : DWord) : State :=
  s.wrs l [(MAP_ENTRY_PY, getBits v 0 5), (MAP_ENTRY_PX, getBits v 5 6), (MAP_ENTRY_CHANGING, getBits v 11 1)]

/-- Where a map entry's word puts its logical plot. -/
def mapPlace (v : DWord) : Nat := 32 * getBits v 5 6 + getBits v 0 5

section
variable (s : State) (l : Nat) (v : DWord)

theorem State.mapped_only : s.mapped l v = { s with regs := (s.mapped l v).regs } := s.wrs_only _ _

theorem State.rd_mapped : (s.mapped l v).rd MAP_ENTRY_PY l = getBits v 0 5 ∧ (s.mapped l v).rd MAP_ENTRY_PX l = getBits v 5 6 ∧
    (s.mapped l v).rd MAP_ENTRY_CHANGING l = getBits v 11 1 := by
  unfold State.mapped
  simp only [State.wrs]
  refine ⟨?y, ?x, ?changing⟩
  case y =>
    rw [rd_wr_other _ (f := MAP_ENTRY_CHANGING) (g := MAP_ENTRY_PY) _ (by decide) (.inr ⟨rfl, rfl, by decide⟩),
      rd_wr_other _ (f := MAP_ENTRY_PX) (g := MAP_ENTRY_PY) _ (by decide) (.inr ⟨rfl, rfl, by decide⟩), rd_wr_same _ _ _ _ (by decide)]
    exact Nat.mod_eq_of_lt (getBits_lt v 0 5)
  case x =>
    rw [rd_wr_other _ (f := MAP_ENTRY_CHANGING) (g := MAP_ENTRY_PX) _ (by decide) (.inr ⟨rfl, rfl, by decide⟩), rd_wr_same _ _ _ _ (by decide)]
    exact Nat.mod_eq_of_lt (getBits_lt v 5 6)
  case changing =>
    rw [rd_wr_same _ _ _ _ (by decide)]
    exact Nat.mod_eq_of_lt (getBits_lt v 11 1)

theorem State.physOf_mapped : (s.mapped l v).physOf l = mapPlace v := by
  obtain ⟨hy, hx, -⟩ := s.rd_mapped l v
  rw [State.physOf, hy, hx]
  rfl

theorem State.reg_mapped_other {k : RegKind} {n : Nat} (h : regOff k n ≠ regOff .mapEntry l) : (s.mapped l v).reg k n = s.reg k n := by
  have hkeep : ∀ (u : State) (f : Fld) (x : Nat), f.reg = .mapEntry → (u.wr f l x).reg k n = u.reg k n := fun u f x hf =>
    reg_setReg_other _ _ (by rwa [hf])
  simp only [State.mapped, State.wrs]
  rw [hkeep _ MAP_ENTRY_CHANGING _ rfl, hkeep _ MAP_ENTRY_PX _ rfl, hkeep _ MAP_ENTRY_PY _ rfl]

theorem State.physOf_mapped_other {j : Nat} (h : j ≠ l) : (s.mapped l v).physOf j = s.physOf j :=
  State.physOf_of_map (s.reg_mapped_other l v (by rw [regOff_mapEntry, regOff_mapEntry]; omega))

theorem State.columnReads_mapped (hl : l < 1024) (p : Nat) : (s.mapped l v).columnReads p = s.columnReads p := by
  have hreg : (s.mapped l v).reg .leveePlot p = s.reg .leveePlot p :=
    s.reg_mapped_other l v (by rw [regOff_leveePlot, regOff_mapEntry]; omega)
  have hflag : (s.mapped l v).flag LEVEE_PLOT_PLOT p = s.flag LEVEE_PLOT_PLOT p := by
    rw [State.flag_eq _ _ _ rfl, State.flag_eq _ _ _ rfl]
    exact congrArg (·.getLsbD 1) hreg
  unfold State.columnReads
  rw [hflag, State.mapped_only]

/-- A logical plot carried from one physical plot to another: its column, and the tokens on their way to it; the next load is cold. -/
def State.carriedTo (s : State) (p q : Nat) : State := ((s.moveColumn p q).moveTokens p q).coldNext q

theorem State.coldNext_only (p : Nat) : ∃ r, s.coldNext p = { s with rot := r } ∧ ∀ k, ((s.coldNext p).part k).act = (s.part k).act := by
  unfold State.coldNext
  split
  · rename_i i _
    refine ⟨_, rfl, fun k => ?_⟩
    by_cases hk : k = i
    · rw [hk, State.part_setPart]
    · rw [State.part_setPart_other _ _ hk]
  · exact ⟨_, rfl, fun _ => rfl⟩

theorem State.partOf_of_act {s t : State} (h : ∀ k, (t.part k).act = (s.part k).act) (l : Nat) : t.partOf l = s.partOf l := by
  unfold State.partOf State.partEnabled
  simp only [State.partPlots_of_act (h _), h]

theorem State.carriedTo_only (p q : Nat) : ∃ r, s.carriedTo p q = { s with
      mem := (s.moveColumn p q).mem, plots := (s.moveColumn p q).plots, canal := ((s.moveTokens p q).canal), rot := r } ∧
    ∀ k, ((s.carriedTo p q).part k).act = (s.part k).act := by
  obtain ⟨hm, -⟩ := s.moveColumn_only p q
  obtain ⟨r, hr, hact⟩ := ((s.moveColumn p q).moveTokens p q).coldNext_only q
  refine ⟨r, ?_, fun k => (hact k).trans ?_⟩
  · rw [State.carriedTo, hr, hm]
    rfl
  · rw [hm]
    rfl

/-- A map entry of a logical plot of no partition takes its place. -/
theorem State.writeMapEntry_free (h : s.partOf l = none) : s.writeMapEntry l v =
    if s.physOf l = mapPlace v then s.mapped l v else (s.mapped l v).carriedTo (s.physOf l) (mapPlace v) := by
  have hpart : (s.mapped l v).partOf l = none := by
    rw [← h]
    exact State.partOf_of_act (fun k => by rw [State.mapped_only]; rfl) l
  have hcarried : ((s.mapped l v).carriedTo (s.physOf l) (mapPlace v)).partOf l = none := by
    obtain ⟨-, -, hact⟩ := (s.mapped l v).carriedTo_only (s.physOf l) (mapPlace v)
    rw [State.partOf_of_act hact]
    exact hpart
  have hcases : ∀ u : State, u.partOf l = none → (match u.partOf l with | some k => u.checkStranding k | none => u) = u := fun u hu => by rw [hu]
  unfold State.writeMapEntry
  dsimp only
  rw [show s.wrs l [(MAP_ENTRY_PY, getBits v 0 5), (MAP_ENTRY_PX, getBits v 5 6), (MAP_ENTRY_CHANGING, getBits v 11 1)] = s.mapped l v from rfl,
    State.physOf_mapped]
  split_ifs with hpq
  · exact hcases _ hpart
  · exact hcases _ hcarried

theorem exec_mapEntryWrite {s : State} {l : LPlot} (v : DWord) (hr : s.runs = true) :
    exec (.mapEntryWrite l v) s = .next ((s.writeMapEntry l.toNat v).recordReg .mapEntry l.toNat) := by
  show execMapEntryWrite l v s = _
  rw [execMapEntryWrite, State.issue_runs _ _ hr]

/-- What a map entry's new place leaves beside the column. -/
theorem State.writeMapEntry_leaves (h : s.partOf l = none) : let t := s.writeMapEntry l v
    t.regs = (s.mapped l v).regs ∧ t.host = s.host ∧ t.mem.cis = s.mem.cis ∧ t.mem.aqua = s.mem.aqua ∧
    t.canal = (s.canal.map fun (x : Token) => if x.pplot = s.physOf l then { x with pplot := mapPlace v } else x) := by
  dsimp only
  rw [s.writeMapEntry_free l v h]
  split_ifs with hpq
  · rw [State.mapped_only]
    refine ⟨rfl, rfl, rfl, rfl, (List.map_id'' (fun x => ?_) _).symm⟩
    split_ifs with hx
    · rw [← hpq, ← hx]
    · rfl
  · obtain ⟨r, hr, -⟩ := (s.mapped l v).carriedTo_only (s.physOf l) (mapPlace v)
    obtain ⟨-, hcis, haqua⟩ := (s.mapped l v).moveColumn_only (s.physOf l) (mapPlace v)
    rw [hr]
    refine ⟨rfl, ?_, hcis.trans ?_, haqua.trans ?_, ?_⟩
    all_goals rw [State.mapped_only]
    rfl

end

end Sys2Proof.Machine
end

section
/-! SUPPORT. The plot test's start and end, and the proof about fences, map entries and plot tests (R590 to R592). -/

namespace Sys2Proof.Machine

section
variable (s : State) (q : Nat)

/-- A test overwrites its own plot and column. -/
theorem State.overwritePlot_own : ((s.overwritePlot q).plot q).running = false ∧ ((s.overwritePlot q).plot q).ctr = [] := by
  simp [State.overwritePlot, testedPlot]

theorem State.overwritePlot_others {p : Nat} (h : p ≠ q) : (s.overwritePlot q).plot p = s.plot p ∧
    ∀ off n, off + n ≤ 2 ^ 24 → (s.overwritePlot q).resvBytes p off n = s.resvBytes p off n := by
  refine ⟨?_, fun off n hn => State.resvBytes_congr ?_ fun i hi => ?_⟩
  · simp only [State.overwritePlot, State.plot, State.setPlot]
    exact sget_sput_other _ _ _ _ h
  · rw [show (s.overwritePlot q).mem.fog = sput 0 s.mem.fog q (s.freeIdx + 1) from rfl]
    exact sget_sput_other _ _ _ _ h
  · exact sget_filter_kept (0 : Byte) _ _ fun v => by simp only [ne_eq, decide_eq_true_eq]; omega

theorem State.overwritePlot_only : ∃ m ps i, s.overwritePlot q = { s with mem := m, plots := ps, freeIdx := i } ∧
    m.cis = s.mem.cis ∧ m.aqua = s.mem.aqua := ⟨_, _, _, rfl, rfl, rfl⟩

end

theorem regOff_plotTest : regOff .plotTest 0 = 0x250 := rfl

theorem regOff_evtStatus : regOff .evtStatus 0 = 0x268 := rfl

/-- RESULT, UNIT and BUSY of PLOT_TEST. -/
def testFields (r u b : Nat) : List (Fld × Nat) := [(PLOT_TEST_RESULT, r), (PLOT_TEST_UNIT, u), (PLOT_TEST_BUSY, b)]

theorem State.rd_testFields (s : State) (r u b : Nat) : (s.wrs 0 (testFields r u b)).rd PLOT_TEST_RESULT 0 = r % 4 ∧
    (s.wrs 0 (testFields r u b)).rd PLOT_TEST_UNIT 0 = u % 8 ∧ (s.wrs 0 (testFields r u b)).rd PLOT_TEST_BUSY 0 = b % 2 := by
  simp only [testFields, State.wrs]
  refine ⟨?result, ?unit, rd_wr_same _ _ _ _ (by decide)⟩
  case result =>
    rw [rd_wr_other _ (f := PLOT_TEST_BUSY) (g := PLOT_TEST_RESULT) _ (by decide) (.inr ⟨rfl, rfl, by decide⟩),
      rd_wr_other _ (f := PLOT_TEST_UNIT) (g := PLOT_TEST_RESULT) _ (by decide) (.inr ⟨rfl, rfl, by decide⟩)]
    exact rd_wr_same _ _ _ _ (by decide)
  case unit =>
    rw [rd_wr_other _ (f := PLOT_TEST_BUSY) (g := PLOT_TEST_UNIT) _ (by decide) (.inr ⟨rfl, rfl, by decide⟩)]
    exact rd_wr_same _ _ _ _ (by decide)

theorem State.wrs_keeps (s : State) (n : Nat) (fs : List (Fld × Nat)) : (s.wrs n fs).plots = s.plots ∧ (s.wrs n fs).mem = s.mem ∧
    (s.wrs n fs).host = s.host ∧ (s.wrs n fs).ctx = s.ctx := by
  rw [State.wrs_only]
  exact ⟨rfl, rfl, rfl, rfl⟩

/-- The end of a test: event 15, over the fields written. -/
theorem State.raise_testDone (s : State) : (s.raise evTestDone).flag (⟨.evtStatus, evTestDone, 1⟩ : Fld) = true ∧
    (∀ f n, regOff f.reg n ≠ regOff .evtStatus 0 → (s.raise evTestDone).rd f n = s.rd f n) ∧ (s.raise evTestDone).plots = s.plots ∧
    (s.raise evTestDone).mem = s.mem ∧ (s.raise evTestDone).host = s.host ∧ (s.raise evTestDone).ctx = s.ctx := by
  refine ⟨?_, fun f n h => State.rd_raise _ _ h, ?_⟩
  · have hbit : ((s.raise evTestDone).rd EVT_STATUS_EVENTS).testBit 15 = true := State.raise_event s (by decide)
    rw [State.flag_eq _ _ _ rfl]
    change (getBits ((s.raise evTestDone).reg .evtStatus 0) 0 17).testBit 15 = true at hbit
    rw [getBits, Nat.testBit_mod_two_pow] at hbit
    exact (Bool.and_eq_true_iff.1 hbit).2
  · simp

/-- What the end of a plot test leaves, whatever its verdict: the plot under test has lost its own state, and every other plot and column stands. -/
structure TestLeaves (s t : State) : Prop where
  idle : (t.plot s.lev.testPlot).running = false
  counters : (t.plot s.lev.testPlot).ctr = []
  plots : ∀ p, p ≠ s.lev.testPlot → t.plot p = s.plot p
  columns : ∀ p off n, p ≠ s.lev.testPlot → off + n ≤ 2 ^ 24 → t.resvBytes p off n = s.resvBytes p off n
  cis : t.mem.cis = s.mem.cis
  aqua : t.mem.aqua = s.mem.aqua
  host : t.host = s.host
  ctx : t.ctx = s.ctx

theorem testLeaves_of_overwritten {s t : State} (hp : t.plots = (s.overwritePlot s.lev.testPlot).plots)
    (hm : t.mem = (s.overwritePlot s.lev.testPlot).mem) (hh : t.host = s.host) (hc : t.ctx = s.ctx) : TestLeaves s t := by
  have hplot : ∀ p, t.plot p = (s.overwritePlot s.lev.testPlot).plot p := fun p => by unfold State.plot; rw [hp]
  have hown := s.overwritePlot_own s.lev.testPlot
  exact {
    idle := by rw [hplot]; exact hown.1
    counters := by rw [hplot]; exact hown.2
    plots := fun p h => by rw [hplot, (s.overwritePlot_others _ h).1]
    columns := fun p off n h hn => (State.resvBytes_of_mem hm _ _ _).trans ((s.overwritePlot_others _ h).2 off n hn)
    cis := by rw [hm]; rfl
    aqua := by rw [hm]; rfl
    host := hh
    ctx := hc }

/-- A test that ran to its end writes its verdict over the overwritten plot. -/
def State.testEnded (s : State) (r u : Nat) : State := ((s.overwritePlot s.lev.testPlot).wrs 0 (testFields r u 0)).raise evTestDone

theorem State.testEnded_leaves (s : State) (r u : Nat) : TestLeaves s (s.testEnded r u) := by
  obtain ⟨-, -, hp, hm, hh, hc⟩ := State.raise_testDone ((s.overwritePlot s.lev.testPlot).wrs 0 (testFields r u 0))
  obtain ⟨hp', hm', hh', hc'⟩ := (s.overwritePlot s.lev.testPlot).wrs_keeps 0 (testFields r u 0)
  obtain ⟨m, ps, i, honly, -⟩ := s.overwritePlot_only s.lev.testPlot
  exact testLeaves_of_overwritten (hp.trans hp') (hm.trans hm') (hh.trans (hh'.trans (by rw [honly]))) (hc.trans (hc'.trans (by rw [honly])))

theorem State.testEnded_verdict (s : State) (r u : Nat) :
    (s.testEnded r u).flag PLOT_TEST_BUSY = false ∧ (s.testEnded r u).rd PLOT_TEST_RESULT = r % 4 ∧
    (s.testEnded r u).rd PLOT_TEST_UNIT = u % 8 ∧ (s.testEnded r u).flag (⟨.evtStatus, evTestDone, 1⟩ : Fld) = true := by
  obtain ⟨hdone, hkeep, -⟩ := State.raise_testDone ((s.overwritePlot s.lev.testPlot).wrs 0 (testFields r u 0))
  obtain ⟨hr, hu, hb⟩ := State.rd_testFields (s.overwritePlot s.lev.testPlot) r u 0
  refine ⟨?_, (hkeep PLOT_TEST_RESULT 0 (by decide)).trans hr, (hkeep PLOT_TEST_UNIT 0 (by decide)).trans hu, hdone⟩
  rw [State.flag, State.testEnded, hkeep PLOT_TEST_BUSY 0 (by decide), hb]
  rfl

theorem exec_plotTestDone {s : State} (res : TestResult) (hr : s.runs = true) (hb : s.flag PLOT_TEST_BUSY = true) :
    exec (.plotTestDone res) s = .next (match res with
      | .pass => s.testEnded 1 0
      | .fail u => s.testEnded 2 u.toNat
      | .abandoned => (s.overwritePlot s.lev.testPlot).abandonTest s.lev.testPlot) := by
  show execPlotTestDone res s = _
  rw [execPlotTestDone, State.issue_runs _ _ hr, hb]
  cases res <;> rfl

/-- The state of an abandoned test: its plot's TEST cleared and recorded, then BUSY and the verdict. -/
def State.testAbandoned (s : State) (q : Nat) : State :=
  ((((s.wr LEVEE_PLOT_TEST q 0).recordReg .leveePlot q).wr PLOT_TEST_BUSY 0 0).wr PLOT_TEST_RESULT 0 3).raise evTestDone

/-- A running test is abandoned. -/
theorem State.abandonTest_running {s : State} (hb : s.flag PLOT_TEST_BUSY = true) : s.abandonTest s.lev.testPlot = s.testAbandoned s.lev.testPlot := by
  have hbusy : ((s.wr LEVEE_PLOT_TEST s.lev.testPlot 0).recordReg .leveePlot s.lev.testPlot).flag PLOT_TEST_BUSY = true := by
    rw [State.flag_recordReg, State.flag, rd_wr_other _ _ (by decide) (.inl _)]
    · exact hb
    · show regOff .plotTest 0 ≠ regOff .leveePlot _
      rw [regOff_plotTest, regOff_leveePlot]; omega
  rw [State.abandonTest]
  exact if_pos (by simp only [hbusy, Bool.true_and]; exact decide_eq_true rfl)

section
variable (s : State) (q : Nat)

theorem State.testAbandoned_leaves : (s.testAbandoned q).plots = s.plots ∧ (s.testAbandoned q).mem = s.mem ∧ (s.testAbandoned q).host = s.host ∧
    (s.testAbandoned q).ctx = s.ctx := by
  simp only [State.testAbandoned, State.raise_plots, State.raise_mem, State.raise_host, State.raise_ctx, State.wr, State.recordReg,
    State.recordLevee, State.setReg, and_self]

theorem State.testAbandoned_verdict : (s.testAbandoned q).flag PLOT_TEST_BUSY = false ∧ (s.testAbandoned q).rd PLOT_TEST_RESULT = 3 ∧
    (s.testAbandoned q).flag LEVEE_PLOT_TEST q = false ∧ (s.testAbandoned q).flag (⟨.evtStatus, evTestDone, 1⟩ : Fld) = true := by
  obtain ⟨hdone, hkeep, -⟩ := State.raise_testDone
    ((((s.wr LEVEE_PLOT_TEST q 0).recordReg .leveePlot q).wr PLOT_TEST_BUSY 0 0).wr PLOT_TEST_RESULT 0 3)
  have hne : regOff .leveePlot q ≠ regOff .plotTest 0 := by rw [regOff_leveePlot, regOff_plotTest]; omega
  have hevt : regOff .leveePlot q ≠ regOff .evtStatus 0 := by rw [regOff_leveePlot, regOff_evtStatus]; omega
  refine ⟨?busy, ?result, ?test, hdone⟩
  case busy =>
    rw [State.flag, State.testAbandoned, hkeep PLOT_TEST_BUSY 0 (by decide),
      rd_wr_other _ (f := PLOT_TEST_RESULT) (g := PLOT_TEST_BUSY) _ (by decide) (.inr ⟨rfl, rfl, by decide⟩), rd_wr_same _ _ _ _ (by decide)]
    rfl
  case result =>
    exact (hkeep PLOT_TEST_RESULT 0 (by decide)).trans (rd_wr_same _ _ _ _ (by decide))
  case test =>
    have htest : ((s.wr LEVEE_PLOT_TEST q 0).recordReg .leveePlot q).flag LEVEE_PLOT_TEST q = false :=
      State.flag_wr_same s q LEVEE_PLOT_TEST false (by decide) rfl
    rw [State.flag, State.testAbandoned, hkeep LEVEE_PLOT_TEST q hevt,
      rd_wr_other _ (f := PLOT_TEST_RESULT) (g := LEVEE_PLOT_TEST) _ (by decide) (.inl hne),
      rd_wr_other _ (f := PLOT_TEST_BUSY) (g := LEVEE_PLOT_TEST) _ (by decide) (.inl hne)]
    exact htest

end

/-- START of a plot test (R590). -/
theorem State.plotTestStart_starts {s : State} (hb : s.flag PLOT_TEST_BUSY = false) (ht : s.flag LEVEE_PLOT_TEST (s.rd PLOT_TEST_PPLOT) = true) :
    s.plotTestStart = { s.wrs 0 [(PLOT_TEST_BUSY, 1), (PLOT_TEST_RESULT, 0), (PLOT_TEST_UNIT, 0)] with
      lev := { s.lev with testPlot := s.rd PLOT_TEST_PPLOT } } := by
  rw [State.plotTestStart, if_neg (by simp [hb, ht])]
  dsimp only
  rw [State.wrs_only]

theorem State.plotTestStart_ignored {s : State} (h : s.flag PLOT_TEST_BUSY = true ∨ s.flag LEVEE_PLOT_TEST (s.rd PLOT_TEST_PPLOT) = false) :
    s.plotTestStart = s := by
  rw [State.plotTestStart, if_pos (h.imp_right fun ht => by rw [ht]; rfl)]

theorem exec_plotTestStart {s : State} (hr : s.runs = true) : exec .plotTestStart s = .next s.plotTestStart := by
  show execPlotTestStart s = _
  rw [execPlotTestStart, State.issue_runs _ _ hr]

/-- A recorded write of a spare plot's LEVEE_PLOT: the fences it asks for stand in the register and in the levee list. -/
theorem leveePlotWrite_takes (s : State) (off : BitVec 32) (v : DWord) (n : Nat) (h : s.plotPart n = none) :
    let u : State := { s with lev := { s.lev with heldWrites := s.lev.heldWrites.erase (off.toNat, v) } }
    let t := (u.leveeApply .leveePlot n v).recordReg .leveePlot n
    t.flag LEVEE_PLOT_FLUME n = (s.leveeFences n v).1 ∧ t.flag LEVEE_PLOT_PLOT n = (s.leveeFences n v).2 ∧ t.flag LEVEE_PLOT_TEST n = v.getLsbD 2 ∧
    t.flag LEVEE_PLOT_MANUF n = s.flag LEVEE_PLOT_MANUF n ∧ t.mem = s.mem ∧ t.host = s.host ∧ t.plots = s.plots := by
  intro u t
  have ht : t = (u.wrs n [(LEVEE_PLOT_FLUME, if (s.leveeFences n v).1 then 1 else 0), (LEVEE_PLOT_PLOT, if (s.leveeFences n v).2 then 1 else 0),
      (LEVEE_PLOT_TEST, if v.getLsbD 2 then 1 else 0)]).recordReg .leveePlot n :=
    congrArg (fun w : State => w.recordReg .leveePlot n) ((show u.leveeApply .leveePlot n v = u.writeLeveePlot n v from rfl).trans
      (u.writeLeveePlot_spare v h))
  obtain ⟨hf, hp, htest, hman⟩ := u.flags_wrs_leveePlot n (s.leveeFences n v).1 (s.leveeFences n v).2 (v.getLsbD 2)
  rw [ht]
  refine ⟨hf, hp, htest, hman, ?_⟩
  rw [State.wrs_only]
  exact ⟨rfl, rfl, rfl⟩

/-- Where a map entry's write puts the column of its logical plot. -/
theorem State.writeMapEntry_column {s : State} {l : Nat} (v : DWord) (hl : l < 1024) (h : s.partOf l = none) :
    let t := s.writeMapEntry l v; let p := s.physOf l; let q := mapPlace v
    (p = q → t.mem = s.mem ∧ t.plots = s.plots) ∧
    (p ≠ q → (∀ k, k ≠ p → k ≠ q → t.plot k = s.plot k ∧ ∀ off n, off + n ≤ 2 ^ 24 → t.resvBytes k off n = s.resvBytes k off n) ∧
      (s.columnReads p = true → s.mem.wf = true → (t.plot q).resident = (s.plot p).resident ∧
        ∀ off n, off + n ≤ 2 ^ 24 → t.resvBytes q off n = s.resvBytes p off n) ∧
      (s.columnReads p = false → (t.plot q).resident = [] ∧ t.mem = s.mem)) := by
  intro t p q
  have ht : t = if p = q then s.mapped l v else (s.mapped l v).carriedTo p q := s.writeMapEntry_free l v h
  have hmem : (s.mapped l v).mem = s.mem := by rw [State.mapped_only]
  have hplots : (s.mapped l v).plots = s.plots := by rw [State.mapped_only]
  have hplot : ∀ k, (s.mapped l v).plot k = s.plot k := fun k => congrArg (sget ({} : Plot) · k) hplots
  have hresv : ∀ k off n, (s.mapped l v).resvBytes k off n = s.resvBytes k off n := State.resvBytes_of_mem hmem
  have hreads := s.columnReads_mapped l v hl p
  by_cases hpq : p = q
  · rw [if_pos hpq] at ht
    exact ⟨fun _ => ht ▸ ⟨hmem, hplots⟩, fun hne => absurd hpq hne⟩
  · rw [if_neg hpq] at ht
    obtain ⟨r, hr, -⟩ := (s.mapped l v).carriedTo_only p q
    have htmem : t.mem = ((s.mapped l v).moveColumn p q).mem := by rw [ht, hr]
    have htplot : ∀ k, t.plot k = ((s.mapped l v).moveColumn p q).plot k := fun k => by rw [ht, hr]; rfl
    have htresv := State.resvBytes_of_mem htmem
    refine ⟨fun he => absurd he hpq, fun _ => ⟨fun k hp hq => ?others, fun hc hw => ?reads, fun hc => ?lost⟩⟩
    case others =>
      obtain ⟨hk, hcol⟩ := (s.mapped l v).moveColumn_others p q hp hq
      exact ⟨by rw [htplot, hk, hplot], fun off n hn => by rw [htresv, hcol off n hn, hresv]⟩
    case reads =>
      obtain ⟨hres, hcol⟩ := (s.mapped l v).moveColumn_reads p q (hreads.trans hc) (by rw [hmem]; exact hw)
      exact ⟨by rw [htplot, hres, hplot], fun off n hn => by rw [htresv, hcol off n hn, hresv]⟩
    case lost =>
      obtain ⟨hres, hm⟩ := (s.mapped l v).moveColumn_lost p q (hreads.trans hc)
      exact ⟨by rw [htplot, hres], by rw [htmem, hm, hmem]⟩

/-- A map entry's write takes effect and is recorded. -/
theorem mapEntryWrite_takes {s : State} (l : LPlot) (v : DWord) (h : s.partOf l.toNat = none) :
    let t := (s.writeMapEntry l.toNat v).recordReg .mapEntry l.toNat
    t.rd MAP_ENTRY_PY l.toNat = getBits v 0 5 ∧ t.rd MAP_ENTRY_PX l.toNat = getBits v 5 6 ∧ t.rd MAP_ENTRY_CHANGING l.toNat = getBits v 11 1 ∧
    t.canal = (s.canal.map fun (x : Token) => if x.pplot = s.physOf l.toNat then { x with pplot := mapPlace v } else x) ∧
    (∀ j : LPlot, j ≠ l → t.physOf j.toNat = s.physOf j.toNat) ∧ t.host = s.host ∧ t.mem.cis = s.mem.cis ∧ t.mem.aqua = s.mem.aqua := by
  intro t
  obtain ⟨hregs, hhost, hcis, haqua, hcanal⟩ := s.writeMapEntry_leaves l.toNat v h
  obtain ⟨hy, hx, hc⟩ := s.rd_mapped l.toNat v
  have hrd : ∀ f n, t.rd f n = (s.mapped l.toNat v).rd f n := fun f n => by
    have htregs : t.regs = (s.mapped l.toNat v).regs := hregs
    simp only [State.rd, State.reg, htregs]
  refine ⟨(hrd _ _).trans hy, (hrd _ _).trans hx, (hrd _ _).trans hc, hcanal, fun j hj => ?_, hhost, hcis, haqua⟩
  have hne : j.toNat ≠ l.toNat := fun e => hj (BitVec.eq_of_toNat_eq e)
  rw [← s.physOf_mapped_other l.toNat v hne]
  unfold State.physOf
  rw [hrd, hrd]

/-- Settles O58, through what each of the four commands writes and what the column's move and the test leave. -/
theorem fenceRegistersAndPlotTests : Obligations.FenceRegistersAndPlotTests := by
  unfold Obligations.FenceRegistersAndPlotTests
  refine ⟨fun s off v k n hr hreg hk => ?levee, fun s l v hr hp => ?map, fun s hr => ?start, fun s res hr hb => ?done⟩
  case levee =>
    have hexec := exec_leveeWrite (v := v) hr hreg hk
    refine ⟨hexec, fun hk hp => ?_⟩
    subst hk
    obtain ⟨hf, hpl, ht, hman, hmem, hhost, hplots⟩ := leveePlotWrite_takes s off v n hp
    exact ⟨_, hexec, hf, hpl, ht, hman, State.recorded_recordReg _ _ _, hmem, hhost, hplots⟩
  case map =>
    obtain ⟨hy, hx, hc, hcanal, hother, hhost, hcis, haqua⟩ := mapEntryWrite_takes l v hp
    exact ⟨_, exec_mapEntryWrite v hr, hy, hx, hc, State.recorded_recordReg _ _ _, hcanal, hother, hhost, hcis, haqua,
      State.writeMapEntry_column v l.isLt hp⟩
  case start =>
    rw [exec_plotTestStart hr]
    exact ⟨fun h => congrArg _ (State.plotTestStart_ignored h), fun h ht => congrArg _ (State.plotTestStart_starts h ht)⟩
  case done =>
    have hexec := exec_plotTestDone res hr hb
    cases res with
    | pass =>
      obtain ⟨hbusy, hres, -, hdone⟩ := s.testEnded_verdict 1 0
      have h := s.testEnded_leaves 1 0
      exact ⟨_, hexec, hbusy, hres, nofun, nofun, hdone, h.idle, h.counters, h.plots, h.columns, h.cis, h.aqua, h.host, h.ctx⟩
    | fail u =>
      obtain ⟨hbusy, hres, hunit, hdone⟩ := s.testEnded_verdict 2 u.toNat
      have h := s.testEnded_leaves 2 u.toNat
      have hu : ∀ u', TestResult.fail u = .fail u' → (s.testEnded 2 u.toNat).rd PLOT_TEST_UNIT = u'.toNat := fun u' e => by
        obtain rfl := TestResult.fail.inj e
        exact hunit.trans (Nat.mod_eq_of_lt u.isLt)
      exact ⟨_, hexec, hbusy, hres, hu, nofun, hdone, h.idle, h.counters, h.plots, h.columns, h.cis, h.aqua, h.host, h.ctx⟩
    | abandoned =>
      have hrun : (s.overwritePlot s.lev.testPlot).abandonTest s.lev.testPlot = (s.overwritePlot s.lev.testPlot).testAbandoned s.lev.testPlot :=
        State.abandonTest_running (s := s.overwritePlot s.lev.testPlot) hb
      rw [hrun] at hexec
      obtain ⟨hbusy, hres, htest, hdone⟩ := (s.overwritePlot s.lev.testPlot).testAbandoned_verdict s.lev.testPlot
      obtain ⟨hpl, hm, hh, hc⟩ := (s.overwritePlot s.lev.testPlot).testAbandoned_leaves s.lev.testPlot
      have h := testLeaves_of_overwritten hpl hm hh hc
      exact ⟨_, hexec, hbusy, hres, nofun, fun _ => htest, hdone, h.idle, h.counters, h.plots, h.columns, h.cis, h.aqua, h.host, h.ctx⟩

end Sys2Proof.Machine
end

section
/-! SUPPORT. A runnel at a custom instruction, and the proof about its tokens, waits, plot-control accesses, moves and end (R169, R171, R175 to R179). -/

namespace Sys2Proof.Machine

/-! ### A runnel at its instruction -/

theorem Plot.running_of_runnelLive {x : Plot} {r : Nat} (h : x.runnelLive r = true) : x.running = true := by
  simp only [Plot.runnelLive, Bool.and_eq_true] at h
  exact h.1.1

theorem Plot.rvStep_custom {x : Plot} {r w : Nat} (h : x.fetch r = some (.custom w, 4)) : x.rvStep r = .custom w := by
  simp only [Plot.rvStep, h]

/-- Base code of a runnel that stands at a custom instruction runs no instruction. -/
theorem AtCustom.runBase {s : State} {p : PPlot} {r : BitVec 7} {w : Nat} (h : AtCustom s p r w) :
    s.runBase p.toNat r.toNat baseFuel = (s, some w) := by
  rw [show baseFuel = 65535 + 1 from rfl, State.runBase]
  simp only [State.touch_quiet _ _ _ h.sound, Plot.running_of_runnelLive h.live, Plot.rvStep_custom h.fetched, Bool.not_true,
    Bool.false_eq_true, if_false]

/-- A row of the extension at its own instruction has its effect. -/
theorem AtCustom.runnelRow {s : State} {p : PPlot} {r : BitVec 7} {w : Nat} (h : AtCustom s p r w) {want : Nat → Bool} (hw : want w = true)
    (f : State → Nat → Nat → State) : s.runnelRow p r want f = .next (f s p.toNat r.toNat) := by
  rw [State.runnelRow, State.issue_runs _ _ h.runs, if_pos h.live, h.runBase]
  exact congrArg _ (if_pos hw)

/-- A register's write leaves the program counter. -/
@[simp] theorem Runnel.setReg_pc (v : Runnel) (i : Nat) (w : Word) : (v.setReg i w).pc = v.pc := by
  unfold Runnel.setReg
  split_ifs <;> rfl

/-- The runnel past PC.MOVE: the move's number in rd, and one move more. -/
def Runnel.moved (v : Runnel) (rd : Nat) : Runnel := { v.setReg rd (BitVec.ofNat 32 v.moves) with moves := v.moves + 1 }

@[simp] theorem Runnel.moved_pc (v : Runnel) (rd : Nat) : (v.moved rd).pc = v.pc := v.setReg_pc _ _

/-! ### Tokens (R169, R171) -/

/-- Counters and runnels of a plot stand apart. -/
theorem Plot.addCounter_setRunnel (x : Plot) (r c n : Nat) (v : Runnel) : (x.setRunnel r v).addCounter c n = (x.addCounter c n).setRunnel r v := by
  by_cases hc : c = 0
  · simp only [Plot.addCounter, hc, if_true]
  · simp only [Plot.addCounter, hc, if_false]
    rfl

theorem State.cross_unseeped {s : State} (h : s.linkSeeps = false) (a b : Station) : s.cross a b = (s, true) := by
  rw [State.cross, h]
  rfl

section
variable (s : State) (p r : Nat) (v : Runnel)

/-- A token of a runnel to its own plot counts there. -/
theorem State.sendToken_past_own (c n : Nat) : (s.past p r v).sendToken p p c n =
    s.setPlot p (((s.plot p).addCounter c n).setRunnel r { v with pc := v.pc + 4 }) := by
  rw [State.sendToken, if_pos rfl, State.past, State.plot_setPlot, State.setPlot_setPlot, Plot.addCounter_setRunnel]

/-- A token of a runnel to another plot enters the canal, where no seep acts on a link. -/
theorem State.sendToken_past_other {d : Nat} (hd : d ≠ p) (hl : s.linkSeeps = false) (c n : Nat) : (s.past p r v).sendToken p d c n =
    { s.past p r v with canal := s.canal ++ [⟨.plot p, d, c, n, (s.plot p).seq⟩] } := by
  have hseq : ((s.past p r v).plot p).seq = (s.plot p).seq := by rw [State.past, State.plot_setPlot]; rfl
  have hlink : (s.past p r v).linkSeeps = false := by
    unfold State.linkSeeps at hl ⊢
    rwa [State.past, State.setPlot_inject, State.setPlot_armed]
  have hcross : (s.past p r v).cross (.plot p) (.plot d) = (s.past p r v, true) := State.cross_unseeped hlink _ _
  rw [State.sendToken, if_neg (Ne.symm hd), State.engineToken, hcross, hseq]
  rfl

end

/-! ### The extension's rows (R175, R176, R178, R179) -/

section
variable {s : State} {p : PPlot} {r : BitVec 7}

theorem State.past_setPlot (s : State) (p r : Nat) (x : Plot) (v : Runnel) :
    (s.setPlot p x).past p r v = s.setPlot p (x.setRunnel r { v with pc := v.pc + 4 }) := by
  rw [State.past, State.plot_setPlot, State.setPlot_setPlot]

theorem exec_pcTsig {rs1 : BitVec 5} (h : AtCustom s p r (rForm 0x0B 0 0 0 rs1.toNat 0))
    (hm : ∀ m ∈ (s.plot p.toNat).moves, m.runnel ≠ r.toNat) :
    let v := (s.plot p.toNat).runnel r.toNat; let w := (v.reg rs1.toNat).toNat
    exec (.pcTsig p r rs1) s = .next ((s.past p.toNat r.toNat v).sendToken p.toNat (if wflag w 16 then s.physOf (wbits w 6 10) else p.toNat)
      (wbits w 0 6) (wbits w 24 8)) := by
  have hany : ((s.plot p.toNat).moves.any fun m => m.runnel = r.toNat) = false := by
    rw [List.any_eq_false]
    exact fun m hmem => by simpa using hm m hmem
  show execPcTsig p r rs1 s = _
  rw [execPcTsig, h.runnelRow (decide_eq_true rfl)]
  dsimp only
  rw [hany]
  rfl

theorem exec_pcTwait {rd rs1 rs2 : BitVec 5} (h : AtCustom s p r (rForm 0x0B 1 0 rd.toNat rs1.toNat rs2.toNat)) :
    let v := (s.plot p.toNat).runnel r.toNat; let c := (s.plot p.toNat).counter ((v.reg rs1.toNat).toNat % 64)
    exec (.pcTwait p r rd rs1 rs2) s =
      .next (if reached c (v.reg rs2.toNat) then s.past p.toNat r.toNat (v.setReg rd.toNat c) else s) := by
  show execPcTwait p r rd rs1 rs2 s = _
  rw [execPcTwait, h.runnelRow (decide_eq_true rfl)]

theorem exec_pcRds {rd rs1 : BitVec 5} {imm : BitVec 12}
    (h : AtCustom s p r (0x0B + rd.toNat * 2 ^ 7 + 2 * 2 ^ 12 + rs1.toNat * 2 ^ 15 + imm.toNat * 2 ^ 20)) :
    let v := (s.plot p.toNat).runnel r.toNat; let c := (s.plot p.toNat).control r.toNat (v.reg rs1.toNat + imm.signExtend 32).toNat
    (∀ w, c = some w → exec (.pcRds p r rd rs1 imm) s = .next (s.past p.toNat r.toNat (v.setReg rd.toNat w))) ∧
    (c = none → exec (.pcRds p r rd rs1 imm) s = .next (s.trap p.toNat r.toNat 5)) := by
  refine ⟨fun w hc => ?_, fun hc => ?_⟩
  all_goals
    show execPcRds p r rd rs1 imm s = _
    rw [execPcRds, h.runnelRow (decide_eq_true rfl)]
    simp only [hc]

theorem exec_pcWrs {rs1 rs2 : BitVec 5} {imm : BitVec 12}
    (h : AtCustom s p r (0x0B + imm.toNat % 32 * 2 ^ 7 + 3 * 2 ^ 12 + rs1.toNat * 2 ^ 15 + rs2.toNat * 2 ^ 20 + imm.toNat / 32 * 2 ^ 25)) :
    let x := s.plot p.toNat; let v := x.runnel r.toNat; let i := (v.reg rs1.toNat + imm.signExtend 32).toNat
    exec (.pcWrs p r rs1 rs2 imm) s = .next (if 0x010 ≤ i ∧ i ≤ 0x01F then
        s.setPlot p.toNat ({ x with param := sput (0 : Word) x.param (i - 0x010) (v.reg rs2.toNat) }.setRunnel r.toNat { v with pc := v.pc + 4 })
      else s.trap p.toNat r.toNat 5) := by
  show execPcWrs p r rs1 rs2 imm s = _
  rw [execPcWrs, h.runnelRow (decide_eq_true rfl)]
  dsimp only
  rw [State.past_setPlot]

theorem exec_pcMwait (h : AtCustom s p r (rForm 0x0B 5 0 0 0 0)) :
    exec (.pcMwait p r) s = .next (if (s.plot p.toNat).moves.any fun m => m.runnel = r.toNat then s
      else s.past p.toNat r.toNat ((s.plot p.toNat).runnel r.toNat)) := by
  show execPcMwait p r s = _
  rw [execPcMwait, h.runnelRow (decide_eq_true rfl)]

theorem exec_pcEnd (h : AtCustom s p r (rForm 0x0B 6 0 0 0 0)) :
    exec (.pcEnd p r) s = .next (s.past p.toNat r.toNat { (s.plot p.toNat).runnel r.toNat with done := true }) := by
  show execPcEnd p r s = _
  rw [execPcEnd, h.runnelRow (decide_eq_true rfl)]

section
variable {rd rs1 : BitVec 5} {m : Move} (h : AtCustom s p r (rForm 0x0B 4 0 rd.toNat rs1.toNat 0))
  (hq : ((s.plot p.toNat).moves.filter fun y => y.runnel = r.toNat).length < 4) (ha : (((s.plot p.toNat).runnel r.toNat).reg rs1.toNat).toNat % 16 = 0)
  (hfit : (((s.plot p.toNat).runnel r.toNat).reg rs1.toNat).toNat + 16 ≤ 4096)
  (hp : parseMove r.toNat ((s.plot p.toNat).scratchBytes r.toNat (((s.plot p.toNat).runnel r.toNat).reg rs1.toNat).toNat 16) = some m)
include h hq ha hfit hp

/-- PC.MOVE of a live tile that nobody holds. -/
theorem exec_pcMove_tile (ht : m.tile = true) : let x := s.plot p.toNat; let t := m.addr % 16
    (x.tile t).st = .live → (x.tile t).held = 0 → (x.fence = true → x.isState t = false) →
    exec (.pcMove p r rd rs1) s = .next (s.setPlot p.toNat
      ({ x.setTile t { x.tile t with held := (x.tile t).held + 1 } with moves := x.moves ++ [m] }.setRunnel r.toNat
        { (x.runnel r.toNat).moved rd.toNat with pc := (x.runnel r.toNat).pc + 4 })) := by
  intro x t hst hheld hfence
  have hwait : ¬((x.fence = true ∧ x.isState t = true) ∨ (x.tile t).st = .pending ∨ 0 < (x.tile t).held) := by
    rintro (⟨hf, hs⟩ | hs | hs)
    · rw [hfence hf] at hs; exact absurd hs Bool.false_ne_true
    · rw [hst] at hs; exact absurd hs (by decide)
    · omega
  have hfree : (x.tile t).st ≠ .free := by rw [hst]; decide
  show execPcMove p r rd rs1 s = _
  rw [execPcMove, h.runnelRow (decide_eq_true rfl)]
  dsimp only
  rw [if_neg (Nat.not_le.2 hq), if_neg (not_not.2 ha), if_neg (Nat.not_lt.2 hfit), hp]
  dsimp only
  rw [if_pos ht, if_neg hwait, if_neg hfree, State.past_setPlot, ← Runnel.moved_pc (x.runnel r.toNat) rd.toNat]
  rfl

/-- PC.MOVE between the scratchpad and memory that its tenant may reach. -/
theorem exec_pcMove_memory (ht : m.tile = false) : let x := s.plot p.toNat
    s.masAccess x m.toRemote m.addr m.len ≠ .fail stDenied →
    exec (.pcMove p r rd rs1) s = .next (s.setPlot p.toNat ({ x with moves := x.moves ++ [m] }.setRunnel r.toNat
      { (x.runnel r.toNat).moved rd.toNat with pc := (x.runnel r.toNat).pc + 4 })) := by
  intro x hacc
  show execPcMove p r rd rs1 s = _
  rw [execPcMove, h.runnelRow (decide_eq_true rfl)]
  dsimp only
  rw [if_neg (Nat.not_le.2 hq), if_neg (not_not.2 ha), if_neg (Nat.not_lt.2 hfit), hp]
  dsimp only
  rw [if_neg (by rw [ht]; exact Bool.false_ne_true), if_neg hacc, State.past_setPlot, ← Runnel.moved_pc (x.runnel r.toNat) rd.toNat]
  rfl

end

end

end Sys2Proof.Machine
end

section
/-! SUPPORT. The end of a runnel's move, and the proof about runnel control (R175, R176). -/

namespace Sys2Proof.Machine

/-! ### What a move's read leaves (R176) -/

theorem State.repairRow_host (s : State) (q off : Nat) : (s.repairRow q off).host = s.host := by
  have hstop : ∀ (t : State) c d, (t.stop c d).host = t.host := fun t c d => by rw [(loose_stop t c d).frame]; rfl
  unfold State.repairRow
  dsimp only
  split_ifs
  · rfl
  · rfl
  · rw [hstop]

theorem State.correctedRow_host (s : State) (q off : Nat) : (s.correctedRow q off).host = s.host := by
  unfold State.correctedRow
  dsimp only
  split_ifs
  · rw [State.repairRow_host]
  · rfl

theorem State.resvRead_host (s : State) (reach q off n : Nat) : (s.resvRead reach q off n).2.host = s.host := by
  have hs : ∀ acts, (s.seepEvents .memt reach 1 acts).st.host = s.host := fun acts => by rw [State.seepEvents_only]
  unfold State.resvRead
  dsimp only
  split_ifs
  · exact State.repairRow_host _ _ _
  · split
    · split_ifs
      · rw [State.correctedRow_host, hs]
      · rw [State.repairRow_host]; exact hs _
      · rw [State.repairRow_host, hs]
    · exact hs _

/-- What a move's read counts before it looks at a column. -/
def State.moveCounted (s : State) (p : Nat) (m : Move) (ecc : EccOutcome) : State :=
  if ecc = .corrected then
    (if m.tile ∨ m.toRemote then s.bump ctrPlotCorrected p
     else if s.masRow m.addr = 0 then s.bump ctrEccCorrected (chanOf m.addr) else s)
  else s

section
variable (s : State) (p : Nat) {m : Move} (ecc : EccOutcome)

theorem State.moveCounted_keeps : (s.moveCounted p m ecc).plots = s.plots ∧ (s.moveCounted p m ecc).host = s.host := by
  unfold State.moveCounted
  split_ifs <;> simp

/-- A move's read leaves the plots and the host. -/
theorem State.moveRead_keeps : (s.moveRead p m ecc).1.plots = s.plots ∧ (s.moveRead p m ecc).1.host = s.host := by
  obtain ⟨hp, hh⟩ := s.moveCounted_keeps p (m := m) ecc
  unfold State.moveRead
  rw [show (if ecc = .corrected then (if m.tile ∨ m.toRemote then s.bump ctrPlotCorrected p
     else if s.masRow m.addr = 0 then s.bump ctrEccCorrected (chanOf m.addr) else s) else s) = s.moveCounted p m ecc from rfl]
  dsimp only
  split_ifs
  · exact ⟨rfl, rfl⟩
  · exact ⟨(State.resvRead_plots _ _ _ _ _).trans hp, (State.resvRead_host _ _ _ _ _).trans hh⟩
  · exact ⟨hp, hh⟩

/-- A move between a tile and the scratchpad reads without an error, and counts one that was corrected. -/
theorem State.moveRead_tile (ht : m.tile = true) (he : ecc ≠ .uncorrectable) :
    s.moveRead p m ecc = (if ecc = .corrected then s.bump ctrPlotCorrected p else s, true) := by
  unfold State.moveRead
  simp only [he, ht, if_false, Bool.not_true, Bool.false_and, Bool.false_eq_true, true_or, if_true]

end

/-! ### Lengths and bytes of a move -/

/-- A read of the Aqueduct's window gives as many bytes as were asked for. -/
theorem State.aqBytes_length (s : State) {a n k : Nat} (h : n = 0 ∨ n + a % 65536 ≤ 65536 * k) : (s.aqBytes a n k).length = n := by
  induction k generalizing a n with
  | zero => have : n = 0 := by omega
            subst this; rfl
  | succ k ih =>
    have hnext : (s.aqBytes (a + min n (65536 - a % 65536)) (n - min n (65536 - a % 65536)) k).length = n - min n (65536 - a % 65536) :=
      ih (by omega)
    rw [State.aqBytes]
    rw [List.length_append, hnext]
    split <;> simp only [State.cisBytes_length, List.length_replicate] <;> omega

theorem State.resvBytes_length (s : State) (p off n : Nat) : (s.resvBytes p off n).length = n := by
  rw [State.resvBytes, Mem.column_length, readBytes_length]

theorem State.masBytes_length (s : State) (a n : Nat) : (s.masBytes a n).length = n := by
  unfold State.masBytes
  split_ifs
  · exact s.resvBytes_length _ _ _
  · exact s.aqBytes_length (by omega)
  · exact s.cisBytes_length _ _

theorem storeKeeps_masWrite (p : Nat) (s : State) (part : Option Nat) (a : Nat) (bs : List Byte) : StoreKeeps p s (s.masWrite part a bs) := by
  unfold State.masWrite State.bufWrite
  split_ifs
  · exact storeKeeps_resvWrite p s _ _ _
  · exact storeKeeps_cisSend p s _ _ _

/-- The scratchpad reads back what was written. -/
theorem Plot.scratchBytes_scratchWrite (x : Plot) (r a : Nat) (bs : List Byte) : (x.scratchWrite r a bs).scratchBytes r a bs.length = bs :=
  readBytes_writeBytes _ _ _

theorem leWords_length (f : Nat → Nat) (n : Nat) : (((List.range n).map fun k => leBytes 4 (f k)).flatten).length = 4 * n := by
  induction n with
  | zero => rfl
  | succ n ih =>
    rw [List.range_succ, List.map_append, List.flatten_append, List.length_append, ih]
    simp only [List.map_cons, List.map_nil, List.flatten_cons, List.flatten_nil, List.append_nil, leBytes, List.length_cons, List.length_nil]
    omega

/-! ### The end of a move -/

/-- A plot whose move has ended: the tile it held is let go of. -/
def Plot.moveEnded (y : Plot) (m : Move) : Plot :=
  let t := m.addr % 16
  let y1 := if m.tile then y.setTile t { y.tile t with held := (y.tile t).held - 1 } else y
  { y1 with moves := y1.moves.erase m }

/-- The state after a move's bytes were read: moved, and the move taken away. -/
def State.moveFinished (s : State) (n : Nat) (m : Move) : State := (s.doMove n m).setPlot n (((s.doMove n m).plot n).moveEnded m)

theorem State.touches_quiet (s : State) {p : Nat} (h : s.seepQuiet .plot p = true) (us : List (Nat × Nat)) : s.touches_ p us = s := by
  induction us with
  | nil => rfl
  | cons u us ih => rw [State.touches_, s.touch_quiet _ _ h, ih]

section
variable {s : State} {p : PPlot} {r : BitVec 7} {m : Move} (ecc : EccOutcome) (hr : s.runs = true) (hx : (s.plot p.toNat).running = true)
  (hq : s.seepQuiet .plot p.toNat = true) (hm : ((s.plot p.toNat).moves.find? fun y => y.runnel = r.toNat) = some m)
include hr hx hq hm

/-- MOVE_COMPLETE of a move between a tile and the scratchpad. -/
theorem exec_moveComplete_tile (ht : m.tile = true) : exec (.moveComplete p r ecc) s = .next (match s.moveRead p.toNat m ecc with
    | (u, false) => u.failPlot p.toNat stMemUncorrectable
    | (u, true) => u.moveFinished p.toNat m) := by
  show execMoveComplete p r ecc s = _
  rw [execMoveComplete, State.issue_runs _ _ hr]
  dsimp only
  rw [hm]
  simp only [ht, if_true, Bool.not_true, Bool.false_and, Bool.false_eq_true, if_false, s.touches_quiet hq, hx]
  rcases s.moveRead p.toNat m ecc with ⟨u, _ | _⟩
  · rfl
  · simp only [State.moveFinished, Plot.moveEnded, ht, if_true]

/-- MOVE_COMPLETE of a move between memory and the scratchpad, which its tenant may make and no link or column fails. -/
theorem exec_moveComplete_memory (ht : m.tile = false) (hacc : s.masAccess (s.plot p.toNat) m.toRemote m.addr m.len = .ok)
    (hch : s.changingAt (s.masStation m.addr) = false) (hc : (s.cross (.plot p.toNat) (s.masStation m.addr)).2 = true)
    (hg : ((s.cross (.plot p.toNat) (s.masStation m.addr)).1.moveRead p.toNat m ecc).2 = true) :
    exec (.moveComplete p r ecc) s =
      .next (((s.cross (.plot p.toNat) (s.masStation m.addr)).1.moveRead p.toNat m ecc).1.moveFinished p.toNat m) := by
  have hrun : (((s.cross (.plot p.toNat) (s.masStation m.addr)).1).plot p.toNat).running = true := by
    obtain ⟨res, k, hplot⟩ := (storeKeeps_cross p.toNat s (.plot p.toNat) (s.masStation m.addr) hc).plot
    rw [hplot]
    exact hx
  show execMoveComplete p r ecc s = _
  rw [execMoveComplete, State.issue_runs _ _ hr]
  dsimp only
  rw [hm]
  simp only [ht, hacc, hch, Bool.false_eq_true, if_false, Bool.and_false, s.touches_quiet hq]
  generalize s.cross (.plot p.toNat) (s.masStation m.addr) = c at hc hg hrun ⊢
  obtain ⟨s2, b⟩ := c
  obtain rfl : b = true := hc
  simp only [hrun, Bool.not_true, Bool.false_eq_true, if_false] at hg ⊢
  generalize s2.moveRead p.toNat m ecc = g at hg ⊢
  obtain ⟨s3, b⟩ := g
  obtain rfl : b = true := hg
  simp only [State.moveFinished, Plot.moveEnded, ht, Bool.false_eq_true, if_false]

end

/-! ### The plot after a move -/

/-- A move's end lets go of its tile and takes the move away. -/
theorem Plot.moveEnded_leaves (y : Plot) (m : Move) : (y.moveEnded m).moves = y.moves.erase m ∧ (y.moveEnded m).scratch = y.scratch ∧
    (y.moveEnded m).runMap = y.runMap := by
  unfold Plot.moveEnded
  cases m.tile <;> exact ⟨rfl, rfl, rfl⟩

theorem Plot.moveEnded_tile (y : Plot) {m : Move} (ht : m.tile = true) :
    (y.moveEnded m).tile (m.addr % 16) = { y.tile (m.addr % 16) with held := (y.tile (m.addr % 16)).held - 1 } := by
  simp only [Plot.moveEnded, ht, if_true]
  exact Plot.tile_setTile _ _ _

theorem Plot.moveEnded_memory (y : Plot) {m : Move} (ht : m.tile = false) (k : Nat) : (y.moveEnded m).tile k = y.tile k := by
  simp only [Plot.moveEnded, ht, Bool.false_eq_true, if_false]
  rfl

theorem Plot.moveEnded_scratchBytes (y : Plot) (m : Move) (r a n : Nat) : (y.moveEnded m).scratchBytes r a n = y.scratchBytes r a n := by
  obtain ⟨-, hs, hmap⟩ := y.moveEnded_leaves m
  unfold Plot.scratchBytes Plot.physRunnel
  rw [hs, hmap]

section
variable (s : State) (n : Nat) {m : Move}

theorem State.moveFinished_of_plot {y : Plot} (h : s.doMove n m = s.setPlot n y) : s.moveFinished n m = s.setPlot n (y.moveEnded m) := by
  rw [State.moveFinished, h, State.plot_setPlot, State.setPlot_setPlot]

/-- A move into a tile. -/
theorem State.moveFinished_toTile (ht : m.tile = true) (hr : m.toRemote = true) : let x := s.plot n; let t := m.addr % 16
    s.moveFinished n m = s.setPlot n ((x.setTile t { x.tile t with
      data := setElems (x.tile t).data (m.addr / 16 % 4096) (wordsOf (x.scratchBytes m.runnel m.off m.len) (m.len / 4)) }).moveEnded m) := by
  refine s.moveFinished_of_plot n ?_
  simp only [State.doMove, ht, hr, if_true]

/-- A move out of a tile. -/
theorem State.moveFinished_fromTile (ht : m.tile = true) (hr : m.toRemote = false) : let x := s.plot n; let t := m.addr % 16
    s.moveFinished n m = s.setPlot n ((x.scratchWrite m.runnel m.off (((List.range (m.len / 4)).map fun k =>
      leBytes 4 ((x.tile t).data.getD (m.addr / 16 % 4096 + k) 0).toNat).flatten)).moveEnded m) := by
  refine s.moveFinished_of_plot n ?_
  simp only [State.doMove, ht, hr, if_true, Bool.false_eq_true, if_false]

/-- A move out of memory. -/
theorem State.moveFinished_fromMemory (ht : m.tile = false) (hr : m.toRemote = false) : s.moveFinished n m = s.setPlot n
    (((s.plot n).scratchWrite m.runnel m.off (s.masBytes m.addr m.len)).moveEnded m) := by
  refine s.moveFinished_of_plot n ?_
  simp only [State.doMove, ht, hr, Bool.false_eq_true, if_false]

/-- A move into memory. -/
theorem State.moveFinished_toMemory (ht : m.tile = false) (hr : m.toRemote = true) :
    let u := s.masWrite (some (s.plot n).part) m.addr ((s.plot n).scratchBytes m.runnel m.off m.len)
    s.moveFinished n m = u.setPlot n ((u.plot n).moveEnded m) := by
  simp only [State.moveFinished, State.doMove, ht, hr, Bool.false_eq_true, if_false, if_true]

end

/-- What the end of a move between a tile and the scratchpad leaves, from a state whose plots are those of the state before. -/
theorem moveFinished_tile_leaves {s s' : State} (n : Nat) {m : Move} (hp : s'.plot n = s.plot n) (ht : m.tile = true) :
    let x := s.plot n; let t := m.addr % 16; let i := m.addr / 16 % 4096; let u := s'.moveFinished n m
    u = { s' with plots := u.plots } ∧ (u.plot n).moves = x.moves.erase m ∧ ((u.plot n).tile t).held = (x.tile t).held - 1 ∧
    (m.toRemote = true → ((u.plot n).tile t).data = setElems (x.tile t).data i (wordsOf (x.scratchBytes m.runnel m.off m.len) (m.len / 4))) ∧
    (m.toRemote = false → ((u.plot n).tile t).data = (x.tile t).data ∧
      (u.plot n).scratchBytes m.runnel m.off (4 * (m.len / 4))
        = ((List.range (m.len / 4)).map fun k => leBytes 4 ((x.tile t).data.getD (i + k) 0).toNat).flatten) := by
  intro x t i u
  cases hr : m.toRemote with
  | true =>
    have hu := s'.moveFinished_toTile n ht hr
    dsimp only at hu
    rw [hp] at hu
    have hplot : u.plot n = _ := (congrArg (State.plot · n) hu).trans (State.plot_setPlot _ _ _)
    refine ⟨?frame, ?moves, ?held, fun _ => ?data, nofun⟩
    case frame => rw [show u = _ from hu]; rfl
    case moves => rw [hplot, (Plot.moveEnded_leaves _ _).1]; rfl
    case held => rw [hplot, Plot.moveEnded_tile _ ht, Plot.tile_setTile]
    case data => rw [hplot, Plot.moveEnded_tile _ ht, Plot.tile_setTile]
  | false =>
    have hu := s'.moveFinished_fromTile n ht hr
    dsimp only at hu
    rw [hp] at hu
    have hplot : u.plot n = _ := (congrArg (State.plot · n) hu).trans (State.plot_setPlot _ _ _)
    refine ⟨?frame, ?moves, ?held, nofun, fun _ => ⟨?data, ?bytes⟩⟩
    case frame => rw [show u = _ from hu]; rfl
    case moves => rw [hplot, (Plot.moveEnded_leaves _ _).1]; rfl
    case held => rw [hplot, Plot.moveEnded_tile _ ht]; rfl
    case data => rw [hplot, Plot.moveEnded_tile _ ht]; rfl
    case bytes =>
      rw [hplot, Plot.moveEnded_scratchBytes, ← leWords_length (fun k => ((x.tile t).data.getD (i + k) 0).toNat)]
      exact Plot.scratchBytes_scratchWrite _ _ _ _

/-- What the end of a move between memory and the scratchpad leaves, from a state that keeps the tiles and moves of the state before. -/
theorem moveFinished_memory_leaves {s s' : State} (n : Nat) {m : Move} (hk : ∃ r k, s'.plot n = { s.plot n with resident := r, satCount := k })
    (hh : s'.host = s.host) (ht : m.tile = false) : let x := s.plot n; let u := s'.moveFinished n m
    (u.plot n).moves = x.moves.erase m ∧ u.host = s.host ∧ (∀ k, (u.plot n).tile k = x.tile k) ∧
    (m.toRemote = true → u.mem = (s'.masWrite (some x.part) m.addr (x.scratchBytes m.runnel m.off m.len)).mem) ∧
    (m.toRemote = false → u.mem = s'.mem ∧ (u.plot n).scratchBytes m.runnel m.off m.len = s'.masBytes m.addr m.len) := by
  intro x u
  obtain ⟨res, k, hplot'⟩ := hk
  cases hr : m.toRemote with
  | true =>
    have hu : u = _ := s'.moveFinished_toMemory n ht hr
    have hpart : (s'.plot n).part = x.part := by rw [hplot']
    have hbytes : (s'.plot n).scratchBytes m.runnel m.off m.len = x.scratchBytes m.runnel m.off m.len := by rw [hplot']; rfl
    have hw := storeKeeps_masWrite n s' (some x.part) m.addr (x.scratchBytes m.runnel m.off m.len)
    obtain ⟨res', k', hplot⟩ := hw.plot
    rw [hpart, hbytes, hplot, hplot'] at hu
    rw [hu]
    refine ⟨?_, hw.host.trans hh, fun j => ?_, fun _ => rfl, nofun⟩
    · rw [State.plot_setPlot, (Plot.moveEnded_leaves _ _).1]
    · rw [State.plot_setPlot, Plot.moveEnded_memory _ ht]; rfl
  | false =>
    have hu : u = _ := s'.moveFinished_fromMemory n ht hr
    rw [hplot'] at hu
    rw [hu]
    refine ⟨?_, hh, fun j => ?_, nofun, fun _ => ⟨rfl, ?_⟩⟩
    · rw [State.plot_setPlot, (Plot.moveEnded_leaves _ _).1]; rfl
    · rw [State.plot_setPlot, Plot.moveEnded_memory _ ht]; rfl
    · rw [State.plot_setPlot, Plot.moveEnded_scratchBytes]
      have hlen := s'.masBytes_length m.addr m.len
      have hread := Plot.scratchBytes_scratchWrite { s.plot n with resident := res, satCount := k } m.runnel m.off (s'.masBytes m.addr m.len)
      rwa [hlen] at hread

/-- Settles O53: each instruction by its row at the runnel, the end of a move by what its read and its write leave. -/
theorem runnelControlInstructions : Obligations.RunnelControlInstructions := by
  unfold Obligations.RunnelControlInstructions
  refine ⟨fun s p r rd rs1 rs2 imm => ⟨fun h hm => ⟨fun hd => ?own, fun hd hl => ?other⟩, fun h => ?twait, fun h => ?rds, fun h => ?wrs,
    fun m h hq ha hfit hp => ⟨fun ht hst hheld hfence => ?moveTile, fun ht hacc => ?moveMemory⟩, fun h => exec_pcMwait h, fun h => exec_pcEnd h⟩,
    fun s p r m ecc hr hx hq hm => ⟨fun ht he => ?failed, fun ht he => ?tile, fun ht hacc hch hc hg => ?memory⟩⟩
  case own =>
    rw [exec_pcTsig h hm]
    dsimp only at hd ⊢
    rw [hd, State.sendToken_past_own]
  case other =>
    rw [exec_pcTsig h hm]
    dsimp only at hd ⊢
    rw [State.sendToken_past_other _ _ _ _ hd hl]
    rfl
  case twait =>
    rw [exec_pcTwait h]
    simp only [State.past, Runnel.setReg_pc]
  case rds =>
    obtain ⟨hread, htrap⟩ := exec_pcRds h
    cases hc : (s.plot p.toNat).control r.toNat (((s.plot p.toNat).runnel r.toNat).reg rs1.toNat + imm.signExtend 32).toNat with
    | some w =>
      rw [hread w hc]
      simp only [State.past, Runnel.setReg_pc]
    | none => exact htrap hc
  case wrs => exact exec_pcWrs h
  case moveTile => exact exec_pcMove_tile h hq ha hfit hp ht hst hheld hfence
  case moveMemory => exact exec_pcMove_memory h hq ha hfit hp ht hacc
  case failed =>
    rw [exec_moveComplete_tile ecc hr hx hq hm ht, State.moveRead, if_pos he]
  case tile =>
    have hexec := exec_moveComplete_tile ecc hr hx hq hm ht
    rw [s.moveRead_tile p.toNat ecc ht he] at hexec
    have hrun : m.runnel = r.toNat := by simpa using List.find?_some hm
    by_cases hcor : ecc = .corrected
    · rw [if_pos hcor] at hexec
      dsimp only at hexec
      obtain ⟨hframe, hmoves, hheld, hto, hfrom⟩ := moveFinished_tile_leaves (s := s) (s' := s.bump ctrPlotCorrected p.toNat) p.toNat
        (congrArg (sget ({} : Plot) · p.toNat) (s.bump_plots _ _ _)) ht
      rw [hrun] at hto hfrom
      refine ⟨_, hexec, hmoves, hheld, fun hc => ?_, ?_, ?_, ?_, hto, hfrom⟩
      · rw [hcor] at hc; exact absurd hc (by decide)
      · rw [if_pos hcor, ← State.count_bump, hframe]; rfl
      · rw [hframe]; exact s.bump_mem _ _ _
      · rw [hframe]; exact s.bump_host _ _ _
    · rw [if_neg hcor] at hexec
      dsimp only at hexec
      obtain ⟨hframe, hmoves, hheld, hto, hfrom⟩ := moveFinished_tile_leaves (s := s) (s' := s) p.toNat rfl ht
      rw [hrun] at hto hfrom
      refine ⟨_, hexec, hmoves, hheld, fun _ => hframe, ?_, ?_, ?_, hto, hfrom⟩
      · rw [if_neg hcor, satAdd_count_zero, hframe]; rfl
      · rw [hframe]
      · rw [hframe]
  case memory =>
    have hexec := exec_moveComplete_memory ecc hr hx hq hm ht hacc hch hc hg
    have hrun : m.runnel = r.toNat := by simpa using List.find?_some hm
    have hcross := storeKeeps_cross p.toNat s (.plot p.toNat) (s.masStation m.addr) hc
    obtain ⟨hplots, hhost⟩ := (s.cross (.plot p.toNat) (s.masStation m.addr)).1.moveRead_keeps p.toNat (m := m) ecc
    obtain ⟨res, k, hplot⟩ := hcross.plot
    have hgot := moveFinished_memory_leaves (s := s) p.toNat
      ⟨res, k, (congrArg (sget ({} : Plot) · p.toNat) hplots).trans hplot⟩ (hhost.trans hcross.host) ht
    rw [hrun] at hgot
    exact ⟨_, hexec, hgot⟩

end Sys2Proof.Machine
end

section
/-! SUPPORT. What the rows of a furrow word and the requests of the SFU cluster read of the state: counts, and changes of a plot that keep its
partition, leave it (R213, R219, R225, R250). -/

namespace Sys2Proof.Machine

/-- Two states in which the rows of a plot's words, and its special functions, read the same memory, tables and registers. -/
structure ReadsAlike (p : Nat) (s t : State) : Prop where
  mem : t.mem = s.mem
  rot : t.rot = s.rot
  ctx : t.ctx = s.ctx
  pools : t.pools = s.pools
  aqf : t.aqf = s.aqf
  sfu : t.sfu = s.sfu
  rd : ∀ f n, regOff f.reg n ≠ regOff .evtStatus 0 → t.rd f n = s.rd f n
  part : (t.plot p).part = (s.plot p).part

/-- Registers of arrays stand behind EVT_STATUS. -/
theorem regOff_ne_evtStatus {k : RegKind} (hk : k ∈ ([.mapEntry, .pgPoolBase, .pgPoolCtl, .sfuPlotCtl, .sfuPartCtl] : List RegKind)) (n : Nat) :
    regOff k n ≠ regOff .evtStatus 0 := by
  simp only [List.mem_cons, List.not_mem_nil, or_false] at hk
  rw [show regOff .evtStatus 0 = 0x268 from rfl]
  rcases hk with rfl | rfl | rfl | rfl | rfl <;> simp [regOff, RegKind.place] <;> omega

section
variable {p : Nat} {s t u : State}

theorem ReadsAlike.refl (p : Nat) (s : State) : ReadsAlike p s s := ⟨rfl, rfl, rfl, rfl, rfl, rfl, fun _ _ _ => rfl, rfl⟩

theorem ReadsAlike.trans (h : ReadsAlike p s t) (g : ReadsAlike p t u) : ReadsAlike p s u :=
  ⟨g.mem.trans h.mem, g.rot.trans h.rot, g.ctx.trans h.ctx, g.pools.trans h.pools, g.aqf.trans h.aqf, g.sfu.trans h.sfu,
    fun f n hn => (g.rd f n hn).trans (h.rd f n hn), g.part.trans h.part⟩

theorem State.plot_bump_eq (s : State) (c : Ctr) (n k q : Nat) : (s.bump c n k).plot q = s.plot q := by
  unfold State.plot
  rw [State.bump_plots]

theorem readsAlike_bump (p : Nat) (s : State) (c : Ctr) (n k : Nat) : ReadsAlike p s (s.bump c n k) :=
  ⟨s.bump_mem _ _ _, s.bump_rot _ _ _, s.bump_ctx _ _ _, s.bump_pools _ _ _, s.bump_aqf _ _ _, s.bump_sfu _ _ _,
    fun f m hm => s.rd_bump c n k f m hm, by rw [State.plot_bump_eq]⟩

theorem readsAlike_setPlot (s : State) {x : Plot} (h : x.part = (s.plot p).part) : ReadsAlike p s (s.setPlot p x) :=
  ⟨rfl, rfl, rfl, rfl, rfl, rfl, fun _ _ _ => rfl, by rw [State.plot_setPlot, h]⟩

/-! ### The vector of a row word (R219, R225) -/

section
variable (h : ReadsAlike p s t)
include h

theorem ReadsAlike.imgOf : t.imgOf (t.plot p) = s.imgOf (s.plot p) := by
  unfold State.imgOf State.part
  rw [h.part, h.rot]

theorem ReadsAlike.plotGeom : t.plotGeom (t.plot p) = s.plotGeom (s.plot p) := by
  unfold State.plotGeom State.model?
  rw [h.imgOf, h.ctx]

theorem ReadsAlike.refRows (d : TileDesc) (r : TileRef) : t.refRows (t.plot p) d r = s.refRows (s.plot p) d r := by
  unfold State.refRows
  rw [h.plotGeom]

theorem ReadsAlike.rowAddr (d : TileDesc) (r : TileRef) (i : Nat) : t.rowAddr (t.plot p) d r i = s.rowAddr (s.plot p) d r i := by
  unfold State.rowAddr State.pool State.pageBytes
  rw [h.plotGeom, h.part, h.pools, h.rd PG_POOL_BASE_ADDR _ (regOff_ne_evtStatus (by simp [PG_POOL_BASE_ADDR]) _),
    h.rd PG_POOL_CTL_PAGE_4K _ (regOff_ne_evtStatus (by simp [PG_POOL_CTL_PAGE_4K]) _)]

theorem ReadsAlike.physOf (l : Nat) : t.physOf l = s.physOf l := by
  unfold State.physOf
  rw [h.rd MAP_ENTRY_PX _ (regOff_ne_evtStatus (by simp [MAP_ENTRY_PX]) _), h.rd MAP_ENTRY_PY _ (regOff_ne_evtStatus (by simp [MAP_ENTRY_PY]) _)]

theorem ReadsAlike.masRow (a : Nat) : t.masRow a = s.masRow a := by
  unfold State.masRow State.cisEnd State.columnBytes State.flag
  rw [h.rd CIS_MAP_RETIRED 0 (by decide), h.rd RES_TIER_CTL_SEVEN 0 (by decide)]

theorem ReadsAlike.wcReady (a : Nat) : t.wcReady a = s.wcReady a := by
  unfold State.wcReady State.wcFind State.wcUnit
  rw [h.aqf]

theorem ReadsAlike.aqBytes (k a n : Nat) : t.aqBytes a n k = s.aqBytes a n k := by
  induction k generalizing a n with
  | zero => rfl
  | succ k ih =>
    simp only [State.aqBytes, h.wcReady, ih, State.cisBytes_of_mem h.mem, State.wcAddr, h.rd WC_CTL_BASE_1G 0 (by decide)]

theorem ReadsAlike.masBytes (a n : Nat) : t.masBytes a n = s.masBytes a n := by
  unfold State.masBytes
  rw [h.masRow, h.physOf, h.aqBytes, State.resvBytes_of_mem h.mem, State.cisBytes_of_mem h.mem]

theorem ReadsAlike.srcBytes (d : TileDesc) (a n : Nat) : t.srcBytes p d a n = s.srcBytes p d a n := by
  unfold State.srcBytes State.colPlot
  rw [h.masBytes, h.physOf, State.resvBytes_of_mem h.mem, State.cisBytes_of_mem h.mem]

theorem ReadsAlike.rowValues (d : TileDesc) (r : TileRef) (vc i : Nat) : t.rowValues p d r vc i = s.rowValues p d r vc i := by
  unfold State.rowValues State.rowCodes State.rowScale
  simp only [h.srcBytes, h.rowAddr]

theorem ReadsAlike.vecRow (r : TileRef) (i : Nat) : t.vecRow p r i = s.vecRow p r i := by
  unfold State.vecRow
  simp only [h.imgOf, h.refRows, h.rowValues]

/-! ### Special functions (R248 to R257) -/

theorem ReadsAlike.sfuPath (code : Nat) : t.sfuPath p code = s.sfuPath p code := by
  unfold State.sfuPath State.flag
  rw [h.part, h.sfu, h.rd SFU_PART_CTL_COMPAT_ACTIVE _ (regOff_ne_evtStatus (by simp [SFU_PART_CTL_COMPAT_ACTIVE]) _)]

theorem ReadsAlike.sfuTable (unit : Nat) : t.sfuTable p unit = s.sfuTable p unit := by
  unfold State.sfuTable State.sfuBank
  rw [h.sfu, h.rd SFU_PLOT_CTL_BANK _ (regOff_ne_evtStatus (by simp [SFU_PLOT_CTL_BANK]) _)]

theorem ReadsAlike.sfuHwAt : t.sfuHwAt p = s.sfuHwAt p := by
  funext code w
  unfold State.sfuHwAt
  rw [h.sfuPath, h.sfuTable]

theorem ReadsAlike.microEnv : t.microEnv p = s.microEnv p := by
  unfold State.microEnv
  rw [h.sfuTable, h.sfuHwAt]

theorem ReadsAlike.sfuEval : t.sfuEval p = s.sfuEval p := by
  funext code w
  unfold State.sfuEval
  rw [h.sfuHwAt, h.microEnv]

theorem ReadsAlike.sfuLaneList : t.sfuLaneList p = s.sfuLaneList p := by
  unfold State.sfuLaneList
  rw [h.rd SFU_PLOT_CTL_LANES_ACTIVE _ (regOff_ne_evtStatus (by simp [SFU_PLOT_CTL_LANES_ACTIVE]) _)]

end

/-- A row reads the same where its tiles' extents, the tiles' elements of the row, and its bank row are the same. -/
theorem ReadsAlike.rowIn (h : ReadsAlike p s t) {r : Nat} (hrow : ∀ k, ((t.plot p).tile k).row r = ((s.plot p).tile k).row r)
    (hrows : ∀ k, ((t.plot p).tile k).rows = ((s.plot p).tile k).rows) (hcols : ∀ k, ((t.plot p).tile k).cols = ((s.plot p).tile k).cols)
    (hbank : ∀ b, (t.plot p).bankRow b r = (s.plot p).bankRow b r) (op fop : Nat) (w : FurrowWord) (d : TileRef) (reset : Bool) :
    t.rowIn p op fop w d reset r = s.rowIn p op fop w d reset r := by
  unfold State.rowIn
  simp only [hrow, hrows, hcols, hbank, h.vecRow, h.sfuEval]

end

/-! ### A row committed (R216, R218) -/

/-- The plot of a committed row: DST, the e tile and the bank row. -/
def Plot.rowCommitted (x : Plot) (w : FurrowWord) (r : Nat) (o : RowOut) : Plot :=
  let d := w.dst.toNat
  let x1 := match o.dst with
    | some l => x.setTile d { x.tile d with data := setRow (x.tile d).data r l }
    | none => x
  let x2 := match o.err with
    | some l => x1.setTile (d + 4) { x1.tile (d + 4) with data := setRow (x1.tile (d + 4)).data r l }
    | none => x1
  match o.bank with
    | some b => x2.setBankRow w.src2.toNat r b
    | none => x2

/-- The counts of a committed row. -/
def State.rowCounted (s : State) (p : Nat) (o : RowOut) : State :=
  let s1 := s.bump ctrRows p
  let s2 := if o.empty then s1.bump ctrEmptyRows p else s1
  if o.nan then s2.bump ctrNanRows p else s2

theorem State.commitRow_eq (s : State) (p : Nat) (w : FurrowWord) (r : Nat) (o : RowOut) :
    s.commitRow p w r o = (s.setPlot p ((s.plot p).rowCommitted w r o)).rowCounted p o := rfl

end Sys2Proof.Machine
end

section
/-! SUPPORT. Runnel arithmetic and a runnel's grant of the SFU cluster (R175, R177, R248, R250). -/

namespace Sys2Proof.Machine

/-! ### Registers and words of a runnel (R177) -/

theorem Runnel.reg_setReg (v : Runnel) (i j : Nat) (w : Word) : (v.setReg i w).reg j = if j = i ∧ i ≠ 0 then w else v.reg j := by
  unfold Runnel.setReg Runnel.reg
  by_cases hi : i = 0
  · simp [hi]
  · by_cases hj : j = i
    · subst hj
      simp [hi, sget_sput_same]
    · simp [hi, hj, sget_sput_other]

/-! ### Rows of custom-1 (R177) -/

section
variable {s : State} {p : PPlot} {r : BitVec 7} {rd rs1 rs2 : BitVec 5}

theorem AtCustom.exec_arith {i : Instr} {f3 f7 : Nat} {f : Word → Word → Word → Word}
    (h : AtCustom s p r (rForm 0x2B f3 f7 rd.toNat rs1.toNat rs2.toNat)) (hi : exec i s = s.arithRow p r f3 f7 rd rs1 rs2 f) :
    let x := s.plot p.toNat; let v := x.runnel r.toNat
    exec i s = .next (s.setPlot p.toNat (x.setRunnel r.toNat
      { v.setReg rd.toNat (f (v.reg rs1.toNat) (v.reg rs2.toNat) (v.reg rd.toNat)) with pc := v.pc + 4 })) := by
  rw [hi, State.arithRow, h.runnelRow (decide_eq_true rfl)]
  simp only [State.past, Runnel.setReg_pc]

/-- A word of the R form with a small function field spells its rs2 field. -/
theorem rForm_wbits {f3 f7 : Nat} (h3 : f3 < 8) :
    rForm 0x2B f3 f7 rd.toNat rs1.toNat (wbits (rForm 0x2B f3 f7 rd.toNat rs1.toNat rs2.toNat) 20 5) = rForm 0x2B f3 f7 rd.toNat rs1.toNat rs2.toNat := by
  have h2 : wbits (rForm 0x2B f3 f7 rd.toNat rs1.toNat rs2.toNat) 20 5 = rs2.toNat := by
    have hd := rd.isLt
    have h1 := rs1.isLt
    have h2 := rs2.isLt
    unfold wbits rForm
    omega
  rw [h2]

theorem AtCustom.exec_unary {i : Instr} {f7 : Nat} {f : Word → Word}
    (h : AtCustom s p r (rForm 0x2B 0 f7 rd.toNat rs1.toNat rs2.toNat)) (hi : exec i s = s.unaryRow p r f7 rd rs1 f) :
    let x := s.plot p.toNat; let v := x.runnel r.toNat
    exec i s = .next (s.setPlot p.toNat (x.setRunnel r.toNat
      { v.setReg rd.toNat (f (v.reg rs1.toNat)) with pc := v.pc + 4 })) := by
  rw [hi, State.unaryRow, h.runnelRow (decide_eq_true (rForm_wbits (by decide)))]
  simp only [State.past, Runnel.setReg_pc]

theorem exec_sfu {code : BitVec 7} (h : AtCustom s p r (rForm 0x2B 2 code.toNat rd.toNat rs1.toNat rs2.toNat))
    (hc : s.sfuInvalid p.toNat code.toNat = false) : let x := s.plot p.toNat
    exec (.sfu p r code rd rs1) s = .next (s.setPlot p.toNat { x with sfuQ :=
      x.sfuQ ++ [⟨r.toNat, BitVec.ofNat 4 code.toNat, rd, (x.runnel r.toNat).reg rs1.toNat⟩] }) := by
  show execSfu p r code rd rs1 s = _
  rw [execSfu, h.runnelRow (decide_eq_true (rForm_wbits (by decide)))]
  exact congrArg _ (if_neg (by rw [hc]; exact Bool.false_ne_true))

end

/-! ### A grant for one runnel (R248) -/

theorem State.seepQuiet_congr {s t : State} (ha : t.armed = s.armed) (hi : t.inject = s.inject) (k : SeepKind) (i : Nat) :
    t.seepQuiet k i = s.seepQuiet k i := by
  unfold State.seepQuiet State.seepArmed State.armedWord
  rw [ha, hi]

/-- The group of one waiting request. -/
theorem sfuGroup_one {q : SfuReq} (last : Nat) {n : Nat} (hq : q.runnel < 80) (hn : 0 < n) : sfuGroup [q] last n = [q] := by
  have hfind : ∀ r, ([q].find? fun x => x.runnel = r) = if r = q.runnel then some q else none := fun r => by
    by_cases hr : r = q.runnel
    · simp [hr]
    · simp [hr, Ne.symm hr]
  have hone : ∀ l : List Nat, (∀ k ∈ l, k < 80) → l.Nodup → (l.filterMap fun k => if (last + 1 + k) % 80 = q.runnel then some q else none) =
      if (∃ k ∈ l, (last + 1 + k) % 80 = q.runnel) then [q] else [] := fun l hl hnd => by
    induction l with
    | nil => simp
    | cons k l ih =>
      obtain ⟨hk, htail⟩ := List.nodup_cons.1 hnd
      have ih := ih (fun j hj => hl j (List.mem_cons_of_mem _ hj)) htail
      by_cases he : (last + 1 + k) % 80 = q.runnel
      · have hnone : ¬∃ j ∈ l, (last + 1 + j) % 80 = q.runnel := fun ⟨j, hj, hje⟩ => by
          have hj80 := hl j (List.mem_cons_of_mem _ hj)
          have hk80 := hl k List.mem_cons_self
          obtain rfl : j = k := by omega
          exact hk hj
        rw [List.filterMap_cons_some (b := q) (by simp [he]), ih, if_neg hnone, if_pos ⟨k, List.mem_cons_self, he⟩]
      · rw [List.filterMap_cons_none (by simp [he]), ih]
        simp [he]
  have hex : ∃ k ∈ List.range 80, (last + 1 + k) % 80 = q.runnel :=
    ⟨(q.runnel + 80 - (last + 1) % 80) % 80, List.mem_range.2 (by omega), by omega⟩
  unfold sfuGroup
  dsimp only
  rw [List.filterMap_map]
  have := hone (List.range 80) (fun k hk => List.mem_range.1 hk) List.nodup_range
  rw [if_pos hex] at this
  simp only [Function.comp_def, hfind, this]
  exact List.take_of_length_le hn

/-- Where no seep acts on the cluster, a grant passes its checks. -/
theorem State.sfuCheck_quiet {s : State} {p : Nat} (h : s.seepQuiet .sfu p = true) (qs : List SfuAsk) (furrow : Bool) (steps : Nat → Nat) :
    s.sfuCheck p qs furrow steps = (s, none) := by
  unfold State.sfuCheck State.sfuHit
  simp only [s.seepEvents_quiet _ _ h, Option.map_none]

/-- A request served: the runnel that a grant served last stands, and a hardware function gives its value or a micro-program begins. -/
def State.served (s : State) (p : Nat) (q : SfuReq) (lane : Nat) : State :=
  let s1 := s.setPlot p { s.plot p with sfuLast := q.runnel }
  if 10 ≤ q.code.toNat then s1.setPlot p ((s1.plot p).beginMicro lane (q.code.toNat - 10) q.arg (.runnel q.runnel q.rd))
  else (s1.sfuDone p [q.code.toNat]).sfuGive p q.runnel q.rd (s1.sfuEval p q.code.toNat q.arg)

/-- A grant to runnels as it starts: counted, and the next one the furrow's. -/
def State.grantStarted (s : State) (p : Nat) (cost : Nat) : State :=
  ((s.bump ctrGrantsRunnel p).bump ctrSfuSteps p cost).setPlot p { s.plot p with sfuTurn := false }

section
variable (s : State) (p cost : Nat)

theorem State.readsAlike_grantStarted : ReadsAlike p s (s.grantStarted p cost) := by
  refine ((readsAlike_bump p s _ _ _).trans (readsAlike_bump p _ _ _ _)).trans (readsAlike_setPlot _ ?_)
  rw [State.plot_bump_eq, State.plot_bump_eq]

theorem State.grantStarted_leaves : (s.grantStarted p cost).count ctrGrantsRunnel p = satAdd (s.count ctrGrantsRunnel p) 1 ∧
    (s.grantStarted p cost).host = s.host ∧ ∀ k i, (s.grantStarted p cost).seepQuiet k i = s.seepQuiet k i := by
  have happ : ctrGrantsRunnel.off p ≠ ctrSfuSteps.off p := by
    simp [Ctr.off, Ctr.block, ctrGrantsRunnel, ctrSfuSteps]
  refine ⟨(State.count_bump_other _ _ happ).trans (State.count_bump _ _ _ _), (State.bump_host _ _ _ _).trans (State.bump_host _ _ _ _),
    fun k i => State.seepQuiet_congr ?_ ?_ k i⟩
  · exact (State.bump_armed _ _ _ _).trans (State.bump_armed _ _ _ _)
  · exact (State.bump_inject _ _ _ _).trans (State.bump_inject _ _ _ _)

end

theorem State.runnelGrant_one {s : State} {p : Nat} {q : SfuReq} (hq : (s.plot p).sfuQ = [q]) (hr : q.runnel < 80) (hn : 0 < s.sfuLanes p)
    (hs : s.seepQuiet .sfu p = true) :
    s.runnelGrant p = (s.grantStarted p (s.sfuCost p q.code.toNat)).served p q ((s.sfuLaneList p).getD 0 0) := by
  have hquiet : (s.grantStarted p (s.sfuCost p q.code.toNat)).seepQuiet .sfu p = true := ((s.grantStarted_leaves p _).2.2 _ _).trans hs
  have hcost : ((s.bump ctrGrantsRunnel p).bump ctrSfuSteps p (s.sfuCost p q.code.toNat)).setPlot p
      { ((s.bump ctrGrantsRunnel p).bump ctrSfuSteps p (s.sfuCost p q.code.toNat)).plot p with sfuTurn := false } =
      s.grantStarted p (s.sfuCost p q.code.toNat) := by
    rw [State.plot_bump_eq, State.plot_bump_eq]
    rfl
  have hlargest : List.foldl max 0 (List.map (fun q : SfuReq => s.sfuCost p q.code.toNat) [q]) = s.sfuCost p q.code.toNat := Nat.zero_max _
  unfold State.runnelGrant
  dsimp only
  rw [hq, sfuGroup_one _ hr hn]
  rw [hlargest, hcost, State.sfuCheck_quiet hquiet]
  dsimp only
  rw [(s.readsAlike_grantStarted p _).sfuLaneList]
  unfold State.sfuLanes at hn
  obtain ⟨lane, rest, hl⟩ := List.exists_cons_of_length_pos hn
  rw [hl]
  rfl

/-- What a grant for one runnel leaves: a hardware function's value in rd, or a micro-program on the lane. -/
theorem State.served_leaves {s t : State} {p : Nat} {q : SfuReq} {lane : Nat} (ht : ReadsAlike p s t)
    (hp : t.plot p = { s.plot p with sfuTurn := false }) (hq : (s.plot p).sfuQ = [q]) : let x := s.plot p; let v := x.runnel q.runnel
    let u := t.served p q lane
    (q.code.toNat < 10 → (u.plot p).sfuQ = [] ∧
      (u.plot p).runnel q.runnel = { v.setReg q.rd.toNat (s.sfuEval p q.code.toNat q.arg) with pc := v.pc + 4 }) ∧
    (10 ≤ q.code.toNat → (u.plot p).sfuQ = [q] ∧ (u.plot p).runnel q.runnel = v ∧
      sget ({} : MicroLane) (u.plot p).micro lane = ⟨microSet [] 0 q.arg, q.code.toNat - 10, 0, some (.runnel q.runnel q.rd)⟩) ∧
    (∀ k, k ≠ q.runnel → (u.plot p).runnel k = x.runnel k) ∧
    u.count ctrGrantsRunnel p = t.count ctrGrantsRunnel p ∧ u.mem = t.mem ∧ u.host = t.host := by
  intro x v u
  set s1 := t.setPlot p { t.plot p with sfuLast := q.runnel } with hs1
  have hplot1 : s1.plot p = { s.plot p with sfuTurn := false, sfuLast := q.runnel } := by rw [hs1, State.plot_setPlot, hp]
  by_cases hc : 10 ≤ q.code.toNat
  · have hu : u = s1.setPlot p ((s1.plot p).beginMicro lane (q.code.toNat - 10) q.arg (.runnel q.runnel q.rd)) := if_pos hc
    have huplot : u.plot p = (s1.plot p).beginMicro lane (q.code.toNat - 10) q.arg (.runnel q.runnel q.rd) := by rw [hu, State.plot_setPlot]
    rw [hplot1] at huplot
    refine ⟨fun h => absurd hc (by omega), fun _ => ⟨?_, ?_, ?_⟩, fun k _ => ?_, ?_, ?_, ?_⟩
    · rw [huplot]; exact hq
    · rw [huplot]; rfl
    · simp only [huplot, Plot.beginMicro, sget_sput_same]
    · rw [huplot]; rfl
    all_goals rw [hu]; rfl
  · set s2 := s1.sfuDone p [q.code.toNat] with hs2
    have hu : u = s2.sfuGive p q.runnel q.rd (s1.sfuEval p q.code.toNat q.arg) := if_neg hc
    have hplot2 : s2.plot p = s1.plot p := (State.plot_bump_eq _ _ _ _ _).trans (State.plot_bump_eq _ _ _ _ _)
    have heval : s1.sfuEval p = s.sfuEval p := (ht.trans (readsAlike_setPlot t (x := { t.plot p with sfuLast := q.runnel }) rfl)).sfuEval
    have huplot : u.plot p = ({ s2.plot p with sfuQ := (s2.plot p).sfuQ.filter fun y => y.runnel ≠ q.runnel }.setRunnel q.runnel
        { v.setReg q.rd.toNat (s.sfuEval p q.code.toNat q.arg) with pc := v.pc + 4 }) := by
      have hv : (s2.plot p).runnel q.runnel = v := by rw [hplot2, hplot1]; rfl
      rw [hu, heval, State.sfuGive, State.past_setPlot, State.plot_setPlot, hv, Runnel.setReg_pc]
    rw [hplot2, hplot1] at huplot
    have happ : ctrGrantsRunnel.off p ≠ ctrEvals.off p ∧ ctrGrantsRunnel.off p ≠ ctrFallbackEvals.off p := by
      simp [Ctr.off, Ctr.block, ctrGrantsRunnel, ctrEvals, ctrFallbackEvals]
    refine ⟨fun _ => ⟨?_, ?_⟩, fun h => absurd h hc, fun k hk => ?_, ?_, ?_, ?_⟩
    · rw [huplot]
      show (s.plot p).sfuQ.filter _ = []
      rw [hq]
      simp
    · rw [huplot]; exact sget_sput_same _ _ _ _
    · rw [huplot]; exact sget_sput_other _ _ _ _ hk
    all_goals rw [hu, State.sfuGive, State.past_setPlot]
    · exact (State.count_bump_other _ _ happ.2).trans (State.count_bump_other _ _ happ.1)
    · exact (State.bump_mem _ _ _ _).trans (State.bump_mem _ _ _ _)
    · exact (State.bump_host _ _ _ _).trans (State.bump_host _ _ _ _)

/-- SFU_GRANT where a runnel's request waits alone. -/
theorem exec_sfuGrant_one {s : State} {p : PPlot} {q : SfuReq} (hr : s.runs = true) (hb : (s.plot p.toNat).microBusy = false)
    (hf : (s.plot p.toNat).fuRun = none ∨ (s.plot p.toNat).sfuTurn = true) (hq : (s.plot p.toNat).sfuQ = [q]) :
    exec (.sfuGrant p) s = .next (s.runnelGrant p.toNat) := by
  show execSfuGrant p s = _
  rw [execSfuGrant, State.issue_runs _ _ hr]
  dsimp only
  rw [hb, hq]
  rcases hf with hf | hf
  · rw [hf]; rfl
  · rw [hf]
    cases (s.plot p.toNat).fuRun <;> rfl

theorem sfuGrant_serves {s : State} {p : PPlot} {q : SfuReq} (hr : s.runs = true) (hb : (s.plot p.toNat).microBusy = false)
    (hf : (s.plot p.toNat).fuRun = none ∨ (s.plot p.toNat).sfuTurn = true) (hq : (s.plot p.toNat).sfuQ = [q]) (hrun : q.runnel < 80)
    (hn : 0 < s.sfuLanes p.toNat) (hs : s.seepQuiet .sfu p.toNat = true) : let x := s.plot p.toNat; let v := x.runnel q.runnel
    ∃ t, exec (.sfuGrant p) s = .next t ∧
      (q.code.toNat < 10 → (t.plot p.toNat).sfuQ = [] ∧
        (t.plot p.toNat).runnel q.runnel = { v.setReg q.rd.toNat (s.sfuEval p.toNat q.code.toNat q.arg) with pc := v.pc + 4 }) ∧
      (10 ≤ q.code.toNat → (t.plot p.toNat).sfuQ = [q] ∧ (t.plot p.toNat).runnel q.runnel = v ∧
        sget ({} : MicroLane) (t.plot p.toNat).micro ((s.sfuLaneList p.toNat).getD 0 0)
          = ⟨microSet [] 0 q.arg, q.code.toNat - 10, 0, some (.runnel q.runnel q.rd)⟩) ∧
      (∀ k, k ≠ q.runnel → (t.plot p.toNat).runnel k = x.runnel k) ∧
      t.count ctrGrantsRunnel p.toNat = satAdd (s.count ctrGrantsRunnel p.toNat) 1 ∧ t.mem = s.mem ∧ t.host = s.host := by
  intro x v
  have hexec := exec_sfuGrant_one hr hb hf hq
  rw [State.runnelGrant_one hq hrun hn hs] at hexec
  have halike := s.readsAlike_grantStarted p.toNat (s.sfuCost p.toNat q.code.toNat)
  obtain ⟨hgrants, hgranthost, -⟩ := s.grantStarted_leaves p.toNat (s.sfuCost p.toNat q.code.toNat)
  obtain ⟨hhw, hmicro, hothers, hcount, hmem, hhost⟩ := State.served_leaves (lane := (s.sfuLaneList p.toNat).getD 0 0) halike
    (State.plot_setPlot _ _ _) hq
  exact ⟨_, hexec, hhw, hmicro, hothers, hcount.trans hgrants, hmem.trans halike.mem, hhost.trans hgranthost⟩

end Sys2Proof.Machine
end

section
/-! SUPPORT. Micro-operations of a lane's program (R255, R256). -/

namespace Sys2Proof.Machine

theorem microReg_microSet (r : Sparse Word) (i k : BitVec 3) (v : Word) : microReg (microSet r i v) k = if k = i then v else microReg r k := by
  unfold microReg microSet
  by_cases hk : k = i
  · simp [hk]
  · have hne : k.toNat ≠ i.toNat := fun e => hk (BitVec.eq_of_toNat_eq e)
    have hlookup : (r.filter fun x => x.1 ≠ i.toNat).lookup k.toNat = r.lookup k.toNat := by
      induction r with
      | nil => rfl
      | cons x r ih =>
        by_cases hx : x.1 = i.toNat
        · have hkx : (k.toNat == x.1) = false := by rw [hx]; exact beq_eq_false_iff_ne.2 hne
          rw [List.filter_cons_of_neg (by simp [hx]), ih, List.lookup_cons, hkx]
        · rw [List.filter_cons_of_pos (by simp [hx]), List.lookup_cons, List.lookup_cons, ih]
    rw [if_neg hk, List.lookup_cons, beq_eq_false_iff_ne.2 hne, hlookup]

theorem spellsDA_iff {w op : Nat} {d a : BitVec 3} : spellsDA w op d a = true ↔ w / 2 ^ 27 = op ∧ microField w 24 = d ∧ microField w 21 = a := by
  simp [spellsDA, and_assoc]

theorem spellsDAB_iff {w op : Nat} {d a b : BitVec 3} : spellsDAB w op d a b = true ↔
    w / 2 ^ 27 = op ∧ microField w 24 = d ∧ microField w 21 = a ∧ microField w 18 = b := by
  simp [spellsDAB, spellsDA, and_assoc]

theorem spellsDABC_iff {w op : Nat} {d a b c : BitVec 3} : spellsDABC w op d a b c = true ↔
    w / 2 ^ 27 = op ∧ microField w 24 = d ∧ microField w 21 = a ∧ microField w 18 = b ∧ microField w 15 = c := by
  simp [spellsDABC, spellsDAB, spellsDA, and_assoc]

/-- The lane of a plot, and the word and registers on which its next micro-operation runs. -/
def State.microLane (s : State) (n lane : Nat) : MicroLane := sget ({} : MicroLane) (s.plot n).micro lane

/-- Registers after the micro-operation at which a lane's program stands. -/
def State.microNext (s : State) (n lane : Nat) : Sparse Word :=
  let l := s.microLane n lane
  let w := s.microWordAt n l
  microOp (s.microEnv n) l.regs (w / 2 ^ 27) (microField w 24) (microField w 21) (microField w 18) (microField w 15) (BitVec.ofNat 15 w)

/-- What a row of the micro-program table leaves: register D set as listed, the program at its next word, and a hardware function counted. -/
def MicroSets (s : State) (n lane : Nat) (d : BitVec 3) (v : Word) (imm : Nat) (t : State) : Prop :=
  (∀ k, microReg (t.microLane n lane).regs k = if k = d then v else microReg (s.microLane n lane).regs k) ∧
  t.microLane n lane = { s.microLane n lane with regs := (t.microLane n lane).regs, word := (s.microLane n lane).word + 1 } ∧
  t.mem = s.mem ∧ t.host = s.host ∧
  (s.microWordAt n (s.microLane n lane) / 2 ^ 27 ≠ 0x0E → t = { s with plots := t.plots }) ∧
  (s.microWordAt n (s.microLane n lane) / 2 ^ 27 = 0x0E → t.count ctrFallbackEvals n
    = satAdd (s.count ctrFallbackEvals n) (if s.sfuPath n (imm % 16) = 2 then 1 else 0)) ∧
  (∀ k, k ≠ n → t.plot k = s.plot k)

section
variable {s : State} {p : PPlot} {lane : BitVec 4} {spells : Nat → Bool} {d : BitVec 3} {v : Word}

/-- The state after a micro-operation, before it is counted. -/
def State.microStepped (s : State) (n lane : Nat) : State :=
  let l : MicroLane := { s.microLane n lane with regs := s.microNext n lane, word := (s.microLane n lane).word + 1 }
  s.setPlot n { s.plot n with micro := sput ({} : MicroLane) (s.plot n).micro lane l }

theorem State.microRow_at (hr : s.runs = true) (hu : (s.microLane p.toNat lane.toNat).user.isSome = true)
    (hs : spells (s.microWordAt p.toNat (s.microLane p.toNat lane.toNat)) = true) :
    let w := s.microWordAt p.toNat (s.microLane p.toNat lane.toNat)
    s.microRow p lane spells = .next (if w / 2 ^ 27 = 0x0E ∧ s.sfuPath p.toNat (w % 16) = 2
      then (s.microStepped p.toNat lane.toNat).bump ctrFallbackEvals p.toNat else s.microStepped p.toNat lane.toNat) := by
  have hgo : ¬((s.microLane p.toNat lane.toNat).user.isNone || !spells (s.microWordAt p.toNat (s.microLane p.toNat lane.toNat))) = true := by
    rw [hs]
    cases hl : (s.microLane p.toNat lane.toNat).user with
    | none => rw [hl] at hu; exact absurd hu (by decide)
    | some u => exact Bool.false_ne_true
  rw [State.microRow, State.issue_runs _ _ hr]
  exact congrArg _ (if_neg hgo)

/-- A micro-operation that sets register D. -/
theorem microRow_sets (hr : s.runs = true) (hu : (s.microLane p.toNat lane.toNat).user.isSome = true) (imm : Nat)
    (hs : spells (s.microWordAt p.toNat (s.microLane p.toNat lane.toNat)) = true)
    (hop : ∀ k, microReg (s.microNext p.toNat lane.toNat) k = if k = d then v else microReg (s.microLane p.toNat lane.toNat).regs k)
    (himm : s.microWordAt p.toNat (s.microLane p.toNat lane.toNat) / 2 ^ 27 = 0x0E →
      s.microWordAt p.toNat (s.microLane p.toNat lane.toNat) % 16 = imm % 16) :
    ∃ t, s.microRow p lane spells = .next t ∧ MicroSets s p.toNat lane.toNat d v imm t := by
  set u := s.microStepped p.toNat lane.toNat with hudef
  have hlane : ∀ t : State, t.plot p.toNat = u.plot p.toNat → t.microLane p.toNat lane.toNat =
      { s.microLane p.toNat lane.toNat with regs := s.microNext p.toNat lane.toNat, word := (s.microLane p.toNat lane.toNat).word + 1 } := fun t ht => by
    rw [State.microLane, ht, hudef, State.microStepped, State.plot_setPlot]
    simp only [sget_sput_same]
  have hother : ∀ k, k ≠ p.toNat → u.plot k = s.plot k := fun k hk => State.plot_setPlot_other _ _ hk
  by_cases hc : s.microWordAt p.toNat (s.microLane p.toNat lane.toNat) / 2 ^ 27 = 0x0E ∧
      s.sfuPath p.toNat (s.microWordAt p.toNat (s.microLane p.toNat lane.toNat) % 16) = 2
  · have hl := hlane (u.bump ctrFallbackEvals p.toNat) (State.plot_bump_eq _ _ _ _ _)
    refine ⟨_, (State.microRow_at hr hu hs).trans (congrArg _ (if_pos hc)), fun k => ?_, ?_, u.bump_mem _ _ _, u.bump_host _ _ _,
      fun h => absurd hc.1 h, fun _ => ?_, fun k hk => ?_⟩
    · rw [hl]; exact hop k
    · rw [hl]
    · rw [← himm hc.1, if_pos hc.2]
      exact State.count_bump _ _ _ _
    · rw [State.plot_bump_eq, hother k hk]
  · have hl := hlane u rfl
    refine ⟨_, (State.microRow_at hr hu hs).trans (congrArg _ (if_neg hc)), fun k => ?_, ?_, rfl, rfl, fun _ => rfl, fun h => ?_, hother⟩
    · rw [hl]; exact hop k
    · rw [hl]
    · rw [← himm h, if_neg fun hp => hc ⟨h, hp⟩, satAdd_count_zero]
      rfl

end

/-- A field of a word's low fifteen bits. -/
theorem toNat_ofNat_mod (w : Nat) {k : Nat} (hk : k ≤ 15) : (BitVec.ofNat 15 w).toNat % 2 ^ k = w % 2 ^ k := by
  rw [BitVec.toNat_ofNat]
  exact Nat.mod_mod_of_dvd _ (Nat.pow_dvd_pow 2 hk)

section
variable {s : State} {p : PPlot} {lane : BitVec 4} (hr : s.runs = true) (hu : (s.microLane p.toNat lane.toNat).user.isSome = true)
include hr hu

/-- A row of the table at a word that spells it, from what its OP does to the registers. -/
theorem microRow_spelled {i : Instr} {spells : Nat → Bool} {op : Nat} {d a b c : BitVec 3} {v : Word} {imm : Nat}
    (hi : exec i s = s.microRow p lane spells) (hs : spells (s.microWordAt p.toNat (s.microLane p.toNat lane.toNat)) = true)
    (hf : let w := s.microWordAt p.toNat (s.microLane p.toNat lane.toNat)
      w / 2 ^ 27 = op ∧ microField w 24 = d ∧ microField w 21 = a ∧ microField w 18 = b ∧ microField w 15 = c)
    (hv : ∀ k, microReg (microOp (s.microEnv p.toNat) (s.microLane p.toNat lane.toNat).regs op d a b c
      (BitVec.ofNat 15 (s.microWordAt p.toNat (s.microLane p.toNat lane.toNat)))) k =
      if k = d then v else microReg (s.microLane p.toNat lane.toNat).regs k)
    (himm : op = 0x0E → s.microWordAt p.toNat (s.microLane p.toNat lane.toNat) % 16 = imm % 16) :
    ∃ t, exec i s = .next t ∧ MicroSets s p.toNat lane.toNat d v imm t := by
  obtain ⟨hop, hd, ha, hb, hc⟩ := hf
  have hnext : s.microNext p.toNat lane.toNat = microOp (s.microEnv p.toNat) (s.microLane p.toNat lane.toNat).regs op d a b c
      (BitVec.ofNat 15 (s.microWordAt p.toNat (s.microLane p.toNat lane.toNat))) := by
    rw [State.microNext, hop, hd, ha, hb, hc]
  rw [hi]
  exact microRow_sets hr hu imm hs (fun k => by rw [hnext]; exact hv k) fun h => himm (hop.symm.trans h)

section
variable {i : Instr} {op : Nat} {d a b c : BitVec 3} {v : Word}

/-- A row whose word names D and A. -/
theorem microRow_DA {spells : Nat → Bool} {imm : Nat} (hi : exec i s = s.microRow p lane spells)
    (hs : spells (s.microWordAt p.toNat (s.microLane p.toNat lane.toNat)) = true)
    (hDA : spellsDA (s.microWordAt p.toNat (s.microLane p.toNat lane.toNat)) op d a = true)
    (hv : ∀ b c, microOp (s.microEnv p.toNat) (s.microLane p.toNat lane.toNat).regs op d a b c
      (BitVec.ofNat 15 (s.microWordAt p.toNat (s.microLane p.toNat lane.toNat))) = microSet (s.microLane p.toNat lane.toNat).regs d v)
    (himm : op = 0x0E → s.microWordAt p.toNat (s.microLane p.toNat lane.toNat) % 16 = imm % 16) :
    ∃ t, exec i s = .next t ∧ MicroSets s p.toNat lane.toNat d v imm t := by
  obtain ⟨hop, hd, ha⟩ := spellsDA_iff.1 hDA
  exact microRow_spelled hr hu hi hs ⟨hop, hd, ha, rfl, rfl⟩ (fun k => by rw [hv, microReg_microSet]) himm

/-- A row whose word names D, A and B. -/
theorem microRow_DAB {imm : Nat} (hi : exec i s = s.microRow p lane fun w => spellsDAB w op d a b)
    (hs : spellsDAB (s.microWordAt p.toNat (s.microLane p.toNat lane.toNat)) op d a b = true)
    (hv : ∀ c m, microOp (s.microEnv p.toNat) (s.microLane p.toNat lane.toNat).regs op d a b c m =
      microSet (s.microLane p.toNat lane.toNat).regs d v) (hop : op ≠ 0x0E) :
    ∃ t, exec i s = .next t ∧ MicroSets s p.toNat lane.toNat d v imm t := by
  obtain ⟨hop', hd, ha, hb⟩ := spellsDAB_iff.1 hs
  exact microRow_spelled hr hu hi hs ⟨hop', hd, ha, hb, rfl⟩ (fun k => by rw [hv, microReg_microSet]) fun e => absurd e hop

/-- A row whose word names D, A, B and C. -/
theorem microRow_DABC {imm : Nat} (hi : exec i s = s.microRow p lane fun w => spellsDABC w op d a b c)
    (hs : spellsDABC (s.microWordAt p.toNat (s.microLane p.toNat lane.toNat)) op d a b c = true)
    (hv : ∀ m k, microReg (microOp (s.microEnv p.toNat) (s.microLane p.toNat lane.toNat).regs op d a b c m) k =
      if k = d then v else microReg (s.microLane p.toNat lane.toNat).regs k) (hop : op ≠ 0x0E) :
    ∃ t, exec i s = .next t ∧ MicroSets s p.toNat lane.toNat d v imm t :=
  microRow_spelled hr hu hi hs (spellsDABC_iff.1 hs) (hv _) fun e => absurd e hop

/-- MP_CONST, whose word names D and a constant. -/
theorem microRow_const {imm : BitVec 15}
    (hs : (s.microWordAt p.toNat (s.microLane p.toNat lane.toNat) / 2 ^ 27 = 0x08 &&
      microField (s.microWordAt p.toNat (s.microLane p.toNat lane.toNat)) 24 = d &&
      s.microWordAt p.toNat (s.microLane p.toNat lane.toNat) % 64 = imm.toNat % 64) = true) :
    ∃ t, exec (.mpConst p lane d imm) s = .next t ∧
      MicroSets s p.toNat lane.toNat d (Config.microConst (s.microEnv p.toNat).image (imm.toNat % 64)) imm.toNat t := by
  have hspell := hs
  simp only [Bool.and_eq_true, decide_eq_true_eq] at hspell
  obtain ⟨⟨hop, hd⟩, himm⟩ := hspell
  have hconst : (BitVec.ofNat 15 (s.microWordAt p.toNat (s.microLane p.toNat lane.toNat))).toNat % 64 = imm.toNat % 64 :=
    (toNat_ofNat_mod _ (k := 6) (by decide)).trans himm
  refine microRow_spelled hr hu (show _ = s.microRow p lane fun w => w / 2 ^ 27 = 0x08 && microField w 24 = d && w % 64 = imm.toNat % 64 from rfl)
    hs ⟨hop, hd, rfl, rfl, rfl⟩ (fun k => ?_) nofun
  rw [← microReg_microSet, ← hconst]
  rfl

end

/-- Every row of the table but MP_END sets its register D to the listed function. -/
theorem microRows_set (d a b c : BitVec 3) (imm : BitVec 15) :
    let l := s.microLane p.toNat lane.toNat; let w := s.microWordAt p.toNat l; let env := s.microEnv p.toNat
    let x := microReg l.regs a; let y := microReg l.regs b; let z := microReg l.regs c
    ∀ row ∈ ([(.mpFadd p lane d a b, spellsDAB w 0x00 d a b, fadd x y),
        (.mpFsub p lane d a b, spellsDAB w 0x01 d a b, fsub x y),
        (.mpFmul p lane d a b, spellsDAB w 0x02 d a b, fmul x y),
        (.mpFma p lane d a b c, spellsDABC w 0x03 d a b c, ffma x y z),
        (.mpFmin p lane d a b, spellsDAB w 0x04 d a b, fmin x y),
        (.mpFmax p lane d a b, spellsDAB w 0x05 d a b, fmax x y),
        (.mpFabs p lane d a, spellsDA w 0x06 d a, fabs x),
        (.mpCpsgn p lane d a b, spellsDAB w 0x07 d a b, copySign x y),
        (.mpConst p lane d imm, w / 2 ^ 27 = 0x08 && microField w 24 = d && w % 64 = imm.toNat % 64, Config.microConst env.image (imm.toNat % 64)),
        (.mpLdexp p lane d a imm, spellsDA w 0x09 d a && w % 512 = imm.toNat % 512, fscale x (signedOf 9 (imm.toNat % 512))),
        (.mpGetexp p lane d a, spellsDA w 0x0A d a, getExp x),
        (.mpGetmant p lane d a, spellsDA w 0x0B d a, getMant x),
        (.mpFloor p lane d a, spellsDA w 0x0C d a, floor32 x),
        (.mpSellt p lane d a b c, spellsDABC w 0x0D d a b c, if (dec32 x).lt (dec32 y) then z else microReg l.regs d),
        (.mpHw p lane d a imm, spellsDA w 0x0E d a && w % 16 = imm.toNat % 16, env.hw (imm.toNat % 16) x)] :
        List (Instr × Bool × Word)),
      row.2.1 = true → ∃ t, exec row.1 s = .next t ∧ MicroSets s p.toNat lane.toNat d row.2.2 imm.toNat t := by
  intro l w env x y z
  have hlow : ∀ {op m n : Nat} {a : BitVec 3}, (spellsDA w op d a && decide (w % m = n)) = true → spellsDA w op d a = true ∧ w % m = n :=
    fun h => (Bool.and_eq_true_iff.1 h).imp id of_decide_eq_true
  simp only [List.forall_mem_cons]
  refine ⟨fun h => microRow_DAB hr hu rfl h (fun _ _ => rfl) (by decide),
    fun h => microRow_DAB hr hu rfl h (fun _ _ => rfl) (by decide),
    fun h => microRow_DAB hr hu rfl h (fun _ _ => rfl) (by decide),
    fun h => microRow_DABC hr hu rfl h (fun _ k => microReg_microSet _ _ k _) (by decide),
    fun h => microRow_DAB hr hu rfl h (fun _ _ => rfl) (by decide),
    fun h => microRow_DAB hr hu rfl h (fun _ _ => rfl) (by decide),
    fun h => microRow_DA hr hu (spells := fun w => spellsDA w 0x06 d a) rfl h h (fun _ _ => rfl) nofun,
    fun h => microRow_DAB hr hu rfl h (fun _ _ => rfl) (by decide),
    fun h => microRow_const hr hu h,
    fun h => ?ldexp,
    fun h => microRow_DA hr hu (spells := fun w => spellsDA w 0x0A d a) rfl h h (fun _ _ => rfl) nofun,
    fun h => microRow_DA hr hu (spells := fun w => spellsDA w 0x0B d a) rfl h h (fun _ _ => rfl) nofun,
    fun h => microRow_DA hr hu (spells := fun w => spellsDA w 0x0C d a) rfl h h (fun _ _ => rfl) nofun,
    fun h => ?sellt,
    fun h => ?hw,
    fun _ hnil => absurd hnil List.not_mem_nil⟩
  case ldexp =>
    obtain ⟨hDA, himm⟩ := hlow h
    refine microRow_DA hr hu (spells := fun w => spellsDA w 0x09 d a && w % 512 = imm.toNat % 512) rfl h hDA (fun _ _ => ?_) nofun
    show microSet _ d (fscale _ (signedOf 9 ((BitVec.ofNat 15 w).toNat % 512))) = _
    rw [show (BitVec.ofNat 15 w).toNat % 512 = w % 512 from toNat_ofNat_mod w (k := 9) (by decide), himm]
  case sellt =>
    refine microRow_DABC hr hu rfl h (fun _ k => ?_) (by decide)
    show microReg (if (dec32 x).lt (dec32 y) then microSet l.regs d z else l.regs) k = _
    by_cases hlt : (dec32 x).lt (dec32 y) = true
    · rw [if_pos hlt, if_pos hlt, microReg_microSet]
    · rw [if_neg hlt, if_neg hlt]
      split_ifs with hk
      · rw [hk]
      · rfl
  case hw =>
    obtain ⟨hDA, himm⟩ := hlow h
    refine microRow_DA hr hu (spells := fun w => spellsDA w 0x0E d a && w % 16 = imm.toNat % 16) rfl h hDA (fun _ _ => ?_) fun _ => himm
    show microSet _ d (env.hw ((BitVec.ofNat 15 w).toNat % 16) _) = _
    rw [show (BitVec.ofNat 15 w).toNat % 16 = w % 16 from toNat_ofNat_mod w (k := 4) (by decide), himm]

end

end Sys2Proof.Machine
end

section
/-! SUPPORT. A row's results committed, the end of a lane's program, and the proof about runnel arithmetic and micro-operations (R213, R250, R256). -/

namespace Sys2Proof.Machine

/-! ### What a committed row leaves -/

/-- What a row writes of a tile: its DST, and for a pair its e tile. -/
def RowOut.lanesOf (o : RowOut) (d k : Nat) : Option (List Word) := if k = d then o.dst else if k = d + 4 then o.err else none

/-- A tile with one row's results. -/
def Tile.withRow (y : Tile) (r : Nat) : Option (List Word) → Tile
  | some l => { y with data := setRow y.data r l }
  | none => y

section
variable (x : Plot) (w : FurrowWord) (r : Nat) (o : RowOut)

theorem Plot.rowCommitted_only : ∃ ts ss, x.rowCommitted w r o = { x with tiles := ts, stats := ss } := by
  unfold Plot.rowCommitted
  cases o.dst <;> cases o.err <;> cases o.bank <;> exact ⟨_, _, rfl⟩

theorem Plot.tile_rowCommitted (k : Nat) : (x.rowCommitted w r o).tile k = (x.tile k).withRow r (o.lanesOf w.dst.toNat k) := by
  have hbank : ∀ y : Plot, (match o.bank with | some b => y.setBankRow w.src2.toNat r b | none => y).tile k = y.tile k := fun y => by
    cases o.bank <;> rfl
  unfold Plot.rowCommitted RowOut.lanesOf
  dsimp only
  rw [hbank]
  by_cases hd : k = w.dst.toNat
  · have hne : k ≠ w.dst.toNat + 4 := by omega
    rw [if_pos hd]
    subst hd
    cases o.err <;> cases o.dst <;> simp only [Tile.withRow, Plot.tile_setTile, Plot.tile_setTile_other _ _ hne]
  · rw [if_neg hd]
    by_cases he : k = w.dst.toNat + 4
    · rw [if_pos he]
      subst he
      cases o.err <;> cases o.dst <;> simp only [Tile.withRow, Plot.tile_setTile, Plot.tile_setTile_other _ _ hd]
    · rw [if_neg he]
      cases o.err <;> cases o.dst <;> simp only [Tile.withRow, Plot.tile_setTile_other _ _ hd, Plot.tile_setTile_other _ _ he]

end

/-- Elements of a tile with one row's results. -/
theorem Tile.elem_withRow (y : Tile) {r : Nat} {l : Option (List Word)} (hr : r < 64) (hl : ∀ es ∈ l, es.length ≤ 64) (i : Nat) {j : Nat}
    (hj : j < 64) : (y.withRow r l).elem i j = if i = r then (l.bind (·[j]?)).getD (y.elem i j) else y.elem i j := by
  cases l with
  | none => exact (ite_self _).symm
  | some es =>
    have hset : (y.withRow r (some es)).elem i j = if i = r ∧ j < es.length then es.getD j 0 else y.elem i j := getD_setRow _ _ hr (hl es rfl) hj
    rw [hset]
    by_cases hi : i = r
    · by_cases hlt : j < es.length
      · simp [hi, hlt]
      · simp [hi, hlt]
    · simp [hi]

section
variable (s : State) (p : Nat) (o : RowOut)

/-- The counts of a row leave the state but for the counters and their overflow. -/
theorem State.rowCounted_leaves : (s.rowCounted p o).plots = s.plots ∧ (s.rowCounted p o).mem = s.mem ∧ (s.rowCounted p o).host = s.host ∧
    (s.rowCounted p o).armed = s.armed ∧ (s.rowCounted p o).inject = s.inject ∧ (s.rowCounted p o).canal = s.canal := by
  unfold State.rowCounted
  dsimp only
  split_ifs <;> simp

theorem readsAlike_rowCounted : ReadsAlike p s (s.rowCounted p o) := by
  unfold State.rowCounted
  dsimp only
  split_ifs
  · exact ((readsAlike_bump p s _ _ _).trans (readsAlike_bump p _ _ _ _)).trans (readsAlike_bump p _ _ _ _)
  · exact (readsAlike_bump p s _ _ _).trans (readsAlike_bump p _ _ _ _)
  · exact (readsAlike_bump p s _ _ _).trans (readsAlike_bump p _ _ _ _)
  · exact readsAlike_bump p s _ _ _

theorem State.plot_commitRow (w : FurrowWord) (r : Nat) : (s.commitRow p w r o).plot p = (s.plot p).rowCommitted w r o := by
  rw [State.commitRow_eq, State.plot, (State.rowCounted_leaves _ p o).1]
  exact State.plot_setPlot _ _ _

end

/-! ### Holds and retirement (R215) -/

/-- A hold added or taken away leaves a tile's elements. -/
theorem Plot.hold_data (up : Bool) (k : Nat) (ts : List Nat) (x : Plot) : ((x.hold up ts).tile k).data = (x.tile k).data := by
  unfold Plot.hold
  generalize ts.dedup = l
  induction l generalizing x with
  | nil => rfl
  | cons d l ih =>
    rw [List.foldl_cons, ih]
    by_cases hk : k = d
    · subst hk; rw [Plot.tile_setTile]
    · rw [Plot.tile_setTile_other _ _ hk]

theorem Plot.hold_only (up : Bool) (ts : List Nat) (x : Plot) : ∃ l, x.hold up ts = { x with tiles := l } := by
  unfold Plot.hold
  generalize ts.dedup = l
  induction l generalizing x with
  | nil => exact ⟨_, rfl⟩
  | cons d l ih =>
    obtain ⟨m, hm⟩ := ih (x.setTile d { x.tile d with held := if up then (x.tile d).held + 1 else (x.tile d).held - 1 })
    exact ⟨m, hm⟩

/-- A word's retirement leaves the elements of the tiles. -/
theorem Plot.retire_data (x : Plot) (w : FurrowWord) (k : Nat) : ((x.retire w).tile k).data = (x.tile k).data := by
  obtain ⟨htile, hfreed, -⟩ := x.retire_leaves w
  by_cases hk : w.rel1 = true ∧ k = w.src1.toNat
  · obtain ⟨hr, rfl⟩ := hk
    rw [hfreed hr]
  · rw [htile k hk]

/-! ### A granted row (R213, R250) -/

/-- A row that a grant has served, behind its entry: committed, and the word goes on to its next row or retires. -/
def State.rowGranted (s : State) (p : Nat) (f : FuRun) (o : RowOut) : State :=
  let op := f.op.toNat
  let fop := f.fop.toNat
  let t := s.commitRow p f.w f.row o
  if f.row + 1 < (s.plot p).fuRows op fop f.w then t.setPlot p { t.plot p with fuRun := some { f with row := f.row + 1 }, sfuTurn := true }
  else (t.setPlot p { (t.plot p).hold false ((fuSpec op fop f.w).reads ++ (fuSpec op fop f.w).writes) with sfuTurn := true }).fuRetire p f.w

section
variable {s : State} {p : Nat} (f : FuRun) (o : RowOut)

theorem State.grantedRow_quiet (hq : s.seepQuiet .furrow p = true) : s.grantedRow p f o = s.rowGranted p f o := by
  have henter : ∀ op fop index r rows cols, s.rowEnter p op fop index r rows cols = (s, true) := fun op fop index r rows cols => by
    unfold State.rowEnter
    rw [s.seepEvents_quiet _ _ hq]
    rfl
  have hquiet : (s.commitRow p f.w f.row o).seepQuiet .furrow p = true := by
    obtain ⟨-, -, -, ha, hi, -⟩ := (s.setPlot p ((s.plot p).rowCommitted f.w f.row o)).rowCounted_leaves p o
    rw [State.commitRow_eq, State.seepQuiet_congr ha hi]
    exact hq
  unfold State.grantedRow
  simp only [henter, State.seepEvents_quiet _ _ _ hquiet]
  rfl

/-- What a granted row leaves: its results in DST, every other element, and the word at its next row or out of the furrow. -/
theorem State.rowGranted_leaves {es : List Word} (hr : (s.plot p).running = true) (hp : (s.plot p).pendFail = none) (hrow : f.row < 64)
    (hes : es.length ≤ 64) : let x := s.plot p; let t := s.rowGranted p f { dst := some es }
    (∀ k r i, i < 64 → ((t.plot p).tile k).elem r i =
      if k = f.w.dst.toNat ∧ r = f.row ∧ i < es.length then es.getD i 0 else (x.tile k).elem r i) ∧
    (t.plot p).fuRun = (if f.row + 1 < x.fuRows f.op.toNat f.fop.toNat f.w then some { f with row := f.row + 1 } else none) ∧
    t.mem = s.mem ∧ t.host = s.host := by
  intro x t
  set o : RowOut := { dst := some es } with ho
  set u := s.commitRow p f.w f.row o with hu
  have hplot : u.plot p = x.rowCommitted f.w f.row o := s.plot_commitRow p o f.w f.row
  obtain ⟨-, hmem, hhost, -⟩ := (s.setPlot p (x.rowCommitted f.w f.row o)).rowCounted_leaves p o
  obtain ⟨ts, ss, honly⟩ := x.rowCommitted_only f.w f.row o
  have helem : ∀ y : Plot, (∀ k, (y.tile k).data = ((u.plot p).tile k).data) → ∀ k r i, i < 64 → (y.tile k).elem r i =
      if k = f.w.dst.toNat ∧ r = f.row ∧ i < es.length then es.getD i 0 else (x.tile k).elem r i := fun y hy k r i hi => by
    have hdata : (y.tile k).elem r i = ((x.tile k).withRow f.row (o.lanesOf f.w.dst.toNat k)).elem r i := by
      unfold Tile.elem
      rw [hy k, hplot, Plot.tile_rowCommitted]
    rw [hdata]
    by_cases hk : k = f.w.dst.toNat
    · have hlanes : o.lanesOf f.w.dst.toNat k = some es := if_pos hk
      rw [hlanes, Tile.elem_withRow _ hrow (fun _ h => by obtain rfl := Option.some.inj h; exact hes) r hi]
      by_cases hlt : i < es.length
      · simp [hk, hlt]
      · simp [hk, hlt]
    · have hlanes : o.lanesOf f.w.dst.toNat k = none := by
        unfold RowOut.lanesOf
        rw [if_neg hk]
        exact ite_self _
      rw [hlanes, if_neg fun h => hk h.1]
      rfl
  by_cases hlast : f.row + 1 < x.fuRows f.op.toNat f.fop.toNat f.w
  · have ht : t = u.setPlot p { u.plot p with fuRun := some { f with row := f.row + 1 }, sfuTurn := true } := if_pos hlast
    rw [ht, State.plot_setPlot, if_pos hlast]
    exact ⟨helem _ fun _ => rfl, rfl, hmem, hhost⟩
  · set y : Plot := { (u.plot p).hold false ((fuSpec f.op.toNat f.fop.toNat f.w).reads ++ (fuSpec f.op.toNat f.fop.toNat f.w).writes) with
      sfuTurn := true } with hy
    have ht : t = (u.setPlot p y).fuRetire p f.w := if_neg hlast
    obtain ⟨l, hl⟩ := (u.plot p).hold_only false ((fuSpec f.op.toNat f.fop.toNat f.w).reads ++ (fuSpec f.op.toNat f.fop.toNat f.w).writes)
    have hyrun : ((u.setPlot p y).plot p).running = true ∧ ((u.setPlot p y).plot p).pendFail = none := by
      rw [State.plot_setPlot, hy, hl, hplot, honly]
      exact ⟨hr, hp⟩
    rw [State.fuRetire_running f.w hyrun.1 hyrun.2, State.plot_setPlot, State.setPlot_setPlot] at ht
    have htplot : t.plot p = y.retire f.w := by
      rw [ht, State.plot_bump_eq, State.plot_bump_eq, State.plot_setPlot]
    rw [if_neg hlast, htplot]
    refine ⟨helem _ fun k => ?_, rfl, ?_, ?_⟩
    · rw [Plot.retire_data]
      exact Plot.hold_data false k _ _
    · rw [ht, State.bump_mem, State.bump_mem]; exact hmem
    · rw [ht, State.bump_host, State.bump_host]; exact hhost

end

/-! ### The end of a lane's program (R250, R256) -/

theorem mem_of_sget_ne {α : Type} {d : α} {m : Sparse α} {i : Nat} (h : sget d m i ≠ d) : (i, sget d m i) ∈ m := by
  induction m with
  | nil => exact absurd rfl h
  | cons x m ih =>
    obtain ⟨k, v⟩ := x
    by_cases hk : i = k
    · subst hk
      simp [sget]
    · simp only [sget, if_neg hk] at h ⊢
      exact List.mem_cons_of_mem _ (ih h)

/-- A lane that serves a request keeps the cluster busy. -/
theorem Plot.microBusy_of_lane {x : Plot} {lane : Nat} (h : (sget ({} : MicroLane) x.micro lane).user.isSome = true) : x.microBusy = true := by
  have hne : sget ({} : MicroLane) x.micro lane ≠ {} := fun e => by rw [e] at h; exact absurd h (by decide)
  exact List.any_eq_true.2 ⟨_, mem_of_sget_ne hne, h⟩

/-- A plot whose lane's result went to request k of a row. -/
def State.rowResult (s : State) (n k : Nat) (v : Word) : State :=
  (s.bump ctrEvals n).setPlot n { s.plot n with mpOut := sput (0 : Word) (s.plot n).mpOut k v }

theorem State.readsAlike_rowResult (s : State) (n k : Nat) (v : Word) : ReadsAlike n s (s.rowResult n k v) := by
  refine (readsAlike_bump n s _ _ _).trans (readsAlike_setPlot _ ?_)
  rw [State.plot_bump_eq]

section
variable {s : State} {p : PPlot} {lane : BitVec 4} (hr : s.runs = true)
  (hw : s.microWordAt p.toNat (s.microLane p.toNat lane.toNat) / 2 ^ 27 = 0x1F)
include hr hw

theorem exec_mpEnd_runnel {r : Nat} {rd : BitVec 5} (hl : (s.microLane p.toNat lane.toNat).user = some (.runnel r rd)) :
    exec (.mpEnd p lane) s = .next (((s.bump ctrEvals p.toNat).setPlot p.toNat { s.plot p.toNat with
      micro := sput ({} : MicroLane) (s.plot p.toNat).micro lane.toNat {} }).sfuGive p.toNat r rd (microReg (s.microLane p.toNat lane.toNat).regs 0)) := by
  show execMpEnd p lane s = _
  rw [execMpEnd, State.issue_runs _ _ hr]
  unfold State.microLane at hw hl ⊢
  simp only [hw, hl, State.plot_bump_eq]
  rfl

theorem exec_mpEnd_row {k : Nat} {f : FuRun} (hl : (s.microLane p.toNat lane.toNat).user = some (.row k)) (hf : (s.plot p.toNat).fuRun = some f) :
    let t := (s.rowResult p.toNat k (microReg (s.microLane p.toNat lane.toNat).regs 0)).nextRequest p.toNat lane.toNat f
    exec (.mpEnd p lane) s = .next (if (t.plot p.toNat).microBusy then t else
      t.grantedRow p.toNat f { dst := some ((List.range (t.plot p.toNat).mpNext).map fun i => sget (0 : Word) (t.plot p.toNat).mpOut i) }) := by
  show execMpEnd p lane s = _
  rw [execMpEnd, State.issue_runs _ _ hr]
  unfold State.rowResult State.microLane at *
  simp only [hw, hl, hf, State.plot_bump_eq]
  rfl

/-- The end of a program that a runnel asked for. -/
theorem mpEnd_runnel {r : Nat} {rd : BitVec 5} (hl : (s.microLane p.toNat lane.toNat).user = some (.runnel r rd)) :
    let x := s.plot p.toNat; let u := x.runnel r
    ∃ t, exec (.mpEnd p lane) s = .next t ∧ t.microLane p.toNat lane.toNat = {} ∧
      (t.plot p.toNat).sfuQ = x.sfuQ.filter (fun q => q.runnel ≠ r) ∧
      (t.plot p.toNat).runnel r = { u.setReg rd.toNat (microReg (s.microLane p.toNat lane.toNat).regs 0) with pc := u.pc + 4 } ∧
      (∀ k, k ≠ r → (t.plot p.toNat).runnel k = x.runnel k) ∧
      t.count ctrEvals p.toNat = satAdd (s.count ctrEvals p.toNat) 1 ∧ t.mem = s.mem ∧ t.host = s.host := by
  intro x u
  have hexec := exec_mpEnd_runnel hr hw hl
  rw [State.sfuGive, State.past_setPlot, State.setPlot_setPlot, State.plot_setPlot] at hexec
  have hpc : (Runnel.setReg (x.runnel r) rd.toNat (microReg (s.microLane p.toNat lane.toNat).regs 0)).pc = u.pc := Runnel.setReg_pc _ _ _
  refine ⟨_, hexec, ?lane, ?queue, ?own, fun k hk => ?others, State.count_bump _ _ _ _, State.bump_mem _ _ _ _, State.bump_host _ _ _ _⟩
  case lane =>
    rw [State.microLane, State.plot_setPlot]
    exact sget_sput_same ({} : MicroLane) x.micro lane.toNat {}
  case queue => rw [State.plot_setPlot]; rfl
  case own =>
    rw [State.plot_setPlot, ← hpc]
    exact sget_sput_same ({} : Runnel) x.runnels r _
  case others =>
    rw [State.plot_setPlot]
    exact sget_sput_other ({} : Runnel) _ _ _ hk

/-- The end of a program that a row of the furrow asked for. -/
theorem mpEnd_row {k : Nat} {f : FuRun} (hl : (s.microLane p.toNat lane.toNat).user = some (.row k)) (hf : (s.plot p.toNat).fuRun = some f) :
    let n := p.toNat; let p0 := s.plot n; let op := f.op.toNat; let fop := f.fop.toNat
    let out := sput (0 : Word) p0.mpOut k (microReg (s.microLane n lane.toNat).regs 0)
    let asks := rowAsk op fop (s.rowIn n op fop f.w f.tile f.reset f.row)
    let idle : Plot := { p0 with micro := sput ({} : MicroLane) p0.micro lane.toNat {} }
    (∀ arg, asks[p0.mpNext]? = some arg → ∃ t, exec (.mpEnd p lane) s = .next t ∧ (t.plot n).mpOut = out ∧
      (t.plot n).mpNext = p0.mpNext + 1 ∧ t.microLane n lane.toNat = ⟨microSet [] 0 arg, fop - 0x3A, 0, some (.row p0.mpNext)⟩ ∧
      (t.plot n).fuRun = some f ∧ (∀ a, (t.plot n).tile a = p0.tile a) ∧ t.mem = s.mem ∧ t.host = s.host) ∧
    (asks[p0.mpNext]? = none → idle.microBusy = true → ∃ t, exec (.mpEnd p lane) s = .next t ∧ t.plot n = { idle with mpOut := out } ∧
      t.mem = s.mem ∧ t.host = s.host) ∧
    (asks[p0.mpNext]? = none → idle.microBusy = false → p0.running = true → s.seepQuiet .furrow n = true → p0.pendFail = none →
      f.row < 64 → p0.mpNext ≤ 64 → ∃ t, exec (.mpEnd p lane) s = .next t ∧
      (∀ i < p0.mpNext, ((t.plot n).tile f.w.dst.toNat).elem f.row i = sget (0 : Word) out i) ∧
      (∀ r i, r ≠ f.row → r < 64 → i < 64 → ((t.plot n).tile f.w.dst.toNat).elem r i = (p0.tile f.w.dst.toNat).elem r i) ∧
      (t.plot n).fuRun = (if f.row + 1 < p0.fuRows op fop f.w then some { f with row := f.row + 1 } else none) ∧
      t.mem = s.mem ∧ t.host = s.host) := by
  intro n p0 op fop out asks idle
  have hexec := exec_mpEnd_row hr hw hl hf
  set u := s.rowResult n k (microReg (s.microLane n lane.toNat).regs 0) with hu
  have hplot : u.plot n = { p0 with mpOut := out } := State.plot_setPlot _ _ _
  have hasks : rowAsk op fop (u.rowIn n op fop f.w f.tile f.reset f.row) = asks := by
    have hin : u.rowIn n op fop f.w f.tile f.reset f.row = s.rowIn n op fop f.w f.tile f.reset f.row := by
      refine (s.readsAlike_rowResult n k _).rowIn ?_ ?_ ?_ ?_ _ _ _ _ _ <;> intro _ <;> rw [hplot] <;> rfl
    rw [hin]
  have hmem : u.mem = s.mem := State.bump_mem _ _ _ _
  have hhost : u.host = s.host := State.bump_host _ _ _ _
  refine ⟨fun arg ha => ?next, fun ha hb => ?waits, fun ha hb hrun hq hpf hrow hlen => ?commits⟩
  case next =>
    have hnext : u.nextRequest n lane.toNat f =
        u.setPlot n { (u.plot n).beginMicro lane.toNat (fop - 0x3A) arg (.row (u.plot n).mpNext) with mpNext := (u.plot n).mpNext + 1 } := by
      have ha' : (rowAsk op fop (u.rowIn n op fop f.w f.tile f.reset f.row))[(u.plot n).mpNext]? = some arg := by rw [hasks, hplot]; exact ha
      simp only [State.nextRequest, ha', op, fop]
    have hlane : (u.nextRequest n lane.toNat f).microLane n lane.toNat = ⟨microSet [] 0 arg, fop - 0x3A, 0, some (.row p0.mpNext)⟩ := by
      rw [State.microLane, hnext, State.plot_setPlot, hplot]
      simp only [Plot.beginMicro, sget_sput_same]
    have hbusy : ((u.nextRequest n lane.toNat f).plot n).microBusy = true := by
      refine Plot.microBusy_of_lane (lane := lane.toNat) ?_
      have hlane' : sget ({} : MicroLane) ((u.nextRequest n lane.toNat f).plot n).micro lane.toNat = _ := hlane
      rw [hlane']
      rfl
    refine ⟨_, hexec.trans (congrArg _ (if_pos hbusy)), ?_, ?_, hlane, ?_, fun a => ?_, ?_, ?_⟩
    · rw [hnext, State.plot_setPlot, hplot]; rfl
    · rw [hnext, State.plot_setPlot, hplot]
    · rw [hnext, State.plot_setPlot, hplot]; exact hf
    · rw [hnext, State.plot_setPlot, hplot]; rfl
    · rw [hnext]; exact hmem
    · rw [hnext]; exact hhost
  all_goals
    have hnext : u.nextRequest n lane.toNat f = u.setPlot n { idle with mpOut := out } := by
      have ha' : (rowAsk op fop (u.rowIn n op fop f.w f.tile f.reset f.row))[(u.plot n).mpNext]? = none := by rw [hasks, hplot]; exact ha
      simp only [State.nextRequest, ha', op, fop] at ha' ⊢
      simp only [hplot, idle]
  case waits =>
    have hbusy : ((u.nextRequest n lane.toNat f).plot n).microBusy = true := by rw [hnext, State.plot_setPlot]; exact hb
    refine ⟨_, hexec.trans (congrArg _ (if_pos hbusy)), ?_, ?_, ?_⟩
    · rw [hnext, State.plot_setPlot]
    · rw [hnext]; exact hmem
    · rw [hnext]; exact hhost
  case commits =>
    set v := u.nextRequest n lane.toNat f with hv
    have hvplot : v.plot n = { idle with mpOut := out } := by rw [hnext, State.plot_setPlot]
    have hbusy : ¬(v.plot n).microBusy = true := by rw [hvplot]; exact fun h => absurd (hb.symm.trans h) Bool.false_ne_true
    have hquiet : v.seepQuiet .furrow n = true := by
      rw [hnext]
      exact (State.seepQuiet_congr (State.bump_armed _ _ _ _) (State.bump_inject _ _ _ _) _ _).trans hq
    have hgrant := State.grantedRow_quiet f
      { dst := some ((List.range (v.plot n).mpNext).map fun i => sget (0 : Word) (v.plot n).mpOut i) } hquiet
    obtain ⟨helem, hfu, hm, hh⟩ := State.rowGranted_leaves (s := v) (p := n) f
      (es := (List.range (v.plot n).mpNext).map fun i => sget (0 : Word) (v.plot n).mpOut i) (by rw [hvplot]; exact hrun)
      (by rw [hvplot]; exact hpf) hrow (by rw [List.length_map, List.length_range, hvplot]; exact hlen)
    refine ⟨_, hexec.trans (congrArg _ ((if_neg hbusy).trans hgrant)), fun i hi => ?_, fun r i hne hr64 hi => ?_, ?_, ?_, ?_⟩
    · have hlen' : i < ((List.range (v.plot n).mpNext).map fun i => sget (0 : Word) (v.plot n).mpOut i).length := by
        rw [List.length_map, List.length_range, hvplot]; exact hi
      rw [helem _ _ _ (by omega), if_pos ⟨rfl, rfl, hlen'⟩, List.getD_eq_getElem _ _ hlen']
      simp only [List.getElem_map, List.getElem_range, hvplot]
    · rw [helem _ _ _ hi, if_neg fun h => hne h.2.1, hvplot]
      rfl
    · rw [hfu, hvplot]
      rfl
    · rw [hm, hnext]; exact hmem
    · rw [hh, hnext]; exact hhost

end

/-- Settles O52: the runnel's rows at its instruction, a grant for one runnel, and the micro-operations of a lane. -/
theorem runnelAndMicroArithmetic : Obligations.RunnelAndMicroArithmetic := by
  unfold Obligations.RunnelAndMicroArithmetic
  refine ⟨Runnel.reg_setReg, fun s p r rd rs1 rs2 => ⟨?arith, ?unary, fun code h hc => exec_sfu h hc⟩,
    fun s p q hr hb hf hq hrun hn hs => sfuGrant_serves hr hb hf hq hrun hn hs,
    fun s p lane d a b c imm => ⟨?micro, fun hr hw => ⟨?runnel, ?row⟩⟩⟩
  case arith =>
    simp only [List.forall_mem_cons]
    exact ⟨fun h => h.exec_arith (f := fun a b _ => fadd a b) rfl, fun h => h.exec_arith (f := fun a b _ => fsub a b) rfl,
      fun h => h.exec_arith (f := fun a b _ => fmul a b) rfl, fun h => h.exec_arith (f := fun a b _ => fdiv a b) rfl,
      fun h => h.exec_arith (f := fun a b _ => fmin a b) rfl, fun h => h.exec_arith (f := fun a b _ => fmax a b) rfl,
      fun h => h.exec_arith (f := fun a b _ => if (dec32 a).lt (dec32 b) then 1 else 0) rfl,
      fun h => h.exec_arith (f := fun a b _ => if (dec32 a).eqv (dec32 b) then 1 else 0) rfl,
      fun h => h.exec_arith (f := ffma) rfl, fun _ hnil => absurd hnil List.not_mem_nil⟩
  case unary =>
    simp only [List.forall_mem_cons]
    exact ⟨fun h => h.exec_unary (f := fun a => ofInt32 a.toInt) rfl, fun h => h.exec_unary (f := toInt32) rfl,
      fun h => h.exec_unary (f := fun a => BitVec.ofNat 32 (bf16 a)) rfl, fun _ hnil => absurd hnil List.not_mem_nil⟩
  case micro => exact fun row hrow hr hu hs => microRows_set hr hu d a b c imm row hrow hs
  case runnel => exact fun r rd hl => mpEnd_runnel hr hw hl
  case row => exact fun k f hl hf => mpEnd_row hr hw hl hf

end Sys2Proof.Machine
end

section
/-! SUPPORT. The rows of a furrow word without special functions, from its issue to its retirement (R212 to R219). -/

namespace Sys2Proof.Machine

/-! ### What a row's results are -/

/-- A lane of a tile as a row's results have it. -/
def RowOut.lane (o : RowOut) (d k i : Nat) (old : Word) : Word := ((o.lanesOf d k).bind (·[i]?)).getD old

/-- A row's results are no longer than a tile's row. -/
def RowOut.Fits (o : RowOut) : Prop := (∀ es ∈ o.dst, es.length ≤ 64) ∧ ∀ es ∈ o.err, es.length ≤ 64

theorem RowOut.Fits.lanesOf {o : RowOut} (h : o.Fits) (d k : Nat) : ∀ es ∈ o.lanesOf d k, es.length ≤ 64 := by
  unfold RowOut.lanesOf
  split_ifs
  · exact h.1
  · exact h.2
  · exact fun _ h => absurd h nofun

/-- Elements of a committed row's tile. -/
theorem Plot.elem_rowCommitted (x : Plot) (w : FurrowWord) {r : Nat} {o : RowOut} (hr : r < 64) (ho : o.Fits) (k i : Nat) {j : Nat} (hj : j < 64) :
    ((x.rowCommitted w r o).tile k).elem i j =
      if i = r then o.lane w.dst.toNat k j ((x.tile k).elem i j) else (x.tile k).elem i j := by
  rw [Plot.tile_rowCommitted, Tile.elem_withRow _ hr (ho.lanesOf _ _) i hj]
  rfl

theorem Plot.bankRow_rowCommitted (x : Plot) (w : FurrowWord) {r i : Nat} (o : RowOut) (hr : r < 64) (hi : i < 64) (b : Nat) :
    (x.rowCommitted w r o).bankRow b i = if b = w.src2.toNat ∧ i = r then o.bank.getD (x.bankRow b i) else x.bankRow b i := by
  have hset : ∀ (y : Plot) (c : BankRow), (y.setBankRow w.src2.toNat r c).bankRow b i = if b = w.src2.toNat ∧ i = r then c else y.bankRow b i :=
    fun y c => by
      unfold Plot.setBankRow Plot.bankRow
      by_cases h : b = w.src2.toNat ∧ i = r
      · rw [if_pos h, h.1, h.2]
        exact sget_sput_same _ _ _ _
      · rw [if_neg h]
        exact sget_sput_other _ _ _ _ (by omega)
  unfold Plot.rowCommitted
  cases o.dst <;> cases o.err <;> cases o.bank <;>
    simp only [hset, Option.getD_some, Option.getD_none, ite_self] <;> rfl

/-! ### Rows taken one after another -/

/-- The state when the first k rows of a word have committed what they give. -/
structure RowsTaken (s : State) (p : Nat) (w : FurrowWord) (outs : Nat → RowOut) (k : Nat) (u : State) : Prop where
  alike : ReadsAlike p s u
  plot : ∃ ts ss, u.plot p = { s.plot p with tiles := ts, stats := ss }
  tile : ∀ j, ∃ l, (u.plot p).tile j = { (s.plot p).tile j with data := l }
  others : ∀ j, (∀ r < k, (outs r).lanesOf w.dst.toNat j = none) → (u.plot p).tile j = (s.plot p).tile j
  elem : ∀ j r i, i < 64 → ((u.plot p).tile j).elem r i =
    if r < k then (outs r).lane w.dst.toNat j i (((s.plot p).tile j).elem r i) else ((s.plot p).tile j).elem r i
  bank : ∀ b r, r < 64 → (u.plot p).bankRow b r =
    if r < k ∧ b = w.src2.toNat then (outs r).bank.getD ((s.plot p).bankRow b r) else (s.plot p).bankRow b r
  host : u.host = s.host
  canal : u.canal = s.canal
  words : u.count ctrWords p = s.count ctrWords p
  quiet : ∀ c i, u.seepQuiet c i = s.seepQuiet c i

section
variable {s u : State} {p k : Nat} {w : FurrowWord} {outs : Nat → RowOut}

theorem rowsTaken_zero (s : State) (p : Nat) (w : FurrowWord) (outs : Nat → RowOut) : RowsTaken s p w outs 0 s where
  alike := .refl p s
  plot := ⟨_, _, rfl⟩
  tile _ := ⟨_, rfl⟩
  others _ _ := rfl
  elem _ _ _ _ := (if_neg (Nat.not_lt_zero _)).symm
  bank _ _ _ := (if_neg fun h => Nat.not_lt_zero _ h.1).symm
  host := rfl
  canal := rfl
  words := rfl
  quiet _ _ := rfl

/-- A row that is still to come reads what it read at first. -/
theorem RowsTaken.fuRow (h : RowsTaken s p w outs k u) (hk : k < 64) (op fop : Nat) (t : TileRef) (reset : Bool) :
    u.fuRow p op fop w t reset k = s.fuRow p op fop w t reset k := by
  have hrow : ∀ j, ((u.plot p).tile j).row k = ((s.plot p).tile j).row k := fun j => by
    obtain ⟨l, hl⟩ := h.tile j
    refine List.map_congr_left fun i hi => ?_
    have he : ((u.plot p).tile j).elem k i = ((s.plot p).tile j).elem k i :=
      (h.elem j k i (List.mem_range.1 hi)).trans (if_neg (Nat.lt_irrefl k))
    unfold Tile.read
    rw [he, hl]
  have hin : u.rowIn p op fop w t reset k = s.rowIn p op fop w t reset k := by
    refine h.alike.rowIn hrow (fun j => ?_) (fun j => ?_) (fun b => ?_) _ _ _ _ _
    · obtain ⟨l, hl⟩ := h.tile j; rw [hl]
    · obtain ⟨l, hl⟩ := h.tile j; rw [hl]
    · rw [h.bank b k hk, if_neg fun e => Nat.lt_irrefl k e.1]
  unfold State.fuRow
  rw [hin]

theorem State.count_rowCounted (s : State) (p : Nat) (o : RowOut) : (s.rowCounted p o).count ctrWords p = s.count ctrWords p := by
  have hne : ∀ c ∈ [ctrRows, ctrEmptyRows, ctrNanRows], ∀ t : State, (t.bump c p).count ctrWords p = t.count ctrWords p := fun c hc t => by
    refine State.count_bump_other _ _ ?_
    simp only [List.mem_cons, List.not_mem_nil, or_false] at hc
    rcases hc with rfl | rfl | rfl <;> simp [Ctr.off, Ctr.block, ctrWords, ctrRows, ctrEmptyRows, ctrNanRows]
  have hrows := hne ctrRows (by simp)
  have hempty := hne ctrEmptyRows (by simp)
  have hnan := hne ctrNanRows (by simp)
  unfold State.rowCounted
  dsimp only
  split_ifs <;> simp only [hrows, hempty, hnan]

/-- The next row committed. -/
theorem RowsTaken.commit (h : RowsTaken s p w outs k u) (hk : k < 64) (ho : (outs k).Fits) :
    RowsTaken s p w outs (k + 1) (u.commitRow p w k (outs k)) := by
  have hplot : (u.commitRow p w k (outs k)).plot p = (u.plot p).rowCommitted w k (outs k) := u.plot_commitRow p _ w k
  obtain ⟨-, -, hhost, harmed, hinject, hcanal⟩ := (u.setPlot p ((u.plot p).rowCommitted w k (outs k))).rowCounted_leaves p (outs k)
  obtain ⟨ts, ss, honly⟩ := (u.plot p).rowCommitted_only w k (outs k)
  refine ⟨?alike, ?plot, fun j => ?tile, fun j hj => ?others, fun j r i hi => ?elem, fun b r hr => ?bank, hhost.trans h.host, hcanal.trans h.canal,
    (State.count_rowCounted _ _ _).trans h.words, fun c i => (State.seepQuiet_congr harmed hinject c i).trans (h.quiet c i)⟩
  case alike =>
    refine (h.alike.trans (readsAlike_setPlot u (x := (u.plot p).rowCommitted w k (outs k)) ?_)).trans (readsAlike_rowCounted _ _ _)
    rw [honly]
  case plot =>
    obtain ⟨ts', ss', h'⟩ := h.plot
    exact ⟨ts, ss, by rw [hplot, honly, h']⟩
  case tile =>
    obtain ⟨l, hl⟩ := h.tile j
    rw [hplot, Plot.tile_rowCommitted, hl]
    cases (outs k).lanesOf w.dst.toNat j <;> exact ⟨_, rfl⟩
  case others =>
    rw [hplot, Plot.tile_rowCommitted, hj k (Nat.lt_succ_self k)]
    exact h.others j fun r hr => hj r (Nat.lt_succ_of_lt hr)
  case elem =>
    rw [hplot, Plot.elem_rowCommitted _ _ hk ho _ _ hi, h.elem j r i hi]
    by_cases hr : r = k
    · subst hr
      rw [if_pos rfl, if_neg (Nat.lt_irrefl r), if_pos (Nat.lt_succ_self r)]
    · rw [if_neg hr]
      simp only [show (r < k + 1) = (r < k) from propext (by omega)]
  case bank =>
    rw [hplot, Plot.bankRow_rowCommitted _ _ _ hk hr, h.bank b r hr]
    by_cases hrk : r = k
    · subst hrk
      simp only [Nat.lt_irrefl, false_and, if_false, and_true, Nat.lt_succ_self, true_and]
    · simp only [hrk, and_false, if_false, show (r < k + 1) = (r < k) from propext (by omega)]

end

/-- With no seep of the furrow acting, rows that keep a relation of the rows taken are all taken. -/
theorem State.rowsFrom_takes {p op fop index rows cols : Nat} {one : State → Nat → State × Bool} (P : Nat → State → Prop)
    (hq : ∀ k u, P k u → u.seepQuiet .furrow p = true)
    (hone : ∀ k u, k < rows → P k u → (one u k).2 = true ∧ P (k + 1) (one u k).1) (n r : Nat) {s : State} (hs : P (min r rows) s) : ∃ u, s.rowsFrom p op fop index rows cols one r n = (u, true) ∧ P (min (r + n) rows) u := by
  induction n generalizing r s with
  | zero => exact ⟨s, rfl, hs⟩
  | succ n ih =>
    have henter : s.rowEnter p op fop index r rows cols = (s, true) := by
      unfold State.rowEnter
      rw [s.seepEvents_quiet _ _ (hq _ _ hs)]
      rfl
    rw [State.rowsFrom, henter]
    by_cases hr : r < rows
    · rw [Nat.min_eq_left (Nat.le_of_lt hr)] at hs
      obtain ⟨hgo, hnext⟩ := hone r s hr hs
      have hrow : one s r = ((one s r).1, true) := Prod.ext rfl hgo
      simp only [if_pos hr]
      rw [hrow]
      rw [← Nat.min_eq_left (show r + 1 ≤ rows from hr)] at hnext
      obtain ⟨u, hu, hP⟩ := ih (r + 1) hnext
      exact ⟨u, hu, by rwa [show r + (n + 1) = r + 1 + n by omega]⟩
    · simp only [if_neg hr]
      have hall : min r rows = min (r + 1) rows := by omega
      obtain ⟨u, hu, hP⟩ := ih (r + 1) (by rwa [← hall])
      exact ⟨u, hu, by rwa [show r + (n + 1) = r + 1 + n by omega]⟩

/-! ### Allocation and retirement (R216, R166) -/

/-- The tile whose extent a word's destinations take. -/
def Plot.extTile (x : Plot) (sp : FuSpec) : Tile := match sp.ext with | some a => x.tile a | none => {}

theorem Plot.tile_fuAlloc (x : Plot) (sp : FuSpec) (j : Nat) : (x.fuAlloc sp).tile j =
    if j ∈ sp.writes then { x.tile j with st := .live, rows := (x.extTile sp).rows, cols := (x.extTile sp).cols, negInf := (x.extTile sp).negInf }
    else x.tile j := by
  have hfold : ∀ (src : Tile) (l : List Nat) (y : Plot), (l.foldl (fun (x : Plot) d =>
      x.setTile d { x.tile d with st := .live, rows := src.rows, cols := src.cols, negInf := src.negInf }) y).tile j =
      if j ∈ l then { y.tile j with st := .live, rows := src.rows, cols := src.cols, negInf := src.negInf } else y.tile j := fun src l => by
    induction l with
    | nil => exact fun y => by simp
    | cons d l ih =>
      intro y
      rw [List.foldl_cons, ih]
      by_cases hj : j = d
      · subst hj
        rw [Plot.tile_setTile]
        simp
      · rw [Plot.tile_setTile_other _ _ hj]
        simp [hj]
  exact hfold (x.extTile sp) sp.writes x

theorem Plot.fuAlloc_only (x : Plot) (sp : FuSpec) : ∃ l, x.fuAlloc sp = { x with tiles := l } := by
  have hfold : ∀ (src : Tile) (l : List Nat) (y : Plot), ∃ m, l.foldl (fun (x : Plot) d =>
      x.setTile d { x.tile d with st := .live, rows := src.rows, cols := src.cols, negInf := src.negInf }) y = { y with tiles := m } := fun src l => by
    induction l with
    | nil => exact fun y => ⟨_, rfl⟩
    | cons d l ih =>
      intro y
      obtain ⟨m, hm⟩ := ih (y.setTile d { y.tile d with st := .live, rows := src.rows, cols := src.cols, negInf := src.negInf })
      exact ⟨m, hm⟩
  exact hfold _ sp.writes x

/-- A word's retirement, as its stream has gone on. -/
theorem State.wordDone_retire {u : State} {p : Nat} (w : FurrowWord) (hr : (u.plot p).running = true) (hp : (u.plot p).pendFail = none) :
    let t := (u.advance p .furrow).fuRetire p w
    WordDone u t p w ∧ ∀ b r, (t.plot p).bankRow b r = (u.plot p).bankRow b r := by
  intro t
  obtain ⟨q, ps, hplot⟩ := State.advance_plot u p .furrow
  obtain ⟨x, pools, honly⟩ := State.advance_only u p .furrow
  generalize hv : u.advance p .furrow = v at hplot honly
  have hdone : t = ((v.setPlot p ((v.plot p).retire w)).bump ctrWords p).bump ctrFurrowSteps p 64 := by
    show (u.advance p .furrow).fuRetire p w = _
    rw [hv]
    exact State.fuRetire_running w (by rw [hplot]; exact hr) (by rw [hplot]; exact hp)
  have hfin : t.plot p = (v.plot p).retire w := by
    rw [hdone, State.plot_bump_eq, State.plot_bump_eq, State.plot_setPlot]
  have hstats : ∀ y : Plot, (y.retire w).stats = y.stats := fun y => by
    unfold Plot.retire Plot.addCounter Plot.freeTile
    dsimp only
    split_ifs <;> rfl
  obtain ⟨htile, hfreed, hstage, htoken, hsat, hstoch⟩ := (v.plot p).retire_leaves w
  rw [← hfin, hplot] at htile hfreed hstage htoken hsat hstoch
  refine ⟨⟨htile, hfreed, hstage, htoken, hsat, hstoch, ?counted, ?mem, ?host, ?canal⟩, fun b r => ?bank⟩
  case counted =>
    have hw : v.count ctrWords p = u.count ctrWords p := by rw [honly]; rfl
    rw [hdone, State.count_bump_other _ _ ((ctrWords_apart p p).2.2.2 ctrFurrowSteps (by simp)), State.count_bump]
    exact congrArg (satAdd · 1) hw
  case bank =>
    unfold Plot.bankRow
    rw [hfin, hstats, hplot]
    rfl
  all_goals rw [hdone, honly]; simp

/-! ### A word from its issue to its retirement -/

/-- What a word without special functions leaves: its token and its tiles as a retired word leaves them, and its rows' results. -/
structure WordComputed (s t : State) (p : PPlot) (w : FurrowWord) (sp : FuSpec) (rows : Nat) (outs : Nat → RowOut) : Prop where
  retired : FurrowRetired s t p w sp.writes
  elem : ∀ j r i, i < 64 → ((t.plot p.toNat).tile j).elem r i = if r < rows
    then (outs r).lane w.dst.toNat j i (((s.plot p.toNat).tile j).elem r i) else ((s.plot p.toNat).tile j).elem r i
  extent : ∀ j ∈ sp.writes, ¬(w.rel1 = true ∧ j = w.src1.toNat) → ((t.plot p.toNat).tile j).rows = ((s.plot p.toNat).extTile sp).rows ∧
    ((t.plot p.toNat).tile j).cols = ((s.plot p.toNat).extTile sp).cols
  freed : w.rel1 = true → ((t.plot p.toNat).tile w.src1.toNat).rows = 64 ∧ ((t.plot p.toNat).tile w.src1.toNat).cols = 64
  bank : ∀ b r, r < 64 → (t.plot p.toNat).bankRow b r =
    if r < rows ∧ b = w.src2.toNat then (outs r).bank.getD ((s.plot p.toNat).bankRow b r) else (s.plot p.toNat).bankRow b r

section
variable {s : State} {p : PPlot} {w : FurrowWord} {it : ExpItem} {op fop : Nat}

/-- The results of a ready word's rows, from the state before it. -/
def State.rowsOf (s : State) (p : PPlot) (op fop : Nat) (w : FurrowWord) (it : ExpItem) (r : Nat) : RowOut :=
  s.fuRow p.toNat op fop w (s.fuTile (s.plot p.toNat) w it).1 (s.fuTile (s.plot p.toNat) w it).2 r

theorem FurrowReady.takes (h : FurrowReady s p op fop w it) (hf : fuSfu op fop = none) (hrows : (s.plot p.toNat).fuRows op fop w ≤ 64)
    (hout : ∀ r < (s.plot p.toNat).fuRows op fop w, (s.rowsOf p op fop w it r).denied = false ∧ (s.rowsOf p op fop w it r).Fits) :
    ∃ u, RowsTaken s p.toNat w (s.rowsOf p op fop w it) ((s.plot p.toNat).fuRows op fop w) u ∧
      s.fuWordRow p op fop w = .next (((u.setPlot p.toNat ((u.plot p.toNat).fuAlloc (fuSpec op fop w))).advance p.toNat .furrow).fuRetire p.toNat w) := by
  have hone : ∀ k u, k < (s.plot p.toNat).fuRows op fop w → RowsTaken s p.toNat w (s.rowsOf p op fop w it) k u →
      (State.fuOne p.toNat op fop w (s.fuTile (s.plot p.toNat) w it).1 (s.fuTile (s.plot p.toNat) w it).2 u k).2 = true ∧
      RowsTaken s p.toNat w (s.rowsOf p op fop w it) (k + 1)
        (State.fuOne p.toNat op fop w (s.fuTile (s.plot p.toNat) w it).1 (s.fuTile (s.plot p.toNat) w it).2 u k).1 := fun k u hk hu => by
    obtain ⟨hden, hfit⟩ := hout k hk
    have hrow : u.fuRow p.toNat op fop w (s.fuTile (s.plot p.toNat) w it).1 (s.fuTile (s.plot p.toNat) w it).2 k = s.rowsOf p op fop w it k :=
      hu.fuRow (by omega) _ _ _ _
    unfold State.fuOne
    dsimp only
    rw [hrow, hden]
    exact ⟨rfl, hu.commit (by omega) hfit⟩
  obtain ⟨u, hu, htaken⟩ := State.rowsFrom_takes (p := p.toNat) (op := op) (fop := fop) (index := (s.plot p.toNat).fuIndex)
    (cols := (s.plot p.toNat).fuCols op fop w) (RowsTaken s p.toNat w (s.rowsOf p op fop w it))
    (fun k u hu => (hu.quiet _ _).trans h.sound.1) hone 64 0 (by rw [Nat.zero_min]; exact rowsTaken_zero _ _ _ _)
  rw [Nat.zero_add, Nat.min_eq_right hrows] at htaken
  refine ⟨u, htaken, ?_⟩
  rw [State.fuWordRow, State.streamRow_head _ h.toAtHead]
  unfold State.furrowWord
  simp only [h.gate, State.enterStores_quiet _ h.sound.2, hf, Option.isSome_none, Bool.false_eq_true, if_false, hu]

/-- A ready word without special functions computes its rows and retires. -/
theorem FurrowReady.computed (h : FurrowReady s p op fop w it) (hf : fuSfu op fop = none) (hrows : (s.plot p.toNat).fuRows op fop w ≤ 64)
    (hout : ∀ r < (s.plot p.toNat).fuRows op fop w, (s.rowsOf p op fop w it r).denied = false ∧ (s.rowsOf p op fop w it r).Fits)
    (hown : ∀ r j, j ∉ (fuSpec op fop w).writes → (s.rowsOf p op fop w it r).lanesOf w.dst.toNat j = none) :
    ∃ t, s.fuWordRow p op fop w = .next t ∧
      WordComputed s t p w (fuSpec op fop w) ((s.plot p.toNat).fuRows op fop w) (s.rowsOf p op fop w it) := by
  obtain ⟨u, hu, hexec⟩ := h.takes hf hrows hout
  refine ⟨_, hexec, ?_⟩
  set v := u.setPlot p.toNat ((u.plot p.toNat).fuAlloc (fuSpec op fop w)) with hv
  have hvplot : v.plot p.toNat = (u.plot p.toNat).fuAlloc (fuSpec op fop w) := State.plot_setPlot _ _ _
  obtain ⟨ts, ss, huplot⟩ := hu.plot
  obtain ⟨l, halloc⟩ := (u.plot p.toNat).fuAlloc_only (fuSpec op fop w)
  have htile := (u.plot p.toNat).tile_fuAlloc (fuSpec op fop w)
  have hext : ((u.plot p.toNat).extTile (fuSpec op fop w)).rows = ((s.plot p.toNat).extTile (fuSpec op fop w)).rows ∧
      ((u.plot p.toNat).extTile (fuSpec op fop w)).cols = ((s.plot p.toNat).extTile (fuSpec op fop w)).cols := by
    unfold Plot.extTile
    cases (fuSpec op fop w).ext with
    | none => exact ⟨rfl, rfl⟩
    | some a => obtain ⟨m, hm⟩ := hu.tile a; exact ⟨by simp only [hm], by simp only [hm]⟩
  have hdata : ∀ j, ((v.plot p.toNat).tile j).data = ((u.plot p.toNat).tile j).data := fun j => by
    rw [hvplot, htile]
    split_ifs <;> rfl
  obtain ⟨hdone, hbank⟩ := State.wordDone_retire (u := v) (p := p.toNat) w (by rw [hvplot, halloc, huplot]; exact h.running)
    (by rw [hvplot, halloc, huplot]; exact h.calm)
  refine ⟨?retired, fun j r i hi => ?elem, fun j hj hn => ?extent, fun hr => ?freed, fun b r hr => ?bank⟩
  case retired =>
    refine hdone.retired (fun d hd => ?_) (fun k hk => ?_) (fun c => ?_) hu.words hu.alike.mem hu.host hu.canal
    · rw [hvplot, htile, if_pos hd]
    · rw [hvplot, htile, if_neg hk]
      exact hu.others k fun r _ => hown r k hk
    · rw [hvplot, halloc, huplot]; rfl
  case elem =>
    rw [← hu.elem j r i hi]
    unfold Tile.elem
    rw [hdone.data, hdata]
  case extent =>
    rw [hdone.tile j hn, hvplot, htile, if_pos hj]
    exact hext
  case freed =>
    rw [hdone.freed hr]
    exact ⟨rfl, rfl⟩
  case bank =>
    rw [hbank, ← hu.bank b r hr, hvplot, halloc]
    rfl

end

end Sys2Proof.Machine
end

section
/-! SUPPORT. Lanes of a row, and the proof about furrow words without special functions (R216 to R223, R270, R271). -/

namespace Sys2Proof.Machine

/-! ### Lanes of a row (R216, R219) -/

theorem Tile.getD_row (y : Tile) (r : Nat) {l : Nat} (hl : l < 64) : (y.row r).getD l 0 = y.read r l := by
  simp [Tile.row, hl]

theorem Tile.read_inside (y : Tile) {r l : Nat} (hr : r < y.rows) (hl : l < y.cols) : y.read r l = y.elem r l := if_pos ⟨hr, hl⟩

/-- Lanes of a row inside a tile's extent. -/
theorem Tile.getElem?_row_take (y : Tile) {r : Nat} (hr : r < y.rows) (hc : y.cols ≤ 64) (l : Nat) :
    ((y.row r).take y.cols)[l]? = if l < y.cols then some (y.elem r l) else none := by
  rw [List.getElem?_take]
  by_cases hl : l < y.cols
  · rw [if_pos hl, if_pos hl, Tile.row, List.getElem?_map, List.getElem?_range (by omega), Option.map_some, y.read_inside hr hl]
  · rw [if_neg hl, if_neg hl]

section
variable (i : RowIn) (d l : Nat) (old : Word)

theorem RowIn.lanes_lane (g : Word → Nat → Word) : (i.lanes g).lane d d l old = ((i.x1[l]?).map (g · l)).getD old := by
  have hdst : (i.lanes g).lanesOf d d = some (i.x1.zipIdx.map fun y => g y.1 y.2) := if_pos rfl
  rw [RowOut.lane, hdst, Option.bind_some, List.getElem?_map, List.getElem?_zipIdx]
  cases i.x1[l]? <;> simp

theorem RowIn.pair_lanes (g : Word → Nat → Word × Word) : (i.pair g).lane d d l old = ((i.x1[l]?).map fun x => (g x l).1).getD old ∧
    (i.pair g).lane d (d + 4) l old = ((i.x1[l]?).map fun x => (g x l).2).getD old := by
  have hdst : (i.pair g).lanesOf d d = some ((i.x1.zipIdx.map fun y => g y.1 y.2).map (·.1)) := if_pos rfl
  have herr : (i.pair g).lanesOf d (d + 4) = some ((i.x1.zipIdx.map fun y => g y.1 y.2).map (·.2)) := (if_neg (by omega)).trans (if_pos rfl)
  rw [RowOut.lane, RowOut.lane, hdst, herr]
  simp only [Option.bind_some, List.getElem?_map, List.getElem?_zipIdx]
  cases i.x1[l]? <;> simp

theorem RowIn.lanes_fits (h : i.x1.length ≤ 64) (g : Word → Nat → Word) : (i.lanes g).Fits :=
  ⟨fun es he => by obtain rfl := Option.some.inj he; simpa using h, fun _ he => absurd he nofun⟩

theorem RowIn.pair_fits (h : i.x1.length ≤ 64) (g : Word → Nat → Word × Word) : (i.pair g).Fits :=
  ⟨fun es he => by obtain rfl := Option.some.inj he; simpa using h, fun es he => by obtain rfl := Option.some.inj he; simpa using h⟩

end

/-! ### Words that take the extent of a tile -/

/-- A word without special functions that writes the tiles listed, over the rows of the tile named, whose extent they take. -/
structure WordShape (op fop : Nat) (w : FurrowWord) (dsts : List Nat) (a : Nat) : Prop where
  plain : fuSfu op fop = none
  writes : (fuSpec op fop w).writes = dsts
  ext : (fuSpec op fop w).ext = some a
  rows : ∀ x : Plot, x.fuRows op fop w = (x.tile a).rows
  own : (if op = 0x9 ∧ fop = 0x28 then w.dst.toNat else w.src1.toNat) = a

/-- What a ready word's row reads. -/
def State.rowInOf (s : State) (p : PPlot) (op fop : Nat) (w : FurrowWord) (it : ExpItem) (r : Nat) : RowIn :=
  s.rowIn p.toNat op fop w (s.fuTile (s.plot p.toNat) w it).1 (s.fuTile (s.plot p.toNat) w it).2 r

section
variable {s : State} {p : PPlot} {w : FurrowWord} {it : ExpItem} {op fop a r : Nat} {dsts : List Nat}

theorem WordShape.x1 (hs : WordShape op fop w dsts a) (hr : r < ((s.plot p.toNat).tile a).rows) :
    (s.rowInOf p op fop w it r).x1 = (((s.plot p.toNat).tile a).row r).take ((s.plot p.toNat).tile a).cols := by
  unfold State.rowInOf State.rowIn
  dsimp only
  rw [hs.own, if_pos hr]

theorem Tile.row_take_length (y : Tile) (r : Nat) (n : Nat) : ((y.row r).take n).length ≤ 64 := by
  simp [Tile.row]

/-- The lanes of a tile that a row reads whole. -/
theorem State.rowInOf_reads {l : Nat} (hl : l < 64) : let i := s.rowInOf p op fop w it r; let x := s.plot p.toNat
    i.x2.getD l 0 = (x.tile w.src2.toNat).read r l ∧ i.d.getD l 0 = (x.tile w.dst.toNat).read r l ∧
    i.e.getD l 0 = (x.tile (w.dst.toNat + 4)).read r l ∧ i.e1.getD l 0 = (x.tile (w.src1.toNat + 4)).read r l :=
  ⟨Tile.getD_row _ _ hl, Tile.getD_row _ _ hl, Tile.getD_row _ _ hl, Tile.getD_row _ _ hl⟩

/-- The extent that a word's destinations take is that of the tile it names. -/
theorem WordShape.extTile (hs : WordShape op fop w dsts a) (x : Plot) : x.extTile (fuSpec op fop w) = x.tile a := by
  unfold Plot.extTile
  rw [hs.ext]

/-- A word whose rows are lane-wise results in DST. -/
theorem FurrowReady.lanewise (h : FurrowReady s p op fop w it) {i : Instr} (hi : exec i s = s.fuWordRow p op fop w)
    (hs : WordShape op fop w [w.dst.toNat] a) (hr64 : ((s.plot p.toNat).tile a).rows ≤ 64) (hc64 : ((s.plot p.toNat).tile a).cols ≤ 64)
    {g : Nat → Word → Nat → Word} (hout : ∀ r, s.rowsOf p op fop w it r = (s.rowInOf p op fop w it r).lanes (g r)) :
    let src := (s.plot p.toNat).tile a
    ∃ t, exec i s = .next t ∧ FurrowRetired s t p w [w.dst.toNat] ∧
      (∀ r l, r < src.rows → l < src.cols → ((t.plot p.toNat).tile w.dst.toNat).elem r l = g r (src.elem r l) l) ∧
      (w.rel1 = true ∧ w.dst.toNat = w.src1.toNat ∨
        ((t.plot p.toNat).tile w.dst.toNat).rows = src.rows ∧ ((t.plot p.toNat).tile w.dst.toNat).cols = src.cols) := by
  intro src
  have hfit : ∀ r < (s.plot p.toNat).fuRows op fop w, (s.rowsOf p op fop w it r).denied = false ∧ (s.rowsOf p op fop w it r).Fits := fun r hr => by
    rw [hs.rows] at hr
    rw [hout]
    exact ⟨rfl, RowIn.lanes_fits _ (by rw [hs.x1 hr]; exact Tile.row_take_length _ _ _) _⟩
  have hown : ∀ r j, j ∉ (fuSpec op fop w).writes → (s.rowsOf p op fop w it r).lanesOf w.dst.toNat j = none := fun r j hj => by
    rw [hs.writes, List.mem_singleton] at hj
    rw [hout]
    exact (if_neg hj).trans (ite_self _)
  obtain ⟨t, hexec, ht⟩ := h.computed hs.plain (by rw [hs.rows]; exact hr64) hfit hown
  refine ⟨t, hi.trans hexec, hs.writes ▸ ht.retired, fun r l hr hl => ?_, ?_⟩
  · rw [ht.elem _ _ _ (Nat.lt_of_lt_of_le hl hc64), if_pos (by rw [hs.rows]; exact hr), hout, RowIn.lanes_lane, hs.x1 hr,
      Tile.getElem?_row_take _ hr hc64, if_pos hl]
    rfl
  · by_cases hrel : w.rel1 = true ∧ w.dst.toNat = w.src1.toNat
    · exact .inl hrel
    · have hext := ht.extent _ (by rw [hs.writes]; exact List.mem_singleton_self _) hrel
      rw [hs.extTile] at hext
      exact .inr hext

/-- A word whose rows are lane-wise results in a pair of tiles. -/
theorem FurrowReady.pairwise (h : FurrowReady s p op fop w it) {i : Instr} (hi : exec i s = s.fuWordRow p op fop w)
    (hs : WordShape op fop w [w.dst.toNat, w.dst.toNat + 4] a) (hr64 : ((s.plot p.toNat).tile a).rows ≤ 64)
    (hc64 : ((s.plot p.toNat).tile a).cols ≤ 64) {g : Nat → Word → Nat → Word × Word}
    (hout : ∀ r, s.rowsOf p op fop w it r = (s.rowInOf p op fop w it r).pair (g r)) : let src := (s.plot p.toNat).tile a
    ∃ t, exec i s = .next t ∧ FurrowRetired s t p w [w.dst.toNat, w.dst.toNat + 4] ∧
      ∀ r l, r < src.rows → l < src.cols →
        (((t.plot p.toNat).tile w.dst.toNat).elem r l, ((t.plot p.toNat).tile (w.dst.toNat + 4)).elem r l) = g r (src.elem r l) l := by
  intro src
  have hfit : ∀ r < (s.plot p.toNat).fuRows op fop w, (s.rowsOf p op fop w it r).denied = false ∧ (s.rowsOf p op fop w it r).Fits := fun r hr => by
    rw [hs.rows] at hr
    rw [hout]
    exact ⟨rfl, RowIn.pair_fits _ (by rw [hs.x1 hr]; exact Tile.row_take_length _ _ _) _⟩
  have hown : ∀ r j, j ∉ (fuSpec op fop w).writes → (s.rowsOf p op fop w it r).lanesOf w.dst.toNat j = none := fun r j hj => by
    rw [hs.writes] at hj
    simp only [List.mem_cons, List.not_mem_nil, or_false, not_or] at hj
    exact (if_neg hj.1).trans (if_neg hj.2)
  obtain ⟨t, hexec, ht⟩ := h.computed hs.plain (by rw [hs.rows]; exact hr64) hfit hown
  refine ⟨t, hi.trans hexec, hs.writes ▸ ht.retired, fun r l hr hl => ?_⟩
  have hrow : r < (s.plot p.toNat).fuRows op fop w := by rw [hs.rows]; exact hr
  have hx1 : (s.rowInOf p op fop w it r).x1[l]? = some (src.elem r l) := by
    rw [hs.x1 hr, Tile.getElem?_row_take _ hr hc64, if_pos hl]
  obtain ⟨hd, he⟩ := RowIn.pair_lanes (s.rowInOf p op fop w it r) w.dst.toNat l (((s.plot p.toNat).tile w.dst.toNat).elem r l) (g r)
  have he' := (RowIn.pair_lanes (s.rowInOf p op fop w it r) w.dst.toNat l (((s.plot p.toNat).tile (w.dst.toNat + 4)).elem r l) (g r)).2
  rw [ht.elem _ _ _ (Nat.lt_of_lt_of_le hl hc64), ht.elem _ _ _ (Nat.lt_of_lt_of_le hl hc64), if_pos hrow, if_pos hrow, hout, hd, he', hx1]
  rfl

/-- A lane-wise word in terms of its tiles and its vector. -/
theorem FurrowReady.listed (h : FurrowReady s p op fop w it) (F : Word → Word → Word → Word → Word) {i : Instr}
    (hi : exec i s = s.fuWordRow p op fop w) (hs : WordShape op fop w [w.dst.toNat] w.src1.toNat)
    (hr64 : ((s.plot p.toNat).tile w.src1.toNat).rows ≤ 64) (hc64 : ((s.plot p.toNat).tile w.src1.toNat).cols ≤ 64)
    (hout : ∀ r, s.rowsOf p op fop w it r = (s.rowInOf p op fop w it r).lanes fun x l => F x ((s.rowInOf p op fop w it r).x2.getD l 0)
      ((s.rowInOf p op fop w it r).d.getD l 0) ((s.rowInOf p op fop w it r).v.getD l 0))
    (hvec : (fuSpec op fop w).vec = true ∨ ∀ x y d v, F x y d v = F x y d 0) :
    let x := s.plot p.toNat; let src := x.tile w.src1.toNat
    ∃ t, exec i s = .next t ∧ FurrowRetired s t p w [w.dst.toNat] ∧
      (∀ r l, r < src.rows → l < src.cols → ((t.plot p.toNat).tile w.dst.toNat).elem r l = F (src.elem r l) ((x.tile w.src2.toNat).read r l)
        ((x.tile w.dst.toNat).read r l) ((s.vecRow p.toNat (s.fuTile x w it).1 0).getD l 0)) ∧
      (w.rel1 = true ∧ w.dst.toNat = w.src1.toNat ∨
        ((t.plot p.toNat).tile w.dst.toNat).rows = src.rows ∧ ((t.plot p.toNat).tile w.dst.toNat).cols = src.cols) := by
  intro x src
  obtain ⟨t, hexec, hret, helem, hext⟩ := h.lanewise hi hs hr64 hc64 hout
  refine ⟨t, hexec, hret, fun r l hr hl => ?_, hext⟩
  obtain ⟨hx2, hd, -, -⟩ := State.rowInOf_reads (s := s) (p := p) (w := w) (it := it) (op := op) (fop := fop) (r := r) (Nat.lt_of_lt_of_le hl hc64)
  rw [helem r l hr hl, hx2, hd]
  rcases hvec with hv | hv
  · have hvrow : (s.rowInOf p op fop w it r).v = s.vecRow p.toNat (s.fuTile x w it).1 0 := if_pos hv
    rw [hvrow]
  · exact (hv _ _ _ _).trans (hv _ _ _ _).symm

/-- A word over a pair in terms of its tiles and its vector. -/
theorem FurrowReady.listedPair (h : FurrowReady s p op fop w it) (F : Word → Word → Word → Word → Word → Word × Word) {i : Instr}
    (hi : exec i s = s.fuWordRow p op fop w) (hs : WordShape op fop w [w.dst.toNat, w.dst.toNat + 4] w.src1.toNat)
    (hr64 : ((s.plot p.toNat).tile w.src1.toNat).rows ≤ 64) (hc64 : ((s.plot p.toNat).tile w.src1.toNat).cols ≤ 64)
    (hout : ∀ r, s.rowsOf p op fop w it r = (s.rowInOf p op fop w it r).pair fun x l => F x ((s.rowInOf p op fop w it r).x2.getD l 0)
      ((s.rowInOf p op fop w it r).d.getD l 0) ((s.rowInOf p op fop w it r).e.getD l 0) ((s.rowInOf p op fop w it r).v.getD l 0))
    (hvec : (fuSpec op fop w).vec = true ∨ ∀ x y d e v, F x y d e v = F x y d e 0) :
    let x := s.plot p.toNat; let src := x.tile w.src1.toNat
    ∃ t, exec i s = .next t ∧ FurrowRetired s t p w [w.dst.toNat, w.dst.toNat + 4] ∧
      ∀ r l, r < src.rows → l < src.cols →
        (((t.plot p.toNat).tile w.dst.toNat).elem r l, ((t.plot p.toNat).tile (w.dst.toNat + 4)).elem r l)
          = F (src.elem r l) ((x.tile w.src2.toNat).read r l) ((x.tile w.dst.toNat).read r l) ((x.tile (w.dst.toNat + 4)).read r l)
            ((s.vecRow p.toNat (s.fuTile x w it).1 0).getD l 0) := by
  intro x src
  obtain ⟨t, hexec, hret, helem⟩ := h.pairwise hi hs hr64 hc64 hout
  refine ⟨t, hexec, hret, fun r l hr hl => ?_⟩
  obtain ⟨hx2, hd, he, -⟩ := State.rowInOf_reads (s := s) (p := p) (w := w) (it := it) (op := op) (fop := fop) (r := r) (Nat.lt_of_lt_of_le hl hc64)
  rw [helem r l hr hl, hx2, hd, he]
  rcases hvec with hv | hv
  · have hvrow : (s.rowInOf p op fop w it r).v = s.vecRow p.toNat (s.fuTile x w it).1 0 := if_pos hv
    rw [hvrow]
  · exact (hv _ _ _ _ _).trans (hv _ _ _ _ _).symm

end

/-! ### Words that take all 64 rows, and statistics (R218, R219, R223) -/

section
variable {s : State} {p : PPlot} {w : FurrowWord} {it : ExpItem}

/-- A word of 64 rows that writes 64 lanes of each. -/
theorem FurrowReady.fills {op fop : Nat} (h : FurrowReady s p op fop w it) {i : Instr} (hi : exec i s = s.fuWordRow p op fop w)
    (hf : fuSfu op fop = none) (hw : (fuSpec op fop w).writes = [w.dst.toNat]) (hrows : (s.plot p.toNat).fuRows op fop w = 64) {g : Nat → List Word}
    (hg : ∀ r, (g r).length = 64) (hout : ∀ r, s.rowsOf p op fop w it r = { dst := some (g r) }) :
    ∃ t, exec i s = .next t ∧ WordComputed s t p w (fuSpec op fop w) 64 (s.rowsOf p op fop w it) ∧ FurrowRetired s t p w [w.dst.toNat] ∧
      ∀ r l, r < 64 → l < 64 → ((t.plot p.toNat).tile w.dst.toNat).elem r l = (g r).getD l 0 := by
  have hfit : ∀ r < (s.plot p.toNat).fuRows op fop w, (s.rowsOf p op fop w it r).denied = false ∧ (s.rowsOf p op fop w it r).Fits := fun r _ => by
    rw [hout]
    exact ⟨rfl, fun es he => by obtain rfl := Option.some.inj he; exact (hg r).le, fun _ he => absurd he nofun⟩
  have hown : ∀ r j, j ∉ (fuSpec op fop w).writes → (s.rowsOf p op fop w it r).lanesOf w.dst.toNat j = none := fun r j hj => by
    rw [hw, List.mem_singleton] at hj
    rw [hout]
    exact (if_neg hj).trans (ite_self _)
  obtain ⟨t, hexec, ht⟩ := h.computed hf hrows.le hfit hown
  rw [hrows] at ht
  refine ⟨t, hi.trans hexec, ht, hw ▸ ht.retired, fun r l hr hl => ?_⟩
  have hdst : (s.rowsOf p op fop w it r).lanesOf w.dst.toNat w.dst.toNat = some (g r) := by rw [hout]; exact if_pos rfl
  rw [ht.elem _ _ _ hl, if_pos hr, RowOut.lane, hdst]
  simp [hg r, hl]

/-- The outcome of a row of statistics: the bank row, or no row beyond 2^22 elements. -/
def statOut (b : Option BankRow) : RowOut := b.elim { denied := true } fun c => { bank := some c }

theorem rowOp_stats (i : RowIn) : rowOp 0x00 i = statOut (({} : BankRow).combine (tileStat i.x1)) ∧
    rowOp 0x01 i = statOut (i.b.combine (tileStat i.x1)) := by
  unfold rowOp
  constructor
  · cases ({} : BankRow).combine (tileStat i.x1) <;> rfl
  · cases i.b.combine (tileStat i.x1) <;> rfl

/-- Statistics combined into the bank. -/
theorem FurrowReady.combines {fop : Nat} (h : FurrowReady s p 8 fop w it) {i : Instr} (hi : exec i s = s.fuWordRow p 8 fop w)
    (hs : WordShape 8 fop w [] w.src1.toNat) (b : Nat → BankRow)
    (hout : ∀ r, s.rowsOf p 8 fop w it r = statOut ((b r).combine (tileStat (s.rowInOf p 8 fop w it r).x1))) :
    let x := s.plot p.toNat; let src := x.tile w.src1.toNat
    src.rows ≤ 64 → (∀ r < src.rows, ((b r).combine (tileStat ((src.row r).take src.cols))).isSome = true) →
    ∃ t, exec i s = .next t ∧ FurrowRetired s t p w [] ∧
      (∀ r < src.rows, some ((t.plot p.toNat).bankRow w.src2.toNat r) = (b r).combine (tileStat ((src.row r).take src.cols))) ∧
      ∀ b r, b ≠ w.src2.toNat → r < 64 → (t.plot p.toNat).bankRow b r = x.bankRow b r := by
  intro x src hr64 hdef
  have hrow : ∀ r < src.rows, ∃ c, (b r).combine (tileStat ((src.row r).take src.cols)) = some c ∧ s.rowsOf p 8 fop w it r = { bank := some c } :=
    fun r hr => by
      obtain ⟨c, hc⟩ := Option.isSome_iff_exists.1 (hdef r hr)
      exact ⟨c, hc, by rw [hout, hs.x1 hr, hc]; rfl⟩
  have hfit : ∀ r < (s.plot p.toNat).fuRows 8 fop w, (s.rowsOf p 8 fop w it r).denied = false ∧ (s.rowsOf p 8 fop w it r).Fits := fun r hr => by
    rw [hs.rows] at hr
    obtain ⟨c, -, hout⟩ := hrow r hr
    rw [hout]
    exact ⟨rfl, fun _ he => absurd he nofun, fun _ he => absurd he nofun⟩
  have hnone : ∀ r j, j ∉ (fuSpec 8 fop w).writes → (s.rowsOf p 8 fop w it r).lanesOf w.dst.toNat j = none := fun r j _ => by
    rw [hout]
    unfold RowOut.lanesOf statOut
    cases (b r).combine (tileStat (s.rowInOf p 8 fop w it r).x1) <;> simp
  obtain ⟨t, hexec, ht⟩ := h.computed hs.plain (by rw [hs.rows]; exact hr64) hfit hnone
  refine ⟨t, hi.trans hexec, hs.writes ▸ ht.retired, fun r hr => ?_, fun k r hk hr => ?_⟩
  · obtain ⟨c, hc, hout⟩ := hrow r hr
    rw [ht.bank _ _ (Nat.lt_of_lt_of_le hr hr64), if_pos ⟨by rw [hs.rows]; exact hr, rfl⟩, hout, hc]
    rfl
  · rw [ht.bank _ _ hr, if_neg fun e => hk e.2]

end

/-- Settles O49: each word by the shape of its rows, lane-wise in one tile or in a pair, whole rows, or statistics. -/
theorem elementWordsCompute : Obligations.ElementWordsCompute := by
  unfold Obligations.ElementWordsCompute
  intro s p w it x a d T src y dst e bank hr64 hc64
  refine ⟨?lanes, fun h => ?factor, fun h => ?zero, fun h => ?fold, ?pairs, fun h hdr hdc => ?fix, fun h => ?read, ?stats⟩
  case lanes =>
    simp only [List.forall_mem_cons]
    exact ⟨fun h => h.listed (fun x _ _ _ => x) rfl ⟨rfl, rfl, rfl, fun _ => rfl, rfl⟩ hr64 hc64 (fun _ => rfl) (.inr fun _ _ _ _ => rfl),
      fun h => h.listed (fun x y _ _ => fadd x y) rfl ⟨rfl, rfl, rfl, fun _ => rfl, rfl⟩ hr64 hc64 (fun _ => rfl) (.inr fun _ _ _ _ => rfl),
      fun h => h.listed (fun x y _ _ => fsub x y) rfl ⟨rfl, rfl, rfl, fun _ => rfl, rfl⟩ hr64 hc64 (fun _ => rfl) (.inr fun _ _ _ _ => rfl),
      fun h => h.listed (fun x y _ _ => fmul x y) rfl ⟨rfl, rfl, rfl, fun _ => rfl, rfl⟩ hr64 hc64 (fun _ => rfl) (.inr fun _ _ _ _ => rfl),
      fun h => h.listed (fun x y _ _ => fmax x y) rfl ⟨rfl, rfl, rfl, fun _ => rfl, rfl⟩ hr64 hc64 (fun _ => rfl) (.inr fun _ _ _ _ => rfl),
      fun h => h.listed (fun x y _ _ => fmin x y) rfl ⟨rfl, rfl, rfl, fun _ => rfl, rfl⟩ hr64 hc64 (fun _ => rfl) (.inr fun _ _ _ _ => rfl),
      fun h => h.listed (fun x y d _ => ffma x y d) rfl ⟨rfl, rfl, rfl, fun _ => rfl, rfl⟩ hr64 hc64 (fun _ => rfl) (.inr fun _ _ _ _ => rfl),
      fun h => h.listed (fun x _ _ _ => fscale x w.x.toInt) rfl ⟨rfl, rfl, rfl, fun _ => rfl, rfl⟩ hr64 hc64 (fun _ => rfl) (.inr fun _ _ _ _ => rfl),
      fun h => h.listed (fun x _ _ v => fadd x v) rfl ⟨rfl, rfl, rfl, fun _ => rfl, rfl⟩ hr64 hc64 (fun _ => rfl) (.inl rfl),
      fun h => h.listed (fun x _ _ v => fmul x v) rfl ⟨rfl, rfl, rfl, fun _ => rfl, rfl⟩ hr64 hc64 (fun _ => rfl) (.inl rfl),
      fun h => h.listed (fun x _ _ _ => fabs x) rfl ⟨rfl, rfl, rfl, fun _ => rfl, rfl⟩ hr64 hc64 (fun _ => rfl) (.inr fun _ _ _ _ => rfl),
      fun h => h.listed (fun x _ _ _ => fneg x) rfl ⟨rfl, rfl, rfl, fun _ => rfl, rfl⟩ hr64 hc64 (fun _ => rfl) (.inr fun _ _ _ _ => rfl),
      fun h => h.listed (fun x _ d v => ffma v d x) rfl ⟨rfl, rfl, rfl, fun _ => rfl, rfl⟩ hr64 hc64 (fun _ => rfl) (.inl rfl),
      fun h => h.listed (fun x y d _ => ffma y d x) rfl ⟨rfl, rfl, rfl, fun _ => rfl, rfl⟩ hr64 hc64 (fun _ => rfl) (.inr fun _ _ _ _ => rfl),
      fun h => h.listed (fun x y d _ => ffma y (fsub d x) x) rfl ⟨rfl, rfl, rfl, fun _ => rfl, rfl⟩ hr64 hc64 (fun _ => rfl) (.inr fun _ _ _ _ => rfl),
      fun h => h.listed (fun x _ _ _ => fmax x 0) rfl ⟨rfl, rfl, rfl, fun _ => rfl, rfl⟩ hr64 hc64 (fun _ => rfl) (.inr fun _ _ _ _ => rfl),
      fun h => h.listed (fun x _ _ _ => x) rfl ⟨rfl, rfl, rfl, fun _ => rfl, rfl⟩ hr64 hc64 (fun _ => rfl) (.inr fun _ _ _ _ => rfl),
      fun _ hnil => absurd hnil List.not_mem_nil⟩
  case factor =>
    obtain ⟨t, hexec, hret, helem, -⟩ := h.lanewise (i := .rowscaleFactor p w) rfl ⟨rfl, rfl, rfl, fun _ => rfl, rfl⟩ hr64 hc64
      (g := fun r x _ => if (bank r).factor = fone then x else fmul x (bank r).factor) fun r => by
        show (if (bank r).factor = fone then _ else _) = _
        split_ifs <;> rfl
    exact ⟨t, hexec, hret, helem⟩
  case zero =>
    obtain ⟨t, hexec, ht, hret, helem⟩ := h.fills (i := .zero p w) (g := fun _ => List.replicate 64 0) rfl rfl rfl rfl (fun _ => rfl) fun _ => rfl
    refine ⟨t, hexec, hret, fun r l hr hl => ?_, ?_⟩
    · rw [helem r l hr hl, List.getD_eq_getElem _ _ (by rw [List.length_replicate]; exact hl), List.getElem_replicate]
    · by_cases hrel : w.rel1 = true ∧ d = w.src1.toNat
      · have hfreed := ht.freed hrel.1
        rwa [← hrel.2] at hfreed
      · exact ht.extent d (List.mem_singleton_self _) hrel
  case fold =>
    obtain ⟨t, hexec, hret, helem, -⟩ := h.lanewise (i := .pairFold p w) rfl ⟨rfl, rfl, rfl, fun _ => rfl, rfl⟩ hr64 hc64
      (g := fun r x l => fadd x ((s.rowInOf p 9 0x2A w it r).e1.getD l 0)) fun r => rfl
    refine ⟨t, hexec, hret, fun r l hr hl => ?_⟩
    rw [helem r l hr hl, State.rowInOf_reads (Nat.lt_of_lt_of_le hl hc64) |>.2.2.2]
  case pairs =>
    simp only [List.forall_mem_cons]
    exact ⟨fun h => h.listedPair (fun x _ d e v => compUpdate d e v x) rfl ⟨rfl, rfl, rfl, fun _ => rfl, rfl⟩ hr64 hc64 (fun _ => rfl) (.inl rfl),
      fun h => h.listedPair (fun x y d e _ => compUpdate d e y x) rfl ⟨rfl, rfl, rfl, fun _ => rfl, rfl⟩ hr64 hc64 (fun _ => rfl)
        (.inr fun _ _ _ _ _ => rfl),
      fun h => h.listedPair (fun x y d e _ => compUpdate d e y (fmul (fsub fone y) x)) rfl ⟨rfl, rfl, rfl, fun _ => rfl, rfl⟩ hr64 hc64
        (fun _ => rfl) (.inr fun _ _ _ _ _ => rfl),
      fun h => h.listedPair (fun x _ _ _ _ => (x, fzero)) rfl ⟨rfl, rfl, rfl, fun _ => rfl, rfl⟩ hr64 hc64 (fun _ => rfl)
        (.inr fun _ _ _ _ _ => rfl),
      fun _ hnil => absurd hnil List.not_mem_nil⟩
  case fix =>
    obtain ⟨t, hexec, hret, helem⟩ := h.pairwise (i := .pairFix p w) rfl ⟨rfl, rfl, rfl, fun _ => rfl, rfl⟩ hdr hdc
      (g := fun r x l => pairFixLane w.x.toInt x ((s.rowInOf p 9 0x28 w it r).e.getD l 0)) fun r => rfl
    refine ⟨t, hexec, hret, fun r l hr hl => ?_⟩
    rw [helem r l hr hl, State.rowInOf_reads (Nat.lt_of_lt_of_le hl hdc) |>.2.2.1]
  case read =>
    obtain ⟨t, hexec, -, hret, helem⟩ := h.fills (i := .bankRead p w) (g := fun r => (bank r).words) rfl rfl rfl rfl (fun _ => rfl) fun _ => rfl
    exact ⟨t, hexec, hret, helem⟩
  case stats =>
    simp only [List.forall_mem_cons]
    exact ⟨fun h => h.combines rfl ⟨rfl, rfl, rfl, fun _ => rfl, rfl⟩ (fun _ => {}) (fun r => (rowOp_stats _).1) hr64,
      fun h => h.combines rfl ⟨rfl, rfl, rfl, fun _ => rfl, rfl⟩ bank (fun r => (rowOp_stats _).2) hr64,
      fun _ hnil => absurd hnil List.not_mem_nil⟩

end Sys2Proof.Machine
end

section
/-! SUPPORT. A furrow word that needs special functions issues and waits for grants (R213, R217, R248). -/

namespace Sys2Proof.Machine

/-- A word that needs special functions reads SRC1 and writes DST. -/
theorem fuSpec_of_sfu {op fop : Nat} (w : FurrowWord) (h : (fuSfu op fop).isSome = true) :
    (fuSpec op fop w).reads = [w.src1.toNat] ∧ (fuSpec op fop w).writes = [w.dst.toNat] := by
  unfold fuSfu at h
  unfold fuSpec
  split_ifs at h ⊢ with h8 h9
  · have hfop : ¬fop ≤ 0x01 := fun hle => by interval_cases fop <;> exact absurd h Bool.false_ne_true
    simp only [rowSpec, if_neg hfop, and_self]
  · obtain ⟨k, rfl⟩ := Nat.exists_eq_add_of_le h9.2
    have hspec : elemSpec (0x30 + k) w = { reads := [w.src1.toNat], writes := [w.dst.toNat], ext := some w.src1.toNat } := by
      unfold elemSpec
      split
      case h_14 => exact if_neg (by omega)
      all_goals omega
    simp only [hspec, and_self]
  · exact absurd h Bool.false_ne_true

/-- Tiles after a hold is added or taken away. -/
theorem Plot.tile_hold (up : Bool) (ts : List Nat) (x : Plot) (k : Nat) : (x.hold up ts).tile k =
    if k ∈ ts then { x.tile k with held := if up then (x.tile k).held + 1 else (x.tile k).held - 1 } else x.tile k := by
  have hfold : ∀ (l : List Nat) (y : Plot), l.Nodup → (l.foldl (fun (x : Plot) d =>
      x.setTile d { x.tile d with held := if up then (x.tile d).held + 1 else (x.tile d).held - 1 }) y).tile k =
      if k ∈ l then { y.tile k with held := if up then (y.tile k).held + 1 else (y.tile k).held - 1 } else y.tile k := fun l => by
    induction l with
    | nil => exact fun y _ => by simp
    | cons d l ih =>
      intro y hnd
      obtain ⟨hd, htail⟩ := List.nodup_cons.1 hnd
      rw [List.foldl_cons, ih _ htail]
      by_cases hk : k = d
      · subst hk
        simp [hd]
      · simp [hk, Plot.tile_setTile_other]
  unfold Plot.hold
  rw [hfold _ _ (List.nodup_dedup ts)]
  simp only [List.mem_dedup]

/-- A ready word that needs special functions waits for grants at row 0, its tiles HELD. -/
theorem FurrowReady.waits {s : State} {p : PPlot} {op fop : Nat} {w : FurrowWord} {it : ExpItem} (h : FurrowReady s p op fop w it)
    (hf : (fuSfu op fop).isSome = true) {i : Instr} (hi : exec i s = s.fuWordRow p op fop w) : let x := s.plot p.toNat
    ∃ t, exec i s = .next t ∧
      (t.plot p.toNat).fuRun = some ⟨BitVec.ofNat 4 op, BitVec.ofNat 6 fop, w, (s.fuTile x w it).1, (s.fuTile x w it).2, x.fuIndex, 0⟩ ∧
      ((t.plot p.toNat).tile w.dst.toNat).st = .live ∧ 0 < ((t.plot p.toNat).tile w.dst.toNat).held ∧
      0 < ((t.plot p.toNat).tile w.src1.toNat).held ∧
      (∀ k, ((t.plot p.toNat).tile k).data = (x.tile k).data) ∧
      t.mem = s.mem ∧ t.host = s.host ∧ t.canal = s.canal := by
  intro x
  obtain ⟨hreads, hwrites⟩ := fuSpec_of_sfu w hf
  set f : FuRun := ⟨BitVec.ofNat 4 op, BitVec.ofNat 6 fop, w, (s.fuTile x w it).1, (s.fuTile x w it).2, x.fuIndex, 0⟩
  set y := (x.fuAlloc (fuSpec op fop w)).hold true ([w.src1.toNat] ++ [w.dst.toNat]) with hy
  set u := s.setPlot p.toNat { y with fuRun := some f } with hu
  have hexec : exec i s = .next (u.advance p.toNat .furrow) := by
    rw [hi, State.fuWordRow, State.streamRow_head _ h.toAtHead]
    unfold State.furrowWord
    simp only [h.gate, State.enterStores_quiet _ h.sound.2, hf, if_true, hreads, hwrites]
    rfl
  obtain ⟨q, ps, hplot⟩ := State.advance_plot u p.toNat .furrow
  obtain ⟨plots, pools, honly⟩ := State.advance_only u p.toNat .furrow
  rw [hu, State.plot_setPlot, ← hu] at hplot
  have htile : ∀ k, ((u.advance p.toNat .furrow).plot p.toNat).tile k = y.tile k := fun k => by rw [hplot]; rfl
  have hheld : ∀ k, k ∈ [w.src1.toNat] ++ [w.dst.toNat] → 0 < (y.tile k).held := fun k hk => by
    rw [hy, Plot.tile_hold, if_pos hk]
    exact Nat.succ_pos _
  refine ⟨_, hexec, by rw [hplot]; rfl, ?live, ?dst, ?src, fun k => ?data, ?_, ?_, ?_⟩
  case live =>
    rw [htile, hy, Plot.tile_hold, if_pos (by simp), Plot.tile_fuAlloc, hwrites, if_pos (by simp)]
  case dst => rw [htile]; exact hheld _ (by simp)
  case src => rw [htile]; exact hheld _ (by simp)
  case data =>
    rw [htile, hy, Plot.hold_data, Plot.tile_fuAlloc]
    split_ifs <;> rfl
  all_goals rw [honly]; rfl

end Sys2Proof.Machine
end

section
/-! SUPPORT. The row that a grant commits: its results fit a tile's row, and its word goes on to the next row or retires (R213, R218, R219). -/

namespace Sys2Proof.Machine

/-! ### Results of a row fit a tile's row (R218, R219) -/

theorem RowOut.fits_of_length {es : List Word} {b : Option BankRow} {e n d : Bool} (h : es.length ≤ 64) :
    RowOut.Fits { dst := some es, bank := b, empty := e, nan := n, denied := d } :=
  ⟨fun l hl => by obtain rfl := Option.some.inj hl; exact h, fun _ hl => absurd hl nofun⟩

theorem RowOut.fits_of_none {b : Option BankRow} {d : Bool} : RowOut.Fits { bank := b, denied := d } :=
  ⟨fun _ hl => absurd hl nofun, fun _ hl => absurd hl nofun⟩

section
variable {i : RowIn} (h : i.x1.length ≤ 64)
include h

theorem rowSoftmax_fits : (rowSoftmax i).Fits := by
  unfold rowSoftmax
  dsimp only
  split_ifs <;> exact RowOut.fits_of_length (by simpa using h)

theorem rowSoftmaxBlock_fits : (rowSoftmaxBlock i).Fits := by
  unfold rowSoftmaxBlock
  dsimp only
  split_ifs <;> exact RowOut.fits_of_length (by simpa using h)

theorem rowExpSub_fits : (rowExpSub i).Fits := by
  unfold rowExpSub
  dsimp only
  split_ifs <;> exact RowOut.fits_of_length (by simpa using h)

theorem rowRecip_fits : (rowRecip i).Fits := by
  unfold rowRecip
  dsimp only
  split_ifs <;> exact RowOut.fits_of_length (by simpa using h)

theorem rowNorm_fits (rms : Bool) : (rowNorm rms i).Fits := by
  unfold rowNorm
  dsimp only
  split_ifs <;> exact RowOut.fits_of_length (by simpa using h)

theorem rowOp_fits (fop : Nat) : (rowOp fop i).Fits := by
  have hwords : i.b.words.length ≤ 64 := Nat.le_of_eq rfl
  unfold rowOp
  split
  case h_1 => split <;> exact RowOut.fits_of_none
  case h_2 => split <;> exact RowOut.fits_of_none
  case h_7 => split_ifs <;> exact RowIn.lanes_fits i h _
  all_goals simp only [rowSoftmax_fits h, rowSoftmaxBlock_fits h, rowExpSub_fits h, rowRecip_fits h, rowNorm_fits h, RowIn.lanes_fits i h,
    RowOut.fits_of_length hwords]

theorem elemOp_fits (fop : Nat) : (elemOp fop i).Fits := by
  have hzeros : (List.replicate 64 (0 : Word)).length ≤ 64 := Nat.le_of_eq List.length_replicate
  unfold elemOp
  dsimp only
  split <;> simp only [RowIn.lanes_fits i h, RowIn.pair_fits i h, RowOut.fits_of_length hzeros]

end

theorem State.rowIn_x1_fits (s : State) (p op fop : Nat) (w : FurrowWord) (t : TileRef) (reset : Bool) (r : Nat) :
    (s.rowIn p op fop w t reset r).x1.length ≤ 64 := Tile.row_take_length _ _ _

/-- The outcome of a row of any word fits a tile's row. -/
theorem State.fuRow_fits (s : State) (p op fop : Nat) (w : FurrowWord) (t : TileRef) (reset : Bool) (r : Nat) :
    (s.fuRow p op fop w t reset r).Fits := by
  have hx := s.rowIn_x1_fits p op fop w t reset r
  unfold State.fuRow
  dsimp only
  split_ifs
  · exact rowOp_fits hx fop
  · exact elemOp_fits hx fop

/-! ### A granted row committed (R213, R219) -/

/-- A word's retirement leaves the row statistics. -/
theorem Plot.retire_stats (x : Plot) (w : FurrowWord) : (x.retire w).stats = x.stats := by
  unfold Plot.retire Plot.addCounter Plot.freeTile
  dsimp only
  split_ifs <;> rfl

/-- The grants and the rows of a plot are counted apart from what else a granted row counts. -/
theorem grantCtrs_apart (p : Nat) : ctrGrantsFurrow.off p ≠ ctrRows.off p ∧
    ∀ c ∈ [ctrGrantsFurrow, ctrRows], ∀ d ∈ [ctrSfuSteps, ctrEvals, ctrFallbackEvals, ctrEmptyRows, ctrNanRows, ctrWords, ctrFurrowSteps],
      c.off p ≠ d.off p := by
  simp [Ctr.off, Ctr.block, ctrGrantsFurrow, ctrRows, ctrSfuSteps, ctrEvals, ctrFallbackEvals, ctrEmptyRows, ctrNanRows, ctrWords, ctrFurrowSteps]
  omega

/-- The counts of a row: itself, and no grant. -/
theorem State.count_rowCounted_grants (s : State) (p : Nat) (o : RowOut) :
    (s.rowCounted p o).count ctrGrantsFurrow p = s.count ctrGrantsFurrow p ∧
    (s.rowCounted p o).count ctrRows p = satAdd (s.count ctrRows p) 1 := by
  obtain ⟨hrows, hapart⟩ := grantCtrs_apart p
  have hmarks : ∀ c ∈ [ctrGrantsFurrow, ctrRows], (s.rowCounted p o).count c p = (s.bump ctrRows p).count c p := fun c hc => by
    have hempty : ∀ t : State, (t.bump ctrEmptyRows p).count c p = t.count c p := fun t => t.count_bump_other _ (hapart c hc _ (by simp))
    have hnan : ∀ t : State, (t.bump ctrNanRows p).count c p = t.count c p := fun t => t.count_bump_other _ (hapart c hc _ (by simp))
    unfold State.rowCounted
    dsimp only
    split_ifs <;> simp only [hempty, hnan]
  exact ⟨(hmarks _ (by simp)).trans (s.count_bump_other _ hrows), (hmarks _ (by simp)).trans (s.count_bump _ _ _)⟩

/-- A committed row's word at its next row, or retired: its results stand. -/
structure RowLeft (u t : State) (p : Nat) (f : FuRun) (more : Bool) : Prop where
  data : ∀ k, ((t.plot p).tile k).data = ((u.plot p).tile k).data
  stats : (t.plot p).stats = (u.plot p).stats
  fuRun : (t.plot p).fuRun = if more then some { f with row := f.row + 1 } else none
  counts : ∀ c ∈ [ctrGrantsFurrow, ctrRows], t.count c p = u.count c p
  mem : t.mem = u.mem
  host : t.host = u.host
  canal : t.canal = u.canal

/-- What a granted row leaves: its results in DST and in the bank row, every other element, and the word at its next row or out of the
furrow. -/
structure RowEntered (s t : State) (p : Nat) (f : FuRun) (o : RowOut) : Prop where
  elem : ∀ k r l, l < 64 → ((t.plot p).tile k).elem r l =
    if r = f.row then o.lane f.w.dst.toNat k l (((s.plot p).tile k).elem r l) else ((s.plot p).tile k).elem r l
  bank : ∀ b r, r < 64 → (t.plot p).bankRow b r =
    if b = f.w.src2.toNat ∧ r = f.row then o.bank.getD ((s.plot p).bankRow b r) else (s.plot p).bankRow b r
  fuRun : (t.plot p).fuRun =
    if f.row + 1 < (s.plot p).fuRows f.op.toNat f.fop.toNat f.w then some { f with row := f.row + 1 } else none
  grants : t.count ctrGrantsFurrow p = s.count ctrGrantsFurrow p
  rows : t.count ctrRows p = satAdd (s.count ctrRows p) 1
  mem : t.mem = s.mem
  host : t.host = s.host
  canal : t.canal = s.canal

section
variable {s : State} {p : Nat} (f : FuRun) (o : RowOut)

theorem State.rowGranted_left (hr : (s.plot p).running = true) (hp : (s.plot p).pendFail = none) :
    RowLeft (s.commitRow p f.w f.row o) (s.rowGranted p f o) p f (decide (f.row + 1 < (s.plot p).fuRows f.op.toNat f.fop.toNat f.w)) := by
  set u := s.commitRow p f.w f.row o with hu
  by_cases hmore : f.row + 1 < (s.plot p).fuRows f.op.toNat f.fop.toNat f.w
  · have ht : s.rowGranted p f o = u.setPlot p { u.plot p with fuRun := some { f with row := f.row + 1 }, sfuTurn := true } := if_pos hmore
    rw [ht, decide_eq_true hmore]
    exact ⟨fun _ => by rw [State.plot_setPlot]; rfl, by rw [State.plot_setPlot], by rw [State.plot_setPlot]; rfl, fun _ _ => rfl, rfl, rfl, rfl⟩
  · set y : Plot := { (u.plot p).hold false ((fuSpec f.op.toNat f.fop.toNat f.w).reads ++ (fuSpec f.op.toNat f.fop.toNat f.w).writes) with
      sfuTurn := true } with hy
    obtain ⟨ts, ss, honly⟩ := (s.plot p).rowCommitted_only f.w f.row o
    obtain ⟨l, hl⟩ := (u.plot p).hold_only false ((fuSpec f.op.toNat f.fop.toNat f.w).reads ++ (fuSpec f.op.toNat f.fop.toNat f.w).writes)
    have hrun : ((u.setPlot p y).plot p).running = true ∧ ((u.setPlot p y).plot p).pendFail = none := by
      rw [State.plot_setPlot, hy, hl, hu, State.plot_commitRow, honly]
      exact ⟨hr, hp⟩
    have ht : s.rowGranted p f o = (u.setPlot p y).fuRetire p f.w := if_neg hmore
    rw [State.fuRetire_running f.w hrun.1 hrun.2, State.plot_setPlot, State.setPlot_setPlot] at ht
    have htplot : (s.rowGranted p f o).plot p = y.retire f.w := by
      rw [ht, State.plot_bump_eq, State.plot_bump_eq, State.plot_setPlot]
    rw [decide_eq_false hmore]
    refine ⟨fun k => ?data, ?stats, by rw [htplot]; rfl, fun c hc => ?counts, ?_, ?_, ?_⟩
    case data =>
      rw [htplot, Plot.retire_data]
      exact Plot.hold_data false k _ _
    case stats => rw [htplot, Plot.retire_stats, hy, hl]
    case counts =>
      have hapart := (grantCtrs_apart p).2 c hc
      rw [ht, State.count_bump_other _ _ (hapart _ (by simp)), State.count_bump_other _ _ (hapart _ (by simp))]
      rfl
    all_goals rw [ht]; simp

theorem State.rowGranted_enters (hr : (s.plot p).running = true) (hp : (s.plot p).pendFail = none) (hrow : f.row < 64) (ho : o.Fits) :
    RowEntered s (s.rowGranted p f o) p f o := by
  have hleft := State.rowGranted_left f o hr hp
  have hplot := s.plot_commitRow p o f.w f.row
  obtain ⟨-, hmem, hhost, -, -, hcanal⟩ := (s.setPlot p ((s.plot p).rowCommitted f.w f.row o)).rowCounted_leaves p o
  obtain ⟨hgrants, hrows⟩ := (s.setPlot p ((s.plot p).rowCommitted f.w f.row o)).count_rowCounted_grants p o
  refine ⟨fun k r l hl => ?elem, fun b r hb => ?bank, ?run, (hleft.counts _ (by simp)).trans hgrants, (hleft.counts _ (by simp)).trans hrows,
    hleft.mem.trans hmem, hleft.host.trans hhost, hleft.canal.trans hcanal⟩
  case elem =>
    rw [← Plot.elem_rowCommitted (s.plot p) f.w hrow ho k r hl, ← hplot]
    unfold Tile.elem
    rw [hleft.data]
  case bank =>
    rw [← Plot.bankRow_rowCommitted (s.plot p) f.w o hrow hb, ← hplot]
    unfold Plot.bankRow
    rw [hleft.stats]
  case run =>
    rw [hleft.fuRun]
    simp only [decide_eq_true_eq]

end

end Sys2Proof.Machine
end

section
/-! SUPPORT. Grants to the furrow, and the proof about words that wait for them (R218, R219, R248, R250, R256). -/

namespace Sys2Proof.Machine

/-! ### A grant to the furrow as it is counted (R248, R250) -/

/-- A grant to the furrow has been counted; the plots stand, and rows and special functions read what they read before it. -/
structure GrantCounted (s u : State) (p : Nat) : Prop where
  alike : ReadsAlike p s u
  plot : u.plot p = s.plot p
  quiet : ∀ k i, u.seepQuiet k i = s.seepQuiet k i
  grants : u.count ctrGrantsFurrow p = satAdd (s.count ctrGrantsFurrow p) 1
  rows : u.count ctrRows p = s.count ctrRows p
  host : u.host = s.host
  canal : u.canal = s.canal

theorem grantCounted_bump (s : State) (p : Nat) : GrantCounted s (s.bump ctrGrantsFurrow p) p :=
  ⟨readsAlike_bump _ _ _ _ _, s.plot_bump_eq _ _ _ _, State.seepQuiet_congr (s.bump_armed _ _ _) (s.bump_inject _ _ _), s.count_bump _ _ _,
    s.count_bump_other _ (grantCtrs_apart p).1.symm, s.bump_host _ _ _, s.bump_canal _ _ _⟩

section
variable {s u : State} {p : Nat}

/-- What else a grant counts. -/
theorem GrantCounted.bump (h : GrantCounted s u p) {c : Ctr} (hc : c ∈ [ctrSfuSteps, ctrEvals, ctrFallbackEvals]) (k : Nat) :
    GrantCounted s (u.bump c p k) p := by
  have hapart : ∀ d ∈ [ctrGrantsFurrow, ctrRows], d.off p ≠ c.off p := fun d hd =>
    (grantCtrs_apart p).2 d hd c (by revert hc; simp only [List.mem_cons, List.not_mem_nil, or_false]; tauto)
  exact ⟨h.alike.trans (readsAlike_bump _ _ _ _ _), (u.plot_bump_eq _ _ _ _).trans h.plot,
    fun x i => (State.seepQuiet_congr (u.bump_armed _ _ _) (u.bump_inject _ _ _) x i).trans (h.quiet x i),
    (u.count_bump_other _ (hapart _ (by simp))).trans h.grants, (u.count_bump_other _ (hapart _ (by simp))).trans h.rows,
    (u.bump_host _ _ _).trans h.host, (u.bump_canal _ _ _).trans h.canal⟩

theorem GrantCounted.rowIn (h : GrantCounted s u p) (op fop : Nat) (w : FurrowWord) (t : TileRef) (reset : Bool) (r : Nat) :
    u.rowIn p op fop w t reset r = s.rowIn p op fop w t reset r := by
  refine h.alike.rowIn ?_ ?_ ?_ ?_ op fop w t reset <;> exact fun _ => by rw [h.plot]

theorem GrantCounted.fuRow (h : GrantCounted s u p) (op fop : Nat) (w : FurrowWord) (t : TileRef) (reset : Bool) (r : Nat) :
    u.fuRow p op fop w t reset r = s.fuRow p op fop w t reset r := by
  unfold State.fuRow
  rw [h.rowIn]

end

/-- A grant is counted with its steps, and passes its checks where no seep acts on the cluster. -/
theorem grantCounted_steps {s : State} {p : Nat} (hs : s.seepQuiet .sfu p = true) (steps : Nat) :
    let u := (s.bump ctrGrantsFurrow p).bump ctrSfuSteps p steps
    GrantCounted s u p ∧ ∀ qs furrow g, u.sfuCheck p qs furrow g = (u, none) := by
  have hu := (grantCounted_bump s p).bump (c := ctrSfuSteps) (by simp) steps
  exact ⟨hu, State.sfuCheck_quiet ((hu.quiet _ _).trans hs)⟩

theorem fuSfu_special {fop : Nat} (h : 0x30 ≤ fop) : fuSfu 9 fop = some (some (fop - 0x30), none) := by
  unfold fuSfu
  rw [if_neg (by decide), if_pos ⟨rfl, h⟩]

/-- A word whose code is no micro-program asks for hardware functions alone. -/
theorem fuSfu_code_lt {op fop : Nat} (h : op = 9 → fop < 0x3A) :
    ((((fuSfu op fop).getD (none, none)).1.orElse fun _ => ((fuSfu op fop).getD (none, none)).2).getD 0) < 10 := by
  unfold fuSfu
  split_ifs with h8 h9
  · split <;> decide
  · have := h h9.1
    show fop - 0x30 < 10
    omega
  · decide

/-- SFU_GRANT where the furrow's word waits, and its turn has come. -/
theorem exec_sfuGrant_furrow {s : State} {p : PPlot} {f : FuRun} (hr : s.runs = true) (hb : (s.plot p.toNat).microBusy = false)
    (hf : (s.plot p.toNat).fuRun = some f) (hq : (s.plot p.toNat).sfuQ = [] ∨ (s.plot p.toNat).sfuTurn = false) :
    exec (.sfuGrant p) s = .next (s.furrowGrant p.toNat f) := by
  show execSfuGrant p s = _
  rw [execSfuGrant, State.issue_runs _ _ hr]
  dsimp only
  rw [hb, hf]
  rcases hq with hq | hq <;> simp [hq]

/-- A grant without micro-programs commits the row that waits. -/
theorem State.furrowGrant_row {s : State} {p : Nat} {f : FuRun} (hs : s.seepQuiet .sfu p = true) (hop : f.op.toNat = 9 → f.fop.toNat < 0x3A) :
    ∃ u, GrantCounted s u p ∧ s.furrowGrant p f = u.grantedRow p f (s.fuRow p f.op.toNat f.fop.toNat f.w f.tile f.reset f.row) := by
  have hcode := fuSfu_code_lt hop
  unfold State.furrowGrant
  extract_lets op fop codes i n k code own cost l steps list args s1
  obtain ⟨hcount, hcheck⟩ := grantCounted_steps hs steps
  refine ⟨s1.sfuDone p list, (hcount.bump (by simp) _).bump (by simp) _, ?_⟩
  have hno : ¬(10 ≤ code ∧ 0 < n) := fun h => absurd h.1 (Nat.not_le.2 hcode)
  simp only [s1, hcheck, if_neg hno, hcount.fuRow]
  rfl

/-! ### The listed activations and special functions (R218, R219) -/

theorem elemOp_special (c : Nat) (i : RowIn) : elemOp (0x30 + c) i = i.lanes fun x _ => i.f c x := by
  unfold elemOp
  dsimp only
  split
  case h_23 => rw [Nat.add_sub_cancel_left]
  all_goals omega

section
variable {s : State} {p : Nat} {w : FurrowWord} {t : TileRef} {reset : Bool} {r l : Nat}
  (hr : r < ((s.plot p).tile w.src1.toNat).rows) (hc : ((s.plot p).tile w.src1.toNat).cols ≤ 64)
  (hl : l < ((s.plot p).tile w.src1.toNat).cols) (d : Nat) (old : Word)
include hr

theorem State.rowIn_x1 {op fop : Nat} (hop : ¬(op = 9 ∧ fop = 0x28)) :
    (s.rowIn p op fop w t reset r).x1 = (((s.plot p).tile w.src1.toNat).row r).take ((s.plot p).tile w.src1.toNat).cols := by
  unfold State.rowIn
  dsimp only
  rw [if_neg hop, if_pos hr]

include hc hl

/-- A lane of a row that applies a function to each valid lane of SRC1. -/
theorem State.fuRow_lane {op fop : Nat} {g : Word → Word} (hop : ¬(op = 9 ∧ fop = 0x28))
    (hg : s.fuRow p op fop w t reset r = (s.rowIn p op fop w t reset r).lanes fun x _ => g x) :
    (s.fuRow p op fop w t reset r).lane d d l old = g (((s.plot p).tile w.src1.toNat).elem r l) := by
  rw [hg, RowIn.lanes_lane, State.rowIn_x1 hr hop, Tile.getElem?_row_take _ hr hc, if_pos hl]
  rfl

/-- A lane of a row of an activation or of a hardware function. -/
theorem State.fuRow_listed : let F := s.sfuEval p
    ∀ y ∈ ([(8, 0x19, fun x => fmul x (F 4 x)), (8, 0x1A, geluTanh F), (8, 0x1B, F 4), (8, 0x1C, F 5)] ++
        (List.range 10).map (fun c => (9, 0x30 + c, F c)) : List (Nat × Nat × (Word → Word))),
      (s.fuRow p y.1 y.2.1 w t reset r).lane d d l old = y.2.2 (((s.plot p).tile w.src1.toNat).elem r l) := by
  intro F
  refine List.forall_mem_append.2 ⟨?_, fun y hy => ?_⟩
  · simp only [List.forall_mem_cons]
    exact ⟨State.fuRow_lane (g := fun x => fmul x (F 4 x)) hr hc hl d old (by decide) rfl, State.fuRow_lane hr hc hl d old (by decide) rfl,
      State.fuRow_lane hr hc hl d old (by decide) rfl, State.fuRow_lane hr hc hl d old (by decide) rfl,
      fun _ hnil => absurd hnil List.not_mem_nil⟩
  · obtain ⟨c, -, rfl⟩ := List.mem_map.1 hy
    exact State.fuRow_lane hr hc hl d old (show ¬(9 = 9 ∧ 0x30 + c = 0x28) by omega) (elemOp_special c _)

end

theorem RowOut.lane_dst {o : RowOut} {es : List Word} (h : o.dst = some es) (d : Nat) {l : Nat} (hl : l < es.length) (old : Word) :
    o.lane d d l old = es.getD l 0 := by
  have hlanes : o.lanesOf d d = some es := (if_pos rfl).trans h
  rw [RowOut.lane, hlanes]
  simp [hl]

/-! ### Micro-programs begun for a row (R256) -/

theorem Plot.micro_beginMicro (x : Plot) (lane slot : Nat) (arg : Word) (user : MicroUser) :
    (x.beginMicro lane slot arg user).micro = sput ({} : MicroLane) x.micro lane ⟨microSet [] 0 arg, slot, 0, some user⟩ := rfl

/-- Requests of a row begun on the lanes listed, in order. -/
def Plot.beginRow (x : Plot) (slot : Nat) (args : List Word) (lanes : List Nat) : Plot :=
  lanes.zipIdx.foldl (fun y c => y.beginMicro c.1 slot (args.getD c.2 0) (.row c.2)) x

section
variable (x : Plot) (slot : Nat) (args : List Word)

theorem Plot.beginRow_concat (lanes : List Nat) (a : Nat) : x.beginRow slot args (lanes ++ [a]) =
    (x.beginRow slot args lanes).beginMicro a slot (args.getD lanes.length 0) (.row lanes.length) := by
  unfold Plot.beginRow
  simp [List.zipIdx_append]

theorem Plot.beginRow_only (lanes : List Nat) : ∃ m, x.beginRow slot args lanes = { x with micro := m } := by
  induction lanes using List.reverseRecOn with
  | nil => exact ⟨_, rfl⟩
  | append_singleton lanes a ih =>
    obtain ⟨m, hm⟩ := ih
    rw [x.beginRow_concat, hm]
    exact ⟨_, rfl⟩

/-- Each lane has the request of its place in the list. -/
theorem Plot.micro_beginRow {lanes : List Nat} (hnd : lanes.Nodup) : ∀ j < lanes.length,
    sget ({} : MicroLane) (x.beginRow slot args lanes).micro (lanes.getD j 0) = ⟨microSet [] 0 (args.getD j 0), slot, 0, some (.row j)⟩ := by
  induction lanes using List.reverseRecOn with
  | nil => exact fun j hj => absurd hj (Nat.not_lt_zero j)
  | append_singleton lanes a ih =>
    intro j hj
    obtain ⟨hlanes, ha⟩ : lanes.Nodup ∧ a ∉ lanes := by
      rw [List.nodup_append] at hnd
      exact ⟨hnd.1, fun h => hnd.2.2 a h a (by simp) rfl⟩
    rw [x.beginRow_concat, Plot.micro_beginMicro]
    by_cases hlast : j = lanes.length
    · subst hlast
      simp [sget_sput_same]
    · have hlt : j < lanes.length := by
        rw [List.length_append, List.length_singleton] at hj
        omega
      have hother : lanes.getD j 0 ≠ a := fun e => ha (by
        rw [← e, List.getD_eq_getElem _ _ hlt]
        exact List.getElem_mem hlt)
      rw [List.getD_append _ _ _ _ hlt, sget_sput_other _ _ _ _ hother]
      exact ih hlanes j hlt

end

/-- A grant to a word whose code is a micro-program begins it on the lanes in service. -/
theorem State.furrowGrant_micro {s : State} {p : Nat} {f : FuRun} (hs : s.seepQuiet .sfu p = true) (hop : f.op.toNat = 9)
    (hfop : 0x3A ≤ f.fop.toNat) (hn : 0 < (s.rowIn p f.op.toNat f.fop.toNat f.w f.tile f.reset f.row).x1.length) :
    let x1 := (s.rowIn p f.op.toNat f.fop.toNat f.w f.tile f.reset f.row).x1
    let lanes := (s.sfuLaneList p).take x1.length
    ∃ u, GrantCounted s u p ∧ s.furrowGrant p f =
      u.setPlot p { (s.plot p).beginRow (f.fop.toNat - 0x3A) x1 lanes with mpNext := lanes.length, mpOut := [], sfuTurn := true } := by
  intro x1 lanes
  unfold State.furrowGrant
  extract_lets op fop codes i n k code own cost l steps list args s1
  obtain ⟨hcount, hcheck⟩ := grantCounted_steps hs steps
  have hcodes : codes = (some (f.fop.toNat - 0x30), none) := by
    show (fuSfu f.op.toNat f.fop.toNat).getD (none, none) = _
    rw [hop, fuSfu_special (by omega), Option.getD_some]
  have hcode : code = f.fop.toNat - 0x30 := by simp only [code, hcodes]; rfl
  have hlen : n = x1.length := by simp only [n, hcodes]; rfl
  have hargs : args = x1 := if_neg (by omega)
  have hgo : 10 ≤ f.fop.toNat - 0x30 ∧ 0 < x1.length := ⟨by omega, hn⟩
  have hslot : f.fop.toNat - 0x30 - 10 = f.fop.toNat - 0x3A := by omega
  refine ⟨s1, hcount, ?_⟩
  simp only [s1, hcheck, hcode, hlen, if_pos hgo, hcount.alike.sfuLaneList, hcount.plot, hargs, hslot]
  rfl

section
variable {s : State} {p : PPlot} {f : FuRun} (hr : s.runs = true) (hb : (s.plot p.toNat).microBusy = false)
  (hf : (s.plot p.toNat).fuRun = some f) (hq : (s.plot p.toNat).sfuQ = [] ∨ (s.plot p.toNat).sfuTurn = false)
  (hs : s.seepQuiet .sfu p.toNat = true)
include hr hb hf hq hs

/-- SFU_GRANT commits the row at which a word without micro-programs waits. -/
theorem sfuGrant_commits (hrun : (s.plot p.toNat).running = true) (hfq : s.seepQuiet .furrow p.toNat = true)
    (hp : (s.plot p.toNat).pendFail = none) (hrow : f.row < 64) (hop : f.op.toNat = 9 → f.fop.toNat < 0x3A) :
    ∃ u t, GrantCounted s u p.toNat ∧ exec (.sfuGrant p) s = .next t ∧
      RowEntered u t p.toNat f (s.fuRow p.toNat f.op.toNat f.fop.toNat f.w f.tile f.reset f.row) := by
  obtain ⟨u, hu, hgrant⟩ := State.furrowGrant_row hs hop
  rw [State.grantedRow_quiet f _ ((hu.quiet _ _).trans hfq)] at hgrant
  exact ⟨u, _, hu, (exec_sfuGrant_furrow hr hb hf hq).trans (congrArg _ hgrant),
    State.rowGranted_enters f _ (by rw [hu.plot]; exact hrun) (by rw [hu.plot]; exact hp) hrow (s.fuRow_fits _ _ _ _ _ _ _)⟩

/-- SFU_GRANT begins a micro-program for the first requests of the row that waits. -/
theorem sfuGrant_begins (hop : f.op.toNat = 9) (hfop : 0x3A ≤ f.fop.toNat) : let x := s.plot p.toNat; let src := x.tile f.w.src1.toNat
    f.row < src.rows → 0 < src.cols → src.cols ≤ 64 → let lanes := (s.sfuLaneList p.toNat).take src.cols
    ∃ t, exec (.sfuGrant p) s = .next t ∧ (t.plot p.toNat).fuRun = some f ∧ (t.plot p.toNat).mpNext = lanes.length ∧
      (t.plot p.toNat).mpOut = [] ∧ (∀ k, (t.plot p.toNat).tile k = x.tile k) ∧
      (∀ j < lanes.length, sget ({} : MicroLane) (t.plot p.toNat).micro (lanes.getD j 0)
        = ⟨microSet [] 0 (src.elem f.row j), f.fop.toNat - 0x3A, 0, some (.row j)⟩) ∧
      t.count ctrGrantsFurrow p.toNat = satAdd (s.count ctrGrantsFurrow p.toNat) 1 ∧ t.mem = s.mem ∧ t.host = s.host ∧ t.canal = s.canal := by
  intro x src hrows hcols hc64 lanes
  set x1 := (s.rowIn p.toNat f.op.toNat f.fop.toNat f.w f.tile f.reset f.row).x1 with hx1
  have hx : x1 = (src.row f.row).take src.cols := State.rowIn_x1 hrows (by omega)
  have hlen : x1.length = src.cols := by
    rw [hx, List.length_take, Tile.row, List.length_map, List.length_range, Nat.min_eq_left hc64]
  obtain ⟨u, hu, hgrant⟩ := State.furrowGrant_micro hs hop hfop (by rw [← hx1, hlen]; exact hcols)
  rw [← hx1, hlen] at hgrant
  obtain ⟨m, hm⟩ := x.beginRow_only (f.fop.toNat - 0x3A) x1 lanes
  have hnd : lanes.Nodup := (List.nodup_range.filter _).sublist (List.take_sublist _ _)
  have hlane : ∀ j < lanes.length, x1.getD j 0 = src.elem f.row j := fun j hj => by
    have hjc : j < src.cols := Nat.lt_of_lt_of_le hj (List.length_take_le _ _)
    rw [List.getD_eq_getElem?_getD, hx, Tile.getElem?_row_take _ hrows hc64, if_pos hjc]
    rfl
  refine ⟨_, (exec_sfuGrant_furrow hr hb hf hq).trans (congrArg _ hgrant), ?_, ?_, ?_, fun k => ?_, fun j hj => ?_, hu.grants, hu.alike.mem,
    hu.host, hu.canal⟩
  · rw [State.plot_setPlot, hm]; exact hf
  · rw [State.plot_setPlot]
  · rw [State.plot_setPlot]
  · rw [State.plot_setPlot, hm]; rfl
  · rw [State.plot_setPlot, ← hlane j hj]
    exact x.micro_beginRow (f.fop.toNat - 0x3A) x1 hnd j hj

end

/-- Settles O50: a word's issue, a grant that commits its row, and a grant that begins its row's micro-programs. -/
theorem grantedWordsEnterRows : Obligations.GrantedWordsEnterRows := by
  unfold Obligations.GrantedWordsEnterRows
  refine ⟨fun s p w it code => ?issues, fun s p f => ?grants⟩
  case issues =>
    have hspecial : (fuSfu 9 (0x30 + code.toNat)).isSome = true := by simp [fuSfu]
    simp only [List.forall_mem_cons]
    exact ⟨fun h => h.waits rfl rfl, fun h => h.waits rfl rfl, fun h => h.waits rfl rfl, fun h => h.waits rfl rfl, fun h => h.waits rfl rfl,
      fun h => h.waits rfl rfl, fun h => h.waits rfl rfl, fun h => h.waits rfl rfl, fun h => h.waits rfl rfl, fun h => h.waits rfl rfl,
      fun h => h.waits hspecial rfl, fun _ hnil => absurd hnil List.not_mem_nil⟩
  case grants =>
    intro x o d src F row hr hrun hb hf hq hs hfq hp hrow hc64
    refine ⟨fun hop => ?_, fun hop hfop hrows hcols => sfuGrant_begins hr hb hf hq hs (congrArg BitVec.toNat hop) hfop hrows hcols hc64⟩
    obtain ⟨u, t, hu, hexec, ht⟩ := sfuGrant_commits hr hb hf hq hs hrun hfq hp hrow fun h => hop (BitVec.eq_of_toNat_eq h)
    have helem := ht.elem d f.row
    refine ⟨t, hexec, fun lanes hdst hlen l hl => ?lanes, fun b hbank => ?bank, fun y hy h1 h2 hrows l hl => ?listed,
      fun r l hne hr64 hl => ?others, ?run, ht.grants.trans hu.grants, ?rows, ht.mem.trans hu.alike.mem, ht.host.trans hu.host,
      ht.canal.trans hu.canal⟩
    case lanes =>
      rw [helem l (by omega), if_pos rfl]
      exact RowOut.lane_dst hdst d hl _
    case bank =>
      rw [ht.bank _ _ hrow, if_pos ⟨rfl, rfl⟩]
      show o.bank.getD _ = b
      rw [hbank]
      rfl
    case listed =>
      have hlane := State.fuRow_listed (t := f.tile) (reset := f.reset) hrows hc64 hl d (((u.plot p.toNat).tile d).elem f.row l) y hy
      rw [← h1, ← h2] at hlane
      rw [helem l (by omega), if_pos rfl]
      exact hlane
    case others =>
      rw [ht.elem _ _ _ hl, if_neg hne, hu.plot]
    case run => rw [ht.fuRun, hu.plot]
    case rows => rw [ht.rows, hu.rows]

end Sys2Proof.Machine
end
